-- ==== Sys2Proof/Word.lean ====
section
/-! DEFINITION. The word types of the EVX-40 model and their plainest arithmetic. -/

namespace Sys2Proof

/-- A byte of device memory (00_scope R7: little-endian memory). -/
abbrev Byte := BitVec 8
/-- A status or error code (00_scope R14): class in bits [15:12], detail in [11:0]. -/
abbrev Code := BitVec 16
/-- A 4-byte register value (00_scope R11). -/
abbrev Reg32 := BitVec 32
/-- A steward general register (11_steward R337) or a caravan time (00_scope R9). -/
abbrev Word64 := BitVec 64
/-- A number of caravan-time nanoseconds (00_scope R9). -/
abbrev CTime := BitVec 64

/-- A sparse table of like things by number: entries in rising order of the number; a number without an entry holds the
table's default, which the accessor names. -/
abbrev Tab (α : Type) := List (Nat × α)

/-- The class of a status code (00_scope R14). -/
def Code.cls (c : Code) : Nat := c.toNat / 4096

/-- The detail of a status code (00_scope R14). -/
def Code.detail (c : Code) : Nat := c.toNat % 4096

end Sys2Proof
end

