-- ==== Sys2Proof/Syntax.lean ====
section
/-! DEFINITION. The commands of the EVX-40: one constructor of `Instr` per row of spec/opcode_table.json, each one
indivisible step (spec/95_what_each_step_holds.md), with the operands that the step takes from outside the machine. -/

namespace Sys2Proof

/-- Who makes a register access (02_package R37, 10_streams R305, 11_steward R336, 13_host R395): a steward at its current
level, the management core, the loader, or the host through BAR0 of a function. -/
inductive Agent where
  | steward (st : Fin 264)
  | management
  | loader
  | bar0 (f : Fin 9)
  deriving DecidableEq, Repr

/-- One access to a 128-byte line at its home die cache (02_package R49, R50): the partition that makes it (none for
firmware and the PF), the line's address, what it does, and how many symbols of each half have gone bad in the tier since
the last access (R42; the environment's part of the step). -/
structure CacheAccess where
  partition : Option (Fin 8)
  /-- the steward whose task makes the access, if one does -/
  task : Option (Fin 264)
  addr : Nat
  /-- the byte offset and the bytes of a write within the line; none for a read -/
  write : Option (Nat × List Byte)
  noAllocate : Bool
  arisenLow : Nat
  arisenHigh : Nat
  deriving DecidableEq, Repr

/-- A supervisor slot (12_partitions R387) as hub firmware takes it from supervisor queue `queue`. -/
structure SupSlot where
  queue : Fin 16
  arg0 : BitVec 32
  arg1 : BitVec 64
  arg2 : BitVec 64
  arg3 : BitVec 64
  compl : BitVec 64
  deriving DecidableEq, Repr

/-- A declared buffer or placement: tier (true LPDDR5X), base and size in bytes (00_scope R5, 05_macro R156). -/
structure Extent where
  lpd : Bool
  base : Nat
  size : Nat
  deriving DecidableEq, Repr

/-- A live-range map (12_partitions R377). -/
structure LiveMap where
  address : Nat
  gmask : BitVec 32
  dataRanges : List (Nat × Nat)
  localRanges : List (Nat × Nat)
  deriving DecidableEq, Repr

/-- An entry of the tempo-point table (12_partitions R376). -/
structure TempoEntry where
  pc : Nat
  point : Nat
  map : LiveMap
  deriving DecidableEq, Repr

/-- A command word that the image declares (05_macro R481): where it lies, who issues it (a die, or 4 for the hub), the
length of the descriptor table it indexes, and the declared duration bound in microseconds where its work is not fixed. -/
structure DeclaredCommand where
  address : Nat
  issuer : Fin 5
  tableLength : Nat
  durationUs : Option Nat
  deriving DecidableEq, Repr

/-- A stretch of work between two tempo points (05_macro R156, `0x1017`): its commands and a loop bound. -/
structure Stretch where
  commands : List DeclaredCommand
  loop : Nat
  deriving DecidableEq, Repr

/-- A declared caravan layer (01_caravan R24, 05_macro R481). -/
structure CaravanLayer where
  gated : Bool
  steps : List (List Nat)
  deriving DecidableEq, Repr

/-- The bales `first` to `first + count - 1` of a sequence, in every head group, have the ring position `origin` (01_caravan R20). -/
structure ShardRange where
  seq : Nat
  first : Nat
  count : Nat
  origin : Nat
  deriving DecidableEq, Repr

/-- What an image with caravan layers declares besides them (01_caravan R20, R29, R30; 07_kv R232; log 111): the shard map, the head groups of
a chain, the sizes of a bale and of a survey record, the view root of the own bale table and those of the two transit tables, the
survey table of each origin, the length of a step in ct, and the caravan area. -/
structure CaravanDecl where
  shards : List ShardRange
  groups : Nat
  baleBytes : Nat
  recordBytes : Nat
  view : Nat
  transit0 : Nat
  transit1 : Nat
  surveys : List (Nat × Nat)
  stepCt : Nat
  area : Extent
  deriving DecidableEq, Repr

/-- What a convoy image declares to the loader (05_macro R481, 12_partitions R376). The manual gives no file format for
the image as a whole (log 12), so its declarations are the operand of CTX_LOAD; the words, descriptors and tables that
they name lie in device memory. -/
structure Image where
  wellFormed : Bool
  footprint : List (Fin 128)
  placements : List Extent
  buffers : List Extent
  commands : List DeclaredCommand
  /-- partial buffers: base address, largest products per window word -/
  partials : List (Nat × Nat)
  /-- the tempo-point table, the hold table and the live-range map section, and where the section lies (12_partitions R376) -/
  tempoTable : List Byte
  holdTable : List Byte
  mapSection : List Byte
  mapBase : Nat
  stretches : List Stretch
  layers : List CaravanLayer
  /-- pairs of tempo-point maps of the two stewards of one EC, by index into the tempo-point table -/
  points : List (List Nat × List Nat)
  resume : Nat
  bytes : List Byte
  /-- the declarations of its caravan -/
  caravan : Option CaravanDecl := none
  deriving DecidableEq, Repr

/-- A message of a Route link (09_route R274, R275): the header and the head payload; body bytes in `body`. -/
structure Message where
  type : Byte
  toPartner : Bool
  vc : Fin 8
  len : Nat
  src : BitVec 16
  dst : BitVec 16
  ring : BitVec 16
  step : BitVec 16
  seq : BitVec 32
  addr : BitVec 48
  plen : Nat
  dpart : Fin 8
  /-- the fields of the head payload, in the order of 09_route R275 -/
  head : List Nat
  body : List Byte
  deriving DecidableEq, Repr

/-- A frame as it reaches a receiver (09_route R273): the messages whose last flit it carries, its trailer, and whether
its CRC is good. -/
structure Frame where
  crcOk : Bool
  fseq : BitVec 16
  ackSeq : BitVec 16
  ackValid : Bool
  nak : Bool
  fill : Nat
  credits : Vector (BitVec 16) 8
  messages : List Message
  deriving DecidableEq, Repr

/-- The identity record of IDENT (09_route R284). -/
structure IdentRec where
  loc : BitVec 16
  port : Fin 24
  group : Fin 3
  isSwitch : Bool
  digest : BitVec 64
  stepping : BitVec 16
  ringId : BitVec 16
  position : BitVec 16
  synced : Bool
  deriving DecidableEq, Repr

/-- A field of a function's configuration space that the manual names (13_host R389, R391 to R394, R405, R406): the words of the BARs and, in
the PF's SR-IOV capability, of the VFs' BARs stand two to a BAR, lower word first. -/
inductive ConfigField where
  | vendorId | deviceId | revisionId | classCode | vfEnable | numVfs | totalVfs | firstVfOffset | vfStride
  | msixEnable | functionMask | powerState
  | maxPayload | maxReadRequest | tenBitTags | atsEnable | atsQueueDepth | pasidEnable | pasidWidth
  | aerStatus | aerMask | aerSeverity | aerCorrectableStatus | aerCorrectableMask
  | bar (n : Fin 6)
  | vfBar (n : Fin 6)
  deriving DecidableEq, Repr

/-- What a doorbell meets: what the read of its host ring returns (13_host R403), the slots, or a refused translation, or poisoned data; or the
write of the doorbell is poisoned itself (R399). -/
inductive HostRead where
  | slots (bytes : List Byte)
  | refused
  | poisoned
  | poisonedWrite
  deriving DecidableEq, Repr

/-- The data of a host's write; a poisoned one has none that counts (13_host R399). -/
inductive HostWrite where
  | data (bytes : List Byte)
  | poisoned
  deriving DecidableEq, Repr

/-- The commands of the EVX-40: the rows of spec/opcode_table.json. -/
inductive Instr where
  /-- MATMUL (05_macro_tiling R132): Macro-instruction that computes C := A × Bᵀ per batch over the crew's tiles. -/
  | matmul (die : Fin 4) (acc : Nat)
  /-- CHAIN (05_macro_tiling R153): Macro-instruction that computes g(f(A × Bᵀ) × Dᵀ) per row block in three phases on one engine. -/
  | chain (die : Fin 4) (acc : Nat)
  /-- COMBINE (05_macro_tiling R152): Macro-instruction that adds P partial planes per output tile and rounds the sum once or writes it unrounded. -/
  | combine (die : Fin 4) (acc : Nat)
  /-- NORM (05_macro_tiling R135): Macro-instruction that applies layer or RMS normalization to every row of X. -/
  | norm (die : Fin 4) (acc : Nat)
  /-- ROWFN (05_macro_tiling R136): Macro-instruction that applies one row function to every row of X, with an optional mask. -/
  | rowfn (die : Fin 4) (acc : Nat)
  /-- EXPAND (07_kv_bales R216): Macro-instruction that expands latent bales into K and V through the up-projections. -/
  | expand (die : Fin 4) (acc : Nat)
  /-- ATTEND (06_attend R160): Macro-instruction that computes soft-maximum attention of query blocks over selected bales and resolves each step triple under FOLD. -/
  | attend (die : Fin 4) (acc : Nat)
  /-- ATTEND_BWD (06_attend R189): Macro-instruction that runs the query sweep or the key sweep of the attention backward pass. -/
  | attendBwd (die : Fin 4) (acc : Nat)
  /-- GAMBIT_COMMIT (06_attend R187): Macro-instruction that checks every gambit record, then copies the accepted candidates down, advances COMMITTED and rewinds the rest. -/
  | gambitCommit (die : Fin 4) (acc : Nat)
  /-- APPEND (07_kv_bales R218): APPEND_KV operation 0, which writes rows to the chains and advances NTOK and NCOMMIT. -/
  | append (die : Fin 4) (acc : Nat)
  /-- APPEND_TENTATIVE (07_kv_bales R218): APPEND_KV operation 1, which writes candidate rows and advances NTOK only. -/
  | appendTentative (die : Fin 4) (acc : Nat)
  /-- ATTACH_PREFIX (07_kv_bales R224): APPEND_KV operation 2, which attaches matching shared prefix bales to an empty sequence. -/
  | attachPrefix (die : Fin 4) (acc : Nat)
  /-- PUBLISH_PREFIX (07_kv_bales R225): APPEND_KV operation 3, which publishes full committed bales as prefix nodes. -/
  | publishPrefix (die : Fin 4) (acc : Nat)
  /-- TRUNCATE (07_kv_bales R218): APPEND_KV operation 4, which sets NTOK and NCOMMIT to LENGTH_p and releases the bales beyond it. -/
  | truncate (die : Fin 4) (acc : Nat)
  /-- COPY (10_streams R317): Macro-instruction that arms one KIND 0 stream and completes when the stream ends. -/
  | copy (port : Fin 5) (acc : Nat)
  /-- GATHER (10_streams R317): Macro-instruction that arms one KIND 1 gather stream. -/
  | gather (port : Fin 5) (acc : Nat)
  /-- SCATTER (10_streams R317): Macro-instruction that arms one KIND 2 scatter stream. -/
  | scatter (port : Fin 5) (acc : Nat)
  /-- SEARCH (08_dragoman R249): Macro-instruction for nearest-neighbour search: coarse step, probe, scan, re-rank and result. -/
  | search (die : Fin 4) (acc : Nat)
  /-- SELECT_BALES (08_dragoman R260): Macro-instruction that selects bales of one source for each query block and writes bale lists and want bits. -/
  | selectBales (die : Fin 4) (acc : Nat)
  /-- ORDER_SIGNAL (11_steward_isa R355): Queued ordering command that waits for the commands ahead of it and then signals or releases a pair once. -/
  | orderSignal (port : Fin 5) (acc : Nat)
  /-- ORDER_WAIT (11_steward_isa R355): Queued ordering command that performs one acquisition before later commands of the crew queues start. -/
  | orderWait (port : Fin 5) (acc : Nat)
  /-- ORDER_TEMPO (11_steward_isa R355): Queued ordering command that holds the crew queues while the context has a pre-emption request. -/
  | orderTempo (port : Fin 5) (acc : Nat)
  /-- ORDER_BARRIER (11_steward_isa R355): Queued ordering command that passes once caravan time reaches TIME. -/
  | orderBarrier (port : Fin 5) (acc : Nat)
  /-- COMMAND_START (05_macro_tiling R121): A tile sequencer starts a queued command once the earlier commands have started and its units are free, repeating the start checks. -/
  | commandStart (unit : Fin 131)
  /-- TILE_TAKE (05_macro_tiling R146): An engine takes the tile at the head of its EC's grant window. -/
  | tileTake (ec : Fin 128) (eng : Fin 2) (acc : Nat)
  /-- TILE_GRANT (05_macro_tiling R146): The ledger grants GRANT tiles from NEXT to an engine whose window is empty. -/
  | tileGrant (ec : Fin 128) (eng : Fin 2) (acc : Nat)
  /-- TILE_STEAL (05_macro_tiling R146): An engine with an empty window steals half of the largest window, or leaves the instruction. -/
  | tileSteal (ec : Fin 128) (eng : Fin 2) (acc : Nat)
  /-- VECTOR_ENTRY (04_matrix_engine R95): A vector enters the entry register and passes the fixed stages down the group registers, or a bubble is sent. -/
  | vectorEntry (ec : Fin 128) (eng : Fin 2)
  /-- FEEDER_FILL (04_matrix_engine R102): A broadcast or feeder queue entry is filled from a local-store bank. -/
  | feederFill (ec : Fin 128) (eng : Fin 2) (lane : Option (Fin 256))
  /-- RESIDENT_BUFFER_LOAD (04_matrix_engine R104): A lane loads its free resident buffer from its feeder queue once the chunk is present. -/
  | residentBufferLoad (ec : Fin 128) (eng : Fin 2) (lane : Fin 256)
  /-- ACCUMULATOR_DRAIN (04_matrix_engine R114): A region drains one word per lane per cycle, either rounded to the output format or as a K-split partial. -/
  | accumulatorDrain (ec : Fin 128) (eng : Fin 2)
  /-- COMBINE_STEP (05_macro_tiling R150): The engine whose drain completes an output tile's K ranges adds the partial planes and rounds them once into C. -/
  | combineStep (ec : Fin 128) (eng : Fin 2)
  /-- MACRO_COMPLETE (05_macro_tiling R122): The ledger writes the completion record once every tile and combine step has drained, then signals if SIGNAL is set. -/
  | macroComplete (port : Fin 5) (acc : Nat)
  /-- ROW_TILE (05_macro_tiling R480): The row unit processes one row tile of NORM, ROWFN or CHAIN over its passes. -/
  | rowTile (ec : Fin 128) (acc : Nat)
  /-- SCORE_STORE_GRANT (06_attend R168): A free score store is given to the waiting requester that asked first. -/
  | scoreStoreGrant (ec : Fin 128)
  /-- SPAN_PASS_ONE (06_attend R167): The engine computes the scaled and masked scores of one span into the score store. -/
  | spanPassOne (ec : Fin 128) (eng : Fin 2)
  /-- SPAN_ROW_UNIT (06_attend R169): The row unit forms the rounded P, l_s and the fold factors of one span. -/
  | spanRowUnit (ec : Fin 128)
  /-- SPAN_PASS_TWO (06_attend R170): The engine computes P V for a span and folds it into the step triple in the drain path. -/
  | spanPassTwo (ec : Fin 128) (eng : Fin 2)
  /-- WAVE_ADMIT (08_dragoman R237): A wave of dragoman contexts is admitted once enough contexts are free and the partition's limit allows it, binding SEARCH queries to an epoch. -/
  | waveAdmit (die : Fin 4) (acc : Nat)
  /-- PROBE_SELECT (08_dragoman R252): The selection unit ranks a context's coarse scores and chooses its probe set. -/
  | probeSelect (die : Fin 4) (cx : Fin 2048)
  /-- SCAN_JOBS_FORM (08_dragoman R253): Once every context of a wave has a probe set, its (list, query) pairs are cut into numbered scan jobs. -/
  | scanJobsForm (die : Fin 4) (acc : Nat)
  /-- SCAN_BLOCK (08_dragoman R254): The scan array compares one arrived posting block or bundle against a job's query sketches and admits entries to shortlists. -/
  | scanBlock (die : Fin 4) (job : Fin 64)
  /-- SCAN_JOB_END (08_dragoman R258): A context's last scan job ends, and the context either widens with a solo job or passes to re-rank. -/
  | scanJobEnd (die : Fin 4) (cx : Fin 2048)
  /-- FETCH_ARRIVE (08_dragoman R237): An awaited vector or mean key arrives and the context returns from FETCH to RERANK. -/
  | fetchArrive (die : Fin 4) (cx : Fin 2048)
  /-- RERANK (08_dragoman R255): Re-rank lanes form the exact FP32 distance of shortlist entries. -/
  | rerank (die : Fin 4) (cx : Fin 2048) (arrived : Bool)
  /-- EMIT (08_dragoman R256): A context writes its ordered result or bale list and becomes FREE, decrementing ACTIVE. -/
  | emit (die : Fin 4) (cx : Fin 2048)
  /-- DRAGOMAN_TEARDOWN_FREE (08_dragoman R239): The dragoman contexts of a torn-down context are freed within 4,096 cycles and their fetches are discarded. -/
  | dragomanTeardownFree (die : Fin 4) (ctx : Fin 64)
  /-- ADD (11_steward_isa R342): ALU function ADD. -/
  | add (st : Fin 264) (rd ra rb : BitVec 5)
  /-- SUB (11_steward_isa R342): ALU function SUB. -/
  | sub (st : Fin 264) (rd ra rb : BitVec 5)
  /-- AND (11_steward_isa R342): ALU function AND. -/
  | and (st : Fin 264) (rd ra rb : BitVec 5)
  /-- OR (11_steward_isa R342): ALU function OR. -/
  | or (st : Fin 264) (rd ra rb : BitVec 5)
  /-- XOR (11_steward_isa R342): ALU function XOR. -/
  | xor (st : Fin 264) (rd ra rb : BitVec 5)
  /-- SHL (11_steward_isa R342): ALU shift left by rb[5:0]. -/
  | shl (st : Fin 264) (rd ra rb : BitVec 5)
  /-- SHR (11_steward_isa R342): ALU logical shift right. -/
  | shr (st : Fin 264) (rd ra rb : BitVec 5)
  /-- SAR (11_steward_isa R342): ALU arithmetic shift right. -/
  | sar (st : Fin 264) (rd ra rb : BitVec 5)
  /-- SLT (11_steward_isa R342): ALU signed set-less-than. -/
  | slt (st : Fin 264) (rd ra rb : BitVec 5)
  /-- SLTU (11_steward_isa R342): ALU unsigned set-less-than. -/
  | sltu (st : Fin 264) (rd ra rb : BitVec 5)
  /-- MUL (11_steward_isa R342): ALU multiply, low 64 bits. -/
  | mul (st : Fin 264) (rd ra rb : BitVec 5)
  /-- MULHU (11_steward_isa R342): ALU unsigned multiply, high 64 bits. -/
  | mulhu (st : Fin 264) (rd ra rb : BitVec 5)
  /-- DIV (11_steward_isa R342): ALU signed divide, with the defined results for zero and overflow. -/
  | div (st : Fin 264) (rd ra rb : BitVec 5)
  /-- DIVU (11_steward_isa R342): ALU unsigned divide. -/
  | divu (st : Fin 264) (rd ra rb : BitVec 5)
  /-- REM (11_steward_isa R342): ALU signed remainder. -/
  | rem (st : Fin 264) (rd ra rb : BitVec 5)
  /-- REMU (11_steward_isa R342): ALU unsigned remainder. -/
  | remu (st : Fin 264) (rd ra rb : BitVec 5)
  /-- MIN (11_steward_isa R342): ALU signed minimum. -/
  | min (st : Fin 264) (rd ra rb : BitVec 5)
  /-- MAX (11_steward_isa R342): ALU signed maximum. -/
  | max (st : Fin 264) (rd ra rb : BitVec 5)
  /-- MINU (11_steward_isa R342): ALU unsigned minimum. -/
  | minu (st : Fin 264) (rd ra rb : BitVec 5)
  /-- MAXU (11_steward_isa R342): ALU unsigned maximum. -/
  | maxu (st : Fin 264) (rd ra rb : BitVec 5)
  /-- POPC (11_steward_isa R342): ALU population count of ra. -/
  | popc (st : Fin 264) (rd ra : BitVec 5)
  /-- CLZ (11_steward_isa R342): ALU count of leading zeros of ra. -/
  | clz (st : Fin 264) (rd ra : BitVec 5)
  /-- CTZ (11_steward_isa R342): ALU count of trailing zeros of ra. -/
  | ctz (st : Fin 264) (rd ra : BitVec 5)
  /-- ADDI (11_steward_isa R341): rd := ra + sign-extended imm. -/
  | addi (st : Fin 264) (rd ra : BitVec 5) (imm : BitVec 16)
  /-- ANDI (11_steward_isa R341): Bitwise AND with zero-extended imm. -/
  | andi (st : Fin 264) (rd ra : BitVec 5) (imm : BitVec 16)
  /-- ORI (11_steward_isa R341): Bitwise OR with zero-extended imm. -/
  | ori (st : Fin 264) (rd ra : BitVec 5) (imm : BitVec 16)
  /-- XORI (11_steward_isa R341): Bitwise XOR with zero-extended imm. -/
  | xori (st : Fin 264) (rd ra : BitVec 5) (imm : BitVec 16)
  /-- SHLI (11_steward_isa R341): Shift left by an immediate count. -/
  | shli (st : Fin 264) (rd ra : BitVec 5) (cnt : BitVec 6)
  /-- SHRI (11_steward_isa R341): Logical shift right by an immediate count. -/
  | shri (st : Fin 264) (rd ra : BitVec 5) (cnt : BitVec 6)
  /-- SARI (11_steward_isa R341): Arithmetic shift right by an immediate count. -/
  | sari (st : Fin 264) (rd ra : BitVec 5) (cnt : BitVec 6)
  /-- SLTI (11_steward_isa R341): Signed compare with an immediate. -/
  | slti (st : Fin 264) (rd ra : BitVec 5) (imm : BitVec 16)
  /-- SLTIU (11_steward_isa R341): Unsigned compare with an immediate. -/
  | sltiu (st : Fin 264) (rd ra : BitVec 5) (imm : BitVec 16)
  /-- LDI (11_steward_isa R341): Loads imm16 shifted by 16 × HW into rd. -/
  | ldi (st : Fin 264) (rd : BitVec 5) (hw : BitVec 2) (imm : BitVec 16)
  /-- INSI (11_steward_isa R341): Inserts imm16 into halfword HW of rd. -/
  | insi (st : Fin 264) (rd : BitVec 5) (hw : BitVec 2) (imm : BitVec 16)
  /-- LD8U (11_steward_isa R341): Zero-extended 1-byte device-memory load. -/
  | ld8u (st : Fin 264) (rd ra : BitVec 5) (imm : BitVec 16)
  /-- LD16U (11_steward_isa R341): Zero-extended 2-byte load. -/
  | ld16u (st : Fin 264) (rd ra : BitVec 5) (imm : BitVec 16)
  /-- LD32U (11_steward_isa R341): Zero-extended 4-byte load. -/
  | ld32u (st : Fin 264) (rd ra : BitVec 5) (imm : BitVec 16)
  /-- LD64 (11_steward_isa R341): 8-byte load. -/
  | ld64 (st : Fin 264) (rd ra : BitVec 5) (imm : BitVec 16)
  /-- LD8S (11_steward_isa R341): Sign-extended 1-byte load. -/
  | ld8s (st : Fin 264) (rd ra : BitVec 5) (imm : BitVec 16)
  /-- LD16S (11_steward_isa R341): Sign-extended 2-byte load. -/
  | ld16s (st : Fin 264) (rd ra : BitVec 5) (imm : BitVec 16)
  /-- LD32S (11_steward_isa R341): Sign-extended 4-byte load. -/
  | ld32s (st : Fin 264) (rd ra : BitVec 5) (imm : BitVec 16)
  /-- LDM (11_steward_isa R344): Loads 8 bytes of steward data memory. -/
  | ldm (st : Fin 264) (rd ra : BitVec 5) (imm : BitVec 16)
  /-- ST8 (11_steward_isa R341): Stores the low byte of rs into the store buffer. -/
  | st8 (st : Fin 264) (rs ra : BitVec 5) (imm : BitVec 16)
  /-- ST16 (11_steward_isa R341): Stores the low 2 bytes of rs. -/
  | st16 (st : Fin 264) (rs ra : BitVec 5) (imm : BitVec 16)
  /-- ST32 (11_steward_isa R341): Stores the low 4 bytes of rs. -/
  | st32 (st : Fin 264) (rs ra : BitVec 5) (imm : BitVec 16)
  /-- ST64 (11_steward_isa R341): Stores 8 bytes of rs. -/
  | st64 (st : Fin 264) (rs ra : BitVec 5) (imm : BitVec 16)
  /-- STM (11_steward_isa R344): Stores rs into steward data memory. -/
  | stm (st : Fin 264) (rs ra : BitVec 5) (imm : BitVec 16)
  /-- STORE_BUFFER_DRAIN (11_steward_isa R334): The store buffer sends its oldest store toward its home, where it is performed. -/
  | storeBufferDrain (st : Fin 264)
  /-- AMO_SWAP (11_steward_isa R343): Atomic swap at the home die cache. -/
  | amoSwap (st : Fin 264) (rd ra rb : BitVec 5)
  /-- AMO_ADD (11_steward_isa R343): Atomic add. -/
  | amoAdd (st : Fin 264) (rd ra rb : BitVec 5)
  /-- AMO_AND (11_steward_isa R343): Atomic AND. -/
  | amoAnd (st : Fin 264) (rd ra rb : BitVec 5)
  /-- AMO_OR (11_steward_isa R343): Atomic OR. -/
  | amoOr (st : Fin 264) (rd ra rb : BitVec 5)
  /-- CAS (11_steward_isa R343): Atomic compare-and-swap against rd. -/
  | cas (st : Fin 264) (rd ra rb : BitVec 5)
  /-- BEQ (11_steward_isa R341): Branch if equal. -/
  | beq (st : Fin 264) (ra rb : BitVec 5) (disp : BitVec 16)
  /-- BNE (11_steward_isa R341): Branch if not equal. -/
  | bne (st : Fin 264) (ra rb : BitVec 5) (disp : BitVec 16)
  /-- BLT (11_steward_isa R341): Branch if signed less. -/
  | blt (st : Fin 264) (ra rb : BitVec 5) (disp : BitVec 16)
  /-- BGE (11_steward_isa R341): Branch if signed greater or equal. -/
  | bge (st : Fin 264) (ra rb : BitVec 5) (disp : BitVec 16)
  /-- BLTU (11_steward_isa R341): Branch if unsigned less. -/
  | bltu (st : Fin 264) (ra rb : BitVec 5) (disp : BitVec 16)
  /-- BGEU (11_steward_isa R341): Branch if unsigned greater or equal. -/
  | bgeu (st : Fin 264) (ra rb : BitVec 5) (disp : BitVec 16)
  /-- J (11_steward_isa R341): Jump by displacement. -/
  | j (st : Fin 264) (disp : BitVec 26)
  /-- JL (11_steward_isa R341): Jump by displacement and link g31. -/
  | jl (st : Fin 264) (disp : BitVec 26)
  /-- JLR (11_steward_isa R341): Jump to ra + imm, linking rd. -/
  | jlr (st : Fin 264) (rd ra : BitVec 5) (imm : BitVec 16)
  /-- CRR (11_steward_isa R338): Reads a control register, subject to the privilege checks. -/
  | crr (st : Fin 264) (rd cr : BitVec 5)
  /-- CRW (11_steward_isa R338): Writes a control register, subject to the privilege rules. -/
  | crw (st : Fin 264) (ra cr : BitVec 5)
  /-- FENCE (11_steward_isa R344): Waits until the earlier loads or stores are performed. -/
  | fence (st : Fin 264) (loads stores : Bool)
  /-- TRET (11_steward_isa R357): Returns from a service trap to TPC at level PPL. -/
  | tret (st : Fin 264)
  /-- SCALL (11_steward_isa R354): Takes service trap 1 to the S handler, or to the F handler from a hub steward at S. -/
  | scall (st : Fin 264)
  /-- BREAK (11_steward_isa R354): Takes service trap 3, or halts the EC for Mladkin when it is attached. -/
  | breakpoint (st : Fin 264)
  /-- IDLE (11_steward_isa R356): Stops fetch until an enabled event is pending. -/
  | idle (st : Fin 264)
  /-- FAULT (11_steward_isa R359): Ends the task with the code in ra. -/
  | fault (st : Fin 264) (ra : BitVec 5)
  /-- MISSUE (11_steward_isa R345): Issues a 64-byte command word to the ledger or the hub command port once the queues have room. -/
  | missue (st : Fin 264) (rd ra : BitVec 5) (imm : BitVec 16)
  /-- MFENCE (11_steward_isa R346): Retires once RETIRED reaches the issue count it started with. -/
  | mfence (st : Fin 264)
  /-- SIGNAL (11_steward_isa R350): Steward instruction that increases FILL of a pair. -/
  | signal (st : Fin 264) (ra : BitVec 5) (pair : BitVec 16)
  /-- RELEASE (11_steward_isa R350): Steward instruction that increases FREE of a pair. -/
  | release (st : Fin 264) (ra : BitVec 5) (pair : BitVec 16)
  /-- WAIT (11_steward_isa R351): Steward instruction that performs acquire-fill, with an optional timeout. -/
  | wait (st : Fin 264) (rd ra : BitVec 5) (pair : BitVec 16)
  /-- WAITF (11_steward_isa R351): Steward instruction that performs acquire-free, with an optional timeout. -/
  | waitf (st : Fin 264) (rd ra : BitVec 5) (pair : BitVec 16)
  /-- WAIT_TIMEOUT (11_steward_isa R351): The timeout of a WAIT or WAITF expires, and the wait ends with rd 1 and no count changed. -/
  | waitTimeout (st : Fin 264)
  /-- TEMPO (11_steward_isa R352): Marks a tempo point, checks it against the table and takes the handoff trap if pre-emption is requested. -/
  | tempo (st : Fin 264) (point : BitVec 16)
  /-- BARRIER (11_steward_isa R353): Waits at a die-scope or ring-scope barrier. -/
  | barrier (st : Fin 264) (rd ra rb : BitVec 5)
  /-- CTIME (11_steward_isa R341): Reads caravan time into rd. -/
  | ctime (st : Fin 264) (rd : BitVec 5)
  /-- ILLEGAL_INSTRUCTION (11_steward_isa R340): A reserved field, an unlisted FN or an unlisted OP raises the illegal-instruction fault. -/
  | illegalInstruction (st : Fin 264) (word : BitVec 32)
  /-- EVENT_TRAP (11_steward_isa R354): At U with EIE set, a pending enabled event traps before the next instruction. -/
  | eventTrap (st : Fin 264)
  /-- DIE_BARRIER_RELEASE (11_steward_isa R353): A die-scope barrier releases every participant once all named stewards have arrived and caravan time reaches rb. -/
  | dieBarrierRelease (die : Fin 4) (ctx id : Fin 64)
  /-- SEMAPHORE_ACQUIRE (10_streams R311): A waiting unit acquires one unit of FILL or FREE once the count is at least 1, in the fixed acquirer order. -/
  | semaphoreAcquire (ec : Fin 128) (pair : Fin 64) (free : Bool)
  /-- SEMA_SIGNAL_WRITE (10_streams R312): An EC_SEMA_CTL write with OP 0 adds ADD to FILL of a pair, saturating with OVF. -/
  | semaSignalWrite (who : Agent) (ec : Fin 128) (value : Reg32)
  /-- SEMA_RELEASE_WRITE (10_streams R312): An EC_SEMA_CTL write with OP 1 adds ADD to FREE of a pair. -/
  | semaReleaseWrite (who : Agent) (ec : Fin 128) (value : Reg32)
  /-- SEMA_VALUE_WRITE (10_streams R311): A write of EC_SEMA_VALn sets both counts directly. -/
  | semaValueWrite (who : Agent) (ec : Fin 128) (pair : Fin 64) (value : Reg32)
  /-- STREAM_ARM (10_streams R320): ST_CTL ARM reads and checks the descriptor, or sets a pending re-arm. -/
  | streamArm (who : Agent) (unit : Fin 131) (slot : Fin 64) (cancel : Bool)
  /-- STREAM_CANCEL (10_streams R322): ST_CTL CANCEL cancels the slot's stream and any pending re-arm. -/
  | streamCancel (who : Agent) (unit : Fin 131) (slot : Fin 64)
  /-- STREAM_RUN (10_streams R310): An armed stream enters RUN once its unit reserves its fetch buffer. -/
  | streamRun (unit : Fin 131) (slot : Fin 64)
  /-- STREAM_TILE_READ (10_streams R308): A running stream issues the read of a tile within its fetch-ahead depth after acquiring FILL of WSEM. -/
  | streamTileRead (unit : Fin 131) (slot : Fin 64)
  /-- STREAM_READ_DONE (10_streams R308): A tile read lands in the fetch buffer and the stream releases one FREE of WSEM. -/
  | streamReadDone (unit : Fin 131) (slot : Fin 64) (tile : Nat)
  /-- STREAM_TILE_WRITE (10_streams R309): A stream writes or sends tile t once the earlier tiles are written and FREE of SEMA is acquired. -/
  | streamTileWrite (unit : Fin 131) (slot : Fin 64)
  /-- STREAM_TILE_PERFORMED (10_streams R309): Every byte of a tile is performed and the stream adds one to FILL of SEMA. -/
  | streamTilePerformed (unit : Fin 131) (slot : Fin 64)
  /-- STREAM_DONE (10_streams R318): A stream whose tiles, messages and acknowledgements are complete enters DONE and applies a pending re-arm. -/
  | streamDone (unit : Fin 131) (slot : Fin 64)
  /-- STREAM_CANCEL_COMPLETE (10_streams R322): A cancelling stream whose last write and reads have ended enters CANCELLED. -/
  | streamCancelComplete (unit : Fin 131) (slot : Fin 64)
  /-- CACHE_ACCESS (02_package_memory R50): The home die cache performs one access to a 128-byte line, filling or writing back under the partition's ways. -/
  | cacheAccess (access : CacheAccess)
  /-- REFRESH (02_package_memory R44): A controller issues refresh at the interval that the memory reports. -/
  | refresh (channel : Fin 384)
  /-- PATROL_SCRUB (02_package_memory R44): Patrol scrub reads the next HBM3E line at the lowest priority, logging an uncorrectable line. -/
  | patrolScrub (arisen : Nat)
  /-- TIMING_TRACKING (02_package_memory R44): Every 250 ms a channel retracks its timing, stalling it for at most 1 µs. -/
  | timingTracking (channel : Fin 384)
  /-- HBM_WINDOW_WRITE (02_package_memory R38): A write of HUB_HBM_WINw, taken, ignored while BUSY, or setting HOLD to start a drain. -/
  | hbmWindowWrite (who : Agent) (w : Fin 32) (value : Reg32)
  /-- WINDOW_DRAIN_COMPLETE (02_package_memory R38): A held window's outstanding accesses complete and its dirty lines are written back and dropped, and BUSY reads 0. -/
  | windowDrainComplete (lpd : Bool) (w : Fin 32)
  /-- LPD_WINDOW_WRITE (02_package_memory R41): A write of HUB_LPD_WINw, which cannot set VALID while TRAINED is 0. -/
  | lpdWindowWrite (who : Agent) (w : Fin 16) (value : Reg32)
  /-- WAY_MASK_WRITE (02_package_memory R51): A write of DC_WAY_MASKp, which writes back the ways it removes before taking effect. -/
  | wayMaskWrite (who : Agent) (die : Fin 4) (p : Fin 8) (value : Reg32)
  /-- WAY_MASK_APPLY (02_package_memory R51): The write-back of removed ways completes and the new way mask takes effect. -/
  | wayMaskApply (die : Fin 4) (p : Fin 8)
  /-- TABLE_DATA_WRITE (03_arithmetic R86): A write of RU_TBL_DATA stores a shadow table word and advances INDEX, or is ignored. -/
  | tableDataWrite (who : Agent) (ec : Fin 128) (value : Reg32)
  /-- SWAP (03_arithmetic R87): RU_TBL_CTL SWAP exchanges the active and shadow banks and increments EPOCH. -/
  | swap (who : Agent) (ec : Fin 128) (value : Reg32)
  /-- RESTORE (03_arithmetic R86): RU_TBL_CTL RESTORE starts copying the factory tables into the shadow bank. -/
  | restore (who : Agent) (ec : Fin 128) (value : Reg32)
  /-- RESTORE_COMPLETE (03_arithmetic R86): A RESTORE finishes within 10,240 cycles and BUSY returns to 0. -/
  | restoreComplete (ec : Fin 128)
  /-- TLB_INVALIDATE (07_kv_bales R211): BTW_TLB_INV GO starts an invalidation of look-aside entries of the scope. -/
  | tlbInvalidate (who : Agent) (die : Fin 4) (value : Reg32)
  /-- TLB_INVALIDATE_DONE (07_kv_bales R211): The matching entries are removed and the walks in flight have ended, and BUSY returns to 0. -/
  | tlbInvalidateDone (die : Fin 4)
  /-- CONTEXT_LIMIT_WRITE (08_dragoman R236): A write of LIMIT of DRG_PART_CTXp, which affects later admissions only. -/
  | contextLimitWrite (who : Agent) (die : Fin 4) (p : Fin 8) (value : Reg32)
  /-- PARTITION_ACTIVATE (12_partitions R363): A write of ACTIVE = 1, taken only when the partition's resources are disjoint from those of other partitions. -/
  | partitionActivate (who : Agent) (p : Fin 8) (value : Reg32)
  /-- PARTITION_DEACTIVATE (12_partitions R364): Clearing ACTIVE writes back the partition's dirty lines and removes its look-aside entries. -/
  | partitionDeactivate (who : Agent) (p : Fin 8) (value : Reg32)
  /-- BAR2_WINDOW_WRITE (13_host_pcie R397): A write of HUB_BAR2_WINf moves the function's BAR2 window for later requests. -/
  | bar2WindowWrite (who : Agent) (f : Fin 9) (value : Reg32)
  /-- REGISTER_WRITE (00_scope R11): A write to a register with no row of its own acts by the field access types, counting RWL violations. -/
  | registerWrite (who : Agent) (offset : Nat) (value : Reg32)
  /-- DOORBELL (12_partitions R373): An 8-byte doorbell write validates the new tail, copies host slots, writes TAILW and wakes the service steward or context. -/
  | doorbell (f : Fin 9) (page : Fin 16) (data : Word64) (read : HostRead)
  /-- TASK_START (12_partitions R374): EC_TASK_CTL START marks a task of QUEUE active on the steward. -/
  | taskStart (who : Agent) (ec : Fin 128) (k : Fin 2) (value : Reg32)
  /-- TASK_END (12_partitions R374): EC_TASK_CTL END marks the task ended, counts DONE and raises the queue's vector. -/
  | taskEnd (who : Agent) (ec : Fin 128) (k : Fin 2) (value : Reg32)
  /-- YIELD_GO (12_partitions R379): EC_YIELD GO stops the steward for a yield, and the hub writes its steward record. -/
  | yieldGo (who : Agent) (ec : Fin 128) (k : Fin 2) (value : Reg32)
  /-- CONTEXT_BIND (12_partitions R369): The first READY context whose footprint is free or reserved for it binds its ECs. -/
  | contextBind (ctx : Fin 64)
  /-- CONTEXT_RESTORE (12_partitions R382): Restore of pairs, local store and instruction records completes, and the stewards start at the resume entry. -/
  | contextRestore (ctx : Fin 64)
  /-- SLICE_EXPIRY (12_partitions R370): A context's time slice expires while an overlapping READY context of its class or higher waits, and a yield is requested. -/
  | sliceExpiry (ctx : Fin 64)
  /-- IDLE_YIELD_REQUEST (12_partitions R370): A yield is requested from a context whose stewards all idle at S with no task while an overlapping context is READY. -/
  | idleYieldRequest (ctx : Fin 64)
  /-- YIELD_PAUSE (12_partitions R380): When every steward has yielded, grants and steals stop except for the work that must complete. -/
  | yieldPause (ctx : Fin 64)
  /-- CONTEXT_SAVE (12_partitions R379): Once R380 is satisfied, the pairs, instruction records and live local store are saved, and the context is unbound. -/
  | contextSave (ctx : Fin 64)
  /-- PART_SET (12_partitions R387): Supervisor command that writes a partition's registers, way masks and limits and activates it. -/
  | partSet (slot : SupSlot)
  /-- PART_CLEAR (12_partitions R387): Supervisor command that deactivates a partition and zeroes its way masks and limits. -/
  | partClear (slot : SupSlot)
  /-- CTX_CREATE (12_partitions R387): Supervisor command that creates a context in a partition with a class. -/
  | ctxCreate (slot : SupSlot)
  /-- CTX_LOAD (05_macro_tiling R156): Supervisor command that runs the loader on a convoy image and sets the footprint, save area and resume entry. -/
  | ctxLoad (slot : SupSlot) (image : Image)
  /-- CTX_DESTROY (12_partitions R387): Supervisor command that tears a context down if needed and frees it. -/
  | ctxDestroy (slot : SupSlot)
  /-- CTX_RESET (12_partitions R385): Supervisor command that returns a FAULTED context to IDLE and re-enables its queues. -/
  | ctxReset (slot : SupSlot)
  /-- QUEUE_SET (12_partitions R387): Supervisor command that copies a queue record into the queue table. -/
  | queueSet (slot : SupSlot)
  /-- QUEUE_STOP (12_partitions R387): Supervisor command that stops an enabled queue. -/
  | queueStop (slot : SupSlot)
  /-- FW_UPDATE (15_trust_management R452): Supervisor command that verifies an image and programs it into the SPI NOR. -/
  | fwUpdate (slot : SupSlot)
  /-- FUSE_COMMIT (15_trust_management R454): Supervisor command that raises SVN_MIN or revokes a root key. -/
  | fuseCommit (slot : SupSlot) (readBackOk : Bool)
  /-- FRAME_SEND (09_route_links R273): A port sends its next frame with flits, acknowledgements and credits, or an idle frame. -/
  | frameSend (port : Fin 24)
  /-- FRAME_RECEIVE (09_route_links R281): A received frame is checked, accepted or discarded with NAK, and its trailer's credits and acknowledgements are taken, with replay on NAK. -/
  | frameReceive (port : Fin 24) (frame : Frame)
  /-- IDENT (09_route_links R285): A received IDENT writes the neighbour entry and moves the port to UP, DOWN or MISWIRED. -/
  | ident (port : Fin 24) (rec : IdentRec)
  /-- IDENT_SEND (09_route_links R284): A port sends IDENT every 10 µs in IDENT and every 1 ms in UP. -/
  | identSend (port : Fin 24)
  /-- PROBE (09_route_links R285): The probe interval elapses and a port in OFF, DOWN or MISWIRED begins training or IDENT. -/
  | probe (port : Fin 24)
  /-- TRAINING_COMPLETE (09_route_links R285): Lane training or retraining completes and the port enters IDENT. -/
  | trainingComplete (port : Fin 24)
  /-- TRAIN_TIMEOUT (09_route_links R285): Training does not complete within 2 ms, or retraining within 100 µs, and the port goes DOWN. -/
  | trainTimeout (port : Fin 24)
  /-- IDENT_TIMEOUT (09_route_links R285): No IDENT arrives within 1 ms and the port goes DOWN. -/
  | identTimeout (port : Fin 24)
  /-- GOOD_FRAME_TIMEOUT (09_route_links R285): An UP port sees no good frame for 10 µs and goes DOWN, with its messages resent on another port. -/
  | goodFrameTimeout (port : Fin 24)
  /-- PORT_ENABLE_WRITE (09_route_links R285): Writing EN of RL_PORT_STATn disables the port or returns it to DOWN. -/
  | portEnableWrite (who : Agent) (port : Fin 24) (value : Reg32)
  /-- TXCFG_WRITE (17_electrical R473): A write of RL_PORT_TXCFGn, taken at the next training or ignored if the taps exceed 24. -/
  | txcfgWrite (who : Agent) (port : Fin 24) (value : Reg32)
  /-- PCIE_TXCFG_WRITE (17_electrical R474): A write of HUB_PCIE_TXCFG, which takes effect at the next equalization. -/
  | pcieTxcfgWrite (who : Agent) (value : Reg32)
  /-- BALE (09_route_links R276): A BALE message delivers whole bales into the serai for the drain to the caravan area. -/
  | bale (group : Fin 3) (msg : Message)
  /-- HOP_END (09_route_links R276): A HOP_END states the hop's bale and message totals. -/
  | hopEnd (group : Fin 3) (msg : Message)
  /-- BALE_ACK (09_route_links R276): A BALE_ACK acknowledges that a BALE message's bales are in the caravan area. -/
  | baleAck (group : Fin 3) (msg : Message)
  /-- SURVEY (09_route_links R299): A SURVEY message delivers summary records and is forwarded downstream unless its origin is next. -/
  | survey (group : Fin 3) (msg : Message)
  /-- GRAD (09_route_links R299): A GRAD message is written into the origin's partial plane or forwarded upstream. -/
  | grad (group : Fin 3) (msg : Message)
  /-- WANT (09_route_links R301): A WANT message writes a want-bitmap row at its origin. -/
  | want (group : Fin 3) (msg : Message)
  /-- DISPATCH (09_route_links R302): A DISPATCH body is written into the partition's remote window or dropped. -/
  | dispatch (group : Fin 3) (msg : Message)
  /-- WRITE (09_route_links R302): A WRITE body is written into the remote window, and a WRITE_ACK is returned. -/
  | write (group : Fin 3) (msg : Message)
  /-- WRITE_ACK (10_streams R318): A WRITE_ACK completes a WRITE message, or faults its stream with 0x3007. -/
  | writeAck (group : Fin 3) (msg : Message)
  /-- UNREACH (09_route_links R300): A switch's UNREACH faults the sending command with 0x3005. -/
  | unreach (group : Fin 3) (msg : Message)
  /-- SERAI_DRAIN (09_route_links R279): A drain stream moves a whole message out of the serai and its credits are returned. -/
  | seraiDrain (group : Fin 2) (msgIndex : Nat)
  /-- MANIFEST_BUILD (01_caravan_model R23): Once an origin holds all want rows, it records D(b) for each bale of its shard. -/
  | manifestBuild
  /-- REFORM (09_route_links R288): RL_RING_CTL REFORM checks the table, chooses directions, checks reachability and sends RING_CHECK. -/
  | reform (who : Agent) (value : Reg32)
  /-- LEAVE (09_route_links R288): RL_RING_CTL LEAVE leaves the ring, and STATE becomes NONE. -/
  | leave (who : Agent) (value : Reg32)
  /-- RING_CHECK (09_route_links R288): A RING_CHECK from upstream whose hash matches makes the ring FORMED, and one that differs makes it FAILED. -/
  | ringCheck (group : Fin 3) (msg : Message)
  /-- RING_FORM_TIMEOUT (09_route_links R288): No UP partner or no RING_CHECK within 10 ms makes the ring FAILED. -/
  | ringFormTimeout
  /-- PARTNER_VANISH (09_route_links R290): A ring partner is judged vanished, the ring becomes BROKEN and ABORT is sent. -/
  | partnerVanish (group : Fin 2)
  /-- ABORT (09_route_links R290): A received ABORT makes a FORMED member BROKEN, forwards it and keeps the smallest D. -/
  | abort (group : Fin 3) (msg : Message)
  /-- TIME_EXCHANGE (09_route_links R293): Every 1,048,576 ct a part sends TIME_REQ on its parent port. -/
  | timeExchange
  /-- TIME_REQ (09_route_links R293): The parent answers a TIME_REQ with TIME_RESP. -/
  | timeReq (port : Fin 24) (msg : Message) (t2 t3 : Nat)
  /-- TIME_RESP (09_route_links R294): A TIME_RESP yields an offset, which is filtered and stepped or slewed, setting SYNCED or DIVERGED. -/
  | timeResp (port : Fin 24) (msg : Message) (t4 : Nat)
  /-- TIME_HOLD (09_route_links R294): No exchange succeeds for 4 intervals and HOLD is set. -/
  | timeHold
  /-- SYNC_LOSS (09_route_links R294): After HOLD, a further 1 s without an exchange clears SYNCED. -/
  | syncLoss
  /-- ARRIVE (09_route_links R297): An ARRIVE is recorded and forwarded in the direction it came until its hop limit. -/
  | arrive (group : Fin 3) (msg : Message)
  /-- BARRIER_RELEASE (09_route_links R297): At R_b, or when the last arrival lands, the ring barrier releases. -/
  | barrierRelease
  /-- BAR0_ACCESS (13_host_pcie R396): A host BAR0 access reaches the register space or MSI-X structures, or is counted as an error. -/
  | bar0Access (f : Fin 9) (offset size : Nat) (write : Option HostWrite)
  /-- BAR2_ACCESS (13_host_pcie R398): A host BAR2 access reaches device memory through the window, or fails with 0xFF reads and a log record. -/
  | bar2Access (f : Fin 9) (offset : Nat) (len : Nat) (write : Option (List Byte)) (poisoned : Bool)
  /-- FLR_VF (13_host_pcie R407): Function-level reset of a VF tears down its partition's contexts and resets the VF's configuration. -/
  | flrVf (k : Fin 8)
  /-- FLR_PF (13_host_pcie R408): Function-level reset of the PF resets every active partition and the PF and re-enables queue 0. -/
  | flrPf
  /-- PCIE_HOT_RESET (13_host_pcie R408): A hot reset or link-down received from the PCI Express link acts as a PF function-level reset. -/
  | pcieHotReset
  /-- D3HOT (13_host_pcie R391): Entry to D3hot or return to D0 changes only the function's PCI state. -/
  | d3hot (f : Fin 9) (enter : Bool)
  /-- ATS_INVALIDATION (13_host_pcie R403): An ATS invalidation completes only after the copies that used a matching translation have finished their reads. -/
  | atsInvalidation (page : Nat)
  /-- MSIX_UNMASK (13_host_pcie R405): Unmasking an entry with a pending bit sends the MSI-X message. -/
  | msixUnmask (f : Fin 9) (entry : Fin 2048)
  /-- DISCOVERY (13_host_pcie R409): The DOE mailbox answers a Discovery request. -/
  | discovery (index : Byte)
  /-- DOE_ABORT (13_host_pcie R409): DOE Abort discards the object in progress within 1 ms. -/
  | doeAbort
  /-- GET_VERSION (15_trust_management R446): SPDM GET_VERSION request. -/
  | getVersion (request : List Byte)
  /-- GET_CAPABILITIES (15_trust_management R446): SPDM GET_CAPABILITIES request. -/
  | getCapabilities (request : List Byte)
  /-- NEGOTIATE_ALGORITHMS (15_trust_management R446): SPDM NEGOTIATE_ALGORITHMS request. -/
  | negotiateAlgorithms (request : List Byte)
  /-- GET_DIGESTS (15_trust_management R446): SPDM GET_DIGESTS request. -/
  | getDigests (request : List Byte)
  /-- GET_CERTIFICATE (15_trust_management R446): SPDM GET_CERTIFICATE request for slot 0. -/
  | getCertificate (request : List Byte) (slot : Nat) (offset len : Nat)
  /-- CHALLENGE (15_trust_management R446): SPDM CHALLENGE, signed with the device identity key. -/
  | challenge (request : List Byte) (slot : Nat)
  /-- GET_MEASUREMENTS (15_trust_management R447): SPDM GET_MEASUREMENTS, returning the measurement blocks as they stand when signed. -/
  | getMeasurements (request : List Byte) (index : Nat) (signed : Bool)
  /-- UNSUPPORTED_REQUEST (15_trust_management R446): Any other SPDM request receives ERROR UnsupportedRequest. -/
  | unsupportedRequest (request : List Byte)
  /-- GET_STATUS (15_trust_management R451): Sideband command that returns the power, thermal, rail, reset and boot status registers. -/
  | getStatus
  /-- SET_POWER (15_trust_management R451): Sideband command that performs a GO to TARGET, the only way to leave Off. -/
  | setPower (target : Byte)
  /-- RESUME (15_trust_management R451): Sideband command that performs RESUME of an emergency hold. -/
  | resume
  /-- READ_LOG (15_trust_management R451): Sideband command that returns one error-log record. -/
  | readLog (index : BitVec 32)
  /-- GET_IDENTITY (15_trust_management R451): Sideband command that returns the five identity records and the digest. -/
  | getIdentity
  /-- READ_SENSORS (15_trust_management R451): Sideband command that returns die temperatures and rail voltages. -/
  | readSensors
  /-- HOT_RESET (15_trust_management R451): Sideband command that accepts and then starts the register hot reset. -/
  | hotReset
  /-- SET_ENDPOINT_ID (15_trust_management R450): MCTP control message Set Endpoint ID. -/
  | setEndpointId (eid : Byte)
  /-- GET_ENDPOINT_ID (15_trust_management R450): MCTP control message Get Endpoint ID. -/
  | getEndpointId
  /-- GET_MCTP_VERSION_SUPPORT (15_trust_management R450): MCTP control message Get MCTP Version Support. -/
  | getMctpVersionSupport
  /-- GET_MESSAGE_TYPE_SUPPORT (15_trust_management R450): MCTP control message Get Message Type Support. -/
  | getMessageTypeSupport
  /-- PWR_GO (14_power_reset R416): HUB_PWR_CTL GO starts a move to TARGET, or is refused with 0x6006. -/
  | pwrGo (who : Agent) (value : Reg32)
  /-- POWER_TRANSITION_COMPLETE (14_power_reset R418): After the yields, the part takes the target state's steps, sets STATE, clears BUSY and raises vector 1. -/
  | powerTransitionComplete
  /-- PWR_RESUME (14_power_reset R424): HUB_PWR_CTL RESUME ends an emergency hold when no condition remains. -/
  | pwrResume (who : Agent) (value : Reg32)
  /-- REGISTER_HOT_RESET (14_power_reset R428): HUB_RST_CTL HOT aborts the ring, resets the units in scope and restarts firmware from SRAM. -/
  | registerHotReset (who : Agent) (value : Reg32)
  /-- SUPPLY_WARNING_BEGIN (14_power_reset R422): A rail falls below WARN and issue is held on the affected dies. -/
  | supplyWarningBegin (n : Fin 6) (mv : Nat)
  /-- SUPPLY_WARNING_END (14_power_reset R422): The rail recovers to WARN + 10 mV, issue resumes and the dip is logged. -/
  | supplyWarningEnd (n : Fin 6) (mv : Nat)
  /-- RAIL_BELOW_RESET (14_power_reset R423): A rail below RESET causes a warm reset, or a power-on reset for VDD_AON. -/
  | railBelowReset (n : Fin 6) (mv : Nat)
  /-- SUPPLY_EMERGENCY (14_power_reset R424): A warning that lasts 1 ms holds issue on every die and sets S_EMERG. -/
  | supplyEmergency (n : Fin 5)
  /-- THERMAL_SAMPLE (14_power_reset R425): Every 100 µs the highest sensor reading is compared with the warning and emergency levels. -/
  | thermalSample (readings : Vector Nat 5)
  /-- THERMAL_TRIP (14_power_reset R425): A reading above 115 °C enters the fault hold within 10 µs. -/
  | thermalTrip (readings : Vector Nat 5)
  /-- THERMAL_CFG_WRITE (14_power_reset R425): A write of HUB_THERM_CFG, ignored when its levels are invalid. -/
  | thermalCfgWrite (who : Agent) (value : Reg32)
  /-- RAIL_CFG_WRITE (14_power_reset R424): A write of HUB_RAIL_CFGn, ignored and counted when RESET_MV is too close to WARN_MV. -/
  | railCfgWrite (who : Agent) (n : Fin 6) (value : Reg32)
  /-- GROUP_PLL_IDLE_STOP (14_power_reset R413): An EC group idle for IDLE_US stops its PLL. -/
  | groupPllIdleStop (g : Fin 16)
  /-- PLL_WAKE (14_power_reset R413): A wake event or a waiting access starts a stopped group or die PLL. -/
  | pllWake (pll : Fin 21)
  /-- PLL_LOCK (14_power_reset R413): A started PLL locks and the waking event or access takes effect. -/
  | pllLock (pll : Fin 21)
  /-- DIE_PLL_IDLE_STOP (14_power_reset R413): A die with no access and no running group for IDLE_US stops its PLL. -/
  | diePllIdleStop (die : Fin 4)
  /-- PLL_LOCK_FAILURE (14_power_reset R414): A core PLL that fails to lock within 100 µs is retried, and its third failure enters the fault hold. -/
  | pllLockFailure (pll : Fin 21)
  /-- PERST_ASSERT (14_power_reset R427): An accepted assertion of PERST# after a deassertion causes a warm reset. -/
  | perstAssert (heldNs : Nat) (accepted : Bool)
  /-- PERST_DEASSERT (14_power_reset R427): An accepted deassertion of PERST# releases the PCI Express controller to train the link. -/
  | perstDeassert (heldNs : Nat) (accepted : Bool)
  /-- POWER_ON_RESET (14_power_reset R430): VDD_AON rising starts the always-on domain, the time PLL and the boot ROM. -/
  | powerOnReset
  /-- CORE_RAIL_RELEASE (14_power_reset R430): All core rails in range: the straps are sampled, the hub PLL locks and the stepping codes are checked. -/
  | coreRailRelease (loc : BitVec 16) (smb : BitVec 2)
  /-- IMAGE_VERIFY (15_trust_management R437): The image read from the SPI NOR is checked and either starts hub firmware at T_F or enters the recovery hold. -/
  | imageVerify (spiAnswers : Bool)
  /-- LPDDR5X_TRAINED (14_power_reset R431): LPDDR5X training ends and early service begins. -/
  | lpddr5xTrained (failed : List (Fin 32))
  /-- HBM3E_TRAINED (14_power_reset R432): HBM3E training ends, binding stops and every RUN context is asked to yield. -/
  | hbm3eTrained (failed : List (Fin 32))
  /-- FULL_SERVICE (14_power_reset R432): After the yields, the PLLs relock, the self-test runs, HBM3E is decoded and PHASE becomes 2. -/
  | fullService (selfTestOk : Bool)
  /-- RECOVERY_GO (15_trust_management R441): HUB_RCV_CTL GO verifies a pushed image in the recovery hold. -/
  | recoveryGo (who : Agent) (value : Reg32)
  /-- RECOVERY_VERIFY_DONE (15_trust_management R441): Verification of the pushed image ends, starting firmware or returning BUSY to 0 with a code. -/
  | recoveryVerifyDone
  /-- FW_UPDATE_COMPLETE (15_trust_management R452): Programming and read-back of the image region end, and FW_UPDATE completes. -/
  | fwUpdateComplete (readBackOk : Bool)
  /-- KICK (15_trust_management R449): MGT_WDOG_CTL KICK restarts the watchdog count. -/
  | kick (who : Agent) (value : Reg32)
  /-- WATCHDOG_LOCK (15_trust_management R448): MGT_WDOG_CTL LOCK locks EN and TIMEOUT until reset. -/
  | watchdogLock (who : Agent) (value : Reg32)
  /-- WATCHDOG_EXPIRY (15_trust_management R449): The watchdog expires and causes a warm reset with WDOG set. -/
  | watchdogExpiry
  /-- SNAPSHOT_ARM (16_counters_debug R458): HUB_SNAP_CTL ARM arms a snapshot at T, or sets REFUSED. -/
  | snapshotArm (who : Agent) (value : Reg32)
  /-- SNAPSHOT_CANCEL (16_counters_debug R459): HUB_SNAP_CTL CANCEL disarms a snapshot before T. -/
  | snapshotCancel (who : Agent) (value : Reg32)
  /-- SNAPSHOT_TAKE (16_counters_debug R458): At T every unit copies its counters into the shadows, clearing them with CLEAR. -/
  | snapshotTake
  /-- SNAPSHOT_DONE (16_counters_debug R458): Within 20 µs after T, DONE is set and COUNT and TAKEN are written. -/
  | snapshotDone
  /-- ATTACH (16_counters_debug R462): A write of EC_DBG_CTL ATTACH takes or releases Mladkin's hold, acting as RUN when cleared while halted. -/
  | attach (who : Agent) (ec : Fin 128) (value : Reg32)
  /-- HALT (16_counters_debug R462): EC_DBG_CTL HALT stops the stewards and engine entry of the EC. -/
  | halt (who : Agent) (ec : Fin 128) (value : Reg32)
  /-- DEBUG_HALTED (16_counters_debug R462): Every vector past stage E reaches W and HALTED is set. -/
  | debugHalted (ec : Fin 128)
  /-- RUN (16_counters_debug R462): EC_DBG_CTL RUN leaves the halt and restarts the interrupted waits. -/
  | run (who : Agent) (ec : Fin 128) (value : Reg32)
  /-- STEP (16_counters_debug R462): EC_DBG_CTL STEP runs one instruction on the selected steward and halts again. -/
  | step (who : Agent) (ec : Fin 128) (value : Reg32)
  /-- DEBUG_DATA_WRITE (16_counters_debug R463): A write of EC_DBG_DATA changes the selected register as a CRW would, or is blocked. -/
  | debugDataWrite (who : Agent) (ec : Fin 128) (hi : Bool) (value : Reg32)
  /-- LOSS_OF_RECEIVER_LOCK (09_route_links R282): A port's receiver loses lock and the port goes to RETRAIN. -/
  | lossOfReceiverLock (port : Fin 24)
  /-- TIMER (11_steward_isa R338): Caravan time reaches TIMECMP, EVENT.TIMER is set, and a steward in IDLE resumes or an event trap becomes pending. -/
  | timer (st : Fin 264)
  /-- REGISTER_HOT_RESET_COMPLETE (14_power_reset R428): A register hot reset finishes within 50 ms: the tiers leave self-refresh with retracking, the defaults apply with PHASE 2, BUSY clears and vector 1 is raised. -/
  | registerHotResetComplete
  /-- LINK_UP (14_power_reset R427): The PCI Express link finishes training and the data link layer comes up, setting LINK_UP. -/
  | linkUp (flit : Bool) (speed width : Nat)
  /-- COMPLETION_TIMEOUT (13_host_pcie R403): A host-ring read made for a doorbell times out, and the doorbell is treated as invalid. -/
  | completionTimeout (f : Fin 9) (page : Fin 16) (data : Word64)
  /-- DOE_UNSUPPORTED_PROTOCOL (13_host_pcie R409): A DOE request object with an unsupported protocol gets no response, and the mailbox sets its Error bit. -/
  | doeUnsupportedProtocol
  /-- OTHER_COMMAND_BYTE (15_trust_management R451): A vendor-defined sideband request with an unlisted command byte is answered with 0x5FFF. -/
  | otherCommandByte (cmd : Byte)
  /-- BAD_MSG (09_route_links R275): A received message of a reserved TYPE, or on a VC that its group does not use, is discarded and counted in RL_BAD_MSG_CNT. -/
  | badMsg (group : Fin 3) (msg : Message)
  /-- BAR4_ACCESS (13_host_pcie R400): A BAR4 write other than an 8-byte doorbell at offset 0, or a write to a reserved page, is ignored and counts HUB_DB_BAD_CNT, and BAR4 reads return zero. -/
  | bar4Access (f : Fin 9) (offset size : Nat) (write : Option HostWrite)
  /-- CONFIGURATION_REQUEST (13_host_pcie R393): A PCI Express configuration request is answered with Request Retry Status before firmware starts; otherwise it reads or writes configuration state, such as VF Enable and NumVFs, which create or remove VFs. -/
  | configurationRequest (f : Fin 9) (field : ConfigField) (write : Option Nat)
  deriving DecidableEq, Repr

end Sys2Proof
end

