-- ==== Sys2Proof/Decode.lean ====
section
/-! DEFINITION. The words of steward instructions (11_steward R339 to R343): an encoder and a decoder. The commands of
the table of operations carry no bits of their own, so no word spells one. -/

namespace Sys2Proof

/-- The opcode table gives none of its rows bits: no word spells a command. -/
def decodeTableWord (_nbits _w : Nat) : Option Instr := none

/-! ### Formats (R339) -/

/-- Format R. -/
def encR (op : BitVec 6) (rd ra rb : BitVec 5) (fn : BitVec 11) : BitVec 32 := op ++ rd ++ ra ++ rb ++ fn
/-- Formats I, S, B and P: two registers and 16 bits. -/
def encI (op : BitVec 6) (rd ra : BitVec 5) (imm : BitVec 16) : BitVec 32 := op ++ rd ++ ra ++ imm
/-- Format J. -/
def encJ (op : BitVec 6) (disp : BitVec 26) : BitVec 32 := op ++ disp
/-- Format U. -/
def encU (op : BitVec 6) (rd : BitVec 5) (hw : BitVec 2) (imm : BitVec 16) : BitVec 32 := op ++ rd ++ 0#3 ++ hw ++ imm
/-- The shifts by a constant: imm16 [15:6] is reserved (R340). -/
def encShift (op : BitVec 6) (rd ra : BitVec 5) (cnt : BitVec 6) : BitVec 32 := op ++ rd ++ ra ++ 0#10 ++ cnt

/-- The word of a steward instruction (R341 to R343, R355); none for a command that is no instruction. -/
def encodeSteward : Instr → Option (BitVec 32)
  | .add _ rd ra rb => some (encR 0x01 rd ra rb 0x000)
  | .sub _ rd ra rb => some (encR 0x01 rd ra rb 0x001)
  | .and _ rd ra rb => some (encR 0x01 rd ra rb 0x002)
  | .or _ rd ra rb => some (encR 0x01 rd ra rb 0x003)
  | .xor _ rd ra rb => some (encR 0x01 rd ra rb 0x004)
  | .shl _ rd ra rb => some (encR 0x01 rd ra rb 0x005)
  | .shr _ rd ra rb => some (encR 0x01 rd ra rb 0x006)
  | .sar _ rd ra rb => some (encR 0x01 rd ra rb 0x007)
  | .slt _ rd ra rb => some (encR 0x01 rd ra rb 0x008)
  | .sltu _ rd ra rb => some (encR 0x01 rd ra rb 0x009)
  | .mul _ rd ra rb => some (encR 0x01 rd ra rb 0x00A)
  | .mulhu _ rd ra rb => some (encR 0x01 rd ra rb 0x00B)
  | .div _ rd ra rb => some (encR 0x01 rd ra rb 0x00C)
  | .divu _ rd ra rb => some (encR 0x01 rd ra rb 0x00D)
  | .rem _ rd ra rb => some (encR 0x01 rd ra rb 0x00E)
  | .remu _ rd ra rb => some (encR 0x01 rd ra rb 0x00F)
  | .min _ rd ra rb => some (encR 0x01 rd ra rb 0x010)
  | .max _ rd ra rb => some (encR 0x01 rd ra rb 0x011)
  | .minu _ rd ra rb => some (encR 0x01 rd ra rb 0x012)
  | .maxu _ rd ra rb => some (encR 0x01 rd ra rb 0x013)
  | .popc _ rd ra => some (encR 0x01 rd ra 0 0x014)
  | .clz _ rd ra => some (encR 0x01 rd ra 0 0x015)
  | .ctz _ rd ra => some (encR 0x01 rd ra 0 0x016)
  | .addi _ rd ra imm => some (encI 0x02 rd ra imm)
  | .andi _ rd ra imm => some (encI 0x03 rd ra imm)
  | .ori _ rd ra imm => some (encI 0x04 rd ra imm)
  | .xori _ rd ra imm => some (encI 0x05 rd ra imm)
  | .shli _ rd ra cnt => some (encShift 0x06 rd ra cnt)
  | .shri _ rd ra cnt => some (encShift 0x07 rd ra cnt)
  | .sari _ rd ra cnt => some (encShift 0x08 rd ra cnt)
  | .slti _ rd ra imm => some (encI 0x09 rd ra imm)
  | .sltiu _ rd ra imm => some (encI 0x0A rd ra imm)
  | .ldi _ rd hw imm => some (encU 0x0B rd hw imm)
  | .insi _ rd hw imm => some (encU 0x0C rd hw imm)
  | .ld8u _ rd ra imm => some (encI 0x10 rd ra imm)
  | .ld16u _ rd ra imm => some (encI 0x11 rd ra imm)
  | .ld32u _ rd ra imm => some (encI 0x12 rd ra imm)
  | .ld64 _ rd ra imm => some (encI 0x13 rd ra imm)
  | .ld8s _ rd ra imm => some (encI 0x14 rd ra imm)
  | .ld16s _ rd ra imm => some (encI 0x15 rd ra imm)
  | .ld32s _ rd ra imm => some (encI 0x16 rd ra imm)
  | .ldm _ rd ra imm => some (encI 0x17 rd ra imm)
  | .st8 _ rs ra imm => some (encI 0x18 rs ra imm)
  | .st16 _ rs ra imm => some (encI 0x19 rs ra imm)
  | .st32 _ rs ra imm => some (encI 0x1A rs ra imm)
  | .st64 _ rs ra imm => some (encI 0x1B rs ra imm)
  | .stm _ rs ra imm => some (encI 0x1C rs ra imm)
  | .amoSwap _ rd ra rb => some (encR 0x1D rd ra rb 0x000)
  | .amoAdd _ rd ra rb => some (encR 0x1D rd ra rb 0x001)
  | .amoAnd _ rd ra rb => some (encR 0x1D rd ra rb 0x002)
  | .amoOr _ rd ra rb => some (encR 0x1D rd ra rb 0x003)
  | .cas _ rd ra rb => some (encR 0x1D rd ra rb 0x004)
  | .beq _ ra rb disp => some (encI 0x20 ra rb disp)
  | .bne _ ra rb disp => some (encI 0x21 ra rb disp)
  | .blt _ ra rb disp => some (encI 0x22 ra rb disp)
  | .bge _ ra rb disp => some (encI 0x23 ra rb disp)
  | .bltu _ ra rb disp => some (encI 0x24 ra rb disp)
  | .bgeu _ ra rb disp => some (encI 0x25 ra rb disp)
  | .j _ disp => some (encJ 0x26 disp)
  | .jl _ disp => some (encJ 0x27 disp)
  | .jlr _ rd ra imm => some (encI 0x28 rd ra imm)
  | .crr _ rd cr => some (0x2C#6 ++ rd ++ 0#5 ++ 0#11 ++ cr)
  | .crw _ ra cr => some (0x2D#6 ++ 0#5 ++ ra ++ 0#11 ++ cr)
  | .fence _ loads stores => some (0x2E#6 ++ 0#24 ++ BitVec.ofBool stores ++ BitVec.ofBool loads)
  | .tret _ => some (encR 0x2F 0 0 0 0)
  | .scall _ => some (encR 0x2F 0 0 0 1)
  | .breakpoint _ => some (encR 0x2F 0 0 0 2)
  | .idle _ => some (encR 0x2F 0 0 0 3)
  | .fault _ ra => some (encR 0x2F 0 ra 0 4)
  | .missue _ rd ra imm => some (encI 0x30 rd ra imm)
  | .mfence _ => some (encI 0x31 0 0 0)
  | .signal _ ra pair => some (encI 0x32 ra 0 pair)
  | .release _ ra pair => some (encI 0x33 ra 0 pair)
  | .wait _ rd ra pair => some (encI 0x34 rd ra pair)
  | .waitf _ rd ra pair => some (encI 0x35 rd ra pair)
  | .tempo _ point => some (encI 0x36 0 0 point)
  | .barrier _ rd ra rb => some (encR 0x37 rd ra rb 0)
  | .ctime _ rd => some (encI 0x38 rd 0 0)
  | _ => none

/-- R348: bits [15] and [6] of a pair operand are reserved. -/
def pairReservedOk (p : BitVec 16) : Bool := !p.getLsbD 15 && !p.getLsbD 6

/-- The instruction of a word for steward `st` (R339 to R343, R348); none for an illegal word. A field that the manual
does not call reserved and that no operation reads is ignored (log 14). -/
def decodeSteward (st : Fin 264) (w : BitVec 32) : Option Instr :=
  let a : BitVec 5 := w.extractLsb' 21 5
  let b : BitVec 5 := w.extractLsb' 16 5
  let c : BitVec 5 := w.extractLsb' 11 5
  let fn : BitVec 11 := w.extractLsb' 0 11
  let imm : BitVec 16 := w.extractLsb' 0 16
  let cnt : BitVec 6 := w.extractLsb' 0 6
  let hw : BitVec 2 := w.extractLsb' 16 2
  let cr : BitVec 5 := w.extractLsb' 0 5
  let pairOk := pairReservedOk imm && !(imm.getLsbD 14 && decide (256 ≤ st.val))
  match (w.extractLsb' 26 6).toNat with
  | 0x01 => match fn.toNat with
    | 0x000 => some (.add st a b c) | 0x001 => some (.sub st a b c) | 0x002 => some (.and st a b c)
    | 0x003 => some (.or st a b c) | 0x004 => some (.xor st a b c) | 0x005 => some (.shl st a b c)
    | 0x006 => some (.shr st a b c) | 0x007 => some (.sar st a b c) | 0x008 => some (.slt st a b c)
    | 0x009 => some (.sltu st a b c) | 0x00A => some (.mul st a b c) | 0x00B => some (.mulhu st a b c)
    | 0x00C => some (.div st a b c) | 0x00D => some (.divu st a b c) | 0x00E => some (.rem st a b c)
    | 0x00F => some (.remu st a b c) | 0x010 => some (.min st a b c) | 0x011 => some (.max st a b c)
    | 0x012 => some (.minu st a b c) | 0x013 => some (.maxu st a b c) | 0x014 => some (.popc st a b)
    | 0x015 => some (.clz st a b) | 0x016 => some (.ctz st a b)
    | _ => none
  | 0x02 => some (.addi st a b imm)
  | 0x03 => some (.andi st a b imm)
  | 0x04 => some (.ori st a b imm)
  | 0x05 => some (.xori st a b imm)
  | 0x06 => if w.extractLsb' 6 10 = 0 then some (.shli st a b cnt) else none
  | 0x07 => if w.extractLsb' 6 10 = 0 then some (.shri st a b cnt) else none
  | 0x08 => if w.extractLsb' 6 10 = 0 then some (.sari st a b cnt) else none
  | 0x09 => some (.slti st a b imm)
  | 0x0A => some (.sltiu st a b imm)
  | 0x0B => if w.extractLsb' 18 3 = 0 then some (.ldi st a hw imm) else none
  | 0x0C => if w.extractLsb' 18 3 = 0 then some (.insi st a hw imm) else none
  | 0x10 => some (.ld8u st a b imm)
  | 0x11 => some (.ld16u st a b imm)
  | 0x12 => some (.ld32u st a b imm)
  | 0x13 => some (.ld64 st a b imm)
  | 0x14 => some (.ld8s st a b imm)
  | 0x15 => some (.ld16s st a b imm)
  | 0x16 => some (.ld32s st a b imm)
  | 0x17 => some (.ldm st a b imm)
  | 0x18 => some (.st8 st a b imm)
  | 0x19 => some (.st16 st a b imm)
  | 0x1A => some (.st32 st a b imm)
  | 0x1B => some (.st64 st a b imm)
  | 0x1C => some (.stm st a b imm)
  | 0x1D => match fn.toNat with
    | 0x000 => some (.amoSwap st a b c) | 0x001 => some (.amoAdd st a b c) | 0x002 => some (.amoAnd st a b c)
    | 0x003 => some (.amoOr st a b c) | 0x004 => some (.cas st a b c)
    | _ => none
  | 0x20 => some (.beq st a b imm)
  | 0x21 => some (.bne st a b imm)
  | 0x22 => some (.blt st a b imm)
  | 0x23 => some (.bge st a b imm)
  | 0x24 => some (.bltu st a b imm)
  | 0x25 => some (.bgeu st a b imm)
  | 0x26 => some (.j st (w.extractLsb' 0 26))
  | 0x27 => some (.jl st (w.extractLsb' 0 26))
  | 0x28 => some (.jlr st a b imm)
  | 0x2C => if w.extractLsb' 5 11 = 0 ∧ cr.toNat ≤ 17 then some (.crr st a cr) else none
  | 0x2D => if w.extractLsb' 5 11 = 0 ∧ a = 0 ∧ cr.toNat ≤ 17 then some (.crw st b cr) else none
  | 0x2E => if w.extractLsb' 2 24 = 0 then some (.fence st (w.getLsbD 0) (w.getLsbD 1)) else none
  | 0x2F => match fn.toNat with
    | 0 => some (.tret st) | 1 => some (.scall st) | 2 => some (.breakpoint st) | 3 => some (.idle st)
    | 4 => some (.fault st b)
    | _ => none
  | 0x30 => some (.missue st a b imm)
  | 0x31 => if w.extractLsb' 0 26 = 0 then some (.mfence st) else none
  | 0x32 => if b = 0 ∧ pairOk then some (.signal st a imm) else none
  | 0x33 => if b = 0 ∧ pairOk then some (.release st a imm) else none
  | 0x34 => if pairOk then some (.wait st a b imm) else none
  | 0x35 => if pairOk then some (.waitf st a b imm) else none
  | 0x36 => some (.tempo st imm)
  | 0x37 => if fn = 0 then some (.barrier st a b c) else none
  | 0x38 => if b = 0 ∧ imm = 0 then some (.ctime st a) else none
  | _ => none

end Sys2Proof
end

