-- ==== Sys2Proof/Config.lean ====
section
/-! DEFINITION. The values that the manual of the EVX-40 leaves open: opaque constants without a body, so that a
statement holds for every value of them. -/

namespace Sys2Proof

/-- The k-th free value of the machine (log 3): drawn with the state's counter `free`, one number per use. -/
opaque Config.freeValue : Nat → BitVec 64

/-- The words of the factory row-unit tables (03_arithmetic R84): function 0 to 4, word index (log 7). -/
opaque Config.factoryWord : Nat → Nat → BitVec 32

/-- What the manual leaves open of a native row function (03_arithmetic R71, R73, R84; log 7): function code, the bank's reloaded words,
argument. With the factory tables it picks one of the results that the bound of R71 allows; with reloaded ones it is the result of a
function whose way from the core value to the result is not given. -/
opaque Config.rowFunction : Nat → List (Nat × BitVec 32) → BitVec 32 → BitVec 32

/-- What the manual leaves open of a row function in EVQ-12 compatibility mode (03_arithmetic R90; log 8): function code, argument. It
picks one of the results that the bound of R90 allows, and is the reciprocal square root, which has none. -/
opaque Config.evqFunction : Nat → BitVec 32 → BitVec 32

/-- Byte `i` of a head payload whose layout the manual does not give (09_route R275; log 113): message type, fields of the payload, `i`. -/
opaque Config.headByte : Nat → List Nat → Nat → BitVec 8

/-- The digest of the boot ROM (15_trust R447; log 9). -/
opaque Config.romDigest : BitVec 512

/-- The signature of the device identity key on a byte string (15_trust R445, R446; log 9). -/
opaque Config.deviceSign : List (BitVec 8) → List (BitVec 8)

/-- The leaf key of a certificate chain matches the device identity key (15_trust R445; log 9). -/
opaque Config.leafMatches : List (BitVec 8) → Bool

end Sys2Proof
end

