-- ==== Sys2Proof/Machine/State.lean ====
section
/-! DEFINITION. The state of one EVX-40: every register, buffer, queue, counter and mode that the manual names, as plain
data, the reasons a step can stop, and the state after a power-on reset. -/

namespace Sys2Proof.Machine

/-- Reasons to stop with a fault. No command of this block raises one: the manual gives every fault condition of the
part an effect (a status code, a log record, a teardown), and those are next states. -/
inductive Fault where
  /-- Raised by no command; it stands for a state that no rule of the manual describes. Safe. -/
  | undescribed
  deriving DecidableEq, Repr

/-- Reasons to refuse a command. -/
inductive Refusal where
  /-- Raised by the dispatch for a command that has no meaning yet. Safe. -/
  | notModelled (mnemonic : String)
  deriving DecidableEq, Repr

/-! ### Memory -/

/-- HUB_HBM_WINw and HUB_LPD_WINw (02_package R37, R40). `drained` is 1 once a drain under HOLD has completed (R38). -/
structure Window where
  valid : Bool := false
  trained : Bool := false
  hold : Bool := false
  drained : Bool := false
  setLog2 : BitVec 3 := 0
  setBase : BitVec 5 := 0
  deriving DecidableEq, Repr

/-- A resident line of a die cache (02_package R49): its way, whether it is dirty, and when it was last used. -/
structure CacheLine where
  way : Nat
  dirty : Bool
  used : Nat
  deriving DecidableEq, Repr

/-! ### Faults and tasks -/

/-- The status of a field that holds one fault code (00_scope R17): the code and its caravan time. -/
structure Held where
  code : Code
  time : CTime
  deriving DecidableEq, Repr

/-- Who owns an access (10_streams R323): a task of a steward, a context whose steward runs no task, or nobody. -/
inductive Owner where
  | task (st : Fin 264)
  | context (ctx : Fin 64)
  | nobody
  deriving DecidableEq, Repr

/-- What waits in the hub because an access that it makes, or one before it, waits (02_package R38; 13_host R401; 14_power R413): a store of
the hub with its owner, the partition that bounds it and its context; a function's BAR2 write; a function's doorbell on a page (none: the
supervisor page), with what the read of its host ring returns; a vector that follows a record (13_host R405). -/
inductive Posted where
  | store (owner : Owner) (part : Option Nat) (ctx : Option (Fin 64)) (addr : Nat) (bytes : List Byte)
  | vector (v : Nat)
  | bar2 (f : Nat) (addr : Nat) (bytes : List Byte)
  | doorbell (f : Nat) (page : Option Nat) (data : Word64) (read : HostRead)
  deriving DecidableEq, Repr

/-- A record of the error log (16_counters R461); SEQ is its place in the log. -/
structure LogRec where
  ct : CTime
  code : Code
  kind : Nat
  flags : BitVec 8
  unit : Nat
  part : Nat
  ctx : Nat
  addr : Nat
  queue : Nat
  slot : Nat
  detail : List Nat
  deriving DecidableEq, Repr

/-! ### Engine clusters -/

/-- A depth chunk in a broadcast or feeder queue (04_matrix R98, R102): the element codes of up to 128 elements, their
block-scale codes, and the pass (or step) and the column it belongs to; `run` is 0 for the tile (or column tile) that enters now, 1 for the
next one, and so on (R106). -/
structure Chunk where
  pass : Nat
  column : Nat
  elements : List Nat
  scales : List Nat
  run : Nat := 0
  deriving DecidableEq, Repr

/-- A tile or a combine step on an engine (05_macro R139, R150): the ledger record, the tile number (for a combine step
the output tile), where its entry stands and the accumulator region it uses. -/
structure TileRun where
  acc : Nat
  tile : Nat
  combine : Bool
  pass : Nat
  column : Nat
  region : Nat
  /-- CHAIN: phase 1 to 3 and the column tile within it (05_macro R153); 0 otherwise -/
  phase : Nat := 0
  sub : Nat := 0
  deriving DecidableEq, Repr

/-- A span of ATTEND on an engine (06_attend R164, R167 to R173): the record, the row block, the span's number, the next
stage (1 pass one, 2 row unit, 3 pass two), and per row m_s, the count of visible keys and the factors a_t, a_s. -/
structure SpanRun where
  acc : Nat
  tile : Nat
  span : Nat
  stage : Nat
  rowMax : List (BitVec 32)
  live : List Nat
  factors : List (BitVec 32 × BitVec 32)
  /-- the step triple of each row of the block: m, l and the columns of O -/
  triples : List (BitVec 32 × BitVec 32 × List (BitVec 32))
  /-- status bits of each row (03_arithmetic R83), its scores raised to the floor, and the flags so far -/
  status : List (BitVec 16)
  floors : List Nat
  flags : BitVec 16
  /-- the bank and the epoch with which the row unit began its work on the last span (03_arithmetic R87); none before the first -/
  bank : Option (Tab (BitVec 32) × BitVec 16) := none
  deriving DecidableEq, Repr

/-- A matrix engine (04_matrix R91 to R118). -/
structure Engine where
  /-- the ledger record that holds the engine (R121 of 05_macro) -/
  holds : Option Nat := none
  /-- the tile that is entering -/
  current : Option TileRun := none
  /-- the tile taken early under 05_macro R146 -/
  next : Option TileRun := none
  /-- combine steps that wait to enter (05_macro R150) -/
  combines : List TileRun := []
  /-- regions whose last vector has entered, oldest first: the head drains (R114); the column drained next -/
  drains : List (TileRun × Nat) := []
  /-- the region that the next tile takes (R112) -/
  region : Nat := 0
  /-- broadcast queue, at most 8 entries (R102) -/
  broadcast : List Chunk := []
  /-- feeder queue of each lane, at most 8 entries (R102) -/
  feeders : Tab (List Chunk) := []
  /-- resident buffers: lane × 2 + (0 X, 1 Y) -/
  resident : Tab Chunk := []
  /-- the resident buffer that the lanes read: false X, true Y (R104) -/
  buffer : Bool := false
  /-- accumulator registers of output-resident mode, by lane (R98) -/
  registers : Tab (Int × BitVec 4) := []
  /-- the side array of R110: flags SAT, NAN, POS_INF, NEG_INF by lane × 512 + word -/
  side : Tab (BitVec 4) := []
  /-- errors of accumulator words, by lane × 2,048 + offset ÷ 4, and of resident buffers, by lane × 2 + buffer (R115): 1 corrected, more
  uncorrectable -/
  accBad : Tab Nat := []
  residentBad : Tab Nat := []
  /-- the span in work -/
  span : Option SpanRun := none
  deriving DecidableEq, Repr

/-- The row unit and its tables (03_arithmetic R84 to R88). -/
structure RowUnit where
  /-- words of the active and of the shadow bank that differ from the factory words: function × 2048 + index -/
  active : Tab (BitVec 32) := []
  shadow : Tab (BitVec 32) := []
  epoch : BitVec 16 := 0
  /-- the ledger record that holds the row unit, and the row tile that it runs (R87) -/
  holds : Option Nat := none
  current : Option TileRun := none
  /-- row-unit tiles that started on the previous bank and still run -/
  oldTiles : Nat := 0
  busy : Bool := false
  func : BitVec 3 := 0
  index : BitVec 11 := 0
  ignored : BitVec 16 := 0
  deriving DecidableEq, Repr

/-- A place in a tile sequencer's queue or a link stream unit's queue (05_macro R121, 11_steward R347). -/
structure Place where
  port : Fin 5
  acc : Nat
  started : Bool
  deriving DecidableEq, Repr

/-- EC_TASK_CTLs, EC_TASK_COMPL_LO/HIs of one steward (12_partitions R374), and the slot count of its task. -/
structure TaskRegs where
  active : Bool := false
  queue : BitVec 20 := 0
  complLo : BitVec 28 := 0
  complHi : BitVec 16 := 0
  deriving DecidableEq, Repr

/-- EC_DBG_* of one EC (16_counters R462, R463); `halting` from HALT until HALTED. -/
structure DebugRegs where
  attach : Bool := false
  halting : Bool := false
  halted : Bool := false
  why : BitVec 3 := 0
  selPc : Bool := false
  selStw : Bool := false
  selCtrl : Bool := false
  selNum : BitVec 5 := 0
  accEngine : Bool := false
  accLane : BitVec 8 := 0
  accWord : BitVec 9 := 0
  deriving DecidableEq, Repr

/-- An engine cluster (02_package R33, R48; 10_streams R311). -/
structure Ec where
  /-- the semaphore pairs: FILL and FREE (10_streams R311) -/
  pairs : Tab (BitVec 16 × BitVec 16) := []
  /-- the time of the last release on each pair, and how many have been made (10_streams R314) -/
  releases : Tab CTime := []
  released : Tab Nat := []
  overflow : Bool := false
  queue : List Place := []
  engines : Tab Engine := []
  rowUnit : RowUnit := {}
  /-- owner of the score store: 0 ME0, 1 ME1, 2 row unit (06_attend R168) -/
  scoreOwner : Option (Fin 3) := none
  scoreWaiters : List (Fin 3) := []
  tasks : Tab TaskRegs := []
  dbg : DebugRegs := {}
  /-- the context bound to the EC, and the one it is reserved for (12_partitions R367, R369) -/
  bound : Option (Fin 64) := none
  reserved : Option (Fin 64) := none
  /-- a steward of the EC has taken the TEMPO trap (11_steward R352) -/
  tempoHold : Bool := false
  counters : Tab Word64 := []
  deriving DecidableEq, Repr

/-! ### Stewards -/

/-- What a steward is doing (11_steward R334, R351, R353, R356). -/
inductive RunState where
  | running
  | halted
  /-- WAIT (false) or WAITF (true) on an EC's pair: destination, the start time, the timeout in ct -/
  | waiting (ec : Fin 128) (pair : Fin 64) (free : Bool) (rd : BitVec 5) (since : CTime) (timeout : Word64)
  | dieBarrier (die : Fin 4) (id : Fin 64) (rd : BitVec 5)
  | ringBarrier (rd : BitVec 5)
  /-- MISSUE of a SEARCH or SELECT_BALES that waits for one of the dragoman's places (08_dragoman R234) -/
  | placing (rd : BitVec 5) (acc : Nat)
  | idle
  /-- after EC_YIELD GO (12_partitions R379); whether with IDLE -/
  | yielded (fromIdle : Bool)
  deriving DecidableEq, Repr

/-- A store in a store buffer (11_steward R334): address and bytes. -/
structure Store where
  addr : Nat
  bytes : List Byte
  /-- the partition whose resources bounded the store, and whose ways it fills (02_package R51) -/
  part : Option Nat := none
  deriving DecidableEq, Repr

/-- A steward (11_steward R333 to R338). SID is fixed by its number, and EVENT.TIMER and EVENT.TEMPO_REQ are its views. -/
structure Steward where
  g : Tab Word64 := []
  pc : Word64 := 0
  run : RunState := .halted
  pl : BitVec 2 := 2
  ppl : BitVec 2 := 0
  eie : Bool := false
  inTrap : Bool := false
  tvec : Word64 := 0
  tpc : Word64 := 0
  tcause : BitVec 32 := 0
  tval : Word64 := 0
  sscratch : Word64 := 0
  part : BitVec 3 := 0
  bound : Bool := false
  ctx : BitVec 6 := 0
  cycle : Word64 := 0
  instret : Word64 := 0
  tpoint : Word64 := 0
  issued : Word64 := 0
  retired : Word64 := 0
  mail : Bool := false
  tempoReq : Bool := false
  doorbell : Bool := false
  evmask : BitVec 4 := 0
  timecmp : Word64 := BitVec.allOnes 64
  /-- FVEC once software has written it; until then it reads as the firmware entry (11_steward R338) -/
  fvec : Option Word64 := none
  fscratch : Word64 := 0
  dataMemory : List Host.Cell := []
  stores : List Store := []
  deriving DecidableEq, Repr

/-- A die-scope barrier that stewards wait at (11_steward R353): the word and each arrived steward with its rb. -/
structure DieBarrier where
  word : Word64
  arrived : List (Fin 264 × Word64)
  deriving DecidableEq, Repr

/-! ### Streams -/

/-- A message sent, as its acknowledgements name it (09_route R274, R281). -/
structure MsgId where
  group : Nat
  vc : Nat
  seq : BitVec 32
  deriving DecidableEq, Repr

/-- A message to be sent, with the deadline that it carries and the unit, slot and tile of its stream (10_streams R315); unit 131 makes
none. -/
structure OutMessage where
  msg : Message
  deadline : Nat := 0
  unit : Nat := 131
  slot : Nat := 0
  tile : Nat := 0
  deriving DecidableEq, Repr

/-- A frame that a port sends (09_route R273): the flits that it fills, the messages that it completes, its 64 slots, and its trailer. -/
structure OutFrame where
  fseq : BitVec 16
  fill : Nat
  messages : List Message
  ackSeq : BitVec 16
  ackValid : Bool
  nak : Bool
  credits : List (BitVec 16)
  slots : List (List Byte)
  crc : BitVec 64
  deriving DecidableEq, Repr

/-- A stream slot (10_streams R305, R306, R320) and the stream it runs. -/
structure Slot where
  addrLo : BitVec 26 := 0
  addrHi : BitVec 16 := 0
  state : BitVec 3 := 0
  pend : Bool := false
  code : Code := 0
  /-- a stream of an aborted task in CANCELLING: the code with which it ends in FAULT (10_streams R324) -/
  ending : Option Code := none
  /-- the descriptor's 64 bytes as they were read when the arm was applied -/
  desc : List Byte := []
  owner : Owner := .nobody
  /-- who made the pending re-arm (R323) -/
  pendOwner : Owner := .nobody
  /-- the ledger or hub port record that the slot runs for -/
  command : Option (Fin 5 × Nat) := none
  /-- tiles whose read has been issued, tiles landed in the fetch buffer with their bytes, tiles written, performed -/
  issued : Nat := 0
  landed : Tab (List Byte) := []
  written : Nat := 0
  performed : Nat := 0
  /-- the time of arming, and the releases on SEMA that came before it (R314) -/
  armedAt : CTime := 0
  releasedBefore : Nat := 0
  /-- messages sent since the arming, those not yet acknowledged by frame, WRITE messages without WRITE_ACK (R318; 09_route R300) -/
  sent : List MsgId := []
  unacked : List MsgId := []
  writeAcks : List MsgId := []
  deriving DecidableEq, Repr

/-! ### The ledgers and the hub command port -/

/-- An accepted command word (05_macro R120 to R122, R146, R150; 11_steward R345, R347). -/
structure MacroRec where
  acc : Nat
  issuer : Fin 264
  ctx : Option (Fin 64)
  word : List Byte
  /-- the address of the command word (16_counters R461) -/
  addr : Nat := 0
  /-- units (EC numbers, 128 + g on the hub) that have joined the instruction -/
  joined : List Nat := []
  armed : Bool := false
  total : Nat := 0
  next : Nat := 0
  /-- ranges of tile numbers that are the only tiles to grant (a resumed instruction, 12_partitions R382) -/
  only : Option (List (Nat × Nat)) := none
  /-- the grant window of each crew EC: first tile and length -/
  windows : Tab (Nat × Nat) := []
  /-- tiles taken and not yet drained -/
  taken : List Nat := []
  /-- drained K ranges of each output tile; one more once its combine step is done -/
  drained : Tab Nat := []
  /-- scores of each row of a split ATTEND that were raised to the floor, by plane × rows + row (06_attend R180) -/
  floorRows : Tab Nat := []
  /-- the view root that it names with the header of its table, read once at its start (07_kv R209): the address of the root, 0x100 bytes
  of the root and 0x100 of the header -/
  view : Option (Nat × List Byte) := none
  tiles : Nat := 0
  /-- sequences that were done and left unchanged because of a code (07_kv R219, R229); they do not count in TILES -/
  unwritten : Nat := 0
  aflags : BitVec 16 := 0
  fault : Option Held := none
  /-- row-unit table epochs that its row tiles used (03_arithmetic R87) -/
  epochs : List (BitVec 16) := []
  /-- its tiles, combine steps or stream have ended -/
  finished : Bool := false
  /-- an ordering command has acted; a grant pause holds (12_partitions R380) -/
  acted : Bool := false
  paused : Bool := false
  slot : Option (Fin 131 × Fin 64) := none
  /-- SEARCH and SELECT_BALES: next query or tile to take, the shared epoch slot, queries ended -/
  nextQuery : Nat := 0
  epochSlot : Option Nat := none
  ended : Nat := 0
  deriving DecidableEq, Repr

/-! ### Dragoman, walker, die -/

/-- A dragoman context (08_dragoman R237). -/
structure DrgCtx where
  /-- STATE code: 0 FREE to 7 HALT -/
  state : Nat := 0
  acc : Nat := 0
  part : BitVec 3 := 0
  ctx : Option (Fin 64) := none
  select : Bool := false
  query : Nat := 0
  wave : Nat := 0
  /-- the address of the epoch slot that it is bound to (08_dragoman R245) -/
  slot : Option Nat := none
  slotWords : List Nat := []
  /-- lists or bundles of the probe set in rank order, and how many were widened -/
  probes : List Nat := []
  widened : Nat := 0
  /-- the scan jobs of its wave have been formed (08_dragoman R253), and its jobs that have not ended -/
  formed : Bool := false
  jobs : Nat := 0
  scanned : Nat := 0
  /-- shortlist entries: HAM, ITEM (or bale), VREF, in rising order of the key -/
  shortlist : List (Nat × Nat × Nat) := []
  /-- keys of out-of-range entries (08_dragoman R254) -/
  outOfRange : List (Nat × Nat × Nat) := []
  /-- distances formed so far, in the order of the shortlist -/
  dists : List (BitVec 32) := []
  fault : Code := 0
  deriving DecidableEq, Repr

/-- A scan job (08_dragoman R253, R265): list or bundle, the contexts it serves, the next block. -/
structure ScanJob where
  acc : Nat
  list : Nat
  ctxs : List (Fin 2048)
  block : Nat
  deriving DecidableEq, Repr

/-- An entry of the look-aside buffer (07_kv R210): its tag, the segment address, and when it was last used. -/
structure LabEntry where
  part : Nat
  dir : Nat
  seq : Nat
  chain : Nat
  seg : Nat
  addr : Nat
  used : Nat
  deriving DecidableEq, Repr

/-- A compute die's shared units (02_package R33). -/
structure Die where
  cache : Tab CacheLine := []
  cacheClock : Nat := 0
  wayMasks : Tab (BitVec 16) := [(0, 0xFFFF#16)]
  wayPending : Tab (BitVec 16) := []
  accepted : Nat := 0
  macros : List MacroRec := []
  lastPartition : Nat := 7
  lab : List LabEntry := []
  labClock : Nat := 0
  invBusy : Bool := false
  invPart : BitVec 3 := 0
  invScope : BitVec 2 := 0
  /-- the partition whose entries the invalidation in progress removes -/
  invFor : BitVec 3 := 0
  invDirLo : BitVec 20 := 0
  invDirHi : BitVec 16 := 0
  invSeq : BitVec 32 := 0
  invChain : BitVec 16 := 0
  invSeg : BitVec 7 := 0
  drgLimits : Tab (BitVec 12) := [(0, 0x800#12)]
  drgCtxs : Tab DrgCtx := []
  drgJobs : Tab ScanJob := []
  drgCommands : List Nat := []
  drgSel : BitVec 11 := 0
  drgWaves : Nat := 0
  cacheCounters : Tab Word64 := []
  ledgerCounters : Tab Word64 := []
  drgCounters : Tab Word64 := []
  walkerCounters : Tab Word64 := []
  hbmCounters : Tab Word64 := []
  deriving DecidableEq, Repr

/-! ### Partitions, contexts, queues -/

/-- The registers of a partition (12_partitions R362). -/
structure Partition where
  active : Bool := false
  ring : Bool := false
  ecs : Tab (BitVec 32) := []
  hbm : BitVec 32 := 0
  lpd : BitVec 16 := 0
  rwinLo : BitVec 20 := 0
  rwinHi : BitVec 16 := 0
  rwinPages : BitVec 32 := 0
  sliceLc : BitVec 16 := 0x03E8
  sliceBe : BitVec 16 := 0x07D0
  deriving DecidableEq, Repr

/-- A context (12_partitions R366 to R370): its registers, its tables and what the scheduler keeps of it. -/
structure Context where
  /-- STATE code: 0 FREE, 1 IDLE, 2 READY, 3 BINDING, 4 RUN, 5 YIELDING, 6 FAULTED -/
  state : Nat := 0
  latencyCritical : Bool := false
  part : BitVec 3 := 0
  fault : Code := 0
  faultTime : CTime := 0
  footprint : List (Fin 128) := []
  saveLo : BitVec 20 := 0
  savePages : BitVec 16 := 0
  saveHi : BitVec 16 := 0
  resumeLo : BitVec 30 := 0
  resumeHi : BitVec 16 := 0
  submit : BitVec 32 := 0
  done : BitVec 32 := 0
  preempt : BitVec 32 := 0
  torn : BitVec 32 := 0
  overrun : BitVec 32 := 0
  tempo : List TempoEntry := []
  imageDigest : Option (BitVec 512) := none
  /-- the caravan layers of the image: whether each is gated (01_caravan R24) -/
  layers : List Bool := []
  /-- its shard map and caravan declarations (01_caravan R20) -/
  caravan : Option CaravanDecl := none
  readySince : CTime := 0
  runSince : CTime := 0
  yieldSince : CTime := 0
  /-- the context whose readiness caused a yield request (12_partitions R370) -/
  yieldCause : Option (Fin 64) := none
  paused : Bool := false
  doorbellSinceBind : Bool := false
  /-- the last GO of its yield (12_partitions R383), and the task registers of its stewards while it is not bound -/
  lastGo : CTime := 0
  tasks : Tab TaskRegs := []
  deriving DecidableEq, Repr

/-- A queue record (12_partitions R372). -/
structure Queue where
  ring : BitVec 48 := 0
  hring : BitVec 64 := 0
  tailw : BitVec 48 := 0
  tail : BitVec 32 := 0
  host : Bool := false
  pasid : BitVec 20 := 0
  log2n : Nat := 0
  /-- STATE: 0 free, 1 enabled, 2 stopped -/
  state : Nat := 0
  ctx : BitVec 6 := 0
  sstw : Bool := false
  sec : BitVec 7 := 0
  irq : Bool := false
  vector : BitVec 11 := 0
  /-- a teardown has stopped the queue (12_partitions R384, R385) -/
  torn : Bool := false
  /-- the count of slots that firmware has served: of a supervisor queue (12_partitions R387) -/
  served : BitVec 32 := 0
  deriving DecidableEq, Repr

/-! ### Route links -/

/-- A Route link port (09_route R273, R281 to R286, 17_electrical R473). -/
structure Port where
  en : Bool := true
  /-- STATE code of 09_route R285: 0 OFF to 7 MISWIRED -/
  state : Nat := 0
  replaced : Bool := false
  returned : Bool := false
  role : Bool := false
  partnerPort : BitVec 5 := 0
  pgroup : BitVec 2 := 0
  loc : BitVec 16 := 0
  digest : BitVec 64 := 0
  wasDown : Bool := false
  everUp : Bool := false
  /-- location and digest of the last entry to UP, the times of the last probe and of the last IDENT (09_route R284, R285) -/
  upLoc : BitVec 16 := 0
  upDigest : BitVec 64 := 0
  probeAt : Option CTime := none
  identAt : Option CTime := none
  /-- sender: next FSEQ, unacknowledged frames with their FSEQ, FILL and the messages that they complete (the replay buffer), frames to resend,
  the frame on the link -/
  fseq : BitVec 16 := 0
  replay : List (BitVec 16 × Nat × List OutMessage) := []
  /-- the slots of the frames in the replay buffer, by FSEQ -/
  replaySlots : List (BitVec 16 × List (List Byte)) := []
  resend : Nat := 0
  onLink : Option OutFrame := none
  nakFseq : BitVec 16 := 0
  nakRun : Nat := 0
  /-- receiver: next expected FSEQ, last good FSEQ, whether one has come, NAK to send -/
  expect : BitVec 16 := 0
  lastGood : BitVec 16 := 0
  ackValid : Bool := false
  nak : Bool := false
  /-- messages given to the port and not yet wholly in a frame, and the flits of the first that frames have carried -/
  transmit : List OutMessage := []
  sentFlits : Nat := 0
  /-- when the port entered its state, and when its last good frame came -/
  since : CTime := 0
  lastGoodAt : CTime := 0
  cfgAuto : Bool := true
  cfgEdge : BitVec 2 := 1
  cfgAmp : BitVec 4 := 10
  cfgPre : BitVec 6 := 4
  cfgPost : BitVec 6 := 8
  /-- the settings in force since the last training: AUTO, EDGE, AMP, PRE1, POST1 -/
  inForce : Bool × BitVec 2 × BitVec 4 × BitVec 6 × BitVec 6 := (true, 1, 10, 4, 8)
  deriving DecidableEq, Repr

/-- A port group (09_route R271, R277 to R280). -/
structure Group where
  /-- credits held for each VC, the last cumulative count accepted, and the cumulative count freed -/
  credits : Tab Nat := []
  accepted : Tab (BitVec 16) := []
  freed : Tab (BitVec 16) := []
  /-- messages that wait for a port or for credits -/
  waiting : List OutMessage := []
  /-- whole messages held in the serai (09_route R279) -/
  serai : List Message := []
  /-- the last 4,096 SEQs received of each sender and VC, and the next SEQ to send on each VC -/
  seen : List (BitVec 16 × Fin 8 × BitVec 32) := []
  nextSeq : Tab (BitVec 32) := []
  degraded : Bool := false
  miswired : Bool := false
  /-- caravan time since when no port that faces the partner is UP (09_route R289) -/
  lostSince : Option CTime := none
  /-- a port of the group has reported a changed location or digest (09_route R289) -/
  changed : Bool := false
  /-- location and digest of the ring partner that the group faces (09_route R289) -/
  partner : Option (BitVec 16 × BitVec 64) := none
  deriving DecidableEq, Repr

/-- A want row held by an origin (09_route R301, 01_caravan R28). -/
structure WantRow where
  position : Nat
  group : Nat
  firstBale : Nat
  addr : Nat
  bytes : Nat
  deriving DecidableEq, Repr

/-- A bale in the caravan area (07_kv R232, 09_route R276): its hop, sequence, chain, number and address. -/
structure CaravanBale where
  hop : Nat
  seq : Nat
  chain : Nat
  bale : Nat
  addr : Nat
  deriving DecidableEq, Repr

/-- The ring and the caravan (01_caravan R19 to R28, 09_route R287 to R297). -/
structure Ring where
  table : Tab (BitVec 32) := []
  ringId : BitVec 16 := 0
  len : BitVec 11 := 1
  /-- STATE: 0 NONE, 1 FORMING, 2 FORMED, 3 BROKEN, 4 FAILED -/
  state : Nat := 0
  downGroup : Bool := false
  position : BitVec 10 := 0
  code : Code := 0
  /-- the members of the ring being formed or formed, its ID, and the time of REFORM -/
  members : List (BitVec 16) := []
  formedId : BitVec 16 := 0
  formingSince : CTime := 0
  /-- RING_CHECK has been sent; the hashes of those that came before, by group (09_route R288) -/
  checkSent : Bool := false
  checkGot : Tab Nat := []
  margin : BitVec 32 := 30000
  /-- the ring's barrier number, the arrivals known (barrier × 1024 + position), and whether this part waits -/
  barrier : Nat := 0
  arrivals : Tab CTime := []
  arrived : Bool := false
  /-- the caravan task: its context, its layer, the barriers of the layer that have released, and the release time of the
  last step-L barrier -/
  task : Option (Fin 64) := none
  layer : Nat := 0
  step : Nat := 0
  finalRelease : Option CTime := none
  /-- the release of the last ring barrier (01_caravan R29) -/
  released : CTime := 0
  /-- task ends whose report waits: EC and steward (09_route R290) -/
  heldEnds : List (Nat × Nat) := []
  /-- the smallest detection time D received (09_route R290) -/
  detection : Option CTime := none
  wants : List WantRow := []
  /-- survey records held in the survey tables: origin, first record index, records; own survey records and want rows sent -/
  surveys : List (Nat × Nat × Nat) := []
  surveySent : Nat := 0
  wantsSent : Nat := 0
  /-- D(b) of each bale of the shard (01_caravan R23) -/
  manifest : Tab Nat := []
  manifestWritten : Bool := false
  /-- by hop: the total of bales from HOP_END, and the bales delivered to the caravan area; the bales and BALE messages sent on the present
  hop; BALE messages not yet acknowledged; the entries of the transit tables that the drain has written -/
  hopBales : Tab Nat := []
  hopSent : Nat × Nat := (0, 0)
  delivered : Tab Nat := []
  unacked : List (BitVec 32) := []
  caravanArea : List CaravanBale := []
  deriving DecidableEq, Repr

/-- Caravan time (09_route R292 to R296). -/
structure TimeSync where
  master : Bool := false
  parent : BitVec 5 := 0x1F
  synced : Bool := false
  hold : Bool := false
  diverged : Bool := false
  port : BitVec 5 := 0x1F
  offset : BitVec 16 := 0
  /-- the last 8 exchanges, newest first: offset and delay in 1/16 ct -/
  exchanges : List (Int × Int) := []
  everSynced : Bool := false
  goodRun : Nat := 0
  /-- the offset still to slew, in 1/16 ct -/
  slew : Int := 0
  /-- the counter's fraction in 1/16 ct, and when the last exchange was begun -/
  sub : Nat := 0
  requestAt : Option CTime := none
  lastSlew : CTime := 0
  /-- the exchange in the air: t1 in 1/16 ct -/
  pending : Option Nat := none
  lastExchange : CTime := 0
  holdSince : CTime := 0
  deriving DecidableEq, Repr

/-! ### Host, power, trust, debug -/

/-- A PCI Express function (13_host R389, R391, R404, R405). -/
structure Function where
  d3hot : Bool := false
  msixEnable : Bool := false
  functionMask : Bool := false
  /-- MSI-X entries that software has unmasked, the words of the table, pending bits -/
  unmasked : List Nat := []
  table : Tab (BitVec 32) := []
  pending : List Nat := []
  /-- the words of the BARs, two to a BAR (13_host R394) -/
  bars : Tab (BitVec 32) := []
  deriving DecidableEq, Repr

/-- The PCI Express interface (13_host). -/
structure Pcie where
  linkUp : Bool := false
  flit : Bool := false
  speed : BitVec 3 := 0
  width : BitVec 5 := 0
  vfEnable : Bool := false
  numVfs : BitVec 4 := 0
  functions : Tab Function := []
  bar2 : Tab (BitVec 12) := []
  /-- MSI-X messages sent: function, entry, oldest first -/
  sent : List (Nat × Nat) := []
  /-- AER errors detected, oldest first -/
  aer : List String := []
  /-- the last data returned to the host -/
  readData : List Byte := []
  /-- translations that copies in progress use, and invalidations that wait for them (13_host R403) -/
  atsInUse : List Nat := []
  atsWaiting : List Nat := []
  atsDone : List Nat := []
  /-- the translation cache: PASID and page, oldest first, at most 256 (13_host R389, R403) -/
  atsCache : List (BitVec 20 × Nat) := []
  /-- configuration that software sets (13_host R389): Max_Payload_Size and Max_Read_Request_Size as the base specification codes them, 10-bit
  tags, ATS and PASID enables, and the words of the VFs' BARs in the SR-IOV capability -/
  maxPayload : BitVec 3 := 0
  maxReadRequest : BitVec 3 := 2
  tenBitTags : Bool := false
  atsEnable : Bool := false
  pasidEnable : Bool := false
  vfBars : Tab (BitVec 32) := []
  /-- AER of the PF (13_host R406): status, mask and severity of uncorrectable errors, status and mask of correctable ones -/
  aerStatus : BitVec 32 := 0
  aerMask : BitVec 32 := 0
  aerSeverity : BitVec 32 := 0x00462010
  aerCorrectableStatus : BitVec 32 := 0
  aerCorrectableMask : BitVec 32 := 0
  /-- errors sent to the root complex: the error and whether it is fatal, oldest first -/
  aerSent : List (String × Bool) := []
  edge : BitVec 2 := 1
  /-- the part drives the link out of reset (14_power R427) -/
  controllerReset : Bool := true
  deriving DecidableEq, Repr

/-- The DOE mailbox and the SPDM responder (13_host R409, 15_trust R446). -/
structure Doe where
  ready : Bool := false
  error : Bool := false
  response : List Byte := []
  /-- the last SPDM response by name, its fields as numbers -/
  spdm : Option (String × List Nat) := none
  transcript : List Byte := []
  deriving DecidableEq, Repr

/-- The supply, thermal, clock and power-state registers (14_power). -/
structure Power where
  target : BitVec 3 := 0
  state : BitVec 3 := 0
  busy : Bool := false
  sEmerg : Bool := false
  tEmerg : Bool := false
  phase : BitVec 2 := 0
  code : Code := 0
  idleUs : BitVec 16 := 50
  groupPll : BitVec 16 := 0
  diePll : BitVec 4 := 0
  hubPll : Bool := false
  /-- PLLs that are starting (EC groups 0 to 15, dies 16 to 19, hub 20) with their failed tries -/
  starting : Tab Nat := []
  /-- waiting doorbells of the always-on latch (R420): the page's partition (none: the supervisor page), data, and what the read of the
  host ring of a queue with HOST returns (log 44) -/
  latch : List (Option Nat × Word64 × HostRead) := []
  latchReported : Bool := false
  /-- a transition or a register hot reset in progress: the state to reach -/
  moving : Option (BitVec 3) := none
  hotReset : Bool := false
  railMv : Tab Nat := []
  railWarn : Tab Nat := []
  railReset : Tab Nat := []
  dip : BitVec 6 := 0
  warn : BitVec 6 := 0
  warnSince : Tab CTime := []
  thermEmerg : BitVec 8 := 105
  thermWarn : BitVec 8 := 95
  thermAbove : Bool := false
  tripped : Bool := false
  hotDie : BitVec 3 := 0
  maxTemp : BitVec 8 := 0
  temps : List Nat := [0, 0, 0, 0, 0]
  /-- HUB_RST_CAUSE: POWER_ON, WARM, HOT, RAIL, WDOG -/
  causePowerOn : Bool := true
  causeWarm : Bool := false
  causeHot : Bool := false
  causeRail : Bool := false
  causeWdog : Bool := false
  railN : BitVec 3 := 0
  pwrEn : Bool := true
  coreRails : Bool := false
  /-- PERST#: accepted as deasserted now, and ever since power-on -/
  perstHigh : Bool := false
  perstReleased : Bool := false
  lpdTrained : Bool := false
  hbmTrained : Bool := false
  /-- binding is stopped (R418, R432) -/
  noBinding : Bool := false
  /-- tiers in self-refresh -/
  selfRefresh : Bool := false
  deriving DecidableEq, Repr

/-- The header of a message at the sideband pins (15_trust R450): the 7-bit address that it is written to, whether its PEC is right, and the
vendor ID of a vendor-defined request. -/
structure Smbus where
  address : BitVec 7
  pecOk : Bool
  vendor : BitVec 16
  deriving DecidableEq, Repr

/-- Boot, identity and the management core (15_trust). -/
structure Trust where
  /-- the header of the message that stands at the sideband pins, where it is not one to this part (log 132) -/
  smbus : Option Smbus := none
  stage : BitVec 3 := 0
  source : Bool := false
  updating : Bool := false
  code : Code := 0
  rcvBusy : Bool := false
  rcvPages : BitVec 14 := 0
  svnMin : BitVec 7 := 0
  revoked : BitVec 4 := 0
  rootKeys : Tab (BitVec 512) := []
  /-- identity words (die × 4 + word) -/
  fuses : Tab (BitVec 32) := []
  /-- repair map: (EC × 2 + engine) × 16 + group → failed physical position -/
  repairs : Tab Nat := []
  spiNor : List Byte := []
  sram : List Byte := []
  sramLocked : Bool := false
  /-- the image that an FW_UPDATE programs, and its supervisor slot -/
  update : Option (List Byte × SupSlot) := none
  wdogEn : Bool := false
  wdogLock : Bool := false
  wdogTimeout : BitVec 16 := 2000
  wdogSince : CTime := 0
  locRack : BitVec 16 := 0
  smbAddr : BitVec 2 := 0
  eid : BitVec 8 := 0
  /-- the last sideband response: status and body -/
  sideband : Option (Code × List Byte) := none
  /-- the last MCTP control response -/
  mctp : List Byte := []
  /-- the header of the last response: source address, message type and vendor ID (R450) -/
  reply : Option (BitVec 7 × BitVec 8 × BitVec 16) := none
  deriving DecidableEq, Repr

/-- Snapshots (16_counters R458, R459). The shadow tables mirror the counter tables of the units. -/
structure Snap where
  clear : Bool := false
  tLo : BitVec 32 := 0
  tHi : BitVec 32 := 0
  armed : Option CTime := none
  taken : Bool := false
  done : Bool := false
  refused : Bool := false
  count : BitVec 16 := 0
  lastT : CTime := 0
  /-- shadow counters: block number × 4096 + index -/
  shadow : Tab Word64 := []
  deriving DecidableEq, Repr

/-- The state of the part. -/
structure State where
  /-- the commands that are waiting, first in, first out -/
  pending : List Instr
  /-- the caravan time counter (00_scope R9, 09_route R292) and whether it counts -/
  time : CTime
  timeRuns : Bool
  /-- the model's own counter of free values drawn (log 3) -/
  free : Nat
  /-- device memory of the tiers and the SRAM windows (02_package R46), canonical -/
  mem : List Host.Cell
  /-- bad symbols of each 64-byte line of the tiers (02_package R42), by line number -/
  bad : Tab Nat
  /-- the next line of the patrol scrub (02_package R44) -/
  scrub : Nat
  refreshes : Nat
  /-- stores, BAR2 writes and doorbells that wait in the hub, oldest first (02_package R38, 13_host R401) -/
  posted : List Posted
  hbmWindows : Tab Window
  lpdWindows : Tab Window
  dies : Tab Die
  ecs : Tab Ec
  stewards : Tab Steward
  /-- slots by unit × 64 + slot; EC units 0 to 127, link stream units 128 to 130 -/
  slots : Tab Slot
  /-- command queues of the three link stream units, the hub port's records and its acceptance count -/
  unitQueues : Tab (List Place)
  hubMacros : List MacroRec
  hubAccepted : Nat
  /-- by (die × 64 + context) × 64 + barrier ID -/
  dieBarriers : Tab DieBarrier
  partitions : Tab Partition
  contexts : Tab Context
  queues : Tab Queue
  /-- where firmware keeps the queue table (12_partitions R372); 0 before it has a place -/
  queueTable : Nat
  ports : Tab Port
  groups : Tab Group
  ring : Ring
  sync : TimeSync
  pcie : Pcie
  doe : Doe
  power : Power
  trust : Trust
  snap : Snap
  log : List LogRec
  /-- records written since power-on (16_counters R461) -/
  logHead : Nat
  hubCounters : Tab Word64
  routeCounters : Tab Word64
  linkCounters : Tab Word64
  deriving DecidableEq, Repr

/-- The machine right after a power-on reset (14_power R426, R429, R430): the always-on domain has left reset, caravan
time counts from 0, no core rail is up, and every register stands at its reset value. Register values that the manual
does not give are named in logs 4 to 6 and 10. -/
def State.reset : State where
  pending := []
  time := 0
  timeRuns := true
  free := 0
  mem := []
  bad := []
  scrub := 0
  refreshes := 0
  posted := []
  hbmWindows := []
  lpdWindows := []
  dies := []
  ecs := []
  stewards := []
  slots := []
  unitQueues := []
  hubMacros := []
  hubAccepted := 0
  dieBarriers := []
  partitions := []
  contexts := []
  queues := []
  queueTable := 0
  ports := []
  groups := []
  ring := {}
  sync := {}
  pcie := {}
  doe := {}
  power := {}
  trust := {}
  snap := {}
  log := []
  logHead := 0
  hubCounters := []
  routeCounters := []
  linkCounters := []

end Sys2Proof.Machine
end

