-- ==== Sys2Proof/Machine/Ops.lean ====
section
/-! DEFINITION. The shared operations over tables, memory, registers of the units, counters, the error log and MSI-X. -/

namespace Sys2Proof.Machine

/-- The answer of every command of this block: a state, or a reason to stop. -/
abbrev Answer := Host.Outcome State Fault Refusal

/-- A command whose start condition holds takes its effect; otherwise the step it names does not occur and nothing
changes (log 1). -/
def whenEnabled (c : Bool) (s t : State) : Answer := if c then .next t else .next s

/-- The core clocks run: the part is not in the fault hold (14_power R425). -/
def coreClocks (s : State) : Bool := s.power.state != 7

/-- A step of a unit that a core PLL clocks: in the fault hold it does not occur (14_power R410, R425). -/
def whileClocked (s : State) (a : Answer) : Answer := if coreClocks s then a else .next s

/-! ### Tables -/

/-- The value of entry `k`, or the default `d`. -/
def tabGet {α : Type} (d : α) : Tab α → Nat → α
  | [], _ => d
  | (j, v) :: r, k => if j = k then v else tabGet d r k

/-- Entry `k` becomes `v`; the entries stay in rising order. -/
def tabSet {α : Type} : Tab α → Nat → α → Tab α
  | [], k, v => [(k, v)]
  | (j, w) :: r, k, v =>
    if j = k then (k, v) :: r else if k < j then (k, v) :: (j, w) :: r else (j, w) :: tabSet r k v

/-- Entry `k` becomes what `f` makes of it. -/
def tabMod {α : Type} (d : α) (t : Tab α) (k : Nat) (f : α → α) : Tab α := tabSet t k (f (tabGet d t k))

/-- The table without entry `k`. -/
def tabErase {α : Type} (t : Tab α) (k : Nat) : Tab α := t.filter fun e => e.1 != k

/-! ### Bytes -/

/-- The number that bytes spell, little-endian (00_scope R7). -/
def leNat : List Byte → Nat
  | [] => 0
  | b :: r => b.toNat + 256 * leNat r

/-- The low `n` bytes of a number, little-endian (00_scope R7). -/
def natLe : Nat → Nat → List Byte
  | 0, _ => []
  | n + 1, v => BitVec.ofNat 8 v :: natLe n (v / 256)

/-- Bits [hi:lo] of a number (00_scope R7). -/
def bits (v hi lo : Nat) : Nat := v / 2 ^ lo % 2 ^ (hi - lo + 1)

/-- Bit `i` of a number. -/
def bit (v i : Nat) : Bool := v / 2 ^ i % 2 == 1

/-- A Bool as bit `i` of a register. -/
def atBit (b : Bool) (i : Nat) : Nat := if b then 2 ^ i else 0

/-! ### The memory list -/

/-- What an unlisted address reads as (log 5). -/
def unlisted : Byte := 0

/-- The byte at an address. -/
def cellGet : List Host.Cell → Nat → Byte
  | [], _ => unlisted
  | (j, v) :: r, a => if j = a then v else cellGet r a

/-- The byte at `a` becomes `v`: addresses stay strictly rising and no cell holds what an unlisted address reads as. -/
def cellSet : List Host.Cell → Nat → Byte → List Host.Cell
  | [], a, v => if v = unlisted then [] else [(a, v)]
  | (j, w) :: r, a, v =>
    if j = a then (if v = unlisted then r else (a, v) :: r)
    else if a < j then (if v = unlisted then (j, w) :: r else (a, v) :: (j, w) :: r)
    else (j, w) :: cellSet r a v

/-- Bytes `a` to `a + n - 1`. -/
def cellsRead (m : List Host.Cell) (a : Nat) : Nat → List Byte
  | 0 => []
  | n + 1 => cellGet m a :: cellsRead m (a + 1) n

/-- Bytes from `a` on become `bs`, in increasing address. -/
def cellsWrite (m : List Host.Cell) (a : Nat) : List Byte → List Host.Cell
  | [] => m
  | b :: r => cellsWrite (cellSet m a b) (a + 1) r

/-- The memory without the cells from `lo` to `hi - 1`: their contents are undefined (14_power R429; log 5). -/
def cellsDrop (m : List Host.Cell) (lo hi : Nat) : List Host.Cell := m.filter fun c => c.1 < lo || hi ≤ c.1

/-- The canonical form: strictly rising addresses, all at or above `lo`, and no cell that holds an unlisted value. -/
def cellsWfFrom : Nat → List Host.Cell → Bool
  | _, [] => true
  | lo, (a, v) :: r => decide (lo ≤ a) && v != unlisted && cellsWfFrom (a + 1) r

/-- The canonical form of memory. -/
def Memory.wf (m : List Host.Cell) : Bool := cellsWfFrom 0 m

/-! ### The device physical address map (02_package R36, R40, R46 to R48) -/

/-- Where a device physical address lies. -/
inductive Region where
  | hbm (w : Nat)
  | lpd (w : Nat)
  | sram (ec : Nat)
  | registers (offset : Nat)
  | unmapped
  deriving DecidableEq, Repr

def hbmWindowSize : Nat := 0x600000000
def lpdBase : Nat := 0x100000000000
def lpdWindowSize : Nat := 0x3000000000
def sramBase : Nat := 0x3F0000000000
def sramSize : Nat := 0x1000000
def regBase : Nat := 0x3FFF00000000
def regSize : Nat := 0x5000000

/-- 02_package R46: the decode of the 48-bit space. -/
def regionOf (a : Nat) : Region :=
  if a < 0xC000000000 then .hbm (a / hbmWindowSize)
  else if lpdBase ≤ a ∧ a < 0x130000000000 then .lpd ((a - lpdBase) / lpdWindowSize)
  else if sramBase ≤ a ∧ a < sramBase + 128 * sramSize then .sram ((a - sramBase) / sramSize)
  else if regBase ≤ a ∧ a < regBase + regSize then .registers (a - regBase)
  else .unmapped

/-- The offset in the register space, if the address lies there. -/
def registerOffset (a : Nat) : Option Nat := match regionOf a with | .registers o => some o | _ => none

/-- 02_package R38: window `w` of a tier is decoded. -/
def windowDecoded (t : Tab Window) (w : Nat) : Bool :=
  let x := tabGet {} t w
  let n := 2 ^ x.setLog2.toNat
  let b := x.setBase.toNat
  x.valid && b % n == 0 && decide (b ≤ w) && decide (w < b + n) &&
    (List.range n).all fun i =>
      let y := tabGet {} t (b + i)
      y.setLog2 == x.setLog2 && y.setBase == x.setBase

/-- The walk of 02_package R36 and R40 inside one set: the pseudo-channel or channel, the granule within it, the byte. -/
def channelWalk (t : Tab Window) (windowSize a : Nat) : Nat × Nat × Nat :=
  let x := tabGet {} t (a / windowSize)
  let b := x.setBase.toNat
  let k := x.setLog2.toNat + 3
  let o := a - b * windowSize
  let q := o / 256
  (8 * b + Nat.xor (q % 2 ^ k) (q / 2 ^ k % 2 ^ k), q / 2 ^ k, o % 256)

/-- Whether the address is decoded at all (02_package R46); the register space counts as decoded. -/
def addrDecoded (s : State) (a : Nat) : Bool :=
  match regionOf a with
  | .hbm w => windowDecoded s.hbmWindows w
  | .lpd w => windowDecoded s.lpdWindows w
  | .sram _ => true
  | .registers _ => true
  | .unmapped => false

/-- The pseudo-channel (false) or LPDDR5X channel (true) of a tier address (02_package R35, R40). -/
def channelOf (s : State) (a : Nat) : Option (Bool × Nat) :=
  match regionOf a with
  | .hbm _ => some (false, (channelWalk s.hbmWindows hbmWindowSize a).1)
  | .lpd _ => some (true, (channelWalk s.lpdWindows lpdWindowSize (a - lpdBase)).1)
  | _ => none

/-- The home die of a line (02_package R49). -/
def homeDie (s : State) (a : Nat) : Option Nat :=
  match channelOf s a with
  | some (false, pc) => some (pc / 64)
  | some (true, ch) => some (ch / 32)
  | none => none

/-- The highest-numbered decoded LPDDR5X window, whose top 1 GiB is the firmware region (12_partitions R361). -/
def firmwareWindow (s : State) : Option Nat :=
  ((List.range 16).reverse.filter fun w => windowDecoded s.lpdWindows w).head?

/-- 12_partitions R361: the address lies in the firmware region. -/
def inFirmwareRegion (s : State) (a : Nat) : Bool :=
  match firmwareWindow s with
  | some w =>
    let top := lpdBase + (w + 1) * lpdWindowSize
    decide (top - 0x40000000 ≤ a) && decide (a < top)
  | none => false

/-! ### Core PLLs (14_power R410, R413) -/

/-- The part's power registers after `f`. -/
def State.modPower (s : State) (f : Power → Power) : State := { s with power := f s.power }

/-- The PLL runs locked: groups 0 to 15, dies 16 to 19, the hub 20. -/
def pllRuns (s : State) (p : Nat) : Bool :=
  if p < 16 then s.power.groupPll.getLsbD p else if p < 20 then s.power.diePll.getLsbD (p - 16) else s.power.hubPll

/-- The PLL of an EC's group runs locked: what belongs to the EC goes on. -/
def ecClocked (s : State) (e : Nat) : Bool := pllRuns s (e / 8)

/-- The units of a stream or of a command queue are clocked: those of an EC by its group, the hub's by the hub. -/
def unitClocked (s : State) (u : Nat) : Bool := decide (128 ≤ u) || ecClocked s u

/-- R413: an access to a register at `off` finds the unit's clock: in Run that of the EC's group, in Run and in Idle that of the die. An access
that does not waits until the PLL has locked. -/
def regClocked (s : State) (off : Nat) : Bool :=
  let w := off / 0x1000000
  let o := off % 0x1000000
  if w = 0 ∨ 5 ≤ w ∨ 0xC00000 ≤ o then true
  else
    let d := w - 1
    if s.power.state = 0 ∧ o < 0x800000 then pllRuns s (4 * d + o / 0x200000)
    else if s.power.state = 0 ∧ 0xA00000 ≤ o ∧ o < 0xA20000 then pllRuns s (4 * d + (o - 0xA00000) / 0x8000)
    else !(s.power.state == 0 || s.power.state == 1) || pllRuns s (16 + d)

/-- R413: an access to an address of memory finds its clock: an SRAM window in Run that of the EC's group, a line of a tier in Run and in Idle
that of its home die. -/
def memClocked (s : State) (a : Nat) : Bool :=
  match regionOf a, homeDie s a with
  | .sram e, _ => s.power.state != 0 || ecClocked s e
  | _, some d => !(s.power.state == 0 || s.power.state == 1) || pllRuns s (16 + d)
  | _, none => true

/-! ### Units of the state -/

def State.ecAt (s : State) (e : Nat) : Ec := tabGet {} s.ecs e
def State.setEc (s : State) (e : Nat) (x : Ec) : State := { s with ecs := tabSet s.ecs e x }
def State.modEc (s : State) (e : Nat) (f : Ec → Ec) : State := s.setEc e (f (s.ecAt e))
def State.dieAt (s : State) (d : Nat) : Die := tabGet {} s.dies d
def State.setDie (s : State) (d : Nat) (x : Die) : State := { s with dies := tabSet s.dies d x }
def State.modDie (s : State) (d : Nat) (f : Die → Die) : State := s.setDie d (f (s.dieAt d))
def State.stewardAt (s : State) (st : Nat) : Steward := tabGet {} s.stewards st
def State.setSteward (s : State) (st : Nat) (x : Steward) : State := { s with stewards := tabSet s.stewards st x }
def State.modSteward (s : State) (st : Nat) (f : Steward → Steward) : State := s.setSteward st (f (s.stewardAt st))
def State.slotAt (s : State) (u i : Nat) : Slot := tabGet {} s.slots (u * 64 + i)
def State.setSlot (s : State) (u i : Nat) (x : Slot) : State := { s with slots := tabSet s.slots (u * 64 + i) x }
def State.partAt (s : State) (p : Nat) : Partition := tabGet {} s.partitions p
def State.setPart (s : State) (p : Nat) (x : Partition) : State := { s with partitions := tabSet s.partitions p x }
def State.ctxAt (s : State) (c : Nat) : Context := tabGet {} s.contexts c
def State.setCtx (s : State) (c : Nat) (x : Context) : State := { s with contexts := tabSet s.contexts c x }
def State.modCtx (s : State) (c : Nat) (f : Context → Context) : State := s.setCtx c (f (s.ctxAt c))
def State.queueAt (s : State) (q : Nat) : Queue := tabGet {} s.queues q
def State.setQueue (s : State) (q : Nat) (x : Queue) : State := { s with queues := tabSet s.queues q x }
def State.portAt (s : State) (n : Nat) : Port := tabGet {} s.ports n
def State.setPort (s : State) (n : Nat) (x : Port) : State := { s with ports := tabSet s.ports n x }
def State.groupAt (s : State) (g : Nat) : Group := tabGet {} s.groups g
def State.setGroup (s : State) (g : Nat) (x : Group) : State := { s with groups := tabSet s.groups g x }
def State.functionAt (s : State) (f : Nat) : Function := tabGet {} s.pcie.functions f
def State.setFunction (s : State) (f : Nat) (x : Function) : State :=
  { s with pcie := { s.pcie with functions := tabSet s.pcie.functions f x } }
def Ec.engineAt (x : Ec) (e : Nat) : Engine := tabGet {} x.engines e
def Ec.setEngine (x : Ec) (e : Nat) (g : Engine) : Ec := { x with engines := tabSet x.engines e g }
def State.engineAt (s : State) (e g : Nat) : Engine := (s.ecAt e).engineAt g
def State.setEngine (s : State) (e g : Nat) (x : Engine) : State := s.modEc e fun c => c.setEngine g x

/-- Mladkin holds the EC halted, or its halt is in progress (16_counters R462). -/
def ecStopped (s : State) (e : Nat) : Bool := decide (e < 128) && ((s.ecAt e).dbg.halting || (s.ecAt e).dbg.halted)

/-! ### Numbers of stewards, ECs and dies (00_scope, 11_steward R333) -/

/-- The EC of an EC steward. -/
def stewardEc (st : Fin 264) : Option (Fin 128) := if h : st.val / 2 < 128 then some ⟨st.val / 2, h⟩ else none
/-- Whether a steward is one of the hub's. -/
def isHub (st : Fin 264) : Bool := decide (256 ≤ st.val)
/-- The die of an EC (02_package R33). -/
def ecDie (e : Nat) : Nat := e / 32
/-- The ledger, or 4 for the hub command port, that takes a steward's command words (11_steward R345, R347). -/
def stewardPort (st : Fin 264) : Fin 5 := if h : st.val / 64 < 4 then ⟨st.val / 64, Nat.lt_succ_of_lt h⟩ else 4
/-- The partition whose resources bound a steward's accesses; none at level F (11_steward R336, R338). -/
def stewardPartition (s : State) (st : Fin 264) : Option Nat :=
  let x := s.stewardAt st
  if x.pl = 2 then none else some x.part.toNat
/-- The context bound to a steward (11_steward R338, 12_partitions R367). -/
def stewardCtx (s : State) (st : Fin 264) : Option (Fin 64) :=
  let x := s.stewardAt st
  if x.bound then some ⟨x.ctx.toNat, x.ctx.isLt⟩ else none

/-! ### Counters (16_counters R456, R457) -/

/-- A counter table with counter `i` increased by `n`, modulo 2^64. -/
def bumpBy (t : Tab Word64) (i n : Nat) : Tab Word64 := tabMod 0 t i fun v => v + BitVec.ofNat 64 n
def bumpHub (s : State) (i : Nat) : State := { s with hubCounters := bumpBy s.hubCounters i 1 }
def bumpRoute (s : State) (i : Nat) : State := { s with routeCounters := bumpBy s.routeCounters i 1 }
def bumpLink (s : State) (i : Nat) : State := { s with linkCounters := bumpBy s.linkCounters i 1 }
def bumpEcBy (s : State) (e i n : Nat) : State := s.modEc e fun c => { c with counters := bumpBy c.counters i n }
def bumpEc (s : State) (e i : Nat) : State := bumpEcBy s e i 1
def bumpWalker (s : State) (d i : Nat) : State := s.modDie d fun x => { x with walkerCounters := bumpBy x.walkerCounters i 1 }
def bumpDrg (s : State) (d i n : Nat) : State := s.modDie d fun x => { x with drgCounters := bumpBy x.drgCounters i n }
def bumpLedger (s : State) (d i : Nat) : State := s.modDie d fun x => { x with ledgerCounters := bumpBy x.ledgerCounters i 1 }
def bumpCache (s : State) (d i : Nat) : State := s.modDie d fun x => { x with cacheCounters := bumpBy x.cacheCounters i 1 }

/-- Indices of the hub's counters (16_counters). -/
def cntMemCfgErr : Nat := 0
def cntPartCfgErr : Nat := 1
def cntDbBad : Nat := 2
def cntBarErr : Nat := 3
def cntAtsFail : Nat := 4
def cntLockViol : Nat := 5
def cntRailDip : Nat := 6
def cntLpdCe : Nat := 16

/-! ### Free values (log 3) -/

/-- The next free value, and the state that has drawn it. -/
def drawFree (s : State) : Word64 × State := (Config.freeValue s.free, { s with free := s.free + 1 })

/-! ### MSI-X (13_host R404, R405) -/

/-- 13_host R404: the function and the entry that deliver a device vector. -/
def vectorEntry (s : State) (v : Nat) : Nat × Nat :=
  if v < 256 then (0, v)
  else
    let k := (v - 256) / 224 + 1
    if s.pcie.vfEnable && decide (k ≤ s.pcie.numVfs.toNat) then (k, (v - 256) % 224) else (0, v)

/-- 13_host R405, 15_trust R440: an entry's message goes out now. -/
def msixOpen (s : State) (f e : Nat) : Bool :=
  let x := s.functionAt f
  x.msixEnable && !x.functionMask && x.unmasked.contains e && !x.d3hot && s.trust.stage != 4

/-- 13_host R405: a vector is raised; its message is sent, or its pending bit is set once. -/
def raiseVector (s : State) (v : Nat) : State :=
  let fe := vectorEntry s v
  if msixOpen s fe.1 fe.2 then { s with pcie := { s.pcie with sent := s.pcie.sent ++ [fe] } }
  else
    let x := s.functionAt fe.1
    if x.pending.contains fe.2 then s else s.setFunction fe.1 { x with pending := x.pending ++ [fe.2] }

/-! ### AER (13_host R406) -/

/-- The PCI Express interface after `f`. -/
def State.modPcie (s : State) (f : Pcie → Pcie) : State := { s with pcie := f s.pcie }

/-- The bit of an uncorrectable error in the status, mask and severity registers of the base specification (log 130). -/
def aerBit (e : String) : Nat :=
  match e with
  | "Data Link Protocol Error" => 4 | "Poisoned TLP Received" => 12 | "Flow Control Protocol Error" => 13 | "Completion Timeout" => 14
  | "Unexpected Completion" => 16 | "Receiver Overflow" => 17 | "Malformed TLP" => 18 | "Unsupported Request" => 20
  | _ => 22

/-- An uncorrectable error is detected: its status bit is set, and unless it is masked it is sent at its severity. -/
def reportAer (s : State) (e : String) : State :=
  let b := aerBit e
  s.modPcie fun x => { x with
    aer := x.aer ++ [e]
    aerStatus := x.aerStatus ||| BitVec.ofNat 32 (2 ^ b)
    aerSent := if x.aerMask.getLsbD b then x.aerSent else x.aerSent ++ [(e, x.aerSeverity.getLsbD b)] }

/-! ### The error log (16_counters R461) -/

/-- A record without partition, context, address or detail: the unit kind, the unit and the code. -/
def plainRec (s : State) (kind unit : Nat) (code : Code) : LogRec :=
  { ct := s.time, code, kind, flags := if s.sync.synced || s.sync.master then 0 else 1, unit, part := 0, ctx := 0,
    addr := 0, queue := 0, slot := 0, detail := [] }

/-- The record with its partition and context (FLAGS [1]). -/
def withCtx (r : LogRec) (part ctx : Nat) : LogRec := { r with flags := r.flags ||| 2#8, part, ctx }

/-- The record with its address (FLAGS [2]). -/
def withAddr (r : LogRec) (a : Nat) : LogRec := { r with flags := r.flags ||| 4#8, addr := a }

/-- The record with its DETAIL. For classes 2, 5 and 7 it is the first 24 bytes of the reporting unit's fault word, which the manual does
not describe: free values (log 104). The form of the mask of an uncorrectable line's bad symbols is open too (log 40). -/
def withDetail (s : State) (r : LogRec) : LogRec × State :=
  if r.detail.length = 1 ∧ (r.code = 0x4001 ∨ r.code = 0x4002) then
    let m := drawFree s
    ({ r with detail := r.detail ++ (natLe 4 m.1.toNat).map BitVec.toNat }, m.2)
  else
  if r.detail = [] ∧ (r.code.cls = 2 ∨ r.code.cls = 5 ∨ r.code.cls = 7) then
    let a := drawFree s
    let b := drawFree a.2
    let c := drawFree b.2
    ({ r with detail := (natLe 8 a.1.toNat ++ natLe 8 b.1.toNat ++ natLe 8 c.1.toNat).map BitVec.toNat }, c.2)
  else (r, s)

/-- A record is written: the log keeps the last 4,096, and vector 0 is raised after it. -/
def logWrite (s : State) (r : LogRec) : State :=
  let x := withDetail s r
  let log := s.log ++ [x.1]
  raiseVector { x.2 with log := log.drop (log.length - 4096), logHead := s.logHead + 1 } 0

/-- A record of a unit without more. -/
def logPlain (s : State) (kind unit : Nat) (code : Code) : State := logWrite s (plainRec s kind unit code)

/-! ### Resources of a partition (12_partitions R360, R361; 10_streams R323) -/

/-- The EC belongs to the partition. -/
def partHasEc (s : State) (p e : Nat) : Bool :=
  (s.partAt p).active && (tabGet 0 (s.partAt p).ecs (e / 32)).getLsbD (e % 32)

/-- The address lies in the resources of the active partition. -/
def partHasAddr (s : State) (p a : Nat) : Bool :=
  let x := s.partAt p
  x.active && !inFirmwareRegion s a &&
    match regionOf a with
    | .hbm w => x.hbm.getLsbD w
    | .lpd w => x.lpd.getLsbD w
    | .sram e => (tabGet 0 x.ecs (e / 32)).getLsbD (e % 32)
    | .registers _ => false
    | .unmapped => false

/-! ### Reading and writing memory as the units do -/

/-- The number of a 64-byte line (02_package R42). -/
def lineOf (a : Nat) : Nat := a / 64

/-- 02_package R42: what a line of four or more bad symbols does is open (log 11): 0 reported, 1 wrong data, 2 data. -/
def openVerdict (s : State) (line : Nat) : Nat := (Config.freeValue (s.free + line)).toNat % 3

/-- WAYS of a partition on a die (02_package R51). -/
def wayMask (s : State) (d p : Nat) : BitVec 16 := tabGet 0 (s.dieAt d).wayMasks p

/-- The ways that a partition has: those of its mask that no lower-numbered partition names (02_package R51). -/
def waysOf (s : State) (d p : Nat) : BitVec 16 := (List.range p).foldl (fun m q => m &&& ~~~(wayMask s d q)) (wayMask s d p)

/-- The line that a partition's access finds in a home cache: a line of its own ways (02_package R51); firmware and the PF, which
have no ways, find a line of any way (log 41). -/
def cacheFind (s : State) (d : Nat) (p : Option Nat) (line : Nat) : Option CacheLine :=
  match (s.dieAt d).cache.find? fun l => l.1 == line with
  | none => none
  | some l =>
    match p with
    | none => some l.2
    | some p => if (waysOf s d p).getLsbD l.2.way then some l.2 else none

/-- An access of a partition finds the line in its home cache. -/
def lineCached (s : State) (p : Option Nat) (a : Nat) : Bool :=
  match homeDie s a with
  | some d => (cacheFind s d p (a / 128)).isSome
  | none => false

/-- 02_package R42, R49: reading the line for a partition meets an uncorrectable error. A line that the access finds in its home cache
does not meet the error stored in the tier. -/
def lineUncorrectable (s : State) (p : Option Nat) (a : Nat) : Bool :=
  let b := tabGet 0 s.bad (lineOf a)
  (b == 2 || b == 3 || (decide (4 ≤ b) && openVerdict s (lineOf a) == 0)) && !lineCached s p a

/-- The byte that a reader gets (02_package R42): the stored byte, but for a line of four or more bad symbols that is
corrected to wrong data and that no home cache holds. -/
def byteAt (s : State) (a : Nat) : Byte :=
  if 4 ≤ tabGet 0 s.bad (lineOf a) ∧ openVerdict s (lineOf a) = 1 ∧ !lineCached s none a then (Config.freeValue (s.free + a)).setWidth 8
  else cellGet s.mem a

/-- The code of the tier of an address for an uncorrectable error (10_streams R326). -/
def uncorrectableCode (a : Nat) : Code :=
  match regionOf a with
  | .hbm _ => 0x4001
  | .lpd _ => 0x4002
  | _ => 0x4003

/-- 10_streams R323: the code of an access to one byte by a unit of partition `p` (none: firmware, not checked), or 0. -/
def accessCode (s : State) (p : Option Nat) (a : Nat) : Code :=
  if !addrDecoded s a then 0x4004
  else match p with
    | none => if (match regionOf a with | .registers _ => true | _ => false) then 0x4004 else 0
    | some q => if partHasAddr s q a then 0 else 0x4005

/-- The bytes that a reader gets. -/
def bytesAt (s : State) (a : Nat) : Nat → List Byte
  | 0 => []
  | n + 1 => byteAt s a :: bytesAt s (a + 1) n

/-- The unsigned number in `n` bytes at `a`. -/
def natAt (s : State) (a n : Nat) : Nat := leNat (bytesAt s a n)

/-- 48-bit address of an 8-byte field whose upper bits are reserved (05_macro R126 and the like). -/
def addrAt (s : State) (a : Nat) : Nat := natAt s a 8 % 2 ^ 48

/-- The lines that a write covers whole lose their stored errors (02_package R42). -/
def clearBad (t : Tab Nat) (a n : Nat) : Tab Nat :=
  t.filter fun e => !(decide (a ≤ e.1 * 64) && decide (e.1 * 64 + 64 ≤ a + n))

/-- Bytes are stored at `a`. -/
def store (s : State) (a : Nat) (bs : List Byte) : State :=
  { s with mem := cellsWrite s.mem a bs, bad := clearBad s.bad a bs.length }

/-- A number is stored little-endian in `n` bytes at `a`. -/
def storeNat (s : State) (a n v : Nat) : State := store s a (natLe n v)

/-! ### SRAM windows (02_package R48) -/

/-- Mladkin holds the EC halted, or it runs no context: accesses from outside take effect. -/
def sramOpen (s : State) (e : Nat) : Bool :=
  (s.ecAt e).bound.isNone || ((s.ecAt e).dbg.attach && (s.ecAt e).dbg.halted)

/-- 02_package R48: an access for context `c` to the window of EC `e` takes effect. -/
def sramAllowed (s : State) (c : Option (Fin 64)) (e : Nat) : Bool :=
  sramOpen s e || (c.isSome && (s.ecAt e).bound == c)

/-- 14_power R422, R424, R425: issue is held on a die by a supply warning of its rail or of VDD_H, or by a hold on every
die. -/
def supplyHold (s : State) (d : Nat) : Bool :=
  s.power.warn.getLsbD d || s.power.warn.getLsbD 4 || s.power.sEmerg || s.power.tEmerg

/-- An EC's engines and row unit may issue: no supply hold, and Mladkin does not halt it (16_counters R462). -/
def ecIssues (s : State) (e : Nat) : Bool :=
  !supplyHold s (ecDie e) && !(s.ecAt e).dbg.halting && !(s.ecAt e).dbg.halted

/-! ### Windows under HOLD (02_package R38; 14_power R415) -/

/-- The window of a tier address: whether it is LPDDR5X, and its number. -/
def windowAt (a : Nat) : Option (Bool × Nat) :=
  match regionOf a with
  | .hbm w => some (false, w)
  | .lpd w => some (true, w)
  | _ => none

/-- A window of a tier. -/
def State.window (s : State) (lpd : Bool) (w : Nat) : Window := tabGet {} (if lpd then s.lpdWindows else s.hbmWindows) w

/-- The window of an address is under HOLD, or its tier is in self-refresh. -/
def tierHeld (s : State) (a : Nat) : Bool :=
  match windowAt a with
  | some (lpd, w) => (s.window lpd w).hold || s.power.selfRefresh
  | none => false

/-- A new access waits: at a window under HOLD (02_package R38), at a tier in self-refresh (14_power R415), or for a PLL that has not locked
(14_power R413). -/
def windowHeld (s : State) (a : Nat) : Bool := tierHeld s a || !memClocked s a

/-! ### Caravan time -/

/-- A caravan time plus a number of nanoseconds. -/
def ctAdd (t : CTime) (n : Nat) : CTime := t + BitVec.ofNat 64 n
/-- Caravan time has reached `t`. -/
def reached (s : State) (t : CTime) : Bool := decide (t.toNat ≤ s.time.toNat)
/-- SYNCED reads 1: always on the master (09_route R294). -/
def isSynced (s : State) : Bool := s.sync.master || s.sync.synced

end Sys2Proof.Machine
end

