-- ==== Sys2Proof/Machine/Links.lean ====
section
/-! DEFINITION. The groups of the Route links, their virtual channels and credits, and the messages that wait to be sent (09_route R271, R274,
R275, R277, R278, R280; 10_streams R315, R322). -/

namespace Sys2Proof.Machine

/-! ### Groups, virtual channels and credits (R271, R275, R277, R278) -/

/-- The group of a port. -/
def portGroup (n : Nat) : Nat := n / 8
/-- The ports of a group. -/
def groupPorts (g : Nat) : List Nat := (List.range 8).map (8 * g + ·)
/-- The UP ports of a group, lowest first. -/
def upPorts (s : State) (g : Nat) : List Nat := (groupPorts g).filter fun n => (s.portAt n).state == 3
/-- The VC of a message type; none for a reserved type (R275). -/
def typeVc (t : Nat) : Option Nat :=
  match t with
  | 0x01 => some 0 | 0x02 => some 0 | 0x03 => some 0 | 0x04 => some 0
  | 0x08 => some 1 | 0x09 => some 1 | 0x0A => some 1 | 0x0B => some 1
  | 0x10 => some 2 | 0x11 => some 2 | 0x12 => some 3 | 0x13 => some 4
  | 0x18 => some 5 | 0x19 => some 6 | 0x1A => some 7 | 0x1B => some 7
  | _ => none
/-- The groups that use a VC (R277). -/
def vcUsed (g vc : Nat) : Bool :=
  if vc < 2 then true else if vc < 5 then decide (g < 2) else if vc < 7 then g == 2 else vc == 7
/-- The flits of a message. -/
def msgFlits (m : Message) : Nat := 1 + m.len
/-- VC 2, 3 and 4 draw on one count. -/
def creditVc (vc : Nat) : Nat := if 2 ≤ vc ∧ vc < 5 then 2 else vc
/-- The inbound buffer of a VC. -/
def bufferFlits (g vc : Nat) : Nat :=
  match creditVc vc with
  | 0 => 64 | 1 => 256 | 2 => if g < 2 then 131072 else 0
  | 5 => if g = 2 then 8192 else 0 | 6 => if g = 2 then 49152 else 0
  | _ => if g < 2 then 4096 else 8192
/-- The ring is FORMED. -/
def ringCarries (s : State) : Bool := s.ring.state == 2
/-- Only a ring group of a FORMED ring carries VC 2, 3 and 4 (R288). -/
def vcCarried (s : State) (g vc : Nat) : Bool := !(decide (2 ≤ vc) && decide (vc < 5)) || (ringCarries s && decide (g < 2))

/-- Credits of a VC of a group are given back. -/
def giveCredits (s : State) (g vc n : Nat) : State :=
  let x := s.groupAt g
  s.setGroup g { x with credits := tabMod 0 x.credits (creditVc vc) fun c => c + n }

/-- The credits for a message, taken if they suffice (R278). -/
def takeMsgCredits (s : State) (g : Nat) (m : Message) : Option State :=
  let x := s.groupAt g
  let k := creditVc m.vc.val
  if tabGet 0 x.credits k < msgFlits m then none
  else some (s.setGroup g { x with credits := tabMod 0 x.credits k fun c => c - msgFlits m })

/-! ### The order of messages (R277, R280; 10_streams R315) -/

/-- A message goes before another: VC 0, then VC 1, and the others by deadline, unit and slot. -/
def sendsBefore (a b : OutMessage) : Bool :=
  let r := min a.msg.vc.val 2
  let q := min b.msg.vc.val 2
  if r ≠ q then decide (r < q)
  else if r < 2 then false
  else if a.deadline ≠ b.deadline then decide (a.deadline < b.deadline)
  else if a.unit ≠ b.unit then decide (a.unit < b.unit)
  else decide (a.slot < b.slot)

/-- A message joins a list in order, behind its equals. -/
def placeMessage (l : List OutMessage) (m : OutMessage) : List OutMessage :=
  (l.filter fun x => !sendsBefore m x) ++ [m] ++ l.filter fun x => sendsBefore m x

/-- The flits that a port has still to send. -/
def portBacklog (p : Port) : Nat := (p.transmit.map fun o => msgFlits o.msg).sum - p.sentFlits

/-- The UP port whose transmit queue empties first, the lowest among equals (R280). -/
def choosePort (s : State) (g : Nat) : Option Nat :=
  (upPorts s g).foldl (fun o n =>
    match o with
    | none => some n
    | some k => if portBacklog (s.portAt n) < portBacklog (s.portAt k) then some n else some k) none

/-- A message joins the transmit queue of a port; one that has begun stays in front. -/
def queueMessage (p : Port) (m : OutMessage) : Port :=
  let begun := if 0 < p.sentFlits then 1 else 0
  { p with transmit := p.transmit.take begun ++ placeMessage (p.transmit.drop begun) m }

/-- One waiting message starts if a port is UP, its ring group is formed and the credits of its VC suffice; a VC that is held back stays in
order. -/
def startMessage (g : Nat) (st : State × List Nat) (m : OutMessage) : State × List Nat :=
  let s := st.1
  let vc := m.msg.vc.val
  let x := s.groupAt g
  let stay := (s.setGroup g { x with waiting := x.waiting ++ [m] }, creditVc vc :: st.2)
  match choosePort s g with
  | none => stay
  | some n =>
    if st.2.contains (creditVc vc) ∨ !vcCarried s g vc then stay
    else
      match takeMsgCredits s g m.msg with
      | none => stay
      | some t => (t.setPort n (queueMessage (t.portAt n) m), st.2)

/-- Every waiting message of a group that may start now joins a port. -/
def pump (s : State) (g : Nat) : State :=
  let x := s.groupAt g
  ((x.waiting.foldl placeMessage []).foldl (startMessage g) (s.setGroup g { x with waiting := [] }, [])).1

/-- The next SEQ of a VC of a group is used (R274). -/
def numberMessage (s : State) (g : Nat) (m : Message) : Message × State :=
  let x := s.groupAt g
  let n := tabGet 0 x.nextSeq m.vc.val
  ({ m with seq := n }, s.setGroup g { x with nextSeq := tabSet x.nextSeq m.vc.val (n + 1) })

/-- The name of a message that this part sends on a group. -/
def msgId (g : Nat) (m : Message) : MsgId := { group := g, vc := m.vc.val, seq := m.seq }

/-- A numbered message waits on a group, and starts if it may. -/
def passMessage (s : State) (g : Nat) (m : OutMessage) : State :=
  let x := s.groupAt g
  pump (s.setGroup g { x with waiting := x.waiting ++ [m] }) g

/-- A message is sent on a group with the next SEQ of its VC; its name is answered. -/
def sendMessage (s : State) (g : Nat) (m : OutMessage) : State × MsgId :=
  let x := numberMessage s g m.msg
  (passMessage x.2 g { m with msg := x.1 }, msgId g x.1)

/-- A message that no stream makes is sent: its deadline is its time of issue plus 2,000 ct (R315). -/
def send (s : State) (g : Nat) (m : Message) : State := (sendMessage s g { msg := m, deadline := s.time.toNat + 2000 }).1

/-- A message is sent on one port; none while its group has an UP port and the credits do not suffice (R278). -/
def sendOnPort (s : State) (n : Nat) (m : Message) : Option State :=
  let g := portGroup n
  (if upPorts s g = [] then some s else takeMsgCredits s g m).map fun t =>
    let x := numberMessage t g m
    x.2.setPort n (queueMessage (x.2.portAt n) { msg := x.1, deadline := t.time.toNat + 2000 })

/-- A message of a slot may start on a group now: an UP port, a formed ring where the VC needs one, the credits, and no message of the VC that
waits and does not come after it. -/
def canSend (s : State) (g vc flits deadline u i : Nat) : Bool :=
  (choosePort s g).isSome && vcCarried s g vc && decide (flits ≤ tabGet 0 (s.groupAt g).credits (creditVc vc)) &&
    (s.groupAt g).waiting.all fun m =>
      creditVc m.msg.vc.val != creditVc vc || decide (deadline < m.deadline) ||
        (deadline == m.deadline && (decide (u < m.unit) || (u == m.unit && decide (i < m.slot))))

/-! ### Messages that have not begun (10_streams R322) -/

/-- The group that a stream unit sends on: its own for a link stream unit, T for an EC (log 30). -/
def unitGroup (u : Nat) : Nat := if u < 128 then 2 else u - 128

/-- Messages of a slot that stand in a port's transmit queue with no flit sent. -/
def unbegun (p : Port) (u i : Nat) : List OutMessage :=
  (p.transmit.drop (if 0 < p.sentFlits then 1 else 0)).filter fun m => m.unit == u && m.slot == i

/-- The messages of a slot that have not begun, with their tiles. -/
def unbegunOf (s : State) (u i : Nat) : List (Nat × MsgId) :=
  (List.range 3).flatMap fun g =>
    ((groupPorts g).flatMap (fun n => unbegun (s.portAt n) u i) ++ ((s.groupAt g).waiting.filter fun m => m.unit == u && m.slot == i)).map
      fun m => (m.tile, msgId g m.msg)

/-- How many tiles a list of messages comes from. -/
def tilesOf (l : List (Nat × MsgId)) : Nat := (l.map Prod.fst).dedup.length

/-- The messages of a slot that have not begun leave a port, and their credits go back to its group. -/
def recallPort (s : State) (u i n : Nat) : State :=
  let p := s.portAt n
  let gone := unbegun p u i
  gone.foldl (fun t m => giveCredits t (portGroup n) m.msg.vc.val (msgFlits m.msg))
    (s.setPort n { p with transmit := p.transmit.filter fun m => !gone.contains m })

/-- The messages of a slot that have not begun are dropped. -/
def recallMessages (s : State) (u i : Nat) : State :=
  (List.range 3).foldl (fun t g =>
    let t := (groupPorts g).foldl (fun t n => recallPort t u i n) t
    let x := t.groupAt g
    t.setGroup g { x with waiting := x.waiting.filter fun m => !(m.unit == u && m.slot == i) }) s

/-- A message of a slot stands in a transmit queue, whole or in part. -/
def inTransmit (s : State) (u i : Nat) : Bool :=
  (List.range 24).any fun n => (s.portAt n).transmit.any fun m => m.unit == u && m.slot == i

end Sys2Proof.Machine
end

