-- ==== Sys2Proof/Machine/StreamDesc.lean ====
section
/-! DEFINITION. Fields of records held as bytes, and those of a stream descriptor (10_streams R306, R307). -/

namespace Sys2Proof.Machine

/-- An `n`-byte field of a command word or of another record held as bytes. -/
def field (w : List Byte) (off n : Nat) : Nat := leNat ((w.drop off).take n)

/-! ### The descriptor (R306, R307) -/

def dSrc (w : List Byte) : Nat := field w 0x00 8 % 2 ^ 48
def dDst (w : List Byte) : Nat := field w 0x08 8 % 2 ^ 48
def dTileBytes (w : List Byte) : Nat := field w 0x10 4
def dTiles (w : List Byte) : Nat := field w 0x14 4
def dSstride (w : List Byte) : Nat := field w 0x18 8
def dDstride (w : List Byte) : Nat := field w 0x20 4
def dSlots (w : List Byte) : Nat := field w 0x24 2
def dKind (w : List Byte) : Nat := field w 0x26 1 % 16
def dAbsolute (w : List Byte) : Bool := bit (field w 0x27 1) 0
/-- NOALLOC: the stream's writes do not allocate in the die caches (R306; 02_package R49). -/
def dNoAlloc (w : List Byte) : Bool := bit (field w 0x27 1) 1
def dDeadline (w : List Byte) : Nat := field w 0x28 8
def dSema (w : List Byte) : BitVec 16 := BitVec.ofNat 16 (field w 0x30 2)
def dWsem (w : List Byte) : BitVec 16 := BitVec.ofNat 16 (field w 0x32 2)
def dIdx (w : List Byte) : Nat := field w 0x38 8 % 2 ^ 48

/-- NONE of a pair field, its EC and its pair. -/
def semNone (p : BitVec 16) : Bool := p.getLsbD 15
def semEc (p : BitVec 16) : Nat := (p.extractLsb' 7 7).toNat
def semNum (p : BitVec 16) : Nat := (p.extractLsb' 0 6).toNat

end Sys2Proof.Machine
end

