-- ==== Sys2Proof/Machine/Flags.lean ====
section
/-! DEFINITION. The arithmetic flag word (03_arithmetic R69), the row status word (R83), and the EC counters that count
the same events (16_counters R457). -/

namespace Sys2Proof.Machine

/-! ### Bits of the arithmetic flag word (R69) -/

def flagSat : BitVec 16 := 0x0001
def flagNan : BitVec 16 := 0x0002
def flagInf : BitVec 16 := 0x0004
def flagOvf : BitVec 16 := 0x0008
def flagUnf : BitVec 16 := 0x0010
def flagEmpty : BitVec 16 := 0x0020
def flagClamp : BitVec 16 := 0x0040
def flagDegen : BitVec 16 := 0x0080
def flagFloor : BitVec 16 := 0x0100
def flagEpoch : BitVec 16 := 0x0200

/-- SAT, OVF and UNF: what the rounding of an intermediate result adds to the flag word; NAN and INF speak of output elements (log 19). -/
def innerFlags (f : BitVec 16) : BitVec 16 := f &&& (flagSat ||| flagOvf ||| flagUnf)

/-! ### Bits of the row status word (R83) -/

def rowEmpty : BitVec 16 := 0x0001
def rowClamp : BitVec 16 := 0x0002
def rowDegen : BitVec 16 := 0x0004
def rowFloor : BitVec 16 := 0x0008
def rowNan : BitVec 16 := 0x0010
def rowNegVar : BitVec 16 := 0x0020

/-- The flags that a row's status adds to the flag word: EMPTY, CLAMP, DEGEN and FLOOR (R69, R83). -/
def rowFlags (st : BitVec 16) : BitVec 16 :=
  (if st.getLsbD 0 then flagEmpty else 0) ||| (if st.getLsbD 1 then flagClamp else 0) |||
  (if st.getLsbD 2 then flagDegen else 0) ||| (if st.getLsbD 3 then flagFloor else 0)

/-! ### Indices of the EC counters (16_counters) -/

def cntStallSupply : Nat := 0
def cntStallPreempt : Nat := 1
def cntStallAcc : Nat := 2
def cntStallScore : Nat := 3
def cntStallDrg : Nat := 4
def cntStallSem : Nat := 5
def cntStallCredit : Nat := 6
def cntStallHbm : Nat := 7
def cntStallLpd : Nat := 8
/-- ME_FEED_STALL_CNT of ME0; of ME1 one more. -/
def cntFeedStall : Nat := 9
def cntSat : Nat := 11
def cntAccCe : Nat := 12
def cntVarClamp : Nat := 13
def cntNegVar : Nat := 14
def cntFloor : Nat := 15
def cntEmptyRow : Nat := 16
def cntTaskIgn : Nat := 17
def cntDbgBlock : Nat := 18
def cntActive : Nat := 19
def cntDbgHalt : Nat := 20

end Sys2Proof.Machine
end

