-- ==== Sys2Proof/Machine/Tiers.lean ====
section
/-! DEFINITION. Accesses to memory: what a tier's line does when it is read, the home die caches, the faults that an access meets, the SRAM
windows, and the reads and writes of the units (02_package R38 to R51; 10_streams R323; 16_counters R457, R461). -/

namespace Sys2Proof.Machine

/-! ### Log records and counters of the tiers (R43; 16_counters R457, R461) -/

/-- The unit kind and number of a channel, for the log: HBM3E pseudo-channel or LPDDR5X channel. -/
def tierUnit (s : State) (a : Nat) : Nat × Nat :=
  match channelOf s a with
  | some (false, pc) => (4, pc)
  | some (true, ch) => (5, ch)
  | none => (0, 0)

/-- A record of a line's error: DETAIL holds the tier and the mask of bad symbols, whose form is open (log 40). -/
def logLine (s : State) (code : Code) (a : Nat) : State :=
  let u := tierUnit s a
  let m := drawFree s
  let tier : Nat := if u.1 = 5 then 1 else 0
  logWrite m.2 { withAddr (plainRec s u.1 u.2 code) a with detail := tier :: (natLe 4 m.1.toNat).map BitVec.toNat }

/-- The correctable-error counter of the channel of an address. -/
def countCorrected (s : State) (a : Nat) : State :=
  match channelOf s a with
  | some (false, pc) => s.modDie (pc / 64) fun d => { d with hbmCounters := bumpBy d.hbmCounters (pc % 64) 1 }
  | some (true, ch) => bumpHub s (cntLpdCe + ch)
  | none => s

/-- R43: a corrected error is counted and logged; the HBM3E controller writes the corrected line back. -/
def correctLine (s : State) (a : Nat) : State :=
  match regionOf a with
  | .hbm _ => logLine { countCorrected s a with bad := tabErase (countCorrected s a).bad (lineOf a) } 0x400A a
  | _ => logLine (countCorrected s a) 0x400B a

/-- The symbols of a 64-byte line that have gone bad in its tier (R42). -/
def lineArises (s : State) (a n : Nat) : State := if n = 0 then s else { s with bad := tabMod 0 s.bad (lineOf a) fun b => min 68 (b + n) }

/-- A read of a 64-byte line in its tier: whether it is uncorrectable, and the state after a correction (R42, R43). -/
def tierRead (s : State) (a : Nat) : Bool × State :=
  let b := tabGet 0 s.bad (lineOf a)
  if b = 0 then (false, s)
  else if b = 1 then (false, correctLine s a)
  else if b < 4 then (true, s)
  else if openVerdict s (lineOf a) = 0 then (true, s) else (false, s)

/-- Reads of halves in the tier, in order, until one is uncorrectable. -/
def readHalves (s : State) : List Nat → Option Nat × State
  | [] => (none, s)
  | a :: r =>
    let x := tierRead s a
    if x.1 then (some a, x.2) else readHalves x.2 r

/-! ### Ways (R51) -/

/-- The set of a 128-byte line (log 41). -/
def cacheSet (line : Nat) : Nat := line % 32768

/-- A dirty line goes back to its tier: both halves are written whole. -/
def writeBack (s : State) (d line : Nat) : State :=
  bumpCache { s with bad := tabErase (tabErase s.bad (2 * line)) (2 * line + 1) } d 2

/-- A line leaves the cache of a die, written back if it is dirty. -/
def dropLine (s : State) (d : Nat) (l : Nat × CacheLine) : State :=
  let t := if l.2.dirty then writeBack s d l.1 else s
  t.modDie d fun x => { x with cache := tabErase x.cache l.1 }

/-- Of two lines, the one used longer ago. -/
def olderLine (a b : Nat × CacheLine) : Nat × CacheLine := if b.2.used < a.2.used then b else a

/-- The way that a fill takes: a free one of the partition's ways, or that of the line used longest ago; and that line. -/
def fillWay (s : State) (d p line : Nat) : Option (Nat × Option (Nat × CacheLine)) :=
  let ways := waysOf s d p
  let inSet := (s.dieAt d).cache.filter fun l => cacheSet l.1 == cacheSet line && ways.getLsbD l.2.way
  match (List.range 16).find? fun w => ways.getLsbD w && !(inSet.any fun l => l.2.way == w) with
  | some w => some (w, none)
  | none =>
    match inSet with
    | [] => none
    | l :: r => let v := r.foldl olderLine l; some (v.2.way, some v)

/-- A line is filled into a partition's ways. -/
def fillLine (s : State) (d p line : Nat) (dirty : Bool) : State :=
  match fillWay s d p line with
  | none => s
  | some (w, victim) =>
    let t := match victim with | some v => dropLine s d v | none => s
    t.modDie d fun x => { x with
      cache := tabSet x.cache line { way := w, dirty, used := x.cacheClock + 1 }, cacheClock := x.cacheClock + 1 }

/-- A hit makes the line the last used. -/
def touchLine (s : State) (d line : Nat) (l : CacheLine) (dirty : Bool) : State :=
  s.modDie d fun x => { x with
    cache := tabSet x.cache line { l with dirty := l.dirty || dirty, used := x.cacheClock + 1 }, cacheClock := x.cacheClock + 1 }

/-! ### One access to one line (R42, R43, R49, R51) -/

/-- An access of `n` bytes at `a` touches the half of a line at `h`. -/
def halfTouched (a n h : Nat) : Bool := decide (a < h + 64) && decide (h < a + n)

/-- An access of `n` bytes at `a` covers the half of a line at `h` whole. -/
def halfWhole (a n h : Nat) : Bool := decide (a ≤ h) && decide (h + 64 ≤ a + n)

/-- The halves of line `line` that an access reads in the tier: those that it touches, and both where a fill brings the line in; but a write
reads none that it covers whole. -/
def halvesRead (line a n : Nat) (wr fills : Bool) : List Nat :=
  [line * 128, line * 128 + 64].filter fun h => (halfTouched a n h || fills) && !(wr && halfWhole a n h)

/-- An access of a partition that misses fills: the partition has a way, and the access is no write of a stream marked no-allocate. -/
def missFills (s : State) (p : Option Nat) (noAlloc wr : Bool) (d line : Nat) : Bool :=
  match p with
  | some p => (fillWay s d p line).isSome && !(noAlloc && wr)
  | none => false

/-- The halves of a line that an access reads in the tier: none of a line that it finds in its home cache, or outside the tiers. -/
def tierHalves (s : State) (p : Option Nat) (noAlloc : Bool) (line a n : Nat) (wr : Bool) : List Nat :=
  match homeDie s (line * 128) with
  | none => []
  | some d => if (cacheFind s d p line).isSome then [] else halvesRead line a n wr (missFills s p noAlloc wr d line)

/-- A line whose halves all read as they were written; one with four or more bad symbols that is not reported is not filled (log 129). -/
def lineSound (s : State) (line : Nat) : Bool := decide (tabGet 0 s.bad (2 * line) < 4) && decide (tabGet 0 s.bad (2 * line + 1) < 4)

/-- What bytes [x, y) of an EC's SRAM window read, all in one of its stores: the worst error there, 0 none, 1 corrected, more uncorrectable.
An accumulator memory has the error codes of R115; the other stores' errors stand with those of the tiers (10_streams R326; log 106). -/
def sramError (s : State) (x y : Nat) : Nat :=
  match regionOf x with
  | .sram e =>
    let off := (x - sramBase) % sramSize
    if off < 0xC00000 then tabGet 0 s.bad (lineOf x)
    else
      let k := off % 0x200000 / 4
      (s.engineAt e ((off - 0xC00000) / 0x200000)).accBad.foldl
        (fun m b => if k ≤ b.1 ∧ b.1 < k + (y - x + x % 4 + 3) / 4 then max m b.2 else m) 0
  | _ => 0

/-- A corrected error that a read of an accumulator memory through its window meets in bytes [x, y) is counted (R115). -/
def sramCorrect (s : State) (x y : Nat) : State :=
  match regionOf x with
  | .sram e => if (x - sramBase) % sramSize < 0xC00000 ∨ sramError s x y ≠ 1 then s else
      let off := (x - sramBase) % sramSize
      let g := (off - 0xC00000) / 0x200000
      let k := off % 0x200000 / 4
      bumpEc (s.setEngine e g { s.engineAt e g with
        accBad := (s.engineAt e g).accBad.filter fun b => !(decide (k ≤ b.1) && decide (b.1 < k + (y - x + x % 4 + 3) / 4)) }) e cntAccCe
  | _ => s

/-- The bytes of 64-byte line `h` that an access of `n` bytes at `a` touches. -/
def partOf (a n h : Nat) : Nat × Nat := (max a h, min (a + n) (h + 64))

/-- A read of one 128-byte line through an SRAM window: the first of its halves that is uncorrectable, and the corrections. -/
def sramRead (s : State) (a n line : Nat) : Option Nat × State :=
  [line * 128, line * 128 + 64].foldl (fun (r : Option Nat × State) h =>
    if r.1.isSome || !halfTouched a n h then r
    else
      let p := partOf a n h
      if 1 < sramError r.2 p.1 p.2 then (some h, r.2) else (none, sramCorrect r.2 p.1 p.2)) (none, s)

/-- An access to one line at its home cache: a hit or a miss that counts, the reads in the tier with their corrections, and the fill. The first
result is the half whose read was uncorrectable. -/
def lineUse (s : State) (p : Option Nat) (noAlloc : Bool) (line a n : Nat) (wr : Bool) : Option Nat × State :=
  match homeDie s (line * 128) with
  | none => if wr then (none, s) else sramRead s a n line
  | some d =>
    match cacheFind s d p line with
    | some l => (none, bumpCache (touchLine s d line l wr) d 0)
    | none =>
      let fills := missFills s p noAlloc wr d line
      let r := readHalves (bumpCache s d 1) (halvesRead line a n wr fills)
      match r.1, p with
      | none, some q => (none, if fills && lineSound s line then fillLine r.2 d q line wr else r.2)
      | x, _ => (x, r.2)

/-- The lines of an access from `line` on, one after another, until one is uncorrectable. -/
def linesUse (s : State) (p : Option Nat) (noAlloc : Bool) (a n : Nat) (wr : Bool) : Nat → Nat → Option Nat × State
  | 0, _ => (none, s)
  | k + 1, line =>
    let r := lineUse s p noAlloc line a n wr
    match r.1 with
    | some x => (some x, r.2)
    | none => linesUse r.2 p noAlloc a n wr k (line + 1)

/-- An access of `n` bytes at `a`, line by line in increasing address. -/
def spanUse (s : State) (p : Option Nat) (noAlloc : Bool) (a n : Nat) (wr : Bool) : Option Nat × State :=
  if n = 0 then (none, s) else linesUse s p noAlloc a n wr ((a + n - 1) / 128 - a / 128 + 1) (a / 128)

/-- Bytes are stored at `a`. A line that the write covers whole in the tier loses its stored error; a line that the partition holds in its
home cache is written there, and its error in the tier stays until it is written back. -/
def storeAs (s : State) (p : Option Nat) (a : Nat) (bs : List Byte) : State :=
  { s with mem := cellsWrite s.mem a bs
           bad := s.bad.filter fun e =>
             !(decide (a ≤ e.1 * 64) && decide (e.1 * 64 + 64 ≤ a + bs.length)) || lineCached s p (e.1 * 64) }

/-- A write at the home caches: the lines, then the bytes; nothing is stored where a read of the write is uncorrectable (R43). -/
def memWrite (s : State) (p : Option Nat) (noAlloc : Bool) (a : Nat) (bs : List Byte) : Option Nat × State :=
  let r := spanUse s p noAlloc a bs.length true
  match r.1 with
  | some x => (some x, r.2)
  | none => (none, storeAs r.2 p a bs)

/-! ### Accesses of the units (02_package R48; 10_streams R323) -/

/-- Who makes an access: its owner, the partition that bounds it (none: firmware, unchecked), its context, whether it is the loader's
(02_package R48), and whether it is new, so that it waits for a window under HOLD (02_package R38). -/
structure Req where
  owner : Owner
  part : Option Nat
  ctx : Option (Fin 64)
  loader : Bool := false
  waits : Bool := true
  /-- a stream marked no-allocate (10_streams R306) -/
  noAllocate : Bool := false
  /-- the view root that the command read when it started (07_kv R209) -/
  view : Option (Nat × List Byte) := none
  deriving DecidableEq, Repr

/-- A memory fault of an access: the code and the faulting address. -/
abbrev MemErr := Code × Nat

/-- A value, or the memory fault that its accesses meet first. -/
abbrev Got (α : Type) := Except MemErr α

/-- The part of line `i` of an access that the access covers: its first address. -/
def lineStart (a i : Nat) : Nat := if i = 0 then a else (a / 64 + i) * 64

/-- The number of 64-byte lines that `n` bytes at `a` touch. -/
def lineCount (a n : Nat) : Nat := if n = 0 then 0 else (a % 64 + n + 63) / 64

/-- The half whose read makes an access fail at the line part `x`: the half of `x`, or one that the access does not touch and that the fill of
its line brings in (R42). -/
def badHalf (s : State) (p : Option Nat) (noAlloc : Bool) (a n : Nat) (wr : Bool) (x : Nat) : Option Nat :=
  ((tierHalves s p noAlloc (x / 128) a n wr).filter fun h => h == x / 64 * 64 || !halfTouched a n h).find? fun h => lineUncorrectable s p h

/-- An uncorrectable error in on-chip SRAM (10_streams R326). -/
def codeSram : Code := 0x4003

/-- The first fault of an access of `n` bytes at `a`, in increasing address: a resource fault, or the error of a line that is read in its
tier (for a write: of a line that it covers only in part, or that a fill brings in, R42). -/
def rangeFault (s : State) (p : Option Nat) (a n : Nat) (wr : Bool) (noAlloc : Bool := false) : Option MemErr :=
  (List.range (lineCount a n)).findSome? fun i =>
    let x := lineStart a i
    let c := accessCode s p x
    if c ≠ 0 then some (c, x)
    else if !wr && decide (1 < sramError s x (partOf a n (x / 64 * 64)).2) then some (codeSram, x)
    else if s.bad.isEmpty then none
    else (badHalf s p noAlloc a n wr x).map fun h => (uncorrectableCode h, if h = x / 64 * 64 then x else h)

/-- The EC whose SRAM window an address lies in, if the access is blocked there (02_package R48). -/
def blockedEc (s : State) (c : Option (Fin 64)) (a : Nat) : Option Nat :=
  match regionOf a with
  | .sram e => if sramAllowed s c e then none else some e
  | _ => none

/-- The byte that a unit of a context reads: zero from an SRAM window that blocks it. -/
def unitByte (s : State) (c : Option (Fin 64)) (a : Nat) : Byte := if (blockedEc s c a).isSome then 0 else byteAt s a

/-- Bytes that a unit reads. -/
def unitBytes (s : State) (c : Option (Fin 64)) (a : Nat) : Nat → List Byte
  | 0 => []
  | n + 1 => unitByte s c a :: unitBytes s c (a + 1) n

/-- The mark of an access that waits (`windowHeld`): no fault code of the manual. What makes the access does not go on. -/
def codeHeld : Code := 0x0FFF

/-- The first address of a new access of `n` bytes at `a` that waits: in a window under HOLD (02_package R38), or for a clock. -/
def heldFault (s : State) (q : Req) (a n : Nat) : Option MemErr :=
  if q.waits && (s.power.groupPll != 0xFFFF || s.power.diePll != 0xF || s.power.selfRefresh || s.hbmWindows.any (fun w => w.2.hold) ||
      s.lpdWindows.any fun w => w.2.hold) then
    ((List.range (lineCount a n)).find? fun i => windowHeld s (lineStart a i)).map fun i => (codeHeld, lineStart a i)
  else none

/-- What an access meets: a fault, or a wait. -/
def accessMeets (s : State) (q : Req) (a n : Nat) (wr : Bool) : Option MemErr :=
  match rangeFault s q.part a n wr q.noAllocate with
  | some f => some f
  | none => heldFault s q a n

/-- A read of `n` bytes. -/
def uRead (s : State) (q : Req) (a n : Nat) : Got (List Byte) :=
  match accessMeets s q a n false with
  | some f => .error f
  | none => .ok (if q.loader then bytesAt s a n else unitBytes s q.ctx a n)

/-- A read of an unsigned number of `n` bytes. -/
def uReadNat (s : State) (q : Req) (a n : Nat) : Got Nat := (uRead s q a n).map leNat

/-- A blocked access counts in the EC whose window blocks it (02_package R48). -/
def countBlocked (s : State) (c : Option (Fin 64)) (a : Nat) : State :=
  match blockedEc s c a with
  | some e => bumpEc s e cntDbgBlock
  | none => s

/-- Bytes that lie in one SRAM window, or in none, are stored: ignored and counted where the window blocks them. -/
def storeOpen (s : State) (q : Req) (a : Nat) (bs : List Byte) : Option Nat × State :=
  if (blockedEc s q.ctx a).isSome then (none, countBlocked s q.ctx a) else memWrite s q.part q.noAllocate a bs

/-- A write of bytes that meets no fault, cut where one SRAM window ends and the next begins (02_package R48). -/
def storeCut (s : State) (q : Req) (a : Nat) (bs : List Byte) : Option Nat × State :=
  let k := sramSize - a % sramSize
  let r := storeOpen s q a (bs.take k)
  if r.1.isNone && decide (k < bs.length) then storeOpen r.2 q (a + k) (bs.drop k) else r

/-- A write of bytes. -/
def uWrite (s : State) (q : Req) (a : Nat) (bs : List Byte) : Got State :=
  match accessMeets s q a bs.length true with
  | some f => .error f
  | none =>
    let r := storeCut s q a bs
    match r.1 with
    | some x => .error (uncorrectableCode x, x)
    | none => .ok r.2

/-- A read that an SRAM window blocks counts there; a read may reach into the next window. -/
def countReads (s : State) (q : Req) (a n : Nat) : State :=
  if q.loader || n == 0 then s
  else
    let t := countBlocked s q.ctx a
    if a / sramSize = (a + n - 1) / sramSize then t else countBlocked t q.ctx (a + n - 1)

/-- A write of a number in `n` bytes. -/
def uWriteNat (s : State) (q : Req) (a n v : Nat) : Got State := uWrite s q a (natLe n v)

/-- A unit's read that met no fault takes its effect: its look-ups at the home caches, what they correct, and the windows that block it
(02_package R43, R48, R49). -/
def readUse (s : State) (q : Req) (a n : Nat) : State :=
  if q.loader then s else countReads (spanUse s q.part q.noAllocate a n false).2 q a n

/-- The reads of a list of addresses and lengths, in order. -/
def readsUse (s : State) (q : Req) (l : List (Nat × Nat)) : State := l.foldl (fun t x => readUse t q x.1 x.2) s

/-- A read that counts: its look-ups at the home caches, what they correct, and the windows that block it. -/
def uReadUse (s : State) (q : Req) (a n : Nat) : Got (List Byte × State) :=
  match accessMeets s q a n false with
  | some f => .error f
  | none =>
    let r := spanUse s q.part q.noAllocate a n false
    match r.1 with
    | some x => .error (uncorrectableCode x, x)
    | none => .ok (if q.loader then bytesAt r.2 a n else unitBytes r.2 q.ctx a n, countReads r.2 q a n)

/-! ### Waiting accesses (R38) -/

/-- An access of a steward that waits counts as HBM late or LPDDR late in its EC (02_package R38, 10_streams R331); the wait for a PLL is no
stall (14_power R413). -/
def countStewardHeld (s : State) (st a : Nat) : State :=
  if 256 ≤ st ∨ !tierHeld s a then s
  else match regionOf a with
    | .hbm _ => bumpEc s (st / 2) cntStallHbm
    | .lpd _ => bumpEc s (st / 2) cntStallLpd
    | _ => s

/-- Part of an access of `n` bytes at `a` waits. -/
def spanHeld (s : State) (a n : Nat) : Bool := (List.range (lineCount a n)).any fun i => windowHeld s (lineStart a i)

end Sys2Proof.Machine
end

