-- ==== Sys2Proof/Machine/Faults.lean ====
section
/-! DEFINITION. Completion of commands, memory faults and the abort of a task, the teardown of a context, and the faults
of a steward (00_scope R17; 05_macro R122, R125; 10_streams R323, R324; 11_steward R358; 12_partitions R384). -/

namespace Sys2Proof.Machine

/-! ### Fields of a command word (05_macro R123) -/

/-- OPCODE. -/
def wOpcode (w : List Byte) : Nat := field w 0 1
/-- CTL. -/
def wCtl (w : List Byte) : Nat := field w 1 1
/-- ENG of CTL: 0 both engines, 1 ME0, 2 ME1. -/
def wEng (w : List Byte) : Nat := bits (wCtl w) 1 0
/-- COMPAT of CTL. -/
def wCompat (w : List Byte) : Bool := bit (wCtl w) 2
/-- SIGNAL of CTL. -/
def wSignal (w : List Byte) : Bool := bit (wCtl w) 3
/-- NOSTEAL of CTL. -/
def wNoSteal (w : List Byte) : Bool := bit (wCtl w) 4
/-- MODE: 0 A-resident, 1 B-resident, 2 output-resident. -/
def wMode (w : List Byte) : Nat := bits (field w 2 1) 1 0
/-- SEM. -/
def wSem (w : List Byte) : Nat := bits (field w 3 1) 5 0
/-- CREW, as a number of 32 bits. -/
def wCrew (w : List Byte) : Nat := field w 4 4
/-- DTAB. -/
def wDtab (w : List Byte) : Nat := field w 8 8
/-- COMPL. -/
def wCompl (w : List Byte) : Nat := field w 0x10 8

/-- The units (EC numbers on a die, 128 + g on the hub) that CREW names (05_macro R123, 11_steward R347). -/
def crewUnits (port : Nat) (w : List Byte) : List Nat :=
  ((List.range 32).filter fun i => bit (wCrew w) i).map fun i => if port < 4 then 32 * port + i else 128 + i

/-! ### The accepted commands of a ledger or of the hub port -/

/-- The records of ledger 0 to 3, or of the hub command port (4). -/
def macrosOf (s : State) (port : Nat) : List MacroRec := if port < 4 then (s.dieAt port).macros else s.hubMacros

/-- The records of a port become `l`. -/
def setMacros (s : State) (port : Nat) (l : List MacroRec) : State :=
  if port < 4 then s.modDie port fun d => { d with macros := l } else { s with hubMacros := l }

/-- The record with acceptance number `acc`. -/
def macroAt (s : State) (port acc : Nat) : Option MacroRec := (macrosOf s port).find? fun r => r.acc == acc

/-- The record `r.acc` of a port becomes `r`. -/
def setMacro (s : State) (port : Nat) (r : MacroRec) : State :=
  setMacros s port ((macrosOf s port).map fun x => if x.acc == r.acc then r else x)

/-- The queue of unit `u` (05_macro R121, 11_steward R347). -/
def queueOf (s : State) (u : Nat) : List Place := if u < 128 then (s.ecAt u).queue else tabGet [] s.unitQueues (u - 128)

/-- The queue of unit `u` becomes `q`. -/
def setQueueOf (s : State) (u : Nat) (q : List Place) : State :=
  if u < 128 then s.modEc u fun c => { c with queue := q } else { s with unitQueues := tabSet s.unitQueues (u - 128) q }

/-- A command leaves the queues of its crew (05_macro R121). -/
def leaveQueues (s : State) (port : Nat) (r : MacroRec) : State :=
  (crewUnits port r.word).foldl
    (fun t u => setQueueOf t u ((queueOf t u).filter fun p => !(p.port.val == port && p.acc == r.acc))) s

/-- The steward's RETIRED counts one more command (11_steward R338, R346; log 13). -/
def retire (s : State) (st : Nat) : State := s.modSteward st fun x => { x with retired := x.retired + 1 }

/-- A command of the dragoman: SEARCH or SELECT_BALES. -/
def drgCommand (w : List Byte) : Bool := wOpcode w == 0x18 || wOpcode w == 0x19

/-- The commands of a die that wait in their queues for one of the dragoman's 16 places, in the order in which they reached the die
(08_dragoman R234). -/
def drgUnplaced (x : Die) : List Nat := (x.macros.filter fun r => drgCommand r.word && !r.finished && !x.drgCommands.contains r.acc).map fun r => r.acc

/-- A free place of the dragoman goes to the command that waits longest. -/
def drgPlace (s : State) (d : Nat) : State :=
  s.modDie d fun x => { x with drgCommands := x.drgCommands ++ (drgUnplaced x).take (16 - x.drgCommands.length) }

/-- A command is taken out of its ledger, its queues and the dragoman's places, and its issuer counts it. -/
def removeCommand (s : State) (port : Nat) (r : MacroRec) : State :=
  let t := retire (leaveQueues s port r) r.issuer.val
  let t := setMacros t port ((macrosOf t port).filter fun x => x.acc != r.acc)
  if port < 4 then drgPlace (t.modDie port fun d => { d with drgCommands := d.drgCommands.filter fun a => a != r.acc }) port else t

/-- 00_scope R17: a field that holds one fault keeps the earlier one, then the lower class, then the lower detail. -/
def holdFault (old : Option Held) (new : Held) : Option Held :=
  match old with
  | none => some new
  | some o =>
    if o.time.toNat < new.time.toNat ∨ (o.time = new.time ∧ o.code.toNat ≤ new.code.toNat) then some o else some new

/-- The status that a record reports. -/
def macroStatus (r : MacroRec) : Code := match r.fault with | none => 0 | some h => h.code

/-- TILES of R125: the tiles whose results were written; a sequence that a code left unchanged has none. -/
def tilesWritten (r : MacroRec) : Nat := r.tiles - r.unwritten

/-- A fault of a command at the present caravan time (00_scope R17). -/
def macroFault (s : State) (r : MacroRec) (code : Code) : MacroRec := { r with fault := holdFault r.fault ⟨code, s.time⟩ }

/-- 05_macro R125: the 16 bytes of the completion record. -/
def completionBytes (s : State) (r : MacroRec) : List Byte :=
  natLe 2 (macroStatus r).toNat ++ natLe 2 r.aflags.toNat ++ natLe 4 (tilesWritten r) ++ natLe 8 s.time.toNat

/-! ### Semaphore pairs (10_streams R311, R312) -/

/-- The counts FILL and FREE of a pair. -/
def pairAt (s : State) (e n : Nat) : BitVec 16 × BitVec 16 := tabGet (0, 0) (s.ecAt e).pairs n

/-- A count increased by `n`, kept at 65,535 (10_streams R312); whether it overflowed. -/
def satAdd (c : BitVec 16) (n : Nat) : BitVec 16 × Bool :=
  if c.toNat + n ≤ 65535 then (BitVec.ofNat 16 (c.toNat + n), false) else (65535, true)

/-- FILL (or FREE) of a pair is increased by `n`; OVF is set on overflow, and the second result says so. -/
def pairIncrease (s : State) (e n : Nat) (free : Bool) (amount : Nat) : State × Bool :=
  let p := pairAt s e n
  let r := satAdd (if free then p.2 else p.1) amount
  (s.modEc e fun c =>
    { c with pairs := tabSet c.pairs n (if free then (p.1, r.1) else (r.1, p.2)), overflow := c.overflow || r.2,
             releases := if free then tabSet c.releases n s.time else c.releases,
             released := if free then tabMod 0 c.released n fun k => k + amount else c.released }, r.2)

/-- FILL (or FREE) of a pair is decreased by one if it is at least 1 (10_streams R311). -/
def pairTake (s : State) (e n : Nat) (free : Bool) : Option State :=
  let p := pairAt s e n
  let c := if free then p.2 else p.1
  if c = 0 then none
  else some (s.modEc e fun x => { x with pairs := tabSet x.pairs n (if free then (p.1, c - 1) else (c - 1, p.2)) })

/-! ### Log records of faults (00_scope R17; 16_counters R461) -/

/-- The context that owns an access or a stream (10_streams R323). -/
def ownerCtx (s : State) : Owner → Option (Fin 64)
  | .task st => stewardCtx s st
  | .context c => some c
  | .nobody => none

/-- QUEUE and SLOT of a record: those of the steward's active task, whose record's SEQ holds the slot count (R374). -/
def withTask (s : State) (st : Fin 264) (r : LogRec) : LogRec :=
  let x := tabGet {} (s.ecAt (st.val / 2)).tasks (st.val % 2)
  if isHub st || !x.active then r
  else { r with queue := x.queue.toNat, slot := leNat (cellsRead s.mem (x.complHi.toNat * 2 ^ 32 + x.complLo.toNat * 16 + 4) 4) }

/-- The tier byte of a memory fault: 1 for an address of LPDDR5X. -/
def tierByte (a : Nat) : Nat := match regionOf a with | .lpd _ => 1 | _ => 0

/-- The log record of a fault met by the owner of an access, with its address; a memory fault at an address of a tier is
reported by its channel, with the tier (10_streams R326, 16_counters R461). -/
def faultRec (s : State) (o : Owner) (code : Code) (a : Nat) : LogRec :=
  let memory := code.cls == 4 && decide (code.toNat < 0x4006)
  let channel := if memory then channelOf s a else none
  let base := match channel, o with
    | some (false, pc), _ => plainRec s 4 pc code
    | some (true, ch), _ => plainRec s 5 ch code
    | none, .task st => plainRec s (if isHub st then 0 else 1) (if isHub st then st.val - 256 else st.val / 2) code
    | none, _ => plainRec s 0 0 code
  let base := if memory then { base with detail := [tierByte a] } else base
  let r := match o with | .task st => withTask s st (withAddr base a) | _ => withAddr base a
  match ownerCtx s o with
  | some c => withCtx r (s.ctxAt c.val).part.toNat c.val
  | none => r

/-- The record of a fault that a command holds: of the die of its ledger or of the hub, with its task and the address of its word; which
unit reports such a fault is open (log 105). -/
def commandRec (s : State) (port : Nat) (r : MacroRec) (code : Code) : LogRec :=
  let x := withTask s r.issuer (withAddr (plainRec s (if port < 4 then 2 else 0) (if port < 4 then port else 0) code) r.addr)
  match r.ctx with
  | some c => withCtx x (s.ctxAt c.val).part.toNat c.val
  | none => x

/-- A fault that a command holds is written to the error log. -/
def logCommand (s : State) (port : Nat) (r : MacroRec) (code : Code) : State := logWrite s (commandRec s port r code)

/-- A fault of an access that aborts nothing is logged. -/
def logFault (s : State) (q : Req) (f : MemErr) : State := logWrite s (faultRec s q.owner f.1 f.2)

/-! ### Stores of the hub (R38, R43, R48) -/

/-- The hub's own accesses for a context: no partition bounds them. -/
def hubReq (c : Option (Fin 64)) : Req := { owner := .nobody, part := none, ctx := c }

/-- A store that no instruction waits for: what it meets is logged, writes nothing and aborts nothing (10_streams R325). -/
def storeNow (s : State) (q : Req) (a : Nat) (bs : List Byte) : State :=
  match rangeFault s q.part a bs.length true with
  | some f => logFault s q f
  | none =>
    let r := storeCut s q a bs
    match r.1 with
    | some x => logFault r.2 q (uncorrectableCode x, x)
    | none => r.2

/-- Such a store, which waits in the hub where a new access waits (R38). -/
def hubStore (s : State) (q : Req) (a : Nat) (bs : List Byte) : State :=
  if spanHeld s a bs.length then { s with posted := s.posted ++ [.store q.owner q.part q.ctx a bs] } else storeNow s q a bs

/-- What waits in the hub and keeps its order: function `f`'s writes and doorbells, or the hub's own stores and the vectors behind them. -/
def postedKey : Posted → Nat
  | .store _ _ _ _ _ => 9
  | .vector _ => 9
  | .bar2 f _ _ => f
  | .doorbell f _ _ _ => f

/-- Something of that order waits. -/
def postedWaits (s : State) (k : Nat) : Bool := s.posted.any fun e => postedKey e == k

/-- A vector that follows the hub's own stores (13_host R405). -/
def hubVector (s : State) (v : Nat) : State :=
  if postedWaits s 9 then { s with posted := s.posted ++ [.vector v] } else raiseVector s v

/-! ### The queue table (12_partitions R372) -/

/-- The record of a queue. -/
def queueRecord (q : Queue) : List Byte :=
  natLe 8 q.ring.toNat ++ natLe 8 q.hring.toNat ++ natLe 8 q.tailw.toNat ++ natLe 4 q.tail.toNat ++
    natLe 4 ((if q.host then 2 ^ 31 else 0) + q.pasid.toNat) ++ natLe 1 q.log2n ++ natLe 1 q.state ++ natLe 1 q.ctx.toNat ++
    natLe 1 (if q.sstw then 1 else 0) ++ natLe 2 q.sec.toNat ++ natLe 2 ((if q.irq then 2 ^ 15 else 0) + q.vector.toNat) ++ List.replicate 24 0

/-- Firmware writes bytes of queue `n`'s record, once the table has its place. -/
def putRecord (s : State) (n off : Nat) (bs : List Byte) : State :=
  if s.queueTable = 0 then s else hubStore s (hubReq none) (s.queueTable + 64 * n + off) bs

/-- A queue goes to STATE 2. -/
def stopQueue (s : State) (n : Nat) : State := putRecord (s.setQueue n { s.queueAt n with state := 2 }) n 0x21 (natLe 1 2)

/-- The queues change, and with them STATE of each record that changes it. -/
def changeQueues (s : State) (f : Nat × Queue → Queue) : State :=
  let changed := s.queues.filter fun e => (f e).state != e.2.state
  changed.foldl (fun t e => putRecord t e.1 0x21 (natLe 1 (f e).state)) { s with queues := s.queues.map fun e => (e.1, f e) }

/-! ### Teardown of a context (12_partitions R384) -/

/-- A stream drops the data of its fetch buffer; which tiles have landed is kept, so that a read still outstanding is told (R322, R325). -/
def dropData (x : Slot) : Slot := { x with landed := x.landed.map fun e => (e.1, []) }

/-- A stream ends in FAULT with a code; its re-arm is discarded (10_streams R324). -/
def faultSlot (x : Slot) (code : Code) : Slot := { dropData x with state := 6, pend := false, code, command := none }

/-- The tiles of a stream whose writes have begun are written in full and signalled (10_streams R322); an overflow is logged. -/
def signalWritten (s : State) (x : Slot) : State :=
  if semNone (dSema x.desc) ∨ x.written ≤ x.performed then s
  else
    let r := pairIncrease s (semEc (dSema x.desc)) (semNum (dSema x.desc)) false (x.written - x.performed)
    if r.2 then logWrite r.1 (faultRec r.1 x.owner 0x4009 0) else r.1

/-- A stream that is cancelled leaves CANCELLING (10_streams R322): its writes and messages have ended, and every read has returned. -/
def cancelEnded (s : State) (u i : Nat) (x : Slot) : Bool :=
  x.performed == x.written && decide (x.issued ≤ x.written + x.landed.length) && !inTransmit s u i

/-- A stream of an aborted task is cancelled and ends in FAULT (10_streams R322, R324 step 1): its messages that have not begun are recalled.
While reads or messages of it are outstanding it is CANCELLING. -/
def abortSlot (s : State) (u i : Nat) (code : Code) : State :=
  let x := s.slotAt u i
  let w := x.written - tilesOf (unbegunOf s u i)
  let t := signalWritten (recallMessages s u i) { x with written := w }
  let y := { faultSlot x code with written := w, performed := w }
  t.setSlot u i (if x.state = 1 ∨ cancelEnded t u i y then y else { y with state := 3, code := x.code, ending := some code })

/-- Every stream of the context ends in FAULT, and its pending re-arms are discarded (10_streams R324 steps 1 and 4). -/
def abortStreams (s : State) (c : Fin 64) (code : Code) : State :=
  let t := s.slots.foldl (fun t (e : Nat × Slot) =>
    if ownerCtx s e.2.owner == some c && (e.2.state == 1 || e.2.state == 2 || e.2.state == 3) then abortSlot t (e.1 / 64) (e.1 % 64) code else t) s
  { t with slots := t.slots.map fun (e : Nat × Slot) =>
      if e.2.pend && ownerCtx s e.2.pendOwner == some c then (e.1, { e.2 with pend := false }) else e }

/-- A stream command's TILES counts the tiles that its stream has written (10_streams R317, R324 step 3). -/
def streamTiles (s : State) (r : MacroRec) : MacroRec :=
  match r.slot with
  | some (u, i) => if r.finished then r else { r with tiles := (s.slotAt u.val i.val).written }
  | none => r

/-- A command of an aborted context completes with the code and gives no SIGNAL (10_streams R324 step 3). -/
def abortCommand (s : State) (c : Fin 64) (code : Code) (port : Nat) (r : MacroRec) : State :=
  let r' := macroFault s (streamTiles s r) code
  let part := (s.ctxAt c.val).part.toNat
  let q : Req := { owner := .task r.issuer, part := some part, ctx := some c }
  let t := if wOpcode r.word < 0x20 then hubStore s q (wCompl r.word % 2 ^ 48) (completionBytes s r') else s
  removeCommand t port r'

/-- Every command of the context on a port completes so. -/
def abortCommands (s : State) (c : Fin 64) (code : Code) (port : Nat) : State :=
  ((macrosOf s port).filter fun r => r.ctx == some c).foldl (fun t r => abortCommand t c code port r) s

/-- The ECs bound to a context. -/
def boundEcs (s : State) (c : Fin 64) : List Nat := (List.range 128).filter fun e => (s.ecAt e).bound == some c

/-- A task's completion record: STATUS and END_CT; SEQ stands as the runtime wrote it (12_partitions R374, R384). -/
def writeTaskRecord (s : State) (c : Option (Fin 64)) (x : TaskRegs) (code : Code) : State :=
  let a := x.complHi.toNat * 2 ^ 32 + x.complLo.toNat * 16
  hubStore (hubStore s (hubReq c) a (natLe 2 code.toNat)) (hubReq c) (a + 8) (natLe 8 s.time.toNat)

/-- An ACTIVE task of a torn context ends: its record, its vector and TORN (12_partitions R384 step 3). -/
def endTorn (s : State) (c : Fin 64) (code : Code) (x : TaskRegs) : State :=
  if !x.active then s
  else
    let t := writeTaskRecord s (some c) x code
    let q := t.queueAt x.queue.toNat
    let t := if q.irq then hubVector t q.vector.toNat else t
    t.modCtx c.val fun y => { y with torn := y.torn + 1 }

/-- The task of a bound steward of a torn context ends. -/
def tearTask (s : State) (c : Fin 64) (code : Code) (e i : Nat) : State :=
  let x := tabGet {} (s.ecAt e).tasks i
  (endTorn s c code x).modEc e fun y => { y with tasks := tabSet y.tasks i { x with active := false } }

/-- The pre-empted tasks of a torn context that is not bound end. -/
def tearSaved (s : State) (c : Fin 64) (code : Code) : State :=
  ((s.ctxAt c.val).tasks.foldl (fun t x => endTorn t c code x.2) s).modCtx c.val fun y => { y with tasks := [] }

/-! ### Ready contexts (12_partitions R369, R370) -/

/-- R369: context `a` stands before context `b` among the READY ones. -/
def readyBefore (s : State) (a b : Fin 64) : Bool :=
  let x := s.ctxAt a.val
  let y := s.ctxAt b.val
  if x.latencyCritical ≠ y.latencyCritical then x.latencyCritical
  else decide (x.readySince.toNat < y.readySince.toNat) || (x.readySince == y.readySince && decide (a.val < b.val))

/-- The first READY context that satisfies `p`. -/
def firstReady (s : State) (p : Fin 64 → Bool) : Option (Fin 64) :=
  (List.finRange 64).foldl (fun o c =>
    if (s.ctxAt c.val).state == 2 && p c then
      match o with
      | none => some c
      | some b => if readyBefore s c b then some c else o
    else o) none

/-- A context's footprint holds an EC. -/
def footprintHas (s : State) (c : Fin 64) (e : Nat) : Bool := (s.ctxAt c.val).footprint.any fun f => f.val == e

/-- R369: an EC that has become free is reserved for the first READY context whose footprint holds it. -/
def reserveEc (s : State) (e : Nat) : State := s.modEc e fun x => { x with reserved := firstReady s fun c => footprintHas s c e }

/-- A steward has yielded. -/
def hasYielded (x : Steward) : Bool := match x.run with | .yielded _ => true | _ => false

/-- R370: the yield requests that a context caused are withdrawn where no steward has yielded yet. -/
def withdrawYields (s : State) (c : Fin 64) : State :=
  (List.finRange 64).foldl (fun t h =>
    let x := t.ctxAt h.val
    let ecs := boundEcs t h
    if x.state == 5 && x.yieldCause == some c &&
        ecs.all fun e => !hasYielded (t.stewardAt (2 * e)) && !hasYielded (t.stewardAt (2 * e + 1)) then
      (ecs.foldl (fun u e =>
        let clear := fun (y : Steward) => { y with tempoReq := false }
        (u.modSteward (2 * e) clear).modSteward (2 * e + 1) clear) t).setCtx h.val { x with state := 4, yieldCause := none }
    else t) s

/-- A context that has left READY: its requests are withdrawn, and the ECs reserved for it are reserved anew. -/
def leaveReady (s : State) (c : Fin 64) : State :=
  (List.range 128).foldl (fun t e => if (t.ecAt e).reserved == some c then reserveEc t e else t) (withdrawYields s c)

/-- An EC of a torn context is released (12_partitions R384 step 4, 16_counters R464). -/
def releaseEc (s : State) (e : Nat) : State :=
  let t := s.modEc e fun x =>
    { x with pairs := [], releases := [], released := [], queue := [], engines := [], scoreOwner := none, scoreWaiters := [], bound := none,
             rowUnit := { x.rowUnit with holds := none, current := none, oldTiles := 0 }, tempoHold := false, dbg := { x.dbg with attach := false, halting := false, halted := false, why := 0 } }
  let t := { t with slots := t.slots.map fun (z : Nat × Slot) =>
    if z.1 / 64 == e then (z.1, { dropData z.2 with state := 0, pend := false, command := none, ending := none }) else z }
  let halt := fun (x : Steward) =>
    { x with run := .halted, bound := false, tempoReq := false, pl := 2, inTrap := false, stores := [] }
  reserveEc ((t.modSteward (2 * e) halt).modSteward (2 * e + 1) halt) e

/-- The look-aside entries of a partition are removed on every die (07_kv R213, 12_partitions R384 step 5). -/
def dropLab (s : State) (p : Nat) : State :=
  (List.range 4).foldl (fun t d => t.modDie d fun x => { x with lab := x.lab.filter fun l => l.part != p }) s

/-- The context's queues go to STATE 2 (12_partitions R384 step 6). -/
def stopQueues (s : State) (c : Fin 64) : State :=
  changeQueues s fun e => if decide (16 ≤ e.1) && e.2.ctx.toNat == c.val && e.2.state == 1 then { e.2 with state := 2, torn := true } else e.2

/-- The address of a context's save area (12_partitions R366, R378). -/
def saveBase (x : Context) : Nat := x.saveHi.toNat * 2 ^ 32 + x.saveLo.toNat * 4096

/-- The caravan task of a context ends; the caravan area, the manifests and the wants are discarded (01_caravan R31). -/
def dropCaravan (s : State) (c : Fin 64) : State :=
  if s.ring.task == some c then
    { s with ring := { s.ring with
        task := none, step := 0, finalRelease := none, heldEnds := [], wants := [], surveys := [], surveySent := 0, wantsSent := 0, manifest := [],
        manifestWritten := false, hopBales := [], hopSent := (0, 0), delivered := [], unacked := [], caravanArea := [] } }
  else s

/-- 12_partitions R384: the context is torn down with a code. A context that is already FAULTED keeps its first fault
under 00_scope R17. -/
def teardown (s : State) (c : Fin 64) (code : Code) : State :=
  let x := s.ctxAt c.val
  if x.state = 6 then
    match holdFault (some ⟨x.fault, x.faultTime⟩) ⟨code, s.time⟩ with
    | some h => s.setCtx c.val { x with fault := h.code, faultTime := h.time }
    | none => s
  else
    let t := s.setCtx c.val { x with
      fault := code, faultTime := s.time, state := 6, paused := false, yieldCause := none, doorbellSinceBind := false }
    let t := if x.state = 2 then leaveReady t c else t
    let t := abortStreams t c code
    let t := (List.range 5).foldl (fun u p => abortCommands u c code p) t
    let ecs := boundEcs t c
    let t := ecs.foldl (fun u e => tearTask (tearTask u c code e 0) c code e 1) (tearSaved t c code)
    let t := ecs.foldl releaseEc t
    let t := { t with dieBarriers := t.dieBarriers.filter fun (b : Nat × DieBarrier) => b.1 / 128 % 64 != c.val }
    let t := dropCaravan t c
    let t := dropLab t x.part.toNat
    let t := stopQueues t c
    if x.savePages = 0 then t else hubStore t (hubReq (some c)) (saveBase x + 8) (natLe 4 0)

/-- A teardown whose code no unit reports: it is logged (00_scope R17). -/
def tearLogged (s : State) (c : Fin 64) (code : Code) : State := teardown (logWrite s (faultRec s (.context c) code 0)) c code

/-! ### Memory faults (10_streams R323) -/

/-- 10_streams R323, R324: a memory fault is logged, and the task that made the access aborts with its context. -/
def memoryFault (s : State) (o : Owner) (code : Code) (a : Nat) : State :=
  let t := logWrite s (faultRec s o code a)
  match ownerCtx s o with
  | some c => teardown t c code
  | none => t

/-! ### Faults of a steward (11_steward R358) -/

/-- 11_steward R358: a fault at U or S writes TPC, TCAUSE and TVAL, stops the steward and ends its task; at F the
steward halts and the record is logged, with address `a`. -/
def stewardFaultAt (s : State) (st : Fin 264) (code : Code) (tval a : Nat) : State :=
  let x := s.stewardAt st.val
  if x.pl.toNat ≥ 2 then
    logWrite (s.setSteward st.val { x with run := .halted }) (faultRec s (.task st) code a)
  else
    let t := s.setSteward st.val
      { x with tpc := x.pc, tcause := code.setWidth 32 <<< 16, tval := BitVec.ofNat 64 tval, run := .halted }
    memoryFault t (.task st) code a

/-- A fault whose record carries the address of the instruction. -/
def stewardFault (s : State) (st : Fin 264) (code : Code) (tval : Nat) : State :=
  stewardFaultAt s st code tval (s.stewardAt st.val).pc.toNat

/-- A memory fault of an instruction (10_streams R323): TVAL and the record carry the faulting address. -/
def stewardMemFault (s : State) (st : Fin 264) (f : Code × Nat) : State := stewardFaultAt s st f.1 f.2 f.2

end Sys2Proof.Machine
end

