-- ==== Sys2Proof/Machine/Digest.lean ====
section
/-! DEFINITION. SHA-512 and RSASSA-PSS as the manual names them (15_trust R436, R444, R447): FIPS 180-4, and RFC 8017 with SHA-512, MGF1
with SHA-512 and a salt of 64 bytes. Octet strings are lists of bytes, first octet first. -/

namespace Sys2Proof.Machine

/-! ### SHA-512 (FIPS 180-4) -/

/-- The constants of rounds 0 to 39: fraction bits of the cube roots of the primes. -/
def shaConstantsLow : List Nat := [
  0x428A2F98D728AE22, 0x7137449123EF65CD, 0xB5C0FBCFEC4D3B2F, 0xE9B5DBA58189DBBC,
  0x3956C25BF348B538, 0x59F111F1B605D019, 0x923F82A4AF194F9B, 0xAB1C5ED5DA6D8118,
  0xD807AA98A3030242, 0x12835B0145706FBE, 0x243185BE4EE4B28C, 0x550C7DC3D5FFB4E2,
  0x72BE5D74F27B896F, 0x80DEB1FE3B1696B1, 0x9BDC06A725C71235, 0xC19BF174CF692694,
  0xE49B69C19EF14AD2, 0xEFBE4786384F25E3, 0x0FC19DC68B8CD5B5, 0x240CA1CC77AC9C65,
  0x2DE92C6F592B0275, 0x4A7484AA6EA6E483, 0x5CB0A9DCBD41FBD4, 0x76F988DA831153B5,
  0x983E5152EE66DFAB, 0xA831C66D2DB43210, 0xB00327C898FB213F, 0xBF597FC7BEEF0EE4,
  0xC6E00BF33DA88FC2, 0xD5A79147930AA725, 0x06CA6351E003826F, 0x142929670A0E6E70,
  0x27B70A8546D22FFC, 0x2E1B21385C26C926, 0x4D2C6DFC5AC42AED, 0x53380D139D95B3DF,
  0x650A73548BAF63DE, 0x766A0ABB3C77B2A8, 0x81C2C92E47EDAEE6, 0x92722C851482353B]

/-- The constants of rounds 40 to 79. -/
def shaConstantsHigh : List Nat := [
  0xA2BFE8A14CF10364, 0xA81A664BBC423001, 0xC24B8B70D0F89791, 0xC76C51A30654BE30,
  0xD192E819D6EF5218, 0xD69906245565A910, 0xF40E35855771202A, 0x106AA07032BBD1B8,
  0x19A4C116B8D2D0C8, 0x1E376C085141AB53, 0x2748774CDF8EEB99, 0x34B0BCB5E19B48A8,
  0x391C0CB3C5C95A63, 0x4ED8AA4AE3418ACB, 0x5B9CCA4F7763E373, 0x682E6FF3D6B2B8A3,
  0x748F82EE5DEFB2FC, 0x78A5636F43172F60, 0x84C87814A1F0AB72, 0x8CC702081A6439EC,
  0x90BEFFFA23631E28, 0xA4506CEBDE82BDE9, 0xBEF9A3F7B2C67915, 0xC67178F2E372532B,
  0xCA273ECEEA26619C, 0xD186B8C721C0C207, 0xEADA7DD6CDE0EB1E, 0xF57D4F7FEE6ED178,
  0x06F067AA72176FBA, 0x0A637DC5A2C898A6, 0x113F9804BEF90DAE, 0x1B710B35131C471B,
  0x28DB77F523047D84, 0x32CAAB7B40C72493, 0x3C9EBE0A15C9BEBC, 0x431D67C49C100D4C,
  0x4CC5D4BECB3E42B6, 0x597F299CFC657E2A, 0x5FCB6FAB3AD6FAEC, 0x6C44198C4A475817]

/-- The constants of the eighty rounds. -/
def shaConstants : List Nat := shaConstantsLow ++ shaConstantsHigh

/-- The hash value before the first block. -/
def shaStart : List Nat := [
  0x6A09E667F3BCC908, 0xBB67AE8584CAA73B, 0x3C6EF372FE94F82B, 0xA54FF53A5F1D36F1,
  0x510E527FADE682D1, 0x9B05688C2B3E6C1F, 0x1F83D9ABFB41BD6B, 0x5BE0CD19137E2179]

/-- The number that octets spell, big-endian. -/
def beNat (l : List Byte) : Nat := l.foldl (fun n b => 256 * n + b.toNat) 0

/-- The low `n` octets of a number, big-endian. -/
def natBe (n v : Nat) : List Byte := (natLe n v).reverse

/-- A 64-bit word turned right by `n`. -/
def rotr64 (n x : Nat) : Nat := x / 2 ^ n + x % 2 ^ n * 2 ^ (64 - n)

/-- The functions of the rounds: upper case sigma 0 and 1, and those of the message schedule. -/
def shaBig0 (x : Nat) : Nat := rotr64 28 x ^^^ rotr64 34 x ^^^ rotr64 39 x
def shaBig1 (x : Nat) : Nat := rotr64 14 x ^^^ rotr64 18 x ^^^ rotr64 41 x
def shaSmall0 (x : Nat) : Nat := rotr64 1 x ^^^ rotr64 8 x ^^^ x / 2 ^ 7
def shaSmall1 (x : Nat) : Nat := rotr64 19 x ^^^ rotr64 61 x ^^^ x / 2 ^ 6

/-- The next word of the message schedule, from the sixteen before it, newest first. -/
def shaNextWord (w : List Nat) : Nat :=
  (shaSmall1 (w.getD 1 0) + w.getD 6 0 + shaSmall0 (w.getD 14 0) + w.getD 15 0) % 2 ^ 64

/-- The message schedule of a block of sixteen words: `n` more words, newest first. -/
def shaSchedule : Nat → List Nat → List Nat
  | 0, w => w
  | n + 1, w => shaSchedule n (shaNextWord w :: w)

/-- One round on the eight working words. -/
def shaRound (v : List Nat) (kw : Nat × Nat) : List Nat :=
  match v with
  | [a, b, c, d, e, f, g, h] =>
    let t1 := h + shaBig1 e + ((e &&& f) ^^^ ((2 ^ 64 - 1 - e) &&& g)) + kw.1 + kw.2
    let t2 := shaBig0 a + ((a &&& b) ^^^ (a &&& c) ^^^ (b &&& c))
    [(t1 + t2) % 2 ^ 64, a, b, c, (d + t1) % 2 ^ 64, e, f, g]
  | _ => v

/-- The hash value after a block. -/
def shaBlock (h : List Nat) (block : List Byte) : List Nat :=
  let words := (List.range 16).map fun i => beNat ((block.drop (8 * i)).take 8)
  let v := (shaConstants.zip (shaSchedule 64 words.reverse).reverse).foldl shaRound h
  (h.zip v).map fun x => (x.1 + x.2) % 2 ^ 64

/-- The padding of a message of `n` octets: a one bit, zeros, and the length in bits. -/
def shaPadding (n : Nat) : List Byte := 0x80 :: (List.replicate ((239 - n % 128) % 128) 0 ++ natBe 16 (8 * n))

/-- The hash value after the first `n` blocks of a padded message. -/
def shaBlocks : Nat → List Byte → List Nat → List Nat
  | 0, _, h => h
  | n + 1, m, h => shaBlocks n (m.drop 128) (shaBlock h (m.take 128))

/-- The 64 octets of the SHA-512 digest of a message. -/
def sha512Bytes (m : List Byte) : List Byte :=
  let p := m ++ shaPadding m.length
  (shaBlocks (p.length / 128) p shaStart).flatMap (natBe 8)

/-- The digest of a message, octet i in bits [8i + 7:8i]. -/
def sha512 (m : List Byte) : BitVec 512 := BitVec.ofNat 512 (leNat (sha512Bytes m))

/-! ### RSASSA-PSS (RFC 8017) -/

/-- MGF1 with SHA-512: `n` octets from a seed. -/
def mgf1 (seed : List Byte) (n : Nat) : List Byte :=
  ((List.range ((n + 63) / 64)).flatMap fun i => sha512Bytes (seed ++ natBe 4 i)).take n

/-- The square of a number, `k` times, modulo `n`. -/
def squareMod : Nat → Nat → Nat → Nat
  | 0, x, _ => x
  | k + 1, x, n => squareMod k (x * x % n) n

/-- RSAVP1 with the exponent 65,537 (15_trust R435). -/
def rsaPublic (n s : Nat) : Nat := squareMod 16 s n * s % n

/-- Octet i of one string xor octet i of another. -/
def xorBytes (a b : List Byte) : List Byte := (a.zip b).map fun x => x.1 ^^^ x.2

/-- EMSA-PSS-VERIFY of an encoded message for a message and a number of bits, with a salt of 64 octets. -/
def pssConsistent (message em : List Byte) (emBits : Nat) : Bool :=
  let emLen := (emBits + 7) / 8
  let spare := 8 * emLen - emBits
  let dbLen := emLen - 65
  let masked := em.take dbLen
  let h := (em.drop dbLen).take 64
  let db := xorBytes masked (mgf1 h dbLen)
  let db := BitVec.ofNat 8 ((db.headD 0).toNat % 2 ^ (8 - spare)) :: db.tail
  let salt := db.drop (dbLen - 64)
  decide (130 ≤ emLen) && em.getLastD 0 == 0xBC && decide ((masked.headD 0).toNat < 2 ^ (8 - spare)) &&
    ((db.take (dbLen - 65)).all fun b => b == 0) && db.getD (dbLen - 65) 0 == 1 &&
    sha512Bytes (List.replicate 8 0 ++ sha512Bytes message ++ salt) == h

/-- RSASSA-PSS-VERIFY: modulus, signature, message, with the modulus of 512 octets of an RSA-4096 key. -/
def rsaPssVerify (modulus signature message : List Byte) : Bool :=
  let n := beNat modulus
  let s := beNat signature
  let m := rsaPublic n s
  let emBits := n.log2
  let emLen := (emBits + 7) / 8
  modulus.length == 512 && signature.length == 512 && decide (2 ^ 4088 ≤ n) && decide (s < n) && decide (m < 2 ^ (8 * emLen)) &&
    pssConsistent message (natBe emLen m) emBits

end Sys2Proof.Machine
end

