-- ==== Sys2Proof/Machine/Identity.lean ====
section
/-! DEFINITION. The fused identity, the firmware image and its checks (15_trust R435 to R444). -/

namespace Sys2Proof.Machine

/-! ### Fused identity (R443, R444) -/

/-- Word `w` of die `d`'s identity record. The stepping code is that of R2 and DIE the die's number; the lot, the wafer and
the place on it, which differ from part to part, stand at the values of log 10 until the state lists others. -/
def fuseWord (s : State) (d w : Nat) : Reg32 :=
  let fixed : Reg32 := match w with
    | 0 => 0x20202020
    | 1 => 0x20202020
    | 2 => BitVec.ofNat 32 (d * 2 ^ 24 + 1)
    | _ => 0x0020
  tabGet fixed s.trust.fuses (4 * d + w)

/-- The five identity records, in die order. -/
def identityRecords (s : State) : List Byte :=
  (List.range 5).flatMap fun d => (List.range 4).flatMap fun w => natLe 4 (fuseWord s d w).toNat

/-- The identity digest (R444). -/
def ownDigest (s : State) : Word64 := (sha512 (identityRecords s)).setWidth 64

/-- The stepping code that a die reports. -/
def stepCode (s : State) (d : Nat) : Nat := (fuseWord s d 3).toNat % 65536

/-- Check 1 of R437: all five dies report one stepping code. -/
def steppingsAgree (s : State) : Bool := (List.range 5).all fun d => stepCode s d == stepCode s 4

/-! ### The image (R435, R436) -/

/-- A field of an image's header, little-endian. -/
def imgField (img : List Byte) (off n : Nat) : Nat := leNat ((img.drop off).take n)

/-- LEN. -/
def imgLen (img : List Byte) : Nat := imgField img 8 4

/-- SVN. -/
def imgSvn (img : List Byte) : Nat := imgField img 0x0C 4

/-- KIDX. -/
def imgKey (img : List Byte) : Nat := imgField img 0x12 1

/-- The firmware entry (R435, R438; 11_steward R335, R338): ENTRY of the image that runs, an offset of the firmware SRAM. -/
def firmwareEntry (s : State) : Word64 := BitVec.ofNat 64 (if s.trust.stage = 3 then imgField s.trust.sram 0x14 4 else 0)

/-- `n` bytes of a list from `off` on, zero beyond its end (log 5). -/
def getBytes (l : List Byte) (off n : Nat) : List Byte :=
  (l.drop off).take n ++ List.replicate (n - ((l.drop off).take n).length) 0

/-- The signed message: header bytes `0x000` to `0x2FF`, then the LEN bytes of the body. -/
def signedMessage (img : List Byte) : List Byte := getBytes img 0 0x300 ++ getBytes img 0x1000 (imgLen img)

/-- The bytes from `off` on are zero. -/
def zeroAt (img : List Byte) (off n : Nat) : Bool := ((img.drop off).take n).all fun b => b == 0

/-- The size of the firmware SRAM, and of the image region of the SPI NOR. -/
def firmwareSramSize : Nat := 0x2000000

/-- Check 3 of R437; EXP is big-endian (R436). -/
def headerValid (img : List Byte) : Bool :=
  imgField img 0 4 == 0x45565846 && imgField img 4 4 == 1 && imgLen img % 4096 == 0 && decide (4096 ≤ imgLen img) &&
  decide (imgLen img ≤ 33550336) && decide (1 ≤ imgSvn img) && decide (imgSvn img ≤ 64) && decide (imgKey img ≤ 3) &&
  imgField img 0x14 4 % 4 == 0 && decide (imgField img 0x14 4 < firmwareSramSize) &&
  (img.drop 0x240).take 4 == [0, 1, 0, 1] && zeroAt img 0x13 1 && zeroAt img 0x18 40 && zeroAt img 0x244 188 && zeroAt img 0x500 2816

/-- R436: root key `k` is accepted for the image's modulus and exponent. -/
def keyAccepted (s : State) (img : List Byte) (k : Nat) : Bool :=
  sha512 ((img.drop 0x40).take 512 ++ (img.drop 0x240).take 4) == tabGet 0 s.trust.rootKeys k && !s.trust.revoked.getLsbD k

/-- Checks 3 to 7 of R437: the code of the first that fails, or 0. -/
def imageCode (s : State) (img : List Byte) : Code :=
  if !headerValid img then 0x5001
  else if imgField img 0x10 2 ≠ stepCode s 4 then 0x5004
  else if !keyAccepted s img (imgKey img) then 0x5002
  else if imgSvn img < s.trust.svnMin.toNat then 0x5005
  else if !rsaPssVerify ((img.drop 0x40).take 512) ((img.drop 0x300).take 512) (signedMessage img) then 0x5006
  else 0

/-- A class 5 code of boot, recovery or update: logged, and held in HUB_BOOT_STAT.CODE (R455). -/
def bootCode (s : State) (code : Code) : State :=
  logPlain { s with trust := { s.trust with code } } 0 0 code

/-! ### The firmware SRAM (R437, R440) -/

/-- A list of bytes with `bs` stored from `off` on; a shorter list is padded with zeros (log 5). -/
def putBytes (l : List Byte) (off : Nat) (bs : List Byte) : List Byte :=
  (l ++ List.replicate (off - l.length) 0).take off ++ bs ++ l.drop (off + bs.length)

end Sys2Proof.Machine
end

