-- ==== Sys2Proof/Machine/Steward.lean ====
section
/-! DEFINITION. What every steward instruction shares (11_steward): registers, the frame of one instruction, events,
service traps, and the wake-ups that other units give. -/

namespace Sys2Proof.Machine

/-! ### General registers (R337) -/

/-- The value of a general register; g0 reads as zero. -/
def Steward.reg (x : Steward) (r : BitVec 5) : Word64 := if r = 0 then 0 else tabGet 0 x.g r.toNat

/-- A write of a general register; writes to g0 are discarded. -/
def Steward.setReg (x : Steward) (r : BitVec 5) (v : Word64) : Steward :=
  if r = 0 then x else { x with g := tabSet x.g r.toNat v }

/-! ### Events (R338, R354, R356) -/

/-- EVENT: MAIL, TIMER, TEMPO_REQ, DOORBELL from bit 3 to bit 0. -/
def eventBits (s : State) (x : Steward) : BitVec 4 :=
  BitVec.ofBool x.mail ++ BitVec.ofBool (reached s x.timecmp) ++ BitVec.ofBool x.tempoReq ++ BitVec.ofBool x.doorbell

/-- EVENT & EVMASK is nonzero. -/
def eventMasked (s : State) (x : Steward) : Bool := eventBits s x &&& x.evmask != 0

/-- R354: an event trap is taken before the next instruction starts. -/
def eventTrapDue (s : State) (x : Steward) : Bool := x.pl == 0 && x.eie && eventMasked s x

/-- Mladkin holds the steward's EC halted, or its halt is in progress (16_counters R462). -/
def debugStopped (s : State) (st : Fin 264) : Bool := ecStopped s (st.val / 2)

/-- A steward that a supply warning holds counts as a supply hold in its EC (14_power R422, 10_streams R331). -/
def countStewardSupply (s : State) (st : Nat) : State := if 256 ≤ st then s else bumpEc s (st / 2) cntStallSupply

/-- The steward starts its next instruction now: its clock runs (14_power R413), and nothing holds it. -/
def stewardReady (s : State) (st : Fin 264) : Bool :=
  let x := s.stewardAt st.val
  coreClocks s && unitClocked s (st.val / 2) && x.run == .running && !debugStopped s st && !eventTrapDue s x

/-- A steward in IDLE whose event has come goes on (R356), once the PLL of its group runs locked (14_power R413) and unless Mladkin holds it. -/
def wakeIdle (s : State) (st : Nat) : State :=
  let x := s.stewardAt st
  if x.run = .idle ∧ eventMasked s x ∧ unitClocked s (st / 2) ∧ ¬ecStopped s (st / 2) then s.setSteward st { x with run := .running } else s

/-- EVENT.MAIL of the steward is set (R350). -/
def setMail (s : State) (st : Nat) : State := wakeIdle (s.modSteward st fun x => { x with mail := true }) st
/-- EVENT.DOORBELL of the steward is set (12_partitions R373). -/
def setDoorbell (s : State) (st : Nat) : State := wakeIdle (s.modSteward st fun x => { x with doorbell := true }) st
/-- EVENT.TEMPO_REQ of the steward is set (12_partitions R369). -/
def setTempoReq (s : State) (st : Nat) : State := wakeIdle (s.modSteward st fun x => { x with tempoReq := true }) st
/-- EVENT.TEMPO_REQ of the steward is cleared (R338). -/
def clearTempoReq (s : State) (st : Nat) : State := s.modSteward st fun x => { x with tempoReq := false }

/-! ### The frame of one instruction (R334, R338) -/

/-- CYCLE advances by a latency that the manual gives, or by a free one where it gives none (log 15). -/
def addCycles (s : State) (st : Nat) (lat : Option Nat) : State :=
  match lat with
  | some n => s.modSteward st fun x => { x with cycle := x.cycle + BitVec.ofNat 64 n }
  | none =>
    let v := drawFree s
    v.2.modSteward st fun x => { x with cycle := x.cycle + v.1 }

/-- An instruction retires: INSTRET, CYCLE, and the pc of the next one. -/
def retireTo (s : State) (st : Nat) (lat : Option Nat) (npc : Word64) : State :=
  addCycles (s.modSteward st fun x => { x with pc := npc, instret := x.instret + 1 }) st lat

/-- An instruction retires and the next word follows. -/
def retireNext (s : State) (st : Nat) (lat : Option Nat) : State := retireTo s st lat ((s.stewardAt st).pc + 4)

/-- An instruction that only computes: rd := v (R337, R341). -/
def computeReg (s : State) (st : Fin 264) (rd : BitVec 5) (v : Word64) (lat : Option Nat) : Answer :=
  whenEnabled (stewardReady s st) s (retireNext (s.modSteward st.val fun x => x.setReg rd v) st.val lat)

/-! ### Service traps (R354, R357) -/

/-- FVEC: its reset value is the firmware entry (R338). -/
def fvecOf (s : State) (x : Steward) : Word64 := x.fvec.getD (firmwareEntry s)

/-- The level's handler: a hub steward at S enters FVEC at F, everything else TVEC at S. -/
def trapTarget (s : State) (st : Fin 264) (x : Steward) : BitVec 2 × Word64 :=
  if isHub st ∧ x.pl = 1 then (2, fvecOf s x) else (1, x.tvec)

/-- R357: service-trap entry; `0x2003` while INTRAP is 1. -/
def serviceTrap (s : State) (st : Fin 264) (cause : Nat) (tval : Nat) : State :=
  let x := s.stewardAt st.val
  if x.inTrap then stewardFault s st 0x2003 tval
  else
    let t := trapTarget s st x
    s.setSteward st.val
      { x with tpc := x.pc, tcause := BitVec.ofNat 32 cause, ppl := x.pl, pl := t.1, inTrap := true, pc := t.2 }

/-- A service trap of an instruction word, which then counts as retired unless the trap is a fault, whose TVAL is the word (R338; log 16). -/
def instructionTrap (s : State) (st : Fin 264) (cause : Nat) (word : Nat) : State :=
  let t := serviceTrap s st cause word
  if (s.stewardAt st.val).inTrap then t else addCycles (t.modSteward st.val fun x => { x with instret := x.instret + 1 }) st.val none

/-- The word of an instruction as TVAL carries it (R338). -/
def wordOf (i : Instr) : Nat := match encodeSteward i with | some w => w.toNat | none => 0

/-- An instruction that faults with its word in TVAL (R338, R358). -/
def faultWord (s : State) (st : Fin 264) (code : Code) (i : Instr) : State := stewardFault s st code (wordOf i)

/-! ### Addresses and immediates (R340, R344) -/

/-- imm16, sign-extended. -/
def sext16 (imm : BitVec 16) : Word64 := imm.signExtend 64
/-- imm16, zero-extended. -/
def zext16 (imm : BitVec 16) : Word64 := imm.setWidth 64
/-- R344 rule 1: bits [63:48] of an address are ignored. -/
def addr48 (v : Word64) : Nat := v.toNat % 2 ^ 48

end Sys2Proof.Machine
end

