-- ==== Sys2Proof/Machine/Alu.lean ====
section
/-! DEFINITION. The steward's arithmetic and control transfer (11_steward R340 to R342). -/

namespace Sys2Proof.Machine

/-! ### Functions of R342 -/

/-- Unsigned division; by zero all ones. -/
def divu64 (a b : Word64) : Word64 := if b = 0 then BitVec.allOnes 64 else a / b
/-- Unsigned remainder; by zero the dividend. -/
def remu64 (a b : Word64) : Word64 := if b = 0 then a else a % b
/-- Signed division, rounded toward zero (log 17); by zero all ones; −2^63 by −1 wraps. -/
def div64 (a b : Word64) : Word64 := if b = 0 then BitVec.allOnes 64 else BitVec.ofInt 64 (a.toInt.tdiv b.toInt)
/-- Signed remainder, with the sign of the dividend (log 17); by zero the dividend. -/
def rem64 (a b : Word64) : Word64 := if b = 0 then a else BitVec.ofInt 64 (a.toInt.tmod b.toInt)
/-- The high half of the unsigned product. -/
def mulhu64 (a b : Word64) : Word64 := BitVec.ofNat 64 (a.toNat * b.toNat / 2 ^ 64)
/-- The number of one bits. -/
def popc64 (a : Word64) : Word64 := BitVec.ofNat 64 ((List.range 64).filter fun i => a.getLsbD i).length
/-- Leading zeros; 64 for zero. -/
def clz64 (a : Word64) : Word64 := BitVec.ofNat 64 (((List.range 64).reverse.takeWhile fun i => !a.getLsbD i).length)
/-- Trailing zeros; 64 for zero. -/
def ctz64 (a : Word64) : Word64 := BitVec.ofNat 64 (((List.range 64).takeWhile fun i => !a.getLsbD i).length)
/-- 1 for true and 0 for false. -/
def flag64 (b : Bool) : Word64 := if b then 1 else 0
/-- INSI: bits [16 HW + 15 : 16 HW] become imm16. -/
def insert16 (v : Word64) (hw : BitVec 2) (imm : BitVec 16) : Word64 :=
  (v &&& ~~~(0xFFFF#64 <<< (16 * hw.toNat))) ||| (imm.setWidth 64 <<< (16 * hw.toNat))

/-- The value of a register of a steward. -/
def regOf (s : State) (st : Fin 264) (r : BitVec 5) : Word64 := (s.stewardAt st.val).reg r

/-- The latency of a divide: at most 40 cycles (R334); the number is free below that. -/
def divLatency (s : State) : Nat := (Config.freeValue s.free).toNat % 40 + 1

/-- A divide retires with a free latency of at most 40 cycles. -/
def computeDiv (s : State) (st : Fin 264) (rd : BitVec 5) (v : Word64) : Answer :=
  whenEnabled (stewardReady s st) s
    (retireNext { s.modSteward st.val (fun x => x.setReg rd v) with free := s.free + 1 } st.val (some (divLatency s)))

/-! ### ALU, register operands (R342) -/

def execAdd (st : Fin 264) (rd ra rb : BitVec 5) (s : State) : Answer :=
  computeReg s st rd (regOf s st ra + regOf s st rb) (some 1)
def execSub (st : Fin 264) (rd ra rb : BitVec 5) (s : State) : Answer :=
  computeReg s st rd (regOf s st ra - regOf s st rb) (some 1)
def execAnd (st : Fin 264) (rd ra rb : BitVec 5) (s : State) : Answer :=
  computeReg s st rd (regOf s st ra &&& regOf s st rb) (some 1)
def execOr (st : Fin 264) (rd ra rb : BitVec 5) (s : State) : Answer :=
  computeReg s st rd (regOf s st ra ||| regOf s st rb) (some 1)
def execXor (st : Fin 264) (rd ra rb : BitVec 5) (s : State) : Answer :=
  computeReg s st rd (regOf s st ra ^^^ regOf s st rb) (some 1)
def execShl (st : Fin 264) (rd ra rb : BitVec 5) (s : State) : Answer :=
  computeReg s st rd (regOf s st ra <<< ((regOf s st rb).toNat % 64)) (some 1)
def execShr (st : Fin 264) (rd ra rb : BitVec 5) (s : State) : Answer :=
  computeReg s st rd (regOf s st ra >>> ((regOf s st rb).toNat % 64)) (some 1)
def execSar (st : Fin 264) (rd ra rb : BitVec 5) (s : State) : Answer :=
  computeReg s st rd ((regOf s st ra).sshiftRight ((regOf s st rb).toNat % 64)) (some 1)
def execSlt (st : Fin 264) (rd ra rb : BitVec 5) (s : State) : Answer :=
  computeReg s st rd (flag64 ((regOf s st ra).slt (regOf s st rb))) (some 1)
def execSltu (st : Fin 264) (rd ra rb : BitVec 5) (s : State) : Answer :=
  computeReg s st rd (flag64 ((regOf s st ra).ult (regOf s st rb))) (some 1)
def execMul (st : Fin 264) (rd ra rb : BitVec 5) (s : State) : Answer :=
  computeReg s st rd (regOf s st ra * regOf s st rb) (some 4)
def execMulhu (st : Fin 264) (rd ra rb : BitVec 5) (s : State) : Answer :=
  computeReg s st rd (mulhu64 (regOf s st ra) (regOf s st rb)) (some 4)
def execDiv (st : Fin 264) (rd ra rb : BitVec 5) (s : State) : Answer :=
  computeDiv s st rd (div64 (regOf s st ra) (regOf s st rb))
def execDivu (st : Fin 264) (rd ra rb : BitVec 5) (s : State) : Answer :=
  computeDiv s st rd (divu64 (regOf s st ra) (regOf s st rb))
def execRem (st : Fin 264) (rd ra rb : BitVec 5) (s : State) : Answer :=
  computeDiv s st rd (rem64 (regOf s st ra) (regOf s st rb))
def execRemu (st : Fin 264) (rd ra rb : BitVec 5) (s : State) : Answer :=
  computeDiv s st rd (remu64 (regOf s st ra) (regOf s st rb))
def execMin (st : Fin 264) (rd ra rb : BitVec 5) (s : State) : Answer :=
  computeReg s st rd (if (regOf s st ra).slt (regOf s st rb) then regOf s st ra else regOf s st rb) (some 1)
def execMax (st : Fin 264) (rd ra rb : BitVec 5) (s : State) : Answer :=
  computeReg s st rd (if (regOf s st ra).slt (regOf s st rb) then regOf s st rb else regOf s st ra) (some 1)
def execMinu (st : Fin 264) (rd ra rb : BitVec 5) (s : State) : Answer :=
  computeReg s st rd (if (regOf s st ra).ult (regOf s st rb) then regOf s st ra else regOf s st rb) (some 1)
def execMaxu (st : Fin 264) (rd ra rb : BitVec 5) (s : State) : Answer :=
  computeReg s st rd (if (regOf s st ra).ult (regOf s st rb) then regOf s st rb else regOf s st ra) (some 1)
def execPopc (st : Fin 264) (rd ra : BitVec 5) (s : State) : Answer :=
  computeReg s st rd (popc64 (regOf s st ra)) (some 1)
def execClz (st : Fin 264) (rd ra : BitVec 5) (s : State) : Answer :=
  computeReg s st rd (clz64 (regOf s st ra)) (some 1)
def execCtz (st : Fin 264) (rd ra : BitVec 5) (s : State) : Answer :=
  computeReg s st rd (ctz64 (regOf s st ra)) (some 1)

/-! ### ALU, immediate operands (R340, R341) -/

def execAddi (st : Fin 264) (rd ra : BitVec 5) (imm : BitVec 16) (s : State) : Answer :=
  computeReg s st rd (regOf s st ra + sext16 imm) (some 1)
def execAndi (st : Fin 264) (rd ra : BitVec 5) (imm : BitVec 16) (s : State) : Answer :=
  computeReg s st rd (regOf s st ra &&& zext16 imm) (some 1)
def execOri (st : Fin 264) (rd ra : BitVec 5) (imm : BitVec 16) (s : State) : Answer :=
  computeReg s st rd (regOf s st ra ||| zext16 imm) (some 1)
def execXori (st : Fin 264) (rd ra : BitVec 5) (imm : BitVec 16) (s : State) : Answer :=
  computeReg s st rd (regOf s st ra ^^^ zext16 imm) (some 1)
def execShli (st : Fin 264) (rd ra : BitVec 5) (cnt : BitVec 6) (s : State) : Answer :=
  computeReg s st rd (regOf s st ra <<< cnt.toNat) (some 1)
def execShri (st : Fin 264) (rd ra : BitVec 5) (cnt : BitVec 6) (s : State) : Answer :=
  computeReg s st rd (regOf s st ra >>> cnt.toNat) (some 1)
def execSari (st : Fin 264) (rd ra : BitVec 5) (cnt : BitVec 6) (s : State) : Answer :=
  computeReg s st rd ((regOf s st ra).sshiftRight cnt.toNat) (some 1)
def execSlti (st : Fin 264) (rd ra : BitVec 5) (imm : BitVec 16) (s : State) : Answer :=
  computeReg s st rd (flag64 ((regOf s st ra).slt (sext16 imm))) (some 1)
def execSltiu (st : Fin 264) (rd ra : BitVec 5) (imm : BitVec 16) (s : State) : Answer :=
  computeReg s st rd (flag64 ((regOf s st ra).ult (zext16 imm))) (some 1)
def execLdi (st : Fin 264) (rd : BitVec 5) (hw : BitVec 2) (imm : BitVec 16) (s : State) : Answer :=
  computeReg s st rd (zext16 imm <<< (16 * hw.toNat)) (some 1)
def execInsi (st : Fin 264) (rd : BitVec 5) (hw : BitVec 2) (imm : BitVec 16) (s : State) : Answer :=
  computeReg s st rd (insert16 (regOf s st rd) hw imm) (some 1)

/-! ### Branches and jumps (R334, R340, R341, R344 rule 8) -/

/-- A jump, with its link register if it has one: a target that is not a multiple of 4 is the misaligned fault at the
jump, and the link is then not written. -/
def jumpTo (s : State) (st : Fin 264) (link : Option (BitVec 5)) (target : Word64) : State :=
  if target.toNat % 4 ≠ 0 then stewardFault s st 0x2004 target.toNat
  else
    match link with
    | some rd => retireTo (s.modSteward st.val fun x => x.setReg rd (x.pc + 4)) st.val (some 2) target
    | none => retireTo s st.val (some 2) target

/-- A branch: to pc + 4 × disp when taken. -/
def branch (s : State) (st : Fin 264) (taken : Bool) (disp : BitVec 16) : Answer :=
  whenEnabled (stewardReady s st) s
    (if taken then jumpTo s st none ((s.stewardAt st.val).pc + sext16 disp * 4) else retireNext s st.val (some 1))

def execBeq (st : Fin 264) (ra rb : BitVec 5) (disp : BitVec 16) (s : State) : Answer :=
  branch s st (regOf s st ra == regOf s st rb) disp
def execBne (st : Fin 264) (ra rb : BitVec 5) (disp : BitVec 16) (s : State) : Answer :=
  branch s st (regOf s st ra != regOf s st rb) disp
def execBlt (st : Fin 264) (ra rb : BitVec 5) (disp : BitVec 16) (s : State) : Answer :=
  branch s st ((regOf s st ra).slt (regOf s st rb)) disp
def execBge (st : Fin 264) (ra rb : BitVec 5) (disp : BitVec 16) (s : State) : Answer :=
  branch s st (!(regOf s st ra).slt (regOf s st rb)) disp
def execBltu (st : Fin 264) (ra rb : BitVec 5) (disp : BitVec 16) (s : State) : Answer :=
  branch s st ((regOf s st ra).ult (regOf s st rb)) disp
def execBgeu (st : Fin 264) (ra rb : BitVec 5) (disp : BitVec 16) (s : State) : Answer :=
  branch s st (!(regOf s st ra).ult (regOf s st rb)) disp

/-- J: pc + 4 × disp26. -/
def execJ (st : Fin 264) (disp : BitVec 26) (s : State) : Answer :=
  whenEnabled (stewardReady s st) s (jumpTo s st none ((s.stewardAt st.val).pc + disp.signExtend 64 * 4))

/-- JL: g31 := pc + 4, then as J. -/
def execJl (st : Fin 264) (disp : BitVec 26) (s : State) : Answer :=
  whenEnabled (stewardReady s st) s (jumpTo s st (some 31) ((s.stewardAt st.val).pc + disp.signExtend 64 * 4))

/-- JLR: rd := pc + 4 and a jump to ra + imm. -/
def execJlr (st : Fin 264) (rd ra : BitVec 5) (imm : BitVec 16) (s : State) : Answer :=
  whenEnabled (stewardReady s st) s (jumpTo s st (some rd) (regOf s st ra + sext16 imm))

end Sys2Proof.Machine
end

