-- ==== Sys2Proof/Machine/Arith.lean ====
section
/-! DEFINITION. The number formats and the two arithmetic paths (03_arithmetic R53 to R68): exact numbers, rounding,
binary32 operations, window words and their output. -/

namespace Sys2Proof.Machine

/-! ### Numbers -/

/-- A number of an IEEE 754 kind: NaN, an infinity, or ± m × 2^e exactly. -/
inductive Num where
  | nan
  | inf (neg : Bool)
  | fin (neg : Bool) (m : Nat) (e : Int)
  deriving DecidableEq, Repr

/-- The layout of a floating-point format (R54): mantissa bits, exponent bits, bias, and whether the top exponent is used
as in IEEE 754 (`ieee`) or only its last code is a NaN (E4M3) or all of it is finite (E2M1). -/
structure Layout where
  mant : Nat
  expo : Nat
  bias : Int
  /-- 0 IEEE 754, 1 one NaN code and no infinity, 2 neither -/
  top : Nat
  deriving DecidableEq, Repr

def layoutF32 : Layout := ⟨23, 8, 127, 0⟩
def layoutBf16 : Layout := ⟨7, 8, 127, 0⟩
def layoutE5m2 : Layout := ⟨2, 5, 15, 0⟩
def layoutE4m3 : Layout := ⟨3, 4, 7, 1⟩
def layoutE2m1 : Layout := ⟨1, 2, 1, 2⟩

/-- The number of a code of a format (R54). -/
def ofCode (l : Layout) (c : Nat) : Num :=
  let man := c % 2 ^ l.mant
  let ex := c / 2 ^ l.mant % 2 ^ l.expo
  let neg := c / 2 ^ (l.mant + l.expo) % 2 == 1
  let topEx := 2 ^ l.expo - 1
  if l.top = 0 ∧ ex = topEx then (if man = 0 then .inf neg else .nan)
  else if l.top = 1 ∧ ex = topEx ∧ man = 2 ^ l.mant - 1 then .nan
  else if ex = 0 then .fin neg man (1 - l.bias - l.mant)
  else .fin neg (2 ^ l.mant + man) (ex - l.bias - l.mant)

/-- The number of an INT8 code. -/
def ofInt8 (c : Nat) : Num :=
  let v := (BitVec.ofNat 8 c).toInt
  .fin (decide (v < 0)) v.natAbs 0

/-- The canonical NaN of a format (R56). -/
def canonicalNan (l : Layout) : Nat :=
  if l.top = 0 ∧ l.mant ≠ 2 then (2 ^ l.expo - 1) * 2 ^ l.mant + 2 ^ (l.mant - 1) else 0x7F

/-- m × 2^(−k), rounded to nearest, ties to even. -/
def rneShift (m k : Nat) : Nat :=
  let q := m / 2 ^ k
  let r := m % 2 ^ k
  if 2 * r > 2 ^ k ∨ (2 * r = 2 ^ k ∧ q % 2 = 1) then q + 1 else q

/-- m × 2^e times 2^(−q), rounded to nearest even. -/
def rneTo (m : Nat) (e q : Int) : Nat := if e ≥ q then m * 2 ^ (e - q).toNat else rneShift m (q - e).toNat

/-- m × 2^e in magnitude rounded to a format with gradual underflow as if its exponent had no upper bound: the rounded
mantissa and the exponent of its last place. -/
def roundMag (l : Layout) (m : Nat) (e : Int) : Nat × Int :=
  let top : Int := e + Nat.log2 m
  let q : Int := max (top - l.mant) (1 - l.bias - l.mant)
  let r := rneTo m e q
  if r = 2 ^ (l.mant + 1) then (2 ^ l.mant, q + 1) else (r, q)

/-- The sign bit of a code of a format. -/
def signBit (l : Layout) (neg : Bool) : Nat := if neg then 2 ^ (l.mant + l.expo) else 0

/-- m × 2^e is 464 or more: the magnitudes that overflow in E4M3 by the example of R63 (log 65). -/
def reaches464 (m : Nat) (e : Int) : Bool := if e ≥ 4 then decide (29 ≤ m * 2 ^ (e - 4).toNat) else decide (29 * 2 ^ (4 - e).toNat ≤ m)

/-- R63, R64: a number as a code of an output format, with the flags it raises. -/
def toCode (l : Layout) (x : Num) : Nat × BitVec 16 :=
  match x with
  | .nan => (canonicalNan l, flagNan)
  | .inf neg => if l.top = 0 then (signBit l neg + (2 ^ l.expo - 1) * 2 ^ l.mant, flagInf) else (canonicalNan l, flagNan)
  | .fin neg m e =>
    if m = 0 then (signBit l neg, 0)
    else
      let r := roundMag l m e
      if r.1 = 0 then (signBit l neg, flagUnf)
      else
        let ex : Int := if r.1 < 2 ^ l.mant then 0 else r.2 + l.mant + l.bias
        let man := r.1 % 2 ^ l.mant
        let big : Bool :=
          if l.top = 0 then decide (ex ≥ 2 ^ l.expo - 1)
          else if l.top = 1 then reaches464 m e
          else decide (ex > 2 ^ l.expo - 1)
        if big then
          if l.top = 0 then (signBit l neg + (2 ^ l.expo - 1) * 2 ^ l.mant, flagOvf ||| flagInf)
          else (signBit l neg + (2 ^ l.expo - 1) * 2 ^ l.mant + (2 ^ l.mant - (if l.top = 1 then 2 else 1)), flagOvf)
        else (signBit l neg + ex.toNat * 2 ^ l.mant + man, 0)

/-! ### Exact operations -/

/-- The negative. -/
def numNeg : Num → Num
  | .nan => .nan
  | .inf n => .inf (!n)
  | .fin n m e => .fin (!n) m e

/-- Signed mantissa. -/
def signedMag (neg : Bool) (m : Nat) : Int := if neg then -(m : Int) else m

/-- The sum as IEEE 754 gives it, before rounding to nearest: an exact zero is +0 unless both terms are −0. -/
def numAdd : Num → Num → Num
  | .nan, _ => .nan
  | _, .nan => .nan
  | .inf a, .inf b => if a = b then .inf a else .nan
  | .inf a, .fin _ _ _ => .inf a
  | .fin _ _ _, .inf b => .inf b
  | .fin n m e, .fin n' m' e' =>
    let q := min e e'
    let v := signedMag n m * 2 ^ (e - q).toNat + signedMag n' m' * 2 ^ (e' - q).toNat
    if v = 0 then .fin (n && n' && m == 0 && m' == 0) 0 0 else .fin (decide (v < 0)) v.natAbs q

/-- The exact product. -/
def numMul : Num → Num → Num
  | .nan, _ => .nan
  | _, .nan => .nan
  | .inf a, .inf b => .inf (xor a b)
  | .inf a, .fin b m _ => if m = 0 then .nan else .inf (xor a b)
  | .fin a m _, .inf b => if m = 0 then .nan else .inf (xor a b)
  | .fin a m e, .fin b m' e' => .fin (xor a b) (m * m') (e + e')

/-- a < b for finite numbers and infinities; false with a NaN. The two zeros are equal. -/
def numLt : Num → Num → Bool
  | .nan, _ => false
  | _, .nan => false
  | .inf a, .inf b => a && !b
  | .inf a, .fin _ _ _ => a
  | .fin _ _ _, .inf b => !b
  | .fin n m e, .fin n' m' e' =>
    let q := min e e'
    decide (signedMag n m * 2 ^ (e - q).toNat < signedMag n' m' * 2 ^ (e' - q).toNat)

/-- Whether a number is a NaN. -/
def numIsNan : Num → Bool
  | .nan => true
  | _ => false

/-- Whether a number is an infinity. -/
def numIsInf : Num → Bool
  | .inf _ => true
  | _ => false

/-- Whether a number is a zero. -/
def numIsZero : Num → Bool
  | .fin _ m _ => m == 0
  | _ => false

/-- 2^k exactly. -/
def numPow2 (k : Int) : Num := .fin false 1 k

/-! ### binary32 (R67, R70) -/

/-- The number of a binary32 code. -/
def f32Num (a : BitVec 32) : Num := ofCode layoutF32 a.toNat
/-- A number rounded to binary32. -/
def numF32 (x : Num) : BitVec 32 := BitVec.ofNat 32 (toCode layoutF32 x).1
def f32Nan : BitVec 32 := 0x7FC00000
def f32One : BitVec 32 := 0x3F800000
def f32PosInf : BitVec 32 := 0x7F800000
def f32NegInf : BitVec 32 := 0xFF800000
/-- The mask fill −2^126 (R78). -/
def maskFill : BitVec 32 := 0xFE800000
/-- The score floor −2^125 (R78). -/
def scoreFloor : BitVec 32 := 0xFE000000
def f32Add (a b : BitVec 32) : BitVec 32 := numF32 (numAdd (f32Num a) (f32Num b))
def f32Sub (a b : BitVec 32) : BitVec 32 := numF32 (numAdd (f32Num a) (numNeg (f32Num b)))
def f32Mul (a b : BitVec 32) : BitVec 32 := numF32 (numMul (f32Num a) (f32Num b))
def f32Fma (a b c : BitVec 32) : BitVec 32 := numF32 (numAdd (numMul (f32Num a) (f32Num b)) (f32Num c))
def f32Lt (a b : BitVec 32) : Bool := numLt (f32Num a) (f32Num b)
def f32IsNan (a : BitVec 32) : Bool := numIsNan (f32Num a)
/-- The canonical NaN for a NaN, the value itself otherwise (R56). -/
def f32Canon (a : BitVec 32) : BitVec 32 := if f32IsNan a then f32Nan else a
/-- The larger of two numbers; NaN if either is; +0 ranks above −0 (R71). -/
def f32Max (a b : BitVec 32) : BitVec 32 :=
  if f32IsNan a || f32IsNan b then f32Nan
  else if f32Lt a b then b else if f32Lt b a then a else if a.getLsbD 31 then b else a
/-- An integer in binary32. -/
def f32OfNat (n : Nat) : BitVec 32 := numF32 (.fin false n 0)

/-- n ÷ d for positive n and d as a number with the bits that rounding to binary32 needs: a truncated quotient with a
sticky last bit. -/
def ratioNum (neg : Bool) (n d : Nat) (e : Int) : Num :=
  let k := Nat.log2 d + 64
  let q := n * 2 ^ k / d
  let r := n * 2 ^ k % d
  .fin neg (2 * q + (if r = 0 then 0 else 1)) (e - k - 1)

/-- The quotient of two binary32 numbers, correctly rounded. -/
def f32Div (a b : BitVec 32) : BitVec 32 :=
  match f32Num a, f32Num b with
  | .nan, _ => f32Nan
  | _, .nan => f32Nan
  | .inf _, .inf _ => f32Nan
  | .inf x, .fin y _ _ => numF32 (.inf (xor x y))
  | .fin x _ _, .inf y => numF32 (.fin (xor x y) 0 0)
  | .fin x m e, .fin y m' e' =>
    if m' = 0 then (if m = 0 then f32Nan else numF32 (.inf (xor x y)))
    else if m = 0 then numF32 (.fin (xor x y) 0 0)
    else numF32 (ratioNum (xor x y) m m' (e - e'))

/-! ### Window words (R60 to R65) -/

/-- A window word with its sticky flags: SAT, NAN, POS_INF, NEG_INF from bit 0. -/
structure Win where
  w : Int := 0
  flags : BitVec 4 := 0
  deriving DecidableEq, Repr

/-- R61, R64: a product converted into the window of anchor `a`. -/
def convertProduct (a : Int) (p : Num) : Win :=
  match p with
  | .nan => ⟨0, 2⟩
  | .inf neg => ⟨0, if neg then 8 else 4⟩
  | .fin neg m e =>
    let q := a - 100
    let big : Bool := if e ≥ a then decide (m ≠ 0) else decide (2 ^ (a - e).toNat ≤ m)
    if big then ⟨signedMag neg (2 ^ 100 - 1), 1⟩
    else ⟨signedMag neg (if e ≥ q then m * 2 ^ (e - q).toNat else m / 2 ^ (q - e).toNat), 0⟩

/-- R65: window words add as integers, their flags by OR. -/
def winAdd (x y : Win) : Win := ⟨x.w + y.w, x.flags ||| y.flags⟩

/-- R63, R64: the value of a window word before the scales. -/
def winNum (a : Int) (x : Win) : Num :=
  let nan := x.flags.getLsbD 1
  let pos := x.flags.getLsbD 2
  let neg := x.flags.getLsbD 3
  if nan || (pos && neg) then .nan
  else if pos then .inf false
  else if neg then .inf true
  else .fin (decide (x.w < 0)) x.w.natAbs (a - 100)

/-- R63, R64: the output of a window word with its tensor and row scales, and its flags (SAT among them). -/
def winOut (l : Layout) (a : Int) (x : Win) (scales : List (BitVec 32)) : Nat × BitVec 16 :=
  let v := scales.foldl (fun p t => numMul p (f32Num t)) (winNum a x)
  let v := match v with | .fin _ 0 _ => .fin false 0 0 | v => v
  let r := toCode l v
  (r.1, r.2 ||| (if x.flags.getLsbD 0 then flagSat else 0))

/-! ### BF16 accumulation (R67) -/

/-- One level of the adder tree: adjacent results are added. -/
def treeLevel : List (BitVec 32) → List (BitVec 32)
  | a :: b :: r => f32Add a b :: treeLevel r
  | l => l

/-- R67 step 1: the 32 products of one lane and cycle, added in five levels. -/
def tree32 (l : List (BitVec 32)) : BitVec 32 :=
  ((treeLevel (treeLevel (treeLevel (treeLevel (treeLevel (l ++ List.replicate (32 - l.length) 0))))))).headD 0

end Sys2Proof.Machine
end

