-- ==== Sys2Proof/Machine/Operands.lean ====
section
/-! DEFINITION. Operand forms: accesses of the units, matrix descriptors, elements and scales, depth chunks, length
tables, and the numbering of tiles (05_macro R126 to R131, R139 to R144; 04_matrix R98 to R103). -/

namespace Sys2Proof.Machine

/-! ### Accesses of a command's units, and folds that stop at a fault -/

/-- The accesses that a command's units make (10_streams R323). -/
def reqOf (s : State) (r : MacroRec) : Req :=
  { owner := .task r.issuer, part := r.ctx.map fun c => (s.ctxAt c.val).part.toNat, ctx := r.ctx, view := r.view }

/-- A list cut into runs of `n`; `fuel` bounds the number of runs. -/
def chunksOf {α : Type} (n : Nat) : Nat → List α → List (List α)
  | 0, _ => []
  | fuel + 1, l => if l = [] then [] else l.take n :: chunksOf n fuel (l.drop n)

/-- One after another over a list, stopping at the first fault. -/
def foldGot {α β : Type} (f : β → α → Got β) : β → List α → Got β
  | b, [] => .ok b
  | b, x :: r =>
    match f b x with
    | .error e => .error e
    | .ok b' => foldGot f b' r

/-- The values of a list, or the first fault. -/
def mapGot {α β : Type} (f : α → Got β) : List α → Got (List β)
  | [] => .ok []
  | x :: r =>
    match f x with
    | .error e => .error e
    | .ok y => (mapGot f r).map fun l => y :: l

/-! ### Matrix descriptors (R126, R127) -/

/-- A matrix descriptor. -/
structure Desc where
  base : Nat
  rowStride : Nat
  rows : Nat
  cols : Nat
  format : Nat
  flags : Nat
  anchor : Int
  tscale : BitVec 32
  scaleBase : Nat
  scaleStride : Nat
  batch : Nat
  batchStride : Nat
  auxBase : Nat
  deriving DecidableEq, Repr

/-- The descriptor in 64 bytes. -/
def Desc.ofBytes (w : List Byte) : Desc :=
  { base := field w 0 8 % 2 ^ 48, rowStride := field w 8 8, rows := field w 0x10 4, cols := field w 0x14 4,
    format := field w 0x18 1, flags := field w 0x19 1, anchor := (BitVec.ofNat 16 (field w 0x1A 2)).toInt,
    tscale := BitVec.ofNat 32 (field w 0x1C 4), scaleBase := field w 0x20 8 % 2 ^ 48, scaleStride := field w 0x28 4,
    batch := field w 0x2C 4, batchStride := field w 0x30 8, auxBase := field w 0x38 8 % 2 ^ 48 }

/-- Descriptor `i` of the table that a command word names. -/
def descOf (s : State) (q : Req) (word : List Byte) (i : Nat) : Got Desc :=
  (uRead s q (wDtab word % 2 ^ 48 + 64 * i) 64).map Desc.ofBytes

/-- The bits of an element of a format; 0 for a reserved code (R127). -/
def formatBits (f : Nat) : Nat :=
  match f with
  | 0 => 4 | 1 => 8 | 2 => 8 | 3 => 8 | 4 => 16 | 5 => 32 | 6 => 128 | 7 => 1
  | _ => 0

/-- The layout of a floating-point format code (R54, R127). -/
def formatLayout (f : Nat) : Layout :=
  match f with
  | 0 => layoutE2m1 | 1 => layoutE4m3 | 2 => layoutE5m2 | 4 => layoutBf16
  | _ => layoutF32

/-- The number of an element code of a format (R54). -/
def formatNum (f code : Nat) : Num := if f = 3 then ofInt8 code else ofCode (formatLayout f) code

/-- The dot depth of an operand format (R53). -/
def formatDepth (f : Nat) : Nat := match f with | 0 => 128 | 4 => 32 | _ => 64

/-- The elements that one block scale covers (R57): 16 of FP4, 32 of FP8. -/
def formatBlock (f : Nat) : Nat := if f = 0 then 16 else 32

/-- Whether the products of a pair are anchored (R53): all but BF16. -/
def anchoredFormat (f : Nat) : Bool := f != 4

/-- Where batch `p` of an instruction lies in one descriptor: its batch, and the row and the column it begins at. -/
structure View where
  batch : Nat
  row0 : Nat
  col0 : Nat
  deriving DecidableEq, Repr

/-- The batch of an operand: the only one it has, or the instruction's (R130). -/
def operandView (d : Desc) (p : Nat) : View := { batch := if d.batch = 1 then 0 else p, row0 := 0, col0 := 0 }

/-- The byte that holds element (r, c) of a view (R128). -/
def elemAddr (d : Desc) (v : View) (r c : Nat) : Nat :=
  d.base + v.batch * d.batchStride + (v.row0 + r) * d.rowStride + (v.col0 + c) * formatBits d.format / 8

/-- The codes of `n` elements of row `r` from column `c0` on. -/
def rowCodes (s : State) (q : Req) (d : Desc) (v : View) (r c0 n : Nat) : Got (List Nat) :=
  let first := elemAddr d v r c0
  let last := elemAddr d v r (c0 + n - 1)
  let b := formatBits d.format
  if n = 0 then .ok []
  else (uRead s q first (last - first + (b + 7) / 8)).map fun bs =>
    (List.range n).map fun i =>
      if b = 4 then
        let x := field bs ((v.col0 + c0 + i) / 2 - (v.col0 + c0) / 2) 1
        if (v.col0 + c0 + i) % 2 = 0 then x % 16 else x / 16
      else field bs (i * (b / 8)) (b / 8)

/-- The block-scale codes of blocks `k0` to `k0 + n - 1` of row `r` (R58, R128); none when the descriptor declares none. INT8 and BF16
have no block scales (R57): what BSCALE says in such a descriptor has no effect (log 96). -/
def scaleCodes (s : State) (q : Req) (d : Desc) (v : View) (r k0 n : Nat) : Got (List Nat) :=
  if bit d.flags 0 ∧ d.format ≤ 2 then
    (uRead s q (d.scaleBase + (v.batch * d.rows + v.row0 + r) * d.scaleStride + k0) n).map fun bs => bs.map fun b => b.toNat
  else .ok []

/-- Where `rowCodes` reads: the bytes of the `n` elements. -/
def rowSpan (d : Desc) (v : View) (r c0 n : Nat) : List (Nat × Nat) :=
  if n = 0 then []
  else [(elemAddr d v r c0, elemAddr d v r (c0 + n - 1) - elemAddr d v r c0 + (formatBits d.format + 7) / 8)]

/-- Where `scaleCodes` reads. -/
def scaleSpan (d : Desc) (v : View) (r k0 n : Nat) : List (Nat × Nat) :=
  if bit d.flags 0 ∧ d.format ≤ 2 then [(d.scaleBase + (v.batch * d.rows + v.row0 + r) * d.scaleStride + k0, n)] else []

/-- Where a whole row of an operand is read, with its block scales. -/
def operandRow (d : Desc) (v : View) (r : Nat) : List (Nat × Nat) :=
  rowSpan d v r 0 d.cols ++ scaleSpan d v r 0 ((d.cols + formatBlock d.format - 1) / formatBlock d.format)

/-- The row scale of row `r` (R57, R128): 1.0 when RSCALE is 0. -/
def rowScale (s : State) (q : Req) (d : Desc) (v : View) (r : Nat) : Got (BitVec 32) :=
  if bit d.flags 1 ∧ d.format = 3 then
    (uReadNat s q (d.auxBase + 4 * (v.batch * d.rows + v.row0 + r)) 4).map fun n => BitVec.ofNat 32 n
  else .ok f32One

/-! ### Depth chunks (04_matrix R98, R102, R103) -/

/-- Depth chunk `kc` of row `r`: the elements that lie within K, with their block scales. A row beyond the edge gives an
empty chunk; what a chunk lacks is supplied as zero. -/
def chunkOf (s : State) (q : Req) (d : Desc) (v : View) (rows r k kc pass column : Nat) : Got Chunk :=
  let depth := formatDepth d.format
  let n := min depth (k - kc * depth)
  let blk := formatBlock d.format
  if rows ≤ r ∨ k ≤ kc * depth then .ok { pass, column, elements := [], scales := [] }
  else
    match rowCodes s q d v r (kc * depth) n with
    | .error e => .error e
    | .ok es => (scaleCodes s q d v r (kc * depth / blk) ((n + blk - 1) / blk)).map fun sc => { pass, column, elements := es, scales := sc }

/-- Where `chunkOf` reads. -/
def chunkSpans (d : Desc) (v : View) (rows r k kc : Nat) : List (Nat × Nat) :=
  let depth := formatDepth d.format
  let n := min depth (k - kc * depth)
  let blk := formatBlock d.format
  if rows ≤ r ∨ k ≤ kc * depth then [] else rowSpan d v r (kc * depth) n ++ scaleSpan d v r (kc * depth / blk) ((n + blk - 1) / blk)

/-- The number that block-scale code `e` stands for (R58): 2^(e − 127), or NaN for 0xFF. -/
def scaleNum (e : Nat) : Num := if e = 255 then .nan else numPow2 ((e : Int) - 127)

/-- The block scale of element `i` of a chunk; 2^0 when there is none (R57). -/
def chunkScale (f : Nat) (c : Chunk) (i : Nat) : Num :=
  match c.scales[i / formatBlock f]? with
  | some e => scaleNum e
  | none => numPow2 0

/-- The window word of one anchored dot product (R61, R64): the sum of the converted products of a chunk pair. -/
def dotWin (fa fb : Nat) (anchor : Int) (a b : Chunk) : Win :=
  ((List.range (min a.elements.length b.elements.length)).map fun i =>
    convertProduct anchor
      (numMul (numMul (formatNum fa (a.elements.getD i 0)) (chunkScale fa a i))
        (numMul (formatNum fb (b.elements.getD i 0)) (chunkScale fb b i)))).foldl winAdd {}

/-- The window word of an anchored dot product with the number of its products that saturate (R61, R69). -/
def dotWinSat (fa fb : Nat) (anchor : Int) (a b : Chunk) : Win × Nat :=
  ((List.range (min a.elements.length b.elements.length)).map fun i =>
    convertProduct anchor
      (numMul (numMul (formatNum fa (a.elements.getD i 0)) (chunkScale fa a i))
        (numMul (formatNum fb (b.elements.getD i 0)) (chunkScale fb b i)))).foldl
    (fun o w => (winAdd o.1 w, if w.flags.getLsbD 0 then o.2 + 1 else o.2)) ({}, 0)

/-- The BF16 dot product of one lane and cycle (R67 step 1). A product outside the range of binary32 is rounded to it before the tree:
the model's choice (log 97). -/
def dotBf16 (a b : Chunk) : BitVec 32 :=
  tree32 ((List.range (min a.elements.length b.elements.length)).map fun i =>
    numF32 (numMul (formatNum 4 (a.elements.getD i 0)) (formatNum 4 (b.elements.getD i 0))))

/-- An accumulator: a window word, or a binary32 value of BF16 products. -/
inductive Accum where
  | win (w : Win)
  | f32 (v : BitVec 32)
  deriving DecidableEq, Repr

/-- The dot product of a chunk pair as an accumulator. -/
def dotOf (fa fb : Nat) (anchor : Int) (a b : Chunk) : Accum :=
  if anchoredFormat fa then .win (dotWin fa fb anchor a b) else .f32 (dotBf16 a b)

/-- R113: the first pass writes the accumulator, later passes add into it. -/
def accumAdd (old : Option Accum) (x : Accum) : Accum :=
  match old, x with
  | some (.win w), .win v => .win (winAdd w v)
  | some (.f32 a), .f32 b => .f32 (f32Add a b)
  | _, y => y

/-- R63, R64, R67: an accumulator rounded once to an output format. -/
def accumOut (fmt : Nat) (anchor : Int) (scales : List (BitVec 32)) (x : Accum) : Nat × BitVec 16 :=
  match x with
  | .win w => winOut (formatLayout fmt) anchor w scales
  | .f32 v => toCode (formatLayout fmt) (f32Num v)

/-- An element written in its format (R128; never FP4: R53). -/
def writeElem (s : State) (q : Req) (d : Desc) (v : View) (r c code : Nat) : Got State :=
  uWriteNat s q (elemAddr d v r c) (formatBits d.format / 8) code

/-- R131: an accumulator written unrounded as element (q, r, c) of a partial buffer. -/
def writePartial (s : State) (q : Req) (d : Desc) (plane r c : Nat) (x : Accum) : Got State :=
  let v : View := { batch := plane, row0 := 0, col0 := 0 }
  match x with
  | .f32 a => writeElem s q d v r c a.toNat
  | .win w =>
    match writeElem s q d v r c (BitVec.ofInt 128 w.w).toNat with
    | .error e => .error e
    | .ok t => uWriteNat t q (d.scaleBase + (plane * d.rows + r) * d.scaleStride + c) 1 w.flags.toNat

/-- Where `n` planes of a partial buffer are read for rows `r0` to `r0 + m - 1` of a tile, `w` columns from `c0` on. -/
def partialSpans (d : Desc) (plane n r0 m c0 w : Nat) : List (Nat × Nat) :=
  (List.range n).flatMap fun k => (List.range m).flatMap fun r =>
    rowSpan d ⟨plane + k, 0, 0⟩ (r0 + r) c0 w ++
      (if d.format = 6 then [(d.scaleBase + ((plane + k) * d.rows + r0 + r) * d.scaleStride + c0, w)] else [])

/-- R131: element (q, r, c) of a partial buffer. -/
def readPartial (s : State) (q : Req) (d : Desc) (plane r c : Nat) : Got Accum :=
  let v : View := { batch := plane, row0 := 0, col0 := 0 }
  match uReadNat s q (elemAddr d v r c) (formatBits d.format / 8) with
  | .error e => .error e
  | .ok n =>
    if d.format = 6 then
      (uReadNat s q (d.scaleBase + (plane * d.rows + r) * d.scaleStride + c) 1).map fun fl =>
        .win ⟨(BitVec.ofNat 128 n).toInt, BitVec.ofNat 4 fl⟩
    else .ok (.f32 (BitVec.ofNat 32 n))

/-! ### Length tables (R143, R144) -/

/-- LENGTH and OFFSET of entry `p` of a length table. -/
def lengthEntry (s : State) (q : Req) (ltab p : Nat) : Got (Nat × Nat) :=
  match uReadNat s q (ltab + 16 * p + 4) 4 with
  | .error e => .error e
  | .ok l => (uReadNat s q (ltab + 16 * p + 8) 8).map fun o => (l, o)

/-! ### Tiles (R139 to R142) -/

/-- The ceiling of a quotient. -/
def ceilDiv (a b : Nat) : Nat := (a + b - 1) / b

/-- Tile rows and columns of a mode (R139): 0 A-resident, 1 B-resident, 2 output-resident. -/
def tileShape (mode b : Nat) : Nat × Nat :=
  if mode = 0 then (256, 64 * b) else if mode = 1 then (64 * b, 256) else (16, 16)

/-- One level of the Hilbert walk (R142); `fuel` bounds the number of levels. -/
def hilbertGo (n : Nat) : Nat → Nat → Nat → Nat → Nat → Nat × Nat
  | 0, i, j, _, _ => (i, j)
  | fuel + 1, i, j, t, m =>
    if n ≤ m then (i, j)
    else
      let ri := t / 2 % 2
      let rj := Nat.xor t ri % 2
      let ij := if rj = 0 then (if ri = 1 then (m - 1 - j, m - 1 - i) else (j, i)) else (i, j)
      hilbertGo n fuel (ij.1 + m * ri) (ij.2 + m * rj) (t / 4) (m * 2)

/-- R142: the cell at position `d` of a Hilbert curve of side `n`. -/
def hilbertCell (n d : Nat) : Nat × Nat := hilbertGo n (Nat.log2 n + 1) 0 0 d 1

/-- The smallest power of two not below `n`. -/
def pow2Ceil (n : Nat) : Nat := if n ≤ 1 then 1 else 2 ^ (Nat.log2 (n - 1) + 1)

/-- R142: the output tiles of a batch of gm × gn tiles in Hilbert order. -/
def hilbertTiles (gm gn : Nat) : List (Nat × Nat) :=
  let n := pow2Ceil (max gm gn)
  ((List.range (n * n)).map fun d => hilbertCell n d).filter fun c => decide (c.1 < gm) && decide (c.2 < gn)

/-- A numbered tile: batch, output tile row and column (or row tile and 0), K range. For ATTEND the sequence, the block
within it, the plane and the query block, and for its split placement the round and split. -/
structure TileId where
  batch : Nat
  i : Nat
  j : Nat
  k : Nat
  sub : Nat := 0
  deriving DecidableEq, Repr

/-- R142: the tiles of an instruction in visiting order, from the live tile rows and columns of each batch. -/
def numberTiles (grid : List (Nat × Nat)) (ranges : Nat) : List TileId :=
  grid.zipIdx.flatMap fun g =>
    if g.1.1 = 0 ∨ g.1.2 = 0 then []
    else (hilbertTiles g.1.1 g.1.2).flatMap fun c =>
      (List.range ranges).map fun k => { batch := g.2, i := c.1, j := c.2, k }

/-- R142: row tiles (or row blocks) of 256 rows, in increasing batch and then row. -/
def numberRowTiles (rows : List Nat) : List TileId :=
  rows.zipIdx.flatMap fun g => (List.range (ceilDiv g.1 256)).map fun i => { batch := g.2, i, j := 0, k := 0 }

end Sys2Proof.Machine
end

