-- ==== Sys2Proof/Machine/Matrix.lean ====
section
/-! DEFINITION. Products: MATMUL and COMBINE over descriptors, as tiles and as the steps of an engine (04_matrix R95 to
R118; 05_macro R132, R134, R139 to R152). -/

namespace Sys2Proof.Machine

/-! ### SRAM of an EC (02_package R48; 04_matrix R110; 06_attend R168, R171) -/

/-- A byte address in the SRAM window of an EC. -/
def sramAddr (e off : Nat) : Nat := sramBase + e * sramSize + off
/-- Score (r, j). -/
def scoreAddr (e r j : Nat) : Nat := sramAddr e (0x800000 + 16384 * r + 4 * j)
/-- Word `w` of lane `l` of the accumulator memory of engine `g`. -/
def accAddr (e g l w : Nat) (anchored : Bool) : Nat :=
  sramAddr e ((if g = 0 then 0xC00000 else 0xE00000) + l * 0x2000 + (if anchored then 16 else 4) * w)

/-- The first word of a region (R111); region 2 is the one region of a wide anchored tile, at word 0. -/
def regionBase (anchored : Bool) (region : Nat) : Nat := region % 2 * (if anchored then 256 else 1024)

/-- The region of a tile of width `w` where region `g` is the next of two, and the next after it. An anchored tile above 256 columns has
the one region of both halves: region 2. -/
def takeRegion (w : Bool × Nat) (g : Nat) : Nat × Nat := if w.1 && decide (256 < w.2) then (2, 0) else (g, 1 - g)

/-- The places of a word among the error codes of an accumulator memory, which stand by lane × 2,048 + offset ÷ 4 (R115): the first, and the
one after the last. -/
def accKeys (l w : Nat) (anchored : Bool) : Nat × Nat := if anchored then (l * 2048 + 4 * w, l * 2048 + 4 * w + 4) else (l * 2048 + w, l * 2048 + w + 1)

/-- The errors of an accumulator memory without those of places `k`. -/
def accSound (bad : Tab Nat) (k : Nat × Nat) : Tab Nat := bad.filter fun b => !(decide (k.1 ≤ b.1) && decide (b.1 < k.2))

/-- The worst error of places `k` of an accumulator memory: 0 none, 1 corrected, more uncorrectable. -/
def accWorst (bad : Tab Nat) (k : Nat × Nat) : Nat := bad.foldl (fun m b => if k.1 ≤ b.1 ∧ b.1 < k.2 then max m b.2 else m) 0

/-- The bytes of an accumulator word. -/
def accumBytes : Accum → List Byte
  | .f32 v => natLe 4 v.toNat
  | .win v => natLe 16 (BitVec.ofInt 128 v.w).toNat

/-- Consecutive words of lane `l` from word `w` on take accumulators of one kind. -/
def writeAccums (s : State) (e g l w : Nat) (anchored : Bool) (xs : List Accum) : State :=
  if xs = [] then s
  else
    let t := store s (accAddr e g l w anchored) (xs.flatMap accumBytes)
    let x := t.engineAt e g
    t.setEngine e g { x with
      side := xs.zipIdx.foldl (fun m a => match a.1 with | .win v => tabSet m (l * 512 + w + a.2) v.flags | .f32 _ => m) x.side
      accBad := accSound x.accBad ((accKeys l w anchored).1, (accKeys l (w + xs.length) anchored).1) }

/-- The tiles of a product of lane rows, `width` columns each, take the regions of an engine in turn (R111): the first of them takes `region`
or, of a wide anchored tile, both halves. Each tile's words of lane `l` are written; the answer is the region that follows. -/
def writeTiles (s : State) (e g l : Nat) (anchored : Bool) (width : Nat) : Nat → Nat → List Accum → State × Nat
  | 0, region, _ => (s, region)
  | n + 1, region, xs =>
    if xs = [] then (s, region)
    else
      let k := takeRegion (anchored, width) region
      writeTiles (writeAccums s e g l (regionBase anchored k.1) anchored (xs.take width)) e g l anchored width n k.2 (xs.drop width)

/-- The accumulator word `w` of lane `l`, with its flags from the side array. -/
def readAccum (s : State) (e g l w : Nat) (anchored : Bool) : Accum :=
  let n := natAt s (accAddr e g l w anchored) (if anchored then 16 else 4)
  if anchored then .win ⟨(BitVec.ofNat 128 n).toInt, tabGet 0 (s.engineAt e g).side (l * 512 + w)⟩ else .f32 (BitVec.ofNat 32 n)

/-- The accumulator word `w` of lane `l` becomes `x`. -/
def writeAccum (s : State) (e g l w : Nat) (x : Accum) : State :=
  match x with
  | .f32 v =>
    let t := storeNat s (accAddr e g l w false) 4 v.toNat
    t.setEngine e g { t.engineAt e g with accBad := accSound (t.engineAt e g).accBad (accKeys l w false) }
  | .win v =>
    let t := storeNat s (accAddr e g l w true) 16 (BitVec.ofInt 128 v.w).toNat
    t.setEngine e g { t.engineAt e g with
      side := tabSet (t.engineAt e g).side (l * 512 + w) v.flags, accBad := accSound (t.engineAt e g).accBad (accKeys l w true) }

/-- R115: what the error code of accumulator word `w` of lane `l` says when the word is read: a corrected error is counted, and an
uncorrectable one is a memory fault. How an error comes into a word is open (log 106). -/
def checkAccum (s : State) (e g l w : Nat) (anchored : Bool) : Got State :=
  let x := s.engineAt e g
  match accWorst x.accBad (accKeys l w anchored) with
  | 0 => .ok s
  | 1 => .ok (bumpEc (s.setEngine e g { x with accBad := accSound x.accBad (accKeys l w anchored) }) e cntAccCe)
  | _ => .error (uncorrectableCode (accAddr e g l w anchored), accAddr e g l w anchored)

/-- R115: the same of a resident buffer, which has no address: its fault names the EC's SRAM window (log 106). -/
def checkResident (s : State) (e g key : Nat) : Got State :=
  let x := s.engineAt e g
  match tabGet 0 x.residentBad key with
  | 0 => .ok s
  | 1 => .ok (bumpEc (s.setEngine e g { x with residentBad := tabErase x.residentBad key }) e cntAccCe)
  | _ => .error (uncorrectableCode (sramAddr e 0), sramAddr e 0)

/-! ### MATMUL over its descriptors (R129, R132, R140 to R145) -/

/-- The fields of a MATMUL with its descriptors. -/
structure MatCmd where
  a : Desc
  b : Desc
  c : Desc
  dp : Option Desc
  mode : Nat
  tileB : Nat
  tileC : Nat
  ldim : Bool
  ltab : Nat
  deriving DecidableEq, Repr

/-- A descriptor that a command may leave out with index `0xFFFF`. -/
def optDesc (s : State) (q : Req) (w : List Byte) (i : Nat) : Got (Option Desc) :=
  if i = 0xFFFF then .ok none else (descOf s q w i).map some

/-- The MATMUL of a command word (R132). -/
def matCmd (s : State) (q : Req) (w : List Byte) : Got MatCmd :=
  match descOf s q w (field w 0x18 2), descOf s q w (field w 0x1A 2), descOf s q w (field w 0x1C 2),
    optDesc s q w (field w 0x1E 2) with
  | .ok a, .ok b, .ok c, .ok dp =>
    .ok { a, b, c, dp, mode := wMode w, tileB := field w 0x20 1, tileC := field w 0x21 1,
          ldim := bit (field w 0x23 1) 1, ltab := field w 0x28 8 % 2 ^ 48 }
  | .error e, _, _, _ => .error e
  | _, .error e, _, _ => .error e
  | _, _, .error e, _ => .error e
  | _, _, _, .error e => .error e

/-- Live rows and columns of batch `p`, and its views of A, B and C (R130, R143, R144). -/
structure MatBatch where
  m : Nat
  n : Nat
  va : View
  vb : View
  vc : View
  deriving DecidableEq, Repr

/-- Batch `p` of a MATMUL. -/
def matBatch (s : State) (q : Req) (c : MatCmd) (p : Nat) : Got MatBatch :=
  let plain : MatBatch :=
    { m := c.a.rows, n := c.b.rows, va := operandView c.a p, vb := operandView c.b p, vc := ⟨p, 0, 0⟩ }
  if c.ltab = 0 then .ok plain
  else (lengthEntry s q c.ltab p).map fun e =>
    if c.ldim then { plain with n := e.1, vb := ⟨0, e.2, 0⟩, vc := ⟨0, 0, e.2⟩ }
    else { plain with m := e.1, va := ⟨0, e.2, 0⟩, vc := ⟨0, e.2, 0⟩ }

/-- The number of K ranges of a MATMUL (R141). -/
def matRanges (c : MatCmd) : Nat := ceilDiv (ceilDiv c.a.cols (formatDepth c.a.format)) (max c.tileC 1)

/-- The tiles of a MATMUL in visiting order (R140 to R142, R144). -/
def matTiles (s : State) (q : Req) (c : MatCmd) : Got (List TileId) :=
  let sh := tileShape c.mode c.tileB
  (mapGot (fun p => (matBatch s q c p).map fun b => (ceilDiv b.m sh.1, ceilDiv b.n sh.2)) (List.range c.c.batch)).map
    fun grid => numberTiles grid (matRanges c)

/-! ### The geometry of a tile on an engine (R98, R99, R100, R107) -/

/-- What an engine computes for one tile: for each lane and pass the lane's chunk, for each column and pass the broadcast
chunk, and where each accumulator goes. -/
structure Geo where
  /-- format of the lanes' operand and of the broadcast operand -/
  fl : Nat
  fb : Nat
  anchor : Int
  outRes : Bool
  /-- active lanes -/
  active : Nat → Bool
  /-- columns within the matrix; 1 in output-resident mode -/
  cols : Nat
  passes : Nat
  laneChunk : Nat → Nat → Got Chunk
  colChunk : Nat → Nat → Got Chunk
  /-- where they are read in memory -/
  laneSpans : Nat → Nat → List (Nat × Nat) := fun _ _ => []
  colSpans : Nat → Nat → List (Nat × Nat) := fun _ _ => []
  drain : State → Nat → Nat → Accum → Got (State × BitVec 16)

/-- Cell (row, column) of a tile that lane `l` and column `x` hold (R98). -/
def cellOf (mode l x : Nat) : Nat × Nat := if mode = 0 then (l, x) else if mode = 1 then (x, l) else (l / 16, l % 16)

/-- R63, R64, R67, R145: an accumulator rounded into an output, with tensor and row scales. -/
def drainOut (q : Req) (out : Desc) (vo : View) (r c : Nat) (scales : List (BitVec 32)) (s : State) (x : Accum) :
    Got (State × BitVec 16) :=
  let y := accumOut out.format out.anchor scales x
  (writeElem s q out vo r c y.1).map fun t => (t, y.2)

/-- The SAT flag of an accumulator (R69). -/
def accumSat (x : Accum) : BitVec 16 :=
  match x with
  | .win w => if w.flags.getLsbD 0 then flagSat else 0
  | .f32 _ => 0

/-- The tensor and row scales of element (r, c) of a MATMUL (R63). -/
def matScales (s : State) (q : Req) (c : MatCmd) (b : MatBatch) (r k : Nat) : Got (List (BitVec 32)) :=
  match rowScale s q c.a b.va r, rowScale s q c.b b.vb k with
  | .ok x, .ok y => .ok [c.a.tscale, c.b.tscale, x, y]
  | .error e, _ => .error e
  | _, .error e => .error e

/-- The geometry of tile `t` of a MATMUL. With a length table the partial of batch row `r` goes to plane row `r` and not to
`OFFSET + r`: R131 does not say which, and this is the model's choice (log 116). -/
def matGeo (s : State) (q : Req) (c : MatCmd) (b : MatBatch) (t : TileId) : Geo :=
  let sh := tileShape c.mode c.tileB
  let r0 := t.i * sh.1
  let c0 := t.j * sh.2
  let m := min sh.1 (b.m - r0)
  let n := min sh.2 (b.n - c0)
  let k := c.a.cols
  let chunks := ceilDiv k (formatDepth c.a.format)
  let k0 := t.k * c.tileC
  let aChunk := fun (r pass col : Nat) => chunkOf s q c.a b.va b.m (r0 + r) k (k0 + pass) pass col
  let bChunk := fun (r pass col : Nat) => chunkOf s q c.b b.vb b.n (c0 + r) k (k0 + pass) pass col
  let aSpans := fun (r pass : Nat) => chunkSpans c.a b.va b.m (r0 + r) k (k0 + pass)
  let bSpans := fun (r pass : Nat) => chunkSpans c.b b.vb b.n (c0 + r) k (k0 + pass)
  { fl := if c.mode = 1 then c.b.format else c.a.format
    fb := if c.mode = 1 then c.a.format else c.b.format
    anchor := c.c.anchor
    outRes := c.mode == 2
    active := fun l =>
      if c.mode = 0 then decide (l < m) else if c.mode = 1 then decide (l < n)
      else decide (l / 16 < m) && decide (l % 16 < n)
    cols := if c.mode = 0 then n else if c.mode = 1 then m else 1
    passes := min c.tileC (chunks - k0)
    laneChunk := fun l pass => if c.mode = 1 then bChunk l pass 0 else aChunk (if c.mode = 0 then l else l / 16) pass 0
    colChunk := fun x pass =>
      if c.mode = 0 then bChunk x pass x else if c.mode = 1 then aChunk x pass x else bChunk x pass 1
    laneSpans := fun l pass => if c.mode = 1 then bSpans l pass else aSpans (if c.mode = 0 then l else l / 16) pass
    colSpans := fun x pass => if c.mode = 1 then aSpans x pass else bSpans x pass
    drain := fun u l x acc =>
      let rc := cellOf c.mode l x
      let cell := (r0 + rc.1, c0 + rc.2)
      match c.dp with
      | some d =>
        if matRanges c ≤ 1 then
          match matScales u q c b cell.1 cell.2 with
          | .error e => .error e
          | .ok sc => drainOut q c.c b.vc cell.1 cell.2 sc u acc
        else (writePartial u q d (t.batch * matRanges c + t.k) cell.1 cell.2 acc).map fun v => (v, accumSat acc)
      | none =>
        match matScales u q c b cell.1 cell.2 with
        | .error e => .error e
        | .ok sc => drainOut q c.c b.vc cell.1 cell.2 sc u acc }

/-- The lanes of an engine that are active for a tile. -/
def Geo.lanes (g : Geo) : List Nat := (List.range 256).filter g.active

/-- The broadcast column that a lane and a column use: in output-resident mode the lane's own (R100). -/
def Geo.colOf (g : Geo) (l x : Nat) : Nat := if g.outRes then l % 16 else x

/-- The dot product of a lane and column in one pass (R95), and the products it saturates (R61). -/
def Geo.dot (g : Geo) (l x pass : Nat) : Got Accum :=
  match g.laneChunk l pass, g.colChunk (g.colOf l x) pass with
  | .ok a, .ok b => .ok (dotOf g.fl g.fb g.anchor a b)
  | .error e, _ => .error e
  | _, .error e => .error e

/-- The saturated products of a chunk pair (R61). -/
def satCount (fa fb : Nat) (anchor : Int) (a b : Chunk) : Nat :=
  if anchoredFormat fa then
    ((List.range (min a.elements.length b.elements.length)).filter fun i =>
      (convertProduct anchor
        (numMul (numMul (formatNum fa (a.elements.getD i 0)) (chunkScale fa a i))
          (numMul (formatNum fb (b.elements.getD i 0)) (chunkScale fb b i)))).flags.getLsbD 0).length
  else 0

/-- The saturated products of a lane and column in one pass. -/
def Geo.sat (g : Geo) (l x pass : Nat) : Nat :=
  match g.laneChunk l pass, g.colChunk (g.colOf l x) pass with
  | .ok a, .ok b => satCount g.fl g.fb g.anchor a b
  | _, _ => 0

/-- An accumulator after all passes of a tile, in increasing K (R99, R113). -/
def Geo.acc (g : Geo) (l x : Nat) : Got (Option Accum) :=
  foldGot (fun o pass => (g.dot l x pass).map fun d => some (accumAdd o d)) none (List.range g.passes)

/-- Where a whole tile's operands are read, each chunk once a pass. -/
def Geo.reads (g : Geo) : List (Nat × Nat) :=
  (List.range g.passes).flatMap fun p =>
    (g.lanes.flatMap fun l => g.laneSpans l p).dedup ++
      ((if g.outRes then (g.lanes.map fun l => g.colOf l 0).dedup else List.range g.cols).flatMap fun x => g.colSpans x p)

/-- A whole tile: every active lane and column is summed and drained (R107, R114, R145). -/
def Geo.run (g : Geo) (s : State) : Got (State × BitVec 16) :=
  foldGot (fun st lx =>
    match g.acc lx.1 lx.2 with
    | .error e => .error e
    | .ok none => .ok st
    | .ok (some a) => (g.drain st.1 lx.1 lx.2 a).map fun r => (r.1, st.2 ||| r.2)) (s, 0)
    ((List.range g.cols).flatMap fun x => g.lanes.map fun l => (l, x))

/-- The saturated products of a whole tile. -/
def Geo.satAll (g : Geo) : Nat :=
  (((List.range g.cols).flatMap fun x => g.lanes.map fun l => (l, x)).map fun lx =>
    ((List.range g.passes).map fun p => g.sat lx.1 lx.2 p).sum).sum

/-! ### Combine steps and COMBINE (R65, R67 step 3, R150 to R152) -/

/-- The sum of planes `q0` to `q0 + n - 1` of a partial buffer at (r, c), in increasing plane. -/
def sumPlanes (s : State) (q : Req) (d : Desc) (q0 n r c : Nat) : Got (Option Accum) :=
  foldGot (fun o k => (readPartial s q d (q0 + k) r c).map fun x => some (accumAdd o x)) none (List.range n)

/-- The cells of output tile (i, j) of an m × n output. -/
def tileCells (sh : Nat × Nat) (m n i j : Nat) : List (Nat × Nat) :=
  (List.range (min sh.1 (m - i * sh.1))).flatMap fun r =>
    (List.range (min sh.2 (n - j * sh.2))).map fun c => (i * sh.1 + r, j * sh.2 + c)

/-- Where the partials of output tile (i, j) are read, `n` planes from `plane` on. -/
def tilePartials (d : Desc) (sh : Nat × Nat) (plane n rows cols i j : Nat) : List (Nat × Nat) :=
  partialSpans d plane n (i * sh.1) (min sh.1 (rows - i * sh.1)) (j * sh.2) (min sh.2 (cols - j * sh.2))

/-- R150: the combine step of output tile (batch, i, j) of a MATMUL with a K split. -/
def matCombine (s : State) (q : Req) (c : MatCmd) (b : MatBatch) (d : Desc) (t : TileId) : Got (State × BitVec 16) :=
  foldGot (fun st rc =>
    match sumPlanes st.1 q d (t.batch * matRanges c) (matRanges c) rc.1 rc.2, matScales st.1 q c b rc.1 rc.2 with
    | .ok (some x), .ok sc => (drainOut q c.c b.vc rc.1 rc.2 sc st.1 x).map fun r => (r.1, st.2 ||| r.2)
    | .ok none, .ok _ => .ok st
    | .error e, _ => .error e
    | _, .error e => .error e) (readsUse s q (tilePartials d (tileShape c.mode c.tileB) (t.batch * matRanges c) (matRanges c) b.m b.n t.i t.j), 0)
    (tileCells (tileShape c.mode c.tileB) b.m b.n t.i t.j)

/-- The fields of a COMBINE with its descriptors (R134). -/
structure CombineCmd where
  dp : Desc
  dc : Desc
  npart : Nat
  mode : Nat
  tileB : Nat
  deriving DecidableEq, Repr

/-- The COMBINE of a command word. -/
def combineCmd (s : State) (q : Req) (w : List Byte) : Got CombineCmd :=
  match descOf s q w (field w 0x18 2), descOf s q w (field w 0x1A 2) with
  | .ok dp, .ok dc => .ok { dp, dc, npart := field w 0x1C 2, mode := wMode w, tileB := field w 0x1E 1 }
  | .error e, _ => .error e
  | _, .error e => .error e

/-- The batches of a COMBINE: those of DC (R130, R152). -/
def combineTiles (c : CombineCmd) : List TileId :=
  let sh := tileShape c.mode c.tileB
  numberTiles (List.replicate c.dc.batch (ceilDiv c.dc.rows sh.1, ceilDiv c.dc.cols sh.2)) 1

/-- R152: one tile of COMBINE. A sum of the format of its output is written unrounded as a partial (log 18). -/
def combineTile (s : State) (q : Req) (c : CombineCmd) (t : TileId) : Got (State × BitVec 16) :=
  foldGot (fun st rc =>
    match sumPlanes st.1 q c.dp (t.batch * c.npart) c.npart rc.1 rc.2 with
    | .error e => .error e
    | .ok none => .ok st
    | .ok (some x) =>
      if c.dc.format = 6 ∨ (c.dp.format = 5 ∧ c.dc.format = 5) then
        (writePartial st.1 q c.dc t.batch rc.1 rc.2 x).map fun u => (u, st.2 ||| accumSat x)
      else
        let y := match x with
          | .win w => winOut (formatLayout c.dc.format) c.dp.anchor w [c.dp.tscale]
          | .f32 v => toCode (formatLayout c.dc.format) (f32Num v)
        (writeElem st.1 q c.dc ⟨t.batch, 0, 0⟩ rc.1 rc.2 y.1).map fun u => (u, st.2 ||| y.2))
    (readsUse s q (tilePartials c.dp (tileShape c.mode c.tileB) (t.batch * c.npart) c.npart c.dc.rows c.dc.cols t.i t.j), 0)
    (tileCells (tileShape c.mode c.tileB) c.dc.rows c.dc.cols t.i t.j)

end Sys2Proof.Machine
end

