-- ==== Sys2Proof/Machine/Reals.lean ====
section
/-! DEFINITION. The exact values of the row functions in fixed point, far finer than binary32, and the binary32 results that a bound
in ulp allows (03_arithmetic R70, R71, R90). -/

namespace Sys2Proof.Machine

/-! ### Fixed-point numbers: an integer n stands for n × 2^−400 -/

/-- 1.0. -/
def fxOne : Int := 2 ^ 400
def fxMul (a b : Int) : Int := a * b / 2 ^ 400
def fxDiv (a b : Int) : Int := a * 2 ^ 400 / b

/-- A finite number in fixed point; a binary32 number is exact there. -/
def fxOfNum : Num → Int
  | .fin n m e => if -400 ≤ e then signedMag n m * 2 ^ (e + 400).toNat else signedMag n m / 2 ^ (-400 - e).toNat
  | _ => 0

/-- The integer square root, bit by bit. -/
def isqrtGo : Nat → Nat → Nat → Nat
  | 0, _, r => r
  | k + 1, n, r => isqrtGo k n (if (r + 2 ^ k) * (r + 2 ^ k) ≤ n then r + 2 ^ k else r)

def isqrt (n : Nat) : Nat := isqrtGo (Nat.log2 n / 2 + 1) n 0

/-- The odd power series of z, z³ ÷ 3, … from term `k` on; the signs alternate for the arc tangent. -/
def oddSeries (alternate : Bool) (zz : Int) : Nat → Nat → Int → Int → Int
  | 0, _, _, acc => acc
  | f + 1, k, p, acc =>
    let q := p / (2 * k + 1 : Nat)
    oddSeries alternate zz f (k + 1) (fxMul p zz) (if alternate && k % 2 == 1 then acc - q else acc + q)

/-- artanh z for |z| at most 1 ÷ 3. -/
def fxArtanh (z : Int) : Int := oddSeries false (fxMul z z) 140 0 z 0
/-- arctan z for |z| at most 1 ÷ 5. -/
def fxArctan (z : Int) : Int := oddSeries true (fxMul z z) 100 0 z 0
def fxLn2 : Int := 2 * fxArtanh (fxOne / 3)
/-- π by the formula of Machin. -/
def fxPi : Int := 16 * fxArctan (fxOne / 5) - 4 * fxArctan (fxOne / 239)
/-- √(2 ÷ π). -/
def fxRoot2Pi : Int := isqrt (2 ^ 1201 / fxPi.toNat)

/-- The exponential series of `r` from term `n` on. -/
def expSeries (r : Int) : Nat → Nat → Int → Int → Int
  | 0, _, _, acc => acc
  | f + 1, n, t, acc => expSeries r f (n + 1) (fxMul t r / (n + 1 : Nat)) (acc + t)

/-- e^x for x at most 400; below −400 the value is 0 to this precision. -/
def fxExp (x : Int) : Int :=
  if x < -400 * fxOne then 0
  else
    let k := x / fxLn2
    let v := expSeries (x - k * fxLn2) 110 0 fxOne 0
    if 0 ≤ k then v * 2 ^ k.toNat else v / 2 ^ (-k).toNat

/-- ln x for x above 0. -/
def fxLn (x : Int) : Int :=
  let l : Int := (Nat.log2 x.toNat : Int) - 400
  let m := if 0 ≤ l then x / 2 ^ l.toNat else x * 2 ^ (-l).toNat
  2 * fxArtanh (fxDiv (m - fxOne) (m + fxOne)) + l * fxLn2

/-- 1 ÷ (1 + e^−w). -/
def fxSigmoid (w : Int) : Int :=
  if w < -300 * fxOne then 0 else if 300 * fxOne < w then fxOne else fxDiv fxOne (fxOne + fxExp (-w))

/-- The series x + x³ ÷ (1·3) + x⁵ ÷ (1·3·5) + … of the normal distribution. -/
def normalSeries (xx : Int) : Nat → Nat → Int → Int → Int
  | 0, _, _, acc => acc
  | f + 1, n, t, acc => normalSeries xx f (n + 1) (fxMul t xx / (2 * n + 3 : Nat)) (acc + t)

/-- The continued fraction t + 1 ÷ (t + 2 ÷ (t + 3 ÷ …)) of the normal tail, from the `n`-th denominator outward. -/
def tailFraction (t : Int) : Nat → Int → Int
  | 0, acc => acc
  | n + 1, acc => tailFraction t n (t + fxDiv ((n + 1 : Nat) * fxOne) acc)

/-- Φ(x), the normal distribution function, below −8 by the continued fraction of its tail; beyond ±20 it is 0 or 1 to this precision. -/
def fxPhi (x : Int) : Int :=
  if x < -20 * fxOne then 0
  else if 20 * fxOne < x then fxOne
  else if x < -8 * fxOne then fxDiv (fxMul (fxExp (-(fxMul x x / 2))) (fxRoot2Pi / 2)) (tailFraction (-x) 400 (-x))
  else
    let xx := fxMul x x
    fxOne / 2 + fxMul (fxMul (fxExp (-(xx / 2))) (fxRoot2Pi / 2)) (normalSeries xx 700 0 x 0)

/-- The exact value of a function (03_arithmetic R71) at a finite argument that is no special input, by its code of R138. -/
def fxFunction (func : Nat) (v : Num) : Int :=
  let x := fxOfNum v
  match func with
  | 1 => fxExp x
  | 2 => fxExp (fxMul (max x (-500 * fxOne)) fxLn2)
  | 3 => fxLn x
  | 4 => fxDiv fxOne x
  | 5 => match v with
    | .fin _ m e => if 0 ≤ e then (isqrt (2 ^ 800 / (m * 2 ^ e.toNat)) : Nat) else (isqrt (2 ^ (800 - e).toNat / m) : Nat)
    | _ => 0
  | 6 => fxMul x (fxPhi x)
  | 7 =>
    let y := max (-400 * fxOne) (min (400 * fxOne) x)
    fxMul x (fxSigmoid (2 * fxMul fxRoot2Pi (y + 44715 * fxMul (fxMul y y) y / 1000000)))
  | 8 => fxMul x (fxSigmoid x)
  | _ => if 300 * fxOne < x then x else fxLn (fxOne + fxExp x)

/-! ### Results within a bound -/

/-- The place of a binary32 code among all in rising order; the two zeros share one. -/
def f32Rank (c : BitVec 32) : Int := signedMag (c.getLsbD 31) (c.toNat % 2 ^ 31)

/-- The codes of a place. -/
def rankCodes (k : Int) : List (BitVec 32) :=
  if k < 0 then [BitVec.ofNat 32 (2 ^ 31 + k.natAbs)] else if k = 0 then [0, 0x80000000] else [BitVec.ofNat 32 k.toNat]

/-- One ulp of a value (R70): 2^(max(e, −126) − 23) with e = ⌊log₂|y|⌋. -/
def fxUlp (y : Int) : Int := 2 ^ (max ((Nat.log2 y.natAbs : Int) - 23) 251).toNat

/-- The binary32 code differs from the value by at most `n` ulp, to within 2^−240. -/
def withinUlp (n : Nat) (y : Int) (c : BitVec 32) : Bool :=
  match f32Num c with
  | .fin _ _ _ => decide ((fxOfNum (f32Num c) - y).natAbs ≤ (n * fxUlp y + 2 ^ 160).natAbs)
  | _ => false

/-- The value rounded to binary32, then every other finite code that differs from it by at most `n` ulp. -/
def ulpCodes (n : Nat) (y : Int) : List (BitVec 32) :=
  let b := numF32 (.fin (decide (y < 0)) y.natAbs (-400))
  b :: (((List.range (4 * n + 5)).flatMap fun (i : Nat) => rankCodes (f32Rank b + i - (2 * n + 2))).filter fun c =>
    c != b && withinUlp n y c)

/-- A result within `n` ulp of the value: which one, the free value `pick` says. -/
def boundedResult (n : Nat) (y : Int) (pick : BitVec 32) : BitVec 32 :=
  let l := ulpCodes n y
  l.getD (pick.toNat % l.length) 0

end Sys2Proof.Machine
end

