-- ==== Sys2Proof/Machine/Rows.lean ====
section
/-! DEFINITION. The row unit (03_arithmetic R70 to R90): its functions, normalization and soft maximum; NORM, ROWFN and
CHAIN over descriptors (05_macro R133, R135 to R138, R153 to R155, R479). -/

namespace Sys2Proof.Machine

/-! ### Functions (R71, R84, R90) -/

/-- The reloaded words of the core tables that a function uses (R84), by its code of R138. -/
def coreTables (func : Nat) : List Nat :=
  match func with
  | 1 => [0] | 2 => [0] | 3 => [1] | 4 => [2] | 5 => [3] | 6 => [4, 0] | 7 => [0, 1, 2] | 8 => [0, 1, 2] | 9 => [0, 1, 2]
  | _ => []

/-- A word of the factory tables; word 4i + 3 is zero (R84). -/
def factoryWordAt (table i : Nat) : BitVec 32 := if i % 4 = 3 then 0 else Config.factoryWord table i

/-- The words of the active bank that a function reads and that differ from the factory words (R73). -/
def bankWords (bank : Tab (BitVec 32)) (func : Nat) : List (Nat × BitVec 32) :=
  bank.filter fun w => (coreTables func).contains (w.1 / 2048) && w.2 != factoryWordAt (w.1 / 2048) (w.1 % 2048)

/-- x > 88.72283 (R71), for a finite x. -/
def aboveExpLimit (x : Num) : Bool :=
  match x with
  | .fin false m e => if e ≥ 0 then decide (8872283 < m * 2 ^ e.toNat * 100000) else decide (8872283 * 2 ^ (-e).toNat < m * 100000)
  | _ => false

/-- The integer that a finite number is, if it is one. -/
def numInt (x : Num) : Option Int :=
  match x with
  | .fin n m e =>
    if e ≥ 0 then some (signedMag n (m * 2 ^ e.toNat))
    else if m % 2 ^ (-e).toNat = 0 then some (signedMag n (m / 2 ^ (-e).toNat)) else none
  | _ => none

/-- The k with x = 2^(2k), if there is one: exactly then the reciprocal square root is representable. -/
def numEvenPower (x : Num) : Option Int :=
  match x with
  | .fin false m e =>
    let l := Nat.log2 m
    if m = 2 ^ l ∧ (e + l) % 2 = 0 then some ((e + l) / 2) else none
  | _ => none

/-- The special inputs of R71, by function code; none where the tables are used. -/
def specialInput (func : Nat) (x : Num) : Option (BitVec 32) :=
  match func, x with
  | _, .nan => some f32Nan
  | 1, .inf n => some (if n then 0 else f32PosInf)
  | 1, y => if aboveExpLimit y then some f32PosInf else none
  | 2, .inf n => some (if n then 0 else f32PosInf)
  | 2, y => if numLt y (numPow2 7) then none else some f32PosInf
  | 3, .inf n => some (if n then f32Nan else f32PosInf)
  | 3, .fin n m _ => if m = 0 then some f32NegInf else if n then some f32Nan else none
  | 4, .inf n => some (numF32 (.fin n 0 0))
  | 4, .fin n m _ => if m = 0 then some (numF32 (.inf n)) else none
  | 5, .inf n => some (if n then f32Nan else 0)
  | 5, .fin n m _ => if m = 0 then some (numF32 (.inf n)) else if n then some f32Nan else none
  | 6, .inf n => some (if n then 0x80000000 else f32PosInf)
  | 7, .inf n => some (if n then 0x80000000 else f32PosInf)
  | 8, .inf n => some (if n then 0x80000000 else f32PosInf)
  | 9, .inf n => some (if n then 0 else f32PosInf)
  | _, _ => none

/-- The results that R71, R80 and R174 fix for the factory tables: exp(±0) and arguments at most −2^125, exp2 of an
integer, log(1), the reciprocal, and exact reciprocal square roots. -/
def exactResult (func : Nat) (x : Num) : Option (BitVec 32) :=
  match func with
  | 1 => if numIsZero x then some f32One else none
  | 2 => match numInt x with
    | some k => if -149 ≤ k ∧ k ≤ 127 then some (numF32 (numPow2 k)) else none
    | none => none
  | 3 => if x = f32Num f32One then some 0 else none
  | 4 => match x with
    | .fin n m e => some (numF32 (ratioNum n 1 m (-e)))
    | _ => none
  | 5 => match numEvenPower x with
    | some k => some (numF32 (numPow2 (-k)))
    | none => none
  | _ => none

/-- An exponential's argument is at most −2^125: the result is exactly +0 (R80, R172). -/
def expVanishes (x : Num) : Bool := !numLt (f32Num scoreFloor) x && !numIsNan x

/-! ### Core tables (R84) -/

/-- A word of a core table of a bank. -/
def coreWord (bank : Tab (BitVec 32)) (table i : Nat) : BitVec 32 := tabGet (factoryWordAt table i) bank (table * 2048 + i)

/-- fma(p ÷ d, a, b) for a fraction, rounded once to binary32. -/
def fracFma (p d : Nat) (a b : BitVec 32) : BitVec 32 :=
  match f32Num a, f32Num b with
  | .fin n m e, .fin n' m' e' =>
    let q := min e e'
    let v := signedMag n (p * m) * 2 ^ (e - q).toNat + signedMag n' (d * m') * 2 ^ (e' - q).toNat
    numF32 (if v = 0 then .fin (n && n' && p * m == 0 && m' == 0) 0 0 else ratioNum (decide (v < 0)) v.natAbs d q)
  | _, _ => f32Fma (numF32 (if p = 0 then .fin false 0 0 else ratioNum false p d 0)) a b

/-- The core value of a table at r = p ÷ d in [0, 1): i = ⌊512r⌋, t = r − i ÷ 512, fma(t, fma(t, c2, c1), c0). -/
def coreValue (bank : Tab (BitVec 32)) (table p d : Nat) : BitVec 32 :=
  let i := 512 * p / d
  let t := 512 * p - i * d
  let c := fun k => coreWord bank table (4 * i + k)
  fracFma t (512 * d) (fracFma t (512 * d) (c 2) (c 1)) (c 0)

/-- The core table of a function of one core, and the reduced argument p ÷ d of a finite argument: exp2 x − ⌊x⌋; the logarithm and the
reciprocal the fraction of the significand; the reciprocal square root r with x = (1 + 3r) × 4^k. -/
def coreArgument (func : Nat) (v : Num) : Option (Nat × Nat × Nat) :=
  match func, v with
  | 2, .fin n m e =>
    let d : Nat := 2 ^ (-e).toNat
    some (0, ((signedMag n m * 2 ^ e.toNat) % (d : Int)).toNat, d)
  | 3, .fin _ m _ => some (1, m - 2 ^ Nat.log2 m, 2 ^ Nat.log2 m)
  | 4, .fin _ m _ => some (2, m - 2 ^ Nat.log2 m, 2 ^ Nat.log2 m)
  | 5, .fin _ m e =>
    let l : Nat := Nat.log2 m
    some (3, m * 2 ^ ((e + l) % 2).toNat - 2 ^ l, 3 * 2 ^ l)
  | _, _ => none

/-- exp2 from its core value: times 2^⌊x⌋. -/
def scaleExp2 (c : BitVec 32) (n : Bool) (m : Nat) (e : Int) : BitVec 32 :=
  numF32 (numMul (f32Num c) (numPow2 (max (-400) (signedMag n m * 2 ^ e.toNat / ((2 ^ (-e).toNat : Nat) : Int)))))

/-- The reciprocal square root from its core value: times 2^(−k). -/
def scaleRsqrt (c : BitVec 32) (m : Nat) (e : Int) : BitVec 32 := numF32 (numMul (f32Num c) (numPow2 (-((e + Nat.log2 m) / 2))))

/-- The words of the active bank that a function reads for an argument and that differ from the factory words (R73): those of the selected
segment where the function has one core, all those of its tables otherwise. -/
def segmentWords (bank : Tab (BitVec 32)) (func : Nat) (v : Num) : List (Nat × BitVec 32) :=
  match coreArgument func v with
  | some a => (bankWords bank func).filter fun w => w.1 / 2048 == a.1 && w.1 % 2048 / 4 == 512 * a.2.1 / a.2.2
  | none => bankWords bank func

/-- A function with reloaded words `ws`: exp2 and the reciprocal square root from their cores. What the logarithm and the reciprocal make of
their core value, and the other functions of their words, is open (log 7). -/
def reloadedFn (bank : Tab (BitVec 32)) (ws : List (Nat × BitVec 32)) (func : Nat) (x : BitVec 32) : BitVec 32 :=
  match coreArgument func (f32Num x), f32Num x with
  | some a, .fin n m e =>
    let c := coreValue bank a.1 a.2.1 a.2.2
    if func = 2 then scaleExp2 c n m e
    else if func = 5 then scaleRsqrt c m e
    else f32Canon (Config.rowFunction (0x100 + func) [(a.1, c)] x)
  | _, _ => f32Canon (Config.rowFunction func ws x)

/-- The bound of R71 in ulp. -/
def nativeUlps (func : Nat) : Nat := if func ≤ 5 then 1 else 2

/-- A native function (R70, R71, R84; log 7): with the factory tables a result within the bound of R71. -/
def nativeFn (bank : Tab (BitVec 32)) (func : Nat) (x : BitVec 32) : BitVec 32 :=
  let v := f32Num x
  let ws := segmentWords bank func v
  match specialInput func v with
  | some r => r
  | none =>
    if func = 1 ∧ expVanishes v then 0
    else if ws = [] then
      match exactResult func v with
      | some r => r
      | none => boundedResult (nativeUlps func) (fxFunction func v) (Config.rowFunction func ws x)
    else f32Canon (reloadedFn bank ws func x)

/-- A subnormal input is taken as a zero of its sign (R90). -/
def flushIn (x : BitVec 32) : BitVec 32 := if bits x.toNat 30 23 = 0 then x &&& 0x80000000 else x

/-- A result below 2^−126 is flushed to a zero of its sign; of exp to +0 (R90). -/
def flushOut (func : Nat) (x : BitVec 32) : BitVec 32 := if func = 1 ∧ bits x.toNat 30 23 = 0 then 0 else flushIn x

/-- The bound of R90 in ulp: exp 2, reciprocal 1, both GELU forms 4. -/
def compatUlps (func : Nat) : Nat := if func = 1 then 2 else if func = 4 then 1 else 4

/-- A function in EVQ-12 compatibility mode (R89, R90). Its special inputs give the results of R71; the reciprocal square root of layer
normalization has no bound and keeps subnormals: the model's readings (log 8). -/
def compatFn (func : Nat) (x : BitVec 32) : BitVec 32 :=
  let y := if func = 1 ∨ func = 5 then x else flushIn x
  let v := f32Num y
  match specialInput func v with
  | some r => r
  | none =>
    if func = 5 then f32Canon (Config.evqFunction func y)
    else
      let r := boundedResult (compatUlps func) (fxFunction func v) (Config.evqFunction func y)
      if func = 1 ∨ func = 4 then flushOut func r else r

/-- A function in the mode of its command: compatibility mode has its own exp, reciprocal, reciprocal square root (inside
layer normalization) and GELU forms (R89). -/
def rowFn (bank : Tab (BitVec 32)) (compat : Bool) (func : Nat) (x : BitVec 32) : BitVec 32 :=
  if compat && [1, 4, 5, 6, 7].contains func then compatFn func x else nativeFn bank func x

/-- exp in the mode of a command. -/
def rowExp (bank : Tab (BitVec 32)) (compat : Bool) (x : BitVec 32) : BitVec 32 := rowFn bank compat 1 x

/-! ### Sums and maxima (R71, R72, R479) -/

/-- R72: the row sum. -/
def rowSum (xs : List (BitVec 32)) : BitVec 32 := xs.foldl f32Add 0
/-- R72: the row sum of squares. -/
def rowSumSquares (xs : List (BitVec 32)) : BitVec 32 := xs.foldl (fun a x => f32Fma x x a) 0
/-- R71: the row maximum; the mask fill when nothing is left (R479). -/
def rowMax : List (BitVec 32) → BitVec 32
  | [] => maskFill
  | x :: r => r.foldl f32Max (f32Canon x)

/-- What a row gives: outputs, log-sum-exp, row status, and scores raised to the floor. -/
structure RowOut where
  ys : List (BitVec 32)
  lse : BitVec 32 := 0
  status : BitVec 16 := 0
  floors : Nat := 0
  /-- the scores of a soft maximum as the score store holds them (05_macro R155) -/
  scores : List (BitVec 32) := []
  deriving DecidableEq, Repr

/-! ### Soft maximum (R78, R80 to R82) -/

/-- A position of the soft maximum: none for a masked one, otherwise its score after the floor, and whether it was raised. -/
def softScore (c : BitVec 32) (masked : Bool) (x : BitVec 32) : Option (BitVec 32 × Bool) :=
  if masked then none
  else
    let s := f32Mul x c
    if f32Lt s scoreFloor then some (scoreFloor, true) else some (s, false)

/-- An unmasked score that makes the row NaN (R81). -/
def badScore (s : BitVec 32) : Bool := f32IsNan s || s == f32PosInf

/-- R80 pass one over the unmasked scores: m and l. -/
def softPass (ex : BitVec 32 → BitVec 32) (ss : List (BitVec 32)) : BitVec 32 × BitVec 32 :=
  ss.foldl (fun ml s =>
    let ml := if f32Lt ml.1 s then (s, f32Mul ml.2 (ex (f32Sub ml.1 s))) else ml
    (ml.1, f32Add ml.2 (ex (f32Sub s ml.1)))) (maskFill, 0)

/-- R80 to R82: the soft maximum of a row of (masked, x). Under COMPAT reloads have no effect (R90), on the logarithm neither. -/
def softMax (bank : Tab (BitVec 32)) (compat : Bool) (c : BitVec 32) (row : List (Bool × BitVec 32)) : RowOut :=
  let ss := row.map fun x => softScore c x.1 x.2
  let live := ss.filterMap id
  let floors := (live.filter fun p => p.2).length
  let fl : BitVec 16 := if floors = 0 then 0 else rowFloor
  let scores := ss.map fun o => match o with | none => maskFill | some p => p.1
  if live = [] then { ys := row.map fun _ => 0, lse := f32NegInf, status := rowEmpty, scores }
  else if live.any fun p => badScore p.1 then
    { ys := row.map fun _ => f32Nan, lse := f32Nan, status := rowNan ||| fl, floors, scores }
  else
    let ml := softPass (rowExp bank compat) (live.map Prod.fst)
    let q := rowFn bank compat 4 ml.2
    { ys := ss.map fun o => match o with
        | none => f32Mul (rowExp bank compat (f32Sub maskFill ml.1)) q
        | some p => f32Mul (rowExp bank compat (f32Sub p.1 ml.1)) q
      lse := f32Add ml.1 (nativeFn (if compat then [] else bank) 3 ml.2), status := fl, floors, scores }

/-! ### Normalization (R74 to R77, R90) -/

/-- Whether any element is NaN or infinite. -/
def anySpecial (xs : List (BitVec 32)) : Bool := xs.any fun x => bits x.toNat 30 23 == 255

/-- A row of outputs that are all NaN sets NAN_ROW (R83). -/
def nanRowBit (ys : List (BitVec 32)) : BitVec 16 := if ys ≠ [] ∧ ys.all f32IsNan then rowNan else 0

/-- v < 0. -/
def f32Neg (v : BitVec 32) : Bool := f32Lt v 0

/-- r of R76: +0 and DEGEN for a zero, the reciprocal square root otherwise. -/
def rsqrtOrDegen (bank : Tab (BitVec 32)) (t : BitVec 32) : BitVec 32 × BitVec 16 :=
  if numIsZero (f32Num t) then (0, rowDegen) else (nativeFn bank 5 t, 0)

/-- The outputs of a layer-normalized row. -/
def normOut (mean r : BitVec 32) (xs gs bs : List (BitVec 32)) : List (BitVec 32) :=
  xs.zipIdx.map fun xi => f32Fma (f32Mul (f32Sub xi.1 mean) r) (gs.getD xi.2 0) (bs.getD xi.2 0)

/-- R76: every output of a degenerate row is its β (log 98). -/
def degenOut (xs bs : List (BitVec 32)) : List (BitVec 32) := xs.zipIdx.map fun xi => bs.getD xi.2 0

/-- R77, R76: a degenerate row of RMS normalization, which has no β: x × r × γ with r = +0, and a zero too where γ is a NaN or an infinity
(log 98). -/
def degenRms (xs gs : List (BitVec 32)) : List (BitVec 32) :=
  xs.zipIdx.map fun xi =>
    let g := gs.getD xi.2 0
    if bits g.toNat 30 23 = 255 then f32Mul xi.1 0 else f32Mul (f32Mul xi.1 0) g

/-- R74 to R76: native layer normalization. The reciprocal of n is that of n rounded to binary32, which differs from n only above 2^24:
the model's choice (log 99). -/
def layerNorm (bank : Tab (BitVec 32)) (eps : BitVec 32) (xs gs bs : List (BitVec 32)) : RowOut :=
  let x0 := xs.headD 0
  let n := nativeFn bank 4 (f32OfNat xs.length)
  let ds := xs.map fun x => f32Sub x x0
  let mu := f32Mul (rowSum ds) n
  let v := f32Sub (f32Mul (rowSumSquares ds) n) (f32Mul mu mu)
  let cl := f32Neg v
  let v := if cl then 0 else v
  let r := rsqrtOrDegen bank (f32Add v eps)
  let ys := if r.2 = 0 then normOut (f32Add x0 mu) r.1 xs gs bs else degenOut xs bs
  { ys, status := (if cl then rowClamp else 0) ||| r.2 ||| nanRowBit ys }

/-- R90: layer normalization in compatibility mode. -/
def layerNormCompat (eps : BitVec 32) (xs gs bs : List (BitVec 32)) : RowOut :=
  let n := compatFn 4 (f32OfNat xs.length)
  let mean := f32Mul (rowSum xs) n
  let v := f32Sub (f32Mul (xs.foldl (fun a x => f32Add a (f32Mul x x)) 0) n) (f32Mul mean mean)
  let ys := normOut mean (compatFn 5 (f32Add v eps)) xs gs bs
  { ys, status := (if f32Neg v then rowNegVar else 0) ||| nanRowBit ys }

/-- R77: RMS normalization. -/
def rmsNorm (bank : Tab (BitVec 32)) (eps : BitVec 32) (xs gs : List (BitVec 32)) : RowOut :=
  let n := nativeFn bank 4 (f32OfNat xs.length)
  let r := rsqrtOrDegen bank (f32Add (f32Mul (rowSumSquares xs) n) eps)
  if anySpecial xs then { ys := xs.map fun _ => f32Nan, status := rowNan }
  else
    let ys := if r.2 = 0 then xs.zipIdx.map fun xi => f32Mul (f32Mul xi.1 r.1) (gs.getD xi.2 0) else degenRms xs gs
    { ys, status := r.2 ||| nanRowBit ys }

/-- NORM on one row (R135). A NaN or an infinity in the row makes the whole native row NaN (R77). -/
def normRow (bank : Tab (BitVec 32)) (compat layer : Bool) (eps : BitVec 32) (xs gs bs : List (BitVec 32)) : RowOut :=
  if !layer then rmsNorm bank eps xs gs
  else if compat then layerNormCompat eps xs gs bs
  else if anySpecial xs then { ys := xs.map fun _ => f32Nan, status := rowNan }
  else layerNorm bank eps xs gs bs

/-- R138, R479: a row function on a row of (masked, x). -/
def applyRowFn (bank : Tab (BitVec 32)) (compat : Bool) (func : Nat) (param : BitVec 32) (row : List (Bool × BitVec 32)) :
    RowOut :=
  let live := (row.filter fun x => !x.1).map fun x => f32Mul x.2 param
  if func = 0x10 then softMax bank compat param row
  else if func = 0x11 then { ys := [rowMax live] }
  else if func = 0x12 then { ys := [rowSum live] }
  else if func = 0x13 then { ys := [rowSumSquares live] }
  else
    { ys := row.map fun x =>
        if x.1 then 0
        else if func = 0 then f32Mul x.2 param else rowFn bank compat func (f32Mul x.2 param) }

/-! ### Rows in memory -/

/-- The row of an FP32 or BF16 matrix as binary32 values. -/
def rowValues (s : State) (q : Req) (d : Desc) (v : View) (r : Nat) : Got (List (BitVec 32)) :=
  (rowCodes s q d v r 0 d.cols).map fun cs => cs.map fun c => numF32 (formatNum d.format c)

/-- R79: the mask bits of a row; none masked without a mask. -/
def rowMask (s : State) (q : Req) (d : Option Desc) (p r n : Nat) : Got (List Bool) :=
  match d with
  | none => .ok (List.replicate n false)
  | some m =>
    (uRead s q (elemAddr m (operandView m p) r 0) (ceilDiv n 8)).map fun bs =>
      (List.range n).map fun j => (bs.getD (j / 8) 0).getLsbD (j % 8)

/-- Outputs rounded into row `r` of a matrix, with their flags: those of the final rounding alone, not of the binary32 operations before
it (log 100). -/
def writeRow (s : State) (q : Req) (d : Desc) (v : View) (r : Nat) (ys : List (BitVec 32)) : Got (State × BitVec 16) :=
  foldGot (fun st yi =>
    let y := toCode (formatLayout d.format) (f32Num yi.1)
    (writeElem st.1 q d v r yi.2 y.1).map fun t => (t, st.2 ||| y.2)) (s, 0) ys.zipIdx

/-- The EC counters of a row's status (16_counters). -/
def countRow (s : State) (e : Nat) (o : RowOut) : State :=
  let s := if o.status.getLsbD 1 then bumpEc s e cntVarClamp else s
  let s := if o.status.getLsbD 5 then bumpEc s e cntNegVar else s
  let s := if o.status.getLsbD 0 then bumpEc s e cntEmptyRow else s
  if o.floors = 0 then s else bumpEcBy s e cntFloor o.floors

/-! ### NORM and ROWFN (R135 to R137, R155) -/

/-- A row command with its descriptors. -/
structure RowCmd where
  norm : Bool
  dx : Desc
  dy : Desc
  /-- γ and β of NORM -/
  dg : Option Desc
  dbeta : Option Desc
  /-- mask and log-sum-exp of ROWFN -/
  dmask : Option Desc
  daux : Option Desc
  func : Nat
  /-- EPS or FPARAM -/
  param : BitVec 32
  stat : Nat
  compat : Bool
  deriving DecidableEq, Repr

/-- The NORM or ROWFN of a command word. -/
def rowCmd (s : State) (q : Req) (w : List Byte) : Got RowCmd :=
  let norm := wOpcode w == 4
  match descOf s q w (field w 0x18 2), descOf s q w (field w 0x1A 2), optDesc s q w (field w 0x1C 2),
    optDesc s q w (field w 0x1E 2) with
  | .ok dx, .ok dy, .ok d1, .ok d2 =>
    .ok { norm, dx, dy, dg := if norm then d1 else none, dbeta := if norm then d2 else none,
          dmask := if norm then none else d1, daux := if norm then none else d2, func := field w 0x20 1,
          param := BitVec.ofNat 32 (field w 0x24 4), stat := field w 0x28 8 % 2 ^ 48, compat := wCompat w }
  | .error e, _, _, _ => .error e
  | _, .error e, _, _ => .error e
  | _, _, .error e, _ => .error e
  | _, _, _, .error e => .error e

/-- The row tiles of NORM and ROWFN (R142). -/
def rowTiles (c : RowCmd) : List TileId := numberRowTiles (List.replicate c.dy.batch c.dx.rows)

/-- A row vector of a descriptor, or no values without one. -/
def optRow (s : State) (q : Req) (d : Option Desc) (p : Nat) : Got (List (BitVec 32)) :=
  match d with
  | none => .ok []
  | some x => rowValues s q x (operandView x p) 0

/-- What the row unit forms for row `r` of batch `p`. -/
def rowResult (s : State) (q : Req) (bank : Tab (BitVec 32)) (c : RowCmd) (p r : Nat) : Got RowOut :=
  match rowValues s q c.dx (operandView c.dx p) r, optRow s q c.dg p, optRow s q c.dbeta p, rowMask s q c.dmask p r c.dx.cols with
  | .ok xs, .ok gs, .ok bs, .ok ms =>
    .ok (if c.norm then normRow bank c.compat (c.func == 0x20) c.param xs gs bs
         else applyRowFn bank c.compat c.func c.param (ms.zip xs))
  | .error e, _, _, _ => .error e
  | _, .error e, _, _ => .error e
  | _, _, .error e, _ => .error e
  | _, _, _, .error e => .error e

/-- Whether a row command writes row status words: NORM and the soft maximum (R83, R135, R136, R479). -/
def RowCmd.hasStatus (c : RowCmd) : Bool := c.norm || c.func == 0x10

/-- The scores of row `i` in the score store (06_attend R168). -/
def putScores (s : State) (e i : Nat) (xs : List (BitVec 32)) : State :=
  if xs = [] then s else store s (scoreAddr e i 0) (xs.flatMap fun x => natLe 4 x.toNat)

/-- One row: the scores of a soft maximum go to the score store (R155); outputs, log-sum-exp and status are written. The log-sum-exp is no output
element for NAN and INF: the model's choice (log 100). -/
def rowRun (s : State) (q : Req) (bank : Tab (BitVec 32)) (e : Nat) (c : RowCmd) (p r : Nat) : Got (State × BitVec 16) :=
  match rowResult s q bank c p r with
  | .error x => .error x
  | .ok o =>
    match writeRow (putScores (countRow (readsUse s q (operandRow c.dx (operandView c.dx p) r)) e o) e (r % 256) o.scores) q c.dy ⟨p, 0, 0⟩ r o.ys with
    | .error x => .error x
    | .ok t =>
      let lse : Got State := match c.daux with
        | some d => if c.func = 0x10 then writeElem t.1 q d ⟨p, 0, 0⟩ r 0 o.lse.toNat else .ok t.1
        | none => .ok t.1
      match lse with
      | .error x => .error x
      | .ok u =>
        let st : Got State :=
          if c.hasStatus ∧ c.stat ≠ 0 then uWriteNat u q (c.stat + 2 * (p * c.dx.rows + r)) 2 o.status.toNat else .ok u
        st.map fun v => (v, t.2 ||| (if c.hasStatus then rowFlags o.status else 0))

/-- A row tile of NORM or ROWFN on EC `e` (R155, R87). -/
def rowTileRun (s : State) (q : Req) (bank : Tab (BitVec 32)) (e : Nat) (c : RowCmd) (t : TileId) : Got (State × BitVec 16) :=
  foldGot (fun st r => (rowRun st.1 q bank e c t.batch r).map fun x => (x.1, st.2 ||| x.2)) (s, 0)
    ((List.range (min 256 (c.dx.rows - t.i * 256))).map fun r => t.i * 256 + r)

/-! ### CHAIN (R133, R153, R154) -/

/-- A CHAIN with its descriptors. -/
structure ChainCmd where
  a : Desc
  b : Desc
  d : Desc
  y : Desc
  dmask : Option Desc
  tileB : Nat
  xfmt : Nat
  func : Nat
  param : BitVec 32
  anchor1 : Int
  xls : Nat
  ltab : Nat
  compat : Bool
  deriving DecidableEq, Repr

/-- The CHAIN of a command word. -/
def chainCmd (s : State) (q : Req) (w : List Byte) : Got ChainCmd :=
  match descOf s q w (field w 0x18 2), descOf s q w (field w 0x1A 2), descOf s q w (field w 0x1C 2),
    descOf s q w (field w 0x1E 2), optDesc s q w (field w 0x2A 2) with
  | .ok a, .ok b, .ok d, .ok y, .ok dmask =>
    .ok { a, b, d, y, dmask, tileB := field w 0x20 1, xfmt := field w 0x21 1, func := field w 0x23 1,
          param := BitVec.ofNat 32 (field w 0x24 4), anchor1 := (BitVec.ofNat 16 (field w 0x28 2)).toInt,
          xls := field w 0x2C 4, ltab := field w 0x30 8 % 2 ^ 48, compat := wCompat w }
  | .error e, _, _, _, _ => .error e
  | _, .error e, _, _, _ => .error e
  | _, _, .error e, _, _ => .error e
  | _, _, _, .error e, _ => .error e
  | _, _, _, _, .error e => .error e

/-- Live rows of batch `p` of a CHAIN with its views of A and Y (R133, R143). -/
def chainBatch (s : State) (q : Req) (c : ChainCmd) (p : Nat) : Got (Nat × View × View) :=
  if c.ltab = 0 then .ok (c.a.rows, operandView c.a p, ⟨p, 0, 0⟩)
  else (lengthEntry s q c.ltab p).map fun e => (e.1, ⟨0, e.2, 0⟩, ⟨0, e.2, 0⟩)

/-- The row blocks of a CHAIN (R142). -/
def chainTiles (s : State) (q : Req) (c : ChainCmd) : Got (List TileId) :=
  (mapGot (fun p => (chainBatch s q c p).map fun b => b.1) (List.range c.y.batch)).map numberRowTiles

/-- The dot product of two rows over all their depth chunks (R99). -/
def rowDot (fa fb : Nat) (anchor : Int) (as bs : List Chunk) : Accum :=
  ((as.zip bs).foldl (fun o ab => some (accumAdd o (dotOf fa fb anchor ab.1 ab.2))) none).getD
    (if anchoredFormat fa then .win {} else .f32 0)

/-- The dot product of two rows over all their depth chunks, with the number of its products that saturate (R61, R69, R99). -/
def rowDotSat (fa fb : Nat) (anchor : Int) (as bs : List Chunk) : Accum × Nat :=
  if anchoredFormat fa then
    let x := (as.zip bs).foldl (fun (o : Win × Nat) ab =>
      let d := dotWinSat fa fb anchor ab.1 ab.2
      (winAdd o.1 d.1, o.2 + d.2)) ({}, 0)
    (.win x.1, x.2)
  else (rowDot fa fb anchor as bs, 0)

/-- The saturated products of an instruction's tile count in ME_SAT_CNT of its EC (R69). -/
def countSat (s : State) (e n : Nat) : State := if n = 0 then s else bumpEcBy s e cntSat n

/-- All depth chunks of row `r` of an operand of `k` columns. -/
def rowChunks (s : State) (q : Req) (d : Desc) (v : View) (rows r k : Nat) : Got (List Chunk) :=
  mapGot (fun kc => chunkOf s q d v rows r k kc kc 0) (List.range (ceilDiv k (formatDepth d.format)))

/-- Element codes of one format cut into depth chunks without block scales. -/
def codeChunks (fmt : Nat) (codes : List Nat) : List Chunk :=
  let d := formatDepth fmt
  (List.range (ceilDiv codes.length d)).map fun k => { pass := k, column := 0, elements := (codes.drop (k * d)).take d, scales := [] }

/-- Phase 1 of a row block: row `r` of the first product, in binary32 (R153), the flags of its roundings, and its saturated products. -/
def chainScores (s : State) (q : Req) (c : ChainCmd) (p r m : Nat) (va : View) : Got (List (BitVec 32) × BitVec 16 × Nat) :=
  match rowChunks s q c.a va m r c.a.cols, rowScale s q c.a va r with
  | .error e, _ => .error e
  | _, .error e => .error e
  | .ok as, .ok ra =>
    foldGot (fun st n =>
      let vb := operandView c.b p
      match rowChunks s q c.b vb c.b.rows n c.a.cols, rowScale s q c.b vb n with
      | .error e, _ => .error e
      | _, .error e => .error e
      | .ok bs, .ok rb =>
        let x := rowDotSat c.a.format c.b.format c.anchor1 as bs
        let y := accumOut 5 c.anchor1 [c.a.tscale, c.b.tscale, ra, rb] x.1
        .ok (st.1 ++ [BitVec.ofNat 32 y.1], st.2.1 ||| innerFlags y.2, st.2.2 + x.2))
      ([], 0, 0) (List.range c.b.rows)

/-- Phase 2: the row function and the rounding to XFMT (R153), with the flags of both (log 19). -/
def chainRow (bank : Tab (BitVec 32)) (c : ChainCmd) (mask : List Bool) (scores : List (BitVec 32)) : RowOut × List Nat × BitVec 16 :=
  let o := applyRowFn bank c.compat c.func c.param (mask.zip scores)
  let xs := o.ys.map fun y => toCode (formatLayout c.xfmt) (f32Num y)
  (o, xs.map Prod.fst, xs.foldl (fun f x => f ||| innerFlags x.2) (if c.func = 0x10 then rowFlags o.status else 0))

/-- Phase 3: element (r, n) of Y from the codes of X and row n of D (R153). -/
def chainOut (s : State) (q : Req) (c : ChainCmd) (p n : Nat) (xs : List Nat) : Got (Accum × Nat) :=
  (rowChunks s q c.d (operandView c.d p) c.d.rows n c.d.cols).map fun ds =>
    rowDotSat c.xfmt c.d.format c.y.anchor (codeChunks c.xfmt xs) ds

/-- The scales of Y: the tensor scale of D, and its row scale (R63; X carries none). -/
def chainScales (s : State) (q : Req) (c : ChainCmd) (p n : Nat) : Got (List (BitVec 32)) :=
  (rowScale s q c.d (operandView c.d p) n).map fun x => [c.d.tscale, x]

/-- One row of a CHAIN from A to Y. -/
def chainRun (s : State) (q : Req) (bank : Tab (BitVec 32)) (e : Nat) (c : ChainCmd) (p r m : Nat) (va vy : View) :
    Got (State × BitVec 16) :=
  match chainScores s q c p r m va, rowMask s q c.dmask p r c.b.rows with
  | .error x, _ => .error x
  | _, .error x => .error x
  | .ok sc, .ok mask =>
    let x := chainRow bank c mask sc.1
    foldGot (fun st n =>
      match chainOut st.1 q c p n x.2.1, chainScales st.1 q c p n with
      | .error z, _ => .error z
      | _, .error z => .error z
      | .ok acc, .ok scl => (drainOut q c.y vy r n scl (countSat st.1 e acc.2) acc.1).map fun u => (u.1, st.2 ||| u.2))
      (countRow (countSat s e sc.2.2) e x.1, sc.2.1 ||| x.2.2) (List.range c.d.rows)

/-- One row block of a CHAIN on EC `e`. -/
def chainTileRun (s : State) (q : Req) (e : Nat) (c : ChainCmd) (t : TileId) : Got (State × BitVec 16) :=
  match chainBatch s q c t.batch with
  | .error x => .error x
  | .ok b =>
    foldGot (fun st r =>
      (chainRun st.1 q (s.ecAt e).rowUnit.active e c t.batch r b.1 b.2.1 b.2.2).map fun u => (u.1, st.2 ||| u.2)) (s, 0)
      ((List.range (min 256 (b.1 - t.i * 256))).map fun r => t.i * 256 + r)

end Sys2Proof.Machine
end

