-- ==== Sys2Proof/Machine/Bales.lean ====
section
/-! DEFINITION. Bale tables: view roots, the walker and its look-aside buffer, pools, summaries, prefix nodes (07_kv R196
to R215, R219 to R229). -/

namespace Sys2Proof.Machine

/-! ### Codes of the key/value store (R229; 12_partitions) -/

def codeInvalidMacro : Code := 0x2001
def codeMissingBale : Code := 0x2009
def codePoolEmpty : Code := 0x200A
def codeSharedBale : Code := 0x200B

/-- A condition of the store that is no memory fault: it carries a code of class 2 or 7 and no address. -/
def softFault {α : Type} (c : Code) : Got α := .error (c, 0)

/-- A requirement, or the code of its failure. -/
def require (b : Bool) (c : Code) : Got Unit := if b then .ok () else softFault c

/-! ### View roots and table headers (R204, R205) -/

/-- A view with the header of its table. -/
structure KvTable where
  dir : Nat
  chain0 : Nat
  ngrp : Nat
  sfmt : Nat
  latent : Bool
  dqk : Nat
  dv : Nat
  dl : Nat
  xfmt : Nat
  kscale : BitVec 32
  vscale : BitVec 32
  proj : Nat
  ak : Int
  av : Int
  upk : Desc
  upv : Desc
  nseq : Nat
  nchain : Nat
  nsegmax : Nat
  baleBytes : Nat
  dsum : Nat
  pstore : Nat
  deriving DecidableEq, Repr

/-- R209: the view root and the table header, 0x100 bytes each. -/
def readView (s : State) (q : Req) (root : Nat) : Got (List Byte) := do
  let v ← uRead s q root 0x100
  let h ← uRead s q (field v 0 8 % 2 ^ 48) 0x100
  return v ++ h

/-- R209: the view root and table header that a command names: as it read them when it started, or from memory before that. -/
def viewBytes (s : State) (q : Req) (root : Nat) : Got (List Byte) :=
  match q.view with
  | some x => if x.1 = root then pure x.2 else readView s q root
  | none => readView s q root

/-- R209: the view that a command names. -/
def kvTable (s : State) (q : Req) (root : Nat) : Got KvTable := do
  let b ← viewBytes s q root
  let v := b.take 0x100
  let h := b.drop 0x100
  return { dir := field v 0 8 % 2 ^ 48, chain0 := field v 8 4, ngrp := field v 0x0C 2, sfmt := field v 0x0E 1, latent := bit (field v 0x0F 1) 0,
           dqk := field v 0x10 2, dv := field v 0x12 2, dl := field v 0x14 2, xfmt := field v 0x16 1,
           kscale := BitVec.ofNat 32 (field v 0x18 4), vscale := BitVec.ofNat 32 (field v 0x1C 4),
           proj := field v 0x20 8 % 2 ^ 48, ak := (BitVec.ofNat 16 (field v 0x28 2)).toInt,
           av := (BitVec.ofNat 16 (field v 0x2A 2)).toInt, upk := Desc.ofBytes ((v.drop 0x40).take 64),
           upv := Desc.ofBytes ((v.drop 0x80).take 64), nseq := field h 0 4, nchain := field h 4 2, nsegmax := field h 6 1,
           baleBytes := field h 8 4, dsum := field h 0x10 2, pstore := field h 0xE0 8 % 2 ^ 48 }

/-- The address of the view root that a command names (R204; 06_attend R161; 08_dragoman R261). -/
def viewRootOf (s : State) (q : Req) (w : List Byte) : Got (Option Nat) :=
  let viaRecord := fun (o : Nat) => (uReadNat s q (wDtab w % 2 ^ 48 + 64 * field w o 2) 8).map fun a => some (a % 2 ^ 48)
  match wOpcode w with
  | 0x06 => .ok (some (field w 0x18 8 % 2 ^ 48))
  | 0x08 => viaRecord 0x1E
  | 0x09 => viaRecord 0x1E
  | 0x0A => .ok (some (field w 0x20 8 % 2 ^ 48))
  | 0x0B => .ok (some (field w 0x20 8 % 2 ^ 48))
  | 0x19 => viaRecord 0x1A
  | _ => .ok none

/-- R209: the view root and the table header that a command reads once, when it starts. -/
def viewAtStart (s : State) (q : Req) (w : List Byte) : Got (Option (Nat × List Byte)) := do
  let a ← viewRootOf s q w
  match a with
  | none => return none
  | some a =>
    let b ← readView s q a
    return some (a, b)

/-- SREC of R200. -/
def KvTable.srec (t : KvTable) : Nat := 64 * ceilDiv (64 + 2 * t.dsum) 64
/-- CSTRIDE of R207. -/
def KvTable.cstride (t : KvTable) : Nat := 64 * ceilDiv (64 + 8 * t.nsegmax) 64
/-- Pool records of the header (R205). -/
def KvTable.poolH (t : KvTable) : Nat := t.dir + 0x20
def KvTable.poolL (t : KvTable) : Nat := t.dir + 0x60
def KvTable.poolS (t : KvTable) : Nat := t.dir + 0xA0
/-- Width of the stored key (or latent) and value rows in bytes, and where the values begin (R198). -/
def KvTable.keyBytes (t : KvTable) : Nat := (if t.latent then t.dl else t.dqk) * (formatBits (t.sfmt % 16) / 8)
def KvTable.valueBytes (t : KvTable) : Nat := if t.latent then 0 else t.dv * (formatBits (t.sfmt / 16) / 8)
def KvTable.valueBase (t : KvTable) : Nat := 128 * t.keyBytes
/-- Tokens that a chain holds at most (R205). -/
def KvTable.capacity (t : KvTable) : Nat := t.nsegmax * 524288

/-! ### The walker (R209 to R213) -/

/-- The CDIR of sequence `p`, or a missing bale (R207, R209). -/
def chainDir (s : State) (q : Req) (t : KvTable) (p : Nat) : Got Nat := do
  require (p < t.nseq) codeMissingBale
  let e ← uRead s q (t.dir + 0x1000 + 64 * p) 64
  require (field e 0 4 == 1) codeMissingBale
  return field e 8 8 % 2 ^ 48

/-- The chain record of chain `c` (R207). -/
def chainAddr (t : KvTable) (cdir c : Nat) : Nat := cdir + c * t.cstride

/-- The segment address of a walk (R209). -/
def walkSegment (s : State) (q : Req) (t : KvTable) (p c k : Nat) : Got Nat := do
  let cdir ← chainDir s q t p
  require (decide (c < t.nchain) && decide (k < t.nsegmax)) codeMissingBale
  let w ← uReadNat s q (chainAddr t cdir c + 64 + 8 * k) 8
  require (bit w 0) codeMissingBale
  return bits w 47 12 * 4096

/-- R210: the look-aside set of (p, c, k). -/
def labSet (p c k : Nat) : Nat := Nat.xor (Nat.xor k (2 * c)) (5 * p) % 128

/-- The look-aside entry with the tag of R210, if the buffer holds it. -/
def labFind (d : Die) (part dir p c k : Nat) : Option LabEntry :=
  d.lab.find? fun l => l.part == part && l.dir == dir && l.seq == p && l.chain == c && l.seg == k

/-- The partition of a walk: 0 for firmware. -/
def Req.partOr0 (q : Req) : Nat := q.part.getD 0

/-- Where a walk reads: the entry of the directory, and the chain's word of the segment (R209). -/
def walkSpans (s : State) (q : Req) (t : KvTable) (p c k : Nat) : List (Nat × Nat) :=
  (t.dir + 0x1000 + 64 * p, 64) :: match chainDir s q t p with | .ok cdir => [(chainAddr t cdir c + 64 + 8 * k, 8)] | .error _ => []

/-- R210: one look-up uses the buffer: a hit is counted and used; a miss is counted and installs a successful walk over
the least recently used way of its set. -/
def labUse (s : State) (q : Req) (die : Nat) (t : KvTable) (p c k : Nat) : State :=
  let d := s.dieAt die
  let part := q.partOr0
  match labFind d part t.dir p c k with
  | some l =>
    bumpWalker (s.setDie die { d with
      labClock := d.labClock + 1
      lab := d.lab.map fun x => if x == l then { l with used := d.labClock } else x }) die 0
  | none =>
    let s := bumpWalker s die 1
    match walkSegment s q t p c k with
    | .error _ => s
    | .ok a =>
      let s := readsUse s q (walkSpans s q t p c k)
      let d := s.dieAt die
      let same := fun (l : LabEntry) => labSet l.seq l.chain l.seg == labSet p c k
      let ways := d.lab.filter same
      let victim := ways.foldl (fun (v : Option LabEntry) l =>
        match v with | some w => if l.used < w.used then some l else some w | none => some l) none
      let kept := if ways.length < 4 then d.lab else d.lab.filter fun l => some l != victim
      s.setDie die { d with
        labClock := d.labClock + 1
        lab := kept ++ [{ part, dir := t.dir, seq := p, chain := c, seg := k, addr := a, used := d.labClock }] }

/-- The look-ups of a list of bales, each a sequence, a chain and a bale number, in order. -/
def labUseAll (s : State) (q : Req) (die : Nat) (t : KvTable) (ns : List (Nat × Nat × Nat)) : State :=
  ns.foldl (fun u n => labUse u q die t n.1 n.2.1 (n.2.2 / 4096)) s

/-- The segment of a bale: from the buffer, or by a walk (R209). -/
def segmentOf (s : State) (q : Req) (die : Nat) (t : KvTable) (p c k : Nat) : Got Nat :=
  match labFind (s.dieAt die) q.partOr0 t.dir p c k with
  | some l => .ok l.addr
  | none => walkSegment s q t p c k

/-- A translated bale: the address of its entry, its buffer, SHARED, and its summary record. -/
structure BaleRef where
  entry : Nat
  buffer : Nat
  shared : Bool
  summary : Nat
  deriving DecidableEq, Repr

/-- The entry and summary addresses of bale `n` in its segment (R208). -/
def entryAddr (seg n : Nat) : Nat := seg + 8 * (n % 4096)
def summaryAddr (t : KvTable) (seg n : Nat) : Nat := seg + 0x8000 + t.srec * (64 + n % 4096)
/-- The bundle record of bale `n` (R202, R208). -/
def bundleAddr (t : KvTable) (seg n : Nat) : Nat := seg + 0x8000 + t.srec * (n % 4096 / 64)

/-- R209: the translation of bale `n` of chain `c` of sequence `p`. -/
def translate (s : State) (q : Req) (die : Nat) (t : KvTable) (p c n : Nat) : Got BaleRef := do
  let seg ← segmentOf s q die t p c (n / 4096)
  let e ← uReadNat s q (entryAddr seg n) 8
  require (bit e 0) codeMissingBale
  return { entry := entryAddr seg n, buffer := bits e 47 12 * 4096, shared := bit e 1, summary := summaryAddr t seg n }

/-- NTOK and NCOMMIT of a summary record (R200). -/
def summaryCounts (s : State) (q : Req) (a : Nat) : Got (Nat × Nat) := do
  let n ← uReadNat s q (a + 0x28) 2
  let c ← uReadNat s q (a + 0x2A) 2
  return (n, c)

/-- The element codes of slot `j` of a bale: `n` elements of a format at an offset of the buffer; zero for a slot at or
beyond NTOK (R199). -/
def slotCodes (s : State) (q : Req) (base fmt n ntok j : Nat) : Got (List Nat) :=
  let b := formatBits fmt / 8
  if ntok ≤ j then .ok (List.replicate n 0)
  else (uRead s q (base + j * n * b) (n * b)).map fun bs => (List.range n).map fun i => field bs (i * b) b

/-! ### Pools (R206) -/

/-- A pop: the address and the state after it, or none when HEAD = TAIL. -/
def poolPop (s : State) (q : Req) (pool : Nat) : Got (Option (Nat × State)) := do
  let base ← uReadNat s q pool 8
  let cap ← uReadNat s q (pool + 8) 8
  let head ← uReadNat s q (pool + 0x10) 8
  let tail ← uReadNat s q (pool + 0x18) 8
  if head = tail then return none
  let a ← uReadNat s q (base % 2 ^ 48 + 8 * (head % cap)) 8
  let t ← uWriteNat s q (pool + 0x10) 8 (head + 1)
  return some (a, t)

/-- A push. -/
def poolPush (s : State) (q : Req) (pool a : Nat) : Got State := do
  let base ← uReadNat s q pool 8
  let cap ← uReadNat s q (pool + 8) 8
  let tail ← uReadNat s q (pool + 0x18) 8
  let t ← uWriteNat s q (base % 2 ^ 48 + 8 * (tail % cap)) 8 a
  uWriteNat t q (pool + 0x18) 8 (tail + 1)

/-- The bale pool of the tier of an address (R206). -/
def poolOfTier (t : KvTable) (a : Nat) : Nat := match regionOf a with | .lpd _ => t.poolL | _ => t.poolH

/-- Pops from a list of pools, in order; when one fails, what was popped is pushed back (R219) and the second result is
none. -/
def popAll (s : State) (q : Req) : List Nat → List (Nat × Nat) → Got (State × Option (List Nat))
  | [], done => .ok (s, some (done.map Prod.snd))
  | p :: r, done =>
    match poolPop s q p with
    | .error e => .error e
    | .ok (some (a, t)) => popAll t q r (done ++ [(p, a)])
    | .ok none => (foldGot (fun u pa => poolPush u q pa.1 pa.2) s done).map fun u => (u, none)

/-! ### Summaries and bundles (R200 to R202) -/

/-- Field writes of a summary record (R200). -/
def writeCounts (s : State) (q : Req) (a ntok ncommit : Nat) : Got State := do
  let s ← uWriteNat s q (a + 0x28) 2 ntok
  uWriteNat s q (a + 0x2A) 2 ncommit

/-- The FLAGS of a summary with a bit set or cleared. -/
def writeFlagBit (s : State) (q : Req) (a i : Nat) (v : Bool) : Got State := do
  let f ← uReadNat s q (a + 0x2C) 2
  uWriteNat s q (a + 0x2C) 2 (f - atBit (bit f i) i + atBit v i)

/-- The binary32 value of an element code. -/
def codeF32 (fmt c : Nat) : BitVec 32 := numF32 (formatNum fmt c)

/-- R201: the mean key of the committed slots, as BF16 codes. -/
def meanKey (s : State) (q : Req) (t : KvTable) (buffer n : Nat) : Got (List Nat) := do
  let rows ← mapGot (fun j => slotCodes s q buffer (t.sfmt % 16) t.dsum n j) (List.range n)
  return (List.range t.dsum).map fun d =>
    if n = 0 then 0
    else
      let sum := rows.foldl (fun a r => f32Add a (codeF32 (t.sfmt % 16) (r.getD d 0))) 0
      (toCode layoutBf16 (f32Num (f32Mul sum (nativeFn [] 4 (f32OfNat n))))).1

/-- R201: the 256-bit sketch of a vector of BF16 codes, as 32 bytes. -/
def sketchOf (s : State) (q : Req) (proj width : Nat) (mean : List Nat) : Got (List Byte) := do
  let bitsL ← mapGot (fun i => do
    let row ← slotCodes s q (proj + i * width * 2) 4 width 1 0
    let x := (List.range width).foldl (fun a d => f32Add a (f32Mul (codeF32 4 (row.getD d 0)) (codeF32 4 (mean.getD d 0)))) 0
    return f32Lt 0 x) (List.range 256)
  return (List.range 32).map fun b =>
    BitVec.ofNat 8 (((List.range 8).map fun i => atBit (bitsL.getD (8 * b + i) false) i).sum)

/-- MEAN and SKETCH of a bale are recomputed over its `n` committed slots (R201, R220). -/
def recomputeSummary (s : State) (q : Req) (t : KvTable) (buffer sum n : Nat) : Got State := do
  let m ← meanKey s q t buffer n
  let k ← sketchOf s q t.proj t.dsum m
  let s ← uWrite s q sum k
  uWrite s q (sum + 0x40) (m.flatMap fun c => natLe 2 c)

/-- R202: the bundle record of bale `n`'s bundle is recomputed. -/
def recomputeBundle (s : State) (q : Req) (t : KvTable) (seg n : Nat) : Got State := do
  let first := n % 4096 / 64 * 64
  let rows ← mapGot (fun i => do
    let e ← uReadNat s q (seg + 8 * (first + i)) 8
    let a := seg + 0x8000 + t.srec * (64 + first + i)
    let c ← uReadNat s q (a + 0x2A) 2
    let m ← slotCodes s q (a + 0x40) 4 t.dsum 1 0
    return (if bit e 0 then c else 0, m)) (List.range 64)
  let w := rows.foldl (fun a r => f32Add a (f32OfNat r.1)) 0
  let cen := (List.range t.dsum).map fun d =>
    let c := rows.foldl (fun a r => f32Fma (codeF32 4 (r.2.getD d 0)) (f32OfNat r.1) a) 0
    if numIsZero (f32Num w) then 0 else (toCode layoutBf16 (f32Num (f32Mul c (nativeFn [] 4 w)))).1
  let a := bundleAddr t seg n
  let s ← uWriteNat s q a 4 ((rows.map Prod.fst).sum)
  let s ← uWriteNat s q (a + 4) 2 ((rows.filter fun r => r.1 != 0).length)
  uWrite s q (a + 0x40) (cen.flatMap fun c => natLe 2 c)

/-- Committed (or written) slots of bale `n` of a chain of `x` tokens. -/
def inBale (x n : Nat) : Nat := min 128 (x - 128 * n)

/-- R220: the counts of bale `n` are set from the chain's; MEAN, SKETCH and the bundle follow when NCOMMIT changed. -/
def refreshBale (s : State) (q : Req) (t : KvTable) (seg n buffer ntok ncommit : Nat) : Got State := do
  let a := summaryAddr t seg n
  let old ← summaryCounts s q a
  let s ← writeCounts s q a (inBale ntok n) (inBale ncommit n)
  if old.2 = inBale ncommit n then return s
  let s ← recomputeSummary s q t buffer a (inBale ncommit n)
  recomputeBundle s q t seg n

/-! ### Prefix nodes (R222, R223, R226) -/

/-- mix of R222. -/
def mix64 (x : Word64) : Word64 :=
  let x := x ^^^ (x >>> 33)
  let x := x * 0x9C5B3E71A4D26F0B
  let x := x ^^^ (x >>> 29)
  let x := x * 0xD1E47A395B86C2F5
  x ^^^ (x >>> 32)

/-- bale_hash of R222. -/
def baleHash (prev : Word64) (toks : List Nat) : Word64 :=
  (List.range 64).foldl (fun h i =>
    mix64 (h ^^^ (BitVec.ofNat 64 (toks.getD (2 * i) 0 + toks.getD (2 * i + 1) 0 * 2 ^ 32)))) (mix64 prev)

/-- The SUM and ADDR arrays of a node (R223). -/
def nodeAddrs (node c : Nat) : Nat := node + 0x240 + 8 * c
def nodeSums (t : KvTable) (node c : Nat) : Nat := node + 64 * ceilDiv (0x240 + 8 * t.nchain) 64 + c * t.srec

/-- The bucket of a hash (R223). -/
def bucketOf (s : State) (q : Req) (t : KvTable) (h : Word64) : Got Nat := do
  let nb ← uReadNat s q (t.pstore + 8) 1
  let b ← uReadNat s q (t.pstore + 0x10) 8
  return b % 2 ^ 48 + 64 * (h.toNat % 2 ^ nb)

/-- R226: a sequence drops its reference to a node; the last one takes the node out of the tree. -/
def dropReference (s : State) (q : Req) (t : KvTable) (node : Nat) : Got State := do
  let refs ← uReadNat s q (node + 0x10) 4
  let s ← uWriteNat s q (node + 0x10) 4 (refs - 1)
  if refs ≠ 1 then return s
  let fl ← uReadNat s q (node + 0x18) 4
  let s ← uWriteNat s q (node + 0x18) 4 (fl - fl % 2)
  let h ← uReadNat s q node 8
  let b ← bucketOf s q t (BitVec.ofNat 64 h)
  let s ← foldGot (fun u i => do
    let x ← uReadNat u q (b + 8 * i) 8
    if x % 2 ^ 48 = node then uWriteNat u q (b + 8 * i) 8 0 else return u) s (List.range 8)
  let s ← foldGot (fun u c => do
    let a ← uReadNat u q (nodeAddrs node c) 8
    poolPush u q (poolOfTier t a) a) s (List.range t.nchain)
  poolPush s q (t.pstore + 0x20) node

/-- R220: bale `n` of a chain is released; `ref` says whether this chain drops the sequence's reference to a node. -/
def releaseBale (s : State) (q : Req) (t : KvTable) (b : BaleRef) (ref : Bool) : Got State := do
  let e ← uReadNat s q b.entry 8
  let s ← uWriteNat s q b.entry 8 (e - e % 2)
  let s ← writeFlagBit s q b.summary 0 false
  if b.shared then
    if ref then
      let node ← uReadNat s q (b.summary + 0x38) 8
      dropReference s q t (node % 2 ^ 48)
    else return s
  else poolPush s q (poolOfTier t b.buffer) b.buffer

/-- Zeros over a range of memory (R208). -/
def zeroRange (s : State) (a n : Nat) : State := { s with mem := cellsDrop s.mem a (a + n), bad := clearBad s.bad a n }

/-- A new segment is cleared and its pointer written (R207, R208). -/
def installSegment (s : State) (q : Req) (t : KvTable) (cdir c k seg : Nat) : Got State := do
  let n := 0x8000 + 4160 * t.srec
  match accessMeets s q seg n true with
  | some f => .error f
  | none => uWriteNat (zeroRange s seg n) q (chainAddr t cdir c + 64 + 8 * k) 8 (seg + 1)

/-- The segment pointer of a chain: none when not VALID (R207). -/
def segPointer (s : State) (q : Req) (t : KvTable) (cdir c k : Nat) : Got (Option Nat) := do
  let w ← uReadNat s q (chainAddr t cdir c + 64 + 8 * k) 8
  return if bit w 0 then some (bits w 47 12 * 4096) else none

/-- The bales of a segment whose entries are VALID (R208), in increasing number: the entries that memory lists with bit 0 set. The walker
reads the whole array of entries. -/
def segmentBales (s : State) (q : Req) (k seg : Nat) : Got (List Nat) :=
  let errors := s.bad.any fun b => decide (seg ≤ b.1 * 64 + 63) && decide (b.1 * 64 < seg + 0x8000)
  match accessMeets s q seg (if errors then 0x8000 else 8) false with
  | some f => .error f
  | none => .ok (((List.range (if errors then 4096 else 0)).filter fun i => (unitByte s q.ctx (seg + 8 * i)).getLsbD 0) ++
      (if errors then [] else (s.mem.filter fun c =>
        decide (seg ≤ c.1) && decide (c.1 < seg + 0x8000) && (c.1 - seg) % 8 == 0 && c.2.getLsbD 0).map fun c => (c.1 - seg) / 8)
      |>.map fun i => 4096 * k + i)

/-- Every bale that the table holds for chain `c` of sequence `p`, in increasing number (06_attend R163): the bales that its token count
gives it (R197; one without its entry is then a missing bale, R229), and every other VALID entry: those of a transit table, whose
chains have no counts (R232). -/
def heldBales (s : State) (q : Req) (t : KvTable) (p c : Nat) : Got (List Nat) := do
  let cdir ← chainDir s q t p
  require (decide (c < t.nchain)) codeMissingBale
  let n ← uReadNat s q (chainAddr t cdir c) 4
  let m := ceilDiv n 128
  let l ← mapGot (fun k => do
    let x ← segPointer s q t cdir c k
    match x with
    | none => return []
    | some seg => segmentBales s q k seg) (List.range t.nsegmax)
  return List.range m ++ l.flatten.filter fun b => decide (m ≤ b)

/-- R213: the look-aside entries of segment `k` of a chain go from all four dies. -/
def invalidateSegment (s : State) (t : KvTable) (p c k : Nat) : State :=
  (List.range 4).foldl (fun u d => u.modDie d fun x =>
    { x with lab := x.lab.filter fun l => !(l.dir == t.dir && l.seq == p && l.chain == c && l.seg == k) }) s

end Sys2Proof.Machine
end

