-- ==== Sys2Proof/Machine/KvStore.lean ====
section
/-! DEFINITION. APPEND_KV, GAMBIT_COMMIT and EXPAND on one sequence or bale (07_kv R214 to R226; 06_attend R184 to R188). -/

namespace Sys2Proof.Machine

/-! ### APPEND_KV (R217 to R221) -/

/-- An APPEND_KV with its view and descriptors (R217). -/
structure AppendCmd where
  op : Nat
  lpd : Bool
  root : Nat
  ltab : Nat
  ltabN : Nat
  toks : Nat
  dk : Option Desc
  dval : Option Desc
  t : KvTable
  deriving DecidableEq, Repr

/-- The APPEND_KV of a command word. -/
def appendCmd (s : State) (q : Req) (w : List Byte) : Got AppendCmd := do
  let root := field w 0x20 8 % 2 ^ 48
  let t ← kvTable s q root
  let dk ← optDesc s q w (field w 0x18 2)
  let dval ← optDesc s q w (field w 0x1A 2)
  return { op := field w 0x1C 1, lpd := field w 0x1E 1 == 1, root, ltab := field w 0x28 8 % 2 ^ 48, ltabN := field w 0x30 4,
           toks := field w 0x38 8 % 2 ^ 48, dk, dval, t }

/-- An operand descriptor agrees with the view: its planes, its format, its tensor scale and its width (R214, R217). -/
def operandAgrees (d : Option Desc) (planes fmt cols : Nat) (scale : BitVec 32) (wanted : Bool) : Bool :=
  match d with
  | none => !wanted
  | some x => wanted && x.batch == planes && x.format == fmt && x.cols == cols && x.tscale == scale

/-- The checks of the view that every command on it makes (R205, R214): the summary width, and tensor scales of 1.0 where the stored
or the expanded formats are BF16. VSCALE is ignored in latent tables (R204). -/
def viewAgrees (t : KvTable) : Bool :=
  (if t.latent then t.dl else t.dqk) == t.dsum &&
  ((t.sfmt % 16 != 4 && (!t.latent || (t.xfmt % 16 != 4 && t.xfmt / 16 != 4))) || t.kscale == f32One) &&
  (t.latent || t.sfmt / 16 != 4 || t.vscale == f32One)

/-- R217: an APPEND_KV agrees with its view: planes 0 to NGRP - 1 of keys and values for OP 0 and 1, no operands for OP 2 to 4. -/
def appendAgrees (c : AppendCmd) : Bool :=
  viewAgrees c.t &&
    (if 2 ≤ c.op then c.dk.isNone && c.dval.isNone
     else operandAgrees c.dk c.t.ngrp (c.t.sfmt % 16) (if c.t.latent then c.t.dl else c.t.dqk) c.t.kscale true &&
      operandAgrees c.dval c.t.ngrp (c.t.sfmt / 16) c.t.dv c.t.vscale (!c.t.latent))

/-- A chain that an operation acts on: its number, NTOK and NCOMMIT. -/
structure ChainState where
  chain : Nat
  ntok : Nat
  ncommit : Nat
  deriving DecidableEq, Repr

/-- The counts of a list of chains. -/
def readChains (s : State) (q : Req) (t : KvTable) (cdir : Nat) (cs : List Nat) : Got (List ChainState) :=
  mapGot (fun c => do
    let n ← uReadNat s q (chainAddr t cdir c) 4
    let m ← uReadNat s q (chainAddr t cdir c + 4) 4
    return { chain := c, ntok := n, ncommit := m }) cs

/-- The counts of a chain are written (R207). -/
def writeChain (s : State) (q : Req) (t : KvTable) (cdir c ntok ncommit : Nat) : Got State := do
  let s ← uWriteNat s q (chainAddr t cdir c) 4 ntok
  uWriteNat s q (chainAddr t cdir c + 4) 4 ncommit

/-- The numbers from `a` up to, but not including, `b`. -/
def between (a b : Nat) : List Nat := (List.range (b - a)).map fun i => a + i

/-- The bales of a chain that hold tokens `a` to `b - 1`. -/
def balesOf (a b : Nat) : List Nat := if b ≤ a then [] else between (a / 128) ((b - 1) / 128 + 1)

/-- What a sequence needs of the pools: for each chain, the segments that are not VALID and the bales that it lacks. -/
structure Needs where
  chain : Nat
  segs : List Nat
  bales : List Nat
  deriving DecidableEq, Repr

/-- The segments of a chain that must be allocated for a list of bales. -/
def needSegments (s : State) (q : Req) (t : KvTable) (cdir c : Nat) (bales : List Nat) : Got (List Nat) := do
  let ks := (bales.map fun n => n / 4096).dedup
  let ps ← mapGot (fun k => do
    let x ← segPointer s q t cdir c k
    return (k, x)) ks
  return (ps.filter fun x => x.2.isNone).map Prod.fst

/-- The pops of a list of needs, in increasing chain, segments before bales (log 21). -/
def needPools (t : KvTable) (pool : Nat) (ns : List Needs) : List Nat :=
  ns.flatMap fun n => n.segs.map (fun _ => t.poolS) ++ n.bales.map fun _ => pool

/-- The popped addresses dealt out to the needs, in the order of `needPools`: segments by number, bales by number. -/
def dealOut : List Needs → List Nat → List (Nat × List (Nat × Nat) × List (Nat × Nat))
  | [], _ => []
  | n :: r, as =>
    (n.chain, n.segs.zip as, n.bales.zip (as.drop n.segs.length)) :: dealOut r (as.drop (n.segs.length + n.bales.length))

/-- A sequence that fails leaves everything as it was, but for what the pools moved; a failed pop is counted (R219, R229). -/
structure SeqResult where
  state : State
  code : Code := 0
  flags : BitVec 16 := 0

/-- A failed pop: exhausted pool, counted on the die. -/
def poolFailure (s : State) (die : Nat) : SeqResult := { state := bumpWalker s die 4, code := codePoolEmpty }

/-- Write row `r` of the operand into a slot of a bale of chain plane `g` (R218). -/
def writeSlot (s : State) (q : Req) (c : AppendCmd) (g row buffer slot : Nat) : Got State := do
  let s ← match c.dk with
    | some d => do
      let bs ← uRead s q (elemAddr d ⟨g, 0, 0⟩ row 0) c.t.keyBytes
      uWrite (readUse s q (elemAddr d ⟨g, 0, 0⟩ row 0) c.t.keyBytes) q (buffer + slot * c.t.keyBytes) bs
    | none => pure s
  match c.dval with
  | some d => do
    let bs ← uRead s q (elemAddr d ⟨g, 0, 0⟩ row 0) c.t.valueBytes
    uWrite (readUse s q (elemAddr d ⟨g, 0, 0⟩ row 0) c.t.valueBytes) q (buffer + c.t.valueBase + slot * c.t.valueBytes) bs
  | none => pure s

/-- OP 0 and OP 1 on one sequence (R218 to R220). -/
def appendSeq (s : State) (q : Req) (die : Nat) (c : AppendCmd) (p len off : Nat) : Got SeqResult := do
  let t := c.t
  let cdir ← chainDir s q t p
  let gs := List.range t.ngrp
  let cs ← readChains s q t cdir (gs.map fun g => t.chain0 + g)
  require (cs.all fun x => decide (x.chain < t.nchain)) codeMissingBale
  require (cs.all fun x =>
    (if c.op = 0 then x.ntok == x.ncommit else decide (x.ntok + len ≤ x.ncommit + 16)) &&
    decide (x.ntok + len ≤ t.capacity)) codeInvalidMacro
  -- the bale that is filled further must be there and private
  let olds ← mapGot (fun x =>
    if x.ntok % 128 = 0 then Except.ok (none : Option BaleRef)
    else (translate s q die t p x.chain (x.ntok / 128)).map some) cs
  require (olds.all fun o => match o with | some b => !b.shared | none => true) codeSharedBale
  let needs ← mapGot (fun x => do
    let bales := between (ceilDiv x.ntok 128) (ceilDiv (x.ntok + len) 128)
    let segs ← needSegments s q t cdir x.chain bales
    return ({ chain := x.chain, segs, bales } : Needs)) cs
  let pops ← popAll s q ((needPools t (if c.lpd then t.poolL else t.poolH) needs).map id) []
  match pops.2 with
  | none => return poolFailure pops.1 die
  | some as =>
    let deal := dealOut needs as
    let s ← foldGot (fun u (d : Nat × List (Nat × Nat) × List (Nat × Nat)) =>
      foldGot (fun u ka => installSegment u q t cdir d.1 ka.1 ka.2) u d.2.1) pops.1 deal
    let s ← foldGot (fun u (xg : (ChainState × Option BaleRef) × Nat) => do
      let x := xg.1.1
      let mine := ((deal.find? fun d => d.1 == x.chain).map fun d => d.2.2).getD []
      let newCommit := if c.op = 0 then x.ncommit + len else x.ncommit
      let bufferOf := fun (n : Nat) => match mine.find? fun m => m.1 == n with
        | some m => m.2
        | none => (xg.1.2.map fun b => b.buffer).getD 0
      let u ← foldGot (fun u r => writeSlot u q c xg.2 (off + r) (bufferOf ((x.ntok + r) / 128)) ((x.ntok + r) % 128)) u (List.range len)
      let u ← writeChain u q t cdir x.chain (x.ntok + len) newCommit
      foldGot (fun u n => do
        let seg ← segmentOf u q die t p x.chain (n / 4096)
        let fresh := mine.any fun m => m.1 == n
        let a := summaryAddr t seg n
        let u ← if fresh then do
            let u ← uWriteNat u q (entryAddr seg n) 8 (bufferOf n + 1)
            let u ← uWrite u q a (List.replicate t.srec 0)
            let u ← uWriteNat u q (a + 0x20) 8 (128 * n)
            uWriteNat u q (a + 0x2C) 2 1
          else pure u
        refreshBale u q t seg n (bufferOf n) (x.ntok + len) newCommit) u (balesOf x.ntok (x.ntok + len)))
      s ((cs.zip olds).zip gs)
    return { state := s }

/-- The requirement that every chain of a sequence meets, over all NCHAIN chains (R218). -/
def allChains (s : State) (q : Req) (t : KvTable) (p : Nat) : Got (Nat × List ChainState) := do
  let cdir ← chainDir s q t p
  let cs ← readChains s q t cdir (List.range t.nchain)
  return (cdir, cs)

/-- A shared bale that a truncation keeps in part is copied (R221): its chain, the bale, the kept slots and the new buffer. -/
def copyShared (s : State) (q : Req) (t : KvTable) (b : BaleRef) (kept new : Nat) (ref : Bool) : Got State := do
  let ks ← uRead s q b.buffer (kept * t.keyBytes)
  let s ← uWrite s q new ks
  let vs ← uRead s q (b.buffer + t.valueBase) (kept * t.valueBytes)
  let s ← if t.latent then pure s else uWrite s q (new + t.valueBase) vs
  let s ← uWriteNat s q b.entry 8 (new + 1)
  let node ← uReadNat s q (b.summary + 0x38) 8
  let s ← uWriteNat s q (b.summary + 0x2C) 2 1
  let s ← uWriteNat s q (b.summary + 0x30) 8 0
  let s ← uWriteNat s q (b.summary + 0x38) 8 0
  if ref then dropReference s q t (node % 2 ^ 48) else pure s

/-- The segments of a chain whose first bale lies at or beyond `ntok` are released (R213, R220). -/
def releaseSegments (s : State) (q : Req) (t : KvTable) (p cdir c ntok : Nat) : Got State :=
  foldGot (fun u k => do
    let x ← segPointer u q t cdir c k
    match x with
    | none => return u
    | some seg =>
      if 4096 * 128 * k < ntok then return u
      let u := invalidateSegment u t p c k
      let u ← uWriteNat u q (chainAddr t cdir c + 64 + 8 * k) 8 seg
      poolPush u q t.poolS seg) s (List.range t.nsegmax)

/-- The bales of a chain at or beyond `ntok` are released, in increasing number (R220). -/
def releaseFrom (s : State) (q : Req) (die : Nat) (t : KvTable) (p c old ntok : Nat) (ref : Bool) : Got State :=
  foldGot (fun u n => do
    let b ← translate u q die t p c n
    let seg ← segmentOf u q die t p c (n / 4096)
    let had ← summaryCounts u q b.summary
    let u ← writeCounts u q b.summary 0 0
    let u ← if had.2 = 0 then pure u else recomputeSummary u q t b.buffer b.summary 0
    let u ← releaseBale u q t b ref
    if had.2 = 0 then pure u else recomputeBundle u q t seg n) s (between (ceilDiv ntok 128) (ceilDiv old 128))

/-- OP 4 on one sequence: every chain is cut to `len` tokens (R218, R220, R221). -/
def truncateSeq (s : State) (q : Req) (die : Nat) (t : KvTable) (p len : Nat) : Got SeqResult := do
  let a ← allChains s q t p
  require (a.2.all fun x => decide (len ≤ x.ncommit)) codeInvalidMacro
  let n := len / 128
  let olds ← mapGot (fun (x : ChainState) =>
    if len % 128 = 0 then Except.ok (none : Option BaleRef) else (translate s q die t p x.chain n).map some) a.2
  let shared := (a.2.zip olds).filterMap fun x => match x.2 with
    | some b => if b.shared then some (x.1, b) else none
    | none => none
  let pops ← popAll s q (shared.map fun x => poolOfTier t x.2.buffer) []
  match pops.2 with
  | none => return poolFailure pops.1 die
  | some as =>
    let s ← foldGot (fun u (x : ((ChainState × BaleRef) × Nat) × Nat) =>
      copyShared u q t x.1.1.2 (len % 128) x.1.2 (x.2 == 0)) pops.1 (shared.zip as).zipIdx
    let s ← foldGot (fun u (x : ChainState) => do
      let u ← writeChain u q t a.1 x.chain len len
      let u ← if len % 128 = 0 then pure u else do
        let b ← translate u q die t p x.chain n
        let seg ← segmentOf u q die t p x.chain (n / 4096)
        refreshBale u q t seg n b.buffer len len
      let u ← releaseFrom u q die t p x.chain x.ntok len (x.chain == 0)
      releaseSegments u q t p a.1 x.chain len) s a.2
    return { state := s }

/-! ### Prefixes (R222 to R225) -/

/-- The token ids of bale `n` of a sequence. -/
def baleTokens (s : State) (q : Req) (toks off n : Nat) : Got (List Nat) :=
  (uRead s q (toks + 4 * (off + 128 * n)) 512).map fun bs => (List.range 128).map fun i => field bs (4 * i) 4

/-- hash(0) to hash(n − 1) of a sequence (R222). -/
def prefixHashes (s : State) (q : Req) (t : KvTable) (toks off n : Nat) : Got (List (Word64 × List Nat)) := do
  let salt ← uReadNat s q t.pstore 8
  let r ← foldGot (fun (st : Word64 × List (Word64 × List Nat)) i => do
    let tok ← baleTokens s q toks off i
    let h := baleHash st.1 tok
    return (h, st.2 ++ [(h, tok)])) (BitVec.ofNat 64 salt, []) (List.range n)
  return r.2

/-- The first matching node of a bucket (R224 step 2). -/
def findNode (s : State) (q : Req) (t : KvTable) (h : Word64) (tok : List Nat) (parent n : Nat) : Got (Option Nat) := do
  let b ← bucketOf s q t h
  foldGot (fun (o : Option Nat) i =>
    match o with
    | some x => .ok (some x)
    | none => do
      let x ← uReadNat s q (b + 8 * i) 8
      let x := x % 2 ^ 48
      if x = 0 then return none
      let w ← uRead s q x 0x240
      let m := bit (field w 0x18 4) 0 && field w 0 8 == h.toNat && field w 8 8 % 2 ^ 48 == parent && field w 0x14 4 == n &&
        (List.range 128).all fun j => field w (0x40 + 4 * j) 4 == tok.getD j 0
      return if m then some x else none) none (List.range 8)

/-- The nodes that match the first bales of a sequence, until one does not (R224). -/
def matchNodes (s : State) (q : Req) (t : KvTable) : List (Word64 × List Nat) → Nat → Nat → Got (List Nat)
  | [], _, _ => .ok []
  | h :: r, n, parent => do
    let m ← findNode s q t h.1 h.2 parent n
    match m with
    | none => return []
    | some x =>
      let rest ← matchNodes s q t r (n + 1) x
      return x :: rest

/-- OP 2 on one sequence (R224). -/
def attachSeq (s : State) (q : Req) (die : Nat) (c : AppendCmd) (p len off : Nat) : Got SeqResult := do
  let t := c.t
  require (t.pstore != 0) codeInvalidMacro
  let a ← allChains s q t p
  require (a.2.all fun x => x.ntok == 0) codeInvalidMacro
  let hs ← prefixHashes s q t c.toks off (len / 128)
  let nodes ← matchNodes s q t hs 0 0
  let bales := List.range nodes.length
  let needs ← mapGot (fun (x : ChainState) => do
    let segs ← needSegments s q t a.1 x.chain bales
    return ({ chain := x.chain, segs, bales := [] } : Needs)) a.2
  let pops ← popAll s q (needPools t t.poolH needs) []
  match pops.2 with
  | none => return poolFailure pops.1 die
  | some as =>
    let s ← foldGot (fun u (d : Nat × List (Nat × Nat) × List (Nat × Nat)) =>
      foldGot (fun u ka => installSegment u q t a.1 d.1 ka.1 ka.2) u d.2.1) pops.1 (dealOut needs as)
    let s ← foldGot (fun u (nx : Nat × Nat) => do
      let refs ← uReadNat u q (nx.1 + 0x10) 4
      let u ← uWriteNat u q (nx.1 + 0x10) 4 (refs + 1)
      foldGot (fun u (x : ChainState) => do
        let seg ← segmentOf u q die t p x.chain (nx.2 / 4096)
        let adr ← uReadNat u q (nodeAddrs nx.1 x.chain) 8
        let u ← uWriteNat u q (entryAddr seg nx.2) 8 (bits adr 47 12 * 4096 + 3)
        let rec ← uRead u q (nodeSums t nx.1 x.chain) t.srec
        let sa := summaryAddr t seg nx.2
        let u ← uWrite u q sa rec
        let u ← writeFlagBit u q sa 1 true
        uWriteNat u q (sa + 0x38) 8 nx.1) u a.2) s nodes.zipIdx
    let s ← foldGot (fun u (x : ChainState) => do
      let u ← writeChain u q t a.1 x.chain (128 * nodes.length) (128 * nodes.length)
      foldGot (fun u b => do
        let seg ← segmentOf u q die t p x.chain (64 * b / 4096)
        recomputeBundle u q t seg (64 * b)) u (List.range (ceilDiv nodes.length 64))) s a.2
    return { state := s }

/-- What publishing a sequence has come to: the state, the parent node, whether it has stopped, the nodes popped, and whether a pop
failed. -/
structure PublishState where
  state : State
  parent : Nat
  stopped : Bool := false
  nodes : Nat := 0
  exhausted : Bool := false

/-- A node is written (R223, R225). -/
def writeNode (s : State) (q : Req) (die : Nat) (t : KvTable) (node : Nat) (h : Word64) (tok : List Nat) (parent p n : Nat)
    (cs : List ChainState) : Got State := do
  let s ← uWriteNat s q node 8 h.toNat
  let s ← uWriteNat s q (node + 8) 8 parent
  let s ← uWriteNat s q (node + 0x10) 4 1
  let s ← uWriteNat s q (node + 0x14) 4 n
  let s ← uWriteNat s q (node + 0x18) 4 1
  let s ← uWrite s q (node + 0x1C) (List.replicate 36 0)
  let s ← uWrite s q (node + 0x40) (tok.flatMap fun x => natLe 4 x)
  foldGot (fun u (x : ChainState) => do
    let b ← translate u q die t p x.chain n
    let u ← uWriteNat u q (nodeAddrs node x.chain) 8 b.buffer
    let rec ← uRead u q b.summary t.srec
    uWrite u q (nodeSums t node x.chain) rec) s cs

/-- One bale of a publish (R225). -/
def publishBale (q : Req) (die : Nat) (t : KvTable) (p : Nat) (cs : List ChainState) (st : PublishState)
    (hn : (Word64 × List Nat) × Nat) : Got PublishState := do
  if st.stopped then return st
  let s := st.state
  let n := hn.2
  let b ← translate s q die t p 0 n
  if b.shared then
    let node ← uReadNat s q (b.summary + 0x38) 8
    return { st with parent := node % 2 ^ 48 }
  let m ← findNode s q t hn.1.1 hn.1.2 st.parent n
  if m.isSome then return { st with stopped := true }
  let pop ← poolPop s q (t.pstore + 0x20)
  match pop with
  | none => return { st with stopped := true, exhausted := true }
  | some (node, s) =>
    let st := { st with nodes := st.nodes + 1 }
    let bk ← bucketOf s q t hn.1.1
    let slots ← mapGot (fun i => uReadNat s q (bk + 8 * i) 8) (List.range 8)
    match (slots.zipIdx.find? fun x => x.1 == 0) with
    | none =>
      let s ← poolPush s q (t.pstore + 0x20) node
      return { st with state := bumpWalker s die 3, stopped := true }
    | some x =>
      let s ← writeNode s q die t node hn.1.1 hn.1.2 st.parent p n cs
      let s ← uWriteNat s q (bk + 8 * x.2) 8 node
      let s ← foldGot (fun u (c : ChainState) => do
        let b ← translate u q die t p c.chain n
        let u ← uWriteNat u q b.entry 8 (b.buffer + 3)
        let u ← writeFlagBit u q b.summary 1 true
        let u ← writeFlagBit u q b.summary 2 true
        let u ← uWriteNat u q (b.summary + 0x30) 8 hn.1.1.toNat
        uWriteNat u q (b.summary + 0x38) 8 node) s cs
      return { st with state := s, parent := node }

/-- `n` entries of a pool are popped and pushed back (R219). -/
def recycle (s : State) (q : Req) (pool n : Nat) : Got State := do
  let x ← popAll s q (List.replicate n pool) []
  foldGot (fun u a => poolPush u q pool a) x.1 (x.2.getD [])

/-- OP 3 on one sequence (R225). A node pop that fails leaves the sequence unchanged, as the table of R229 says (log 109): what was popped
is pushed back. -/
def publishSeq (s : State) (q : Req) (die : Nat) (c : AppendCmd) (p len off : Nat) : Got SeqResult := do
  let t := c.t
  require (t.pstore != 0 && len % 128 == 0) codeInvalidMacro
  let a ← allChains s q t p
  require (a.2.all fun x => decide (len ≤ x.ncommit) && x.ntok == x.ncommit) codeInvalidMacro
  let hs ← prefixHashes s q t c.toks off (len / 128)
  let r ← foldGot (fun st hn => publishBale q die t p a.2 st hn) { state := s, parent := 0 } hs.zipIdx
  if r.exhausted then
    let u ← recycle s q (t.pstore + 0x20) r.nodes
    return poolFailure u die
  else return { state := r.state }

/-- One sequence of an APPEND_KV; LENGTH 0 leaves it unchanged for OP 0 to 3 (R218). -/
def appendEntry (s : State) (q : Req) (die : Nat) (c : AppendCmd) (i : Nat) : Got SeqResult := do
  let p ← uReadNat s q (c.ltab + 16 * i) 4
  let e ← lengthEntry s q c.ltab i
  if e.1 = 0 ∧ c.op < 4 then return { state := s }
  if c.op < 2 then appendSeq s q die c p e.1 e.2
  else if c.op = 2 then attachSeq s q die c p e.1 e.2
  else if c.op = 3 then publishSeq s q die c p e.1 e.2
  else truncateSeq s q die c.t p e.1

/-- The bales that one sequence of an APPEND_KV looks up, each a sequence, a chain and a bale (R210; log 110): those that it fills, attaches,
publishes or cuts. -/
def appendLookups (s : State) (q : Req) (c : AppendCmd) (i : Nat) : Got (List (Nat × Nat × Nat)) := do
  let p ← uReadNat s q (c.ltab + 16 * i) 4
  let e ← lengthEntry s q c.ltab i
  if e.1 = 0 ∧ c.op < 4 then return []
  let cdir ← chainDir s q c.t p
  let cs ← readChains s q c.t cdir (if c.op < 2 then (List.range c.t.ngrp).map fun g => c.t.chain0 + g else List.range c.t.nchain)
  let nodes ← if c.op ≠ 2 then pure [] else do
    let hs ← prefixHashes s q c.t c.toks e.2 (e.1 / 128)
    matchNodes s q c.t hs 0 0
  return cs.flatMap fun x =>
    (if c.op < 2 then balesOf x.ntok (x.ntok + e.1) else if c.op = 2 then List.range nodes.length
     else if c.op = 3 then List.range (e.1 / 128) else between (e.1 / 128) (ceilDiv x.ntok 128)).map fun n => (p, x.chain, n)

/-! ### GAMBIT_COMMIT (06_attend R184, R186, R187) -/

/-- A gambit record (R184). -/
structure GambitRec where
  seq : Nat
  ncand : Nat
  nacc : Nat
  committed : Nat
  parent : List Nat
  acc : List Nat
  deriving DecidableEq, Repr

/-- The gambit record in 64 bytes. -/
def GambitRec.ofBytes (w : List Byte) : GambitRec :=
  { seq := field w 0 4, ncand := field w 4 1, nacc := field w 5 1, committed := field w 8 8,
    parent := (List.range 16).map fun i => field w (0x10 + i) 1, acc := (List.range 16).map fun i => field w (0x20 + i) 1 }

/-- R185: a record with NCAND above 16 or a parent that is not earlier fails. -/
def GambitRec.treeOk (g : GambitRec) : Bool :=
  decide (g.ncand ≤ 16) && (List.range g.ncand).all fun i => decide (g.parent.getD i 255 < i) || g.parent.getD i 255 == 255

/-- R187: the accepted path is valid. -/
def GambitRec.pathOk (g : GambitRec) : Bool :=
  g.treeOk && decide (g.nacc ≤ g.ncand) &&
  (List.range g.nacc).all fun k =>
    let a := g.acc.getD k 255
    decide (a < g.ncand) && (if k = 0 then g.parent.getD a 0 == 255 else g.parent.getD a 255 == g.acc.getD (k - 1) 255)

/-- Keys and values of a slot are copied (R187). -/
def copySlot (s : State) (q : Req) (die : Nat) (t : KvTable) (p c src dst : Nat) : Got State := do
  let a ← translate s q die t p c (src / 128)
  let b ← translate s q die t p c (dst / 128)
  let ks ← uRead s q (a.buffer + src % 128 * t.keyBytes) t.keyBytes
  let s ← uWrite (readUse s q (a.buffer + src % 128 * t.keyBytes) t.keyBytes) q (b.buffer + dst % 128 * t.keyBytes) ks
  if t.latent then return s
  let vs ← uRead s q (a.buffer + t.valueBase + src % 128 * t.valueBytes) t.valueBytes
  uWrite (readUse s q (a.buffer + t.valueBase + src % 128 * t.valueBytes) t.valueBytes) q (b.buffer + t.valueBase + dst % 128 * t.valueBytes) vs

/-- The copies of a commit: from each accepted candidate's slot to the slot it keeps (R187). -/
def GambitRec.moves (g : GambitRec) : List (Nat × Nat) :=
  ((List.range g.nacc).filter fun k => g.acc.getD k 0 != k).map fun k => (g.committed + g.acc.getD k 0, g.committed + k)

/-- The bales that the commit of one sequence looks up (R210; log 110): those that it copies between, and those from its committed end on. -/
def commitLookups (s : State) (q : Req) (t : KvTable) (rec : Nat) (nchain : Nat) : Got (List (Nat × Nat × Nat)) := do
  let w ← uRead s q rec 64
  let g := GambitRec.ofBytes w
  let cdir ← chainDir s q t g.seq
  let cs ← readChains s q t cdir (List.range nchain)
  return cs.flatMap fun x =>
    ((g.moves.flatMap fun (m : Nat × Nat) => [m.1 / 128, m.2 / 128]) ++ between (g.committed / 128) (ceilDiv x.ntok 128)).map fun n => (g.seq, x.chain, n)

/-- The commit of one sequence over its chains (R187, R220). -/
def commitSeq (s : State) (q : Req) (die : Nat) (t : KvTable) (rec : Nat) (nchain : Nat) : Got SeqResult := do
  let w ← uRead s q rec 64
  let g := GambitRec.ofBytes w
  let cdir ← chainDir s q t g.seq
  let cs ← readChains s q t cdir (List.range nchain)
  require (cs.all fun x => decide (x.chain < t.nchain)) codeMissingBale
  let moves : List (Nat × Nat) := g.moves
  -- a copy into a shared bale changes nothing (R229)
  let _ ← mapGot (fun (x : ChainState) => mapGot (fun (m : Nat × Nat) => do
    let _ ← translate s q die t g.seq x.chain (m.1 / 128)
    let b ← translate s q die t g.seq x.chain (m.2 / 128)
    require (!b.shared) codeSharedBale) moves) cs
  let s ← foldGot (fun u (x : ChainState) => do
    let u ← foldGot (fun u (m : Nat × Nat) => copySlot u q die t g.seq x.chain m.1 m.2) u moves
    let new := g.committed + g.nacc
    let u ← writeChain u q t cdir x.chain new new
    let u ← foldGot (fun u n => do
      let b ← translate u q die t g.seq x.chain n
      let seg ← segmentOf u q die t g.seq x.chain (n / 4096)
      refreshBale u q t seg n b.buffer new new) u (between (g.committed / 128) (ceilDiv new 128))
    releaseFrom u q die t g.seq x.chain x.ntok new (x.chain == 0)) s cs
  let s ← uWriteNat s q (rec + 8) 8 (g.committed + g.nacc)
  let s ← uWriteNat s q (rec + 4) 2 0
  return { state := s }

/-! ### EXPAND (R215, R216) -/

/-- What an expansion gives: element codes, flags, and the products that saturated (03_arithmetic R69). -/
structure Expanded where
  codes : List Nat := []
  flags : BitVec 16 := 0
  sats : Nat := 0
  deriving DecidableEq, Repr

/-- The depth chunks of a list of element codes against the rows of an up-projection, rounded to a format (R215). -/
def expandRow (s : State) (q : Req) (up : Desc) (lfmt xfmt : Nat) (anchor : Int) (scale : BitVec 32) (codes : List Nat) :
    Got Expanded :=
  foldGot (fun (st : Expanded) n => do
    let bs ← rowChunks s q up (operandView up 0) up.rows n codes.length
    let x := rowDotSat lfmt up.format anchor (codeChunks lfmt codes) bs
    let y := accumOut xfmt anchor [scale, up.tscale] x.1
    return { codes := st.codes ++ [y.1], flags := st.flags ||| y.2 ||| accumSat x.1, sats := st.sats + x.2 }) {} (List.range up.rows)

/-- R215: the expanded keys and values of slot `j` of a latent bale with `ntok` written slots; the others are +0 (R199, R216). -/
def expandSlot (s : State) (q : Req) (t : KvTable) (b : BaleRef) (ntok j : Nat) : Got (Expanded × Expanded) :=
  if ntok ≤ j then .ok ({ codes := List.replicate t.dqk 0 }, { codes := List.replicate t.dv 0 })
  else do
  let l ← slotCodes s q b.buffer (t.sfmt % 16) t.dl ntok j
  let k ← expandRow s q t.upk (t.sfmt % 16) (t.xfmt % 16) t.ak t.kscale l
  let v ← expandRow s q t.upv (t.sfmt % 16) (t.xfmt / 16) t.av t.kscale l
  return (k, v)

/-- Codes written as row `r` of a matrix. -/
def writeCodes (s : State) (q : Req) (d : Desc) (r : Nat) (cs : List Nat) : Got State :=
  uWrite s q (elemAddr d ⟨0, 0, 0⟩ r 0) (cs.flatMap fun c => natLe (formatBits d.format / 8) c)

/-- Where EXPAND reads for a bale with `n` written tokens: its counts and latents, and the up-projections. -/
def expandSpans (t : KvTable) (b : BaleRef) (n : Nat) : List (Nat × Nat) :=
  (b.summary + 0x28, 4) :: (b.buffer, n * t.keyBytes) ::
    ([t.upk, t.upv].flatMap fun d => (List.range d.rows).flatMap fun r => operandRow d (operandView d 0) r)

/-- One bale of EXPAND on EC `e`: rows 128 b to 128 b + 127 of the outputs. -/
def expandBale (s : State) (q : Req) (die e : Nat) (t : KvTable) (dko dvo : Desc) (p c n b : Nat) : Got (State × BitVec 16) := do
  let r ← translate s q die t p c n
  let counts ← summaryCounts s q r.summary
  foldGot (fun (st : State × BitVec 16) j => do
    let x ← expandSlot st.1 q t r counts.1 j
    let u ← writeCodes (countSat st.1 e (x.1.sats + x.2.sats)) q dko (128 * b + j) x.1.codes
    let u ← writeCodes u q dvo (128 * b + j) x.2.codes
    return (u, st.2 ||| x.1.flags ||| x.2.flags)) (readsUse s q (expandSpans t r counts.1), 0) (List.range 128)

end Sys2Proof.Machine
end

