-- ==== Sys2Proof/Machine/Time.lean ====
section
/-! DEFINITION. The passing of caravan time (00_scope R9; 09_route R292 to R294). -/

namespace Sys2Proof.Machine

/-- R294: a slew changes the counter by at most 1 ct in every 65,536 ct. -/
def slewDue (s : State) : Bool := decide (s.sync.lastSlew.toNat + 65536 ≤ s.time.toNat) && s.sync.slew != 0

/-- The part of the slew that one tick takes, in 1/16 ct: at most 1 ct either way. -/
def slewPart (x : Int) : Int := max (-16) (min 16 x)

/-- One nanosecond of caravan time passes while the counter runs (log 2). A slew that is due is added to the counter's fraction, so that the
counter adds one more ct or skips this one where the fraction wraps. -/
def tick (s : State) : State :=
  if !s.timeRuns then s
  else if slewDue s then
    let d := slewPart s.sync.slew
    let v := (s.sync.sub : Int) + d
    let time := if 16 ≤ v then s.time + 2 else if v < 0 then s.time else s.time + 1
    { s with time, sync := { s.sync with slew := s.sync.slew - d, sub := (v % 16).toNat, lastSlew := time } }
  else { s with time := s.time + 1 }

/-- The own clock in 1/16 ct. -/
def ownClock (s : State) : Nat := 16 * s.time.toNat + s.sync.sub

/-- An instant, moved with the counter. -/
def movedTime (d : Int) (t : CTime) : CTime := BitVec.ofInt 64 (max 0 ((t.toNat : Int) + d))

/-- R294: a step changes the counter only: an interval that runs goes on as long as before, so the instants that it is measured from move with
the counter. -/
def moveInstants (s : State) (d : Int) : State :=
  let f := movedTime d
  { s with
    ports := s.ports.map fun e => (e.1, { e.2 with
      since := f e.2.since, lastGoodAt := f e.2.lastGoodAt, probeAt := e.2.probeAt.map f, identAt := e.2.identAt.map f })
    groups := s.groups.map fun e => (e.1, { e.2 with lostSince := e.2.lostSince.map f })
    ring := { s.ring with formingSince := f s.ring.formingSince }
    contexts := s.contexts.map fun e => (e.1, { e.2 with
      readySince := f e.2.readySince, runSince := f e.2.runSince, yieldSince := f e.2.yieldSince, lastGo := f e.2.lastGo })
    stewards := s.stewards.map fun e => (e.1, match e.2.run with
      | .waiting ec pair free rd since timeout => { e.2 with run := .waiting ec pair free rd (f since) timeout }
      | _ => e.2)
    trust := { s.trust with wdogSince := f s.trust.wdogSince }
    sync := { s.sync with
      requestAt := s.sync.requestAt.map f, lastSlew := f s.sync.lastSlew, lastExchange := f s.sync.lastExchange, holdSince := f s.sync.holdSince } }

/-- R294: the counter steps to `v` in 1/16 ct. -/
def stepClock (s : State) (v : Nat) : State :=
  let t := moveInstants s (((v / 16 : Nat) : Int) - s.time.toNat)
  { t with time := BitVec.ofNat 64 (v / 16), sync := { t.sync with slew := 0, sub := v % 16 } }

end Sys2Proof.Machine
end

