-- ==== Sys2Proof/Machine/RouteLinks.lean ====
section
/-! DEFINITION. The Route links: ports, frames, credits and replay, and the messages that they carry (09_route R271 to
R286, R299 to R302). -/

namespace Sys2Proof.Machine

/-! ### Groups and sending (R273, R274, R278, R283) -/

/-- The own location (R283). -/
def ownLoc (s : State) : BitVec 16 := s.trust.locRack

/-- A group gains its first UP port: credits and counts begin anew (R273, R278). -/
def formGroup (g : Nat) (x : Group) : Group :=
  { x with credits := (List.range 8).map (fun vc => (vc, bufferFlits g vc)), accepted := [], freed := [] }

/-- Flits freed by the receiver of a group (R278). -/
def freeFlits (s : State) (g vc n : Nat) : State :=
  let x := s.groupAt g
  s.setGroup g { x with freed := tabMod 0 x.freed (creditVc vc) fun c => c + BitVec.ofNat 16 n }

/-- The header of a message that this part sends (R274). -/
def newMessage (s : State) (type vc : Nat) (toPartner : Bool) (dst : BitVec 16) (step : Nat) (head : List Nat) : Message :=
  { type := BitVec.ofNat 8 type, toPartner, vc := ⟨vc % 8, Nat.mod_lt vc (by decide)⟩, len := 0, src := ownLoc s, dst,
    ring := if ringCarries s then s.ring.formedId else 0, step := BitVec.ofNat 16 step, seq := 0, addr := 0, plen := 0,
    dpart := 0, head, body := [] }

/-! ### Streams that wait for acknowledgements (10_streams R318) -/

/-- A record of a link fault: partner location, FSEQ and ring ID; which FSEQ it is is open (log 104). -/
def logLink (s : State) (kind unit port : Nat) (code : Code) : State :=
  let f := drawFree s
  let ring := if ringCarries s then s.ring.formedId else s.ring.ringId
  logWrite f.2 { plainRec f.2 kind unit code with
    detail := (natLe 2 (s.portAt port).loc.toNat ++ natLe 2 f.1.toNat ++ natLe 2 ring.toNat).map BitVec.toNat }

/-- A link fault of a group, on its lowest UP port. -/
def logGroup (s : State) (g : Nat) (code : Code) : State :=
  let n := (upPorts s g).headD (8 * g)
  logLink s 3 n n code

/-- A message of a stream has been acknowledged by its frame (R281). -/
def ackMessage (s : State) (g : Nat) (m : OutMessage) : State :=
  if 131 ≤ m.unit then s
  else
    let x := s.slotAt m.unit m.slot
    s.setSlot m.unit m.slot { x with unacked := x.unacked.filter fun q => q != msgId g m.msg }

/-- A stream whose message failed ends in FAULT with the code, which is logged (10_streams R318, R300). -/
def failMessage (s : State) (id : MsgId) (code : Code) : State :=
  let sends := fun (k : Nat) => let x := tabGet {} s.slots k; x.sent.contains id && (x.state == 2 || x.state == 3)
  match (s.slots.map Prod.fst).find? sends with
  | none => s
  | some k => logGroup { s with slots := tabSet s.slots k { faultSlot (tabGet {} s.slots k) code with unacked := [], writeAcks := [] } } id.group code

/-! ### Port states (R282, R285, R286) -/

/-- A port enters a state now. -/
def enterState (s : State) (p : Port) (st : Nat) : Port := { p with state := st, since := s.time }

/-- The group faces its ring partner on an UP port (R289). -/
def facesPartner (s : State) (g : Nat) : Bool :=
  match (s.groupAt g).partner with
  | none => !(upPorts s g).isEmpty
  | some (l, d) => (upPorts s g).any fun n => (s.portAt n).loc == l && (s.portAt n).digest == d

/-- A ring group without an UP port that faces its partner begins to lose it now; one that has it has not lost it (R289). -/
def noteLost (s : State) (g : Nat) : State :=
  let x := s.groupAt g
  if facesPartner s g then s.setGroup g { x with lostSince := none }
  else if x.lostSince.isNone then s.setGroup g { x with lostSince := some s.time } else s

/-- A group that has fewer than 8 UP ports is degraded; each entry counts (R272). -/
def noteDegraded (s : State) (g : Nat) : State :=
  let x := s.groupAt g
  let d := decide ((upPorts s g).length < 8)
  let t := s.setGroup g { x with degraded := d }
  if d && !x.degraded then bumpRoute t (72 + g) else t

/-- The messages that a port had not had acknowledged go to another UP port, or wait for one (R282). -/
def moveMessages (s : State) (n : Nat) : State :=
  let p := s.portAt n
  let g := portGroup n
  let ms := p.replay.flatMap (fun r => r.2.2) ++ p.transmit
  let t := s.setPort n { p with replay := [], replaySlots := [], transmit := [], sentFlits := 0, resend := 0, fseq := 0, expect := 0, ackValid := false,
                                nak := false, nakRun := 0, onLink := none }
  ms.foldl (fun u m =>
    match (if vcCarried u g m.msg.vc.val then choosePort u g else none) with
    | some k => u.setPort k (queueMessage (u.portAt k) m)
    | none =>
      let u := giveCredits u g m.msg.vc.val (msgFlits m.msg)
      let x := u.groupAt g
      u.setGroup g { x with waiting := x.waiting ++ [m] }) t

/-- A port leaves traffic for DOWN, DISABLED or MISWIRED; `count` where R285 counts it. -/
def portLeaves (s : State) (n st : Nat) (count : Bool) : State :=
  let p := s.portAt n
  let t := s.setPort n { enterState s p st with wasDown := true }
  let t := moveMessages t n
  let t := if count then bumpRoute t (48 + n) else t
  noteDegraded (noteLost t (portGroup n)) (portGroup n)

/-- A number of ct has passed since the port entered its state. -/
def sinceState (s : State) (p : Port) (n : Nat) : Bool := decide (p.since.toNat + n ≤ s.time.toNat)

/-- `n` ct have passed since an instant, or it has never been. -/
def elapsed (s : State) (o : Option CTime) (n : Nat) : Bool :=
  match o with
  | none => true
  | some t => decide (t.toNat + n ≤ s.time.toNat)

/-- PROBE, every 1 ms; a port stays OFF until the core rails are up (14_power R415, R430). -/
def execProbe (port : Fin 24) (s : State) : Answer := whileClocked s <|
  let p := { s.portAt port.val with probeAt := some s.time }
  if !elapsed s (s.portAt port.val).probeAt 1000000 then .next s
  else if (p.state = 0 ∨ p.state = 5) ∧ p.en ∧ s.power.coreRails then
    .next (s.setPort port.val { enterState s p 1 with inForce := (p.cfgAuto, p.cfgEdge, p.cfgAmp, p.cfgPre, p.cfgPost) })
  else if p.state = 7 then .next (s.setPort port.val (enterState s p 2))
  else .next s

/-- TRAINING_COMPLETE: a retrained port resends its replay buffer with its numbering (R282). -/
def execTrainingComplete (port : Fin 24) (s : State) : Answer := whileClocked s <|
  let p := s.portAt port.val
  if p.state = 1 then .next (s.setPort port.val (enterState s p 2))
  else if p.state = 4 then .next (s.setPort port.val { enterState s p 2 with resend := p.replay.length, nakRun := 0 })
  else .next s

/-- TRAIN_TIMEOUT: 2 ms of training, or 100 µs of retraining. -/
def execTrainTimeout (port : Fin 24) (s : State) : Answer := whileClocked s <|
  let p := s.portAt port.val
  if p.state = 1 then whenEnabled (sinceState s p 2000000) s (s.setPort port.val (enterState s p 5))
  else if p.state = 4 then whenEnabled (sinceState s p 100000) s (portLeaves s port.val 5 true)
  else .next s

/-- IDENT_TIMEOUT: 1 ms without IDENT. -/
def execIdentTimeout (port : Fin 24) (s : State) : Answer := whileClocked s <|
  let p := s.portAt port.val
  whenEnabled (p.state == 2 && sinceState s p 1000000) s (portLeaves s port.val 5 false)

/-- GOOD_FRAME_TIMEOUT: 10 µs without a good frame. -/
def execGoodFrameTimeout (port : Fin 24) (s : State) : Answer := whileClocked s <|
  let p := s.portAt port.val
  whenEnabled (p.state == 3 && decide (p.lastGoodAt.toNat + 10000 ≤ s.time.toNat)) s (portLeaves s port.val 5 true)

/-- LOSS_OF_RECEIVER_LOCK. -/
def execLossOfReceiverLock (port : Fin 24) (s : State) : Answer := whileClocked s <|
  let p := s.portAt port.val
  whenEnabled (p.state == 3) s
    (let t := s.setPort port.val { enterState s p 4 with inForce := (p.cfgAuto, p.cfgEdge, p.cfgAmp, p.cfgPre, p.cfgPost) }
     noteDegraded (noteLost t (portGroup port.val)) (portGroup port.val))

/-- RL_PORT_STATn: EN, and the W1C bits (R285, R286). -/
def portStatWrite (s : State) (n : Nat) (v : Reg32) : State :=
  let p := s.portAt n
  let s := s.setPort n { p with en := v.getLsbD 31, replaced := p.replaced && !v.getLsbD 27, returned := p.returned && !v.getLsbD 26 }
  if !v.getLsbD 31 then (if p.state = 6 then s else portLeaves s n 6 false)
  else if p.state = 6 then s.setPort n (enterState s (s.portAt n) 5)
  else s

/-! ### Frames (R273, R281, R282) -/

/-- The messages that a frame of 64 slots completes, what stays, and the flits of the next message that it carries. -/
def packFrame : Nat → Nat → List OutMessage → List OutMessage × List OutMessage × Nat
  | _, sent, [] => ([], [], sent)
  | room, sent, m :: r =>
    if msgFlits m.msg - sent ≤ room then
      let x := packFrame (room - (msgFlits m.msg - sent)) 0 r
      (m :: x.1, x.2.1, x.2.2)
    else ([], m :: r, sent + room)

/-- What a port may send now, and what it holds back: a group that is no ring group of a FORMED ring carries no VC 2, 3 or 4 traffic (R288),
but for a message that has begun, which nothing may interleave (R274). -/
def sendable (s : State) (n : Nat) : List OutMessage × List OutMessage :=
  let p := s.portAt n
  let begun := if 0 < p.sentFlits then 1 else 0
  let carried := fun (m : OutMessage) => vcCarried s (portGroup n) m.msg.vc.val
  (p.transmit.take begun ++ (p.transmit.drop begun).filter carried, (p.transmit.drop begun).filter fun m => !carried m)

/-- R293: a TIME_REQ takes its t1 as its head flit passes the serializer. -/
def stampRequest (t1 : Nat) (m : OutMessage) : OutMessage := if m.msg.type = 0x08 then { m with msg := { m.msg with head := [t1, 0] } } else m

/-- The header of a message, the first 32 bytes of its head flit (R274). -/
def headerBytes (m : Message) : List Byte :=
  natLe 1 m.type.toNat ++ natLe 1 (m.vc.val + if m.toPartner then 8 else 0) ++ natLe 2 m.len ++ natLe 2 m.src.toNat ++ natLe 2 m.dst.toNat ++
    natLe 2 m.ring.toNat ++ natLe 2 m.step.toNat ++ natLe 4 m.seq.toNat ++ natLe 8 m.addr.toNat ++ natLe 4 m.plen ++ natLe 4 m.dpart.val

/-- The entries of a BALE message from its fields: sequence, chain and bale number of each (R276). -/
def entryBytes : List Nat → List Byte
  | p :: c :: b :: r => natLe 4 p ++ natLe 4 c ++ natLe 4 b ++ entryBytes r
  | _ => []

/-- The head payload of a message: 224 bytes, laid out by R276 for a BALE; the other layouts are open (R275; log 113). -/
def payloadBytes (m : Message) : List Byte :=
  if m.type = 0x10 then getBytes (natLe 32 (m.head.headD 0) ++ entryBytes (m.head.drop 1)) 0 224
  else (List.range 224).map fun i => Config.headByte m.type.toNat m.head i

/-- The flits of a message: its head flit and its body flits, 256 bytes each (R274). -/
def flitsOf (m : Message) : List (List Byte) := (headerBytes m ++ payloadBytes m) :: (List.range m.len).map fun i => getBytes m.body (256 * i) 256

/-- The 64 slots of a frame: the flits of the messages from the `sent`-th on; zero beyond FILL (R273). -/
def slotsOf (sent : Nat) (l : List OutMessage) : List (List Byte) :=
  let flits := (l.flatMap fun o => flitsOf o.msg).drop sent
  flits.take 64 ++ List.replicate (64 - flits.length) (List.replicate 256 0)

/-- The trailer bytes 0x00 to 0x37 of a frame (R273). -/
def trailerBytes (fseq ackSeq : BitVec 16) (ackValid nak : Bool) (fill : Nat) (credits : List (BitVec 16)) : List Byte :=
  natLe 2 fseq.toNat ++ natLe 2 ackSeq.toNat ++ natLe 1 ((if ackValid then 2 else 0) + if nak then 1 else 0) ++ natLe 1 fill ++ natLe 2 0 ++
    credits.flatMap (fun c => natLe 2 c.toNat) ++ natLe 32 0

/-- One byte of the CRC-64 with the ECMA-182 polynomial, most significant bit first (R273; log 113). -/
def crcByte (c : BitVec 64) (b : Byte) : BitVec 64 :=
  (List.range 8).foldl (fun c _ => if c.msb then (c <<< 1) ^^^ 0x42F0E1EBA9EA3693 else c <<< 1) (c ^^^ (b.setWidth 64 <<< 56))

/-- The CRC-64 of a list of bytes. -/
def crc64 (l : List Byte) : BitVec 64 := l.foldl crcByte 0

/-- A frame with its slots and its trailer: the acknowledgement of the receiver, the flits freed of each VC, the shared count of VC 2, 3 and 4
once, and the CRC over the slots and the other trailer bytes (R273, R278). -/
def trailerOf (s : State) (n : Nat) (fseq : BitVec 16) (fill : Nat) (ms : List Message) (slots : List (List Byte)) : OutFrame :=
  let p := s.portAt n
  let x := s.groupAt (portGroup n)
  let credits := (List.range 8).map fun vc => if vc = 3 ∨ vc = 4 then 0 else tabGet 0 x.freed vc
  { fseq, fill, messages := ms, ackSeq := p.lastGood, ackValid := p.ackValid, nak := p.nak, credits, slots
    crc := crc64 (slots.flatten ++ trailerBytes fseq p.lastGood p.ackValid p.nak fill credits) }

/-- A message that the hub sends outside a stream is held back for lack of credits: the group's link stream unit counts (10_streams R332). -/
def countHubHeld (s : State) (g : Nat) : State :=
  let x := s.groupAt g
  if x.waiting.any fun m => decide (131 ≤ m.unit) && vcCarried s g m.msg.vc.val && decide (tabGet 0 x.credits (creditVc m.msg.vc.val) < msgFlits m.msg)
  then bumpLink s g else s

/-- FRAME_SEND: the next frame of a resend, a new frame, or an idle frame; the trailer's NAK is given once. -/
def execFrameSend (port : Fin 24) (s : State) : Answer := whileClocked s <|
  let p0 := s.portAt port.val
  if p0.state ≠ 2 ∧ p0.state ≠ 3 then .next s
  else
    let s := if p0.state = 3 then countHubHeld (pump s (portGroup port.val)) (portGroup port.val) else s
    let p := s.portAt port.val
    let frame := fun (q : BitVec 16) (ms : List OutMessage) (fill : Nat) (slots : List (List Byte)) =>
      some (trailerOf s port.val q fill (ms.map OutMessage.msg) slots)
    if 0 < p.resend then
      let r := p.replay.getD (p.replay.length - p.resend) (p.fseq, 0, [])
      .next (s.setPort port.val { p with nak := false, resend := p.resend - 1, onLink := frame r.1 r.2.2 r.2.1 (((p.replaySlots.find? fun e => e.1 == r.1).map Prod.snd).getD []) })
    else
      let l := sendable s port.val
      if 32 ≤ p.replay.length ∨ l.1 = [] then .next (s.setPort port.val { p with nak := false, onLink := frame (p.fseq - 1) [] 0 (slotsOf 0 []) })
      else
        let x := packFrame 64 p.sentFlits l.1
        let ms := x.1.map (stampRequest (ownClock s))
        let slots := slotsOf p.sentFlits (ms ++ x.2.1)
        let fill := min 64 ((l.1.map fun o => msgFlits o.msg).sum - p.sentFlits)
        let t := if ms.any fun m => m.msg.type == 0x08 then { s with sync := { s.sync with pending := some (ownClock s) } } else s
        .next (t.setPort port.val
          { p with nak := false, transmit := x.2.1 ++ l.2, sentFlits := x.2.2, replay := p.replay ++ [(p.fseq, fill, ms)],
                   replaySlots := p.replaySlots ++ [(p.fseq, slots)], fseq := p.fseq + 1, onLink := frame p.fseq ms fill slots })

/-- Frames up to ACKSEQ leave the replay buffer, and their messages are acknowledged. -/
def takeAck (s : State) (n : Nat) (f : Frame) : State :=
  let p := s.portAt n
  if f.ackValid ∧ (p.replay.any fun r => r.1 == f.ackSeq) then
    let k := (p.replay.findIdx fun r => r.1 == f.ackSeq) + 1
    let done := (p.replay.take k).flatMap fun r => r.2.2
    let left := p.replay.drop k
    done.foldl (fun t m => ackMessage t (portGroup n) m) (s.setPort n { p with
      replay := left, replaySlots := p.replaySlots.filter (fun e => left.any fun r => r.1 == e.1), resend := min p.resend left.length })
  else s

/-- NAK: every frame after ACKSEQ is resent; eight NAKs of one FSEQ retrain the port. -/
def takeNak (s : State) (n : Nat) (f : Frame) : State :=
  let p := s.portAt n
  if !f.nak then s.setPort n { p with nakRun := 0 }
  else
    let run := if p.nakFseq = f.ackSeq ∧ 0 < p.nakRun then p.nakRun + 1 else 1
    let t := bumpRoute (s.setPort n { p with nakFseq := f.ackSeq, nakRun := run, resend := p.replay.length }) (24 + n)
    if 8 ≤ run ∧ p.state = 3 then
      let t := t.setPort n { enterState t (t.portAt n) 4 with inForce := (p.cfgAuto, p.cfgEdge, p.cfgAmp, p.cfgPre, p.cfgPost) }
      noteDegraded (noteLost t (portGroup n)) (portGroup n)
    else t

/-- The credits that a trailer reports, as differences from the last counts accepted (R278). -/
def takeCredits (s : State) (g : Nat) (f : Frame) : State :=
  let x := s.groupAt g
  let y := (List.finRange 8).foldl (fun (x : Group) vc =>
    if vc.val = 3 ∨ vc.val = 4 then x
    else
      let new := f.credits.get vc
      let d := (new - tabGet 0 x.accepted vc.val).toNat
      { x with credits := tabMod 0 x.credits vc.val (fun c => c + d), accepted := tabSet x.accepted vc.val new }) x
  pump (s.setGroup g y) g

/-- The trailer of an accepted frame. -/
def takeTrailer (s : State) (n : Nat) (f : Frame) : State := takeCredits (takeNak (takeAck s n f) n f) (portGroup n) f

/-- FRAME_RECEIVE: the messages of an accepted frame are delivered by the rows of their types. -/
def execFrameReceive (port : Fin 24) (frame : Frame) (s : State) : Answer := whileClocked s <|
  let n := port.val
  let p := s.portAt n
  if p.state ≠ 2 ∧ p.state ≠ 3 then .next s
  else if !frame.crcOk then .next (bumpRoute (s.setPort n { p with nak := true }) n)
  else if frame.fill = 0 then .next (takeTrailer (s.setPort n { p with lastGoodAt := s.time }) n frame)
  else if frame.fseq = p.expect then
    .next (takeTrailer (s.setPort n
      { p with lastGoodAt := s.time, expect := p.expect + 1, lastGood := frame.fseq, ackValid := true, nak := false }) n frame)
  else .next (s.setPort n { p with lastGoodAt := s.time })

/-! ### The ring's groups -/

/-- The ring group that faces downstream, and the other one. -/
def downGroup (s : State) : Nat := if s.ring.downGroup then 1 else 0
def upGroup (s : State) : Nat := 1 - downGroup s

/-! ### Receiving messages (R275, R277, R280) -/

/-- A message that is discarded and counted: a reserved type, or a VC that its group does not use or its type does not have. -/
def isBadMessage (g : Nat) (m : Message) : Bool :=
  match typeVc m.type.toNat with
  | none => true
  | some vc => !vcUsed g m.vc.val || m.vc.val != vc

/-- BAD_MSG. -/
def execBadMsg (group : Fin 3) (msg : Message) (s : State) : Answer := whileClocked s <|
  whenEnabled (isBadMessage group.val msg) s (freeFlits (bumpRoute s (75 + group.val)) group.val msg.vc.val (msgFlits msg))

/-- A message of the given type is delivered once: the window of the last 4,096 SEQs of its sender and VC takes it. VC 2, 3
and 4 are carried only by a FORMED ring. -/
def deliver (s : State) (g type : Nat) (m : Message) : Option State :=
  let x := s.groupAt g
  let key := (m.src, m.vc, m.seq)
  if m.type.toNat ≠ type ∨ isBadMessage g m ∨ ((decide (2 ≤ m.vc.val) && decide (m.vc.val ≤ 4)) = true ∧ !ringCarries s) ∨
      x.seen.contains key then none
  else
    let same := fun (e : BitVec 16 × Fin 8 × BitVec 32) => e.1 == m.src && e.2.1 == m.vc
    let n := (x.seen.filter same).length
    let seen := if n < 4096 then x.seen else x.seen.eraseIdx (x.seen.findIdx same)
    some (s.setGroup g { x with seen := seen ++ [key] })

/-- A message that needs no buffer any more: delivered, with its flits freed. -/
def deliverFreed (s : State) (g type : Nat) (m : Message) : Option State :=
  (deliver s g type m).map fun t => freeFlits t g m.vc.val (msgFlits m)

/-- The step of a message row: nothing happens unless the message is delivered. -/
def onMessage (s : State) (o : Option State) (f : State → State) : Answer :=
  match o with
  | none => .next s
  | some t => .next (f t)

/-- Flits that a serai holds (R302). -/
def seraiFill (s : State) (g : Nat) : Nat := ((s.groupAt g).serai.map msgFlits).sum

/-- A message goes whole into the serai of its group (R279). -/
def toSerai (s : State) (g type : Nat) (m : Message) : Option State :=
  if g < 2 ∧ seraiFill s g + (msgFlits m) ≤ 131072 then
    (deliver s g type m).map fun t => let x := t.groupAt g; t.setGroup g { x with serai := x.serai ++ [m] }
  else none

/-- BALE. -/
def execBale (group : Fin 3) (msg : Message) (s : State) : Answer := whileClocked s <| onMessage s (toSerai s group.val 0x10 msg) id

/-- HOP_END: the hop's total of bales (R276). -/
def execHopEnd (group : Fin 3) (msg : Message) (s : State) : Answer := whileClocked s <|
  onMessage s (deliverFreed s group.val 0x11 msg) fun t => { t with ring := { t.ring with hopBales := tabSet t.ring.hopBales (msg.head.getD 0 0) (msg.head.getD 1 0) } }

/-- BALE_ACK: the bales of a BALE message are in the caravan area of the next member (R276). -/
def execBaleAck (group : Fin 3) (msg : Message) (s : State) : Answer := whileClocked s <|
  onMessage s (deliverFreed s group.val 0x0B msg) fun t =>
    { t with ring := { t.ring with unacked := t.ring.unacked.filter fun q => q.toNat != msg.head.getD 1 0 } }

/-- SURVEY: the records go into the serai, and the message goes on downstream as one of this part's unless the next member is its origin
(R299). -/
def execSurvey (group : Fin 3) (msg : Message) (s : State) : Answer := whileClocked s <|
  onMessage s (toSerai s group.val 0x12 msg) fun t =>
    let origin := msg.head.getD 0 0
    let next := (t.ring.position.toNat + 1) % max t.ring.members.length 1
    if origin = next ∨ t.ring.members.length ≤ 1 then t
    else send t (downGroup t) { msg with src := ownLoc t, toPartner := true }

/-- GRAD: the block goes into the serai; its drain writes it or sends it on (R299). -/
def execGrad (group : Fin 3) (msg : Message) (s : State) : Answer := whileClocked s <| onMessage s (toSerai s group.val 0x13 msg) id

/-- The position of a location in the formed ring. -/
def positionOf (s : State) (loc : BitVec 16) : Nat := s.ring.members.findIdx fun x => x == loc

/-- The partition of the caravan task. -/
def caravanPart (s : State) : Option Nat := s.ring.task.map fun c => (s.ctxAt c.val).part.toNat

/-- The bytes of a message are written for partition `p`: what the write meets is logged, for no task made it (02_package R43, R46). -/
def messageStore (s : State) (p a : Nat) (bs : List Byte) : Bool × State :=
  let q : Req := { owner := .nobody, part := some p, ctx := none }
  match rangeFault s q.part a bs.length true with
  | some f => (false, logFault s q f)
  | none =>
    let r := storeCut s q a bs
    match r.1 with
    | some x => (false, logFault r.2 q (uncorrectableCode x, x))
    | none => (true, r.2)

/-- WANT: the row is written at ADDR, within the partition of the caravan task (R301; log 31). One that meets a window under HOLD waits
(02_package R38), as DISPATCH and WRITE do. -/
def execWant (group : Fin 3) (msg : Message) (s : State) : Answer := whileClocked s <|
  if spanHeld s msg.addr.toNat (min msg.plen msg.body.length) then .next s else
  onMessage s (deliverFreed s group.val 0x18 msg) fun t =>
    match caravanPart t with
    | none => t
    | some p =>
      let a := msg.addr.toNat
      let n := min msg.plen msg.body.length
      match messageStore t p a (msg.body.take n) with
      | (false, u) => u
      | (true, t) =>
        let row : WantRow := { position := positionOf t msg.src, group := msg.head.getD 1 0, firstBale := msg.head.getD 2 0, addr := a, bytes := n }
        { t with ring := { t.ring with wants := t.ring.wants ++ [row] } }

/-- The remote window of a partition holds the range (R302). -/
def inRemoteWindow (s : State) (p a n : Nat) : Bool :=
  let x := s.partAt p
  let base := x.rwinHi.toNat * 2 ^ 32 + x.rwinLo.toNat * 4096
  x.active && decide (base ≤ a) && decide (a + n ≤ base + 4096 * x.rwinPages.toNat)

/-- The body of a DISPATCH or WRITE is written, if the partition takes it (R302): in Nap and Doze no partition does (14_power R420). -/
def remoteStore (s : State) (m : Message) : Bool × State :=
  if s.power.state = 2 ∨ s.power.state = 3 ∨ !inRemoteWindow s m.dpart.val m.addr.toNat m.plen then (false, s)
  else messageStore s m.dpart.val m.addr.toNat (m.body.take m.plen)

/-- The body of a DISPATCH or WRITE must wait for memory. -/
def remoteWaits (s : State) (m : Message) : Bool :=
  s.power.state != 2 && s.power.state != 3 && inRemoteWindow s m.dpart.val m.addr.toNat m.plen && spanHeld s m.addr.toNat m.plen

/-- DISPATCH (R302). -/
def execDispatch (group : Fin 3) (msg : Message) (s : State) : Answer := whileClocked s <|
  if remoteWaits s msg then .next s else
  onMessage s (deliverFreed s group.val 0x19 msg) fun t =>
    let r := remoteStore t msg
    if r.1 then r.2 else bumpRoute r.2 79

/-- WRITE, with its WRITE_ACK (R302). -/
def execWrite (group : Fin 3) (msg : Message) (s : State) : Answer := whileClocked s <|
  if remoteWaits s msg then .next s else
  onMessage s (deliverFreed s group.val 0x1A msg) fun t =>
    let r := remoteStore t msg
    send r.2 group.val (newMessage r.2 0x1B 7 msg.toPartner msg.src 0 [msg.seq.toNat, if r.1 then 0 else 0x3007])

/-- WRITE_ACK (10_streams R318). -/
def execWriteAck (group : Fin 3) (msg : Message) (s : State) : Answer := whileClocked s <|
  onMessage s (deliverFreed s group.val 0x1B msg) fun t =>
    let id : MsgId := { group := group.val, vc := 7, seq := BitVec.ofNat 32 (msg.head.getD 0 0) }
    let code : Code := BitVec.ofNat 16 (msg.head.getD 1 0)
    if code ≠ 0 then failMessage t id code
    else { t with slots := t.slots.map fun e => (e.1, { e.2 with writeAcks := e.2.writeAcks.filter fun q => q != id }) }

/-- UNREACH: the head payload holds the header of the message, whose second field MCTL holds the VC and whose eighth is SEQ (R274, R300; log
84). -/
def execUnreach (group : Fin 3) (msg : Message) (s : State) : Answer := whileClocked s <|
  onMessage s (deliverFreed s group.val 0x04 msg) fun t =>
    failMessage t { group := group.val, vc := msg.head.getD 1 0 % 8, seq := BitVec.ofNat 32 (msg.head.getD 7 0) } 0x3005

end Sys2Proof.Machine
end

