-- ==== Sys2Proof/Machine/Caravan.lean ====
section
/-! DEFINITION. A caravan layer as the shard map of the image lays it out: phases and steps, the survey tables, want rows and manifest, the
carried set, and the transit tables (01_caravan R19 to R30; 07_kv R232; 09_route R276, R299, R301; log 111). -/

namespace Sys2Proof.Machine

/-! ### The caravan task and its layer (R20 to R24) -/

/-- The declarations of the caravan task. -/
def caravanDecl (s : State) : Option CaravanDecl := s.ring.task.bind fun c => (s.ctxAt c.val).caravan
/-- The accesses of the caravan task of context `c`. -/
def caravanReq (s : State) (c : Fin 64) : Req := { owner := .context c, part := some (s.ctxAt c.val).part.toNat, ctx := some c }
/-- L. -/
def ringLength (s : State) : Nat := max s.ring.members.length 1
/-- The own position in the ring. -/
def ownPosition (s : State) : Nat := s.ring.position.toNat % ringLength s
/-- The present layer is gated. -/
def gatedNow (s : State) : Bool :=
  match s.ring.task with
  | some c => (s.ctxAt c.val).layers.getD s.ring.layer true
  | none => true
/-- The barriers of a layer before its step 1: that of the survey, and that of the gating phase where it is gated. -/
def phaseBarriers (s : State) : Nat := if gatedNow s then 2 else 1
/-- The barriers of the present layer: survey, gating if it is gated, and L steps (log 34). -/
def layerBarriers (s : State) : Nat := s.ring.members.length + phaseBarriers s
/-- The layers of the caravan task; a context that declares none runs one. -/
def layerCount (s : State) : Nat :=
  match s.ring.task with
  | some c => max 1 (s.ctxAt c.val).layers.length
  | none => 0
/-- Every layer of the caravan task has released its step-L barrier. -/
def layersDone (s : State) : Bool := decide (layerCount s ≤ s.ring.layer)
/-- The step that runs, which is the hop that the part forwards on; 0 in the survey and the gating phase. -/
def hopNow (s : State) : Nat := s.ring.step + 1 - phaseBarriers s
/-- The survey runs. -/
def inSurvey (s : State) : Bool := s.ring.step == 0 && !layersDone s
/-- The gating phase runs. -/
def inGating (s : State) : Bool := gatedNow s && s.ring.step == 1 && !layersDone s
/-- R21: the origin of the shard that the part computes with at a step. -/
def stepShard (s : State) (step : Nat) : Nat := (ownPosition s + ringLength s - (step - 1) % ringLength s) % ringLength s
/-- R19: the distance from this part's shard to a position. -/
def distanceOf (s : State) (p : Nat) : Nat := (p + ringLength s - ownPosition s) % ringLength s

/-! ### Shards and survey records (R20, R28; log 112) -/

/-- The bale ranges of a shard. -/
def shardRanges (d : CaravanDecl) (o : Nat) : List ShardRange := d.shards.filter fun r => r.origin == o
/-- The sequences of a shard, in increasing number. -/
def shardSeqs (d : CaravanDecl) (o : Nat) : List Nat := ((shardRanges d o).map fun r => r.seq).dedup.insertionSort (· ≤ ·)
/-- The bales of a shard: sequence, head group, bale number. -/
def shardBales (d : CaravanDecl) (o : Nat) : List (Nat × Nat × Nat) :=
  (shardRanges d o).flatMap fun r => (List.range d.groups).flatMap fun g => (List.range r.count).map fun i => (r.seq, g, r.first + i)
/-- The records of a shard in the survey, in order: the summary of each bale, then the record of each bundle that holds one. -/
def surveyRecords (d : CaravanDecl) (o : Nat) : List (Bool × Nat × Nat × Nat) :=
  let l := shardBales d o
  l.map (fun b => (false, b)) ++ (l.map fun b => (true, b.1, b.2.1, b.2.2 / 64 * 64)).dedup
/-- The survey table of an origin holds every record of its shard. -/
def surveyHeld (s : State) (d : CaravanDecl) (o : Nat) : Bool :=
  (List.range (surveyRecords d o).length).all fun i =>
    s.ring.surveys.any fun r => r.1 == o && decide (r.2.1 ≤ i) && decide (i < r.2.1 + r.2.2)
/-- The first bale of a sequence in a shard. -/
def firstBaleOf (d : CaravanDecl) (o p : Nat) : Nat :=
  match (shardRanges d o).filter fun r => r.seq == p with
  | [] => 0
  | r :: l => l.foldl (fun m x => min m x.first) r.first

/-- A survey record is written into the survey table of its origin. -/
def putSurvey (s : State) (q : Req) (t : KvTable) (r : Bool × Nat × Nat × Nat) (bs : List Byte) : Got State := do
  let seg ← walkSegment s q t r.2.1 (t.chain0 + r.2.2.1) (r.2.2.2 / 4096)
  uWrite s q (if r.1 then bundleAddr t seg r.2.2.2 else summaryAddr t seg r.2.2.2) bs

/-- The records of a SURVEY message, from record `first` of the shard of `o` on, go into its survey table (R279). Summaries and bundle records take
the same number of bytes in transit, the declared `recordBytes`: the model's choice, since the spec gives bundle records no size in transit (log 112). -/
def putSurveys (s : State) (q : Req) (d : CaravanDecl) (o first : Nat) (body : List Byte) : Got State := do
  let size := max 1 d.recordBytes
  let n := body.length / size
  match d.surveys.find? fun e => e.1 == o with
  | none => return s
  | some e =>
    let t ← kvTable s q e.2
    let rs := ((surveyRecords d o).drop first).take n
    let u ← foldGot (fun u k => putSurvey u q t (rs.getD k (false, 0, 0, 0)) ((body.drop (k * size)).take size)) s (List.range rs.length)
    return { u with ring := { u.ring with surveys := u.ring.surveys ++ [(o, first, rs.length)] } }

/-- SURVEY messages that this part sent or forwarded and that are not acknowledged by their frames (R28). -/
def surveysUnacked (s : State) : Bool :=
  (List.range 16).any (fun n =>
    let p := s.portAt n
    (p.transmit ++ p.replay.flatMap fun r => r.2.2).any fun m => m.msg.type == 0x12) ||
  (List.range 2).any fun g => (s.groupAt g).waiting.any fun m => m.msg.type == 0x12

/-! ### Wants and the manifest (R23, R28; R301) -/

/-- The want rows that the part owes: origin, sequence and head group (R28). -/
def rowsOwed (s : State) (d : CaravanDecl) : List (Nat × Nat × Nat) :=
  ((List.range (ringLength s)).filter fun o => o != ownPosition s).flatMap fun o =>
    (shardSeqs d o).flatMap fun p => (List.range d.groups).map fun g => (o, p, g)

/-- The rows that a member has sent for a head group. -/
def heldRows (s : State) (q g : Nat) : List WantRow := s.ring.wants.filter fun w => w.position == q && w.group == g

/-- The want rows of every other member are held: for each head group one for each sequence of the shard, or, where no shard map is declared,
for each group and first bale that one of them names (R28, R301; log 35). -/
def wantsComplete (s : State) : Bool :=
  let others := (List.range s.ring.members.length).filter fun p => p != s.ring.position.toNat
  match caravanDecl s with
  | some d =>
    let n := (shardSeqs d (ownPosition s)).length
    others.all fun p => (List.range d.groups).all fun g => decide (n ≤ (heldRows s p g).length)
  | none =>
    let keys := (s.ring.wants.map fun w => (w.group, w.firstBale)).dedup
    others.all fun p => keys != [] && keys.all fun k => s.ring.wants.any fun w => w.position == p && w.group == k.1 && w.firstBale == k.2

/-- The sequence of a held row: rows of a member and a group lie by rising address in the order of the shard's sequences (log 111). -/
def rowSeq (s : State) (w : WantRow) : Nat :=
  match caravanDecl s with
  | none => 0
  | some d => (shardSeqs d (ownPosition s)).getD ((heldRows s w.position w.group).countP fun x => decide (x.addr < w.addr)) 0

/-- The key of a bale in the manifest. -/
def baleKey (p g n : Nat) : Nat := (p * 65536 + g) * 2 ^ 32 + n

/-- The bales of a want row that are wanted, as keys of the manifest. -/
def rowBales (s : State) (w : WantRow) : List Nat :=
  ((List.range (8 * w.bytes)).filter fun i => (byteAt s (w.addr + i / 8)).getLsbD (i % 8)).map fun i =>
    baleKey (rowSeq s w) w.group (w.firstBale + i)

/-- MANIFEST_BUILD, in the gating phase: D(b) of every wanted bale; a bale without an entry has D(b) = 0. -/
def execManifestBuild (s : State) : Answer := whileClocked s <|
  whenEnabled (ringCarries s && s.ring.task.isSome && inGating s && !s.ring.manifestWritten && wantsComplete s) s
    { s with ring := { s.ring with
        manifestWritten := true
        manifest := s.ring.wants.foldl (fun m w =>
          (rowBales s w).foldl (fun m b => tabMod 0 m b fun d => max d (distanceOf s w.position)) m) [] } }

/-! ### Arrival conditions (R28) -/

/-- A SELECT_BALES of the caravan task has not completed. -/
def selectsPending (s : State) : Bool :=
  (List.range 4).any fun p => (macrosOf s p).any fun r => wOpcode r.word == 0x19 && r.ctx == s.ring.task

/-- R28: what the part's arrival at the barrier of the survey or of the gating phase waits for. The conditions of R27 are the program's to
meet (11_steward R353). -/
def arrivalDue (s : State) : Bool :=
  match caravanDecl s with
  | none => true
  | some d =>
    if inSurvey s then
      ((List.range (ringLength s)).all fun o => o == ownPosition s || surveyHeld s d o) && !surveysUnacked s
    else if inGating s then
      !selectsPending s && decide ((rowsOwed s d).length ≤ s.ring.wantsSent) && wantsComplete s && s.ring.manifestWritten
    else true

/-! ### The carried set (R23, R24; R276) -/

/-- A bale as its entry in a BALE message names it. -/
abbrev BaleName := Nat × Nat × Nat

/-- The bale of the own shard whose buffer lies at an address: its sequence, head group and number, and its chain. -/
def ownBaleAt (s : State) (q : Req) (d : CaravanDecl) (t : KvTable) (a : Nat) : Option ((Nat × Nat × Nat) × BaleName) :=
  (shardBales d (ownPosition s)).findSome? fun b =>
    match translate s q 0 t b.1 (t.chain0 + b.2.1) b.2.2 with
    | .ok r => if r.buffer = a then some (b, b.1, t.chain0 + b.2.1, b.2.2) else none
    | .error _ => none

/-- The carried set of hop 1 holds a bale of the own shard: D(b) is at least 1, or the layer is ungated (R23, R24). -/
def carriedFirst (s : State) (b : Nat × Nat × Nat) : Bool := !gatedNow s || decide (1 ≤ tabGet 0 s.ring.manifest (baleKey b.1 b.2.1 b.2.2))

/-- The carried set of a later hop holds a bale that came on the hop before: D(b) is at least that hop, or the layer is ungated (R23, R24).
D(b) of another origin's bale is in that origin's manifest alone: a free value here (log 38). -/
def carriedOn (s : State) (b : CaravanBale) : Bool :=
  !gatedNow s || decide (hopNow s ≤ (Config.freeValue (s.free + baleKey b.seq b.chain b.bale)).toNat)

/-- The bale at an address that the part forwards on the present hop: on hop 1 one of the carried set of its own shard, and on a later hop one
that came on the hop before (R21, R23; log 38). -/
def forwardedAt (s : State) (q : Req) (d : CaravanDecl) (a : Nat) : Got (Option BaleName) :=
  if hopNow s = 1 then do
    let t ← kvTable s q d.view
    return (ownBaleAt s q d t a).bind fun b => if carriedFirst s b.1 then some b.2 else none
  else .ok ((s.ring.caravanArea.find? fun b => b.hop + 1 == hopNow s && b.addr == a && carriedOn s b).map fun b => (b.seq, b.chain, b.bale))

/-- Of the bales that lie one after another at an address, those that are forwarded, with their bytes. -/
def forwardedBales (s : State) (q : Req) (d : CaravanDecl) (a : Nat) (bs : List Byte) : Got (List (BaleName × List Byte)) := do
  let size := max 1 d.baleBytes
  let l ← mapGot (fun k => (forwardedAt s q d (a + k * size)).map fun o => o.map fun b => (b, (bs.drop (k * size)).take size))
    (List.range (bs.length / size))
  return l.filterMap id

/-- A BALE message of whole bales of one hop (R276). -/
def baleMessage (s : State) (l : List (BaleName × List Byte)) : Message :=
  let body := l.flatMap fun b => b.2
  { newMessage s 0x10 2 true 0 (hopNow s) (l.length :: l.flatMap fun b => [b.1.1, b.1.2.1, b.1.2.2]) with
      len := ceilDiv body.length 256, plen := body.length, body }

/-- HOP_END (R276). -/
def hopEndMessage (s : State) : Message :=
  newMessage s 0x11 2 true 0 (hopNow s) [hopNow s, s.ring.hopSent.1, s.ring.hopSent.2]

/-! ### What a forwarding stream sends (R21, R22, R28; R276, R299, R301; log 38) -/

/-- The VC on which a KIND 4 stream sends now: WANT in the gating phase, else one of VC 2, 3 and 4, which share their credits. -/
def forwardVc (s : State) : Nat := if inGating s then 5 else 2

/-- The VC of the messages of a slot: that of its MTYPE for KIND 3. -/
def slotVc (s : State) (x : Slot) : Nat :=
  if dKind x.desc = 4 then forwardVc s else if field x.desc 0x36 1 = 0x19 then 6 else 7

/-- The group that the messages of a slot go to: for KIND 4 the tree for want rows, upstream for gradient blocks, else downstream. -/
def slotGroup (s : State) (u : Nat) (x : Slot) : Nat :=
  if dKind x.desc ≠ 4 then unitGroup u
  else if inGating s then 2
  else if dDst x.desc ≠ 0 ∧ !inSurvey s then upGroup s
  else downGroup s

/-- A message with a body. -/
def withBody (m : Message) (addr : Nat) (bs : List Byte) : Message :=
  { m with len := ceilDiv bs.length 256, addr := BitVec.ofNat 48 addr, plen := bs.length, body := bs }

/-- The messages that tile `t` of a KIND 4 stream becomes now, with the group of each; none where the stream waits. Its bytes lie at `a`, and
`dst` is its destination in another part's memory, or 0 for bales. -/
def forwardTile (s : State) (q : Req) (d : CaravanDecl) (t dst a : Nat) (bs : List Byte) : Got (Option (List (Nat × Message))) :=
  let p := ownPosition s
  let h := hopNow s
  if ringLength s ≤ 1 ∨ layersDone s then .ok none
  else if inSurvey s then
    .ok (if (surveyRecords d p).length ≤ s.ring.surveySent then none
      else some [(downGroup s, withBody (newMessage s 0x12 3 true 0 0 [p, s.ring.surveySent]) 0 bs)])
  else if inGating s then
    .ok (((rowsOwed s d)[s.ring.wantsSent]?).map fun r =>
      [(2, withBody (newMessage s 0x18 5 false (s.ring.members.getD r.1 0) 0 [r.1, r.2.2, firstBaleOf d r.1 r.2.1]) dst bs)])
  else if dst ≠ 0 then
    .ok (if h ≤ 1 then none
      else some [(upGroup s, withBody (newMessage s 0x13 4 false (s.ring.members.getD (stepShard s h) 0) h [stepShard s h, t, h - 1]) dst bs)])
  else if ringLength s ≤ h then .ok none
  else
    (forwardedBales s q d a bs).map fun l =>
      some ((chunksOf (max 1 (min 16 (524288 / max 1 d.baleBytes))) l.length l).map fun c => (downGroup s, baleMessage s c))

/-- The ring counts what a tile has sent: survey records, want rows, bales and BALE messages. -/
def noteForwarded (s : State) (bytes : Nat) (l : List (Nat × Message)) (ids : List MsgId) : State :=
  let record := match caravanDecl s with | some d => max 1 d.recordBytes | none => 1
  let bales := (l.map fun e => if e.2.type = 0x10 then e.2.head.headD 0 else 0).sum
  let balesIds := ids.filter fun i => i.vc == 2
  { s with ring := { s.ring with
      surveySent := s.ring.surveySent + if l.any fun e => e.2.type == 0x12 then bytes / record else 0
      wantsSent := s.ring.wantsSent + if l.any fun e => e.2.type == 0x18 then 1 else 0
      hopSent := (s.ring.hopSent.1 + bales, s.ring.hopSent.2 + balesIds.length)
      unacked := s.ring.unacked ++ balesIds.map fun i => i.seq } }

/-! ### The transit tables (07_kv R232) -/

/-- The view root of the transit table of a hop's half of the caravan area. -/
def transitRoot (d : CaravanDecl) (hop : Nat) : Nat := if hop % 2 = 0 then d.transit0 else d.transit1

/-- Every bale entry of a half's table becomes 0. -/
def clearHalf (s : State) (q : Req) (d : CaravanDecl) (hop : Nat) : Got State := do
  let t ← kvTable s q (transitRoot d hop)
  let seqs := (d.shards.map fun r => r.seq).dedup
  let segs := seqs.flatMap fun p => (List.range d.groups).flatMap fun g => (List.range t.nsegmax).map fun k => (p, t.chain0 + g, k)
  foldGot (fun u x =>
    match walkSegment u q t x.1 x.2.1 x.2.2 with
    | .ok seg => uWrite u q seg (List.replicate 32768 0)
    | .error e => if e.1 = codeMissingBale then .ok u else .error e) s segs

/-- The entry of a bale that has arrived on a hop at an address, with its summary from the survey table of its origin. -/
def putTransit (s : State) (q : Req) (d : CaravanDecl) (hop a : Nat) (b : BaleName) : Got State := do
  let t ← kvTable s q (transitRoot d hop)
  let seg ← walkSegment s q t b.1 b.2.1 (b.2.2 / 4096)
  let u ← uWriteNat s q (entryAddr seg b.2.2) 8 (a / 4096 * 4096 + 1)
  match d.surveys.find? fun e => e.1 == stepShard s (hop + 1) with
  | none => return u
  | some e =>
    let ts ← kvTable u q e.2
    let sg ← walkSegment u q ts b.1 b.2.1 (b.2.2 / 4096)
    let r ← uRead u q (summaryAddr ts sg b.2.2) ts.srec
    uWrite u q (summaryAddr t seg b.2.2) r

/-- A bale has landed at an address of the caravan area: the half is cleared before the first of its hop, the entry is written, and the area
keeps the hop in use and the one that arrives (R30). -/
def landBale (s : State) (q : Req) (hop a : Nat) (b : BaleName) : Got State := do
  let u ← match caravanDecl s with
    | none => pure s
    | some d => do
      let c ← if tabGet 0 s.ring.delivered hop = 0 then clearHalf s q d hop else pure s
      putTransit c q d hop a b
  let kept := u.ring.caravanArea.filter fun x => x.hop == hop || x.hop + 1 == hop
  return { u with ring := { u.ring with
    caravanArea := kept ++ [{ hop, seq := b.1, chain := b.2.1, bale := b.2.2, addr := a }]
    delivered := tabMod 0 u.ring.delivered hop fun n => n + 1 } }

end Sys2Proof.Machine
end

