-- ==== Sys2Proof/Machine/StreamTiles.lean ====
section
/-! DEFINITION. The tiles of a stream: their addresses, and the accesses that are outstanding (10_streams R307, R308, R322; 02_package R37). -/

namespace Sys2Proof.Machine

/-- The accesses of a stream: its owner, that owner's partition and context; a stream of no task is not checked. -/
def slotReq (s : State) (x : Slot) : Req :=
  let c := ownerCtx s x.owner
  { owner := x.owner, part := c.map fun c => (s.ctxAt c.val).part.toNat, ctx := c }

/-- The row index of tile `t` of an indexed stream. -/
def rowIndex (s : State) (q : Req) (w : List Byte) (t : Nat) : Got Nat := uReadNat s q ((dIdx w + 8 * t) % 2 ^ 48) 8

/-- The source address of tile `t`. -/
def tileSource (s : State) (q : Req) (w : List Byte) (t : Nat) : Got Nat := do
  let i ← if dKind w = 1 then rowIndex s q w t else pure t
  return (dSrc w + i * dSstride w) % 2 ^ 48

/-- The destination address of tile `t`. -/
def tileDest (s : State) (q : Req) (w : List Byte) (t : Nat) : Got Nat := do
  if dKind w = 2 then
    let i ← rowIndex s q w t
    return (dDst w + i * dDstride w) % 2 ^ 48
  else return (dDst w + (if dSlots w = 0 then t else t % dSlots w) * dDstride w) % 2 ^ 48

/-- A tile has landed in the fetch buffer. -/
def hasLanded (x : Slot) (t : Nat) : Bool := x.landed.any fun e => e.1 == t

/-- An access of `n` bytes at an address touches a window. -/
def touchesWindow (lpd : Bool) (w a n : Nat) : Bool := windowAt a == some (lpd, w) || windowAt (a + n - 1) == some (lpd, w)

/-- A read of a stream that has been issued and has not returned, or a write of it that has not been performed, lies in a window. -/
def slotOutstanding (s : State) (lpd : Bool) (w : Nat) (x : Slot) : Bool :=
  let q := { slotReq s x with waits := false }
  let n := dTileBytes x.desc
  let k := dKind x.desc
  ((List.range (x.issued - x.written)).any fun i =>
    let t := x.written + i
    !hasLanded x t && match tileSource s q x.desc t with | .ok a => touchesWindow lpd w a n | .error _ => false) ||
  (k != 3 && k != 4 && (List.range (x.written - x.performed)).any fun i =>
    match tileDest s q x.desc (x.performed + i) with | .ok a => touchesWindow lpd w a n | .error _ => false)

end Sys2Proof.Machine
end

