-- ==== Sys2Proof/Machine/Waits.lean ====
section
/-! DEFINITION. What a unit that waits on a pair waits for, the deadlines of streams, and which slots want a pair (04_matrix R116; 10_streams
R311, R314, R331). -/

namespace Sys2Proof.Machine

/-- A SEARCH or a SELECT_BALES whose completion signals pair `n` of EC `e`. -/
def drgSignals (s : State) (e n : Nat) : Bool :=
  (List.range 4).any fun p => (macrosOf s p).any fun r =>
    (wOpcode r.word == 0x18 || wOpcode r.word == 0x19) && wSignal r.word && r.issuer.val / 2 == e && wSem r.word == n

/-- The cause for which a stream in RUN that fills a pair is late: semaphore where it waits on its WSEM itself, link credit where a tile that
has landed lacks credits for its message, and else the tier of its oldest unwritten tile; the wait on a WSEM that the dragoman signals is the
dragoman's (08_dragoman R239). -/
def streamCause (s : State) (u : Nat) (x : Slot) : Nat :=
  let w := x.desc
  if x.issued ≤ x.written then
    (if !semNone (dWsem w) && drgSignals s (semEc (dWsem w)) (semNum (dWsem w)) then cntStallDrg else cntStallSem)
  else
    match x.landed.find? fun e => e.1 == x.written with
    | some e =>
      if (dKind w == 3 || dKind w == 4) &&
          decide (tabGet 0 (s.groupAt (slotGroup s u x)).credits (creditVc (slotVc s x)) < 1 + ceilDiv e.2.length 256) then cntStallCredit
      else cntStallSem
    | none =>
      match tileSource s { slotReq s x with waits := false } w x.written with
      | .error _ => cntStallSem
      | .ok a =>
        match regionOf a with
        | .hbm _ => cntStallHbm
        | .lpd _ => cntStallLpd
        | _ => cntStallSem

/-- R331: the cause for which a unit waits on FILL (or FREE) of pair `n` of EC `e`. -/
def pairCause (s : State) (e n : Nat) (free : Bool) : Nat :=
  if free then cntStallSem
  else if drgSignals s e n then cntStallDrg
  else
    match s.slots.find? fun x => x.2.state == 2 && !semNone (dSema x.2.desc) && semEc (dSema x.2.desc) == e && semNum (dSema x.2.desc) == n with
    | some x => streamCause s (x.1 / 64) x.2
    | none => cntStallSem

/-- The first cause in the order of R331 for which a steward of an EC waits on a pair; none where neither waits. -/
def stewardsWait (s : State) (e : Nat) : Option Nat :=
  [2 * e, 2 * e + 1].foldl (fun o k =>
    match (s.stewardAt k).run with
    | .waiting f n free _ _ _ =>
      let c := pairCause s f.val n.val free
      some (match o with | some d => min c d | none => c)
    | _ => o) none

/-! ### Deadlines (R314; 01_caravan R29) -/

/-- Tiles of a stream that are written and that its consumer has not released. -/
def tilesHeld (s : State) (x : Slot) : Nat :=
  let p := dSema x.desc
  x.written - (tabGet 0 (s.ecAt (semEc p)).released (semNum p) - x.releasedBefore)

/-- The deadline of a stream: for a forwarding stream the release of the step plus the declared step length. -/
def slotDeadline (s : State) (x : Slot) : Nat :=
  match (if dKind x.desc = 4 then caravanDecl s else none) with
  | some d => s.ring.released.toNat + d.stepCt
  | none =>
    if dAbsolute x.desc then dDeadline x.desc
    else
      let p := dSema x.desc
      let rel := match (s.ecAt (semEc p)).releases.find? fun e => e.1 == semNum p with
        | some e => e.2.toNat
        | none => x.armedAt.toNat
      rel + tilesHeld s x * dDeadline x.desc

/-! ### The order of acquisitions (R311) -/

/-- Issue is held on a unit by a supply warning or an emergency (14_power R422). -/
def unitHeld (s : State) (u : Nat) : Bool := supplyHold s (if u < 128 then ecDie u else 4)

/-- A slot of a unit asks for FILL (or FREE) of a pair now: for its next read, or for a tile that has landed and that it may write or send. -/
def slotAsks (s : State) (u i e n : Nat) (free : Bool) : Bool :=
  let x := s.slotAt u i
  let p := if free then dSema x.desc else dWsem x.desc
  let k := dKind x.desc
  x.state == 2 && !semNone p && semEc p == e && semNum p == n && k != 5 &&
    if free then
      match x.landed.find? fun t => t.1 == x.written with
      | none => false
      | some t => (k != 3 && k != 4) || canSend s (slotGroup s u x) (slotVc s x) (1 + ceilDiv t.2.length 256) (slotDeadline s x) u i
    else !unitHeld s u && decide (x.issued < dTiles x.desc) && decide (x.issued < x.written + 4)

/-- The wait of a stream of an EC on a WSEM that a dragoman completion signals counts as a dragoman wait (08_dragoman R239). -/
def countDrgWait (s : State) (u : Nat) (p : BitVec 16) : State :=
  if u < 128 && !semNone p && drgSignals s (semEc p) (semNum p) then bumpEc s u cntStallDrg else s

/-- The first of an EC's own slots that asks for a count of its pair. -/
def slotWants (s : State) (e n : Nat) (free : Bool) : Option Nat := (List.range 64).find? fun i => slotAsks s e i e n free

end Sys2Proof.Machine
end

