-- ==== Sys2Proof/Machine/StewardSys.lean ====
section
/-! DEFINITION. The steward's system instructions: control registers, traps, semaphores, tempo points, die-scope barriers
and the issue of command words (11_steward R338, R343 to R359). -/

namespace Sys2Proof.Machine

/-! ### Control registers (R338) -/

/-- STATUS. -/
def statusOf (x : Steward) : Word64 :=
  BitVec.ofNat 64 (atBit x.inTrap 7 + atBit x.eie 6 + 16 * x.ppl.toNat + x.pl.toNat)
/-- SID. -/
def sidOf (st : Fin 264) : Word64 :=
  BitVec.ofNat 64 (if st.val < 256 then 16 * (st.val / 2) + st.val % 2 else 2 ^ 31 + (st.val - 256))
/-- PCTX. -/
def pctxOf (x : Steward) : Word64 := BitVec.ofNat 64 (65536 * x.part.toNat + atBit x.bound 8 + x.ctx.toNat)

/-- A control register's value, without any check. -/
def crValue (s : State) (st : Fin 264) (n : Nat) : Word64 :=
  let x := s.stewardAt st.val
  match n with
  | 0 => statusOf x
  | 1 => x.tvec
  | 2 => x.tpc
  | 3 => x.tcause.setWidth 64
  | 4 => x.tval
  | 5 => x.sscratch
  | 6 => sidOf st
  | 7 => pctxOf x
  | 8 => x.cycle
  | 9 => x.instret
  | 10 => x.tpoint
  | 11 => x.issued
  | 12 => x.retired
  | 13 => (eventBits s x).setWidth 64
  | 14 => x.evmask.setWidth 64
  | 15 => x.timecmp
  | 16 => fvecOf s x
  | 17 => x.fscratch
  | _ => 0

/-- A level may read a control register. -/
def crReadable (pl n : Nat) : Bool :=
  if 2 ≤ pl then true else if pl = 1 then decide (n < 16) else n == 0 || (decide (6 ≤ n) && decide (n < 16))

/-- A CRW takes the privilege fault. -/
def crWriteFaults (pl n : Nat) : Bool := if 2 ≤ pl then false else if pl = 1 then decide (16 ≤ n) else n != 15

/-- A level may change a control register; a write of any other is ignored. -/
def crWritable (pl n : Nat) : Bool :=
  if pl = 0 then n == 15
  else [0, 1, 2, 5, 10, 13, 14, 15].contains n || (decide (2 ≤ pl) && [7, 16, 17].contains n)

/-- A field that names a level takes no reserved code (R335; log 27). -/
def levelField (old new : BitVec 2) : BitVec 2 := if new = 3 then old else new

/-- A control register takes a value by the access types of its fields. -/
def crStore (x : Steward) (n : Nat) (v : Word64) : Steward :=
  match n with
  | 0 =>
    let pl := v.extractLsb' 0 2
    { x with eie := v.getLsbD 6, ppl := levelField x.ppl (v.extractLsb' 4 2), pl := if pl.toNat ≤ x.pl.toNat then pl else x.pl }
  | 1 => { x with tvec := v &&& 0x0000FFFFFFFFFFFC }
  | 2 => { x with tpc := v }
  | 5 => { x with sscratch := v }
  | 7 => { x with part := v.extractLsb' 16 3, bound := v.getLsbD 8, ctx := v.extractLsb' 0 6 }
  | 10 => { x with tpoint := v }
  | 13 => { x with mail := x.mail && !v.getLsbD 3, doorbell := x.doorbell && !v.getLsbD 0 }
  | 14 => { x with evmask := v.extractLsb' 0 4 }
  | 15 => { x with timecmp := v }
  | 16 => { x with fvec := some (v &&& 0x0000FFFFFFFFFFFC) }
  | 17 => { x with fscratch := v }
  | _ => x

/-- CRR. -/
def execCrr (st : Fin 264) (rd cr : BitVec 5) (s : State) : Answer :=
  let x := s.stewardAt st.val
  if !stewardReady s st then .next s
  else if 18 ≤ cr.toNat then .next (stewardFault s st 0x2002 (wordOf (.crr st rd cr)))
  else if !crReadable x.pl.toNat cr.toNat then .next (stewardFault s st 0x2003 (wordOf (.crr st rd cr)))
  else computeReg s st rd (crValue s st cr.toNat) (some 1)

/-- CRW. -/
def execCrw (st : Fin 264) (ra cr : BitVec 5) (s : State) : Answer :=
  let x := s.stewardAt st.val
  if !stewardReady s st then .next s
  else if 18 ≤ cr.toNat then .next (stewardFault s st 0x2002 (wordOf (.crw st ra cr)))
  else if crWriteFaults x.pl.toNat cr.toNat then .next (stewardFault s st 0x2003 (wordOf (.crw st ra cr)))
  else
    let t := if crWritable x.pl.toNat cr.toNat then s.setSteward st.val (crStore x cr.toNat (x.reg ra)) else s
    .next (retireNext t st.val none)

/-- CTIME. -/
def execCtime (st : Fin 264) (rd : BitVec 5) (s : State) : Answer := computeReg s st rd s.time (some 2)

/-! ### FENCE, steward data memory (R344) -/

/-- FENCE: loads return before the instruction after them starts, so only stores are waited for. -/
def execFence (st : Fin 264) (loads stores : Bool) (s : State) : Answer :=
  whenEnabled (stewardReady s st && (!stores || (s.stewardAt st.val).stores.isEmpty) && (loads || true)) s (retireNext s st.val none)

/-- The address of LDM and STM. -/
def dataAddr (s : State) (st : Fin 264) (ra : BitVec 5) (imm : BitVec 16) : Nat := (regOf s st ra + sext16 imm).toNat
/-- The condition of LDM and STM. -/
def dataOk (a : Nat) : Bool := a % 8 == 0 && decide (a < 65536)

/-- LDM. -/
def execLdm (st : Fin 264) (rd ra : BitVec 5) (imm : BitVec 16) (s : State) : Answer :=
  let a := dataAddr s st ra imm
  if !stewardReady s st then .next s
  else if !dataOk a then .next (stewardFault s st 0x2005 a)
  else computeReg s st rd (BitVec.ofNat 64 (leNat (cellsRead (s.stewardAt st.val).dataMemory a 8))) (some 2)

/-- STM. -/
def execStm (st : Fin 264) (rs ra : BitVec 5) (imm : BitVec 16) (s : State) : Answer :=
  let a := dataAddr s st ra imm
  if !stewardReady s st then .next s
  else if !dataOk a then .next (stewardFault s st 0x2005 a)
  else
    let x := s.stewardAt st.val
    .next (retireNext (s.setSteward st.val { x with dataMemory := cellsWrite x.dataMemory a (natLe 8 (x.reg rs).toNat) }) st.val (some 2))

/-! ### Traps and faults (R354 to R359) -/

/-- The instruction starts, and no earlier store is outstanding (R344 rule 5). -/
def fenced (s : State) (st : Fin 264) : Bool := stewardReady s st && (s.stewardAt st.val).stores.isEmpty

/-- TRET. -/
def execTret (st : Fin 264) (s : State) : Answer :=
  let x := s.stewardAt st.val
  if !stewardReady s st then .next s
  else if x.pl = 0 then .next (faultWord s st 0x2003 (.tret st))
  else if x.tpc.toNat % 4 ≠ 0 then .next (stewardFault s st 0x2004 x.tpc.toNat)
  else .next (retireTo (s.setSteward st.val { x with pl := x.ppl, inTrap := false }) st.val none x.tpc)

/-- SCALL. -/
def execScall (st : Fin 264) (s : State) : Answer :=
  let x := s.stewardAt st.val
  if !stewardReady s st then .next s
  else if x.pl = 0 ∨ (x.pl = 1 ∧ isHub st) then
    whenEnabled (fenced s st) s (instructionTrap s st 1 (wordOf (.scall st)))
  else .next (faultWord s st 0x2002 (.scall st))

/-- IDLE: the steward goes on at once when an enabled event is pending. -/
def execIdle (st : Fin 264) (s : State) : Answer :=
  if !stewardReady s st then .next s
  else
    let t := retireNext s st.val none
    let x := t.stewardAt st.val
    .next (if eventMasked t x then t else t.setSteward st.val { x with run := .idle })

/-- The code that FAULT ends a task with (R359). -/
def faultCode (v : Word64) : Code :=
  let c := v.setWidth 16
  if Code.cls c = 2 ∧ c ≠ 0x2000 then c else 0x2007

/-- FAULT. -/
def execFault (st : Fin 264) (ra : BitVec 5) (s : State) : Answer :=
  whenEnabled (fenced s st) s (faultWord s st (faultCode (regOf s st ra)) (.fault st ra))

/-- ILLEGAL_INSTRUCTION. -/
def execIllegalInstruction (st : Fin 264) (word : BitVec 32) (s : State) : Answer :=
  whenEnabled (stewardReady s st && (decodeSteward st word).isNone) s (stewardFault s st 0x2002 word.toNat)

/-- EVENT_TRAP: before the next instruction starts (R354). -/
def execEventTrap (st : Fin 264) (s : State) : Answer := whileClocked s <|
  let x := s.stewardAt st.val
  whenEnabled (unitClocked s (st.val / 2) && x.run == .running && !debugStopped s st && eventTrapDue s x && x.stores.isEmpty) s (serviceTrap s st 5 0)

/-- TIMER: EVENT.TIMER reads 1 from TIMECMP on; a steward in IDLE that it is enabled for goes on (R338, R356). -/
def execTimer (st : Fin 264) (s : State) : Answer := whileClocked s <|
  whenEnabled (reached s (s.stewardAt st.val).timecmp && !debugStopped s st) s (wakeIdle s st.val)

/-! ### Semaphore instructions (R348 to R351) -/

/-- The EC of a pair operand. -/
def pairEc (st : Fin 264) (p : BitVec 16) : Nat := if p.getLsbD 14 then st.val / 2 else (p.extractLsb' 7 7).toNat
/-- The pair of a pair operand. -/
def pairNum (p : BitVec 16) : Nat := (p.extractLsb' 0 6).toNat
/-- A pair operand is legal for a steward (R340, R348). -/
def pairLegal (st : Fin 264) (p : BitVec 16) : Bool := pairReservedOk p && !(p.getLsbD 14 && isHub st)
/-- The EC of a pair lies in the partition that bounds the steward; at F nothing is checked. -/
def pairAllowed (s : State) (st : Fin 264) (p : BitVec 16) : Bool :=
  match stewardPartition s st with
  | none => true
  | some q => partHasEc s q (pairEc st p)

/-- A steward waits on pair `n` of EC `e`. -/
def waitsOn (x : Steward) (e n : Nat) : Bool :=
  match x.run with
  | .waiting ec pair _ _ _ _ => ec.val == e && pair.val == n
  | _ => false

/-- R350: MAIL of every other steward that waits on the pair. -/
def mailWaiters (s : State) (st : Fin 264) (e n : Nat) : State :=
  ((List.range 264).filter fun k => k != st.val && waitsOn (s.stewardAt k) e n).foldl setMail s

/-- SIGNAL (or RELEASE) of a pair by a steward. -/
def pairInstruction (s : State) (st : Fin 264) (ra : BitVec 5) (p : BitVec 16) (free : Bool) (word : Nat) : State :=
  if !pairLegal st p then stewardFault s st 0x2002 word
  else if !pairAllowed s st p then stewardFault s st 0x4005 p.toNat
  else
    let amount := if ra = 0 then 1 else (regOf s st ra).toNat
    let r := pairIncrease s (pairEc st p) (pairNum p) free amount
    if r.2 then stewardFault r.1 st 0x4009 p.toNat
    else retireNext (mailWaiters r.1 st (pairEc st p) (pairNum p)) st.val none

/-- SIGNAL. -/
def execSignal (st : Fin 264) (ra : BitVec 5) (pair : BitVec 16) (s : State) : Answer :=
  whenEnabled (fenced s st) s (pairInstruction s st ra pair false (wordOf (.signal st ra pair)))

/-- RELEASE. -/
def execRelease (st : Fin 264) (ra : BitVec 5) (pair : BitVec 16) (s : State) : Answer :=
  whenEnabled (fenced s st) s (pairInstruction s st ra pair true (wordOf (.release st ra pair)))

/-- A wait ends: rd receives its result, and the instruction retires. -/
def endWait (s : State) (st : Nat) (rd : BitVec 5) (v : Word64) : State :=
  retireNext (s.modSteward st fun x => { x with run := .running }.setReg rd v) st none

/-- A steward waits on the same count of a pair. -/
def countWaiter (x : Steward) (e n : Nat) (free : Bool) : Bool :=
  match x.run with
  | .waiting ec pair f _ _ _ => ec.val == e && pair.val == n && f == free
  | _ => false

/-- A pair operand's EC as a number of an EC. -/
def ecOfNat (n : Nat) : Fin 128 := ⟨n % 128, Nat.mod_lt n (by decide)⟩

/-- WAIT (or WAITF): it acquires at once where the count allows it and nothing comes before it: no steward that waits, and for a steward from
elsewhere no stream slot of the pair's EC (R311). Otherwise it begins to wait, which counts as a cycle under its cause (10_streams R331). -/
def waitInstruction (s : State) (st : Fin 264) (rd ra : BitVec 5) (p : BitVec 16) (free : Bool) (word : Nat) : State :=
  if !pairLegal st p then stewardFault s st 0x2002 word
  else if !pairAllowed s st p then stewardFault s st 0x4005 p.toNat
  else
    let e := pairEc st p
    let n := pairNum p
    let wait := s.modSteward st.val fun x =>
      { x with run := .waiting (ecOfNat e) ⟨n, (p.extractLsb' 0 6).isLt⟩ free rd s.time (x.reg ra) }
    let wait := if st.val < 256 then bumpEc wait (st.val / 2) (pairCause s e n free) else wait
    if ((List.range 264).any fun k => k != st.val && countWaiter (s.stewardAt k) e n free) || (st.val / 2 != e && (slotWants s e n free).isSome) then wait
    else match pairTake s e n free with
      | some t => endWait t st.val rd 0
      | none => wait

/-- WAIT. -/
def execWait (st : Fin 264) (rd ra : BitVec 5) (pair : BitVec 16) (s : State) : Answer :=
  whenEnabled (stewardReady s st) s (waitInstruction s st rd ra pair false (wordOf (.wait st rd ra pair)))

/-- WAITF. -/
def execWaitf (st : Fin 264) (rd ra : BitVec 5) (pair : BitVec 16) (s : State) : Answer :=
  whenEnabled (stewardReady s st) s (waitInstruction s st rd ra pair true (wordOf (.waitf st rd ra pair)))

/-- The count that a wait is for. -/
def countOf (s : State) (e n : Nat) (free : Bool) : BitVec 16 := if free then (pairAt s e n).2 else (pairAt s e n).1

/-- WAIT_TIMEOUT: an acquisition in the same cycle wins. -/
def execWaitTimeout (st : Fin 264) (s : State) : Answer := whileClocked s <|
  match (s.stewardAt st.val).run with
  | .waiting e n free rd since timeout =>
    whenEnabled (timeout != 0 && decide (since.toNat + timeout.toNat ≤ s.time.toNat) && countOf s e.val n.val free == 0 &&
      !debugStopped s st) s (endWait s st.val rd 1)
  | _ => .next s

/-- When a waiter on a pair began, for the order of arrival. -/
def waitSince (x : Steward) : Nat := match x.run with | .waiting _ _ _ _ t _ => t.toNat | _ => 0

/-- A steward that Mladkin does not hold waits on a count of a pair. -/
def stewardAsks (s : State) (e n : Nat) (free : Bool) (k : Nat) : Bool := countWaiter (s.stewardAt k) e n free && !ecStopped s (k / 2)

/-- A steward of another EC or of the hub waits on the count: it has arrived before a request that is made now (R311; log 74). -/
def otherStewardWaits (s : State) (e n : Nat) (free : Bool) : Bool := (List.range 264).any fun k => k / 2 != e && stewardAsks s e n free k

/-- The steward from elsewhere that has waited longest. -/
def firstOther (s : State) (e n : Nat) (free : Bool) : Option Nat :=
  ((List.range 264).filter fun k => stewardAsks s e n free k && k != 2 * e && k != 2 * e + 1).foldl (fun o k =>
    match o with
    | none => some k
    | some j => if waitSince (s.stewardAt k) < waitSince (s.stewardAt j) then some k else some j) none

/-- The first steward of the pair's EC that waits on the count: it is served before any stream (R311). -/
def ownStewardWaits (s : State) (e n : Nat) (free : Bool) : Option Nat := [2 * e, 2 * e + 1].find? (stewardAsks s e n free)

/-- R311, R349: the steward that acquires next: steward 0 and 1 of the EC, and, where none of the EC's stream slots asks, the others in the
order of arrival. -/
def nextAcquirer (s : State) (e n : Nat) (free : Bool) : Option Nat :=
  match ownStewardWaits s e n free with
  | some k => some k
  | none =>
    if (slotWants s e n free).isSome then none else firstOther s e n free

/-- A cycle of a steward's wait on a pair, under the first cause that holds (10_streams R331). -/
def countPairWait (s : State) (e n : Nat) (free : Bool) (k : Option Nat) : State :=
  match k with
  | some k => if k < 256 then bumpEc s (k / 2) (min (pairCause s e n free) ((stewardsWait s (k / 2)).getD cntStallLpd)) else s
  | none => s

/-- SEMAPHORE_ACQUIRE: the next in order acquires, or the steward that waits counts a cycle. -/
def execSemaphoreAcquire (ec : Fin 128) (pair : Fin 64) (free : Bool) (s : State) : Answer := whileClocked s <|
  match nextAcquirer s ec.val pair.val free with
  | none => .next (countPairWait s ec.val pair.val free (firstOther s ec.val pair.val free))
  | some k =>
    match (s.stewardAt k).run, pairTake s ec.val pair.val free with
    | .waiting _ _ _ rd _ _, some t => .next (endWait t k rd 0)
    | _, _ => .next (countPairWait s ec.val pair.val free (some k))

/-! ### TEMPO (R352) -/

/-- The tempo-point table of the steward's context holds point `n` for this pc. -/
def tempoOk (s : State) (st : Fin 264) (n : Nat) : Bool :=
  let x := s.stewardAt st.val
  isHub st || x.pl.toNat ≥ 2 ||
    match stewardCtx s st with
    | some c => (s.ctxAt c.val).tempo.any fun e => e.pc == x.pc.toNat && e.point == n
    | none => false

/-- TEMPO. -/
def execTempo (st : Fin 264) (point : BitVec 16) (s : State) : Answer :=
  let x := s.stewardAt st.val
  if !stewardReady s st then .next s
  else if !tempoOk s st point.toNat then .next (faultWord s st 0x2008 (.tempo st point))
  else
    let y := { x with tpoint := point.setWidth 64 }
    if x.tempoReq ∧ x.pl = 0 then
      if x.stores ≠ [] then .next s
      else if x.inTrap then .next (faultWord s st 0x2003 (.tempo st point))
      else
        let t := instructionTrap (s.setSteward st.val y) st 4 (wordOf (.tempo st point))
        .next (if isHub st then t else t.modEc (st.val / 2) fun c => { c with tempoHold := true })
    else .next (retireNext (s.setSteward st.val y) st.val (some 1))

/-! ### MISSUE and MFENCE (R345 to R347) -/

/-- MFENCE: an attempt that waits counts as semaphore on the steward's EC (R346; 10_streams R331). -/
def execMfence (st : Fin 264) (s : State) : Answer :=
  let x := s.stewardAt st.val
  if !stewardReady s st then .next s
  else if x.retired = x.issued then .next (retireNext s st.val none)
  else .next (if isHub st then s else bumpEc s (st.val / 2) cntStallSem)

/-- An ordering command of R355. -/
def isOrdering (w : List Byte) : Bool := decide (0x20 ≤ wOpcode w) && decide (wOpcode w ≤ 0x23)

/-- What R345 rule 2 and R347 refuse at MISSUE; an opcode outside both tables is refused too (log 28). -/
def issueRefused (st : Fin 264) (w : List Byte) : Bool :=
  let op := wOpcode w
  if op = 0 ∨ 0x24 ≤ op then true
  else
    (decide (op < 0x20) && (wCompl w % 2 ^ 48 == 0 || wCompl w % 16 != 0)) ||
    (isHub st && (decide (8 ≤ wCrew w) ||
      (([0x10, 0x11, 0x12] : List Nat).contains op && (crewUnits 4 w).length != 1) ||
      (isOrdering w && (crewUnits 4 w).isEmpty) ||
      (isOrdering w && bit (field w 2 2) 14) ||
      (decide (op < 0x20) && wSignal w)))

/-- The command reaches the sequencers: the crew check of R157 on a die, the opcodes of R346 on the hub. -/
def issueAccepted (s : State) (st : Fin 264) (w : List Byte) : Bool :=
  let port := (stewardPort st).val
  if port = 4 then isOrdering w || ([0x10, 0x11, 0x12] : List Nat).contains (wOpcode w)
  else
    (crewUnits port w) != [] &&
      match stewardCtx s st with
      | some c => (crewUnits port w).all fun e => (s.ctxAt c.val).footprint.any fun f => f.val == e
      | none => false

/-- Every queue that the command enters has room (R345 rule 4). -/
def issueRoom (s : State) (st : Fin 264) (w : List Byte) : Bool :=
  let port := (stewardPort st).val
  !issueAccepted s st w || (crewUnits port w).all fun u => decide ((queueOf s u).length < 4)

/-- A command that has entered its queues waits for one of the dragoman's places (08_dragoman R234). -/
def waitsForPlace (s : State) (port acc : Nat) : Bool := decide (port < 4) && (drgUnplaced (s.dieAt port)).contains acc

/-- The number of words that a port has accepted. -/
def acceptedOf (s : State) (port : Nat) : Nat := if port < 4 then (s.dieAt port).accepted else s.hubAccepted

/-- One more word is accepted. -/
def acceptNext (s : State) (port : Nat) : State :=
  if port < 4 then s.modDie port fun d => { d with accepted := d.accepted + 1 } else { s with hubAccepted := s.hubAccepted + 1 }

/-- A word is accepted (R120 of 05_macro, R345, R347): a command that fails its check completes with `0x2001` and reaches
no queue; an ordering command that fails it has no record and is done. The failed check is logged (00_scope R17). `a` is the word's
address. -/
def acceptWord (s : State) (st : Fin 264) (a : Nat) (w : List Byte) : State :=
  let port := stewardPort st
  let acc := acceptedOf s port.val + 1
  let t := (acceptNext s port.val).modSteward st.val fun x => { x with issued := x.issued + 1 }
  let r : MacroRec := { acc, issuer := st, ctx := stewardCtx s st, word := w, addr := a }
  if issueAccepted s st w then
    let t := setMacros t port.val (macrosOf t port.val ++ [r])
    let t := (crewUnits port.val w).foldl (fun u e => setQueueOf u e (queueOf u e ++ [{ port, acc, started := false }])) t
    if drgCommand w ∧ port.val < 4 then drgPlace t port.val else t
  else
    let t := logCommand t port.val r 0x2001
    if isOrdering w then retire t st.val
    else setMacros t port.val (macrosOf t port.val ++ [{ macroFault t r 0x2001 with armed := true, finished := true }])

/-- A command word lies in the home die cache on the steward's own die (R334). -/
def wordNear (s : State) (st : Fin 264) (a : Nat) : Bool :=
  match homeDie s a with
  | some d => decide (st.val / 64 = d) && (s.dieAt d).cache.any fun l => l.1 == a / 128
  | none => false

/-- The address of a load, store or MISSUE: ra + imm, bits [63:48] ignored. -/
def stewardAddr (s : State) (st : Fin 264) (ra : BitVec 5) (imm : BitVec 16) : Nat := addr48 (regOf s st ra + sext16 imm)

/-- A MISSUE that waits for a place of the dragoman ends when its command has one. -/
def placingStep (s : State) (st : Fin 264) (rd : BitVec 5) (acc : Nat) : State :=
  if !coreClocks s || !unitClocked s (st.val / 2) || debugStopped s st || waitsForPlace s (stewardPort st).val acc then s
  else retireNext (s.modSteward st.val fun x => { x with run := .running }.setReg rd x.issued) st.val none

/-- MISSUE. -/
def execMissue (st : Fin 264) (rd ra : BitVec 5) (imm : BitVec 16) (s : State) : Answer :=
  let a := stewardAddr s st ra imm
  match (s.stewardAt st.val).run with
  | .placing rd acc => .next (placingStep s st rd acc)
  | _ =>
  if !fenced s st then .next s
  else if supplyHold s (st.val / 64) then .next (countStewardSupply s st.val)
  else if a % 64 ≠ 0 then .next (stewardFault s st 0x2004 a)
  else
    match rangeFault s (stewardPartition s st) a 64 false with
    | some f => .next (stewardMemFault s st f)
    | none =>
      let w := unitBytes s (stewardCtx s st) a 64
      if windowHeld s a then .next (countStewardHeld s st.val a)
      else if issueRefused st w then .next (faultWord s st 0x2001 (.missue st rd ra imm))
      else if !issueRoom s st w then .next s
      else
        let t := acceptWord (countBlocked (spanUse s (stewardPartition s st) false a 64 false).2 (stewardCtx s st) a) st a w
        let acc := acceptedOf t (stewardPort st).val
        if waitsForPlace t (stewardPort st).val acc then .next (t.modSteward st.val fun x => { x with run := .placing rd acc })
        else
          let t := t.modSteward st.val fun x => x.setReg rd x.issued
          .next (retireNext t st.val (if wordNear s st a then some 36 else none))

/-! ### Die-scope BARRIER (R353) -/

/-- The key of a barrier: die, context, ID and the steward of each EC that takes part; words that differ in STW alone name two barriers. -/
def barrierKey (die ctx id stw : Nat) : Nat := 2 * ((die * 64 + ctx) * 64 + id) + stw
/-- The stewards that wait at a barrier. -/
def barrierAt (s : State) (key : Nat) : DieBarrier := tabGet { word := 0, arrived := [] } s.dieBarriers key
/-- The stewards that a die-scope word names. -/
def barrierParts (die : Nat) (w : Word64) : List Nat :=
  ((List.range 32).filter fun i => w.getLsbD i).map fun i => 2 * (32 * die + i) + (if w.getLsbD 38 then 1 else 0)

/-- A number as a steward. -/
def stewardOf (n : Nat) : Fin 264 := ⟨n % 264, Nat.mod_lt n (by decide)⟩

/-- A die-scope word is misused by its issuer; so is a barrier of a steward that no context is bound to (log 29). -/
def dieBarrierMisuse (s : State) (st : Fin 264) (w : Word64) : Bool :=
  w.extractLsb' 39 23 != 0 || isHub st || (stewardCtx s st).isNone || !(barrierParts (st.val / 64) w).contains st.val

/-- Barrier misuse in a steward that is not the last to raise it: its record, its registers, and it stops (R358; 00_scope R17). -/
def noteMisuse (s : State) (st : Fin 264) : State :=
  (logWrite s (faultRec s (.task st) 0x2006 (s.stewardAt st.val).pc.toNat)).modSteward st.val fun x => { x with tpc := x.pc, tcause := 0x20060000, tval := 0, run := .halted }

/-- A participant that waits under the same ID names another mask. -/
def otherMask (w : Word64) (b : DieBarrier) : Bool := b.arrived != [] && b.word.extractLsb' 0 32 != w.extractLsb' 0 32

/-- A steward arrives at a die-scope barrier; another mask under the same ID is misuse in all who wait under it. -/
def dieBarrierArrive (s : State) (st : Fin 264) (rd : BitVec 5) (w rb : Word64) (word : Nat) : State :=
  match stewardCtx s st with
  | none => stewardFault s st 0x2006 word
  | some c =>
    let d := st.val / 64
    let id := (w.extractLsb' 32 6).toNat
    let keys := [barrierKey d c.val id 0, barrierKey d c.val id 1]
    if keys.any fun k => otherMask w (barrierAt s k) then
      let t := keys.foldl (fun u k => (barrierAt s k).arrived.foldl (fun v a => noteMisuse v a.1) u) s
      stewardFault { t with dieBarriers := keys.foldl tabErase t.dieBarriers } st 0x2006 word
    else
      let key := barrierKey d c.val id (if w.getLsbD 38 then 1 else 0)
      { s with dieBarriers := tabSet s.dieBarriers key { word := w, arrived := (barrierAt s key).arrived ++ [(st, rb)] } }.modSteward st.val
        fun x => { x with run := .dieBarrier ⟨d % 4, Nat.mod_lt d (by decide)⟩ ⟨id, (w.extractLsb' 32 6).isLt⟩ rd }

/-- Every steward that the word names has arrived, none of them held by Mladkin (16_counters R462), and caravan time is at least the largest
rb. -/
def barrierDue (s : State) (die : Nat) (b : DieBarrier) : Bool :=
  b.arrived != [] && ((barrierParts die b.word).all fun k => b.arrived.any fun a => a.1.val == k) &&
    b.arrived.all fun a => reached s a.2 && !debugStopped s a.1

/-- The barrier of a key releases all who wait at it, if it is due. -/
def releaseBarrier (s : State) (die key : Nat) : State :=
  let b := barrierAt s key
  if barrierDue s die b then
    b.arrived.foldl (fun t a =>
      match (t.stewardAt a.1.val).run with
      | .dieBarrier _ _ rd => endWait t a.1.val rd 0
      | _ => t) { s with dieBarriers := tabErase s.dieBarriers key }
  else s

/-- DIE_BARRIER_RELEASE: the barriers of a context and ID that are due. -/
def execDieBarrierRelease (die : Fin 4) (ctx id : Fin 64) (s : State) : Answer := whileClocked s <|
  .next ([0, 1].foldl (fun t stw => releaseBarrier t die.val (barrierKey die.val ctx.val id.val stw)) s)

end Sys2Proof.Machine
end

