-- ==== Sys2Proof/Machine/RingCaravan.lean ====
section
/-! DEFINITION. Partner discovery, the ring, caravan time over the links and ring barriers (01_caravan R19 to R32; 09_route R283 to R298). -/

namespace Sys2Proof.Machine

/-! ### Ring formation (R287, R288) -/

/-- The entry of the membership table at position `k`. -/
def memberEntry (s : State) (k : Nat) : BitVec 16 :=
  let w := tabGet 0 s.ring.table (k / 2)
  if k % 2 = 0 then w.extractLsb' 0 16 else w.extractLsb' 16 16

/-- The ring hash of the members being formed. -/
def ringHash (id : BitVec 16) (members : List (BitVec 16)) : Word64 :=
  members.foldl (fun h m => mix64 (h ^^^ m.setWidth 64)) (mix64 (BitVec.ofNat 64 (id.toNat + members.length * 2 ^ 16)))

/-- A group has an UP port with the required partner location. -/
def groupFaces (s : State) (g : Nat) (loc : BitVec 16) : Bool := (upPorts s g).any fun n => (s.portAt n).loc == loc

/-- R288 step 2: the downstream group, once both ring groups have UP ports with the required partners. -/
def findDirections (s : State) : Option Nat :=
  let l := s.ring.members.length
  let p := s.ring.position.toNat
  let up := s.ring.members.getD ((p + l - 1) % max l 1) 0
  let down := s.ring.members.getD ((p + 1) % max l 1) 0
  if l = 2 then
    if !(groupFaces s 0 up && groupFaces s 1 up) then none
    else if p = 0 then some 0
    else
      -- position 1: upstream is its group whose partner group is position 0's group A
      let facesA := fun (g : Nat) => (upPorts s g).any fun n => (s.portAt n).loc == up && (s.portAt n).pgroup == 0
      if facesA 0 then some 1 else if facesA 1 then some 0 else none
  else if groupFaces s 0 down ∧ groupFaces s 1 up then some 0
  else if groupFaces s 1 down ∧ groupFaces s 0 up then some 1
  else none

/-- The ring's registers become `r`; a change of STATE raises vector 2 (13_host R404). -/
def setRing (s : State) (r : Ring) : State :=
  let t := { s with ring := r }
  if s.ring.state = r.state then t else raiseVector t 2

/-- Each ring group keeps the partner that it faces (R289). -/
def notePartners (s : State) : State :=
  ([0, 1] : List Nat).foldl (fun t g =>
    t.setGroup g { t.groupAt g with
      partner := (upPorts t g).head?.map fun n => ((t.portAt n).loc, (t.portAt n).digest), changed := false, lostSince := none }) s

/-- The ring becomes FORMED: its barriers count from 0. -/
def becomeFormed (s : State) : State :=
  let t := notePartners s
  setRing t { t.ring with
    state := 2, code := 0, formedId := t.ring.ringId, barrier := 0, arrivals := [], arrived := false, detection := none,
    step := 0, layer := 0, finalRelease := none, released := t.time }

/-- The ring becomes FAILED with a code, which is logged (00_scope R17). -/
def becomeFailed (s : State) (code : Code) : State := let t := logGroup s (upGroup s) code; setRing t { t.ring with state := 4, code }

/-- R288 step 4: a RING_CHECK from upstream decides. -/
def decideCheck (s : State) (h : Nat) : State :=
  if h = (ringHash s.ring.ringId s.ring.members).toNat then becomeFormed s else becomeFailed s 0x3004

/-- R288 steps 2 to 4: RING_CHECK is sent once the directions are known. -/
def tryCheck (s : State) : State :=
  if s.ring.state ≠ 1 ∨ s.ring.checkSent then s
  else
    match findDirections s with
    | none => s
    | some g =>
      let t := { s with ring := { s.ring with downGroup := g == 1, checkSent := true, formingSince := s.time } }
      let t := send t g { newMessage t 0x02 0 true 0 0 [(ringHash t.ring.ringId t.ring.members).toNat] with ring := t.ring.ringId }
      match t.ring.checkGot.find? fun e => e.1 == 1 - g with
      | some e => decideCheck t e.2
      | none => t

/-- REFORM. -/
def ringReform (s : State) : State :=
  if s.ring.state = 1 then s
  else if s.ring.task.isSome then { s with ring := { s.ring with code := 0x3008 } }
  else
    let l := s.ring.len.toNat
    let ms := (List.range l).map fun k => memberEntry s k
    if l < 1 ∨ 1024 < l ∨ !decide ms.Nodup ∨ !ms.contains (ownLoc s) then becomeFailed s 0x3002
    else
      let p := ms.findIdx fun m => m == ownLoc s
      let t := setRing s { s.ring with
        members := ms, position := BitVec.ofNat 10 p, state := 1, code := 0, formingSince := s.time, checkSent := false, checkGot := [] }
      if l = 1 then becomeFormed t else tryCheck t

/-- LEAVE. -/
def ringLeave (s : State) : State :=
  if s.ring.state = 1 then s
  else if s.ring.task.isSome then { s with ring := { s.ring with code := 0x3008 } }
  else setRing s { s.ring with state := 0 }

/-- RL_RING_CTL; with both bits set the ring is left and then formed (log 32). -/
def ringCtlWrite (s : State) (v : Reg32) : State :=
  let t := if v.getLsbD 30 then ringLeave s else s
  if v.getLsbD 31 then ringReform t else t

/-- RL_RING_MEMk and RL_RING_CFG are kept while the ring is FORMING. -/
def ringMemWrite (s : State) (k : Nat) (v : Reg32) : State :=
  if s.ring.state = 1 then s else { s with ring := { s.ring with table := tabSet s.ring.table k v } }
def ringCfgWrite (s : State) (v : Reg32) : State :=
  if s.ring.state = 1 then s
  else { s with ring := { s.ring with ringId := v.extractLsb' 16 16, len := v.extractLsb' 0 11 } }

/-- RING_CHECK; one that comes before the directions are known is kept with its group, since only that of the upstream group counts. -/
def execRingCheck (group : Fin 3) (msg : Message) (s : State) : Answer := whileClocked s <|
  if group.val = 2 then .next s
  else
    onMessage s (deliverFreed s group.val 0x02 msg) fun t =>
      let h := msg.head.getD 0 0
      if t.ring.state ≠ 1 then t
      else if !t.ring.checkSent then { t with ring := { t.ring with checkGot := tabSet t.ring.checkGot group.val h } }
      else if group.val = upGroup t then decideCheck t h
      else t

/-- RING_FORM_TIMEOUT: 10 ms without the partners, or without a RING_CHECK. -/
def execRingFormTimeout (s : State) : Answer := whileClocked s <|
  whenEnabled (s.ring.state == 1 && decide (s.ring.formingSince.toNat + 10000000 ≤ s.time.toNat)) s
    (becomeFailed s (if s.ring.checkSent then 0x3004 else 0x3003))

/-! ### IDENT (R284 to R286) -/

/-- A port breaks R286 against the other UP ports of its group. -/
def miswired (s : State) (n : Nat) (r : IdentRec) : Bool :=
  let g := portGroup n
  if g = 2 then !r.isSwitch
  else match (upPorts s g).filter fun k => k != n with
    | [] => false
    | k :: _ => (s.portAt k).loc != r.loc || (s.portAt k).pgroup.toNat != r.group.val

/-- The neighbour entry of a port (R284). -/
def neighbour (p : Port) (r : IdentRec) : Port :=
  { p with role := r.isSwitch, partnerPort := BitVec.ofNat 5 r.port.val, pgroup := BitVec.ofNat 2 r.group.val, loc := r.loc, digest := r.digest }

/-- A port enters UP. -/
def portUp (s : State) (n : Nat) (r : IdentRec) : State :=
  let p := s.portAt n
  let g := portGroup n
  let first := (upPorts s g).isEmpty
  let q := neighbour (enterState s p 3) r
  let replaced := p.everUp && p.upDigest != r.digest
  let returned := p.everUp && p.wasDown && p.upLoc == r.loc && p.upDigest == r.digest
  let changed := p.everUp && (p.upLoc != r.loc || p.upDigest != r.digest)
  let t := s.setPort n { q with
    upLoc := r.loc, upDigest := r.digest, replaced := p.replaced || replaced, returned := p.returned || returned, everUp := true, wasDown := false, lastGoodAt := s.time }
  let t := if (replaced && !p.replaced) || (returned && !p.returned) then raiseVector t 2 else t
  let t := if first then t.setGroup g (formGroup g (t.groupAt g)) else t
  tryCheck (noteDegraded (noteLost (pump (t.setGroup g { t.groupAt g with
    miswired := false, changed := (t.groupAt g).changed || changed }) g) g) g)

/-- A group whose ports are all MISWIRED is logged once (R286). -/
def noteMiswired (s : State) (g : Nat) : State :=
  let x := s.groupAt g
  if !x.miswired ∧ ((between (8 * g) (8 * g + 8)).all fun n => (s.portAt n).state == 7) then
    logLink (s.setGroup g { x with miswired := true }) 3 (8 * g) (8 * g) 0x300A
  else s

/-- IDENT: the last one received forms the port's entry (R284). -/
def execIdent (port : Fin 24) (rec : IdentRec) (s : State) : Answer := whileClocked s <|
  let n := port.val
  let p := s.portAt n
  if p.state = 2 then
    let s := if upPorts s (portGroup n) = [] then s else freeFlits s (portGroup n) 0 1
    if miswired s n rec then .next (noteMiswired (s.setPort n (neighbour (enterState s p 7) rec)) (portGroup n)) else .next (portUp s n rec)
  else if p.state = 3 then
    let t := freeFlits (s.setPort n (neighbour p rec)) (portGroup n) 0 1
    if p.loc ≠ rec.loc ∨ p.digest ≠ rec.digest then
      let t := portLeaves t n 5 false
      .next (t.setGroup (portGroup n) { t.groupAt (portGroup n) with changed := true })
    else .next t
  else .next s

/-- IDENT_SEND: the record of R284, straight onto the port, every 10 µs in IDENT and every 1 ms in UP. -/
def execIdentSend (port : Fin 24) (s : State) : Answer := whileClocked s <|
  let n := port.val
  let p := s.portAt n
  let formed := ringCarries s
  let m := newMessage s 0x01 0 true 0 0
    [(ownLoc s).toNat, n, portGroup n, 0, (ownDigest s).toNat, stepCode s 4,
     if formed then s.ring.formedId.toNat else 0xFFFF, if formed then s.ring.position.toNat else 0xFFFF, if isSynced s then 1 else 0]
  if (p.state = 2 ∨ p.state = 3) ∧ elapsed s p.identAt (if p.state = 2 then 10000 else 1000000) then
    match sendOnPort (s.setPort n { p with identAt := some s.time }) n m with
    | some t => .next t
    | none => .next (bumpLink s (portGroup n))
  else .next s

/-! ### Vanished partners and ABORT (R289, R290; 01_caravan R31) -/

/-- The smaller of two detection times. -/
def keepEarlier (o : Option CTime) (d : CTime) : Option CTime :=
  match o with
  | some x => if x.toNat ≤ d.toNat then some x else some d
  | none => some d

/-- Hub stewards that wait at the ring's barrier receive a code. -/
def endRingWaits (s : State) (code : Word64) : State :=
  (between 256 264).foldl (fun t k =>
    match (t.stewardAt k).run with
    | .ringBarrier rd => endWait t k rd code
    | _ => t) s

/-- A loss detected at `d` aborts the caravan task: a layer of it has not released its step-L barrier, or the last one released after `d`. -/
def taskAborts (s : State) (d : CTime) : Bool :=
  !layersDone s ||
    match s.ring.finalRelease with
    | some r => decide (d.toNat < r.toNat)
    | none => true

/-- The caravan task is judged by a detection time (R290). -/
def judgeTask (s : State) (d : CTime) : State :=
  match s.ring.task with
  | some c => if taskAborts s d then teardown s c 0x3001 else s
  | none => s

/-- The ring breaks with detection time `d`, which is logged: waits at its barrier end, and its caravan task aborts under R31. -/
def breakRing (s : State) (d : CTime) : State :=
  let t := setRing s { s.ring with state := 3, code := 0x3001, detection := keepEarlier s.ring.detection d, arrived := false }
  judgeTask (logLink (endRingWaits t 0x3001) 0 0 (8 * downGroup t) 0x3001) d

/-- An ABORT message (R275, R290). -/
def abortMessage (s : State) (toPartner : Bool) (dst : BitVec 16) (d : CTime) : Message :=
  newMessage s 0x03 0 toPartner dst 0 [s.ring.formedId.toNat, d.toNat, 0x3001]

/-- PARTNER_VANISH. -/
def execPartnerVanish (group : Fin 2) (s : State) : Answer := whileClocked s <|
  let x := s.groupAt group.val
  let due := x.changed || match x.lostSince with
    | some t => decide (t.toNat + 200000 ≤ s.time.toNat)
    | none => false
  if ringCarries s ∧ 1 < s.ring.members.length ∧ due then
    let others := s.ring.members.filter fun m => m != ownLoc s
    let t := send s (1 - group.val) (abortMessage s true 0 s.time)
    let t := others.foldl (fun u m => send u 2 (abortMessage u false m s.time)) t
    .next (breakRing t s.time)
  else .next s

/-- ABORT: a FORMED member breaks and sends it on; a broken one keeps the smallest D, by which its task is judged. -/
def execAbort (group : Fin 3) (msg : Message) (s : State) : Answer := whileClocked s <|
  onMessage s (deliverFreed s group.val 0x03 msg) fun t =>
    let d : CTime := BitVec.ofNat 64 (msg.head.getD 1 0)
    if ringCarries t then
      let gs := ([0, 1] : List Nat).filter fun g => g != group.val
      breakRing (gs.foldl (fun u g => send u g (abortMessage u true 0 d)) t) d
    else if t.ring.state = 3 then judgeTask { t with ring := { t.ring with detection := keepEarlier t.ring.detection d } } d
    else t

/-! ### Ring barriers (R297, R353 of 11_steward; 01_caravan R27) -/

/-- The hop limits of ARRIVE: downstream and upstream. -/
def arriveLimit (l : Nat) (down : Bool) : Nat := if down then l / 2 else (l - 1) / 2

/-- The key of an arrival. -/
def arrivalKey (b p : Nat) : Nat := b * 1024 + p

/-- The arrivals of the present barrier that are known. -/
def knownArrivals (s : State) : List Nat :=
  (List.range s.ring.members.length).filterMap fun p => (tabFind' s.ring.arrivals (arrivalKey s.ring.barrier p)).map BitVec.toNat
where
  /-- Entry `k` of a table, if it has one. -/
  tabFind' (t : Tab CTime) (k : Nat) : Option CTime := (t.find? fun e => e.1 == k).map Prod.snd

/-- The release time, from the arrivals that are known. -/
def releaseTime (s : State) : Nat :=
  let m := (knownArrivals s).foldl max 0
  if s.ring.members.length ≤ 1 then m else m + s.ring.margin.toNat

/-- The part arrives at the ring's next barrier. -/
def ringArrive (s : State) : State :=
  let l := s.ring.members.length
  let b := s.ring.barrier
  let p := s.ring.position.toNat
  let t := { s with ring := { s.ring with arrived := true, arrivals := tabSet s.ring.arrivals (arrivalKey b p) s.time } }
  let msg := newMessage t 0x0A 1 true 0 0 [b, p, s.time.toNat]
  let t := if 1 ≤ arriveLimit l true then send t (downGroup t) msg else t
  if 1 ≤ arriveLimit l false then send t (upGroup t) msg else t

/-- ARRIVE: recorded, and sent on in its direction until its hop limit. The last arrival after R_b makes the barrier late. -/
def execArrive (group : Fin 3) (msg : Message) (s : State) : Answer := whileClocked s <|
  if group.val = 2 then .next s
  else
    onMessage s (deliverFreed s group.val 0x0A msg) fun t =>
      if !ringCarries t then t
      else
        let l := t.ring.members.length
        let p := t.ring.position.toNat
        let q := msg.head.getD 1 0
        let down := group.val == upGroup t
        let hops := if down then (p + l - q % max l 1) % max l 1 else (q + l - p) % max l 1
        let t := { t with ring := { t.ring with
          arrivals := tabSet t.ring.arrivals (arrivalKey (msg.head.getD 0 0) q) (BitVec.ofNat 64 (msg.head.getD 2 0)) } }
        let last := t.ring.arrived && msg.head.getD 0 0 == t.ring.barrier && (knownArrivals t).length == l
        let t := if last && decide (releaseTime t < t.time.toNat) then bumpRoute t 78 else t
        if hops < arriveLimit l down then send t (if down then downGroup t else upGroup t) { msg with src := ownLoc t } else t

/-- A barrier of the caravan task has released at `r`. The area keeps the bales of the hop in use (R23); the barrier of step L ends the layer,
whose wants and manifest are then no longer held (log 34), and the next layer begins. -/
def countStep (s : State) (r : Nat) : State :=
  let t := { s with ring := { s.ring with released := BitVec.ofNat 64 r, hopSent := (0, 0) } }
  if s.ring.task.isNone ∨ layersDone s then t
  else if s.ring.step + 1 < layerBarriers s then
    let t := { t with ring := { t.ring with step := t.ring.step + 1 } }
    { t with ring := { t.ring with caravanArea := t.ring.caravanArea.filter fun b => decide (hopNow t ≤ b.hop + 1) } }
  else
    { t with ring := { t.ring with
        step := 0, layer := t.ring.layer + 1, finalRelease := some (BitVec.ofNat 64 r), wants := [], surveys := [], surveySent := 0,
        wantsSent := 0, manifest := [], manifestWritten := false, hopBales := [], delivered := [], caravanArea := [] } }

/-- A hub steward waits at the ring's barrier. -/
def ringWaiting (s : State) : Bool :=
  (between 256 264).any fun k => match (s.stewardAt k).run with | .ringBarrier _ => true | _ => false

/-- BARRIER_RELEASE: a part that waits arrives once the conditions of R28 hold (log 113); when every arrival is known and the release time
has come, the barrier releases. -/
def execBarrierRelease (s : State) : Answer := whileClocked s <|
  let all := (knownArrivals s).length == s.ring.members.length
  let r := releaseTime s
  if ringCarries s ∧ !s.ring.arrived ∧ ringWaiting s ∧ arrivalDue s then .next (ringArrive s)
  else whenEnabled (ringCarries s && s.ring.arrived && all && decide (r ≤ s.time.toNat)) s
    (let t := endRingWaits s 0
     countStep { t with ring := { t.ring with
       barrier := t.ring.barrier + 1, arrived := false, arrivals := t.ring.arrivals.filter fun e => decide (arrivalKey (t.ring.barrier + 1) 0 ≤ e.1) } } r)

/-- Why a caravan task or a ring barrier of a partition completes at once: the partition has no ring, the ring is not FORMED, or caravan time
is not SYNCED (R290, R296; 12_partitions R371); 0 where nothing stands against it. -/
def caravanCode (s : State) (ring : Bool) : Code :=
  if !ring then 0x200F else if !ringCarries s then 0x3009 else if !isSynced s then 0x3006 else 0

/-- A code of `caravanCode` is logged (00_scope R17). -/
def logCaravan (s : State) (code : Code) : State :=
  if code.cls = 3 then logLink s 0 0 (8 * downGroup s) code else logPlain s 0 0 code

/-- The ring has a caravan task that is not over: that of a context that declares layers ends with its context's last task. -/
def caravanRuns (s : State) : Bool :=
  match s.ring.task with
  | none => false
  | some c => !layersDone s || (s.ctxAt c.val).layers != []

/-- A context's caravan task begins with the survey of its first layer, unless the ring has one (log 34). -/
def beginCaravan (s : State) (c : Fin 64) : State :=
  if caravanRuns s then s
  else { s with ring := { s.ring with task := some c, layer := 0, step := 0, finalRelease := none } }

/-- A ring-scope word is misused by its issuer (11_steward R353). -/
def ringBarrierMisuse (s : State) (st : Fin 264) (w rb : Word64) : Bool :=
  w.extractLsb' 0 62 != 0 || !isHub st || (s.stewardAt st.val).pl != 1 || rb != 0

/-- The part's own ring barrier, issued by a hub steward at S: hub steward p runs the caravan task of partition p (12_partitions R371). A
context whose image declares no layer begins its caravan task with it. -/
def ringBarrier (s : State) (st : Fin 264) (rd : BitVec 5) : State :=
  let own := stewardCtx s st
  let code := caravanCode s (s.partAt (st.val - 256)).ring
  if code ≠ 0 then endWait (logCaravan s code) st.val rd (code.setWidth 64)
  else
    let t := match own with | some c => beginCaravan s c | none => s
    (if t.ring.arrived ∨ !arrivalDue t then t else ringArrive t).modSteward st.val fun x => { x with run := .ringBarrier rd }

/-- BARRIER (11_steward R353). -/
def execBarrier (st : Fin 264) (rd ra rb : BitVec 5) (s : State) : Answer :=
  let w := regOf s st ra
  let b := regOf s st rb
  let word := wordOf (.barrier st rd ra rb)
  if !fenced s st then .next s
  else if w.extractLsb' 62 2 = 0 then
    if dieBarrierMisuse s st w then .next (stewardFault s st 0x2006 word) else .next (dieBarrierArrive s st rd w b word)
  else if w.extractLsb' 62 2 = 1 then
    if ringBarrierMisuse s st w b then .next (stewardFault s st 0x2006 word) else .next (ringBarrier s st rd)
  else .next (stewardFault s st 0x2006 word)

/-! ### Caravan time over the links (R292 to R296) -/

/-- The port that a time exchange uses. -/
def timePort (s : State) : Option Nat :=
  let p := s.sync.parent.toNat
  if 24 ≤ p then none
  else if (s.portAt p).state = 3 then some p
  else (upPorts s (portGroup p)).head?

/-- TIME_EXCHANGE, every 1,048,576 ct: TIME_REQ, whose t1 is set when it passes the serializer (FRAME_SEND). -/
def execTimeExchange (s : State) : Answer := whileClocked s <|
  match timePort s with
  | none => .next s
  | some n =>
    if s.sync.master ∨ !elapsed s s.sync.requestAt 1048576 then .next s
    else
      let t := { s with sync := { s.sync with pending := none, requestAt := some s.time, port := BitVec.ofNat 5 n } }
      match sendOnPort t n (newMessage t 0x08 1 true 0 0 [0, 0]) with
      | some t => .next t
      | none => .next (bumpLink s (portGroup n))

/-- TIME_REQ: the answer holds t2 less the correction of the request, so that its own correction is that of the response
(log 36). -/
def execTimeReq (port : Fin 24) (msg : Message) (t2 t3 : Nat) (s : State) : Answer := whileClocked s <|
  let p := s.portAt port.val
  let m := newMessage s 0x09 1 msg.toPartner msg.src 0 [msg.head.getD 0 0, t2 - msg.head.getD 1 0, t3, 0]
  if p.state ≠ 3 then .next s
  else
    match deliverFreed s (portGroup port.val) 0x08 msg with
    | none => .next s
    | some t =>
      match sendOnPort t port.val m with
      | some t => .next t
      | none => .next (bumpLink s (portGroup port.val))

/-- R293: the mean offset of the exchanges whose delay lies within 1 ct of the smallest. -/
def filteredOffset (l : List (Int × Int)) : Int :=
  match l with
  | [] => 0
  | x :: r =>
    let least := r.foldl (fun m e => min m e.2) x.2
    let good := l.filter fun e => decide (e.2 ≤ least + 16)
    (good.map Prod.fst).sum / (good.length : Int)

/-- R294: what a filtered offset does to the counter and to the status. -/
def applyOffset (s : State) (f : Int) : State :=
  let x := { s.sync with hold := false, lastExchange := s.time, offset := BitVec.ofInt 16 f,
                         goodRun := if f.natAbs < 32 then s.sync.goodRun + 1 else 0 }
  if s.sync.everSynced ∧ 16000 < f.natAbs then
    logLink { s with sync := { x with diverged := true, synced := false, goodRun := 0, slew := 0 } } 0 0 (8 * portGroup s.sync.port.toNat) 0x3006
  else
    let done := decide (8 ≤ x.goodRun)
    let x := { x with synced := x.synced || done, everSynced := x.everSynced || done, diverged := x.diverged && !done }
    if s.sync.everSynced then { s with sync := { x with slew := f } }
    else stepClock { s with sync := x } ((ownClock s : Int) + f).toNat

/-- TIME_RESP: t4 in 1/16 ct. -/
def execTimeResp (port : Fin 24) (msg : Message) (t4 : Nat) (s : State) : Answer := whileClocked s <|
  match s.sync.pending with
  | none => .next s
  | some t1 =>
    if s.sync.master ∨ msg.head.getD 0 0 ≠ t1 then .next s
    else
      onMessage s (deliverFreed s (portGroup port.val) 0x09 msg) fun t =>
        let up : Int := (msg.head.getD 1 0 : Int) - t1
        let down : Int := (t4 : Int) - msg.head.getD 2 0 - msg.head.getD 3 0
        let l := ((up - down) / 2, (up + down) / 2) :: t.sync.exchanges.take 7
        applyOffset { t with sync := { t.sync with pending := none, exchanges := l } } (filteredOffset l)

/-- TIME_HOLD: no exchange for 4 intervals of 1,048,576 ct. -/
def execTimeHold (s : State) : Answer :=
  whenEnabled (!s.sync.master && !s.sync.hold && decide (s.sync.lastExchange.toNat + 4 * 1048576 ≤ s.time.toNat)) s
    { s with sync := { s.sync with hold := true, holdSince := s.time } }

/-- SYNC_LOSS: a further 1 s without an exchange. -/
def execSyncLoss (s : State) : Answer :=
  whenEnabled (s.sync.hold && decide (s.sync.holdSince.toNat + 1000000000 ≤ s.time.toNat)) s { s with sync := { s.sync with synced := false, goodRun := 0 } }

/-- RL_TIME_CTL; the master's counter is never adjusted (R292). -/
def timeCtlWrite (s : State) (v : Reg32) : State :=
  let x := { s.sync with master := v.getLsbD 31, parent := v.extractLsb' 0 5 }
  { s with sync := if v.getLsbD 31 then { x with slew := 0, pending := none } else x }

end Sys2Proof.Machine
end

