-- ==== Sys2Proof/Machine/Debug.lean ====
section
/-! DEFINITION. Halting and inspecting an EC (16_counters R462 to R464) and BREAK (11_steward R354). -/

namespace Sys2Proof.Machine

/-- EC_DBG_* of an EC after `f`. -/
def State.modDebug (s : State) (e : Nat) (f : DebugRegs → DebugRegs) : State := s.modEc e fun c => { c with dbg := f c.dbg }

/-- A halt of the EC begins. -/
def debugHalt (s : State) (e : Nat) (why : BitVec 3) : State :=
  s.modDebug e fun x => if x.halted || x.halting then x else { x with halting := true, why }

/-- A steward leaves the halt: a wait's timeout counts from here (R462). -/
def restartWait (s : State) (x : Steward) : Steward :=
  match x.run with
  | .waiting ec pair free rd _ timeout => { x with run := .waiting ec pair free rd s.time timeout }
  | _ => x

/-- RUN: the EC leaves the halt. -/
def debugRun (s : State) (e : Nat) : State :=
  let d := (s.ecAt e).dbg
  if !(d.halted || d.halting) then s
  else
    let t := s.modDebug e fun x => { x with halting := false, halted := false, why := 0 }
    let t := (t.modSteward (2 * e) (restartWait s)).modSteward (2 * e + 1) (restartWait s)
    wakeIdle (wakeIdle t (2 * e)) (2 * e + 1)

/-- EC_DBG_CTL but for STEP: clearing ATTACH of a halted EC acts as RUN, and HALT and RUN act while ATTACH is 1, in this order
(log 52). -/
def dbgCtlWrite (s : State) (e : Nat) (v : Reg32) : State :=
  if !v.getLsbD 31 then (debugRun s e).modDebug e fun x => { x with attach := false }
  else
    let t := s.modDebug e fun x => { x with attach := true }
    let t := if v.getLsbD 30 then debugHalt t e 1 else t
    if v.getLsbD 29 then debugRun t e else t

/-- A steward in IDLE or BARRIER stands before the instruction again, which RUN starts anew (R462). -/
def haltIdle (x : Steward) : Steward :=
  match x.run with
  | .idle => { x with run := .running, pc := x.pc - 4, instret := x.instret - 1 }
  | .dieBarrier _ _ _ => { x with run := .running }
  | _ => x

/-- The arrivals of an EC's stewards at die-scope barriers are withdrawn: they start the instruction again. -/
def withdrawArrivals (s : State) (e : Nat) : State :=
  { s with dieBarriers := (s.dieBarriers.map fun (b : Nat × DieBarrier) =>
      (b.1, { b.2 with arrived := b.2.arrived.filter fun a => a.1.val / 2 != e })).filter fun b => !b.2.arrived.isEmpty }

/-- DEBUG_HALTED: vectors are whole in the model, so none is past stage E. -/
def execDebugHalted (ec : Fin 128) (s : State) : Answer :=
  let e := ec.val
  let t := (withdrawArrivals s e).modDebug e fun x => { x with halting := false, halted := true }
  whenEnabled (s.ecAt e).dbg.halting s ((t.modSteward (2 * e) haltIdle).modSteward (2 * e + 1) haltIdle)

/-- R463: DATA, ACCF and the SRAM windows take effect. -/
def debugOpen (s : State) (e : Nat) : Bool := (s.ecAt e).dbg.halted || (s.ecAt e).bound.isNone

/-- The steward that EC_DBG_SEL names. -/
def selSteward (s : State) (e : Nat) : Fin 264 := stewardOf (2 * e + if (s.ecAt e).dbg.selStw then 1 else 0)

/-- The register that EC_DBG_SEL selects. -/
def dbgValue (s : State) (e : Nat) : Word64 :=
  let d := (s.ecAt e).dbg
  let st := selSteward s e
  let x := s.stewardAt st.val
  if d.selPc then x.pc else if d.selCtrl then crValue s st d.selNum.toNat else x.reg d.selNum

/-- The selected register takes a value, as by a CRW at level F where it is a control register. -/
def dbgStore (s : State) (e : Nat) (v : Word64) : State :=
  let d := (s.ecAt e).dbg
  s.modSteward (selSteward s e).val fun x =>
    if d.selPc then { x with pc := v }
    else if d.selCtrl then (if crWritable 2 d.selNum.toNat then crStore x d.selNum.toNat v else x)
    else x.setReg d.selNum v

/-- EC_DBG_DATA_LO and EC_DBG_DATA_HI. -/
def dbgDataWrite (s : State) (e : Nat) (hi : Bool) (v : Reg32) : State :=
  if !debugOpen s e then bumpEc s e cntDbgBlock
  else
    let old := dbgValue s e
    dbgStore s e (if hi then v ++ old.extractLsb' 0 32 else old.extractLsb' 32 32 ++ v)

/-- A read of EC_DBG_DATA. -/
def dbgDataRead (s : State) (e : Nat) (hi : Bool) : Reg32 × State :=
  if !debugOpen s e then (0, bumpEc s e cntDbgBlock)
  else (if hi then (dbgValue s e).extractLsb' 32 32 else (dbgValue s e).extractLsb' 0 32, s)

/-- EC_DBG_SEL. -/
def dbgSelWrite (s : State) (e : Nat) (v : Reg32) : State :=
  s.modDebug e fun x => { x with selPc := v.getLsbD 10, selStw := v.getLsbD 9, selCtrl := v.getLsbD 8, selNum := v.extractLsb' 0 5 }

/-- EC_DBG_ACCF: the lane and word to inspect; its fields other than FLAGS are plain. -/
def dbgAccfWrite (s : State) (e : Nat) (v : Reg32) : State :=
  if !debugOpen s e then bumpEc s e cntDbgBlock
  else s.modDebug e fun x => { x with accEngine := v.getLsbD 31, accLane := v.extractLsb' 23 8, accWord := v.extractLsb' 14 9 }

/-- A read of EC_DBG_ACCF: the side-array flags of the word (04_matrix R110). -/
def dbgAccfRead (s : State) (e : Nat) : Reg32 × State :=
  if !debugOpen s e then (0, bumpEc s e cntDbgBlock)
  else
    let d := (s.ecAt e).dbg
    let g := s.engineAt e (if d.accEngine then 1 else 0)
    (BitVec.ofNat 32 (atBit d.accEngine 31 + 2 ^ 23 * d.accLane.toNat + 2 ^ 14 * d.accWord.toNat +
      (tabGet 0 g.side (d.accLane.toNat * 512 + d.accWord.toNat)).toNat), s)

/-- BREAK (11_steward R354): with ATTACH the EC halts, the pc at the BREAK; otherwise a service trap. -/
def execBreakpoint (st : Fin 264) (s : State) : Answer :=
  if !stewardReady s st then .next s
  else if !isHub st && (s.ecAt (st.val / 2)).dbg.attach then .next (debugHalt s (st.val / 2) 2)
  else whenEnabled (fenced s st) s (instructionTrap s st 3 (wordOf (.breakpoint st)))

end Sys2Proof.Machine
end

