-- ==== Sys2Proof/Machine/Attend.lean ====
section
/-! DEFINITION. ATTEND and ATTEND_BWD over row blocks, spans and key blocks (06_attend R158 to R195). -/

namespace Sys2Proof.Machine

/-! ### Commands (R160, R161, R189) -/

/-- The attention record of R161. -/
structure AttRec where
  btab : Nat
  ltab : Nat
  ltabN : Nat
  lsArea : Nat
  blist : Nat
  bounds : Nat
  gambit : Nat
  qpos : Nat
  triple : Nat
  deriving DecidableEq, Repr

/-- The attention record in 64 bytes. -/
def AttRec.ofBytes (w : List Byte) : AttRec :=
  { btab := field w 0 8 % 2 ^ 48, ltab := field w 8 8 % 2 ^ 48, ltabN := field w 0x10 4, lsArea := field w 0x14 4,
    blist := field w 0x18 8 % 2 ^ 48, bounds := field w 0x20 8 % 2 ^ 48, gambit := field w 0x28 8 % 2 ^ 48,
    qpos := field w 0x30 8 % 2 ^ 48, triple := field w 0x38 8 % 2 ^ 48 }

/-- An ATTEND or an ATTEND_BWD with its descriptors, record and view. -/
structure AttCmd where
  bwd : Bool
  q : Desc
  /-- ATTEND: output; ATTEND_BWD: DGRAD -/
  out : Option Desc
  lse : Option Desc
  /-- ATTEND_BWD: dO and D -/
  ddo : Option Desc
  delta : Option Desc
  r : AttRec
  t : KvTable
  ngrp : Nat
  qheads : Nat
  span : Nat
  fold : Nat
  latent : Nat
  gate : Nat
  /-- PLACE of ATTEND, SWEEP of ATTEND_BWD -/
  place : Nat
  gambitOn : Bool
  mask : Nat
  pfmt : Nat
  nsplit : Nat
  scale : BitVec 32
  anchorS : Int
  anchorO : Int
  bucket : Nat
  dv : Nat
  kvfmt : Nat
  stat : Nat
  compat : Bool
  deriving DecidableEq, Repr

/-- The ATTEND or ATTEND_BWD of a command word. -/
def attCmd (s : State) (q : Req) (w : List Byte) : Got AttCmd := do
  let bwd := wOpcode w == 9
  let dq ← descOf s q w (field w 0x18 2)
  let d1 ← optDesc s q w (field w 0x1A 2)
  let d2 ← optDesc s q w (field w 0x1C 2)
  let rb ← uRead s q (wDtab w % 2 ^ 48 + 64 * field w 0x1E 2) 64
  let r := AttRec.ofBytes rb
  let t ← kvTable s q r.btab
  let delta ← if bwd then optDesc s q w (field w 0x32 2) else pure none
  let grad ← if bwd then optDesc s q w (field w 0x34 2) else pure none
  let ctl := field w 0x24 1
  return { bwd, q := dq, out := if bwd then grad else d1, lse := d2, ddo := if bwd then d1 else none, delta, r, t,
           ngrp := field w 0x20 2, qheads := field w 0x22 1, span := field w 0x23 1,
           fold := if bwd then bits ctl 7 6 else bits ctl 1 0, latent := bits ctl 5 4, gate := bits ctl 3 2,
           place := if bwd then bits ctl 1 0 else bits ctl 6 6, gambitOn := !bwd && bit ctl 7,
           mask := bits (field w 0x25 1) 1 0, pfmt := field w 0x26 1, nsplit := if bwd then 0 else field w 0x27 1,
           scale := BitVec.ofNat 32 (field w 0x28 4), anchorS := (BitVec.ofNat 16 (field w 0x2C 2)).toInt,
           anchorO := (BitVec.ofNat 16 (field w 0x2E 2)).toInt, bucket := field w 0x31 1,
           dv := if bwd then field w 0x36 2 else field w 0x32 2, kvfmt := if bwd then field w 0x38 1 else field w 0x34 1,
           stat := if bwd then 0 else field w 0x38 8 % 2 ^ 48, compat := wCompat w }

/-- Formats of K and V as ATTEND reads them (R158, R214). -/
def AttCmd.kfmt (c : AttCmd) : Nat := c.kvfmt % 16
def AttCmd.vfmt (c : AttCmd) : Nat := c.kvfmt / 16
/-- Tensor scales of K and V: 1.0 for expanded bales; a latent carries KSCALE in both roles (R214). -/
def AttCmd.kscale (c : AttCmd) : BitVec 32 := if c.latent = 2 then f32One else c.t.kscale
def AttCmd.vscale (c : AttCmd) : BitVec 32 := if c.latent = 2 then f32One else if c.latent = 1 then c.t.kscale else c.t.vscale

/-- R214: the command agrees with its view. -/
def attAgrees (c : AttCmd) : Bool :=
  viewAgrees c.t && c.t.latent == (c.latent != 0) && c.kvfmt == (if c.latent = 2 then c.t.xfmt else c.t.sfmt) &&
  (if c.latent = 1 then c.q.cols == c.t.dl && c.dv == c.t.dl else c.q.cols == c.t.dqk && c.dv == c.t.dv)

/-! ### Sequences, query blocks and tiles (R159, R162, R182, R183) -/

/-- Tokens of a bucket (R160). -/
def bucketTokens (b : Nat) : Nat := match b with | 1 => 256 | 2 => 1024 | 3 => 4096 | 4 => 16384 | _ => 0

/-- A sequence of an attention command: its id, its query tokens and their first row. -/
structure SeqPart where
  id : Nat
  len : Nat
  off : Nat
  deriving DecidableEq, Repr

/-- The sequences of the command. -/
def attSeqs (s : State) (q : Req) (c : AttCmd) : Got (List SeqPart) :=
  if c.r.ltab ≠ 0 then
    mapGot (fun p => do
      let id ← uReadNat s q (c.r.ltab + 16 * p) 4
      let e ← lengthEntry s q c.r.ltab p
      return { id, len := e.1, off := e.2 }) (List.range c.r.ltabN)
  else if c.bucket = 0 then .ok [{ id := 0, len := c.q.rows, off := 0 }]
  else
    let b := bucketTokens c.bucket
    .ok ((List.range (c.q.rows / b)).map fun p => { id := p, len := b, off := p * b })

/-- A query block: its sequence, its place there, and its head group (R162). -/
structure QueryBlock where
  p : Nat
  k : Nat
  g : Nat
  deriving DecidableEq, Repr

/-- The query blocks in the order of R162; a block's number is its place in the list. -/
def queryBlocks (c : AttCmd) (seqs : List SeqPart) : List QueryBlock :=
  seqs.zipIdx.flatMap fun x =>
    (List.range (ceilDiv x.1.len 256)).flatMap fun k => (List.range c.ngrp).map fun g => { p := x.2, k, g }

/-- R162: the row blocks of ATTEND and of the query sweep. -/
def attRowTiles (c : AttCmd) (seqs : List SeqPart) : List TileId :=
  (queryBlocks c seqs).zipIdx.flatMap fun x =>
    (List.range c.qheads).map fun h => { batch := x.1.p, i := x.1.k, j := x.1.g * c.qheads + h, k := x.2 }

/-- The tiles of an attention command: row blocks, splits in two rounds (R180), or the key blocks of a key sweep (R191). -/
def attTiles (s : State) (q : Req) (c : AttCmd) : Got (List TileId) := do
  let seqs ← attSeqs s q c
  if c.bwd && c.place == 1 then
    let n ← uReadNat s q c.r.blist 4
    return (List.range n).map fun e => { batch := 0, i := e, j := 0, k := 0 }
  let rows := attRowTiles c seqs
  if !c.bwd && c.place == 1 then
    return (List.range 2).flatMap fun round => rows.flatMap fun t =>
      (List.range c.nsplit).map fun j => { t with sub := round * c.nsplit + j }
  return rows

/-! ### Rows and what they see (R165, R182, R184, R185) -/

/-- A live query row: its token row, its position, its bounds, its candidate. -/
structure AttRow where
  row : Nat
  pos : Nat
  lo : Nat
  hi : Nat
  cand : Nat
  deriving DecidableEq, Repr

/-- The depth of candidate `i`; `fuel` bounds the path. -/
def candDepth (g : GambitRec) : Nat → Nat → Nat
  | 0, _ => 0
  | fuel + 1, i => if g.parent.getD i 255 = 255 then 0 else 1 + candDepth g fuel (g.parent.getD i 255)

/-- anc(i, c) of R185: c is i or an ancestor of i. -/
def candSees (g : GambitRec) : Nat → Nat → Nat → Bool
  | 0, i, c => i == c
  | fuel + 1, i, c => i == c || (g.parent.getD i 255 != 255 && candSees g fuel (g.parent.getD i 255) c)

/-- The gambit record of sequence `p`, checked against it (R184, R185, R194). -/
def attGambit (s : State) (q : Req) (c : AttCmd) (p : Nat) (sq : SeqPart) : Got (Option GambitRec) :=
  if c.gambitOn then do
    let w ← uRead s q (c.r.gambit + 64 * p) 64
    let g := GambitRec.ofBytes w
    require (g.treeOk && g.seq == sq.id && sq.len == g.ncand) codeInvalidMacro
    return some g
  else .ok none

/-- The live rows of block `k` of a sequence (R159, R185). -/
def attRows (s : State) (q : Req) (c : AttCmd) (p k : Nat) (sq : SeqPart) (gm : Option GambitRec) : Got (List AttRow) := do
  let qp ← if c.r.qpos = 0 ∨ gm.isSome then pure 0 else uReadNat s q (c.r.qpos + 8 * p) 8
  mapGot (fun i => do
    let x := 256 * k + i
    let t := sq.off + x
    let lo ← if 2 ≤ c.mask then uReadNat s q (c.r.bounds + 8 * t) 4 else pure 0
    let hi ← if 2 ≤ c.mask then uReadNat s q (c.r.bounds + 8 * t + 4) 4 else pure 0
    let pos := match gm with | some g => g.committed + candDepth g 16 x | none => qp + x
    return { row := t, pos, lo, hi, cand := x }) (List.range (min 256 (sq.len - 256 * k)))

/-- R165: a key at position `pos` in slot `j` of a bale of `n` tokens is visible to a row. -/
def attVisible (c : AttCmd) (gm : Option GambitRec) (r : AttRow) (pos j n : Nat) : Bool :=
  let plain :=
    !((c.mask == 1 || c.mask == 3) && decide (r.pos < pos)) &&
    !((c.mask == 2 || c.mask == 3) && (decide (pos < r.lo) || decide (r.hi < pos)))
  decide (j < n) &&
    match gm with
    | some g => if g.committed ≤ pos then decide (pos - g.committed < g.ncand) && candSees g 16 r.cand (pos - g.committed) else plain
    | none => plain

/-! ### Bales of a block (R163, R164, R166) -/

/-- A staged bale: its number, position and tokens, and the element codes of its keys and values by slot. -/
structure Staged where
  n : Nat
  first : Nat
  ntok : Nat
  keys : List (List Nat)
  vals : List (List Nat)
  flags : BitVec 16 := 0
  /-- products that saturated in its expansion (03_arithmetic R69) -/
  sats : Nat := 0
  /-- where its buffer and its summary were read -/
  reads : List (Nat × Nat) := []
  deriving DecidableEq, Repr

/-- The bale list of query block `i` (GATE 0), or every bale that the table holds for the sequence and group (GATE 1), in increasing number
(R163, R194; log 117). -/
def attBaleList (s : State) (q : Req) (c : AttCmd) (i seq g : Nat) : Got (List Nat) :=
  if c.gate = 0 then do
    let n ← uReadNat s q (c.r.blist + 320 * i) 4
    require (decide (n ≤ 64)) codeInvalidMacro
    let bs ← mapGot (fun k => uReadNat s q (c.r.blist + 320 * i + 0x40 + 4 * k) 4) (List.range n)
    require ((List.range (n - 1)).all fun k => decide (bs.getD k 0 < bs.getD (k + 1) 0)) codeInvalidMacro
    return bs
  else heldBales s q c.t seq (c.t.chain0 + g)

/-- R164: the mask excludes a bale for every live row. Candidate slots stay (log 22). -/
def baleExcluded (c : AttCmd) (gm : Option GambitRec) (rows : List AttRow) (first ntok : Nat) : Bool :=
  let maxPos := rows.foldl (fun a r => max a r.pos) 0
  let minLo := rows.foldl (fun a r => min a r.lo) (2 ^ 32)
  let maxHi := rows.foldl (fun a r => max a r.hi) 0
  let holdsCandidate := match gm with
    | some g => decide (g.committed < first + ntok) && decide (first < g.committed + g.ncand)
    | none => false
  !holdsCandidate &&
  (((c.mask == 1 || c.mask == 3) && decide (maxPos < first)) ||
   ((c.mask == 2 || c.mask == 3) && (decide (maxHi < first) || decide (first + ntok ≤ minLo))))

/-- The bales of a block after skipping, with their references (R164). -/
def attBales (s : State) (q : Req) (die : Nat) (c : AttCmd) (gm : Option GambitRec) (rows : List AttRow) (seq g : Nat)
    (list : List Nat) : Got (List (Nat × BaleRef × Nat)) := do
  let all ← mapGot (fun n => do
    let b ← translate s q die c.t seq (c.t.chain0 + g) n
    let first ← uReadNat s q (b.summary + 0x20) 8
    let cnt ← summaryCounts s q b.summary
    return (n, b, first, cnt.1)) list
  return (all.filter fun x => !baleExcluded c gm rows x.2.2.1 x.2.2.2).map fun x => (x.1, x.2.1, x.2.2.1)

/-- Where a bale with `n` written tokens is read as it is staged: its counts, and its keys and values or latents. -/
def baleSpans (c : AttCmd) (b : BaleRef) (n : Nat) : List (Nat × Nat) :=
  (b.summary + 0x28, 4) :: ((b.buffer, n * c.t.keyBytes) :: if c.t.latent then [] else [(b.buffer + c.t.valueBase, n * c.t.valueBytes)])

/-- R166, R199, R214: a bale as it is staged. -/
def stageBale (s : State) (q : Req) (c : AttCmd) (n : Nat) (b : BaleRef) (first : Nat) : Got Staged := do
  let cnt ← summaryCounts s q b.summary
  let rows ← mapGot (fun j => do
    if c.latent = 2 then
      let x ← expandSlot s q c.t b cnt.1 j
      return ((x.1.codes, x.2.codes), x.1.flags ||| x.2.flags, x.1.sats + x.2.sats)
    else if c.latent = 1 then
      let l ← slotCodes s q b.buffer c.kfmt c.t.dl cnt.1 j
      return ((l, l), 0, 0)
    else
      let k ← slotCodes s q b.buffer c.kfmt c.t.dqk cnt.1 j
      let v ← slotCodes s q (b.buffer + c.t.valueBase) c.vfmt c.t.dv cnt.1 j
      return ((k, v), 0, 0)) (List.range 128)
  return { n, first, ntok := cnt.1, keys := rows.map fun r => r.1.1, vals := rows.map fun r => r.1.2,
           flags := rows.foldl (fun a r => a ||| r.2.1) 0, sats := (rows.map fun r => r.2.2).sum, reads := baleSpans c b cnt.1 }

/-! ### Operand rows as numbers (03_arithmetic R57, R95; 04_matrix R99) -/

/-- A row of an operand: its element codes, and its elements as numbers with their block scales. -/
structure Vec where
  codes : List Nat
  nums : List Num
  deriving DecidableEq, Repr

/-- Row `r` of a plane of a descriptor. -/
def rowVec (s : State) (q : Req) (d : Desc) (plane r : Nat) : Got Vec := do
  let v : View := ⟨plane, 0, 0⟩
  let cs ← rowCodes s q d v r 0 d.cols
  let blk := formatBlock d.format
  let sc ← scaleCodes s q d v r 0 (ceilDiv d.cols blk)
  return { codes := cs, nums := cs.zipIdx.map fun ci =>
    match sc[ci.2 / blk]? with
    | some e => numMul (formatNum d.format ci.1) (scaleNum e)
    | none => formatNum d.format ci.1 }

/-- Element codes of a format as numbers. -/
def codeNums (fmt : Nat) (cs : List Nat) : List Num := cs.map fun c => formatNum fmt c

/-- The dot product of two rows of numbers in increasing K (04_matrix R99, R113), with the number of its products that saturate (R69). -/
def numDot (anchored : Bool) (anchor : Int) (as bs : List Num) : Accum × Nat :=
  let ps := (as.zip bs).map fun x => numMul x.1 x.2
  if anchored then
    let x := ps.foldl (fun (o : Win × Nat) p =>
      let w := convertProduct anchor p
      (winAdd o.1 w, if w.flags.getLsbD 0 then o.2 + 1 else o.2)) ({}, 0)
    (.win x.1, x.2)
  else (.f32 (match chunksOf 32 (ps.length + 1) (ps.map numF32) with
    | [] => 0
    | c :: r => r.foldl (fun a x => f32Add a (tree32 x)) (tree32 c)), 0)

/-! ### One row and one span (R167, R169, R170, R172) -/

/-- A key of a span: its element codes and its value codes, its position, its slot and its bale's tokens. -/
structure SpanKey where
  k : List Nat
  v : List Nat
  pos : Nat
  j : Nat
  n : Nat
  deriving DecidableEq, Repr

/-- The keys of a span in order. -/
def spanKeys (bs : List Staged) : List SpanKey :=
  bs.flatMap fun b => (List.range 128).map fun j =>
    { k := b.keys.getD j [], v := b.vals.getD j [], pos := b.first + j, j, n := b.ntok }

/-- A product row rounded to binary32 with its scales, and the flags of the rounding: the exact value for anchored formats, the FP32
accumulator times SCALE for BF16 (R167, R190). -/
def scaledCode (anchor : Int) (scales : List (BitVec 32)) (x : Accum) : Nat × BitVec 16 :=
  match x with
  | .win w => winOut layoutF32 anchor w scales
  | .f32 v => toCode layoutF32 (scales.foldl (fun p t => numMul p (f32Num t)) (f32Num v))

/-- Its value. -/
def scaledOut (anchor : Int) (scales : List (BitVec 32)) (x : Accum) : BitVec 32 := BitVec.ofNat 32 (scaledCode anchor scales x).1

/-- The accumulator of a query row against a key (R167), with its saturated products. -/
def scoreDot (c : AttCmd) (qs : List Num) (k : SpanKey) : Accum × Nat :=
  numDot (anchoredFormat c.q.format) c.anchorS qs (codeNums c.kfmt k.k)

/-- The score that an accumulator of pass one drains as, its SAT flag and its saturated products. -/
def attScore (c : AttCmd) (x : Accum × Nat) : BitVec 32 × BitVec 16 × Nat :=
  (scaledOut c.anchorS [c.q.tscale, c.kscale, c.scale] x.1, accumSat x.1, x.2)

/-- A score as it stands in the score store: none for a masked key (R167). -/
structure SpanScore where
  score : Option (BitVec 32)
  raised : Bool
  bad : Bool
  deriving DecidableEq, Repr

/-- R167: masking, the floor and the NaN mark of one score. -/
def maskScore (visible : Bool) (x : BitVec 32) : SpanScore :=
  if !visible then { score := none, raised := false, bad := false }
  else if f32Lt x scoreFloor then { score := some scoreFloor, raised := true, bad := false }
  else { score := some x, raised := false, bad := badScore x }

/-- The value that the score store holds. -/
def SpanScore.stored (x : SpanScore) : BitVec 32 := x.score.getD maskFill

/-- m_s: the largest visible score; −2^126 when none is (R167, R169). -/
def spanMax (ss : List SpanScore) : BitVec 32 := (ss.filterMap fun x => x.score).foldl f32Max maskFill

/-- What pass one finds of a row and a span: its accumulators, the scores as they are stored, m_s, the count of visible keys, whether a score makes the row
NaN, the scores raised to the floor, the SAT flag and the saturated products. -/
structure RowScores where
  accs : List Accum
  stored : List (BitVec 32)
  max : BitVec 32
  live : Nat
  bad : Bool
  raised : Nat
  sat : BitVec 16
  sats : Nat
  deriving DecidableEq, Repr

/-- R167: pass one of a row over a span. -/
def scoreRow (c : AttCmd) (gm : Option GambitRec) (r : AttRow) (qs : List Num) (ks : List SpanKey) : RowScores :=
  let accs := ks.map fun k => scoreDot c qs k
  let raw := (accs.zip ks).map fun x => (attScore c x.1, attVisible c gm r x.2.pos x.2.j x.2.n)
  let ss := raw.map fun x => maskScore x.2 x.1.1
  { accs := accs.map Prod.fst, stored := ss.map SpanScore.stored, max := spanMax ss, live := (ss.filter fun x => x.score.isSome).length,
    bad := ss.any fun x => x.bad, raised := (ss.filter fun x => x.raised).length,
    sat := raw.foldl (fun a x => a ||| x.1.2.1) 0, sats := (raw.map fun x => x.1.2.2).sum }

/-- A factor of R172: exactly 1 for ±0, exactly +0 for an argument at most −2^125. -/
def factorExp (ex : BitVec 32 → BitVec 32) (x : BitVec 32) : BitVec 32 :=
  if numIsZero (f32Num x) then f32One else if expVanishes (f32Num x) then 0 else ex x

/-- A triple (R172). -/
structure Triple where
  m : BitVec 32
  l : BitVec 32
  o : List (BitVec 32)
  deriving DecidableEq, Repr

/-- The empty triple. -/
def emptyTriple (dv : Nat) : Triple := { m := maskFill, l := 0, o := List.replicate dv 0 }

/-- A triple of NaN. -/
def nanTriple (dv : Nat) : Triple := { m := f32Nan, l := f32Nan, o := List.replicate dv f32Nan }

/-- R172: the fold of two triples. -/
def foldTriple (ex : BitVec 32 → BitVec 32) (x y : Triple) : Triple :=
  if f32IsNan x.m || f32IsNan y.m then nanTriple x.o.length
  else
    let m := f32Max x.m y.m
    let a1 := factorExp ex (f32Sub x.m m)
    let a2 := factorExp ex (f32Sub y.m m)
    { m, l := f32Fma y.l a2 (f32Mul x.l a1), o := (x.o.zip y.o).map fun o => f32Fma o.2 a2 (f32Mul o.1 a1) }

/-- R169: the rounded probabilities of a row of stored scores against a maximum, and their sum in increasing key. -/
def spanProbs (ex : BitVec 32 → BitVec 32) (pfmt live : Nat) (m : BitVec 32) (stored : List (BitVec 32)) : List Nat × BitVec 32 :=
  let ps := stored.map fun x => if live = 0 then 0 else (toCode (formatLayout pfmt) (f32Num (ex (f32Sub x m)))).1
  (ps, ps.foldl (fun a p => f32Add a (codeF32 pfmt p)) 0)

/-- R169: m and l of the step triple after a span with maximum `m` and sum `l`, and the factors a_t and a_s of its columns. -/
def foldSums (ex : BitVec 32 → BitVec 32) (t : Triple) (m l : BitVec 32) : Triple × (BitVec 32 × BitVec 32) :=
  let m' := f32Max t.m m
  let a := (factorExp ex (f32Sub t.m m'), factorExp ex (f32Sub m m'))
  ({ t with m := m', l := f32Fma l a.2 (f32Mul t.l a.1) }, a)

/-- Column `x` of the values of a span. -/
def valueColumn (c : AttCmd) (ks : List SpanKey) (x : Nat) : List Num := ks.map fun k => formatNum c.vfmt (k.v.getD x 0)

/-- R170: the accumulators of a row of P against the value columns of a span, with their saturated products. -/
def spanAccums (c : AttCmd) (ps : List Nat) (ks : List SpanKey) : List (Accum × Nat) :=
  let p := codeNums c.pfmt ps
  (List.range c.dv).map fun x => numDot (anchoredFormat c.pfmt) c.anchorO p (valueColumn c ks x)

/-- R170, R172: the columns of the step triple after pass two. -/
def foldColumns (c : AttCmd) (t : Triple) (a : BitVec 32 × BitVec 32) (as : List Accum) : Triple :=
  if f32IsNan t.m then nanTriple c.dv
  else { t with o := (as.zip t.o).map fun ao => f32Fma (scaledOut c.anchorO [c.vscale] ao.1) a.2 (f32Mul ao.2 a.1) }

/-- The accumulators of S in tiles of 256 keys (R167), and those of P V in tiles of min(DV, 512) columns, or min(DV, 1,024) for BF16 (R170). -/
def scoreTiles (c : AttCmd) (as : List Accum) : Bool × Nat × List Accum := (anchoredFormat c.q.format, 256, as)
def valueTiles (c : AttCmd) (as : List Accum) : Bool × Nat × List Accum :=
  (anchoredFormat c.pfmt, min as.length (if anchoredFormat c.pfmt then 512 else 1024), as)

/-- The accumulators of the products of lane `l` are written, in order, from region `region` on; the answer is the region that follows. -/
def putProducts (s : State) (e g l region : Nat) (ts : List (Bool × Nat × List Accum)) : State × Nat :=
  ts.foldl (fun (x : State × Nat) t => writeTiles x.1 e g l t.1 t.2.1 t.2.2.length x.2 t.2.2) (s, region)

/-- The products of the rows of a block: every row's words, and then the region that the next tile takes. -/
def putRegion (s : State) (e g region : Nat) : State := s.setEngine e g { s.engineAt e g with region }

/-- A row on its way through the spans of its block: the step triple, whether a score has made it NaN, the flags, the saturated products,
the scores raised to the floor, what the last span left in the score store and in the working area, and the accumulators of its products in
order, each with its kind and the width of its tiles. -/
structure RowState where
  t : Triple
  nan : Bool := false
  sat : BitVec 16 := 0
  sats : Nat := 0
  floors : Nat := 0
  stored : List (BitVec 32) := []
  probs : List Nat := []
  tiles : List (Bool × Nat × List Accum) := []
  deriving DecidableEq, Repr

/-- R167, R169, R170: one row over one span. -/
def spanStep (ex : BitVec 32 → BitVec 32) (c : AttCmd) (gm : Option GambitRec) (r : AttRow) (qs : List Num) (a : RowState)
    (ks : List SpanKey) : RowState :=
  let x := scoreRow c gm r qs ks
  let nan := a.nan || x.bad
  let p := spanProbs ex c.pfmt x.live x.max x.stored
  let f := foldSums ex a.t x.max p.2
  let as := spanAccums c p.1 ks
  { t := if nan then nanTriple c.dv else foldColumns c f.1 f.2 (as.map Prod.fst), nan
    sat := as.foldl (fun g y => g ||| accumSat y.1) (a.sat ||| x.sat), sats := a.sats + x.sats + (as.map Prod.snd).sum
    floors := a.floors + x.raised, stored := x.stored, probs := p.1, tiles := a.tiles ++ [scoreTiles c x.accs, valueTiles c (as.map Prod.fst)] }

/-! ### The working area of an engine (R171) -/

/-- Bytes of an engine's share of the working area. -/
def workArea (c : AttCmd) : Nat :=
  let size := fun (f : Nat) => formatBits f / 8
  256 * c.q.cols * size c.q.format + 32768 * c.span * size c.pfmt + 512 * (8 + 4 * c.dv) +
    1024 * (if c.latent = 1 then c.q.cols * size c.kfmt else c.q.cols * size c.kfmt + c.dv * size c.vfmt)

/-- Bytes stored in the local store of an EC at a byte offset; what would lie beyond its 8 MiB is not stored (log 107). -/
def localStore (s : State) (e off : Nat) (bs : List Byte) : State :=
  if off + bs.length ≤ 0x800000 then store s (sramAddr e off) bs else s

/-- Element codes as bytes. -/
def codeBytes (fmt : Nat) (cs : List Nat) : List Byte := cs.flatMap fun c => natLe (formatBits fmt / 8) c

/-- Where the share of engine `g` lies in the local store, and in it the resident row `i`, the probabilities of row `i`, its triple (the
step triples, then the running ones), and staging slot `k` (R171; the order of the items is log 26). -/
def workOff (g : Nat) (c : AttCmd) : Nat := c.r.lsArea + g * workArea c
def residentOff (g : Nat) (c : AttCmd) (i : Nat) : Nat := workOff g c + i * c.q.cols * (formatBits c.q.format / 8)
def probOff (g : Nat) (c : AttCmd) (i : Nat) : Nat := residentOff g c 256 + i * 128 * c.span * (formatBits c.pfmt / 8)
def tripleOff (g : Nat) (c : AttCmd) (running : Bool) (i : Nat) : Nat :=
  probOff g c 256 + (if running then 256 + i else i) * (8 + 4 * c.dv)
def stagingOff (g : Nat) (c : AttCmd) (k : Nat) : Nat :=
  let size := fun (f : Nat) => formatBits f / 8
  tripleOff g c true 256 +
    k * 128 * (if c.latent = 1 then c.q.cols * size c.kfmt else c.q.cols * size c.kfmt + c.dv * size c.vfmt)

/-- The resident row of row `i` is written. -/
def putResident (s : State) (e g : Nat) (c : AttCmd) (i : Nat) (codes : List Nat) : State :=
  localStore s e (residentOff g c i) (codeBytes c.q.format codes)

/-- The probabilities of row `i` are written. -/
def putProbs (s : State) (e g : Nat) (c : AttCmd) (i : Nat) (ps : List Nat) : State := localStore s e (probOff g c i) (codeBytes c.pfmt ps)

/-- A triple as R173 lays it out. -/
def tripleBytes (t : Triple) : List Byte := natLe 4 t.m.toNat ++ natLe 4 t.l.toNat ++ t.o.flatMap fun x => natLe 4 x.toNat

/-- The step or running triple of row `i` is written. -/
def putTriple (s : State) (e g : Nat) (c : AttCmd) (running : Bool) (i : Nat) (t : Triple) : State :=
  localStore s e (tripleOff g c running i) (tripleBytes t)

/-- Where the further orientations of ATTEND_BWD lie for engine `g`, `n` bytes an engine: behind both shares (log 107). -/
def turnedOff (g : Nat) (c : AttCmd) (n : Nat) : Nat := c.r.lsArea + 2 * workArea c + g * n

/-- Rows of codes dimension-major: each of `n` columns in turn, zero where a row has no element. -/
def turned (n : Nat) (rows : List (List Nat)) : List Nat := (List.range n).flatMap fun x => rows.map fun r => r.getD x 0

/-- R166: a staged bale in slot `k`: the keys token-major, then the values dimension-major (token-major in the backward pass, whose value
product contracts over them). An absorbed latent is held once. The query sweep stages the keys dimension-major too, for dQ (R190). -/
def putStaged (s : State) (e g : Nat) (c : AttCmd) (k : Nat) (b : Staged) : State :=
  let keys := b.keys.flatMap fun r => codeBytes c.kfmt r
  let vals := if c.latent = 1 then []
    else if c.bwd then b.vals.flatMap fun r => codeBytes c.vfmt r
    else codeBytes c.vfmt (turned c.dv b.vals)
  let s := localStore s e (stagingOff g c (k % 8)) (keys ++ vals)
  let n := 128 * c.q.cols * (formatBits c.kfmt / 8)
  if c.bwd && c.place == 0 then localStore s e (turnedOff g c (8 * n) + k % 8 * n) (codeBytes c.kfmt (turned c.q.cols b.keys)) else s

/-- The bales of a list are staged in turn, the first into slot `k`; the products that saturated in their expansion count (R69). -/
def putAllStaged (s : State) (q : Req) (e g : Nat) (c : AttCmd) (k : Nat) (bs : List Staged) : State :=
  bs.zipIdx.foldl (fun u b => putStaged (countSat (readsUse u q b.1.reads) e b.1.sats) e g c (k + b.2) b.1) s

/-- Scores raised to the floor count in RU_FLOOR_CNT (R81). -/
def countFloors (s : State) (e n : Nat) : State := if n = 0 then s else bumpEcBy s e cntFloor n

/-- What a row leaves in the score store and the working area after its last span. -/
def putRow (s : State) (e g : Nat) (c : AttCmd) (i : Nat) (codes : List Nat) (x : RowState) : State :=
  putTriple (putProbs (putScores (putResident s e g c i codes) e i x.stored) e g c i x.probs) e g c false i x.t

/-! ### Resolving a row (R173, R174) -/

/-- The address of the running triple of a row (R173). -/
def tripleAddr (c : AttCmd) (plane row : Nat) : Nat := c.r.triple + (8 + 4 * c.dv) * (plane * c.q.rows + row)

/-- The running triple in memory. -/
def readTriple (s : State) (q : Req) (c : AttCmd) (plane row : Nat) : Got Triple :=
  (uRead s q (tripleAddr c plane row) (8 + 4 * c.dv)).map fun w =>
    { m := BitVec.ofNat 32 (field w 0 4), l := BitVec.ofNat 32 (field w 4 4),
      o := (List.range c.dv).map fun i => BitVec.ofNat 32 (field w (8 + 4 * i) 4) }

/-- The running triple is written. -/
def writeTriple (s : State) (q : Req) (c : AttCmd) (plane row : Nat) (t : Triple) : Got State :=
  uWrite s q (tripleAddr c plane row) (tripleBytes t)

/-- R174: the finalized row: output numbers, log-sum-exp and row status. The reciprocal is that of the command's mode
(03_arithmetic R89), and under COMPAT the logarithm is that of the factory tables (R90). -/
def finalizeTriple (bank : Tab (BitVec 32)) (compat : Bool) (t : Triple) : List Num × BitVec 32 × BitVec 16 :=
  if f32IsNan t.m || f32IsNan t.l then (t.o.map fun _ => .nan, f32Nan, rowNan)
  else if numIsZero (f32Num t.l) then (t.o.map fun _ => .fin false 0 0, f32NegInf, rowEmpty)
  else
    let r := rowFn bank compat 4 t.l
    (t.o.map fun x => match numMul (f32Num x) (f32Num r) with
      | .fin _ 0 _ => .fin false 0 0
      | y => y, f32Add t.m (nativeFn (if compat then [] else bank) 3 t.l), 0)

/-- R174, R83: a finalized row is written. DLSE is no output element for NAN and INF: the model's choice (log 100). -/
def finalizeRow (s : State) (q : Req) (e : Nat) (bank : Tab (BitVec 32)) (c : AttCmd) (plane row floors : Nat) (t : Triple) :
    Got (State × BitVec 16) := do
  let f := finalizeTriple bank c.compat t
  let st := f.2.2 ||| (if floors = 0 then 0 else rowFloor)
  let s := if f.2.2.getLsbD 0 then bumpEc s e cntEmptyRow else s
  let w ← match c.out with
    | some d => foldGot (fun (x : State × BitVec 16) (yi : Num × Nat) => do
        let y := toCode (formatLayout d.format) yi.1
        let u ← writeElem x.1 q d ⟨plane, 0, 0⟩ row yi.2 y.1
        return (u, x.2 ||| y.2)) (s, 0) f.1.zipIdx
    | none => pure (s, 0)
  let u ← match c.lse with
    | some d => writeElem w.1 q d ⟨plane, 0, 0⟩ row 0 f.2.1.toNat
    | none => pure w.1
  let u ← if c.stat = 0 then pure u else uWriteNat u q (c.stat + 2 * (plane * c.q.rows + row)) 2 st.toNat
  return (u, w.2 ||| rowFlags st)

/-- R173: the step triple of row `i` of a block, with `floors` scores raised to the floor, is resolved under FOLD; a running triple passes
through the working area of engine `g`. -/
def resolveRow (s : State) (q : Req) (e g : Nat) (bank : Tab (BitVec 32)) (c : AttCmd) (plane row i floors : Nat) (t : Triple) :
    Got (State × BitVec 16) := do
  let fl : BitVec 16 := if floors = 0 then 0 else flagFloor
  if c.fold = 0 then
    let u ← writeTriple s q c plane row t
    return (u, fl)
  if c.fold = 3 then
    let u ← finalizeRow s q e bank c plane row floors t
    return (u.1, fl ||| u.2)
  let old ← readTriple s q c plane row
  let s := readUse s q (tripleAddr c plane row) (8 + 4 * c.dv)
  let new := foldTriple (rowExp bank c.compat) old t
  let s := putTriple s e g c true i new
  if c.fold = 1 then
    let u ← writeTriple s q c plane row new
    return (u, fl)
  let u ← finalizeRow s q e bank c plane row floors new
  return (u.1, fl ||| u.2)

/-! ### Row blocks (R173, R178) -/

/-- What a row block works on: its rows, the gambit record, and its spans of staged bales. -/
structure BlockWork where
  rows : List AttRow
  gm : Option GambitRec
  spans : List (List Staged)
  deriving DecidableEq, Repr

/-- The work of a row block (R163 to R166). -/
def blockWork (s : State) (q : Req) (die : Nat) (c : AttCmd) (seqs : List SeqPart) (t : TileId) : Got BlockWork := do
  let sq := seqs.getD t.batch { id := 0, len := 0, off := 0 }
  let gm ← attGambit s q c t.batch sq
  let rows ← attRows s q c t.batch t.i sq gm
  let g := t.j / max c.qheads 1
  let list ← attBaleList s q c t.k sq.id g
  let bales ← attBales s q die c gm rows sq.id g list
  let staged ← mapGot (fun b => stageBale s q c b.1 b.2.1 b.2.2) bales
  return { rows, gm, spans := chunksOf c.span (staged.length + 1) staged }

/-- The flags that the staging of a block's bales raised. -/
def BlockWork.flags (w : BlockWork) : BitVec 16 := w.spans.flatten.foldl (fun a b => a ||| b.flags) 0

/-- A row block of native ATTEND on engine `g` of EC `e` (R173). -/
def attBlock (s : State) (q : Req) (die e g : Nat) (c : AttCmd) (seqs : List SeqPart) (t : TileId) : Got (State × BitVec 16) := do
  let w ← blockWork s q die c seqs t
  let bank := (s.ecAt e).rowUnit.active
  let spans := w.spans.map spanKeys
  foldGot (fun (st : State × BitVec 16 × Nat) (ri : AttRow × Nat) => do
    let v ← rowVec st.1 q c.q t.j ri.1.row
    let x := spans.foldl (spanStep (rowExp bank c.compat) c w.gm ri.1 v.nums) { t := emptyTriple c.dv }
    let u := countSat (countFloors st.1 e x.floors) e x.sats
    let u := if spans = [] then u else putRow u e g c ri.2 v.codes x
    let p := putProducts u e g ri.2 st.2.2 x.tiles
    let last := ri.2 + 1 == w.rows.length
    let z ← resolveRow (if last then putRegion p.1 e g p.2 else p.1) q e g bank c t.j ri.1.row ri.2 x.floors x.t
    return (z.1, st.2.1 ||| z.2 ||| x.sat, st.2.2)) (putAllStaged (readsUse s q (w.rows.flatMap fun r => operandRow c.q ⟨t.j, 0, 0⟩ r.row)) q e g c 0 w.spans.flatten, w.flags,
      (s.engineAt e g).region) w.rows.zipIdx
    |>.map fun x => (x.1, x.2.1)

/-! ### Split placement (R179 to R181) -/

/-- Query rows of the command (R181). -/
def AttCmd.queryRows (c : AttCmd) : Nat := c.q.batch * c.q.rows
/-- The scratch addresses of R181: a row maximum, a window word and its flag byte. -/
def splitMaxAddr (c : AttCmd) (j r : Nat) : Nat := c.r.triple + 4 * (j * c.queryRows + r)
def splitW0 (c : AttCmd) : Nat := ceilDiv (c.r.triple + 4 * c.nsplit * c.queryRows) 64 * 64
def splitWinAddr (c : AttCmd) (j r x : Nat) : Nat := splitW0 c + 16 * ((j * c.queryRows + r) * (c.dv + 1) + x)
def splitFlagAddr (c : AttCmd) (j r x : Nat) : Nat :=
  splitW0 c + 16 * c.nsplit * c.queryRows * (c.dv + 1) + (j * c.queryRows + r) * (c.dv + 1) + x

/-- The code of one in a value format. -/
def oneCode (fmt : Nat) : Nat := (toCode (formatLayout fmt) (numPow2 0)).1

/-- R180 round 2: the DV + 1 accumulators of a row over one split's keys: P [V | 1]. -/
def splitAccums (c : AttCmd) (ps : List Nat) (ks : List SpanKey) : List (Accum × Nat) :=
  spanAccums c ps ks ++
    [numDot (anchoredFormat c.pfmt) c.anchorO (codeNums c.pfmt ps) (ks.map fun _ => formatNum c.vfmt (oneCode c.vfmt))]

/-- An accumulator of a split is written to the scratch area (R181); a BF16 accumulator takes the low four bytes. -/
def writeSplit (s : State) (q : Req) (c : AttCmd) (j r x : Nat) (a : Accum) : Got State :=
  match a with
  | .f32 v => uWriteNat s q (splitWinAddr c j r x) 16 v.toNat
  | .win w => do
    let s ← uWriteNat s q (splitWinAddr c j r x) 16 (BitVec.ofInt 128 w.w).toNat
    uWriteNat s q (splitFlagAddr c j r x) 1 w.flags.toNat

/-- R180: the triple of a row from its maximum and the accumulators of its splits, added in increasing split. -/
def splitTriple (c : AttCmd) (m : BitVec 32) (nan : Bool) (accs : List (List Accum)) : Triple :=
  let tot := (List.range (c.dv + 1)).map fun x =>
    accs.foldl (fun (o : Option Accum) l => match l[x]? with | some a => some (accumAdd o a) | none => o) none
  let val := fun (sc : List (BitVec 32)) (o : Option Accum) => match o with | some a => scaledOut c.anchorO sc a | none => 0
  if nan then nanTriple c.dv
  else { m, l := val [] (tot.getD c.dv none), o := (List.range c.dv).map fun x => val [c.vscale] (tot.getD x none) }

/-- R180: one row over all splits: the maxima, the accumulators by split, its triple, and what it leaves. Pass one runs in both rounds, so
a score raised to the floor counts in each (log 108). -/
def splitRow (ex : BitVec 32 → BitVec 32) (c : AttCmd) (r : AttRow) (qs : List Num) (spans : List (List SpanKey)) :
    List (BitVec 32) × List (List Accum) × RowState :=
  let ss := spans.map fun ks => scoreRow c none r qs ks
  let maxima := ss.map RowScores.max
  let m := maxima.foldl f32Max maskFill
  let nan := ss.any RowScores.bad
  let parts := (ss.zip spans).map fun x =>
    let p := (spanProbs ex c.pfmt x.1.live m x.1.stored).1
    (p, splitAccums c p x.2)
  let accs := parts.map fun x => x.2.map Prod.fst
  let sat := ss.foldl (fun f x => f ||| x.sat) 0
  (maxima, accs,
    { t := splitTriple c m nan accs, nan
      sat := accs.foldl (fun f l => l.foldl (fun g a => g ||| accumSat a) f) sat
      sats := 2 * (ss.map RowScores.sats).sum + (parts.map fun x => (x.2.map Prod.snd).sum).sum
      floors := (ss.map RowScores.raised).sum, stored := (ss.getLast?.map RowScores.stored).getD [],
      probs := (parts.getLast?.map Prod.fst).getD []
      tiles := (ss.map fun x => scoreTiles c x.accs) ++ (ss.zip accs).flatMap fun x => [scoreTiles c x.1.accs, valueTiles c x.2] })

/-- A row block of split ATTEND: both rounds and the combine step (R179 to R181, R194). -/
def splitBlock (s : State) (q : Req) (die e g : Nat) (c : AttCmd) (seqs : List SeqPart) (t : TileId) : Got (State × BitVec 16) := do
  let w ← blockWork s q die c seqs t
  require (decide (w.spans.length ≤ c.nsplit)) codeInvalidMacro
  let bank := (s.ecAt e).rowUnit.active
  let spans := w.spans.map spanKeys ++ List.replicate (c.nsplit - w.spans.length) []
  foldGot (fun (st : State × BitVec 16 × Nat) (ri : AttRow × Nat) => do
    let v ← rowVec st.1 q c.q t.j ri.1.row
    let x := splitRow (rowExp bank c.compat) c ri.1 v.nums spans
    let n := t.j * c.q.rows + ri.1.row
    let u := countSat (countFloors st.1 e (2 * x.2.2.floors)) e x.2.2.sats
    let u := putRow u e g c ri.2 v.codes x.2.2
    let p := putProducts u e g ri.2 st.2.2 x.2.2.tiles
    let u := if ri.2 + 1 == w.rows.length then putRegion p.1 e g p.2 else p.1
    let u ← foldGot (fun u (mj : BitVec 32 × Nat) => uWriteNat u q (splitMaxAddr c mj.2 n) 4 mj.1.toNat) u x.1.zipIdx
    let u ← foldGot (fun u (lj : List Accum × Nat) =>
      foldGot (fun u (ax : Accum × Nat) => writeSplit u q c lj.2 n ax.2 ax.1) u lj.1.zipIdx) u x.2.1.zipIdx
    let z ← resolveRow u q e g bank { c with fold := 3 } t.j ri.1.row ri.2 x.2.2.floors x.2.2.t
    return (z.1, st.2.1 ||| z.2 ||| x.2.2.sat, st.2.2)) (putAllStaged (readsUse s q (w.rows.flatMap fun r => operandRow c.q ⟨t.j, 0, 0⟩ r.row)) q e g c 0 w.spans.flatten, w.flags,
      (s.engineAt e g).region) w.rows.zipIdx
    |>.map fun x => (x.1, x.2.1)

/-! ### The backward pass (R190 to R193) -/

/-- A row of the backward pass: its query row, its row of dO, log-sum-exp and D. -/
structure BwdRow where
  r : AttRow
  qv : Vec
  dv : Vec
  lse : BitVec 32
  delta : BitVec 32
  deriving DecidableEq, Repr

/-- The rows of a block with what the backward pass reads of them. -/
def bwdRows (s : State) (q : Req) (c : AttCmd) (plane : Nat) (rows : List AttRow) : Got (List BwdRow) :=
  mapGot (fun r => do
    let qv ← rowVec s q c.q plane r.row
    let dv ← match c.ddo with | some d => rowVec s q d plane r.row | none => pure { codes := [], nums := [] }
    let lse ← match c.lse with | some d => uReadNat s q (elemAddr d ⟨plane, 0, 0⟩ r.row 0) 4 | none => pure 0
    let de ← match c.delta with | some d => uReadNat s q (elemAddr d ⟨plane, 0, 0⟩ r.row 0) 4 | none => pure 0
    return { r, qv, dv, lse := BitVec.ofNat 32 lse, delta := BitVec.ofNat 32 de }) rows

/-- An accumulator of zero. -/
def zeroAccum (anchored : Bool) : Accum := if anchored then .win {} else .f32 0

/-- A row and a key of the backward pass (R190): the accumulators of S and dP, P and dS, their flags, their saturated products, and whether
the score was raised. -/
structure BwdPair where
  sAcc : Accum := .f32 0
  dpAcc : Accum := .f32 0
  p : BitVec 32 := 0
  dS : BitVec 32 := 0
  sat : BitVec 16 := 0
  sats : Nat := 0
  raised : Bool := false
  deriving DecidableEq, Repr

/-- The format and the tensor scale of dO. -/
def AttCmd.doFormat (c : AttCmd) : Nat := (c.ddo.map fun d => d.format).getD 0
def AttCmd.doScale (c : AttCmd) : BitVec 32 := (c.ddo.map fun d => d.tscale).getD f32One

/-- P and dS of a row and a key (R190). `visible` already joins the key's bale. -/
def bwdPair (ex : BitVec 32 → BitVec 32) (c : AttCmd) (b : BwdRow) (k : SpanKey) (visible : Bool) : BwdPair :=
  let d := scoreDot c b.qv.nums k
  let x := attScore c d
  let sc := maskScore visible x.1
  let p := if b.lse = f32NegInf ∨ !visible then 0 else ex (f32Sub sc.stored b.lse)
  let y := numDot (anchoredFormat c.doFormat) c.anchorS b.dv.nums (codeNums c.vfmt k.v)
  let dp := scaledOut c.anchorS [c.doScale, c.vscale] y.1
  { sAcc := d.1, dpAcc := y.1, p, dS := f32Mul p (f32Sub dp b.delta), sat := x.2.1 ||| accumSat y.1, sats := x.2.2 + y.2, raised := sc.raised }

/-- A binary32 value rounded to PFMT. -/
def roundP (c : AttCmd) (x : BitVec 32) : Nat := (toCode (formatLayout c.pfmt) (f32Num x)).1

/-- A gradient of a row of P or dS against a column of numbers, over every span of the tile in one accumulator (R190, R192). -/
def gradDot (c : AttCmd) (ps : List Nat) (xs : List Num) : Accum × Nat := numDot (anchoredFormat c.pfmt) c.anchorO (codeNums c.pfmt ps) xs

/-- Scores raised to the floor, flags and saturated products of a list of pairs: what they count, and the flags. -/
def countPairs (s : State) (e : Nat) (l : List BwdPair) : State × BitVec 16 :=
  let floors := (l.filter BwdPair.raised).length
  (countSat (countFloors s e floors) e (l.map BwdPair.sats).sum,
    l.foldl (fun f x => f ||| x.sat) (if floors = 0 then 0 else flagFloor))

/-- The S and dP tiles of lane `l` take the one region of 256 words in turn (R192). -/
def putPairTiles (s : State) (e g l : Nat) (anchored : Bool) : Nat → List Accum → State
  | 0, _ => s
  | n + 1, xs => if xs = [] then s else putPairTiles (writeAccums s e g l 0 anchored (xs.take 256)) e g l anchored n (xs.drop 256)

/-- The accumulators of S and then of dP of each span of a lane. -/
def putPairs (s : State) (e g l : Nat) (c : AttCmd) (spans : List (List BwdPair)) : State :=
  spans.foldl (fun u ps =>
    let u := putPairTiles u e g l (anchoredFormat c.q.format) ps.length (ps.map BwdPair.sAcc)
    putPairTiles u e g l (anchoredFormat c.doFormat) ps.length (ps.map BwdPair.dpAcc)) s

/-- R193: the dQ of one element under FOLD. -/
def foldGrad (s : State) (q : Req) (c : AttCmd) (d : Desc) (plane row x : Nat) (v : BitVec 32) : Got (State × BitVec 16) := do
  let old ← if c.fold = 1 ∨ c.fold = 2 then
      (uReadNat s q (elemAddr d ⟨plane, 0, 0⟩ row x) (formatBits d.format / 8)).map fun n => codeF32 d.format n
    else pure 0
  let new := if c.fold = 1 ∨ c.fold = 2 then f32Add old v else v
  let y := toCode (formatLayout (if c.fold < 2 then 5 else d.format)) (f32Num new)
  let u ← writeElem s q d ⟨plane, 0, 0⟩ row x y.1
  return (u, y.2)

/-- Where the backward pass reads for a row: its query row, its row of dO, its log-sum-exp and its D. -/
def bwdSpans (c : AttCmd) (plane row : Nat) : List (Nat × Nat) :=
  let one := fun (o : Option Desc) => match o with | some d => [(elemAddr d ⟨plane, 0, 0⟩ row 0, 4)] | none => []
  operandRow c.q ⟨plane, 0, 0⟩ row ++ (match c.ddo with | some d => operandRow d ⟨plane, 0, 0⟩ row | none => []) ++ one c.lse ++ one c.delta

/-- A row block of the query sweep (R190, R192, R193). Its gradients stand in accumulator words 256 on of each lane. -/
def queryBlockBwd (s : State) (q : Req) (die e g : Nat) (c : AttCmd) (seqs : List SeqPart) (t : TileId) : Got (State × BitVec 16) := do
  let w ← blockWork s q die c seqs t
  let ex := rowExp (s.ecAt e).rowUnit.active c.compat
  let spans := w.spans.map spanKeys
  let rows ← bwdRows s q c t.j w.rows
  foldGot (fun (st : State × BitVec 16) (bi : BwdRow × Nat) => do
    let b := bi.1
    let prs := spans.map fun ks => ks.map fun k => (k, bwdPair ex c b k (attVisible c none b.r k.pos k.j k.n))
    let all := prs.flatten
    let ds := all.map fun x => roundP c x.2.dS
    let last := ((prs.getLast?).getD []).map fun x => x.2.dS
    let n := countPairs st.1 e (all.map Prod.snd)
    let u := putPairs n.1 e g bi.2 c (prs.map fun l => l.map Prod.snd)
    let u := if spans = [] then u else
      putProbs (putScores (putResident u e g c bi.2 b.qv.codes) e bi.2 last) e g c bi.2 (last.map (roundP c))
    match c.out with
    | none => return (u, st.2 ||| n.2)
    | some d =>
      foldGot (fun (st : State × BitVec 16) x => do
        let a := gradDot c ds (all.map fun y => formatNum c.kfmt (y.1.k.getD x 0))
        let u := countSat (writeAccum st.1 e g bi.2 (256 + x) a.1) e a.2
        let v := scaledCode c.anchorO [c.kscale, c.scale] a.1
        let y ← foldGrad u q c d t.j b.r.row x (BitVec.ofNat 32 v.1)
        return (y.1, st.2 ||| y.2 ||| innerFlags v.2 ||| accumSat a.1)) (u, st.2 ||| n.2) (List.range c.q.cols))
    (putAllStaged (readsUse s q (rows.flatMap fun b => bwdSpans c t.j b.r.row)) q e g c 0 w.spans.flatten, w.flags) rows.zipIdx

/-- A key block of a key list (R191). -/
structure KeyEntry where
  p : Nat
  g : Nat
  bale : Nat
  blocks : List Nat
  deriving DecidableEq, Repr

/-- Entry `e` of the key list, in range (R191, R194). A query block of another sequence or group, or query block words that do not rise, are out of
range too: the model's choice (log 124). -/
def keyEntry (s : State) (q : Req) (c : AttCmd) (seqs : List SeqPart) (qbs : List QueryBlock) (e : Nat) : Got KeyEntry := do
  let a := c.r.blist + 64 + 32 * e
  let p ← uReadNat s q a 4
  let g ← uReadNat s q (a + 4) 2
  let bale ← uReadNat s q (a + 8) 4
  let n ← uReadNat s q (a + 0x0C) 4
  let off ← uReadNat s q (a + 0x10) 8
  let ws ← mapGot (fun i => uReadNat s q (c.r.blist + off + 4 * i) 4) (List.range n)
  require (bale % 2 == 0 && off % 4 == 0 && decide (p < seqs.length) && decide (g < c.ngrp) &&
    ws.all fun w => match qbs[w % 2 ^ 30]? with | some b => b.p == p && b.g == g | none => false) codeInvalidMacro
  require ((List.range (n - 1)).all fun i => decide (ws.getD i 0 % 2 ^ 30 < ws.getD (i + 1) 0 % 2 ^ 30)) codeInvalidMacro
  return { p, g, bale, blocks := ws }

/-- The bales that a key block reads: those that one of its query blocks selected. -/
def KeyEntry.bales (k : KeyEntry) : List Nat := ([0, 1].filter fun i => k.blocks.any fun w => bit w (30 + i)).map fun i => k.bale + i

/-- The two bales of a key block as staged; the second may be missing at the end of the chain. -/
def keyBales (s : State) (q : Req) (die : Nat) (c : AttCmd) (seq : Nat) (k : KeyEntry) : Got (List Staged) :=
  mapGot (fun i => do
    let n := k.bale + i
    if k.bales.contains n then
      let b ← translate s q die c.t seq (c.t.chain0 + k.g) n
      let first ← uReadNat s q (b.summary + 0x20) 8
      stageBale s q c n b first
    else return { n, first := 128 * n, ntok := 0, keys := [], vals := [] }) [0, 1]

/-- The query rows of a key block in increasing (query block, head), each with its plane, whether its block selected each
bale, and its slot in the span: row blocks take 256 slots (log 23). -/
def keyRows (s : State) (q : Req) (c : AttCmd) (seqs : List SeqPart) (qbs : List QueryBlock) (k : KeyEntry) :
    Got (List (List (Option (BwdRow × Bool × Bool)))) :=
  mapGot (fun wh => do
    let w := wh.1
    let h := wh.2
    let b := qbs.getD (w % 2 ^ 30) { p := 0, k := 0, g := 0 }
    let sq := seqs.getD b.p { id := 0, len := 0, off := 0 }
    let rows ← attRows s q c b.p b.k sq none
    let rs ← bwdRows s q c (b.g * c.qheads + h) rows
    return (List.range 256).map fun i => (rs[i]?).map fun r => (r, bit w 30, bit w 31))
    (k.blocks.flatMap fun w => (List.range c.qheads).map fun h => (w, h))

/-- A slot of a key block's spans against one key: the numbers of its query row and its row of dO, and the pair; nothing where no row
stands. -/
def keyPair (ex : BitVec 32 → BitVec 32) (c : AttCmd) (key : SpanKey) (second : Bool) (o : Option (BwdRow × Bool × Bool)) :
    List Num × List Num × BwdPair :=
  match o with
  | none => ([], [], { sAcc := zeroAccum (anchoredFormat c.q.format), dpAcc := zeroAccum (anchoredFormat c.doFormat) })
  | some x => (x.1.qv.nums, x.1.dv.nums,
      bwdPair ex c x.1 key ((if second then x.2.2 else x.2.1) && attVisible c none x.1.r key.pos key.j key.n))

/-- A zero. -/
def numZero : Num := .fin false 0 0

/-- The gradients of key `i` of key block `n`, written to its block of the buffer: dK, then dV; in absorbed mode the one sum of both, formed in
the same words in the order of the products, span by span (R190), and a free value where their scales differ (log 3). They stand in accumulator words 256 on of lane `i`,
dK before dV (R192): the places are the model's choice (log 125). -/
def writeKeyGrads (s : State) (q : Req) (e g : Nat) (c : AttCmd) (out i : Nat) (spans : List (List (List Num × List Num × BwdPair))) :
    Got (State × BitVec 16) :=
  let prs := spans.flatten
  let ds := prs.map fun y => roundP c y.2.2.dS
  let ps := prs.map fun y => roundP c y.2.2.p
  let dk := fun (x : Nat) => gradDot c ds (prs.map fun y => y.1.getD x numZero)
  let dv := fun (x : Nat) => gradDot c ps (prs.map fun y => y.2.1.getD x numZero)
  if c.latent = 1 then
    foldGot (fun (st : State × BitVec 16) x => do
      let codes := spans.flatMap fun l => (l.map fun y => roundP c y.2.2.p) ++ l.map fun y => roundP c y.2.2.dS
      let nums := spans.flatMap fun l => (l.map fun y => y.2.1.getD x numZero) ++ l.map fun y => y.1.getD x numZero
      let d := gradDot c codes nums
      let a := d.1
      let same := f32Num c.doScale == f32Num (f32Mul c.q.tscale c.scale)
      let t := countSat (writeAccum st.1 e g i (256 + x) a) e d.2
      let w := scaledCode c.anchorO [c.doScale] a
      let v := if same then BitVec.ofNat 32 w.1 else (Config.freeValue t.free).setWidth 32
      let t := if same then t else { t with free := t.free + 1 }
      let t ← uWriteNat t q (out + 4 * (i * c.q.cols + x)) 4 v.toNat
      return (t, st.2 ||| accumSat a ||| (if same then w.2 else (toCode layoutF32 (f32Num v)).2))) (s, 0) (List.range c.q.cols)
  else do
    let r ← foldGot (fun (st : State × BitVec 16) x => do
      let a := dk x
      let t := countSat (writeAccum st.1 e g i (256 + x) a.1) e a.2
      let v := scaledCode c.anchorO [c.q.tscale, c.scale] a.1
      let t ← uWriteNat t q (out + 4 * (i * c.q.cols + x)) 4 v.1
      return (t, st.2 ||| accumSat a.1 ||| v.2)) (s, 0) (List.range c.q.cols)
    foldGot (fun (st : State × BitVec 16) x => do
      let a := dv x
      let t := countSat (writeAccum st.1 e g i (256 + c.q.cols + x) a.1) e a.2
      let v := scaledCode c.anchorO [c.doScale] a.1
      let t ← uWriteNat t q (out + 1024 * c.q.cols + 4 * (i * c.dv + x)) 4 v.1
      return (t, st.2 ||| accumSat a.1 ||| v.2)) r (List.range c.dv)

/-- Pᵀ and dSᵀ of key `i` in the working area of the key sweep: 256 × SPAN words of PFMT per key each, dSᵀ after Pᵀ (log 107). -/
def putKeyProbs (s : State) (e g : Nat) (c : AttCmd) (i : Nat) (ps ds : List Nat) : State :=
  let n := 256 * c.span * (formatBits c.pfmt / 8)
  localStore (localStore s e (residentOff g c 256 + i * n) (codeBytes c.pfmt ps)) e (residentOff g c 256 + (256 + i) * n) (codeBytes c.pfmt ds)

/-- The last span's rows of Q and of dO, dimension-major, for dK and dV (R166, R190; log 107). -/
def putTurnedRows (s : State) (e g : Nat) (c : AttCmd) (rows : List (Option (BwdRow × Bool × Bool))) : State :=
  let size := fun (f : Nat) => formatBits f / 8
  let n := 256 * c.span * c.q.cols * size c.q.format
  let at0 := turnedOff g c (n + 256 * c.span * c.dv * size c.doFormat)
  let s := localStore s e at0 (codeBytes c.q.format (turned c.q.cols (rows.map fun o => (o.map fun x => x.1.qv.codes).getD [])))
  localStore s e (at0 + n) (codeBytes c.doFormat (turned c.dv (rows.map fun o => (o.map fun x => x.1.dv.codes).getD [])))

/-- Where a key block reads its query rows. -/
def keyRowSpans (c : AttCmd) (qbs : List QueryBlock) (k : KeyEntry) (blocks : List (List (Option (BwdRow × Bool × Bool)))) : List (Nat × Nat) :=
  ((k.blocks.flatMap fun w => (List.range c.qheads).map fun h => (qbs.getD (w % 2 ^ 30) { p := 0, k := 0, g := 0 }).g * c.qheads + h).zip blocks).flatMap
    fun pb => pb.2.flatMap fun o => match o with | some x => bwdSpans c pb.1 x.1.r.row | none => []

/-- A key block of the key sweep (R190, R191): its bales are staged, with the flags and the saturated products of their expansion (R69). -/
def keyBlockBwd (s : State) (q : Req) (die e g : Nat) (c : AttCmd) (seqs : List SeqPart) (n : Nat) : Got (State × BitVec 16) := do
  let qbs := queryBlocks c seqs
  let k ← keyEntry s q c seqs qbs n
  let sq := seqs.getD k.p { id := 0, len := 0, off := 0 }
  let bales ← keyBales s q die c sq.id k
  let blocks ← keyRows s q c seqs qbs k
  let ex := rowExp (s.ecAt e).rowUnit.active c.compat
  let spans := chunksOf c.span (blocks.length + 1) blocks
  let out := c.r.triple + n * 1024 * (c.q.cols + c.dv)
  foldGot (fun (st : State × BitVec 16) (ki : SpanKey × Nat) => do
    let prs := spans.map fun bl => bl.flatten.map fun o => keyPair ex c ki.1 (decide (128 ≤ ki.2)) o
    let last := (prs.getLast?).getD []
    let m := countPairs st.1 e (prs.flatten.map fun x => x.2.2)
    let u := putPairs m.1 e g ki.2 c (prs.map fun l => l.map fun x => x.2.2)
    let u := if spans = [] then u else
      putKeyProbs (putScores (putResident u e g c ki.2 ki.1.k) e ki.2 (last.map fun x => x.2.2.dS)) e g c ki.2
        (last.map fun x => roundP c x.2.2.p) (last.map fun x => roundP c x.2.2.dS)
    let z ← writeKeyGrads u q e g c out ki.2 prs
    return (z.1, st.2 ||| m.2 ||| z.2))
    (putTurnedRows (putAllStaged (readsUse s q (keyRowSpans c qbs k blocks)) q e g c 0 bales) e g c ((spans.getLast?.map List.flatten).getD []), bales.foldl (fun f b => f ||| b.flags) 0)
    (spanKeys bales).zipIdx

/-- One tile of ATTEND or ATTEND_BWD as a whole; a split placement does a row block with the tile of its first round's
first split. -/
def attTileRun (s : State) (q : Req) (die e g : Nat) (c : AttCmd) (seqs : List SeqPart) (t : TileId) : Got (State × BitVec 16) :=
  if c.bwd then
    if c.place = 1 then keyBlockBwd s q die e g c seqs t.i else queryBlockBwd s q die e g c seqs t
  else if c.place = 1 then (if t.sub = 0 then splitBlock s q die e g c seqs t else .ok (s, 0))
  else attBlock s q die e g c seqs t

/-- The bales that a tile looks up, as sequence, chain and bale (07_kv R210). -/
def attLookups (s : State) (q : Req) (c : AttCmd) (seqs : List SeqPart) (t : TileId) : List (Nat × Nat × Nat) :=
  let chain := fun (g n : Nat) (p : Nat) => ((seqs.getD p { id := 0, len := 0, off := 0 }).id, c.t.chain0 + g, n)
  if c.bwd && c.place == 1 then
    match keyEntry s q c seqs (queryBlocks c seqs) t.i with
    | .ok k => k.bales.map fun n => chain k.g n k.p
    | .error _ => []
  else
    let g := t.j / max c.qheads 1
    match attBaleList s q c t.k (seqs.getD t.batch { id := 0, len := 0, off := 0 }).id g with
    | .ok l => l.map fun n => chain g n t.batch
    | .error _ => []

end Sys2Proof.Machine
end

