-- ==== Sys2Proof/Machine/Checks.lean ====
section
/-! DEFINITION. The checks of a command word with its descriptors and tables, by the loader's codes (05_macro R156, R157;
03_arithmetic R53, R57, R62, R89; 06_attend R158 to R193; 07_kv R214, R216, R217). -/

namespace Sys2Proof.Machine

/-- The codes of the checks that fail. -/
def failing (l : List (Bool × Code)) : List Code := (l.filter fun x => !x.1).map Prod.snd

/-! ### Descriptors (05_macro R126 to R131) -/

/-- The 64 bytes of a descriptor, as a command names it. -/
def descBytes (s : State) (q : Req) (word : List Byte) (i : Nat) : Got (List Byte) :=
  uRead s q (wDtab word % 2 ^ 48 + 64 * i) 64

/-- Bits [63:48] of an address field are zero. -/
def topClear (w : List Byte) (off : Nat) : Bool := field w off 8 / 2 ^ 48 == 0

/-- Bytes of a row of elements. -/
def rowBytes (d : Desc) : Nat := ceilDiv (d.cols * formatBits d.format) 8

/-- 05_macro R126, R127: the fields of one descriptor; `out` for an output or partial. -/
def descChecks (w : List Byte) (out : Bool) : List Code :=
  let d := Desc.ofBytes w
  let scaled := bit d.flags 0
  failing [
    (d.base % 256 == 0 && d.auxBase % 256 == 0 && d.scaleBase % 64 == 0, 0x1004),
    (topClear w 0 && topClear w 0x20 && topClear w 0x38 && decide (d.flags < 4), 0x1006),
    (decide (d.format < 8) && d.rowStride % 64 == 0 && decide (rowBytes d ≤ d.rowStride), 0x1006),
    (decide (1 ≤ d.rows) && decide (d.rows ≤ 2 ^ 30) && decide (1 ≤ d.cols) && decide (d.cols ≤ 2 ^ 30), 0x1006),
    (d.scaleStride % 64 == 0 && d.batchStride % 256 == 0, 0x1006),
    (!scaled || decide (ceilDiv d.cols (formatBlock d.format) ≤ d.scaleStride), 0x1006),
    (out || d.anchor == 0, 0x1006),
    (!out || d.format == 6 || d.tscale == f32One, 0x1006),
    (d.format != 4 || d.tscale == f32One, 0x1006),
    (out || d.format != 0 || scaled, 0x1006),
    (d.format != 6 || decide (d.cols ≤ d.scaleStride), 0x1006),
    (decide (-512 ≤ d.anchor) && decide (d.anchor ≤ 511), 0x100F),
    (decide (1 ≤ d.batch) && decide (d.batch ≤ 65536), 0x1014)]

/-- The word offsets of the descriptor indices that a command may leave out with `0xFFFF` (05_macro R132 to R136; 06_attend R160, R189;
07_kv R217). -/
def optionalFields (op : Nat) : List Nat :=
  match op with
  | 0x01 => [0x1E] | 0x02 => [0x2A] | 0x04 => [0x1E] | 0x05 => [0x1C, 0x1E] | 0x08 => [0x1A, 0x1C] | 0x09 => [0x34]
  | 0x0B => [0x18, 0x1A] | _ => []

/-- A command leaves out the descriptor whose index stands at an offset of its word. -/
def leftOut (word : List Byte) (o : Nat) : Bool := field word o 2 == 0xFFFF && (optionalFields (wOpcode word)).contains o

/-- The codes of the descriptors at a list of word offsets, each with whether it is an output; one that is left out has none. -/
def descListChecks (s : State) (q : Req) (word : List Byte) (l : List (Nat × Bool)) : Got (List Code) :=
  (mapGot (fun x => if leftOut word x.1 then .ok [] else (descBytes s q word (field word x.1 2)).map fun w => descChecks w x.2) l).map
    List.flatten

/-! ### Formats (03_arithmetic R53) -/

/-- An operand pair of R53. -/
def pairOk (a b : Nat) : Bool :=
  (a == 0 && b == 0) || (a == 3 && b == 3) || (a == 4 && b == 4) || ((a == 1 || a == 2) && (b == 1 || b == 2))
/-- An output format of a pair. -/
def outOk (a o : Nat) : Bool := if a = 4 then o == 4 || o == 5 else o == 1 || o == 2 || o == 4 || o == 5
/-- An operand of the row unit, and an output of it (05_macro R135, R136). -/
def rowInOk (f : Nat) : Bool := f == 4 || f == 5
def rowOutOk (f : Nat) : Bool := f == 1 || f == 2 || f == 4 || f == 5

/-- 05_macro R138: the functions of ROWFN, of CHAIN, and those with a compatibility mode. -/
def rowfnOk (f : Nat) : Bool := decide (f < 0x0A) || (decide (0x10 ≤ f) && decide (f < 0x14))
def chainFnOk (f : Nat) : Bool := [0, 1, 6, 7, 8, 9, 0x10].contains f
def compatOk (f : Nat) : Bool := [1, 4, 6, 7, 0x10, 0x20].contains f

/-- 05_macro R139: TILE_B and TILE_C of a mode. -/
def tileOk (mode b c : Nat) (anchored : Bool) : Bool :=
  decide (1 ≤ c) && decide (c ≤ 64) && decide (mode < 3) &&
  (if mode = 2 then b == 1 else decide (1 ≤ b) && decide (b ≤ 16) && (!anchored || decide (b ≤ 8)))

/-! ### The header (05_macro R123) -/

/-- The header of a command: the engines it may name, its mode, and whether COMPAT may be set. -/
def headChecks (w : List Byte) (eng mode compat : Bool) : List Code :=
  failing [
    (wDtab w % 64 == 0 && wCompl w % 16 == 0, 0x1003),
    (decide (wCtl w < 32) && decide (wEng w < 3) && decide (field w 2 1 < 3) && decide (field w 3 1 < 64), 0x1006),
    (topClear w 8 && topClear w 0x10, 0x1006),
    (eng || wEng w == 0, 0x1006),
    (mode || field w 2 1 == 0, 0x1006),
    (compat || !wCompat w, 0x1006)]

/-- Bytes `a` to `b - 1` of the word are zero. -/
def reservedZero (w : List Byte) (a b : Nat) : Bool := ((w.drop a).take (b - a)).all fun x => x == 0

/-! ### Length tables (05_macro R143) -/

/-- Two ranges of rows meet. -/
def rangesMeet (x y : Nat × Nat) : Bool := decide (0 < x.1) && decide (0 < y.1) && decide (x.2 < y.2 + y.1) && decide (y.2 < x.2 + x.1)

/-- No two of a list of (length, offset) ranges meet. -/
def rangesDisjoint : List (Nat × Nat) → Bool
  | [] => true
  | x :: r => (r.all fun y => !rangesMeet x y) && rangesDisjoint r

/-- The entries of a length table lie within `rows`, number `n`, and are disjoint where the table limits an output. -/
def ltabChecks (s : State) (q : Req) (ltab ltabN n rows : Nat) (out : Bool) : Got (List Code) :=
  if ltab = 0 then .ok []
  else if ltabN ≠ n then .ok (failing [(ltab % 256 == 0, 0x1004), (false, 0x100D)])
  else (mapGot (fun p => lengthEntry s q ltab p) (List.range n)).map fun es =>
    failing [(ltab % 256 == 0, 0x1004), (es.all fun e => decide (e.2 + e.1 ≤ rows), 0x100D),
      (!out || rangesDisjoint es, 0x100D)]

/-! ### One command -/

/-- MATMUL (05_macro R132, R139 to R144). With a length table the limited extents need not agree (R143; log 93). -/
def matmulChecks (s : State) (q : Req) (w : List Byte) : Got (List Code) := do
  let ds ← descListChecks s q w [(0x18, false), (0x1A, false), (0x1C, true), (0x1E, true)]
  let c ← matCmd s q w
  let sk := matRanges c
  let batchOk := fun (d : Desc) => d.batch == 1 || d.batch == c.c.batch
  let n := field w 0x24 4
  let lt ← ltabChecks s q c.ltab n c.c.batch (if c.ldim then min c.b.rows c.c.cols else min c.a.rows c.c.rows) true
  return ds ++ lt ++ headChecks w true true false ++ failing [
    (decide (field w 0x23 1 < 4) && reservedZero w 0x30 0x40 && topClear w 0x28, 0x1006),
    (pairOk c.a.format c.b.format && outOk c.a.format c.c.format, 0x1007),
    (tileOk c.mode c.tileB c.tileC (anchoredFormat c.a.format), 0x1008),
    (!anchoredFormat c.a.format || c.mode == 2 || decide (c.tileB ≤ 8), 0x1009),
    (!anchoredFormat c.a.format || decide (c.a.cols ≤ 2 ^ 27), 0x100A),
    (decide (sk ≤ 1) || (bit (field w 0x23 1) 0 && (match c.dp with | some d => d.batch == sk * c.c.batch | none => false)), 0x100B),
    (c.a.cols == c.b.cols && ((c.ltab != 0 && !c.ldim) || c.c.rows == c.a.rows) &&
      ((c.ltab != 0 && c.ldim) || c.c.cols == c.b.rows) && batchOk c.a && batchOk c.b &&
      (match c.dp with | some d => d.rows == c.c.rows && d.cols == c.c.cols | none => true), 0x100C),
    (match c.dp with | some d => d.format == (if anchoredFormat c.a.format then 6 else 5) | none => true, 0x1007),
    (match c.dp with | some d => !anchoredFormat c.a.format || d.anchor == c.c.anchor | none => true, 0x100F),
    (c.ltab != 0 || n == 0, 0x100D),
    (decide (1 ≤ field w 0x22 1) && decide (field w 0x22 1 ≤ 16), 0x1014)]

/-- CHAIN (05_macro R133, R153, R154). CHAIN has one lane arrangement here: MODE 1 and 2 are refused with 0x1006, which is
the model's choice, since no rule says what MODE means for CHAIN (log 115). X buffers outside the local store break a limit of R154 (0x1008)
and are a local-store shortfall (0x1013); R156 names both codes, and both are given (log 120). -/
def chainChecks (s : State) (q : Req) (w : List Byte) : Got (List Code) := do
  let ds ← descListChecks s q w [(0x18, false), (0x1A, false), (0x1C, false), (0x1E, true), (0x2A, false)]
  let c ← chainCmd s q w
  let batchOk := fun (d : Desc) => d.batch == 1 || d.batch == c.y.batch
  let lt ← ltabChecks s q c.ltab (field w 0x38 4) c.y.batch (min c.a.rows c.y.rows) true
  let xs := 2 * (256 * c.b.rows * (formatBits c.xfmt / 8))
  return ds ++ lt ++ headChecks w true false true ++ failing [
    (reservedZero w 0x3C 0x40 && topClear w 0x30, 0x1006),
    (c.xls % 256 == 0, 0x1004),
    ((c.xfmt == 1 || c.xfmt == 2 || c.xfmt == 4) && pairOk c.a.format c.b.format && pairOk c.xfmt c.d.format &&
      outOk c.xfmt c.y.format, 0x1007),
    (tileOk 0 c.tileB 1 (anchoredFormat c.xfmt) && decide (c.a.cols ≤ 64 * formatDepth c.a.format) &&
      decide (c.b.rows ≤ min 4096 (64 * formatDepth c.xfmt)), 0x1008),
    (!anchoredFormat c.xfmt || decide (c.tileB ≤ 8), 0x1009),
    (c.a.cols == c.b.cols && c.d.cols == c.b.rows && c.y.cols == c.d.rows && (c.ltab != 0 || c.y.rows == c.a.rows) && batchOk c.a &&
      batchOk c.b && batchOk c.d &&
      (match c.dmask with | some m => m.rows == c.a.rows && m.cols == c.b.rows && batchOk m | none => true), 0x100C),
    (match c.dmask with | some m => m.format == 7 | none => true, 0x1007),
    (c.ltab != 0 || field w 0x38 4 == 0, 0x100D),
    (chainFnOk c.func && (!c.compat || compatOk c.func), 0x100E),
    (decide (-512 ≤ c.anchor1) && decide (c.anchor1 ≤ 511) && (anchoredFormat c.a.format || c.anchor1 == 0), 0x100F),
    (decide (c.xls + xs ≤ 0x800000), 0x1008),
    (decide (c.xls + xs ≤ 0x800000), 0x1013),
    (decide (1 ≤ field w 0x22 1) && decide (field w 0x22 1 ≤ 16), 0x1014)]

/-- COMBINE (05_macro R134, R152). -/
def combineChecks (s : State) (q : Req) (w : List Byte) : Got (List Code) := do
  let ds ← descListChecks s q w [(0x18, true), (0x1A, true)]
  let c ← combineCmd s q w
  return ds ++ headChecks w true true false ++ failing [
    (reservedZero w 0x20 0x40, 0x1006),
    ((c.dp.format == 6 && (outOk 1 c.dc.format || c.dc.format == 6)) || (c.dp.format == 5 && outOk 4 c.dc.format), 0x1007),
    (tileOk c.mode c.tileB 1 (c.dp.format == 6), 0x1008),
    (c.dp.format != 6 || c.mode == 2 || decide (c.tileB ≤ 8), 0x1009),
    (c.dp.rows == c.dc.rows && c.dp.cols == c.dc.cols && c.dp.batch == c.npart * c.dc.batch, 0x100C),
    (c.dc.format != 6 || c.dc.anchor == c.dp.anchor, 0x100F),
    (decide (2 ≤ c.npart) && decide (c.npart ≤ 1024), 0x1014),
    (decide (1 ≤ field w 0x1F 1) && decide (field w 0x1F 1 ≤ 16), 0x1014)]

/-- NORM and ROWFN (05_macro R135, R136, R138). STAT of a ROWFN is held to the 64-byte alignment that R135 gives NORM's (log 121). -/
def rowChecks (s : State) (q : Req) (w : List Byte) : Got (List Code) := do
  let norm := wOpcode w == 4
  let c ← rowCmd s q w
  let ds ← descListChecks s q w ([(0x18, false), (0x1A, true), (0x1C, false)] ++
    (if norm then [(0x1E, false)] else [(0x1E, true)]))
  let batchOk := fun (d : Desc) => d.batch == 1 || d.batch == c.dy.batch
  let vec := fun (o : Option Desc) => match o with
    | some d => d.rows == 1 && d.cols == c.dx.cols && batchOk d
    | none => false
  let isFormat := fun (o : Option Desc) (f : Nat → Bool) => match o with | some d => f d.format | none => true
  let reduce := !norm && decide (0x11 ≤ c.func) && decide (c.func ≤ 0x13)
  let layer := c.func == 0x20
  return ds ++ headChecks w false false true ++ failing [
    (field w 0x22 2 == 0 && reservedZero w 0x30 0x40 && topClear w 0x28, 0x1006),
    (c.stat % 64 == 0, 0x1004),
    (!(norm || c.func == 0x10) || c.stat != 0, 0x1006),
    (!norm || !c.param.getLsbD 31, 0x1006),
    (rowInOk c.dx.format && (if reduce then c.dy.format == 5 else rowOutOk c.dy.format) &&
      (if norm then isFormat c.dg rowInOk && isFormat c.dbeta rowInOk
       else isFormat c.dmask (fun f => f == 7) && isFormat c.daux (fun f => f == 5)), 0x1007),
    (c.dy.rows == c.dx.rows && c.dy.cols == (if reduce then 1 else c.dx.cols) && (c.dx.batch == 1 || c.dx.batch == c.dy.batch) &&
      (if norm then vec c.dg && (!layer || vec c.dbeta)
       else (match c.dmask with | some m => m.rows == c.dx.rows && m.cols == c.dx.cols && batchOk m | none => true) &&
         (match c.daux with | some d => d.cols == 1 && d.rows == c.dx.rows && d.batch == c.dy.batch | none => true)), 0x100C),
    ((if norm then layer || c.func == 0x21 else rowfnOk c.func) && (!c.compat || compatOk c.func) &&
      (!norm || layer || c.dbeta.isNone), 0x100E),
    (norm || c.func == 0x10 || c.daux.isNone, 0x1006),
    (norm || c.func != 0x10 || decide (c.dx.cols ≤ 4096), 0x1013),
    (decide (1 ≤ field w 0x21 1) && decide (field w 0x21 1 ≤ 16), 0x1014)]

/-- The view root that a command names, and its table header (07_kv R204, R205). -/
def viewRootChecks (root : Nat) (t : KvTable) : List Code :=
  failing [(root % 4096 == 0 && t.dir % 4096 == 0 && t.pstore % 4096 == 0, 0x1005)]

/-- The descriptors of the up-projections of a view (07_kv R204; 05_macro R126). -/
def upChecks (s : State) (q : Req) (root : Nat) : Got (List Code) :=
  (viewBytes s q root).map fun v => descChecks ((v.drop 0x40).take 64) false ++ descChecks ((v.drop 0x80).take 64) false

/-- The buffers that a pool holds begin on 4 KiB boundaries (07_kv R198, R206, R208). -/
def poolAligned (s : State) (q : Req) (pool : Nat) : Got Bool := do
  let base ← uReadNat s q pool 8
  let cap ← uReadNat s q (pool + 8) 8
  let head ← uReadNat s q (pool + 0x10) 8
  let tail ← uReadNat s q (pool + 0x18) 8
  let es ← mapGot (fun i => uReadNat s q (base % 2 ^ 48 + 8 * ((head + i) % max cap 1)) 8) (List.range (min cap (tail - head)))
  return es.all fun a => a % 4096 == 0

/-- The pools of a bale table, with the node pool of its prefix store (07_kv R205, R223). -/
def poolChecks (s : State) (q : Req) (t : KvTable) : Got (List Code) := do
  let l ← mapGot (poolAligned s q) ([t.poolH, t.poolL, t.poolS] ++ if t.pstore = 0 then [] else [t.pstore + 0x20])
  return failing [(l.all id, 0x1005)]

/-- 07_kv R215: the products of an expansion: the up-projections pair with L, are DQK and DV rows of DL, and have their anchors. -/
def expansionChecks (t : KvTable) : List Code :=
  let l := t.sfmt % 16
  let inRange := fun (a : Int) => decide (-512 ≤ a) && decide (a ≤ 511) && (anchoredFormat l || a == 0)
  failing [
    (pairOk l t.upk.format && pairOk l t.upv.format && outOk l (t.xfmt % 16) && outOk l (t.xfmt / 16), 0x1007),
    (t.upk.cols == t.dl && t.upv.cols == t.dl && t.upk.rows == t.dqk && t.upv.rows == t.dv, 0x100C),
    (inRange t.ak && inRange t.av, 0x100F)]

/-- EXPAND (07_kv R215, R216). -/
def expandChecks (s : State) (q : Req) (w : List Byte) : Got (List Code) := do
  let ds ← descListChecks s q w [(0x30, true), (0x32, true)]
  let t ← kvTable s q (field w 0x18 8 % 2 ^ 48)
  let us ← upChecks s q (field w 0x18 8 % 2 ^ 48)
  return ds ++ us ++ viewRootChecks (field w 0x18 8) t ++ expansionChecks t ++ headChecks w true false false ++ failing [
    (topClear w 0x18 && field w 0x26 2 == 0 && reservedZero w 0x34 0x40 && decide (1 ≤ field w 0x2C 4) &&
      decide (field w 0x2C 4 ≤ 65536), 0x1006)]

/-- 06_attend R183: the bucket path of an attention command or a SELECT_BALES: whole buckets and no length table, which is the model's choice
(log 123). -/
def bucketOk (bucket ltab rows : Nat) : Bool :=
  bucket == 0 || (decide (bucket ≤ 4) && ltab == 0 && rows % bucketTokens bucket == 0)

/-- 06_attend R158, R183: the bucket path of an attention command, with GATE 1. -/
def bucketChecks (c : AttCmd) : List Code :=
  failing [(bucketOk c.bucket c.r.ltab c.q.rows && (c.bucket == 0 || c.gate == 1), 0x1006)]

/-- Accumulator words per lane slice (04_matrix R111). -/
def sliceWords (anchored : Bool) : Nat := if anchored then 512 else 2048

/-- The alignment of the areas that an attention record names (06_attend R161; log 95). -/
def recordAligned (e : List Byte) : Bool :=
  field e 0x14 4 % 256 == 0 && [0x18, 0x20, 0x28, 0x30, 0x38].all fun o => field e o 8 % 64 == 0

/-- ATTEND and ATTEND_BWD (06_attend R158 to R193). -/
def attendChecks (s : State) (q : Req) (w : List Byte) : Got (List Code) := do
  let bwd := wOpcode w == 9
  let ds ← descListChecks s q w (if bwd then [(0x18, false), (0x1A, false), (0x1C, false), (0x32, false), (0x34, true)]
    else [(0x18, false), (0x1A, true), (0x1C, true)])
  let c ← attCmd s q w
  let ctl := field w 0x24 1
  let fp8 := fun (f : Nat) => f == 1 || f == 2
  let widthOk := fun (n : Nat) => decide (16 ≤ n) && decide (n ≤ 1024) && n % 16 == 0
  let anchored := anchoredFormat c.q.format
  let planes := c.ngrp * c.qheads
  let shape := fun (o : Option Desc) (cols : Nat) => match o with
    | some d => d.rows == c.q.rows && d.batch == c.q.batch && d.cols == cols
    | none => true
  let single := fun (o : Option Desc) => match o with | some d => d.format == 5 | none => true
  let e ← descBytes s q w (field w 0x1E 2)
  let lt ← ltabChecks s q c.r.ltab c.r.ltabN c.r.ltabN c.q.rows (!bwd || c.place == 0)
  let us ← if c.latent = 2 then upChecks s q c.r.btab else pure []
  let demand := if c.place = 1 then 256 + c.q.cols + (if c.latent = 1 then 0 else c.dv) else 256 + c.q.cols
  return ds ++ lt ++ headChecks w true false true ++ bucketChecks c ++ viewRootChecks c.r.btab c.t ++
    us ++ (if c.latent = 2 then expansionChecks c.t else []) ++ failing [
    (c.r.ltab % 256 == 0, 0x1004),
    (recordAligned e, 0x1004),
    ([0, 8, 0x18, 0x20, 0x28, 0x30, 0x38].all (topClear e), 0x1006),
    (decide (field w 0x25 1 < 4) && (if bwd then reservedZero w 0x27 0x28 && reservedZero w 0x39 0x40 && decide (c.place < 2)
      else reservedZero w 0x35 0x38 && topClear w 0x38) && decide (c.latent < 3) && decide (c.gate < 2), 0x1006),
    (widthOk c.q.cols && widthOk c.dv && decide (1 ≤ c.qheads) && decide (c.qheads ≤ 64) && decide (1 ≤ c.span) &&
      decide (c.span ≤ (if c.pfmt = 4 ∨ (bwd ∧ c.place = 1) then 16 else 32)), 0x1006),
    (decide (c.mask < 2) || c.r.bounds != 0, 0x1006),
    (decide (1 ≤ c.ngrp) && decide (c.ngrp ≤ 1024), 0x1006),
    (c.q.batch == planes, 0x100C),
    ((fp8 c.q.format && fp8 c.kfmt) || (c.q.format == 4 && c.kfmt == 4), 0x1007),
    ((fp8 c.vfmt && fp8 c.pfmt) || (c.vfmt == 4 && c.pfmt == 4), 0x1007),
    (if bwd then (match c.ddo with | some d => d.format == c.vfmt | none => false)
     else (match c.out with | some d => rowOutOk d.format | none => true), 0x1007),
    (single c.lse && (!bwd || (single c.delta && single c.out)), 0x1007),
    (if bwd then c.lse.isSome && c.delta.isSome && c.out.isSome == (c.place == 0) else c.out.isSome == (c.fold == 2 || c.fold == 3), 0x1006),
    (if bwd then shape c.ddo c.dv && shape c.lse 1 && shape c.delta 1 && shape c.out c.q.cols
     else shape c.out c.dv && shape c.lse 1, 0x100C),
    (decide (-512 ≤ c.anchorS) && decide (c.anchorS ≤ 511) && decide (-512 ≤ c.anchorO) && decide (c.anchorO ≤ 511) &&
      (bwd || ((anchored || c.anchorS == 0) && (anchoredFormat c.vfmt || c.anchorO == 0))), 0x100F),
    (!bwd || decide (demand ≤ sliceWords anchored), 0x1009),
    (bwd || c.place == 0 || decide (256 + c.dv + 1 ≤ sliceWords anchored), 0x1009),
    (bwd || (if c.place = 1 then c.gate == 1 && c.fold == 3 && !bit ctl 7 && c.latent == 0 && decide (2 ≤ c.nsplit) && decide (c.nsplit ≤ 64)
      else c.nsplit == 0), 0x1006),
    (!bwd || c.place == 0 || c.gate == 0, 0x1006),
    (decide (c.r.lsArea + 2 * workArea c ≤ 0x800000), 0x1013),
    (decide (1 ≤ field w 0x30 1) && decide (field w 0x30 1 ≤ 16), 0x1014)]

/-- GAMBIT_COMMIT (06_attend R186). -/
def gambitChecks (s : State) (q : Req) (w : List Byte) : Got (List Code) := do
  let root := field w 0x20 8 % 2 ^ 48
  let t ← kvTable s q root
  return headChecks w false false false ++ viewRootChecks root t ++ failing [
    (field w 0x18 8 % 64 == 0, 0x1003),
    (topClear w 0x18 && topClear w 0x20 && reservedZero w 0x2E 0x40 && decide (1 ≤ field w 0x28 4) &&
      decide (field w 0x28 4 ≤ 65536) && decide (1 ≤ field w 0x2C 2), 0x1006)]

/-- APPEND_KV (07_kv R217). -/
def appendChecks (s : State) (q : Req) (w : List Byte) : Got (List Code) := do
  let op := field w 0x1C 1
  let ds ← descListChecks s q w [(0x18, false), (0x1A, false)]
  let rows ← match optDesc s q w (field w 0x18 2) with
    | .ok (some d) => pure (some d.rows)
    | .ok none => pure none
    | .error e => .error e
  let root := field w 0x20 8 % 2 ^ 48
  let t ← kvTable s q root
  let es ← mapGot (fun p => lengthEntry s q (field w 0x28 8 % 2 ^ 48) p) (List.range (field w 0x30 4))
  let ps ← poolChecks s q t
  return ds ++ ps ++ headChecks w false false false ++ viewRootChecks root t ++ failing [
    (field w 0x28 8 % 256 == 0, 0x1004),
    (decide (op < 5) && decide (field w 0x1E 1 < 2) && field w 0x1F 1 == 0 && field w 0x34 4 == 0 && topClear w 0x20 &&
      topClear w 0x28 && topClear w 0x38, 0x1006),
    ((op == 2 || op == 3) || field w 0x38 8 == 0, 0x1006),
    (match rows with | some n => 2 ≤ op || es.all fun e => decide (e.2 + e.1 ≤ n) | none => true, 0x100D),
    (decide (1 ≤ field w 0x1D 1) && decide (field w 0x1D 1 ≤ 16), 0x1014)]

/-- COPY, GATHER and SCATTER (10_streams R317); `port` is the ledger of the issuer, or 4 for the hub. -/
def streamChecks (s : State) (q : Req) (port : Nat) (issuer : Fin 264) (w : List Byte) : Got (List Code) := do
  let d ← descBytes s q w (field w 0x18 2)
  let kind := field d 0x26 1 % 16
  let wanted := match wOpcode w with | 0x12 => 0 | 0x10 => 1 | _ => 2
  let crewOk := if port < 4 then crewUnits port w == [issuer.val / 2] else (crewUnits port w).length == 1
  return headChecks w false false false ++ failing [
    (kind == wanted && reservedZero w 0x1B 0x40, 0x1006),
    (decide (field w 0x1A 1 < 64) || field w 0x1A 1 == 0xFF, 0x1006),
    (crewOk, 0x1014)]

/-- SEARCH (08_dragoman R249, R250): what its word and its search record show. -/
def searchChecks (s : State) (q : Req) (w : List Byte) : Got (List Code) := do
  let e ← descBytes s q w (field w 0x22 2)
  let k := field w 0x24 2
  let ds ← descListChecks s q w [(0x20, false)]
  let queries ← descOf s q w (field w 0x20 2)
  return ds ++ headChecks w false false false ++ failing [
    (queries.batch == 1 && decide (queries.rows ≤ 1048576), 0x1006),
    (field e 0 8 % 256 == 0 && field e 0x10 8 % 64 == 0, 0x1004),
    (field w 0x18 8 % 4096 == 0, 0x1005),
    (topClear w 0x18 && decide (field w 0x2E 1 < 4) && reservedZero w 0x30 0x40 && topClear e 0 && topClear e 0x10 &&
      topClear e 0x18 && field e 0x20 8 % 64 == 0 && reservedZero e 0x28 0x40 && (bit (field w 0x2E 1) 0 || field e 0x18 8 == 0), 0x1006),
    (decide (1 ≤ k) && decide (k ≤ 1024) && decide (k ≤ field w 0x26 2) && decide (field w 0x26 2 ≤ 4096) &&
      decide (1 ≤ field w 0x28 2) && decide (field w 0x28 2 ≤ 1024) && decide (1 ≤ field w 0x2C 2) && decide (field w 0x2C 2 ≤ 2048), 0x1006),
    (decide (1 ≤ field w 0x2F 1) && decide (field w 0x2F 1 ≤ 16), 0x1014)]

/-- SELECT_BALES (08_dragoman R260, R261): what its word and its selection record show. -/
def selectChecks (s : State) (q : Req) (w : List Byte) : Got (List Code) := do
  let e ← descBytes s q w (field w 0x1A 2)
  let sel := field w 0x1F 1
  let first := field w 0x28 4
  let last := field w 0x2C 4
  let groups := field w 0x1C 2
  let heads := field w 0x1E 1
  let ds ← descListChecks s q w [(0x18, false)]
  let query ← descOf s q w (field w 0x18 2)
  let root := field e 0 8 % 2 ^ 48
  let t ← kvTable s q root
  let n := field e 0x10 4
  let lt ← ltabChecks s q (field e 8 8 % 2 ^ 48) n n query.rows false
  return ds ++ lt ++ headChecks w false false false ++ viewRootChecks root t ++ failing [
    (field e 8 8 % 256 == 0 && field e 0x14 4 % 256 == 0 && [0x18, 0x20, 0x28].all (fun o => field e o 8 % 64 == 0), 0x1004),
    (decide (1 ≤ groups) && decide (groups ≤ 1024) && decide (1 ≤ heads) && decide (heads ≤ 64), 0x1006),
    (bucketOk (field w 0x30 1) (field e 8 8 % 2 ^ 48) query.rows, 0x1006),
    (query.batch == groups * heads, 0x100C),
    (decide (field e 0x14 4 + 512 * (last / 64 + 1 - first / 64) ≤ 0x800000), 0x1013),
    (decide (field w 0x26 1 < 16) && reservedZero w 0x31 0x40 && topClear e 0 && topClear e 8 && topClear e 0x18 && topClear e 0x20 &&
      topClear e 0x28 && topClear e 0x30 && topClear e 0x38 && (decide (field w 0x26 1 % 4 < 2) || field e 0x20 8 != 0), 0x1006),
    (decide (1 ≤ sel) && decide (sel ≤ 64) && decide (1 ≤ field w 0x20 2) && decide (field w 0x20 2 ≤ 1024) &&
      decide (sel ≤ field w 0x22 2) && decide (field w 0x22 2 ≤ 4096) && decide (field w 0x24 1 + field w 0x25 1 ≤ sel) &&
      decide (first ≤ last) && decide (last - first < 1048576), 0x1006),
    (decide (1 ≤ field w 0x27 1) && decide (field w 0x27 1 ≤ 16), 0x1014)]

/-- All codes of a command word with an opcode from 0x01 to 0x1F (R156). -/
def commandChecks (s : State) (q : Req) (port : Nat) (issuer : Fin 264) (w : List Byte) : Got (List Code) :=
  match wOpcode w with
  | 0x01 => matmulChecks s q w
  | 0x02 => chainChecks s q w
  | 0x03 => combineChecks s q w
  | 0x04 => rowChecks s q w
  | 0x05 => rowChecks s q w
  | 0x06 => expandChecks s q w
  | 0x08 => attendChecks s q w
  | 0x09 => attendChecks s q w
  | 0x0A => gambitChecks s q w
  | 0x0B => appendChecks s q w
  | 0x10 => streamChecks s q port issuer w
  | 0x11 => streamChecks s q port issuer w
  | 0x12 => streamChecks s q port issuer w
  | 0x18 => searchChecks s q w
  | 0x19 => selectChecks s q w
  | _ => .ok [0x1006]

/-- The codes that a word shows alone, where its descriptors or tables cannot be read (R156). -/
def wordChecks (w : List Byte) : List Code :=
  let op := wOpcode w
  headChecks w (([0x01, 0x02, 0x03, 0x06, 0x08, 0x09] : List Nat).contains op) ([0x01, 0x03].contains op) ([0x02, 0x04, 0x05, 0x08, 0x09].contains op)

/-- R157: the codes that the tile sequencer repeats at start. -/
def startCodes (cs : List Code) : List Code := cs.filter fun c => decide (0x1003 ≤ c.toNat) && decide (c.toNat ≤ 0x100F)

/-- The field values of a stream command that the start must have although they carry a code above 0x100F (log 24). -/
def startExtra (port : Nat) (issuer : Fin 264) (w : List Byte) : Bool :=
  if [0x10, 0x11, 0x12].contains (wOpcode w) then
    (if port < 4 then crewUnits port w == [issuer.val / 2] else (crewUnits port w).length == 1)
  else true

/-- 07_kv R214, R229: the view that a command names agrees with it; and the gambit records of a commit are valid
(06_attend R187). -/
def viewChecks (s : State) (q : Req) (w : List Byte) : Got Bool := do
  match wOpcode w with
  | 0x06 =>
    let t ← kvTable s q (field w 0x18 8 % 2 ^ 48)
    let k ← descOf s q w (field w 0x30 2)
    let v ← descOf s q w (field w 0x32 2)
    let n := 128 * field w 0x2C 4
    return viewAgrees t && t.latent && expansionChecks t == [] && k.format == t.xfmt % 16 && v.format == t.xfmt / 16 && k.cols == t.dqk && v.cols == t.dv &&
      k.rows == n && v.rows == n
  | 0x08 => return attAgrees (← attCmd s q w)
  | 0x09 => return attAgrees (← attCmd s q w)
  | 0x0B => return appendAgrees (← appendCmd s q w)
  | 0x0A =>
    let t ← kvTable s q (field w 0x20 8 % 2 ^ 48)
    let rs ← mapGot (fun i => uRead s q (field w 0x18 8 % 2 ^ 48 + 64 * i) 64) (List.range (field w 0x28 4))
    return viewAgrees t && rs.all fun r => (GambitRec.ofBytes r).pathOk
  | _ => return true

/-- The word offsets of the matrix descriptor indices of a command (05_macro R132 to R136; 06_attend R159, R189; 07_kv R216, R217;
08_dragoman R249, R260). -/
def matrixFields (op : Nat) : List Nat :=
  match op with
  | 0x01 => [0x18, 0x1A, 0x1C, 0x1E] | 0x02 => [0x18, 0x1A, 0x1C, 0x1E, 0x2A] | 0x03 => [0x18, 0x1A]
  | 0x04 => [0x18, 0x1A, 0x1C, 0x1E] | 0x05 => [0x18, 0x1A, 0x1C, 0x1E] | 0x06 => [0x30, 0x32]
  | 0x08 => [0x18, 0x1A, 0x1C] | 0x09 => [0x18, 0x1A, 0x1C, 0x32, 0x34] | 0x0B => [0x18, 0x1A]
  | 0x18 => [0x20] | 0x19 => [0x18]
  | _ => []

/-- The word offsets of every index into a table that a command word names: its matrix descriptors, its record and its stream descriptor
(06_attend R161; 08_dragoman R250, R261; 10_streams R317). -/
def indexFields (op : Nat) : List Nat :=
  matrixFields op ++ match op with
  | 0x08 => [0x1E] | 0x09 => [0x1E] | 0x18 => [0x22] | 0x19 => [0x1A] | 0x10 => [0x18] | 0x11 => [0x18] | 0x12 => [0x18]
  | _ => []

/-- The operand formats of the view root that a command names (07_kv R214). -/
def viewFormats (s : State) (q : Req) (w : List Byte) : Got (List Nat) :=
  match wOpcode w with
  | 0x06 => (kvTable s q (field w 0x18 8 % 2 ^ 48)).map fun t => [t.xfmt % 16, t.xfmt / 16]
  | 0x08 => (attCmd s q w).map fun c => [c.kfmt, c.vfmt]
  | 0x09 => (attCmd s q w).map fun c => [c.kfmt, c.vfmt]
  | _ => .ok []

/-- 14_power R431: early service accepts only BF16 and FP8 operands; a command with FP4 or INT8 is refused. -/
def earlyFormats (s : State) (q : Req) (w : List Byte) : Got Bool := do
  if s.power.phase ≠ 1 then return true
  else
    let ds ← mapGot (fun o => descOf s q w (field w o 2)) ((matrixFields (wOpcode w)).filter fun o => !leftOut w o)
    let vs ← viewFormats s q w
    return (ds.map fun d => d.format) ++ vs |>.all fun f => f != 0 && f != 3

/-- 06_attend R183, 14_power R431: what early service accepts: FP8 and BF16 operands, and only the bucket path of attention. -/
def earlyServiceOk (s : State) (q : Req) (w : List Byte) : Got Bool := do
  let fmts ← earlyFormats s q w
  if s.power.phase = 1 ∧ (wOpcode w = 8 ∨ wOpcode w = 9) then
    let c ← attCmd s q w
    return fmts && c.r.ltab == 0 && c.gate == 1 && c.bucket != 0
  else return fmts

end Sys2Proof.Machine
end

