-- ==== Sys2Proof/Machine/Dragoman.lean ====
section
/-! DEFINITION. The dragoman (08_dragoman R233 to R269): its commands, contexts, scan jobs, shortlists, re-rank and results. -/

namespace Sys2Proof.Machine

/-! ### Orders -/

/-- An element put into a list before the first element above it. -/
def insertBy {α : Type} (lt : α → α → Bool) (x : α) : List α → List α
  | [] => [x]
  | y :: r => if lt x y then x :: y :: r else y :: insertBy lt x r

/-- A list in rising order; equal elements keep their places. -/
def sortBy {α : Type} (lt : α → α → Bool) (l : List α) : List α := l.foldl (fun a x => insertBy lt x a) []

/-- Distances in rising order, NaN last (R252, R256). -/
def distLt (a b : BitVec 32) : Bool := if f32IsNan a then false else if f32IsNan b then true else f32Lt a b

/-- The order of (distance, number) (R252). -/
def rankLt (a b : BitVec 32 × Nat) : Bool := distLt a.1 b.1 || (!distLt b.1 a.1 && decide (a.2 < b.2))

/-- The negative of a binary32 value; NaN stays NaN. -/
def f32Neg32 (a : BitVec 32) : BitVec 32 := numF32 (numNeg (f32Num a))

/-- The order of shortlist keys (HAM, ITEM, VREF) (R254). -/
def keyLt (a b : Nat × Nat × Nat) : Bool :=
  decide (a.1 < b.1) || (a.1 == b.1 && (decide (a.2.1 < b.2.1) || (a.2.1 == b.2.1 && decide (a.2.2 < b.2.2))))

/-! ### SEARCH (R241 to R251) -/

/-- A SEARCH with its index root, query descriptor and search record. -/
structure SearchCmd where
  root : Nat
  dim : Nat
  vfmt : Nat
  metric : Nat
  skw : Nat
  nlist : Nat
  vstride : Nat
  vbase : Nat
  cnorm : Nat
  proj : Nat
  cent : Desc
  dq : Desc
  scratch : Nat
  scratchBytes : Nat
  result : Nat
  filter : Nat
  fpitch : Nat
  topk : Nat
  rr : Nat
  nprobe : Nat
  widen : Nat
  wave : Nat
  oneEpoch : Bool
  filtered : Bool
  deriving DecidableEq, Repr

/-- The SEARCH of a command word. -/
def searchCmd (s : State) (q : Req) (w : List Byte) : Got SearchCmd := do
  let root := field w 0x18 8 % 2 ^ 48
  let r ← uRead s q root 0x80
  let dq ← descOf s q w (field w 0x20 2)
  let e ← descBytes s q w (field w 0x22 2)
  return { root, dim := field r 0 2, vfmt := field r 2 1, metric := field r 3 1, skw := field r 4 1, nlist := field r 8 4,
           vstride := field r 0x0C 4, vbase := field r 0x10 8 % 2 ^ 48, cnorm := field r 0x18 8 % 2 ^ 48,
           proj := field r 0x20 8 % 2 ^ 48, cent := Desc.ofBytes ((r.drop 0x40).take 64), dq,
           scratch := field e 0 8 % 2 ^ 48, scratchBytes := field e 8 8, result := field e 0x10 8 % 2 ^ 48,
           filter := field e 0x18 8 % 2 ^ 48, fpitch := field e 0x20 8, topk := field w 0x24 2, rr := field w 0x26 2,
           nprobe := field w 0x28 2, widen := field w 0x2A 2, wave := field w 0x2C 2, oneEpoch := bit (field w 0x2E 1) 1,
           filtered := bit (field w 0x2E 1) 0 }

/-- NQ. -/
def SearchCmd.nq (c : SearchCmd) : Nat := c.dq.rows
/-- Bits of a sketch. -/
def SearchCmd.nbits (c : SearchCmd) : Nat := 256 * 2 ^ c.skw
/-- R251: where the shortlists begin. -/
def SearchCmd.shortBase (c : SearchCmd) : Nat := (if 2048 < c.dim then 12 else 4) * c.nq * c.nlist

/-- R241: the fields of an index root. -/
def rootOk (s : State) (q : Req) (c : SearchCmd) : Got Bool := do
  let r ← uRead s q c.root 0x1000
  let zero := fun (a b : Nat) => ((r.drop a).take (b - a)).all fun x => x == 0
  return zero 5 8 && zero 0x30 0x40 && zero 0x180 0x1000 && topClear r 0x10 && topClear r 0x18 && topClear r 0x20 &&
    field r 0x28 8 / 4 == 0 && decide (16 ≤ c.dim) && decide (c.dim ≤ 4096) && c.dim % 16 == 0 && (c.vfmt == 4 || c.vfmt == 5) &&
    decide (c.metric < 2) && decide (c.skw < 3) && decide (1 ≤ c.nlist) && decide (c.nlist ≤ 65536) && c.vstride % 64 == 0 &&
    decide (c.dim * (formatBits c.vfmt / 8) ≤ c.vstride) && c.vbase % 64 == 0 && c.proj % 64 == 0 &&
    (c.metric == 1 || c.cnorm == 0) && c.cent.rows == c.nlist && c.cent.cols == c.dim && c.cent.format == 4 && c.cent.batch == 1

/-- LIMIT of a partition on a die (R236). -/
def drgLimit (s : State) (die p : Nat) : Nat := (tabGet 0 (s.dieAt die).drgLimits p).toNat
/-- IN_USE of a partition on a die (R236). -/
def drgInUse (s : State) (die p : Nat) : Nat :=
  ((s.dieAt die).drgCtxs.filter fun e => e.2.state != 0 && e.2.part.toNat == p).length
/-- Free contexts, lowest first. -/
def drgFreeList (s : State) (die : Nat) : List Nat :=
  (List.range 2048).filter fun i => (tabGet {} (s.dieAt die).drgCtxs i).state == 0

/-- R268: the fault of command scope that a SEARCH meets when it starts, or 0. -/
def searchStart (s : State) (q : Req) (die : Nat) (c : SearchCmd) : Got Code := do
  let ok ← rootOk s q c
  return if !ok then 0x7001
    else if c.dq.cols ≠ c.dim ∨ !(c.dq.format == 4 || c.dq.format == 5) then 0x7003
    else if drgLimit s die q.partOr0 = 0 then 0x7005
    else if c.scratchBytes < c.shortBase + 16 * c.rr * c.nq then 0x7006
    else if c.nlist < c.nprobe then 0x7007 else 0

/-- The coarse product of a SEARCH as a MATMUL (R251, R252). -/
def SearchCmd.coarse (c : SearchCmd) : MatCmd :=
  let plain : Desc :=
    { base := 0, rowStride := 4 * c.nlist, rows := c.nq, cols := c.nlist, format := 5, flags := 0, anchor := 0,
      tscale := f32One, scaleBase := 0, scaleStride := 0, batch := 1, batchStride := 4 * c.nq * c.nlist, auxBase := 0 }
  { a := { c.dq with format := 4 }, b := c.cent, c := { plain with base := c.scratch },
    dp := if 2048 < c.dim then some { plain with base := c.scratch + 4 * c.nq * c.nlist, batch := 2 } else none,
    mode := 0, tileB := 4, tileC := 64, ldim := false, ltab := 0 }

/-- A query as binary32 values (R255), and as the BF16 codes of the coarse step (R252). -/
def SearchCmd.query (s : State) (q : Req) (c : SearchCmd) (n : Nat) : Got (List (BitVec 32)) :=
  rowValues s q c.dq ⟨0, 0, 0⟩ n

/-- The geometry of a coarse tile: queries are rounded to BF16. -/
def searchGeo (s : State) (q : Req) (c : SearchCmd) (t : TileId) : Geo :=
  let m := c.coarse
  let b : MatBatch := { m := c.nq, n := c.nlist, va := ⟨0, 0, 0⟩, vb := ⟨0, 0, 0⟩, vc := ⟨0, 0, 0⟩ }
  let g := matGeo s q m b t
  let r0 := t.i * 256
  { g with
    laneChunk := fun l pass =>
      let kc := t.k * m.tileC + pass
      if c.nq ≤ r0 + l then .ok { pass, column := 0, elements := [], scales := [] }
      else (SearchCmd.query s q c (r0 + l)).map fun vs =>
        { pass, column := 0, scales := [], elements := ((vs.drop (32 * kc)).take 32).map fun v => (toCode layoutBf16 (f32Num v)).1 }
    laneSpans := fun l pass =>
      if c.nq ≤ r0 + l then [] else rowSpan c.dq ⟨0, 0, 0⟩ (r0 + l) (32 * (t.k * m.tileC + pass)) (min 32 (c.dim - 32 * (t.k * m.tileC + pass))) }

/-- The coarse score of query `n` and list `x` (R251). -/
def SearchCmd.score (s : State) (q : Req) (c : SearchCmd) (n x : Nat) : Got (BitVec 32) :=
  (uReadNat s q (c.scratch + 4 * (n * c.nlist + x)) 4).map fun v => BitVec.ofNat 32 v

/-- R252: the lists in rank order. -/
def SearchCmd.ranked (s : State) (q : Req) (c : SearchCmd) (n : Nat) : Got (List Nat) := do
  let ds ← mapGot (fun x => do
    let t ← SearchCmd.score s q c n x
    let nrm ← if c.metric = 1 then uReadNat s q (c.cnorm + 4 * x) 4 else pure 0
    return (if c.metric = 0 then f32Neg32 t else f32Fma (numF32 (.fin true 2 0)) t (BitVec.ofNat 32 nrm), x)) (List.range c.nlist)
  return (sortBy rankLt ds).map Prod.snd

/-- R240: the bits of a query sketch. -/
def SearchCmd.sketch (s : State) (q : Req) (c : SearchCmd) (n : Nat) : Got (List Bool) := do
  let v ← SearchCmd.query s q c n
  mapGot (fun i => do
    let row ← slotCodes s q (c.proj + i * c.dim * 2) 4 c.dim 1 0
    return f32Lt 0 ((List.range c.dim).foldl (fun t d => f32Fma (codeF32 4 (row.getD d 0)) (v.getD d 0) t) 0)) (List.range c.nbits)

/-- The Hamming distance of a sketch's bits and stored bytes (R235). -/
def hamming (a : List Bool) (b : List Byte) : Nat :=
  (a.zipIdx.filter fun x => x.1 != (b.getD (x.2 / 8) 0).getLsbD (x.2 % 8)).length

/-- R254: an entry enters a shortlist of at most `rr` keys with distinct vector slots. -/
def admitKey (rr : Nat) (l : List (Nat × Nat × Nat)) (k : Nat × Nat × Nat) : List (Nat × Nat × Nat) :=
  match l.find? fun x => x.2.2 == k.2.2 with
  | some old => if keyLt k old then insertBy keyLt k (l.filter fun x => x != old) else l
  | none => (insertBy keyLt k l).take rr

/-- A bit of a bitmap indexed by vector slot (R244). -/
def slotBit (s : State) (q : Req) (base v : Nat) : Got Bool :=
  (uReadNat s q (base + v / 8) 1).map fun b => bit b (v % 8)

/-- A directory entry: BASE and NENT (R243). -/
def listEntry (s : State) (q : Req) (ldir x : Nat) : Got (Nat × Nat) := do
  let b ← uReadNat s q (ldir + 16 * x) 8
  let n ← uReadNat s q (ldir + 16 * x + 8) 4
  return (b % 2 ^ 48, n)

/-- Bytes of a stored sketch and of a posting block (R243). -/
def SearchCmd.sb (c : SearchCmd) : Nat := 32 * 2 ^ c.skw
def SearchCmd.bb (c : SearchCmd) : Nat := 32 * c.sb + 512

/-- The slot words of a bound query: LDIR, TOMB, NVREF and EPOCH (R242, R245). -/
def DrgCtx.ldir (x : DrgCtx) : Nat := x.slotWords.getD 0 0
def DrgCtx.tomb (x : DrgCtx) : Nat := x.slotWords.getD 1 0
def DrgCtx.nvref (x : DrgCtx) : Nat := x.slotWords.getD 2 0
def DrgCtx.epoch (x : DrgCtx) : Nat := x.slotWords.getD 3 0

/-- R254: an entry of Hamming distance `ham` could enter a shortlist of at most `rr` keys. -/
def couldAdmit (rr : Nat) (l : List (Nat × Nat × Nat)) (ham : Nat) : Bool :=
  decide (l.length < rr) || (match l.getLast? with | some k => decide (ham ≤ k.1) | none => true)

/-- R254: one entry of a posting block against one query. Its item, vector slot, filter and tombstone lines are read only where its
distance could be admitted. -/
def scanEntry (s : State) (q : Req) (c : SearchCmd) (sk : List Bool) (blk e : Nat) (x : DrgCtx) : Got DrgCtx := do
  let b ← uRead s q (blk + e * c.sb) c.sb
  if !couldAdmit c.rr x.shortlist (hamming sk b) then return { x with scanned := x.scanned + 1 }
  let item ← uReadNat s q (blk + 32 * c.sb + 8 * e) 8
  let vref ← uReadNat s q (blk + 32 * c.sb + 256 + 8 * e) 8
  let v := vref % 2 ^ 40
  let key := (hamming sk b, item, v)
  let x := { x with scanned := x.scanned + 1 }
  if x.nvref ≤ v then
    return { x with outOfRange := (sortBy keyLt (key :: x.outOfRange)).take 1 }
  let allowed ← if c.filtered then slotBit s q (c.filter + x.query * c.fpitch) v else pure true
  let dead ← if x.tomb = 0 then pure false else slotBit s q x.tomb v
  return if allowed && !dead then { x with shortlist := admitKey c.rr x.shortlist key } else x

/-- R254: the final shortlist meets an out-of-range entry. -/
def outOfRangeFault (rr : Nat) (x : DrgCtx) : Bool :=
  x.outOfRange.any fun k =>
    decide (x.shortlist.length < rr) || (match x.shortlist.getLast? with | some y => keyLt k y | none => true)

/-- R255: the exact distance of vector slot `v`. -/
def SearchCmd.distance (s : State) (q : Req) (c : SearchCmd) (qs : List (BitVec 32)) (v : Nat) : Got (BitVec 32) := do
  let xs ← slotCodes s q (c.vbase + v * c.vstride) c.vfmt c.dim 1 0
  let sum := (List.range c.dim).foldl (fun t d =>
    let x := codeF32 c.vfmt (xs.getD d 0)
    let y := qs.getD d 0
    if c.metric = 0 then f32Fma x y t else f32Fma (f32Sub x y) (f32Sub x y) t) 0
  return if c.metric = 0 then f32Neg32 sum else sum

/-- R251: the shortlist of a query as it lies in the working area. -/
def writeShortlist (s : State) (q : Req) (c : SearchCmd) (x : DrgCtx) : Got State :=
  uWrite s q (c.scratch + c.shortBase + 16 * c.rr * x.query)
    (x.shortlist.flatMap fun k => natLe 2 k.1 ++ natLe 6 k.2.2 ++ natLe 8 k.2.1)

/-- R256, R269: the result of a query. -/
def searchResult (s : State) (q : Req) (c : SearchCmd) (x : DrgCtx) : Got State := do
  let base := c.result + x.query * (64 + 16 * c.topk)
  let sentinel := natLe 8 (2 ^ 64 - 1) ++ natLe 4 0x7F800000 ++ natLe 2 0xFFFF ++ natLe 2 0
  let one := atBit c.oneEpoch 0
  if x.fault ≠ 0 then
    uWrite s q base (natLe 4 0 ++ natLe 2 x.fault.toNat ++ natLe 2 one ++ natLe 8 x.epoch ++ List.replicate 48 0 ++
      (List.replicate c.topk sentinel).flatten)
  else do
    let es := sortBy (fun (a b : BitVec 32 × Nat × Nat × Nat) =>
      distLt a.1 b.1 || (!distLt b.1 a.1 && keyLt (0, a.2.2.1, a.2.2.2) (0, b.2.2.1, b.2.2.2))) (x.dists.zip x.shortlist)
    let top := es.take c.topk
    let qv ← SearchCmd.query s q c x.query
    let nan := qv.any f32IsNan || top.any fun e => f32IsNan e.1
    let fl := one + atBit (decide (top.length < c.topk)) 1 + atBit (decide (0 < x.widened)) 2 + atBit nan 3
    uWrite s q base (natLe 4 top.length ++ natLe 2 0 ++ natLe 2 fl ++ natLe 8 x.epoch ++ natLe 4 (x.probes.length) ++
      natLe 4 x.shortlist.length ++ natLe 8 x.scanned ++ List.replicate 32 0 ++
      (top.flatMap fun e => natLe 8 e.2.2.1 ++ natLe 4 e.1.toNat ++ natLe 2 e.2.1 ++ natLe 2 0) ++
      (List.replicate (c.topk - top.length) sentinel).flatten)

/-! ### SELECT_BALES (R260 to R266) -/

/-- A SELECT_BALES with its descriptor, record and view. -/
structure SelectCmd where
  /-- Q, the sequences, the positions and the mask, as an attention command holds them -/
  att : AttCmd
  lsArea : Nat
  blist : Nat
  filter : Nat
  want : Nat
  sel : Nat
  nprobe : Nat
  rr : Nat
  nfirst : Nat
  nlocal : Nat
  wanted : Bool
  filtered : Bool
  bfirst : Nat
  blast : Nat
  deriving DecidableEq, Repr

/-- The SELECT_BALES of a command word. -/
def selectCmd (s : State) (q : Req) (w : List Byte) : Got SelectCmd := do
  let dq ← descOf s q w (field w 0x18 2)
  let e ← descBytes s q w (field w 0x1A 2)
  let t ← kvTable s q (field e 0 8 % 2 ^ 48)
  let fl := field w 0x26 1
  let r : AttRec :=
    { btab := field e 0 8 % 2 ^ 48, ltab := field e 8 8 % 2 ^ 48, ltabN := field e 0x10 4, lsArea := field e 0x14 4,
      blist := field e 0x18 8 % 2 ^ 48, bounds := field e 0x20 8 % 2 ^ 48, gambit := 0, qpos := field e 0x28 8 % 2 ^ 48,
      triple := 0 }
  let att : AttCmd :=
    { bwd := false, q := dq, out := none, lse := none, ddo := none, delta := none, r, t, ngrp := field w 0x1C 2,
      qheads := field w 0x1E 1, span := 1, fold := 0, latent := 0, gate := 1, place := 0, gambitOn := false,
      mask := bits fl 1 0, pfmt := 0, nsplit := 0, scale := 0, anchorS := 0, anchorO := 0, bucket := field w 0x30 1, dv := 0,
      kvfmt := 0, stat := 0, compat := false }
  return { att, lsArea := field e 0x14 4, blist := r.blist, filter := field e 0x30 8 % 2 ^ 48, want := field e 0x38 8 % 2 ^ 48,
           sel := field w 0x1F 1, nprobe := field w 0x20 2, rr := field w 0x22 2, nfirst := field w 0x24 1,
           nlocal := field w 0x25 1, wanted := bit fl 3, filtered := bit fl 2, bfirst := field w 0x28 4, blast := field w 0x2C 4 }

/-- WPITCH (R261). -/
def SelectCmd.wpitch (c : SelectCmd) : Nat := 64 * ceilDiv (c.blast - c.bfirst + 1) 512

/-- R268: the fault of command scope that a SELECT_BALES meets when it starts, or 0. -/
def selectStart (s : State) (q : Req) (die : Nat) (c : SelectCmd) : Got Code :=
  .ok (if c.att.q.cols ≠ c.att.t.dsum ∨ !viewAgrees c.att.t then 0x7003
    else if drgLimit s die q.partOr0 = 0 then 0x7005 else 0)

/-- R262: the query blocks in wave order: groups rising, blocks of a group rising, each with its number. -/
def selectBlocks (c : SelectCmd) (seqs : List SeqPart) : List (QueryBlock × Nat) :=
  let bs := (queryBlocks c.att seqs).zipIdx
  (List.range c.att.ngrp).flatMap fun g => bs.filter fun b => b.1.g == g

/-- R262: the tiles: runs of up to 64 blocks of one group, as (first position, length) in wave order. -/
def selectTiles (c : SelectCmd) (seqs : List SeqPart) : List (Nat × Nat) :=
  let n := (selectBlocks c seqs).length / max c.att.ngrp 1
  (List.range c.att.ngrp).flatMap fun g => (List.range (ceilDiv n 64)).map fun k => (g * n + 64 * k, min 64 (n - 64 * k))

/-- The segment of a chain: none when it is not VALID; a table fault otherwise (R263, R268). -/
def selectSegment (s : State) (q : Req) (die : Nat) (t : KvTable) (p c k : Nat) : Got (Option Nat) :=
  match labFind (s.dieAt die) q.partOr0 t.dir p c k with
  | some l => .ok (some l.addr)
  | none =>
    if t.nseq ≤ p ∨ t.nchain ≤ c ∨ t.nsegmax ≤ k then softFault 0x7008
    else
      match chainDir s q t p with
      | .error e => if e.1 = codeMissingBale then softFault 0x7008 else .error e
      | .ok cdir => segPointer s q t cdir c k

/-- R262: the mean query of a block as BF16 codes. -/
def meanQuery (s : State) (q : Req) (c : SelectCmd) (g : Nat) (rows : List AttRow) : Got (List Nat) := do
  let vs ← mapGot (fun h => mapGot (fun (r : AttRow) => rowValues s q c.att.q ⟨g * c.att.qheads + h, 0, 0⟩ r.row) rows)
    (List.range c.att.qheads)
  let all := vs.flatten
  let n := nativeFn [] 4 (f32OfNat all.length)
  return (List.range c.att.t.dsum).map fun d =>
    (toCode layoutBf16 (f32Num (f32Mul (all.foldl (fun a v => f32Add a (v.getD d 0)) 0) n))).1

/-- What a block's context works with: its sequence, its rows and its mean query. -/
structure SelectBlock where
  p : Nat
  seq : Nat
  g : Nat
  rows : List AttRow
  mean : List Nat
  deriving DecidableEq, Repr

/-- The block of number `i`. -/
def selectBlock (s : State) (q : Req) (c : SelectCmd) (i : Nat) : Got SelectBlock := do
  let seqs ← attSeqs s q c.att
  let b := (queryBlocks c.att seqs).getD i { p := 0, k := 0, g := 0 }
  let sq := seqs.getD b.p { id := 0, len := 0, off := 0 }
  let rows ← attRows s q c.att b.p b.k sq none
  let mean ← meanQuery s q c b.g rows
  return { p := b.p, seq := sq.id, g := b.g, rows, mean }

/-- The score of a mean query against a bundle (R263): BF16 products under 03_arithmetic R67. -/
def bundleScore (mean cen : List Nat) : BitVec 32 :=
  match rowDot 4 4 0 (codeChunks 4 mean) (codeChunks 4 cen) with | .f32 v => v | .win _ => 0

/-- The bundles of the source with their scores for a block; excluded ones are left out (R263). -/
def bundleScores (s : State) (q : Req) (die : Nat) (c : SelectCmd) (b : SelectBlock) : Got (List (BitVec 32 × Nat)) := do
  let t := c.att.t
  let us := between (c.bfirst / 64) (c.blast / 64 + 1)
  let os ← mapGot (fun u => do
    let seg ← selectSegment s q die t b.seq (t.chain0 + b.g) (64 * u / 4096)
    match seg with
    | none => return none
    | some a =>
      let r := bundleAddr t a (64 * u)
      let n ← uReadNat s q (r + 4) 2
      let cen ← slotCodes s q (r + 0x40) 4 t.dsum 1 0
      return if n = 0 then none else some (bundleScore b.mean cen, u)) us
  return os.filterMap id

/-- R263: the probe set: the NPROBE largest scores, lower bundle first, NaN last. -/
def selectProbes (c : SelectCmd) (scores : List (BitVec 32 × Nat)) : List Nat :=
  ((sortBy (fun (a b : BitVec 32 × Nat) =>
    rankLt (f32Neg32 a.1, a.2) (f32Neg32 b.1, b.2)) scores).take c.nprobe).map Prod.snd

/-- A candidate of a block: its bale, the first position and counts of its summary, and the summary's address. -/
structure Candidate where
  n : Nat
  first : Nat
  ntok : Nat
  ncommit : Nat
  sum : Nat
  deriving DecidableEq, Repr

/-- R264: whether bale `n` is a candidate of a block. -/
def candidateAt (s : State) (q : Req) (die : Nat) (c : SelectCmd) (b : SelectBlock) (n : Nat) : Got (Option Candidate) := do
  let t := c.att.t
  if n < c.bfirst ∨ c.blast < n then return none
  let seg ← selectSegment s q die t b.seq (t.chain0 + b.g) (n / 4096)
  match seg with
  | none => return none
  | some a =>
    let sum := summaryAddr t a n
    let fl ← uReadNat s q (sum + 0x2C) 2
    let cnt ← summaryCounts s q sum
    let first ← uReadNat s q (sum + 0x20) 8
    let allowed ← if c.filtered then
        slotBit s q (c.filter + (b.p * c.att.ngrp + b.g) * c.wpitch) (n - c.bfirst)
      else pure true
    return if bit fl 0 && decide (0 < cnt.1) && allowed && !baleExcluded c.att none b.rows first cnt.1 then
        some { n, first, ntok := cnt.1, ncommit := cnt.2, sum }
      else none

/-- R264: every candidate of a block in increasing bale. -/
def candidates (s : State) (q : Req) (die : Nat) (c : SelectCmd) (b : SelectBlock) : Got (List Candidate) :=
  (mapGot (candidateAt s q die c b) (between c.bfirst (c.blast + 1))).map fun l => l.filterMap id

/-- R264: the forced bales in increasing number. -/
def forcedBales (c : SelectCmd) (b : SelectBlock) (cs : List Candidate) : List Nat :=
  let maxPos := b.rows.foldl (fun a r => max a r.pos) 0
  let first := (cs.take c.nfirst).map Candidate.n
  let near := cs.filter fun x => decide (x.first ≤ maxPos)
  let loc := (near.drop (near.length - c.nlocal)).map Candidate.n
  (cs.map Candidate.n).filter fun n =>
    first.contains n || loc.contains n || (cs.any fun x => x.n == n && decide (x.ncommit < x.ntok))

/-- R265: the exact score of a shortlisted bale. -/
def meanScore (s : State) (q : Req) (c : SelectCmd) (mean : List Nat) (sum : Nat) : Got (BitVec 32) := do
  let m ← slotCodes s q (sum + 0x40) 4 c.att.t.dsum 1 0
  return (List.range c.att.t.dsum).foldl (fun a d => f32Fma (codeF32 4 (mean.getD d 0)) (codeF32 4 (m.getD d 0)) a) 0

/-- R265: the bale list of a block: the forced bales and the best shortlisted ones, in increasing number. -/
def selectList (c : SelectCmd) (forced : List Nat) (x : DrgCtx) : List Nat :=
  let best := ((sortBy (fun (a b : BitVec 32 × Nat) => rankLt (f32Neg32 a.1, a.2) (f32Neg32 b.1, b.2))
    (x.dists.zip (x.shortlist.map fun k => k.2.1))).take (c.sel - forced.length)).map Prod.snd
  sortBy (fun (a b : Nat) => decide (a < b)) (forced ++ best)

/-- R266: want bits are joined by OR. -/
def writeWants (s : State) (q : Req) (c : SelectCmd) (p g : Nat) (ns : List Nat) : Got State :=
  foldGot (fun u n => do
    let a := c.want + (p * c.att.ngrp + g) * c.wpitch + (n - c.bfirst) / 8
    let old ← uReadNat u q a 1
    uWriteNat u q a 1 (Nat.lor old (2 ^ ((n - c.bfirst) % 8)))) s ns

/-- R163, R264 to R266, R269: a block's bale list and want bits are written. -/
def selectResult (s : State) (q : Req) (die : Nat) (c : SelectCmd) (x : DrgCtx) : Got State := do
  if x.fault ≠ 0 then uWriteNat s q (c.blist + 320 * x.query) 4 0
  else
    let b ← selectBlock s q c x.query
    let cs ← candidates s q die c b
    let l := selectList c (forcedBales c b cs) x
    let u ← uWriteNat s q (c.blist + 320 * x.query) 4 l.length
    let u ← uWrite u q (c.blist + 320 * x.query + 0x40) (l.flatMap fun n => natLe 4 n)
    if c.wanted then writeWants u q c b.p b.g l else return u

end Sys2Proof.Machine
end

