-- ==== Sys2Proof/Machine/Tiles.lean ====
section
/-! DEFINITION. The tiles of the commands, what an engine computes for one, and its accumulator region (04_matrix R98 to R112;
05_macro R139 to R145, R153; 08_dragoman R263). -/

namespace Sys2Proof.Machine

/-! ### The tiles of a command -/

/-- The tiles of a command, how many parts an output tile has (K ranges or splits), and the tiles of a first round. -/
structure RecWork where
  tiles : List TileId
  parts : Nat := 1
  half : Nat := 0
  deriving DecidableEq, Repr

/-- The tiles of an accepted command (R142; 06_attend R162, R180, R186, R191; 07_kv R216, R217; 08_dragoman R252, R262). -/
def recWork (s : State) (q : Req) (w : List Byte) : Got RecWork := do
  let plain := fun (n : Nat) => (List.range n).map fun i => ({ batch := 0, i, j := 0, k := 0 } : TileId)
  match wOpcode w with
  | 0x01 =>
    let c ← matCmd s q w
    let ts ← matTiles s q c
    return { tiles := ts, parts := max 1 (matRanges c) }
  | 0x02 =>
    let c ← chainCmd s q w
    let ts ← chainTiles s q c
    return { tiles := ts }
  | 0x03 => return { tiles := combineTiles (← combineCmd s q w) }
  | 0x04 => return { tiles := rowTiles (← rowCmd s q w) }
  | 0x05 => return { tiles := rowTiles (← rowCmd s q w) }
  | 0x06 => return { tiles := plain (field w 0x2C 4) }
  | 0x08 =>
    let c ← attCmd s q w
    let ts ← attTiles s q c
    return if c.place = 1 then { tiles := ts, parts := max 1 c.nsplit, half := ts.length / 2 } else { tiles := ts }
  | 0x09 =>
    let c ← attCmd s q w
    let ts ← attTiles s q c
    return { tiles := ts }
  | 0x0A => return { tiles := plain (field w 0x28 4) }
  | 0x0B => return { tiles := plain (field w 0x30 4) }
  | 0x18 =>
    let c ← searchCmd s q w
    let ts ← matTiles s q c.coarse
    return { tiles := ts, parts := max 1 (matRanges c.coarse) }
  | 0x19 =>
    let c ← selectCmd s q w
    let seqs ← attSeqs s q c.att
    return { tiles := (selectTiles c seqs).map fun x => { batch := 0, i := x.1, j := x.2, k := 0 } }
  | _ => return { tiles := [] }

/-! ### CHAIN and SELECT_BALES on an engine (05_macro R153; 08_dragoman R263) -/

/-- Phase 1 of CHAIN: 256 columns of the first product into the score store. -/
def chainGeo1 (s : State) (q : Req) (e : Nat) (c : ChainCmd) (t : TileId) (sub : Nat) (m : Nat) (va : View) : Geo :=
  let r0 := t.i * 256
  let c0 := sub * 256
  { fl := c.a.format, fb := c.b.format, anchor := c.anchor1, outRes := false
    active := fun l => decide (l < 256) && decide (r0 + l < m)
    cols := min 256 (c.b.rows - c0)
    passes := ceilDiv c.a.cols (formatDepth c.a.format)
    laneChunk := fun l pass => chunkOf s q c.a va m (r0 + l) c.a.cols pass pass 0
    colChunk := fun x pass => chunkOf s q c.b (operandView c.b t.batch) c.b.rows (c0 + x) c.a.cols pass pass x
    laneSpans := fun l pass => chunkSpans c.a va m (r0 + l) c.a.cols pass
    colSpans := fun x pass => chunkSpans c.b (operandView c.b t.batch) c.b.rows (c0 + x) c.a.cols pass
    drain := fun u l x acc =>
      match rowScale u q c.a va (r0 + l), rowScale u q c.b (operandView c.b t.batch) (c0 + x) with
      | .error z, _ => .error z
      | _, .error z => .error z
      | .ok ra, .ok rb =>
        let y := accumOut 5 c.anchor1 [c.a.tscale, c.b.tscale, ra, rb] acc
        .ok (storeNat u (scoreAddr e l (c0 + x)) 4 y.1, innerFlags y.2) }

/-- The X buffer of an engine (R153). -/
def chainXAddr (e g : Nat) (c : ChainCmd) : Nat := sramAddr e (c.xls + g * 256 * c.b.rows * (formatBits c.xfmt / 8))

/-- The codes of row `l` of the X buffer. -/
def chainXRow (s : State) (e g : Nat) (c : ChainCmd) (l : Nat) : List Nat :=
  let b := formatBits c.xfmt / 8
  (List.range c.b.rows).map fun i => natAt s (chainXAddr e g c + (l * c.b.rows + i) * b) b

/-- Phase 3 of CHAIN: a tile of the second product, with X resident. -/
def chainGeo3 (s : State) (q : Req) (e g : Nat) (c : ChainCmd) (t : TileId) (sub m : Nat) (vy : View) : Geo :=
  let r0 := t.i * 256
  let c0 := sub * 64 * c.tileB
  { fl := c.xfmt, fb := c.d.format, anchor := c.y.anchor, outRes := false
    active := fun l => decide (l < 256) && decide (r0 + l < m)
    cols := min (64 * c.tileB) (c.d.rows - c0)
    passes := ceilDiv c.b.rows (formatDepth c.xfmt)
    laneChunk := fun l pass =>
      .ok ((codeChunks c.xfmt (chainXRow s e g c l)).getD pass { pass, column := 0, elements := [], scales := [] })
    colChunk := fun x pass => chunkOf s q c.d (operandView c.d t.batch) c.d.rows (c0 + x) c.d.cols pass pass x
    colSpans := fun x pass => chunkSpans c.d (operandView c.d t.batch) c.d.rows (c0 + x) c.d.cols pass
    drain := fun u l x acc =>
      match chainScales u q c t.batch (c0 + x) with
      | .error z => .error z
      | .ok scl => drainOut q c.y vy (r0 + l) (c0 + x) scl u acc }

/-- The bundles of the source (08_dragoman R263). -/
def sourceBundles (c : SelectCmd) : List Nat := between (c.bfirst / 64) (c.blast / 64 + 1)

/-- The blocks of a SELECT_BALES tile cut where the sequence changes, each run with its first place in the tile: the centroids that stand
in the lanes are those of one chain. -/
def chainRuns (tile : List (QueryBlock × Nat)) : List (Nat × List (QueryBlock × Nat)) :=
  ((tile.map fun b => b.1.p).dedup).map fun p => (tile.findIdx fun b => b.1.p == p, tile.filter fun b => b.1.p == p)

/-- The column tiles of a SELECT_BALES tile: 256 bundles of one chain each. -/
def selectSubs (c : SelectCmd) (blocks : List (QueryBlock × Nat)) (t : TileId) : Nat :=
  (chainRuns ((blocks.drop t.i).take t.j)).length * ceilDiv (sourceBundles c).length 256

/-- One column tile of a SELECT_BALES tile: bundles of a chain in the lanes, the mean queries of its blocks broadcast, scores to LS_AREA:
within an engine's bytes by the block's place in the tile, then by bundle, which is the model's choice (log 127). -/
def selectGeo (s : State) (q : Req) (die e g : Nat) (c : SelectCmd) (blocks : List (QueryBlock × Nat)) (t : TileId) (sub : Nat) : Geo :=
  let us := sourceBundles c
  let nb := max 1 (ceilDiv us.length 256)
  let run := (chainRuns ((blocks.drop t.i).take t.j)).getD (sub / nb) (0, [])
  let part := sub % nb
  { fl := 4, fb := 4, anchor := 0, outRes := false
    active := fun l => decide (l < 256) && decide (256 * part + l < us.length)
    cols := run.2.length
    passes := ceilDiv c.att.t.dsum 32
    laneChunk := fun l pass =>
      let empty : Chunk := { pass, column := 0, elements := [], scales := [] }
      let u := us.getD (256 * part + l) 0
      match run.2.head? with
      | none => .ok empty
      | some b =>
        match selectBlock s q c b.2 with
        | .error z => .error z
        | .ok sb =>
          match selectSegment s q die c.att.t sb.seq (c.att.t.chain0 + sb.g) (64 * u / 4096) with
          | .error _ => .ok empty
          | .ok none => .ok empty
          | .ok (some a) => (slotCodes s q (bundleAddr c.att.t a (64 * u) + 0x40) 4 c.att.t.dsum 1 0).map fun cs =>
              { empty with elements := (cs.drop (32 * pass)).take 32 }
    colChunk := fun x pass =>
      match run.2[x]? with
      | none => .ok { pass, column := x, elements := [], scales := [] }
      | some b => (selectBlock s q c b.2).map fun sb =>
          { pass, column := x, elements := (sb.mean.drop (32 * pass)).take 32, scales := [] }
    laneSpans := fun l pass =>
      let u := us.getD (256 * part + l) 0
      match run.2.head?.map fun b => (selectBlock s q c b.2).bind fun sb =>
        selectSegment s q die c.att.t sb.seq (c.att.t.chain0 + sb.g) (64 * u / 4096) with
      | some (.ok (some a)) => [(bundleAddr c.att.t a (64 * u) + 0x40 + 64 * pass, 2 * min 32 (c.att.t.dsum - 32 * pass))]
      | _ => []
    drain := fun u l x acc =>
      let v := match acc with | .f32 v => v | .win _ => 0
      .ok (storeNat u (sramAddr e (c.lsArea + g * 256 * us.length + 4 * ((run.1 + x) * us.length + 256 * part + l))) 4 v.toNat, 0) }

/-- The geometry of what an engine runs, with the number of column tiles of its phase; none where no vector enters for it. -/
def runGeo (s : State) (q : Req) (e g : Nat) (w : List Byte) (run : TileRun) : Got (Option (Geo × Nat)) := do
  let z : TileId := { batch := 0, i := 0, j := 0, k := 0 }
  match wOpcode w with
  | 0x01 =>
    let c ← matCmd s q w
    let k ← recWork s q w
    let t := k.tiles.getD run.tile z
    let b ← matBatch s q c t.batch
    return some (matGeo s q c b t, 1)
  | 0x02 =>
    let c ← chainCmd s q w
    let k ← recWork s q w
    let t := k.tiles.getD run.tile z
    let b ← chainBatch s q c t.batch
    if run.phase = 1 then return some (chainGeo1 s q e c t run.sub b.1 b.2.1, ceilDiv c.b.rows 256)
    else if run.phase = 3 then return some (chainGeo3 s q e g c t run.sub b.1 b.2.2, ceilDiv c.d.rows (64 * max c.tileB 1))
    else return none
  | 0x18 =>
    let c ← searchCmd s q w
    let k ← recWork s q w
    return some (searchGeo s q c (k.tiles.getD run.tile z), 1)
  | 0x19 =>
    let c ← selectCmd s q w
    let k ← recWork s q w
    let seqs ← attSeqs s q c.att
    let t := k.tiles.getD run.tile z
    return some (selectGeo s q (ecDie e) e g c (selectBlocks c seqs) t run.sub, selectSubs c (selectBlocks c seqs) t)
  | _ => return none

/-- The columns that enter in one pass, padded to whole blocks of 64 (R99, R107). -/
def Geo.width (g : Geo) : Nat := if g.outRes then 1 else 64 * ceilDiv g.cols 64

/-- Whether a geometry accumulates in window words. -/
def Geo.anchored (g : Geo) : Bool := anchoredFormat g.fl

/-! ### Accumulator regions (04_matrix R111, R112) -/

/-- The accumulators of a tile of a command, in a phase of CHAIN, are anchored words (04_matrix R110), and its width in columns. -/
def tileWidth (s : State) (r : MacroRec) (phase : Nat) : Bool × Nat :=
  let q := reqOf s r
  match wOpcode r.word with
  | 0x01 => match matCmd s q r.word with
    | .ok c => (anchoredFormat c.a.format, if c.mode = 2 then 1 else 64 * c.tileB)
    | .error _ => (true, 256)
  | 0x02 => match chainCmd s q r.word with
    | .ok c => if phase = 3 then (anchoredFormat c.xfmt, 64 * c.tileB) else (anchoredFormat c.a.format, 256)
    | .error _ => (true, 256)
  | 0x03 => match combineCmd s q r.word with | .ok c => (c.dp.format == 6, 64 * c.tileB) | .error _ => (true, 256)
  | 0x18 => (false, 256)
  | 0x19 => (false, 64)
  | _ => (true, 256)

/-- Two regions share words. -/
def regionsMeet (a b : Nat) : Bool := a == b || a == 2 || b == 2

end Sys2Proof.Machine
end

