-- ==== Sys2Proof/Machine/Ledger.lean ====
section
/-! DEFINITION. The ledger and the tile sequencers (05_macro R120 to R122, R140 to R148, R157; 07_kv R227; 06_attend R188):
the tiles of a command, its start, takes, grants, steals and completion. -/

namespace Sys2Proof.Machine

/-! ### Grants and ranges of tiles -/

/-- GRANT of a command; one where its word has none. -/
def grantOf (w : List Byte) : Nat :=
  match wOpcode w with
  | 0x01 => field w 0x22 1 | 0x02 => field w 0x22 1 | 0x03 => field w 0x1F 1 | 0x04 => field w 0x21 1 | 0x05 => field w 0x21 1
  | 0x08 => field w 0x30 1 | 0x09 => field w 0x30 1 | 0x0B => field w 0x1D 1 | 0x18 => field w 0x2F 1 | 0x19 => field w 0x27 1
  | _ => 1

/-- The tile number at place `i` of a list of ranges (first, count). -/
def rangeNth : List (Nat × Nat) → Nat → Nat
  | [], _ => 0
  | r :: l, i => if i < r.2 then r.1 + i else rangeNth l (i - r.2)

/-- The number of tiles of a list of ranges. -/
def rangeCount (l : List (Nat × Nat)) : Nat := (l.map Prod.snd).sum

/-- The tile number at place `i` of the tiles that a record grants: a resumed record grants its saved ranges only. -/
def tileNumber (r : MacroRec) (i : Nat) : Nat := match r.only with | none => i | some l => rangeNth l i

/-! ### Units (R121; log 25) -/

/-- The engines of an EC that a command uses: those that ENG names. -/
def enginesOf (w : List Byte) : List Nat :=
  if [0x01, 0x02, 0x03, 0x06, 0x08, 0x09, 0x18, 0x19].contains (wOpcode w) then
    (if wEng w = 0 then [0, 1] else [wEng w - 1])
  else []

/-- Whether a command uses the row unit: NORM, ROWFN, CHAIN and, as CHAIN does, ATTEND and ATTEND_BWD. -/
def usesRowUnit (w : List Byte) : Bool := [0x02, 0x04, 0x05, 0x08, 0x09].contains (wOpcode w)

/-- An engine with no work left. -/
def engineIdle (g : Engine) : Bool := g.current.isNone && g.next.isNone && g.combines.isEmpty && g.drains.isEmpty && g.span.isNone

/-- The units that a command uses are free on an EC. -/
def unitsFree (s : State) (e : Nat) (w : List Byte) : Bool :=
  let c := s.ecAt e
  (enginesOf w).all (fun i => (c.engineAt i).holds.isNone && engineIdle (c.engineAt i)) &&
  (!usesRowUnit w || (c.rowUnit.holds.isNone && c.rowUnit.current.isNone)) &&
  (wOpcode w != 2 || c.scoreOwner.isNone)

/-- The command holds its units on an EC; a held engine begins with region 0 (04_matrix R112). -/
def holdUnits (s : State) (e acc : Nat) (w : List Byte) : State :=
  s.modEc e fun c =>
    let c := (enginesOf w).foldl (fun c i =>
      c.setEngine i { c.engineAt i with holds := some acc, region := 0, broadcast := [], feeders := [], resident := [] }) c
    if usesRowUnit w then { c with rowUnit := { c.rowUnit with holds := some acc } } else c

/-- The command holds no unit of an EC any more. -/
def freeUnits (s : State) (e acc : Nat) : State :=
  s.modEc e fun c =>
    let c := [0, 1].foldl (fun c i =>
      if (c.engineAt i).holds = some acc then c.setEngine i { c.engineAt i with holds := none } else c) c
    if c.rowUnit.holds = some acc then { c with rowUnit := { c.rowUnit with holds := none } } else c

/-- The row unit of a command that no engine of the EC holds any more is free. -/
def freeRowUnit (s : State) (e acc : Nat) : State :=
  s.modEc e fun c =>
    if c.rowUnit.holds = some acc ∧ (c.engineAt 0).holds ≠ some acc ∧ (c.engineAt 1).holds ≠ some acc ∧ c.rowUnit.current.isNone
    then { c with rowUnit := { c.rowUnit with holds := none } } else c

/-! ### Faults of a command (05_macro R157; 10_streams R323; 07_kv R229) -/

/-- The first unit of an EC that waits for a window under HOLD counts as HBM late or LPDDR late (02_package R38): that of a command's
crew which has joined it. The wait for a PLL is no stall (14_power R413). -/
def countHeld (s : State) (port : Nat) (r : MacroRec) (a : Nat) : State :=
  match (if port < 4 && tierHeld s a then r.joined.head? else none), regionOf a with
  | some e, .hbm _ => bumpEc s e cntStallHbm
  | some e, .lpd _ => bumpEc s e cntStallLpd
  | _, _ => s

/-- What a command meets first: a memory fault aborts its task (a command of no context ends with it); any other code is held by the
command and logged (00_scope R17). An access that waits for a window under HOLD changes nothing but the count of late cycles. -/
def commandError (s : State) (port : Nat) (r : MacroRec) (e : MemErr) : State :=
  if e.1 = codeHeld then countHeld s port r e.2
  else if e.1.cls = 4 then
    let t := memoryFault s (.task r.issuer) e.1 e.2
    match macroAt t port r.acc with
    | none => t
    | some x => setMacro t port { macroFault t x e.1 with finished := true }
  else setMacro (logCommand s port r e.1) port (macroFault s r e.1)

/-- The record of a command that completes with a code and computes nothing. -/
def rejected (s : State) (r : MacroRec) (code : Code) : MacroRec :=
  { macroFault s r code with armed := true, finished := true, total := 0, next := 0 }

/-- The command completes with a code and computes nothing; the fault is logged (00_scope R17). -/
def rejectCommand (s : State) (port : Nat) (r : MacroRec) (code : Code) : State :=
  setMacro (logCommand s port r code) port (rejected s r code)

/-- A fault that a command meets as it starts: it computes nothing; a memory fault also aborts its task. -/
def startError (s : State) (port : Nat) (r : MacroRec) (e : MemErr) : State :=
  if e.1 = codeHeld then countHeld s port r e.2
  else if e.1.cls = 4 then commandError (setMacro s port (rejected s r e.1)) port r e
  else rejectCommand s port r e.1

/-! ### Order against bale tables (07_kv R227; 06_attend R188) -/

/-- The bale table that a command names, its directory: as it read it when it started, or as memory names it before that. -/
def baleTableOf (s : State) (r : MacroRec) : Option Nat :=
  match r.view with
  | some v => some (field v.2 0 8 % 2 ^ 48)
  | none =>
  let w := r.word
  let viaRecord := fun (i : Nat) => natAt s (natAt s (wDtab w % 2 ^ 48 + 64 * i) 8 % 2 ^ 48) 8 % 2 ^ 48
  match wOpcode w with
  | 0x06 => some (natAt s (field w 0x18 8 % 2 ^ 48) 8 % 2 ^ 48)
  | 0x08 => some (viaRecord (field w 0x1E 2))
  | 0x09 => some (viaRecord (field w 0x1E 2))
  | 0x0A => some (natAt s (field w 0x20 8 % 2 ^ 48) 8 % 2 ^ 48)
  | 0x0B => some (natAt s (field w 0x20 8 % 2 ^ 48) 8 % 2 ^ 48)
  | 0x19 => some (viaRecord (field w 0x1A 2))
  | _ => none

/-- R227: no earlier command of the die on the same bale table must complete first. -/
def tableOrderOk (s : State) (port : Nat) (r : MacroRec) : Bool :=
  match baleTableOf s r with
  | none => true
  | some d =>
    let writer := fun (w : List Byte) => wOpcode w == 0x0A || wOpcode w == 0x0B
    (macrosOf s port).all fun x =>
      decide (r.acc ≤ x.acc) || !(writer r.word || writer x.word) || baleTableOf s x != some d

/-! ### COMMAND_START (R121, R157) -/

/-- The first command of a unit's queue that has not started. -/
def firstWaiting (s : State) (u : Nat) : Option Place := (queueOf s u).find? fun p => !p.started

/-- The code of the start checks, or 0 (R157, R346; 06_attend R183, R187; 07_kv R214; 08_dragoman R268). -/
def startCode (s : State) (q : Req) (port : Nat) (r : MacroRec) : Got Code := do
  let cs ← commandChecks s q port r.issuer r.word
  if startCodes cs ≠ [] ∨ !startExtra port r.issuer r.word then return codeInvalidMacro
  let view ← viewChecks s q r.word
  let early ← earlyServiceOk s q r.word
  if !view ∨ !early then return codeInvalidMacro
  match wOpcode r.word with
  | 0x18 =>
    let c ← searchCmd s q r.word
    searchStart s q port c
  | 0x19 =>
    let c ← selectCmd s q r.word
    selectStart s q port c
  | _ => return 0

/-- The tiles that a record grants, once its view is read. -/
def armedRecord (s : State) (r : MacroRec) : Got MacroRec := do
  let v ← viewAtStart s (reqOf s r) r.word
  let w ← recWork s { reqOf s r with view := v } r.word
  return { r with armed := true, view := v, total := match r.only with | none => w.tiles.length | some l => rangeCount l }

/-- The ledger arms the counter at the first start of a command; the command reads its view root and table header then (07_kv R209). -/
def armCommand (s : State) (port : Nat) (r : MacroRec) : State :=
  match startCode s (reqOf s r) port r with
  | .error e => startError s port r e
  | .ok code =>
    if code ≠ 0 then rejectCommand s port r code
    else
      match armedRecord s r with
      | .error e => startError s port r e
      | .ok r => setMacro s port r

/-- Every window of a record is empty and nothing is left to grant. -/
def nothingLeft (r : MacroRec) : Bool := decide (r.total ≤ r.next) && r.windows.all fun w => w.2.2 == 0

/-- The place of a command in a queue is marked as started. -/
def markStarted (s : State) (u : Nat) (p : Place) : State :=
  setQueueOf s u ((queueOf s u).map fun x => if x = p then { x with started := true } else x)

/-- The context of a command is at a pause (12_partitions R380). -/
def ctxPaused (s : State) (c : Option (Fin 64)) : Bool := match c with | some c => (s.ctxAt c.val).paused | none => false

/-- The start condition of COMMAND_START at unit `u`. -/
def canStart (s : State) (u : Nat) : Option (Place × MacroRec) :=
  match firstWaiting s u with
  | none => none
  | some p =>
    match macroAt s p.port.val p.acc with
    | none => none
    | some r =>
      if decide (wOpcode r.word < 0x20) && (decide (128 ≤ u) || unitsFree s u r.word) && tableOrderOk s p.port.val r &&
          !ctxPaused s r.ctx && (!drgCommand r.word || decide (p.port.val = 4) || (s.dieAt p.port.val).drgCommands.contains r.acc)
      then some (p, r) else none

/-- A tile sequencer whose clock runs starts its next command. -/
def execCommandStart (unit : Fin 131) (s : State) : Answer := whileClocked s <|
  match (if unitClocked s unit.val then canStart s unit.val else none) with
  | none => .next s
  | some (p, r) =>
    let t := if r.armed then s else armCommand s p.port.val r
    match macroAt t p.port.val p.acc with
    | none => .next t
    | some r' =>
      if !r'.armed then .next t
      else
      let t := markStarted t unit.val p
      let t := setMacro t p.port.val { r' with joined := r'.joined ++ [unit.val] }
      if r'.finished ∨ (nothingLeft r' ∧ enginesOf r.word ++ (if usesRowUnit r.word then [2] else []) ≠ []) ∨ 128 ≤ unit.val
      then .next t
      else .next (holdUnits t unit.val p.acc r.word)

/-! ### Take, grant, steal (R146 to R148) -/

/-- Parts of an output tile, from the command word alone once it has started. -/
def recParts (s : State) (r : MacroRec) : Nat :=
  match recWork s (reqOf s r) r.word with | .ok w => w.parts | .error _ => 1

/-- Tiles of a first round (06_attend R180). -/
def recHalf (s : State) (r : MacroRec) : Nat :=
  match recWork s (reqOf s r) r.word with | .ok w => w.half | .error _ => 0

/-- The output tile that a tile belongs to. -/
def outputOf (parts half t : Nat) : Nat := if half = 0 then t / parts else if t < half then t else half + (t - half) / parts

/-- R380 of 12_partitions: a tile whose output tile has a part taken or drained still goes on during a pause. -/
def requiredTile (s : State) (r : MacroRec) (t : Nat) : Bool :=
  let n := recParts s r
  let h := recHalf s r
  decide (1 < n) && decide (h ≤ t) &&
    (decide (0 < tabGet 0 r.drained (outputOf n h t)) || r.taken.any fun x => decide (h ≤ x) && outputOf n h x == outputOf n h t)

/-- The places [a, a + n) of a list of ranges, as ranges of tiles. -/
def subRanges : List (Nat × Nat) → Nat → Nat → List (Nat × Nat)
  | [], _, _ => []
  | r :: l, a, n =>
    if n = 0 then []
    else if r.2 ≤ a then subRanges l (a - r.2) n
    else (r.1 + a, min n (r.2 - a)) :: subRanges l 0 (n - min n (r.2 - a))

/-- R380 of 12_partitions: the untaken tiles of a record as ranges: every window and [NEXT, T). -/
def untaken (r : MacroRec) : List (Nat × Nat) :=
  let sub := fun (a n : Nat) => if n = 0 then [] else match r.only with | none => [(a, n)] | some l => subRanges l a n
  r.windows.flatMap (fun w => sub w.2.1 w.2.2) ++ sub r.next (r.total - r.next)

/-- A paused instruction that splits K has ranges of output tiles that are begun still to take (R380). -/
def requiredLeft (s : State) (r : MacroRec) : Bool :=
  let left := fun (a n : Nat) => (List.range n).any fun i => requiredTile s r (tileNumber r (a + i))
  decide (1 < recParts s r) && ((r.windows.any fun w => left w.2.1 w.2.2) || left r.next (r.total - r.next))

/-- R380: more ranges than an instruction record holds, so the record's tiles go on during the pause. -/
def tooManyRanges (r : MacroRec) : Bool := decide (52 < (untaken r).length)

/-- R380 of 12_partitions and R239 of 08_dragoman: a SEARCH, a SELECT_BALES, an APPEND_KV or a GAMBIT_COMMIT that has started runs to its end
through a pause. -/
def runsOn (r : MacroRec) : Bool := r.armed && [0x0A, 0x0B, 0x18, 0x19].contains (wOpcode r.word)

/-- The units of an EC take tile `t` now: no pause, or the pause requires it. -/
def mayTake (s : State) (e : Nat) (r : MacroRec) (t : Nat) : Bool :=
  runsOn r || (!r.paused && !(s.ecAt e).tempoHold) || requiredTile s r t || (r.paused && tooManyRanges r)

/-- The window of an EC: its first place and its length. -/
def windowOf (r : MacroRec) (e : Nat) : Nat × Nat := tabGet (0, 0) r.windows e

/-- A row command has its tiles taken by the row unit. -/
def rowCommand (w : List Byte) : Bool := wOpcode w == 4 || wOpcode w == 5

/-- A command whose tiles are sequences (06_attend R186; 07_kv R217): a tile sequencer takes them one at a time, as no engine does (log 20). -/
def sequenceCommand (w : List Byte) : Bool := wOpcode w == 0x0A || wOpcode w == 0x0B

/-- A command whose tiles the ledger grants. -/
def tiledCommand (w : List Byte) : Bool :=
  rowCommand w || sequenceCommand w || [0x01, 0x02, 0x03, 0x06, 0x08, 0x09, 0x18, 0x19].contains (wOpcode w)

/-- An engine (or the row unit) may ask the ledger: it holds the command, has no pending combine step, and is idle or in the
last pass of its tile. -/
def mayAsk (s : State) (e g acc : Nat) (r : MacroRec) (lastPass : TileRun → Bool) : Bool :=
  let c := s.ecAt e
  r.armed && !r.finished && !ecStopped s e && ecClocked s e && tiledCommand r.word && r.joined.contains e &&
    (if rowCommand r.word then g == 0 && c.rowUnit.holds == some acc && c.rowUnit.current.isNone
     else if sequenceCommand r.word then g == 0 && r.taken.isEmpty
     else
      let x := c.engineAt g
      x.holds == some acc && x.combines.isEmpty && x.next.isNone &&
        (match x.current with | none => true | some t => lastPass t))

/-- A tile goes to an engine or to the row unit. -/
def giveTile (s : State) (e g : Nat) (r : MacroRec) (tile : Nat) : State :=
  if sequenceCommand r.word then s
  else s.modEc e fun c =>
    let phase := if wOpcode r.word = 2 then 1 else 0
    let k := takeRegion (tileWidth s r phase) (c.engineAt g).region
    let run : TileRun := { acc := r.acc, tile, combine := false, pass := 0, column := 0, region := k.1, phase }
    if rowCommand r.word then { c with rowUnit := { c.rowUnit with current := some run } }
    else
      let x := { c.engineAt g with region := k.2 }
      c.setEngine g (if x.current.isNone then { x with current := some run, resident := [], feeders := [], broadcast := [] }
        else { x with next := some run })

/-- The record after a take of place `i` at an EC whose window becomes `w`. -/
def takePlace (r : MacroRec) (e : Nat) (w : Nat × Nat) (i : Nat) : MacroRec :=
  { r with windows := tabSet r.windows e w, taken := r.taken ++ [tileNumber r i] }

/-- The spans of the row block of a tile of ATTEND. -/
def tileSpans (s : State) (e : Nat) (r : MacroRec) (tile : Nat) : Got Nat := do
  let q := reqOf s r
  let c ← attCmd s q r.word
  let seqs ← attSeqs s q c
  let w ← recWork s q r.word
  let b ← blockWork s q (ecDie e) c seqs (w.tiles.getD tile { batch := 0, i := 0, j := 0, k := 0 })
  return if c.place = 1 then 1 else b.spans.length

/-- A tile is in its last pass: the last pass of its last column tile (of CHAIN's third phase), pass two of the last span of ATTEND, or
the one step of a COMBINE. A tile that an engine does in one step (EXPAND, ATTEND_BWD) has no pass of its own. -/
def inLastPass (s : State) (e g : Nat) (r : MacroRec) (t : TileRun) : Bool :=
  match wOpcode r.word with
  | 0x03 => true
  | 0x08 =>
    match (s.engineAt e g).span, tileSpans s e r t.tile with
    | some sp, .ok n => sp.stage == 3 && decide (n ≤ sp.span + 1)
    | _, _ => false
  | _ =>
    match runGeo s (reqOf s r) e g r.word t with
    | .ok (some (geo, subs)) => t.phase != 1 && t.sub + 1 == subs && t.pass + 1 == geo.passes
    | _ => false

/-- The place that a take of an EC's window takes, and what is left of the window: its head; in a pause the tail where a K range of an output
tile that is begun lies there (12_partitions R380). -/
def takeAt (s : State) (e : Nat) (r : MacroRec) : Option (Nat × (Nat × Nat)) :=
  let w := windowOf r e
  if w.2 = 0 then none
  else if mayTake s e r (tileNumber r w.1) then some (w.1, (w.1 + 1, w.2 - 1))
  else if requiredTile s r (tileNumber r (w.1 + w.2 - 1)) then some (w.1 + w.2 - 1, (w.1, w.2 - 1))
  else none

/-- R180 of 06_attend: a tile of the second round waits for every tile of the first. The tiles are told apart by their numbers. -/
def roundOpen (s : State) (r : MacroRec) : Bool :=
  let h := recHalf s r
  decide (tileNumber r r.next < h) ||
    (r.taken.all fun t => decide (h ≤ t)) && r.windows.all fun w => (List.range w.2.2).all fun i => decide (h ≤ tileNumber r (w.2.1 + i))

/-- How many tiles a grant gives: GRANT, up to the end, never across the rounds, and during a pause only those required. -/
def grantSize (s : State) (e : Nat) (r : MacroRec) : Nat :=
  let h := recHalf s r
  let first := decide (tileNumber r r.next < h)
  ((List.range (min (grantOf r.word) (r.total - r.next))).takeWhile fun i =>
    mayTake s e r (tileNumber r (r.next + i)) && (!first || decide (tileNumber r (r.next + i) < h))).length

/-- R146: the victim of a steal: the largest window, the lowest EC number among equals. -/
def victimOf (r : MacroRec) : Option (Nat × Nat × Nat) :=
  r.windows.foldl (fun v w => match v with
    | none => if 0 < w.2.2 then some w else none
    | some x => if x.2.2 < w.2.2 then some w else some x) none

/-- An engine leaves the instruction; the row unit with the last of them. -/
def leaveEngine (s : State) (e g : Nat) (r : MacroRec) : State :=
  if rowCommand r.word then freeUnits s e r.acc
  else freeRowUnit (s.setEngine e g { s.engineAt e g with holds := none }) e r.acc

/-- A steal takes tiles; otherwise the engine leaves the instruction (R146, R148). -/
def stealFinds (r : MacroRec) : Bool := (victimOf r).isSome && !wNoSteal r.word

/-- What an engine asks of the ledger now for a record: 0 a take, 1 a grant, 2 a steal (R146). -/
def ledgerAsks (s : State) (e g : Nat) (r : MacroRec) : Option Nat :=
  if !mayAsk s e g r.acc r (inLastPass s e g r) then none
  else if (windowOf r e).2 ≠ 0 then (takeAt s e r).map fun _ => 0
  else if r.next < r.total then (if roundOpen s r && decide (0 < grantSize s e r) then some 1 else none)
  else if (runsOn r || (!r.paused && !(s.ecAt e).tempoHold) || (r.paused && tooManyRanges r)) && (!sequenceCommand r.word || stealFinds r)
  then some 2 else none

/-- How long a partition waits for a ledger that serves them in turn, from the one after that which it served last (12_partitions R365). -/
def partTurn (s : State) (d : Nat) (r : MacroRec) : Nat := ((reqOf s r).partOr0 + 7 - (s.dieAt d).lastPartition) % 8

/-- The order in which a ledger serves what waits: by partition in turn, by the order of acceptance within one (12_partitions R365), and
within an instruction takes before grants before steals, by EC and by engine (R147). -/
def ledgerRank (s : State) (d : Nat) (r : MacroRec) (k e g : Nat) : List Nat := [partTurn s d r, r.acc, k, e, g]

/-- No other request that waits at the ledger comes before this one. -/
def ledgerServes (s : State) (d : Nat) (r : MacroRec) (k e g : Nat) : Bool :=
  (macrosOf s d).all fun x => x.joined.all fun e' => (List.range 2).all fun g' =>
    match ledgerAsks s e' g' x with
    | some k' => !decide (ledgerRank s d x k' e' g' < ledgerRank s d r k e g)
    | none => true

/-- The record of a command, where the ledger serves the request `k` of an engine for it now. -/
def ledgerTurn (s : State) (ec : Fin 128) (eng : Fin 2) (acc k : Nat) : Option MacroRec :=
  let d := ecDie ec.val
  match macroAt s d acc with
  | none => none
  | some r => if ledgerAsks s ec.val eng.val r = some k ∧ ledgerServes s d r k ec.val eng.val then some r else none

/-- The partition that a ledger served last (12_partitions R365). -/
def servePart (s : State) (d : Nat) (r : MacroRec) : State := s.modDie d fun x => { x with lastPartition := (reqOf s r).partOr0 }

/-- A take: the tile at place `p` goes to the engine, and `w` is left of the window. -/
def takeTile (s : State) (e g : Nat) (r : MacroRec) (p : Nat) (w : Nat × Nat) : State :=
  let d := ecDie e
  servePart (giveTile (setMacro s d (takePlace r e w p)) e g r (tileNumber r p)) d r

/-- A grant: `n` tiles from NEXT on become the EC's window, and the engine takes the first. -/
def grantTiles (s : State) (e g : Nat) (r : MacroRec) (n : Nat) : State :=
  bumpLedger (takeTile s e g { r with next := r.next + n } r.next (r.next + 1, n - 1)) (ecDie e) 0

/-- A steal: half of the victim's window, from its tail, becomes the EC's window, and the engine takes the first. -/
def stealTiles (s : State) (e g : Nat) (r : MacroRec) (v : Nat × Nat × Nat) : State :=
  let n := max 1 (v.2.2 / 2)
  let first := v.2.1 + (v.2.2 - n)
  bumpLedger (takeTile s e g { r with windows := tabSet r.windows v.1 (v.2.1, v.2.2 - n) } first (first + 1, n - 1)) (ecDie e) 1

/-- TILE_TAKE: an engine takes the tile at the head of its EC's window. -/
def execTileTake (ec : Fin 128) (eng : Fin 2) (acc : Nat) (s : State) : Answer := whileClocked s <|
  match ledgerTurn s ec eng acc 0 with
  | none => .next s
  | some r =>
    match takeAt s ec.val r with
    | some p => .next (takeTile s ec.val eng.val r p.1 p.2)
    | none => .next s

/-- TILE_GRANT: an engine whose window is empty is granted tiles from NEXT and takes the first. -/
def execTileGrant (ec : Fin 128) (eng : Fin 2) (acc : Nat) (s : State) : Answer := whileClocked s <|
  match ledgerTurn s ec eng acc 1 with
  | none => .next s
  | some r => .next (grantTiles s ec.val eng.val r (grantSize s ec.val r))

/-- TILE_STEAL: an engine whose window is empty, with nothing left to grant, steals from the largest window or leaves. -/
def execTileSteal (ec : Fin 128) (eng : Fin 2) (acc : Nat) (s : State) : Answer := whileClocked s <|
  match ledgerTurn s ec eng acc 2 with
  | none => .next s
  | some r =>
    match victimOf r with
    | some v => .next (if wNoSteal r.word then leaveEngine s ec.val eng.val r else stealTiles s ec.val eng.val r v)
    | none => .next (leaveEngine s ec.val eng.val r)

/-! ### Tiles that end, and completion (R122, R125) -/

/-- A tile of a record has drained with its flags: it is no longer taken, and its output tile counts one part more. -/
def tileDrained (s : State) (port acc tile : Nat) (flags : BitVec 16) : State :=
  match macroAt s port acc with
  | none => s
  | some r =>
    let n := recParts s r
    let h := recHalf s r
    let o := outputOf n h tile
    setMacro s port { r with
      taken := r.taken.filter fun x => x != tile
      aflags := r.aflags ||| flags
      drained := tabMod 0 r.drained o fun x => x + 1
      tiles := if n ≤ 1 then r.tiles + 1 else r.tiles }

/-- The combine step of an output tile is done. -/
def combineDone (s : State) (port acc o : Nat) (flags : BitVec 16) : State :=
  match macroAt s port acc with
  | none => s
  | some r =>
    setMacro s port { r with aflags := r.aflags ||| flags, drained := tabMod 0 r.drained o fun x => x + 1, tiles := r.tiles + 1 }

/-- Every tile and every combine step of a record has ended. -/
def recEnded (s : State) (r : MacroRec) : Bool :=
  let n := recParts s r
  r.armed && nothingLeft r && r.taken.isEmpty &&
    (n ≤ 1 || r.drained.all fun d => decide (d.1 < recHalf s r) || d.2 == n + 1)

/-- The queries of a SEARCH, or the query blocks of a SELECT_BALES; 0 for any other command. -/
def drgTotal (s : State) (r : MacroRec) : Nat :=
  let q := reqOf s r
  match wOpcode r.word with
  | 0x18 => match searchCmd s q r.word with | .ok c => c.nq | .error _ => 0
  | 0x19 =>
    match selectCmd s q r.word with
    | .ok c => match attSeqs s q c.att with | .ok l => (queryBlocks c.att l).length | .error _ => 0
    | .error _ => 0
  | _ => 0

/-- The end of a command: its tiles, its stream or its queries. -/
def recFinished (s : State) (r : MacroRec) : Bool :=
  r.finished || (tiledCommand r.word && recEnded s r && decide (drgTotal s r ≤ r.ended))

/-- EPOCH_MIXED (03_arithmetic R87). -/
def epochFlag (r : MacroRec) : BitVec 16 := if 1 < r.epochs.dedup.length then flagEpoch else 0

/-- R122: the record is written, the command leaves, and SIGNAL is given; an overflow of the pair is a fault of its task. A record in a window
under HOLD waits (02_package R38). -/
def completeCommand (s : State) (port : Nat) (r : MacroRec) : State :=
  let r := { r with aflags := r.aflags ||| epochFlag r }
  match uWrite s (reqOf s r) (wCompl r.word % 2 ^ 48) (completionBytes s r) with
  | .ok u =>
    let t := removeCommand u port r
    let t := (crewUnits port r.word).foldl (fun u e => if e < 128 then freeUnits u e r.acc else u) t
    if wSignal r.word && decide (r.issuer.val < 256) then
      let y := pairIncrease t (r.issuer.val / 2) (wSem r.word) false 1
      if y.2 then memoryFault y.1 (.task r.issuer) 0x4009 0 else y.1
    else t
  | .error e => if e.1 = codeHeld then s else memoryFault s (.task r.issuer) e.1 e.2

/-- MACRO_COMPLETE. -/
def execMacroComplete (port : Fin 5) (acc : Nat) (s : State) : Answer := whileClocked s <|
  match macroAt s port.val acc with
  | none => .next s
  | some r =>
    whenEnabled (recFinished s r && decide (wOpcode r.word < 0x20)) s (completeCommand s port.val r)

end Sys2Proof.Machine
end

