-- ==== Sys2Proof/Machine/Engine.lean ====
section
/-! DEFINITION. The steps of a matrix engine and of the row unit: fills, vector entry, drains, combine steps, row tiles and
the spans of ATTEND (04_matrix R95 to R118; 05_macro R150 to R155; 06_attend R167 to R174, R180). -/

namespace Sys2Proof.Machine

/-! ### The score store (06_attend R168) -/

/-- A unit (0 ME0, 1 ME1, 2 the row unit) asks for the score store: it owns it, takes it, or waits. -/
def scoreAsk (c : Ec) (u : Fin 3) : Bool × Ec :=
  if c.scoreOwner = some u then (true, c)
  else if c.scoreOwner.isNone ∧ c.scoreWaiters = [] then (true, { c with scoreOwner := some u })
  else (false, if c.scoreWaiters.contains u then c else { c with scoreWaiters := c.scoreWaiters ++ [u] })

/-- SCORE_STORE_GRANT: a free score store goes to the requester that asked first. -/
def execScoreStoreGrant (ec : Fin 128) (s : State) : Answer := whileClocked s <|
  let c := s.ecAt ec.val
  match c.scoreWaiters with
  | [] => .next s
  | u :: rest => whenEnabled c.scoreOwner.isNone s (s.setEc ec.val { c with scoreOwner := some u, scoreWaiters := rest })

/-- An engine as an owner of the score store. -/
def engineUnit (g : Fin 2) : Fin 3 := ⟨g.val, Nat.lt_of_lt_of_le g.isLt (by decide)⟩

/-! ### Fills (R101 to R104) -/

/-- The command that an engine works for: that of its tile (which it finishes after it has left the instruction, 05_macro R146),
and else the one that holds it. -/
def engineRec (s : State) (e g : Nat) : Option MacroRec :=
  match (s.engineAt e g).current, (s.engineAt e g).holds with
  | some run, _ => macroAt s (ecDie e) run.acc
  | none, some acc => macroAt s (ecDie e) acc
  | none, none => none

/-- What an engine runs now: its tile, command and geometry. -/
def engineRun (s : State) (e g : Nat) : Option (TileRun × MacroRec × Got (Option (Geo × Nat))) :=
  match (s.engineAt e g).current, engineRec s e g with
  | some run, some r => some (run, r, runGeo s (reqOf s r) e g r.word run)
  | _, _ => none

/-- The run that enters after `x.1` on an engine, as far as its operands are known now (R102, R106): the next column tile, or, at the end of
a tile, the tile taken early; `x.2` says that `x.1` is that tile. Phase 3 of CHAIN broadcasts D (`d`); its resident operand is what phase 2 has yet to
form. -/
def followRun (next : Option TileRun) (d : Bool) (x : TileRun × Bool) (subs : Nat) : Option (TileRun × Bool) :=
  if x.1.sub + 1 < subs then some ({ x.1 with sub := x.1.sub + 1, pass := 0, column := 0 }, x.2)
  else if x.1.phase = 1 then (if d then some ({ x.1 with phase := 3, sub := 0, pass := 0, column := 0 }, x.2) else none)
  else if x.2 then none else next.map fun t => (t, true)

/-- A place of an operand queue: how many runs after the current one, the run's geometry, pass and column. -/
structure FillPlace where
  run : Nat
  geo : Geo
  pass : Nat
  column : Nat

/-- The first place that a queue lacks, from run `k` on: `lacks` gives the place that it lacks in a run, and `d` says that it is the broadcast
queue. -/
def seekPlace (s : State) (e g : Nat) (r : MacroRec) (d : Bool) (lacks : Nat → TileRun → Geo → Option (Nat × Nat)) :
    Nat → Nat → TileRun × Bool → Geo → Nat → Got (Option FillPlace)
  | 0, _, _, _, _ => .ok none
  | fuel + 1, k, x, geo, subs =>
    match lacks k x.1 geo with
    | some p => .ok (some { run := k, geo, pass := p.1, column := p.2 })
    | none =>
      match followRun (s.engineAt e g).next d x subs with
      | none => .ok none
      | some y =>
        match runGeo s (reqOf s r) e g r.word y.1 with
        | .error z => .error z
        | .ok none => .ok none
        | .ok (some w) => seekPlace s e g r d lacks fuel (k + 1) y w.1 w.2

/-- The place after the last entry of run `k` in a list of entries, at `per` places a pass; the run's own place where it has none. -/
def placeAfter (k : Nat) (run : TileRun) (per : Nat) (q : List Chunk) : Nat :=
  match (q.filter fun c => c.run == k).getLast? with
  | some c => c.pass * per + c.column + 1
  | none => run.pass * per + run.column

/-- The next broadcast entry that a queue lacks of a run, as pass and column. -/
def nextBroadcast (q : List Chunk) (k : Nat) (run : TileRun) (g : Geo) : Option (Nat × Nat) :=
  let n := placeAfter k run g.width q
  if !g.outRes && decide (n < g.passes * g.width) then some (n / g.width, n % g.width) else none

/-- The next resident chunk that a lane lacks of a run: the pass after the last in its queue or buffers. -/
def nextResident (x : Engine) (l k : Nat) (run : TileRun) (g : Geo) : Option (Nat × Nat) :=
  let held := (tabGet [] x.feeders l ++ (x.resident.filter fun e => e.1 / 2 == l).map Prod.snd).filter fun c => c.run == k
  let n := held.foldl (fun a c => max a (c.pass + 1)) run.pass
  if g.active l && decide (n < g.passes) then some (n, 0) else none

/-- The next entry of a lane's queue in output-resident mode: the step, and 0 for A or 1 for B. -/
def nextPair (q : List Chunk) (l k : Nat) (run : TileRun) (g : Geo) : Option (Nat × Nat) :=
  let n := placeAfter k { run with column := 0 } 2 q
  if g.active l && decide (n < 2 * g.passes) then some (n / 2, n % 2) else none

/-- Lanes that take the same chunk as lane `l` (R100): a row's for A, a column's for B. -/
def sharesChunk (kind l k : Nat) : Bool := if kind = 0 then l / 16 == k / 16 else l % 16 == k % 16

/-- A lane queue takes an entry in output-resident mode if it is the one it lacks next. -/
def pushPair (seek : Nat → Got (Option FillPlace)) (x : Engine) (c : Chunk) (k : Nat) : Engine :=
  let q := tabGet [] x.feeders k
  match seek k with
  | .ok (some p) =>
    if q.length < 8 ∧ p.run = c.run ∧ p.pass = c.pass ∧ p.column = c.column then { x with feeders := tabSet x.feeders k (q ++ [c]) } else x
  | _ => x

/-- A broadcast queue with a free entry takes the next vector of the current run, or of one after it. -/
def fillBroadcast (s : State) (e g : Nat) (r : MacroRec) (run : TileRun) (geo : Geo) (subs : Nat) : Got State :=
  let x := s.engineAt e g
  if 8 ≤ x.broadcast.length then .ok s
  else
    match seekPlace s e g r true (nextBroadcast x.broadcast) 9 0 (run, false) geo subs with
    | .error z => .error z
    | .ok none => .ok s
    | .ok (some p) =>
      (if p.geo.cols ≤ p.column then Except.ok { pass := p.pass, column := p.column, elements := [], scales := [] }
        else p.geo.colChunk p.column p.pass).map fun c =>
          readsUse (s.setEngine e g { x with broadcast := x.broadcast ++ [{ c with pass := p.pass, column := p.column, run := p.run }] })
            (reqOf s r) (if p.geo.cols ≤ p.column then [] else p.geo.colSpans p.column p.pass)

/-- A lane's queue with a free entry takes the lane's next resident chunk. -/
def fillLane (s : State) (e g : Nat) (r : MacroRec) (l : Nat) (run : TileRun) (geo : Geo) (subs : Nat) : Got State :=
  let x := s.engineAt e g
  let q := tabGet [] x.feeders l
  if 8 ≤ q.length then .ok s
  else
    match seekPlace s e g r false (nextResident x l) 9 0 (run, false) geo subs with
    | .error z => .error z
    | .ok none => .ok s
    | .ok (some p) => (p.geo.laneChunk l p.pass).map fun c =>
        readsUse (s.setEngine e g { x with feeders := tabSet x.feeders l (q ++ [{ c with pass := p.pass, column := 0, run := p.run }]) })
          (reqOf s r) (p.geo.laneSpans l p.pass)

/-- A lane's queue with a free entry takes the lane's next chunk of A or of B, which every lane of its row or column takes with it. -/
def fillPairs (s : State) (e g : Nat) (r : MacroRec) (l : Nat) (run : TileRun) (geo : Geo) (subs : Nat) : Got State :=
  let x := s.engineAt e g
  let seek := fun (k : Nat) => seekPlace s e g r false (nextPair (tabGet [] x.feeders k) k) 9 0 (run, false) geo subs
  if 8 ≤ (tabGet [] x.feeders l).length then .ok s
  else
    match seek l with
    | .error z => .error z
    | .ok none => .ok s
    | .ok (some p) =>
      (if p.column = 0 then p.geo.laneChunk l p.pass else p.geo.colChunk (l % 16) p.pass).map fun c =>
        let c := { c with pass := p.pass, column := p.column, run := p.run }
        readsUse (s.setEngine e g ((p.geo.lanes.filter (sharesChunk p.column l)).foldl (fun y k => pushPair seek y c k) x))
          (reqOf s r) (if p.column = 0 then p.geo.laneSpans l p.pass else p.geo.colSpans (l % 16) p.pass)

/-- One fill of a queue of an engine. -/
def fillQueue (s : State) (e g : Nat) (lane : Option (Fin 256)) (r : MacroRec) (run : TileRun) (geo : Geo) (subs : Nat) : Got State :=
  match lane with
  | none => if geo.outRes then .ok s else fillBroadcast s e g r run geo subs
  | some l => if geo.outRes then fillPairs s e g r l.val run geo subs else fillLane s e g r l.val run geo subs

/-- A step of an engine that may meet a fault of its command. -/
def engineResult (s : State) (e : Nat) (r : MacroRec) (x : Got State) : State :=
  match x with
  | .ok t => t
  | .error z => commandError s (ecDie e) r z

/-- The run whose operands the broadcast queue takes now: while phase 2 of a CHAIN goes on, that of phase 3. -/
def broadcastRun (s : State) (e g : Nat) (r : MacroRec) (run : TileRun) : Got (Option (TileRun × Geo × Nat)) :=
  if run.phase = 2 then
    let x := { run with phase := 3 }
    (runGeo s (reqOf s r) e g r.word x).map fun o => o.map fun y => (x, y)
  else .ok none

/-- FEEDER_FILL. -/
def execFeederFill (ec : Fin 128) (eng : Fin 2) (lane : Option (Fin 256)) (s : State) : Answer := whileClocked s <|
  match engineRun s ec.val eng.val with
  | some (run, r, .ok (some (geo, subs))) => .next (engineResult s ec.val r (fillQueue s ec.val eng.val lane r run geo subs))
  | some (_, r, .error z) => .next (commandError s (ecDie ec.val) r z)
  | some (run, r, .ok none) =>
    match lane, broadcastRun s ec.val eng.val r run with
    | none, .ok (some (x, geo, subs)) => .next (engineResult s ec.val r (fillBroadcast s ec.val eng.val r x geo subs))
    | none, .error z => .next (commandError s (ecDie ec.val) r z)
    | _, _ => .next s
  | none => .next s

/-- The number of a resident buffer of a lane: X or Y. -/
def bufferKey (l : Nat) (y : Bool) : Nat := 2 * l + (if y then 1 else 0)

/-- Entry `k` of a table, if it has one. -/
def tabFind {α : Type} (t : Tab α) (k : Nat) : Option α := (t.find? fun e => e.1 == k).map Prod.snd

/-- The chunk that the next pass marker needs, as run and pass (R104, R106): that of the pass about to begin, of the pass after the one that
is entering, or, in the last pass of a run, of the first pass of the run after it. -/
def markerPlace (run : TileRun) (geo : Geo) : Nat × Nat :=
  if run.column = 0 then (0, run.pass) else if run.pass + 1 < geo.passes then (0, run.pass + 1) else (1, 0)

/-- RESIDENT_BUFFER_LOAD: the lane's free buffer takes the head of its feeder queue, if that is the chunk of the next marker. -/
def execResidentBufferLoad (ec : Fin 128) (eng : Fin 2) (lane : Fin 256) (s : State) : Answer := whileClocked s <|
  let x := s.engineAt ec.val eng.val
  match engineRun s ec.val eng.val with
  | some (run, _, .ok (some (geo, _))) =>
    match tabGet [] x.feeders lane.val with
    | [] => .next s
    | c :: rest =>
      let key := bufferKey lane.val (!x.buffer)
      whenEnabled (!geo.outRes && (c.run, c.pass) == markerPlace run geo && (tabFind x.resident key).isNone) s
        (s.setEngine ec.val eng.val
          { x with resident := tabSet x.resident key c, residentBad := tabErase x.residentBad key, feeders := tabSet x.feeders lane.val rest })
  | _ => .next s

/-! ### Tiles that end (05_macro R146, R150) -/

/-- Whether output tile `o` of a record waits for its combine step now. -/
def combineDue (s : State) (port acc o : Nat) : Bool :=
  match macroAt s port acc with
  | none => false
  | some r =>
    let n := recParts s r
    decide (1 < n) && tabGet 0 r.drained o == n

/-- A tile's drain has ended: its record, and the combine step of an output tile that is complete. -/
def finishTile (s : State) (e g : Nat) (run : TileRun) (flags : BitVec 16) : State :=
  let d := ecDie e
  let t := tileDrained s d run.acc run.tile flags
  match macroAt s d run.acc with
  | none => t
  | some r =>
    let h := recHalf s r
    let o := outputOf (recParts s r) h run.tile
    if h ≤ run.tile ∧ combineDue t d run.acc o then
      t.setEngine e g { t.engineAt e g with
        combines := (t.engineAt e g).combines ++ [{ run with tile := o, combine := true, pass := 0, column := 0 }] }
    else t

/-- Flags joined into a record. -/
def addFlags (s : State) (port acc : Nat) (fl : BitVec 16) : State :=
  match macroAt s port acc with
  | none => s
  | some r => setMacro s port { r with aflags := r.aflags ||| fl }

/-- The engine has done its row block: the next tile follows. -/
def endBlock (s : State) (e g : Nat) (run : TileRun) (fl : BitVec 16) : State :=
  let x := s.engineAt e g
  finishTile (s.setEngine e g { x with span := none, current := x.next, next := none }) e g run fl

/-- A row block that meets a fault of the store: it writes nothing, and its command holds the code (R194; 07_kv R229). -/
def faultBlock (s : State) (e g : Nat) (r : MacroRec) (run : TileRun) (z : MemErr) : State :=
  if z.1.cls = 4 ∨ z.1 = codeHeld then commandError s (ecDie e) r z
  else
    let s := commandError s (ecDie e) r z
    let s := s.modEc e fun x => if x.scoreOwner.map Fin.val = some g then { x with scoreOwner := none } else x
    let x := s.engineAt e g
    let t := s.setEngine e g { x with span := none, current := x.next, next := none }
    match macroAt t (ecDie e) run.acc with
    | none => t
    | some y => setMacro t (ecDie e) { y with
        taken := y.taken.filter fun k => k != run.tile
        drained := tabSet y.drained (outputOf (recParts s y) (recHalf s y) run.tile) (recParts s y + 1) }

/-- An epoch noted in a record. -/
def noteEpoch (s : State) (port acc : Nat) (ep : BitVec 16) : State :=
  match macroAt s port acc with
  | none => s
  | some r => setMacro s port { r with epochs := r.epochs ++ [ep] }

/-- The epoch whose tables a row tile used; under COMPAT epochs have no effect (03_arithmetic R90). -/
def noteUse (s : State) (port acc : Nat) (compat : Bool) (ep : BitVec 16) : State := if compat then s else noteEpoch s port acc ep

/-! ### Tiles that an engine does in one step (06_attend R168, R190 to R194; 07_kv R216) -/

/-- A tile of an EXPAND or an ATTEND_BWD has no vectors of its own here (log 20). -/
def wholeTile (w : List Byte) : Bool := wOpcode w == 6 || wOpcode w == 9

/-- Bale `b` of an EXPAND on EC `e`, with its look-up in the look-aside buffer (07_kv R210). -/
def expandTile (die e : Nat) (s : State) (r : MacroRec) (b : Nat) : State × Got (State × BitVec 16) :=
  let q := reqOf s r
  let w := r.word
  let p := field w 0x20 4
  let n := field w 0x28 4 + b
  match kvTable s q (field w 0x18 8 % 2 ^ 48), descOf s q w (field w 0x30 2), descOf s q w (field w 0x32 2) with
  | .ok t, .ok k, .ok v =>
    let c := t.chain0 + field w 0x24 2
    let s := labUse s q die t p c (n / 4096)
    (s, expandBale s q die e t k v p c n b)
  | .error z, _, _ => (s, .error z)
  | _, .error z, _ => (s, .error z)
  | _, _, .error z => (s, .error z)

/-- A tile of an attention command on engine `g` of EC `e`, with the look-ups of its bales (07_kv R210). -/
def attendTile (die e g : Nat) (s : State) (r : MacroRec) (n : Nat) : State × Got (State × BitVec 16) :=
  let q := reqOf s r
  match attCmd s q r.word, recWork s q r.word with
  | .ok c, .ok w =>
    match attSeqs s q c with
    | .ok seqs =>
      let t := w.tiles.getD n { batch := 0, i := 0, j := 0, k := 0 }
      let s := labUseAll s q die c.t (attLookups s q c seqs t)
      (s, (attTileRun s q die e g c seqs t).map fun u => (noteUse u.1 die r.acc c.compat (u.1.ecAt e).rowUnit.epoch, u.2))
    | .error z => (s, .error z)
  | .error z, _ => (s, .error z)
  | _, .error z => (s, .error z)

/-- The tile of an EXPAND or an ATTEND_BWD that an engine has taken. ATTEND_BWD owns the score store meanwhile. -/
def wholeTileStep (s : State) (e : Nat) (eng : Fin 2) (r : MacroRec) (run : TileRun) : State :=
  let g := eng.val
  let bwd := wOpcode r.word == 9
  let a := scoreAsk (s.ecAt e) (engineUnit eng)
  if bwd && !a.1 then bumpEc (s.setEc e a.2) e cntStallScore
  else
    let x := if bwd then attendTile (ecDie e) e g (s.setEc e a.2) r run.tile else expandTile (ecDie e) e s r run.tile
    match x.2 with
    | .error z => faultBlock x.1 e g r run z
    | .ok (u, fl) =>
      let u := if bwd then u.modEc e fun c => { c with scoreOwner := none } else u
      endBlock u e g run fl

/-! ### Vector entry (R95 to R100, R104, R105, R113, R116) -/

/-- The stall cause of an entry that waits for its broadcast operand (R116; 10_streams R331): late from the tier that holds it; from the
local store, what a steward of the EC waits for, which fills it. -/
def lateCause (s : State) (e : Nat) (r : MacroRec) (run : TileRun) : Option Nat :=
  let q := reqOf s r
  let base := match wOpcode r.word with
    | 0x01 => match matCmd s q r.word with | .ok c => some (if c.mode = 1 then c.a.base else c.b.base) | .error _ => none
    | 0x02 => match chainCmd s q r.word with | .ok c => some (if run.phase = 3 then c.d.base else c.b.base) | .error _ => none
    | 0x18 => match searchCmd s q r.word with | .ok c => some c.cent.base | .error _ => none
    | _ => none
  match base.map regionOf with
  | some (.hbm _) => some cntStallHbm
  | some (.lpd _) => some cntStallLpd
  | _ => stewardsWait s e

/-- The first condition of R116 that holds for an engine, as the counter it counts under; none when the vector enters. The
second part says that entry is held without a count. -/
def entryStall (s : State) (e g : Nat) (run : TileRun) (r : MacroRec) (geo : Geo) : Option (Option Nat) :=
  let x := s.engineAt e g
  let start := run.pass == 0 && run.column == 0
  let unloaded := !geo.outRes && run.column == 0 && !(geo.lanes.all fun l => match tabFind x.resident (bufferKey l (!x.buffer)) with
      | some c => c.run == 0 && c.pass == run.pass
      | none => false)
  if supplyHold s (ecDie e) then some (some cntStallSupply)
  else if start && (x.drains.any fun d => regionsMeet d.1.region run.region) then some (some cntStallAcc)
  else if run.phase = 1 ∧ (s.ecAt e).scoreOwner ≠ some ⟨g % 2, Nat.lt_of_lt_of_le (Nat.mod_lt g (by decide)) (by decide)⟩ then
    some (some cntStallScore)
  else if !geo.outRes && x.broadcast.isEmpty && ((lateCause s e r run).isSome || !unloaded) then some (lateCause s e r run)
  else if unloaded then some (some (cntFeedStall + g))
  else if geo.outRes && !(geo.lanes.all fun l => decide (2 ≤ (tabGet [] x.feeders l).length)) then some (some (cntFeedStall + g))
  else none

/-- Entries of a queue once the current run has ended: the next run is the current one. -/
def nextRun (q : List Chunk) : List Chunk := (q.filter fun c => c.run != 0).map fun c => { c with run := c.run - 1 }

/-- What the queues and buffers of an engine hold for the runs to come. -/
def shiftRuns (x : Engine) : Engine :=
  { x with
    broadcast := nextRun x.broadcast
    feeders := (x.feeders.map fun e => (e.1, nextRun e.2)).filter fun e => e.2 != []
    resident := (x.resident.filter fun e => e.2.run != 0).map fun e => (e.1, { e.2 with run := e.2.run - 1 }) }

/-- The region of a finished run waits to drain, and the engine goes on with the next column tile, phase or tile (R106, R112). -/
def lastVector (x : Engine) (run : TileRun) (subs : Nat) (width : Bool × Nat) : Engine :=
  let x := shiftRuns { x with drains := x.drains ++ [(run, 0)] }
  if run.sub + 1 < subs then
    let k := takeRegion width x.region
    { x with current := some { run with sub := run.sub + 1, pass := 0, column := 0, region := k.1 }, region := k.2 }
  else if run.phase = 1 then { x with current := some { run with phase := 2, sub := 0, pass := 0, column := 0 } }
  else { x with current := x.next, next := none }

/-- The position after a vector: the next column, the next pass, or the end of the tile. -/
def advanceRun (x : Engine) (run : TileRun) (geo : Geo) (subs : Nat) (width : Bool × Nat) : Engine :=
  if run.column + 1 < geo.width then { x with current := some { run with column := run.column + 1 } }
  else if run.pass + 1 < geo.passes then { x with current := some { run with pass := run.pass + 1, column := 0 } }
  else lastVector x run subs width

/-- R104: the marked vector switches every lane to its other buffer, and the buffer left becomes free. -/
def castle (x : Engine) : Engine :=
  { x with buffer := !x.buffer, resident := x.resident.filter fun e => e.1 % 2 == (if x.buffer then 0 else 1) }

/-- The chunk that a lane reads. -/
def residentOf (x : Engine) (l : Nat) : Chunk :=
  (tabFind x.resident (bufferKey l x.buffer)).getD { pass := 0, column := 0, elements := [], scales := [] }

/-- One lane takes a vector: the errors of its buffer and of its word are met (R115), and the dot product is added. -/
def laneVector (s : State) (e g : Nat) (run : TileRun) (geo : Geo) (w : Nat) (b : Chunk) (l : Nat) : Got State := do
  let u ← checkResident s e g (bufferKey l (s.engineAt e g).buffer)
  let u ← if run.pass = 0 then .ok u else checkAccum u e g l w geo.anchored
  let c := residentOf (u.engineAt e g) l
  let old := if run.pass = 0 then none else some (readAccum u e g l w geo.anchored)
  return countSat (writeAccum u e g l w (accumAdd old (dotOf geo.fl geo.fb geo.anchor c b))) e (satCount geo.fl geo.fb geo.anchor c b)

/-- One vector in A-resident or B-resident mode: every active lane adds one dot product (R95, R107, R113). -/
def enterVector (s : State) (e g : Nat) (run : TileRun) (geo : Geo) (subs : Nat) (width : Bool × Nat) : Got State :=
  let x0 := s.engineAt e g
  let x := if run.column = 0 then castle x0 else x0
  match x.broadcast with
  | [] => .ok s
  | b :: rest =>
    let w := regionBase geo.anchored run.region + run.column
    let t := s.setEngine e g { x with broadcast := rest }
    (if geo.cols ≤ run.column then Except.ok t else foldGot (fun u l => laneVector u e g run geo w b l) t geo.lanes).map fun t =>
      bumpEc (t.setEngine e g (advanceRun (t.engineAt e g) run geo subs width)) e cntActive

/-- A register of output-resident mode as an accumulator. -/
def regAccum (anchored : Bool) (v : Int × BitVec 4) : Accum := if anchored then .win ⟨v.1, v.2⟩ else .f32 (BitVec.ofInt 32 v.1)
/-- An accumulator as a register of output-resident mode. -/
def accumReg : Accum → Int × BitVec 4
  | .win w => (w.w, w.flags)
  | .f32 v => (v.toInt, 0)

/-- One step in output-resident mode (R100); after the last step the registers go to one word per lane. -/
def enterStep (s : State) (e g : Nat) (run : TileRun) (geo : Geo) (subs : Nat) (width : Bool × Nat) : State :=
  let t := geo.lanes.foldl (fun u l =>
    let x := u.engineAt e g
    match tabGet [] x.feeders l with
    | a :: b :: rest =>
      let d := dotOf geo.fl geo.fb geo.anchor a b
      let old := if run.pass = 0 then none else some (regAccum geo.anchored (tabGet (0, 0) x.registers l))
      let u := u.setEngine e g { x with feeders := tabSet x.feeders l rest, registers := tabSet x.registers l (accumReg (accumAdd old d)) }
      countSat u e (satCount geo.fl geo.fb geo.anchor a b)
    | _ => u) s
  let t := if run.pass + 1 < geo.passes then t
    else geo.lanes.foldl (fun u l =>
      writeAccum u e g l (regionBase geo.anchored run.region) (regAccum geo.anchored (tabGet (0, 0) (u.engineAt e g).registers l))) t
  bumpEc (t.setEngine e g (advanceRun (t.engineAt e g) run geo subs width)) e cntActive

/-- A step of a unit in work that a supply warning holds counts as a supply hold (R116); a debug halt counts nothing. -/
def heldStep (s : State) (e : Nat) (works : Bool) : State := if supplyHold s (ecDie e) ∧ works ∧ ¬ecStopped s e then bumpEc s e cntStallSupply else s

/-- A bubble, counted under its cause, or under an earlier one in the order of R331 for which a steward of the EC waits (10_streams R331). -/
def bubble (s : State) (e : Nat) (cause : Option Nat) : State :=
  match cause with
  | some i => bumpEc s e (match stewardsWait s e with | some d => min i d | none => i)
  | none => s

/-- The EC waits in a pre-emption: a steward of it has taken the TEMPO trap or has yielded, or its context is being bound (R116; 12_partitions R383). -/
def preempted (s : State) (e : Nat) : Bool :=
  (s.ecAt e).tempoHold || hasYielded (s.stewardAt (2 * e)) || hasYielded (s.stewardAt (2 * e + 1)) ||
    (s.ecAt e).bound.any fun c => (s.ctxAt c.val).state == 3

/-- The command that an engine holds has K ranges that a pre-emption lets it take yet (12_partitions R380). -/
def rangesLeft (s : State) (e : Nat) (x : Engine) : Bool :=
  match x.holds.bind fun acc => macroAt s (ecDie e) acc with
  | some r => requiredLeft s r
  | none => false

/-- VECTOR_ENTRY: a vector enters and passes every stage, or a bubble is sent; a halted EC counts the cycle (16_counters R462). A tile of EXPAND or ATTEND_BWD is done as a whole. -/
def execVectorEntry (ec : Fin 128) (eng : Fin 2) (s : State) : Answer := whileClocked s <|
  let e := ec.val
  let g := eng.val
  let x := s.engineAt e g
  if (s.ecAt e).dbg.halted then .next (bumpEc s e cntDbgHalt)
  else if (s.ecAt e).dbg.halting then .next s
  else
    match engineRun s e g with
    | none =>
      .next (bubble s e (if supplyHold s (ecDie e) then (if x.holds.isSome then some cntStallSupply else none)
          else if preempted s e ∧ x.combines = [] ∧ x.drains = [] ∧ !rangesLeft s e x then some cntStallPreempt else none))
    | some (_, r, .error z) => .next (commandError s (ecDie e) r z)
    | some (run, r, .ok none) =>
      .next (if supplyHold s (ecDie e) then bumpEc s e cntStallSupply
        else if wholeTile r.word then wholeTileStep s e eng r run else s)
    | some (run, r, .ok (some (geo, subs))) =>
      let s := if run.phase = 1 then s.setEc e (scoreAsk (s.ecAt e) (engineUnit eng)).2 else s
      match entryStall s e g run r geo with
      | some cause => .next (bubble s e cause)
      | none =>
        let width := (geo.anchored, geo.width)
        .next (if geo.outRes then enterStep s e g run geo subs width else engineResult s e r (enterVector s e g run geo subs width))

/-! ### Drain (R114) and combine steps (05_macro R150; 06_attend R180) -/

/-- One column of a region drains from every active lane. -/
def drainColumn (s : State) (e g : Nat) (run : TileRun) (col : Nat) (geo : Geo) : Got (State × BitVec 16) :=
  let w := regionBase geo.anchored run.region + col
  foldGot (fun (st : State × BitVec 16) l => do
    let u ← checkAccum st.1 e g l w geo.anchored
    let r ← geo.drain u l col (readAccum u e g l w geo.anchored)
    return (r.1, st.2 ||| r.2)) (s, 0) geo.lanes

/-- Whether the drain of `run` ends its tile: CHAIN ends with the last column tile of its third phase. -/
def drainEndsTile (run : TileRun) (subs : Nat) : Bool := if run.phase = 1 then false else run.sub + 1 == subs

/-- ACCUMULATOR_DRAIN: one word per active lane of the oldest region. -/
def execAccumulatorDrain (ec : Fin 128) (eng : Fin 2) (s : State) : Answer := whileClocked s <|
  let e := ec.val
  let g := eng.val
  match (s.engineAt e g).drains with
  | [] => .next s
  | (run, col) :: rest =>
    match macroAt s (ecDie e) run.acc with
    | none => .next (s.setEngine e g { s.engineAt e g with drains := rest })
    | some r =>
      match runGeo s (reqOf s r) e g r.word run with
      | .error z => .next (commandError s (ecDie e) r z)
      | .ok none => .next (s.setEngine e g { s.engineAt e g with drains := rest })
      | .ok (some (geo, subs)) =>
        match drainColumn s e g run col geo with
        | .error z => .next (commandError s (ecDie e) r z)
        | .ok (t, fl) =>
          let t := addFlags t (ecDie e) run.acc fl
          let x := t.engineAt e g
          if col + 1 < geo.cols then .next (t.setEngine e g { x with drains := (run, col + 1) :: rest })
          else
            let t := t.setEngine e g { x with drains := rest }
            .next (if drainEndsTile run subs then finishTile t e g run 0 else t)

/-- Where the combine step of a split reads for row `n`: its maxima, and each plane's accumulators with their flags. -/
def splitSpans (c : AttCmd) (n : Nat) : List (Nat × Nat) :=
  (List.range c.nsplit).flatMap fun j => [(splitMaxAddr c j n, 4), (splitWinAddr c j n 0, 16 * (c.dv + 1)), (splitFlagAddr c j n 0, c.dv + 1)]

/-- 06_attend R180: the combine step of a row block in split placement, from the planes in memory; `floors` gives the scores of a row that
were raised to the floor. -/
def splitCombine (s : State) (q : Req) (e g : Nat) (c : AttCmd) (seqs : List SeqPart) (floors : Nat → Nat) (t : TileId) :
    Got (State × BitVec 16) := do
  let sq := seqs.getD t.batch { id := 0, len := 0, off := 0 }
  let rows ← attRows s q c t.batch t.i sq none
  let bank := (s.ecAt e).rowUnit.active
  foldGot (fun (st : State × BitVec 16) (ri : AttRow × Nat) => do
    let n := t.j * c.q.rows + ri.1.row
    let ms ← mapGot (fun j => uReadNat st.1 q (splitMaxAddr c j n) 4) (List.range c.nsplit)
    let m := (ms.map fun v => BitVec.ofNat 32 v).foldl f32Max maskFill
    let accs ← mapGot (fun j => mapGot (fun x => do
      let v ← uReadNat st.1 q (splitWinAddr c j n x) 16
      let fl ← uReadNat st.1 q (splitFlagAddr c j n x) 1
      return if anchoredFormat c.pfmt then Accum.win ⟨(BitVec.ofNat 128 v).toInt, BitVec.ofNat 4 fl⟩ else .f32 (BitVec.ofNat 32 v))
        (List.range (c.dv + 1))) (List.range c.nsplit)
    let u ← resolveRow st.1 q e g bank { c with fold := 3 } t.j ri.1.row ri.2 (floors n) (splitTriple c m (f32IsNan m) accs)
    return (u.1, st.2 ||| u.2)) (readsUse s q (rows.flatMap fun r => splitSpans c (t.j * c.q.rows + r.row)), 0) rows.zipIdx

/-- The combine step of output tile `o` of a record (R150). -/
def combineStepOf (s : State) (e g : Nat) (r : MacroRec) (o : Nat) : Got (State × BitVec 16) := do
  let q := reqOf s r
  let z : TileId := { batch := 0, i := 0, j := 0, k := 0 }
  let w ← recWork s q r.word
  match wOpcode r.word with
  | 0x01 =>
    let c ← matCmd s q r.word
    let t := w.tiles.getD (o * w.parts) z
    let b ← matBatch s q c t.batch
    match c.dp with
    | some d => matCombine s q c b d t
    | none => return (s, 0)
  | 0x18 =>
    let c ← searchCmd s q r.word
    let t := w.tiles.getD (o * w.parts) z
    match c.coarse.dp with
    | some d => matCombine s q c.coarse { m := c.nq, n := c.nlist, va := ⟨0, 0, 0⟩, vb := ⟨0, 0, 0⟩, vc := ⟨0, 0, 0⟩ } d t
    | none => return (s, 0)
  | 0x08 =>
    let c ← attCmd s q r.word
    let seqs ← attSeqs s q c
    let u ← splitCombine s q e g c seqs (tabGet 0 r.floorRows) (w.tiles.getD (w.half + (o - w.half) * w.parts) z)
    return (noteUse u.1 (ecDie e) r.acc c.compat (u.1.ecAt e).rowUnit.epoch, u.2)
  | _ => return (s, 0)

/-- COMBINE_STEP: a pending combine step, which enters once the tile that the engine has taken has entered, or the tile of a COMBINE
(R150 to R152). Its region must not be waiting to drain (04_matrix R113). -/
def execCombineStep (ec : Fin 128) (eng : Fin 2) (s : State) : Answer := whileClocked s <|
  let e := ec.val
  let g := eng.val
  let d := ecDie e
  let x := s.engineAt e g
  if !ecIssues s e then .next (heldStep s e x.holds.isSome)
  else
    match x.combines with
    | run :: rest =>
      match macroAt s d run.acc with
      | none => .next (s.setEngine e g { x with combines := rest })
      | some r =>
        let k := takeRegion (tileWidth s r 0) x.region
        if x.current.isSome ∨ x.next.isSome then .next s
        else if x.drains.any fun y => regionsMeet y.1.region k.1 then .next (bumpEc s e cntStallAcc)
        else
          match combineStepOf s e g r run.tile with
          | .error z => .next (commandError s d r z)
          | .ok (t, fl) =>
            .next (combineDone (t.setEngine e g { t.engineAt e g with combines := rest, region := k.2 }) d run.acc run.tile fl)
    | [] =>
      match x.current, engineRec s e g with
      | some run, some r =>
        if wOpcode r.word = 3 then
          match combineCmd s (reqOf s r) r.word, recWork s (reqOf s r) r.word with
          | .ok c, .ok w =>
            match combineTile s (reqOf s r) c (w.tiles.getD run.tile { batch := 0, i := 0, j := 0, k := 0 }) with
            | .error z => .next (commandError s d r z)
            | .ok (t, fl) =>
              let y := t.engineAt e g
              .next (finishTile (t.setEngine e g { y with current := y.next, next := none }) e g run fl)
          | .error z, _ => .next (commandError s d r z)
          | _, .error z => .next (commandError s d r z)
        else .next s
      | _, _ => .next s

/-! ### Row tiles (03_arithmetic R87; 05_macro R153, R155, R480) -/

/-- The bank and the epoch that a running row tile uses: those it started with (R87). -/
def runningBank (u : RowUnit) : Tab (BitVec 32) × BitVec 16 :=
  if 0 < u.oldTiles then (u.shadow, u.epoch - 1) else (u.active, u.epoch)

/-- The row unit is done with its tile. -/
def rowUnitDone (s : State) (e : Nat) : State :=
  s.modEc e fun c => { c with rowUnit := { c.rowUnit with current := none, oldTiles := 0 } }

/-- A row tile of NORM or ROWFN. -/
def rowTileStep (s : State) (e : Nat) (r : MacroRec) (run : TileRun) : State :=
  let d := ecDie e
  let q := reqOf s r
  let b := runningBank (s.ecAt e).rowUnit
  match rowCmd s q r.word with
  | .error z => commandError s d r z
  | .ok c =>
    let a := scoreAsk (s.ecAt e) 2
    if !c.norm && c.func == 0x10 && !a.1 then bumpEc (s.setEc e a.2) e cntStallScore
    else
      match rowTileRun s q b.1 e c ((rowTiles c).getD run.tile { batch := 0, i := 0, j := 0, k := 0 }) with
      | .error z => commandError s d r z
      | .ok (t, fl) =>
        let t := noteUse (rowUnitDone t e) d r.acc c.compat b.2
        let t := t.modEc e fun x => if x.scoreOwner = some 2 then { x with scoreOwner := none } else x
        tileDrained t d r.acc run.tile fl

/-- Phase 2 of a row block of CHAIN: scores to X, through the mask and the row function. -/
def chainPhase2 (s : State) (q : Req) (e g : Nat) (c : ChainCmd) (t : TileId) (m : Nat) : Got (State × BitVec 16) :=
  let bank := (s.ecAt e).rowUnit.active
  let b := formatBits c.xfmt / 8
  foldGot (fun st l =>
    (rowMask st.1 q c.dmask t.batch (t.i * 256 + l) c.b.rows).map fun mask =>
      let sc := (List.range c.b.rows).map fun j => BitVec.ofNat 32 (natAt st.1 (scoreAddr e l j) 4)
      let x := chainRow bank c mask sc
      (store (countRow st.1 e x.1) (chainXAddr e g c + l * c.b.rows * b) (x.2.1.flatMap fun v => natLe b v), st.2 ||| x.2.2)) (s, 0) (List.range (min 256 (m - t.i * 256)))

/-- The engine whose CHAIN row block waits for the row unit. -/
def chainWaiting (s : State) (e acc : Nat) : Option (Fin 2) :=
  ([0, 1] : List (Fin 2)).find? fun g =>
    let x := s.engineAt e g.val
    (match x.current with | some t => t.acc == acc && t.phase == 2 | none => false) && x.drains.isEmpty &&
      (s.ecAt e).scoreOwner == some (engineUnit g)

/-- Phase 2 of the CHAIN that owns the score store. -/
def chainRowStep (s : State) (e : Nat) (r : MacroRec) : State :=
  let d := ecDie e
  let q := reqOf s r
  match chainWaiting s e r.acc with
  | none => s
  | some g =>
    match chainCmd s q r.word, recWork s q r.word, (s.engineAt e g.val).current with
    | .ok c, .ok w, some run =>
      let t := w.tiles.getD run.tile { batch := 0, i := 0, j := 0, k := 0 }
      match chainBatch s q c t.batch with
      | .error z => commandError s d r z
      | .ok bt =>
        match chainPhase2 s q e g.val c t bt.1 with
        | .error z => commandError s d r z
        | .ok (u, fl) =>
          let u := noteUse (addFlags u d r.acc fl) d r.acc c.compat (u.ecAt e).rowUnit.epoch
          u.modEc e fun x =>
            let y := x.engineAt g.val
            let k := takeRegion (anchoredFormat c.xfmt, 64 * c.tileB) y.region
            { x.setEngine g.val { y with current := some { run with phase := 3, region := k.1 }, region := k.2 } with scoreOwner := none }
    | .error z, _, _ => commandError s d r z
    | _, .error z, _ => commandError s d r z
    | _, _, none => s

/-- ROW_TILE: the row unit processes one row tile of NORM, ROWFN or CHAIN. -/
def execRowTile (ec : Fin 128) (acc : Nat) (s : State) : Answer := whileClocked s <|
  let e := ec.val
  match macroAt s (ecDie e) acc with
  | none => .next s
  | some r =>
    if !ecIssues s e then .next (heldStep s e (s.ecAt e).rowUnit.holds.isSome)
    else if wOpcode r.word = 2 then .next (chainRowStep s e r)
    else
      match (s.ecAt e).rowUnit.current with
      | some run => whenEnabled (run.acc == acc) s (rowTileStep s e r run)
      | none => .next s

/-! ### Spans of ATTEND (06_attend R167 to R174, R180) -/

/-- The ATTEND that an engine runs: its tile, record, command, sequences and row block. -/
def attendRun (s : State) (e g : Nat) : Option (TileRun × MacroRec × Got (AttCmd × List SeqPart × TileId × RecWork)) :=
  match (s.engineAt e g).current, engineRec s e g with
  | some run, some r =>
    if wOpcode r.word = 8 then
      some (run, r, do
        let q := reqOf s r
        let c ← attCmd s q r.word
        let seqs ← attSeqs s q c
        let w ← recWork s q r.word
        return (c, seqs, w.tiles.getD run.tile { batch := 0, i := 0, j := 0, k := 0 }, w))
    else none
  | _, _ => none

/-- The span at the start of a row block: empty step triples. -/
def startSpan (c : AttCmd) (run : TileRun) (rows : Nat) : SpanRun :=
  let z := emptyTriple c.dv
  { acc := run.acc, tile := run.tile, span := 0, stage := 1, rowMax := [], live := [], factors := [],
    triples := List.replicate rows (z.m, z.l, z.o), status := List.replicate rows 0, floors := List.replicate rows 0, flags := 0 }

/-- The keys of span `k` of a row block; split placement has one span per split. -/
def spanOf (w : BlockWork) (k : Nat) : List SpanKey := spanKeys (w.spans.getD k [])

/-- The step triple of a row as the span holds it. -/
def tripleOf (sp : SpanRun) (i dv : Nat) : Triple :=
  let z := emptyTriple dv
  let t := sp.triples.getD i (z.m, z.l, z.o)
  { m := t.1, l := t.2.1, o := t.2.2 }

/-- The bales of span `k` are staged, the first into the slot after those of the spans before it (R166); at the first span of a block its
rows become resident. -/
def stageSpan (s : State) (q : Req) (e g : Nat) (c : AttCmd) (w : BlockWork) (plane k : Nat) (first : Bool) : Got State := do
  let s := putAllStaged s q e g c (k * c.span) (w.spans.getD k [])
  if first then
    foldGot (fun u (ri : AttRow × Nat) => do
      let v ← rowVec u q c.q plane ri.1.row
      return putResident (readsUse u q (operandRow c.q ⟨plane, 0, 0⟩ ri.1.row)) e g c ri.2 v.codes) s w.rows.zipIdx
  else return s

/-- Pass one of one span: the tiles of S pass through the accumulator regions in turn, and the scores of every row go to the score store
(R167). -/
def passOne (s : State) (q : Req) (e g : Nat) (c : AttCmd) (w : BlockWork) (plane : Nat) (sp : SpanRun) (k : Nat) : Got (State × SpanRun) := do
  let ks := spanOf w k
  let bfl := (w.spans.getD k []).foldl (fun a b => a ||| b.flags) sp.flags
  let region := (s.engineAt e g).region
  foldGot (fun (st : State × SpanRun) (ri : AttRow × Nat) => do
    let v ← rowVec st.1 q c.q plane ri.1.row
    let x := scoreRow c w.gm ri.1 v.nums ks
    let old := st.2
    let sp := { old with
      rowMax := old.rowMax ++ [x.max]
      live := old.live ++ [x.live]
      status := old.status.set ri.2 ((old.status.getD ri.2 0) ||| (if x.bad then rowNan else 0))
      floors := old.floors.set ri.2 (old.floors.getD ri.2 0 + x.raised), flags := old.flags ||| x.sat }
    let p := putProducts (putScores (countSat (countFloors st.1 e x.raised) e x.sats) e ri.2 x.stored) e g ri.2 region [scoreTiles c x.accs]
    return (if ri.2 + 1 = w.rows.length then putRegion p.1 e g p.2 else p.1, sp))
    (s, { sp with rowMax := [], live := [], flags := bfl, stage := 2 }) w.rows.zipIdx

/-- The scores of a split's rows that were raised to the floor, kept in its record for the combine step. -/
def keepFloors (s : State) (port acc : Nat) (c : AttCmd) (w : BlockWork) (plane : Nat) (sp : SpanRun) : State :=
  match macroAt s port acc with
  | none => s
  | some r => setMacro s port { r with floorRows := w.rows.zipIdx.foldl (fun t ri =>
      let n := sp.floors.getD ri.2 0
      if n = 0 then t else tabMod 0 t (plane * c.q.rows + ri.1.row) fun m => m + n) r.floorRows }

/-- SPAN_PASS_ONE. -/
def execSpanPassOne (ec : Fin 128) (eng : Fin 2) (s : State) : Answer := whileClocked s <|
  let e := ec.val
  let g := eng.val
  if !ecIssues s e then .next (heldStep s e (s.engineAt e g).current.isSome)
  else
    match attendRun s e g with
    | none => .next s
    | some (run, r, .error z) => .next (faultBlock s e g r run z)
    | some (run, r, .ok (c, seqs, t, wk)) =>
      let q := reqOf s r
      let looked := if (s.engineAt e g).span.isSome then s else labUseAll s q (ecDie e) c.t (attLookups s q c seqs t)
      match blockWork s q (ecDie e) c seqs t with
      | .error z => .next (faultBlock (if z.1 = codeHeld then s else looked) e g r run z)
      | .ok w =>
        let sp := ((s.engineAt e g).span).getD (startSpan c run w.rows.length)
        let split := c.place == 1
        let k := if split then t.sub % max c.nsplit 1 else sp.span
        if split ∧ c.nsplit < w.spans.length then .next (faultBlock s e g r run (codeInvalidMacro, 0))
        else if sp.stage ≠ 1 ∨ (!split ∧ w.spans = []) then .next s
        else
          let a := scoreAsk (s.ecAt e) (engineUnit eng)
          if !a.1 then .next (bumpEc (s.setEc e a.2) e cntStallScore)
          else
            let s := looked.setEc e (scoreAsk (looked.ecAt e) (engineUnit eng)).2
            match (stageSpan s q e g c w t.j k (split || sp.span == 0)).bind fun u => passOne u q e g c w t.j sp k with
            | .error z => .next (faultBlock s e g r run z)
            | .ok (u, sp') =>
              if split ∧ run.tile < wk.half then
                -- round 1: the maxima of the split's rows are its result
                match foldGot (fun v (mi : BitVec 32 × Nat) =>
                    uWriteNat v q (splitMaxAddr c k (t.j * c.q.rows + (w.rows.getD mi.2 ⟨0, 0, 0, 0, 0⟩).row)) 4 mi.1.toNat) u sp'.rowMax.zipIdx with
                | .error z => .next (faultBlock s e g r run z)
                | .ok v =>
                  let v := v.modEc e fun x => { x with scoreOwner := none }
                  .next (endBlock v e g run sp'.flags)
              else
                let u := if split then keepFloors u (ecDie e) r.acc c w t.j sp' else u
                .next (u.setEngine e g { u.engineAt e g with span := some sp' })

/-- The scores of row `i` of a span as the score store holds them. -/
def storedScores (s : State) (e i n : Nat) : List (BitVec 32) := (List.range n).map fun j => BitVec.ofNat 32 (natAt s (scoreAddr e i j) 4)

/-- The largest of the maxima of a row over its splits (R180). -/
def splitMax (s : State) (q : Req) (c : AttCmd) (n : Nat) : Got (BitVec 32) := do
  let ms ← mapGot (fun j => uReadNat s q (splitMaxAddr c j n) 4) (List.range c.nsplit)
  return (ms.map fun v => BitVec.ofNat 32 v).foldl f32Max maskFill

/-- The row unit's work on one span: probabilities, sums and factors (R169; R180 for a split), with the tables that are active as it begins
(03_arithmetic R87). -/
def rowUnitSpan (s : State) (q : Req) (e g : Nat) (c : AttCmd) (w : BlockWork) (plane : Nat) (sp : SpanRun) (k : Nat) : Got (State × SpanRun) := do
  let ks := spanOf w k
  let ru := (s.ecAt e).rowUnit
  let ex := rowExp ru.active c.compat
  foldGot (fun (st : State × SpanRun) (ri : AttRow × Nat) => do
    let i := ri.2
    let m ← if c.place = 1 then splitMax st.1 q c (plane * c.q.rows + ri.1.row) else pure (sp.rowMax.getD i maskFill)
    let p := spanProbs ex c.pfmt (sp.live.getD i 0) m (storedScores st.1 e i ks.length)
    let old := st.2
    let f := foldSums ex (tripleOf old i c.dv) m p.2
    let t := if (old.status.getD i 0) &&& rowNan ≠ 0 then nanTriple c.dv else f.1
    return (putProbs st.1 e g c i p.1,
      { old with factors := old.factors ++ [f.2], triples := old.triples.set i (t.m, t.l, t.o) }))
    (s, { sp with factors := [], stage := 3, bank := some (ru.active, ru.epoch) }) w.rows.zipIdx

/-- SPAN_ROW_UNIT: the row unit works on the span whose engine owns the score store, which is then free. -/
def execSpanRowUnit (ec : Fin 128) (s : State) : Answer := whileClocked s <|
  let e := ec.val
  if !ecIssues s e then .next (heldStep s e (s.ecAt e).rowUnit.holds.isSome)
  else
    match (s.ecAt e).scoreOwner with
    | none => .next s
    | some u =>
      let g := u.val
      match attendRun s e g, (s.engineAt e g).span with
      | some (run, r, .ok (c, seqs, t, _)), some sp =>
        if sp.stage ≠ 2 then .next s
        else
          let q := reqOf s r
          match blockWork s q (ecDie e) c seqs t with
          | .error z => .next (faultBlock s e g r run z)
          | .ok w =>
            match rowUnitSpan s q e g c w t.j sp (if c.place = 1 then t.sub % max c.nsplit 1 else sp.span) with
            | .error z => .next (faultBlock s e g r run z)
            | .ok (v, sp') =>
              let v := v.modEc e fun x => { x with scoreOwner := none }
              let v := noteUse v (ecDie e) r.acc c.compat (v.ecAt e).rowUnit.epoch
              .next (v.setEngine e g { v.engineAt e g with span := some sp' })
      | _, _ => .next s

/-- The probabilities of row `i` as the working area holds them. -/
def storedProbs (s : State) (e g : Nat) (c : AttCmd) (i n : Nat) : List Nat :=
  let b := formatBits c.pfmt / 8
  (List.range n).map fun j => natAt s (sramAddr e (probOff g c i) + j * b) b

/-- Pass two of a span of native placement: P V in the accumulators, folded into the step triples (R170, R172). -/
def passTwo (s : State) (e g : Nat) (c : AttCmd) (w : BlockWork) (sp : SpanRun) : State × SpanRun :=
  let ks := spanOf w sp.span
  let region := (s.engineAt e g).region
  w.rows.zipIdx.foldl (fun (st : State × SpanRun) ri =>
    let as := spanAccums c (storedProbs st.1 e g c ri.2 ks.length) ks
    let t := foldColumns c (tripleOf sp ri.2 c.dv) (sp.factors.getD ri.2 (f32One, f32One)) (as.map Prod.fst)
    let p := putProducts (countSat st.1 e (as.map Prod.snd).sum) e g ri.2 region [valueTiles c (as.map Prod.fst)]
    (putTriple (if ri.2 + 1 = w.rows.length then putRegion p.1 e g p.2 else p.1) e g c false ri.2 t,
      { st.2 with triples := st.2.triples.set ri.2 (t.m, t.l, t.o), flags := as.foldl (fun f a => f ||| accumSat a.1) st.2.flags }))
    (s, { sp with stage := 1, span := sp.span + 1 })

/-- Every row of a block is resolved under FOLD (R173), with the tables of its last span's row-unit work (03_arithmetic R87). -/
def resolveBlock (s : State) (q : Req) (e g : Nat) (c : AttCmd) (w : BlockWork) (plane : Nat) (sp : SpanRun) : Got (State × BitVec 16) :=
  let bank := match sp.bank with | some b => b.1 | none => (s.ecAt e).rowUnit.active
  foldGot (fun (st : State × BitVec 16) (ri : AttRow × Nat) => do
    let t := tripleOf sp ri.2 c.dv
    let u ← resolveRow st.1 q e g bank c plane ri.1.row ri.2 (sp.floors.getD ri.2 0) (if f32IsNan t.m then nanTriple c.dv else t)
    return (u.1, st.2 ||| u.2)) (s, sp.flags) w.rows.zipIdx

/-- Pass two of a split: its accumulators go to their plane (R180, R181). A NaN row takes NaN as its row maximum in scratch, which the combine reads:
the model's choice (log 122). -/
def splitPassTwo (s : State) (q : Req) (e g : Nat) (c : AttCmd) (w : BlockWork) (plane k : Nat) (sp : SpanRun) : Got (State × BitVec 16) :=
  let ks := spanOf w k
  let region := (s.engineAt e g).region
  foldGot (fun (st : State × BitVec 16) (ri : AttRow × Nat) => do
    let as := splitAccums c (storedProbs st.1 e g c ri.2 ks.length) ks
    let n := plane * c.q.rows + ri.1.row
    let p := putProducts (countSat st.1 e (as.map Prod.snd).sum) e g ri.2 region [valueTiles c (as.map Prod.fst)]
    let u := if ri.2 + 1 = w.rows.length then putRegion p.1 e g p.2 else p.1
    let u ← foldGot (fun u (ax : (Accum × Nat) × Nat) => writeSplit u q c k n ax.2 ax.1.1) u as.zipIdx
    let u ← if (sp.status.getD ri.2 0) &&& rowNan ≠ 0 then uWriteNat u q (splitMaxAddr c k n) 4 f32Nan.toNat else pure u
    return (u, as.foldl (fun f a => f ||| accumSat a.1) st.2)) (s, sp.flags) w.rows.zipIdx

/-- SPAN_PASS_TWO; the last span of a block resolves it. A block without spans resolves at once. -/
def execSpanPassTwo (ec : Fin 128) (eng : Fin 2) (s : State) : Answer := whileClocked s <|
  let e := ec.val
  let g := eng.val
  if !ecIssues s e then .next (heldStep s e (s.engineAt e g).current.isSome)
  else
    match attendRun s e g with
    | none => .next s
    | some (run, r, .error z) => .next (faultBlock s e g r run z)
    | some (run, r, .ok (c, seqs, t, _)) =>
      let q := reqOf s r
      match blockWork s q (ecDie e) c seqs t with
      | .error z => .next (faultBlock s e g r run z)
      | .ok w =>
        let sp := ((s.engineAt e g).span).getD (startSpan c run w.rows.length)
        if c.place = 1 then
          if sp.stage ≠ 3 then .next s
          else
            match splitPassTwo s q e g c w t.j (t.sub % max c.nsplit 1) sp with
            | .error z => .next (faultBlock s e g r run z)
            | .ok (u, fl) => .next (endBlock u e g run fl)
        else if sp.stage = 3 ∨ w.spans = [] then
          let x := if w.spans = [] then (noteUse s (ecDie e) r.acc c.compat (s.ecAt e).rowUnit.epoch, sp) else passTwo s e g c w sp
          if x.2.span < w.spans.length then .next (x.1.setEngine e g { x.1.engineAt e g with span := some x.2 })
          else
            match resolveBlock x.1 q e g c w t.j x.2 with
            | .error z => .next (faultBlock s e g r run z)
            | .ok (u, fl) => .next (endBlock u e g run fl)
        else .next s

end Sys2Proof.Machine
end

