-- ==== Sys2Proof/Machine/Macros.lean ====
section
/-! DEFINITION. The macro-instructions of the ledgers as whole commands: all the work that is left of one, in the order of
its tiles (05_macro R132 to R155; 06_attend R160, R187, R189; 07_kv R216, R218, R224, R225). The steps of Engine do the
same work tile by tile; a whole command leaves the scratch of the engines as it stands (log 20). -/

namespace Sys2Proof.Machine

/-- The lowest EC of a command's crew, which does a whole macro-instruction's work, is clocked and not held by Mladkin (14_power R413;
16_counters R462; log 20). -/
def workerReady (s : State) (die : Nat) (r : MacroRec) : Bool :=
  (crewUnits die r.word).head?.all fun e => ecClocked s e && !ecStopped s e

/-- The record of a started macro-instruction of opcode `op` with work left, none of it on an engine. -/
def macroReady (s : State) (die : Fin 4) (acc op : Nat) : Option MacroRec :=
  match macroAt s die.val acc with
  | none => none
  | some r =>
    if wOpcode r.word = op ∧ r.armed ∧ !r.finished ∧ r.joined ≠ [] ∧ (r.taken = [] ∨ sequenceCommand r.word) ∧ (runsOn r ∨ !r.paused) ∧
        !supplyHold s die.val ∧ workerReady s die.val r then some r
    else none

/-- The tiles that a record has left, in rising number: those of its windows and those after NEXT (R146), and a sequence that a tile
sequencer has taken. -/
def leftTiles (r : MacroRec) : List Nat :=
  sortBy (fun a b => decide (a < b))
    (r.taken ++ (((r.windows.flatMap fun w => between w.2.1 (w.2.1 + w.2.2)) ++ between r.next r.total).map fun i => tileNumber r i))

/-- One tile after the other. A memory fault ends the command; any other code leaves its tile without effect and is held by
the record (00_scope R17). An access that waits for a window under HOLD is the one error of the whole. -/
def eachTile (port acc : Nat) (f : State → MacroRec → Nat → State × Got (State × BitVec 16)) : State → List Nat → Got State
  | s, [] => .ok s
  | s, t :: rest =>
    match macroAt s port acc with
    | none => .ok s
    | some r =>
      if r.finished then .ok s
      else
        match f s r t with
        | (_, .ok (u, fl)) => eachTile port acc f (tileDrained u port acc t fl) rest
        | (u, .error z) => if z.1 = codeHeld then .error z else eachTile port acc f (commandError u port r z) rest

/-- The output tiles whose parts have all drained and whose combine step is due. -/
def dueOutputs (s : State) (r : MacroRec) : List Nat :=
  let n := recParts s r
  if n ≤ 1 then [] else (r.drained.filter fun d => d.2 == n && decide (recHalf s r ≤ d.1)).map Prod.fst

/-- Every combine step that is due (R150). -/
def eachCombine (port acc e g : Nat) : State → List Nat → Got State
  | s, [] => .ok s
  | s, o :: rest =>
    match macroAt s port acc with
    | none => .ok s
    | some r =>
      if r.finished then .ok s
      else
        match combineStepOf s e g r o with
        | .ok (u, fl) => eachCombine port acc e g (combineDone u port acc o fl) rest
        | .error z => if z.1 = codeHeld then .error z else eachCombine port acc e g (commandError s port r z) rest

/-- The EC whose row unit and counters a whole command uses: the lowest of its crew (log 20). -/
def leadEc (port : Nat) (r : MacroRec) : Nat := (crewUnits port r.word).headD 0

/-- A record has ended; its units are free. -/
def endRecord (s : State) (port acc : Nat) : State :=
  match macroAt s port acc with
  | none => s
  | some r => (crewUnits port r.word).foldl (fun t e => freeUnits t e acc) (setMacro s port { r with finished := true })

/-- The engine that a whole command uses: the first that it names (log 20). -/
def leadEngine (r : MacroRec) : Nat := (enginesOf r.word).headD 0

/-- The grants that give out the tiles of a record after NEXT, none across the rounds of a split placement (R146; 06_attend R180). -/
def grantsLeft (s : State) (r : MacroRec) : Nat :=
  let left := (between r.next r.total).map fun i => tileNumber r i
  let first := (left.filter fun t => decide (t < recHalf s r)).length
  let n := max 1 (grantOf r.word)
  (first + n - 1) / n + (left.length - first + n - 1) / n

/-- The ledger grants every tile that a record has left. -/
def grantAll (s : State) (d : Nat) (r : MacroRec) : State :=
  let n := grantsLeft s r
  let t := setMacro s d { r with windows := [], next := r.total }
  if n = 0 then t else servePart (t.modDie d fun x => { x with ledgerCounters := bumpBy x.ledgerCounters 0 n }) d r

/-- Every tile that a record has left, and the combine steps that are due then. -/
def allTiles (s : State) (die : Fin 4) (r : MacroRec) (f : State → MacroRec → Nat → State × Got (State × BitVec 16)) : Got State := do
  let t ← eachTile die.val r.acc f (grantAll s die.val r) (leftTiles r)
  match macroAt t die.val r.acc with
    | some x => eachCombine die.val r.acc (leadEc die.val r) (leadEngine r) t (dueOutputs t x)
    | none => return t

/-- All the work that is left of a record; where an access of it waits for a window under HOLD, the whole command waits (02_package R38). -/
def runMacro (s : State) (die : Fin 4) (r : MacroRec) (f : State → MacroRec → Nat → State × Got (State × BitVec 16)) : State :=
  match allTiles s die r f with
  | .ok t => endRecord t die.val r.acc
  | .error z => countHeld s die.val r z.2

/-- The unit that owns the score store for a whole command: its engine (06_attend R168). -/
def leadUnit (r : MacroRec) : Fin 3 := if leadEngine r = 1 then 1 else 0

/-- A whole command that owns the score store of its EC while it runs: it waits, and counts, until the store is its (06_attend R168). -/
def withScores (s : State) (die : Fin 4) (r : MacroRec) (u : Fin 3) (run : State → State) : State :=
  let e := leadEc die.val r
  let a := scoreAsk (s.ecAt e) u
  let t := s.setEc e a.2
  if a.1 then (run t).modEc e fun c => if c.scoreOwner = some u then { c with scoreOwner := none } else c
  else bumpEc t e cntStallScore

/-- A tile that does nothing before it may fail. -/
def plainTile (f : State → MacroRec → Nat → Got (State × BitVec 16)) (s : State) (r : MacroRec) (n : Nat) : State × Got (State × BitVec 16) :=
  (s, f s r n)

/-- Tile `n` of a record. -/
def tileAt (s : State) (r : MacroRec) (n : Nat) : Got TileId :=
  (recWork s (reqOf s r) r.word).map fun w => w.tiles.getD n { batch := 0, i := 0, j := 0, k := 0 }

/-- A geometry on an engine, with its saturated products counted (16_counters). -/
def runCounted (s : State) (q : Req) (e : Nat) (g : Geo) : Got (State × BitVec 16) :=
  (g.run (readsUse s q g.reads)).map fun x => (if g.satAll = 0 then x.1 else bumpEcBy x.1 e cntSat g.satAll, x.2)

/-- One tile of a MATMUL. -/
def matmulTile (die : Nat) (s : State) (r : MacroRec) (n : Nat) : Got (State × BitVec 16) := do
  let q := reqOf s r
  let c ← matCmd s q r.word
  let t ← tileAt s r n
  let b ← matBatch s q c t.batch
  runCounted s q (leadEc die r) (matGeo s q c b t)

/-- MATMUL (05_macro R132). -/
def execMatmul (die : Fin 4) (acc : Nat) (s : State) : Answer := whileClocked s <|
  match macroReady s die acc 0x01 with
  | none => .next s
  | some r => .next (runMacro s die r (plainTile (matmulTile die.val)))

/-- The epoch of the bank that a row tile used is noted (03_arithmetic R87, R90). -/
def withEpoch (die e acc : Nat) (compat : Bool) (x : Got (State × BitVec 16)) : Got (State × BitVec 16) :=
  x.map fun u => (noteUse u.1 die acc compat (u.1.ecAt e).rowUnit.epoch, u.2)

/-- One row block of a CHAIN. -/
def chainTile (die : Nat) (s : State) (r : MacroRec) (n : Nat) : Got (State × BitVec 16) := do
  let q := reqOf s r
  let c ← chainCmd s q r.word
  let t ← tileAt s r n
  withEpoch die (leadEc die r) r.acc c.compat (chainTileRun s q (leadEc die r) c t)

/-- CHAIN (05_macro R153). -/
def execChain (die : Fin 4) (acc : Nat) (s : State) : Answer := whileClocked s <|
  match macroReady s die acc 0x02 with
  | none => .next s
  | some r => .next (withScores s die r (leadUnit r) fun t => runMacro t die r (plainTile (chainTile die.val)))

/-- One tile of a COMBINE. -/
def combineMacroTile (s : State) (r : MacroRec) (n : Nat) : Got (State × BitVec 16) := do
  let c ← combineCmd s (reqOf s r) r.word
  let t ← tileAt s r n
  combineTile s (reqOf s r) c t

/-- COMBINE (05_macro R152). -/
def execCombine (die : Fin 4) (acc : Nat) (s : State) : Answer := whileClocked s <|
  match macroReady s die acc 0x03 with
  | none => .next s
  | some r => .next (runMacro s die r (plainTile combineMacroTile))

/-- One row tile of a NORM or a ROWFN. -/
def rowMacroTile (die : Nat) (s : State) (r : MacroRec) (n : Nat) : Got (State × BitVec 16) := do
  let q := reqOf s r
  let e := leadEc die r
  let c ← rowCmd s q r.word
  let t ← tileAt s r n
  withEpoch die e r.acc c.compat (rowTileRun s q (s.ecAt e).rowUnit.active e c t)

/-- NORM (05_macro R135). -/
def execNorm (die : Fin 4) (acc : Nat) (s : State) : Answer := whileClocked s <|
  match macroReady s die acc 0x04 with
  | none => .next s
  | some r => .next (runMacro s die r (plainTile (rowMacroTile die.val)))

/-- A ROWFN with the soft-maximum function, which uses the score store (06_attend R168). -/
def softMaxRow (w : List Byte) : Bool := wOpcode w == 5 && field w 0x20 1 == 0x10

/-- ROWFN (05_macro R136). -/
def execRowfn (die : Fin 4) (acc : Nat) (s : State) : Answer := whileClocked s <|
  match macroReady s die acc 0x05 with
  | none => .next s
  | some r =>
    let run := fun t => runMacro t die r (plainTile (rowMacroTile die.val))
    .next (if softMaxRow r.word then withScores s die r 2 run else run s)

/-- EXPAND (07_kv R216). -/
def execExpand (die : Fin 4) (acc : Nat) (s : State) : Answer := whileClocked s <|
  match macroReady s die acc 0x06 with
  | none => .next s
  | some r => .next (runMacro s die r (expandTile die.val (leadEc die.val r)))

/-- A split placement has all its output tiles done by the tiles of split 0 of its first round (06_attend R180). -/
def splitDone (s : State) (die : Fin 4) (acc : Nat) : State :=
  match macroAt s die.val acc with
  | none => s
  | some r =>
    let n := recParts s r
    setMacro s die.val { r with drained := [], tiles := recHalf s r / max n 1 }

/-- Every tile of a split placement. -/
def runSplit (s : State) (die : Fin 4) (r : MacroRec) (f : State → MacroRec → Nat → State × Got (State × BitVec 16)) : State :=
  match eachTile die.val r.acc f (grantAll s die.val r) (leftTiles r) with
  | .ok t => endRecord (splitDone t die r.acc) die.val r.acc
  | .error z => countHeld s die.val r z.2

/-- ATTEND (06_attend R160). In split placement a whole command runs only from its first tile. -/
def execAttend (die : Fin 4) (acc : Nat) (s : State) : Answer := whileClocked s <|
  match macroReady s die acc 0x08 with
  | none => .next s
  | some r =>
    let f := attendTile die.val (leadEc die.val r) (leadEngine r)
    if recParts s r ≤ 1 ∧ recHalf s r = 0 then .next (withScores s die r (leadUnit r) fun t => runMacro t die r f)
    else if r.next = 0 ∧ r.drained = [] then .next (withScores s die r (leadUnit r) fun t => runSplit t die r f)
    else .next s

/-- ATTEND_BWD (06_attend R189). -/
def execAttendBwd (die : Fin 4) (acc : Nat) (s : State) : Answer := whileClocked s <|
  match macroReady s die acc 0x09 with
  | none => .next s
  | some r => .next (withScores s die r (leadUnit r) fun t => runMacro t die r (attendTile die.val (leadEc die.val r) (leadEngine r)))

/-- The result of one sequence: a code is held by the command, logged, and the sequence is otherwise done (07_kv R219, R229; 00_scope R17). -/
def seqOutcome (port acc : Nat) (x : SeqResult) : State × BitVec 16 :=
  if x.code = 0 then (x.state, x.flags)
  else
    match macroAt x.state port acc with
    | none => (x.state, x.flags)
    | some r => (setMacro (logCommand x.state port r x.code) port { macroFault x.state r x.code with unwritten := r.unwritten + 1 }, x.flags)

/-- The look-ups of a sequence count and use the buffer, whatever becomes of the sequence (07_kv R210). -/
def lookedUp (s : State) (q : Req) (die : Nat) (t : KvTable) (l : Got (List (Nat × Nat × Nat))) : State :=
  match l with
  | .ok ns => labUseAll s q die t ns
  | .error _ => s

/-- One sequence of a GAMBIT_COMMIT. -/
def commitTile (die : Nat) (s : State) (r : MacroRec) (n : Nat) : State × Got (State × BitVec 16) :=
  let q := reqOf s r
  let w := r.word
  let at' := field w 0x18 8 % 2 ^ 48 + 64 * n
  match kvTable s q (field w 0x20 8 % 2 ^ 48) with
  | .error e => (s, .error e)
  | .ok t =>
    let u := lookedUp s q die t (commitLookups s q t at' (field w 0x2C 2))
    (u, (commitSeq u q die t at' (field w 0x2C 2)).map (seqOutcome die r.acc))

/-- GAMBIT_COMMIT (06_attend R187). -/
def execGambitCommit (die : Fin 4) (acc : Nat) (s : State) : Answer := whileClocked s <|
  match macroReady s die acc 0x0A with
  | none => .next s
  | some r => .next (runMacro s die r (commitTile die.val))

/-- One sequence of an APPEND_KV. -/
def appendTile (die : Nat) (s : State) (r : MacroRec) (n : Nat) : State × Got (State × BitVec 16) :=
  let q := reqOf s r
  match appendCmd s q r.word with
  | .error e => (s, .error e)
  | .ok c =>
    let u := lookedUp s q die c.t (appendLookups s q c n)
    (u, (appendEntry u q die c n).map (seqOutcome die r.acc))

/-- APPEND_KV with operation `op` (07_kv R217, R218). -/
def runAppend (die : Fin 4) (acc op : Nat) (s : State) : Answer :=
  match macroReady s die acc 0x0B with
  | none => .next s
  | some r => if field r.word 0x1C 1 = op then .next (runMacro s die r (appendTile die.val)) else .next s

/-- APPEND (07_kv R218, OP 0). -/
def execAppend (die : Fin 4) (acc : Nat) (s : State) : Answer := whileClocked s <| runAppend die acc 0 s
/-- APPEND_TENTATIVE (07_kv R218, OP 1). -/
def execAppendTentative (die : Fin 4) (acc : Nat) (s : State) : Answer := whileClocked s <| runAppend die acc 1 s
/-- ATTACH_PREFIX (07_kv R224, OP 2). -/
def execAttachPrefix (die : Fin 4) (acc : Nat) (s : State) : Answer := whileClocked s <| runAppend die acc 2 s
/-- PUBLISH_PREFIX (07_kv R225, OP 3). -/
def execPublishPrefix (die : Fin 4) (acc : Nat) (s : State) : Answer := whileClocked s <| runAppend die acc 3 s
/-- TRUNCATE (07_kv R218, OP 4). -/
def execTruncate (die : Fin 4) (acc : Nat) (s : State) : Answer := whileClocked s <| runAppend die acc 4 s

end Sys2Proof.Machine
end

