-- ==== Sys2Proof/Machine/DragomanSteps.lean ====
section
/-! DEFINITION. The steps of the dragoman, and SEARCH and SELECT_BALES as whole commands (08_dragoman R237, R245,
R252 to R258, R263 to R269). -/

namespace Sys2Proof.Machine

/-! ### Contexts and jobs -/

/-- A dragoman context. -/
def drgCtx (s : State) (die cx : Nat) : DrgCtx := tabGet {} (s.dieAt die).drgCtxs cx
/-- A dragoman context becomes `x`. -/
def setDrgCtx (s : State) (die cx : Nat) (x : DrgCtx) : State :=
  s.modDie die fun d => { d with drgCtxs := tabSet d.drgCtxs cx x }
/-- A dragoman context becomes FREE; no job serves it any more. -/
def freeDrgCtx (s : State) (die : Nat) (cx : Fin 2048) : State :=
  s.modDie die fun d => { d with
    drgCtxs := tabErase d.drgCtxs cx.val
    drgJobs := (d.drgJobs.map fun j => (j.1, { j.2 with ctxs := j.2.ctxs.filter fun y => y != cx })).filter fun j => j.2.ctxs != [] }
/-- The contexts of a command that are not FREE. -/
def drgOf (s : State) (die acc : Nat) : List (Nat × DrgCtx) :=
  (s.dieAt die).drgCtxs.filter fun e => e.2.state != 0 && e.2.acc == acc
/-- A number as a context. -/
def cxOf (n : Nat) : Fin 2048 := ⟨n % 2048, Nat.mod_lt n (by decide)⟩
/-- A scan job follows the others. -/
def addJob (s : State) (die : Nat) (j : ScanJob) : State :=
  s.modDie die fun d =>
    let n := match d.drgJobs.getLast? with | some x => x.1 + 1 | none => 0
    { d with drgJobs := tabSet d.drgJobs n j }

/-- A step that may meet a fault of its command. -/
def drgResult (s : State) (die acc : Nat) (x : Got State) : State :=
  match x with
  | .ok t => t
  | .error z => match macroAt s die acc with | some r => commandError s die r z | none => s

/-- A fault of query or block scope: the context is in HALT, and the command holds the code, which is logged (R268, R269; 00_scope R17). -/
def haltCtx (s : State) (die cx : Nat) (code : Code) : State :=
  let x := drgCtx s die cx
  let t := setDrgCtx s die cx { x with state := 7, fault := code, jobs := 0 }
  let t := t.modDie die fun d => { d with
    drgJobs := (d.drgJobs.map fun j => (j.1, { j.2 with ctxs := j.2.ctxs.filter fun y => y.val != cx })).filter fun j => j.2.ctxs != [] }
  match macroAt t die x.acc with
  | some r => setMacro (logCommand t die r code) die (macroFault t r code)
  | none => t

/-! ### WAVE_ADMIT (R236, R237, R245) -/

/-- ACTIVE of an epoch slot is changed at its home (R245). -/
def addActive (s : State) (q : Req) (slot : Nat) (up : Bool) (n : Nat) : Got State := do
  let a ← uReadNat s q (slot + 0x20) 4
  uWriteNat s q (slot + 0x20) 4 (if up then a + n else a + 2 ^ 32 - n)

/-- R245: the current slot, bound with ACTIVE increased by `n`; none when its STATE is not 1. -/
def bindEpoch (s : State) (q : Req) (root n : Nat) : Got (State × Option Nat) := do
  let cur ← uReadNat s q (root + 0x28) 8
  let slot := root + 0x80 + 64 * (cur % 4)
  let st ← uReadNat s q (slot + 0x24) 4
  if st ≠ 1 then return (s, none)
  let t ← addActive s q slot true n
  return (t, some slot)

/-- The words of a bound slot (R242, R245). -/
def slotWordsOf (s : State) (q : Req) (slot : Nat) : Got (List Nat) := do
  let w ← uRead s q slot 64
  return [field w 8 8 % 2 ^ 48, field w 0x10 8 % 2 ^ 48, field w 0x18 8, field w 0 8]

/-- The queries (or positions of blocks) that the next wave of a command admits (R237). -/
def waveSize (s : State) (r : MacroRec) (limit : Nat) : Nat :=
  let q := reqOf s r
  match wOpcode r.word with
  | 0x18 => match searchCmd s q r.word with | .ok c => min (min c.wave limit) (c.nq - r.nextQuery) | .error _ => 0
  | 0x19 =>
    match selectCmd s q r.word with
    | .error _ => 0
    | .ok c =>
      match attSeqs s q c.att with
      | .error _ => 0
      | .ok seqs =>
        match (selectTiles c seqs).find? fun t => decide (t.1 ≤ r.nextQuery) && decide (r.nextQuery < t.1 + t.2) with
        | some t => min limit (t.1 + t.2 - r.nextQuery)
        | none => 0
  | _ => 0

/-- Every command that the dragoman took earlier has admitted all its waves. -/
def earlierAdmitted (s : State) (die acc : Nat) : Bool :=
  ((s.dieAt die).drgCommands.takeWhile fun a => a != acc).all fun a =>
    match macroAt s die a with
    | some x => x.finished || (x.armed && decide (drgTotal s x ≤ x.nextQuery))
    | none => true

/-- The contexts of a wave: the first `n` free ones, each with its query. -/
def admitCtxs (s : State) (die : Nat) (r : MacroRec) (qs : List Nat) (slot : Option Nat) (ws : List Nat) : State :=
  let wave := (s.dieAt die).drgWaves + 1
  let t := s.modDie die fun d => { d with drgWaves := wave }
  (qs.zip (drgFreeList s die)).foldl (fun u qc =>
    setDrgCtx u die qc.2
      { state := 1, acc := r.acc, part := BitVec.ofNat 3 (reqOf s r).partOr0, ctx := r.ctx, select := wOpcode r.word == 0x19,
        query := qc.1, wave, slot, slotWords := ws }) t

/-- A wave of SEARCH: its queries bind, or are in HALT with `0x7002`. -/
def admitSearch (s : State) (die : Nat) (r : MacroRec) (c : SearchCmd) (n : Nat) : Got State := do
  let q := reqOf s r
  let qs := between r.nextQuery (r.nextQuery + n)
  -- epochSlot: none before the first binding of a ONE_EPOCH command, 0 after a failed one
  let b ← if !c.oneEpoch then bindEpoch s q c.root n
    else match r.epochSlot with
      | none => bindEpoch s q c.root c.nq
      | some a => pure (s, if a = 0 then none else some a)
  let ws ← match b.2 with | some a => slotWordsOf b.1 q a | none => pure []
  let t := setMacro b.1 die { r with
    nextQuery := r.nextQuery + n
    epochSlot := if c.oneEpoch then some (b.2.getD 0) else none }
  let u := admitCtxs t die r qs b.2 ws
  return if b.2.isSome then u
    else ((drgOf u die r.acc).filter fun e => e.2.wave == (u.dieAt die).drgWaves).foldl (fun v e => haltCtx v die e.1 0x7002) u

/-- A wave of SELECT_BALES: the blocks at the next positions. -/
def admitSelect (s : State) (die : Nat) (r : MacroRec) (c : SelectCmd) (n : Nat) : Got State := do
  let seqs ← attSeqs s (reqOf s r) c.att
  let bs := ((selectBlocks c seqs).drop r.nextQuery).take n
  let t := setMacro s die { r with nextQuery := r.nextQuery + n }
  return admitCtxs t die r (bs.map Prod.snd) none []

/-- The start condition of a wave: its size, if it is admitted now. -/
def waveDue (s : State) (die : Nat) (r : MacroRec) : Option Nat :=
  let p := (reqOf s r).partOr0
  let limit := drgLimit s die p
  let n := waveSize s r limit
  if (wOpcode r.word = 0x18 ∨ wOpcode r.word = 0x19) ∧ r.armed ∧ !r.finished ∧ 0 < n ∧ n ≤ (drgFreeList s die).length ∧
      drgInUse s die p + n ≤ limit ∧ earlierAdmitted s die r.acc
  then some n else none

/-- The next wave of a command is admitted. -/
def admitWave (s : State) (die : Nat) (r : MacroRec) : State :=
  match waveDue s die r with
  | none => s
  | some n =>
    let q := reqOf s r
    drgResult s die r.acc
      (if wOpcode r.word = 0x18 then (searchCmd s q r.word).bind fun c => admitSearch s die r c n
       else (selectCmd s q r.word).bind fun c => admitSelect s die r c n)

/-- WAVE_ADMIT. -/
def execWaveAdmit (die : Fin 4) (acc : Nat) (s : State) : Answer := whileClocked s <|
  match macroAt s die.val acc with
  | none => .next s
  | some r => .next (admitWave s die.val r)

/-! ### PROBE_SELECT (R237, R252, R263) -/

/-- Every coarse score of a context's query is written (R237). -/
def coarseReady (s : State) (die : Nat) (x : DrgCtx) : Bool :=
  match macroAt s die x.acc with
  | none => false
  | some r =>
    let q := reqOf s r
    match recWork s q r.word with
    | .error _ => false
    | .ok w =>
      if x.select then
        match selectCmd s q r.word with
        | .error _ => false
        | .ok c =>
          match attSeqs s q c.att with
          | .error _ => false
          | .ok seqs =>
            let pos := (selectBlocks c seqs).findIdx fun b => b.2 == x.query
            w.tiles.zipIdx.all fun t => !(decide (t.1.i ≤ pos) && decide (pos < t.1.i + t.1.j)) || tabGet 0 r.drained t.2 == 1
      else
        w.tiles.zipIdx.all fun t =>
          t.1.i != x.query / 256 || tabGet 0 r.drained (t.2 / w.parts) == (if w.parts ≤ 1 then 1 else w.parts + 1)

/-- The STATE that DRG_CTX_STATE reports: a context in COARSE whose scores are written is in PROBE (R237). -/
def drgStateCode (s : State) (die : Nat) (x : DrgCtx) : Nat := if x.state = 1 ∧ coarseReady s die x then 2 else x.state

/-- The key of a bundle in a scan job: a job reads one bundle of one sequence (R265). -/
def bundleKey (seq u : Nat) : Nat := seq * 2 ^ 32 + u

/-- The look-ups that the walker makes for bales of a block of SELECT_BALES (07_kv R210; log 110). -/
def blockLookups (s : State) (die : Nat) (x : DrgCtx) (r : MacroRec) (ns : SelectCmd → List Nat) : State :=
  let q := reqOf s r
  if !x.select then s
  else
    match selectCmd s q r.word with
    | .error _ => s
    | .ok c =>
      match selectBlock s q c x.query with
      | .error _ => s
      | .ok b => labUseAll s q die c.att.t ((ns c).map fun n => (b.seq, c.att.t.chain0 + b.g, n))

/-- The bales of a bundle that belong to the source. -/
def bundleBales (c : SelectCmd) (u : Nat) : List Nat := between (max c.bfirst (64 * u)) (min (c.blast + 1) (64 * (u + 1)))

/-- The probe set of a context. -/
def probeSet (s : State) (die : Nat) (x : DrgCtx) (r : MacroRec) : Got (List Nat) := do
  let q := reqOf s r
  if x.select then
    let c ← selectCmd s q r.word
    let b ← selectBlock s q c x.query
    let sc ← bundleScores s q die c b
    return (selectProbes c sc).map fun u => bundleKey b.seq u
  else
    let c ← searchCmd s q r.word
    let l ← SearchCmd.ranked s q c x.query
    return l.take c.nprobe

/-- A context chooses its probe set; a table fault halts it (R268). -/
def probeStep (s : State) (die cx : Nat) : State :=
  let x := drgCtx s die cx
  if x.state = 1 ∧ coarseReady s die x then
    match macroAt s die x.acc with
    | none => s
    | some r =>
      let s := blockLookups s die x r fun c => (sourceBundles c).map fun u => 64 * u
      match probeSet s die x r with
      | .ok l => setDrgCtx s die cx { x with state := 3, probes := l }
      | .error z => if z.1.cls = 7 then haltCtx s die cx z.1 else commandError s die r z
  else s

/-- PROBE_SELECT. -/
def execProbeSelect (die : Fin 4) (cx : Fin 2048) (s : State) : Answer := whileClocked s <| .next (probeStep s die.val cx.val)

/-! ### SCAN_JOBS_FORM (R253) -/

/-- The oldest wave of a command whose jobs are not formed and whose contexts all have a probe set. -/
def waveToForm (s : State) (die acc : Nat) : Option Nat :=
  let cs := drgOf s die acc
  let ws := sortBy (fun (a b : Nat) => decide (a < b)) ((cs.filter fun e => e.2.state == 3 && !e.2.formed).map fun e => e.2.wave).dedup
  ws.find? fun w => cs.all fun e => e.2.wave != w || e.2.state == 3 || e.2.state == 7

/-- A run of one list is cut into jobs of up to 32 contexts. -/
def cutJobs (acc : Nat) (pairs : List (Nat × Nat × Nat)) : List ScanJob :=
  let lists := (pairs.map Prod.fst).dedup
  lists.flatMap fun x =>
    let cs := (pairs.filter fun p => p.1 == x).map fun p => cxOf p.2.2
    (chunksOf 32 (cs.length + 1) cs).map fun l => { acc, list := x, ctxs := l, block := 0 }

/-- The scan jobs of a wave are formed. -/
def formJobs (s : State) (die acc : Nat) : State :=
  match waveToForm s die acc with
  | none => s
  | some w =>
    let cs := (drgOf s die acc).filter fun e => e.2.wave == w && e.2.state == 3
    let pairs := sortBy (fun (a b : Nat × Nat × Nat) => keyLt (a.1, a.2.1, 0) (b.1, b.2.1, 0))
      (cs.flatMap fun e => e.2.probes.map fun l => (l, e.2.query, e.1))
    let t := cs.foldl (fun u e => setDrgCtx u die e.1 { e.2 with formed := true, jobs := e.2.probes.length }) s
    (cutJobs acc pairs).foldl (fun u j => addJob u die j) t

/-- SCAN_JOBS_FORM. -/
def execScanJobsForm (die : Fin 4) (acc : Nat) (s : State) : Answer := whileClocked s <| .next (formJobs s die.val acc)

/-! ### SCAN_BLOCK (R243, R254, R265) -/

/-- A job has ended. -/
def endJob (s : State) (die key : Nat) (j : ScanJob) : State :=
  let t := s.modDie die fun d => { d with drgJobs := tabErase d.drgJobs key }
  j.ctxs.foldl (fun u cx => let x := drgCtx u die cx.val; setDrgCtx u die cx.val { x with jobs := x.jobs - 1 }) t

/-- One posting block of a list against every query of a job. -/
def scanPosting (s : State) (die key : Nat) (j : ScanJob) (r : MacroRec) : Got State := do
  let q := reqOf s r
  let c ← searchCmd s q r.word
  let x0 := drgCtx s die (match j.ctxs.head? with | some cx => cx.val | none => 0)
  let l ← listEntry s q x0.ldir j.list
  if l.1 % 64 ≠ 0 then return j.ctxs.foldl (fun u cx => haltCtx u die cx.val 0x7004) s
  if l.2 ≤ 32 * j.block then return endJob s die key j
  let n := min 32 (l.2 - 32 * j.block)
  let blk := l.1 + j.block * c.bb
  let t ← foldGot (fun u (cx : Fin 2048) => do
    let x := drgCtx u die cx.val
    let sk ← SearchCmd.sketch u q c x.query
    let x ← foldGot (fun y e => scanEntry u q c sk blk e y) x (List.range n)
    return setDrgCtx u die cx.val x) (readUse s q blk c.bb) j.ctxs
  return if l.2 ≤ 32 * (j.block + 1) then endJob t die key j
    else t.modDie die fun d => { d with drgJobs := tabSet d.drgJobs key { j with block := j.block + 1 } }

/-- The bales of one bundle against a block's context: forced bales and bales that are no candidates stay out (R264, R265). -/
def scanBundle (s : State) (q : Req) (die : Nat) (c : SelectCmd) (u : Nat) (x : DrgCtx) : Got DrgCtx := do
  let b ← selectBlock s q c x.query
  let cs ← candidates s q die c b
  let forced := forcedBales c b cs
  let sk ← sketchOf s q c.att.t.proj c.att.t.dsum b.mean
  let bitsOf := (List.range 256).map fun i => (sk.getD (i / 8) 0).getLsbD (i % 8)
  foldGot (fun (y : DrgCtx) (k : Candidate) => do
    let st ← uRead s q k.sum 32
    let y := { y with scanned := y.scanned + 1 }
    return { y with shortlist := admitKey c.rr y.shortlist (hamming bitsOf st, k.n, k.n) }) x
    (cs.filter fun k => k.n / 64 == u && !forced.contains k.n)

/-- Where a bundle's summaries are read for a block. -/
def bundleSpans (s : State) (q : Req) (die : Nat) (c : SelectCmd) (u : Nat) (x : DrgCtx) : List (Nat × Nat) :=
  match (selectBlock s q c x.query).bind fun b => candidates s q die c b with
  | .ok cs => (cs.filter fun k => k.n / 64 == u).map fun k => (k.sum, 64)
  | .error _ => []

/-- One bundle against every block of a job; a table fault halts the block. -/
def scanBundles (s : State) (die key : Nat) (j : ScanJob) (r : MacroRec) : Got State := do
  let q := reqOf s r
  let c ← selectCmd s q r.word
  let t ← foldGot (fun u (cx : Fin 2048) =>
    let u := blockLookups u die (drgCtx u die cx.val) r fun c => bundleBales c (j.list % 2 ^ 32)
    match scanBundle u q die c (j.list % 2 ^ 32) (drgCtx u die cx.val) with
    | .ok x => .ok (setDrgCtx (readsUse u q (bundleSpans u q die c (j.list % 2 ^ 32) x)) die cx.val x)
    | .error z => if z.1.cls = 7 then .ok (haltCtx u die cx.val z.1) else .error z) s j.ctxs
  return endJob t die key { j with ctxs := j.ctxs.filter fun cx => (drgCtx t die cx.val).state == 3 }

/-- One block of the job with key `key`. -/
def scanStep (s : State) (die key : Nat) (j : ScanJob) : State :=
  match macroAt s die j.acc with
  | none => s
  | some r =>
    drgResult s die j.acc (if wOpcode r.word = 0x18 then scanPosting s die key j r else scanBundles s die key j r)

/-- SCAN_BLOCK: the job at place `job` among the 64 in flight; the scan array idles where there is none (R238; log 87). -/
def execScanBlock (die : Fin 4) (job : Fin 64) (s : State) : Answer := whileClocked s <|
  match (s.dieAt die.val).drgJobs[job.val]? with
  | none => .next (if (s.dieAt die.val).drgJobs = [] then bumpDrg s die.val 0 1 else s)
  | some j => whenEnabled (!supplyHold s die.val) s (scanStep s die.val j.1 j.2)

/-! ### SCAN_JOB_END (R237, R254, R258) -/

/-- A query widens, meets an out-of-range entry, or passes to re-rank. -/
def endScanSearch (s : State) (die cx : Nat) (x : DrgCtx) (r : MacroRec) : Got State := do
  let q := reqOf s r
  let c ← searchCmd s q r.word
  if x.shortlist.length < c.topk ∧ x.widened < c.widen ∧ x.probes.length < c.nlist then
    let l ← SearchCmd.ranked s q c x.query
    let n := l.getD x.probes.length 0
    let t := setDrgCtx s die cx { x with probes := x.probes ++ [n], widened := x.widened + 1, jobs := 1 }
    return addJob t die { acc := x.acc, list := n, ctxs := [cxOf cx], block := 0 }
  if outOfRangeFault c.rr x then return haltCtx s die cx 0x7009
  let t ← writeShortlist s q c x
  return setDrgCtx t die cx { x with state := 4 }

/-- A block whose forced bales exceed SEL is in HALT (R264, R268); otherwise it passes to re-rank. -/
def endScanSelect (s : State) (die cx : Nat) (x : DrgCtx) (r : MacroRec) : Got State := do
  let q := reqOf s r
  let c ← selectCmd s q r.word
  let b ← selectBlock s q c x.query
  let cs ← candidates s q die c b
  return if c.sel < (forcedBales c b cs).length then haltCtx s die cx 0x7008 else setDrgCtx s die cx { x with state := 4 }

/-- The last scan job of a context ends. -/
def endScan (s : State) (die cx : Nat) : State :=
  let x := drgCtx s die cx
  if x.state = 3 ∧ x.formed ∧ x.jobs = 0 then
    match macroAt s die x.acc with
    | none => s
    | some r =>
      match (if x.select then endScanSelect s die cx x r else endScanSearch s die cx x r) with
      | .ok t => t
      | .error z => if z.1.cls = 7 then haltCtx s die cx z.1 else commandError s die r z
  else s

/-- SCAN_JOB_END. -/
def execScanJobEnd (die : Fin 4) (cx : Fin 2048) (s : State) : Answer := whileClocked s <| .next (endScan s die.val cx.val)

/-! ### Re-rank, FETCH and EMIT (R237, R255, R256, R265, R266, R269) -/

/-- FETCH_ARRIVE. -/
def execFetchArrive (die : Fin 4) (cx : Fin 2048) (s : State) : Answer := whileClocked s <|
  let x := drgCtx s die.val cx.val
  whenEnabled (x.state == 5) s (setDrgCtx s die.val cx.val { x with state := 4 })

/-- Where the next shortlist entry's vector or mean key is read. -/
def rerankSpans (s : State) (die : Nat) (x : DrgCtx) (r : MacroRec) (k : Nat × Nat × Nat) : List (Nat × Nat) :=
  let q := reqOf s r
  if x.select then
    match (selectCmd s q r.word).bind fun c => (selectBlock s q c x.query).bind fun b =>
        (selectSegment s q die c.att.t b.seq (c.att.t.chain0 + b.g) (k.2.1 / 4096)).map fun o =>
          o.map fun a => (summaryAddr c.att.t a k.2.1 + 0x40, 2 * c.att.t.dsum) with
    | .ok (some z) => [z]
    | _ => []
  else
    match searchCmd s q r.word with
    | .ok c => [(c.vbase + k.2.2 * c.vstride, c.dim * (formatBits c.vfmt / 8))]
    | .error _ => []

/-- The distance of the next shortlist entry. -/
def nextDistance (s : State) (die : Nat) (x : DrgCtx) (r : MacroRec) (k : Nat × Nat × Nat) : Got (BitVec 32) := do
  let q := reqOf s r
  if x.select then
    let c ← selectCmd s q r.word
    let b ← selectBlock s q c x.query
    let seg ← selectSegment s q die c.att.t b.seq (c.att.t.chain0 + b.g) (k.2.1 / 4096)
    match seg with
    | some a => meanScore s q c b.mean (summaryAddr c.att.t a k.2.1)
    | none => return 0
  else
    let c ← searchCmd s q r.word
    let v ← SearchCmd.query s q c x.query
    SearchCmd.distance s q c v k.2.2

/-- One entry of a context's shortlist is re-ranked, or its data has not arrived. -/
def rerankStep (s : State) (die cx : Nat) (arrived : Bool) : State :=
  let x := drgCtx s die cx
  if x.state ≠ 4 then s
  else
    match x.shortlist[x.dists.length]? with
    | none => setDrgCtx s die cx { x with state := 6 }
    | some k =>
      if !arrived then setDrgCtx s die cx { x with state := 5 }
      else
        match macroAt s die x.acc with
        | none => s
        | some r =>
          let s := blockLookups s die x r fun _ => [k.2.1]
          let s := readsUse s (reqOf s r) (rerankSpans s die x r k)
          match nextDistance s die x r k with
          | .error z => if z.1.cls = 7 then haltCtx s die cx z.1 else commandError s die r z
          | .ok d =>
            setDrgCtx s die cx
              { x with dists := x.dists ++ [d], state := if x.shortlist.length ≤ x.dists.length + 1 then 6 else 4 }

/-- RERANK; the unit idles where no context is in RERANK (R238; log 87). -/
def execRerank (die : Fin 4) (cx : Fin 2048) (arrived : Bool) (s : State) : Answer := whileClocked s <|
  .next (if (s.dieAt die.val).drgCtxs.any fun e => e.2.state == 4 then rerankStep s die.val cx.val arrived else bumpDrg s die.val 1 1)

/-- The result of a context is written; it is FREE, and its epoch slot counts one query less. -/
def emitCtx (s : State) (die : Nat) (cx : Fin 2048) (x : DrgCtx) (r : MacroRec) : Got State := do
  let q := reqOf s r
  let t ← if x.select then do
      let c ← selectCmd s q r.word
      selectResult s q die c x
    else do
      let c ← searchCmd s q r.word
      searchResult s q c x
  let t ← match x.slot with | some a => addActive t q a false 1 | none => pure t
  let t := freeDrgCtx t die cx
  return match macroAt t die x.acc with
    | some y => setMacro t die { y with ended := y.ended + 1 }
    | none => t

/-- A context in EMIT or HALT writes its result. -/
def emitStep (s : State) (die : Nat) (cx : Fin 2048) : State :=
  let x := drgCtx s die cx.val
  if x.state = 6 ∨ x.state = 7 then
    match macroAt s die x.acc with
    | none => s
    | some r => drgResult s die x.acc (emitCtx s die cx x r)
  else s

/-- EMIT. -/
def execEmit (die : Fin 4) (cx : Fin 2048) (s : State) : Answer := whileClocked s <| .next (emitStep s die.val cx)

/-! ### Teardown (R239) -/

/-- A context of a torn-down context is freed: nothing is written but ACTIVE. -/
def tearDrgCtx (s : State) (die : Nat) (e : Nat × DrgCtx) : State :=
  let t := match e.2.slot with
    | some a =>
      match addActive s { owner := .nobody, part := some e.2.part.toNat, ctx := e.2.ctx } a false 1 with
      | .ok u => u
      | .error f => logWrite s (faultRec s .nobody f.1 f.2)
    | none => s
  freeDrgCtx t die (cxOf e.1)

/-- DRAGOMAN_TEARDOWN_FREE: the dragoman contexts of a torn context whose command is gone. -/
def execDragomanTeardownFree (die : Fin 4) (ctx : Fin 64) (s : State) : Answer := whileClocked s <|
  .next (((s.dieAt die.val).drgCtxs.filter fun e =>
    e.2.state != 0 && e.2.ctx == some ctx && (macroAt s die.val e.2.acc).isNone).foldl (fun t e => tearDrgCtx t die.val e) s)

/-! ### SEARCH and SELECT_BALES as whole commands (R249, R260) -/

/-- One coarse tile. A SELECT_BALES computes its column tiles on ME0 of the lowest crew EC (log 20). -/
def coarseTile (die : Nat) (s : State) (r : MacroRec) (n : Nat) : Got (State × BitVec 16) := do
  let q := reqOf s r
  let e := leadEc die r
  let t ← tileAt s r n
  if wOpcode r.word = 0x18 then
    let c ← searchCmd s q r.word
    runCounted s q e (searchGeo s q c t)
  else
    let c ← selectCmd s q r.word
    let seqs ← attSeqs s q c.att
    foldGot (fun (st : State × BitVec 16) sub =>
      (runCounted st.1 q e (selectGeo st.1 q die e 0 c (selectBlocks c seqs) t sub)).map fun u => (u.1, st.2 ||| u.2)) (s, 0)
      (List.range (selectSubs c (selectBlocks c seqs) t))

/-- All jobs of a command are scanned to their ends. -/
def scanAll (s : State) (die acc : Nat) : State :=
  ((s.dieAt die).drgJobs.filter fun j => j.2.acc == acc).foldl (fun t j =>
    let blocks := match macroAt t die acc with
      | none => 0
      | some r =>
        if wOpcode r.word = 0x19 then 1
        else
          match j.2.ctxs.head? with
          | none => 1
          | some cx => match listEntry t (reqOf t r) (drgCtx t die cx.val).ldir j.2.list with
            | .ok l => ceilDiv l.2 32 + 1
            | .error _ => 1
    (List.range blocks).foldl (fun u _ =>
      match tabFind (u.dieAt die).drgJobs j.1 with
      | some y => scanStep u die j.1 y
      | none => u) t) s

/-- Every context of a command is brought to its result. -/
def drainCtxs (s : State) (die acc widen : Nat) : State :=
  let each := fun (f : State → Nat → State) (t : State) => (drgOf t die acc).foldl (fun u e => f u e.1) t
  let t := each (fun u cx => probeStep u die cx) s
  let t := scanAll (formJobs t die acc) die acc
  let t := (List.range (widen + 1)).foldl (fun u _ => scanAll (each (fun v cx => endScan v die cx) u) die acc) t
  let t := each (fun u cx =>
    let x := drgCtx u die cx
    let u := if x.state = 5 then setDrgCtx u die cx { x with state := 4 } else u
    (List.range (x.shortlist.length + 1)).foldl (fun v _ => rerankStep v die cx true) u) t
  each (fun u cx => emitStep u die (cxOf cx)) t

/-- WIDEN of a SEARCH; 0 for a SELECT_BALES. -/
def widenOf (s : State) (r : MacroRec) : Nat :=
  if wOpcode r.word = 0x18 then (match searchCmd s (reqOf s r) r.word with | .ok c => c.widen | .error _ => 0) else 0

/-- All that is left of a SEARCH or of a SELECT_BALES: coarse tiles, and waves as far as contexts and limits allow them. -/
def runDragoman (s : State) (die : Fin 4) (r : MacroRec) : State :=
  let w := widenOf s r
  match allTiles s die r (plainTile (coarseTile die.val)) with
  | .error z => countHeld s die.val r z.2
  | .ok t =>
    let t := drainCtxs t die.val r.acc w
    (List.range (drgTotal s r - r.nextQuery)).foldl (fun u _ =>
      match macroAt u die.val r.acc with
      | none => u
      | some x => if x.nextQuery < drgTotal u x then drainCtxs (admitWave u die.val x) die.val r.acc w else u) t

/-- SEARCH (R249). -/
def execSearch (die : Fin 4) (acc : Nat) (s : State) : Answer := whileClocked s <|
  match macroReady s die acc 0x18 with
  | none => .next s
  | some r => .next (runDragoman s die r)

/-- SELECT_BALES (R260). -/
def execSelectBales (die : Fin 4) (acc : Nat) (s : State) : Answer := whileClocked s <|
  match macroReady s die acc 0x19 with
  | none => .next s
  | some r => .next (runDragoman s die r)

end Sys2Proof.Machine
end

