-- ==== Sys2Proof/Machine/Memory.lean ====
section
/-! DEFINITION. The tiers and the die caches: line accesses, error correction, refresh, scrub and tracking, window registers
and way masks (02_package R37 to R52). -/

namespace Sys2Proof.Machine

/-! ### CACHE_ACCESS (R43, R46, R49, R50) -/

/-- The channel set that a window's addresses walk through (R36, R38): its own fields where they name a set that holds it
and whose windows agree; otherwise the window alone. -/
def setOf (t : Tab Window) (w : Nat) : Nat × Nat :=
  let x := tabGet {} t w
  let n := 2 ^ x.setLog2.toNat
  let b := x.setBase.toNat
  if b % n == 0 && decide (b ≤ w) && decide (w < b + n) && (List.range n).all fun i =>
      let y := tabGet {} t (b + i)
      y.setLog2 == x.setLog2 && y.setBase == x.setBase then (b, x.setLog2.toNat) else (w, 0)

/-- The place in the tier's channels that offset `o` of the tier reaches: the walk of R36, channels end to end. -/
def placeOfOffset (t : Tab Window) (size o : Nat) : Nat :=
  let s := setOf t (o / size)
  let n := 2 ^ (s.2 + 3)
  let q := (o - s.1 * size) / 256
  (8 * s.1 + Nat.xor (q % n) (q / n % n)) * (size / 8) + q / n * 256 + o % 256

/-- The offset of the tier that reaches a place in its channels: the inverse of the walk. -/
def offsetOfPlace (t : Tab Window) (size p : Nat) : Nat :=
  let ch := p / (size / 8)
  let s := setOf t (ch / 8)
  let n := 2 ^ (s.2 + 3)
  let g := p % (size / 8) / 256
  s.1 * size + (g * n + Nat.xor (ch - 8 * s.1) (g % n)) * 256 + p % 256

/-- Where the byte at `a` stands once the windows of its tier have changed: the channels keep their contents (R36). -/
def movedAddr (old new : Tab Window) (base size limit a : Nat) : Nat :=
  if base ≤ a ∧ a < limit then base + offsetOfPlace new size (placeOfOffset old size (a - base)) else a

/-- The windows `new` replace `old`; where a channel set changes, the tier's contents stand at other addresses. -/
def moveTier (s : State) (old new : Tab Window) (base size limit : Nat) : State :=
  if (List.range 32).all fun w => setOf old w == setOf new w then s
  else
    { s with mem := s.mem.foldl (fun m c => cellSet m (movedAddr old new base size limit c.1) c.2) [],
             bad := s.bad.foldl (fun b e => tabSet b (movedAddr old new base size limit (64 * e.1) / 64) e.2) [] }

/-- A window of a tier becomes `x`. -/
def State.setWindow (s : State) (lpd : Bool) (w : Nat) (x : Window) : State :=
  if lpd then
    let new := tabSet s.lpdWindows w x
    { moveTier s s.lpdWindows new lpdBase lpdWindowSize 0x130000000000 with lpdWindows := new }
  else
    let new := tabSet s.hbmWindows w x
    { moveTier s s.hbmWindows new 0 hbmWindowSize 0xC000000000 with hbmWindows := new }

/-- A fault of an access: of its task, or only logged. -/
def accessFault (s : State) (task : Option (Fin 264)) (code : Code) (a : Nat) : State :=
  match task with
  | some st => memoryFault s (.task st) code a
  | none => logLine s code a

/-- The bytes that an access touches: the line for a read, and what a write stores. -/
def accessRange (access : CacheAccess) : Nat × Nat :=
  let base := access.addr / 128 * 128
  match access.write with
  | none => (base, 128)
  | some (off, bs) => (base + off, bs.length)

/-- An access that meets no resource fault, once the errors of its operands have arisen: at the home cache, with its fault if a read of the tier is
uncorrectable. -/
def accessLine (s : State) (access : CacheAccess) : State :=
  let line := access.addr / 128
  let p := access.partition.map Fin.val
  let x := accessRange access
  let s := lineArises (lineArises s (line * 128) access.arisenLow) (line * 128 + 64) access.arisenHigh
  let r := lineUse s p access.noAllocate line x.1 x.2 access.write.isSome
  match r.1, access.write with
  | some h, _ => accessFault r.2 access.task (uncorrectableCode h) h
  | none, some w => storeAs r.2 p x.1 w.2
  | none, none => r.2

/-- CACHE_ACCESS. One that waits counts in its task's EC (R38). -/
def execCacheAccess (access : CacheAccess) (s : State) : Answer := whileClocked s <|
  let code := accessCode s (access.partition.map Fin.val) access.addr
  if (windowAt access.addr).isSome && windowHeld s access.addr then
    .next (match access.task with | some st => countStewardHeld s st.val access.addr | none => s)
  else if code ≠ 0 then .next (accessFault s access.task code access.addr)
  else .next (if (homeDie s access.addr).isSome then accessLine s access else s)

/-! ### Maintenance (R44) -/

/-- REFRESH: the interval is the memory's; the model keeps a count of the refreshes issued. -/
def execRefresh (channel : Fin 384) (s : State) : Answer :=
  whenEnabled ((if channel.val < 256 then s.power.hbmTrained else s.power.lpdTrained) && !s.power.selfRefresh) s
    { s with refreshes := s.refreshes + 1 }

/-- The number of 64-byte lines of the HBM3E tier. -/
def hbmLines : Nat := 0xC000000000 / 64

/-- PATROL_SCRUB: the next line of the HBM3E tier is read; an uncorrectable one is logged and keeps its contents. Lines come in ascending device
address, and after the last the first: the model's choice (log 128). -/
def execPatrolScrub (arisen : Nat) (s : State) : Answer :=
  let a := s.scrub % hbmLines * 64
  let t := lineArises { s with scrub := (s.scrub + 1) % hbmLines } a arisen
  let r := tierRead t a
  whenEnabled (s.power.hbmTrained && !s.power.selfRefresh) s (if r.1 then logLine r.2 0x4007 a else r.2)

/-- TIMING_TRACKING: the channel stalls for at most 1 µs, which changes no state that the manual names. -/
def execTimingTracking (channel : Fin 384) (s : State) : Answer :=
  whenEnabled ((if channel.val < 256 then s.power.hbmTrained else s.power.lpdTrained) && !s.power.selfRefresh) s s

/-! ### Window registers (R37, R38, R40, R41) -/

/-- A resident line of a window. -/
def lineInWindow (lpd : Bool) (w line : Nat) : Bool := windowAt (line * 128) == some (lpd, w)

/-- An access to the window is outstanding: those of streams alone, since every other access of the model is one step (log 114). -/
def windowOutstanding (s : State) (lpd : Bool) (w : Nat) : Bool := s.slots.any fun e => slotOutstanding s lpd w e.2

/-- BUSY: an access to the window is outstanding, or a dirty line of it is held in a die cache. -/
def windowBusy (s : State) (lpd : Bool) (w : Nat) : Bool :=
  windowOutstanding s lpd w || (List.range 4).any fun d => (s.dieAt d).cache.any fun l => l.2.dirty && lineInWindow lpd w l.1

/-- The window that a value of the register describes. -/
def windowOfValue (lpd : Bool) (old : Window) (v : Reg32) : Window :=
  let base := v.extractLsb' 0 5
  { old with
    valid := v.getLsbD 31 && (!lpd || old.trained), hold := v.getLsbD 28, setLog2 := v.extractLsb' 8 3,
    setBase := if lpd then base &&& 0x0F else base, drained := old.drained && v.getLsbD 28 && old.hold }

/-- A write of HUB_HBM_WINw or HUB_LPD_WINw. -/
def windowWrite (s : State) (lpd : Bool) (w : Nat) (v : Reg32) : State :=
  let old := s.window lpd w
  let new := windowOfValue lpd old v
  let onlyHold := !old.hold && new == { old with hold := true, drained := false }
  if windowBusy s lpd w && !old.hold && !onlyHold then bumpHub s cntMemCfgErr else s.setWindow lpd w new

/-- WINDOW_DRAIN_COMPLETE: every outstanding access has ended, the dirty lines are written back, and every line of the window leaves the
four caches. -/
def execWindowDrainComplete (lpd : Bool) (w : Fin 32) (s : State) : Answer := whileClocked s <|
  let x := s.window lpd w.val
  let t := (List.range 4).foldl (fun t d =>
    ((t.dieAt d).cache.filter fun l => lineInWindow lpd w.val l.1).foldl (fun u l => dropLine u d l) t) s
  whenEnabled (x.hold && !x.drained && !windowOutstanding s lpd w.val) s (t.setWindow lpd w.val { x with drained := true })

/-! ### Way masks (R51) -/

/-- A write of DC_WAY_MASKp: one that removes ways takes effect once their dirty lines are written back. -/
def wayMaskWrite (s : State) (d p : Nat) (v : Reg32) : State :=
  let new := v.extractLsb' 0 16
  let old := wayMask s d p
  if old &&& ~~~new = 0 then
    s.modDie d fun x => { x with wayMasks := tabSet x.wayMasks p new, wayPending := tabErase x.wayPending p }
  else s.modDie d fun x => { x with wayPending := tabSet x.wayPending p new }

/-- A dirty line is written back and stays in the cache. -/
def cleanLine (s : State) (d : Nat) (l : Nat × CacheLine) : State :=
  if l.2.dirty then (writeBack s d l.1).modDie d fun x => { x with cache := tabSet x.cache l.1 { l.2 with dirty := false } } else s

/-- A mask loses ways: every dirty line in them is written back (R51), and the mask takes effect. What becomes of the lines is open: the
model drops those of the ways that the partition had, clean ones too, and keeps those of a way that a lower-numbered partition names (log
103). -/
def applyWays (s : State) (d p : Nat) (new : BitVec 16) : State :=
  let lost := wayMask s d p &&& ~~~new
  let had := waysOf s d p
  let t := ((s.dieAt d).cache.filter fun l => lost.getLsbD l.2.way).foldl
    (fun u l => if had.getLsbD l.2.way then dropLine u d l else cleanLine u d l) s
  t.modDie d fun x => { x with wayMasks := tabSet x.wayMasks p new, wayPending := tabErase x.wayPending p }

/-- WAY_MASK_APPLY. -/
def execWayMaskApply (die : Fin 4) (p : Fin 8) (s : State) : Answer := whileClocked s <|
  match ((s.dieAt die.val).wayPending.find? fun e => e.1 == p.val) with
  | none => .next s
  | some e => .next (applyWays s die.val p.val e.2)

end Sys2Proof.Machine
end

