-- ==== Sys2Proof/Machine/Sched.lean ====
section
/-! DEFINITION. Partitions, the scheduler, task registers, yields, save and restore (12_partitions R360 to R383). -/

namespace Sys2Proof.Machine

/-! ### Partitions (R360 to R364) -/

/-- Contexts of a partition. -/
def partContexts (s : State) (p : Nat) : List (Fin 64) :=
  (List.finRange 64).filter fun c => (s.ctxAt c.val).part.toNat == p && (s.ctxAt c.val).state != 0

/-- R363: the remote window lies wholly within the partition's windows of one tier. -/
def remoteInside (x : Partition) : Bool :=
  let base := x.rwinHi.toNat * 2 ^ 32 + x.rwinLo.toNat * 4096
  let last := base + 4096 * x.rwinPages.toNat - 1
  x.rwinPages == 0 ||
    match windowAt base, windowAt last with
    | some (lpd, a), some (lpd', b) =>
      lpd == lpd' && (List.range (b + 1 - a)).all fun i => if lpd then x.lpd.getLsbD (a + i) else x.hbm.getLsbD (a + i)
    | _, _ => false

/-- R363: the conditions of ACTIVE := 1 for the registers `x` of partition `p`. -/
def activationOk (s : State) (p : Nat) (x : Partition) : Bool :=
  (List.range 8).all (fun q =>
    let y := s.partAt q
    q == p || !y.active ||
      ((List.range 4).all (fun d => tabGet 0 x.ecs d &&& tabGet 0 y.ecs d == 0) && x.hbm &&& y.hbm == 0 && x.lpd &&& y.lpd == 0 &&
        !(x.ring && y.ring))) && remoteInside x

/-- R364: the partition's lines leave every cache, written back where dirty, and its look-aside entries every die. -/
def clearPartition (s : State) (p : Nat) : State :=
  let t := (List.range 4).foldl (fun t d =>
    let ways := waysOf t d p
    ((t.dieAt d).cache.filter fun l => ways.getLsbD l.2.way).foldl (fun u l => dropLine u d l) t) s
  dropLab t p

/-- HUB_PART_CTLp. -/
def partCtlWrite (s : State) (p : Nat) (v : Reg32) : State :=
  let x := s.partAt p
  if x.active then
    let t := if v.getLsbD 30 ≠ x.ring then bumpHub s cntPartCfgErr else s
    if !v.getLsbD 31 ∧ partContexts s p = [] then (clearPartition t p).setPart p { x with active := false } else t
  else
    let y := { x with ring := v.getLsbD 30 }
    if !v.getLsbD 31 then s.setPart p y
    else if activationOk s p y then s.setPart p { y with active := true }
    else bumpHub (s.setPart p y) cntPartCfgErr

/-- A register of R364 that only an inactive partition takes. -/
def partFixed (s : State) (p : Nat) (f : Partition → Partition) : State :=
  if (s.partAt p).active then bumpHub s cntPartCfgErr else s.setPart p (f (s.partAt p))

/-- The registers of a partition at offset `o` from its block (R362). -/
def partRegWrite (s : State) (p o : Nat) (v : Reg32) : State :=
  match o with
  | 0x00 => partCtlWrite s p v
  | 0x04 => partFixed s p fun x => { x with ecs := tabSet x.ecs 0 v }
  | 0x08 => partFixed s p fun x => { x with ecs := tabSet x.ecs 1 v }
  | 0x0C => partFixed s p fun x => { x with ecs := tabSet x.ecs 2 v }
  | 0x10 => partFixed s p fun x => { x with ecs := tabSet x.ecs 3 v }
  | 0x14 => partFixed s p fun x => { x with hbm := v }
  | 0x18 => partFixed s p fun x => { x with lpd := v.extractLsb' 0 16 }
  | 0x1C => s.setPart p { s.partAt p with rwinLo := v.extractLsb' 12 20 }
  | 0x20 => s.setPart p { s.partAt p with rwinHi := v.extractLsb' 0 16 }
  | 0x24 => s.setPart p { s.partAt p with rwinPages := v }
  | 0x28 => s.setPart p { s.partAt p with sliceLc := v.extractLsb' 16 16, sliceBe := v.extractLsb' 0 16 }
  | _ => s

/-- HUB_CTX_CTLc and the other RW registers of a context (R366). -/
def ctxRegWrite (s : State) (c o : Nat) (v : Reg32) : State :=
  match o with
  | 0x00 => s.modCtx c fun x => { x with latencyCritical := v.getLsbD 28, part := v.extractLsb' 24 3 }
  | 0x14 => s.modCtx c fun x => { x with saveLo := v.extractLsb' 12 20 }
  | 0x18 => s.modCtx c fun x => { x with savePages := v.extractLsb' 16 16, saveHi := v.extractLsb' 0 16 }
  | 0x1C => s.modCtx c fun x => { x with resumeLo := v.extractLsb' 2 30 }
  | 0x20 => s.modCtx c fun x => { x with resumeHi := v.extractLsb' 0 16 }
  | _ => s

/-! ### Yield requests (R368 to R371) -/

/-- Two footprints overlap. -/
def overlaps (s : State) (a b : Fin 64) : Bool := (s.ctxAt a.val).footprint.any fun e => footprintHas s b e.val

/-- R371: the context owns the caravan task. -/
def ownsCaravan (s : State) (c : Fin 64) : Bool := s.ring.task == some c

/-- A yield is requested from a RUN context: TEMPO_REQ in every bound steward. -/
def requestYield (s : State) (h : Fin 64) (cause : Option (Fin 64)) : State :=
  let x := s.ctxAt h.val
  if x.state ≠ 4 ∨ ownsCaravan s h then s
  else
    let t := s.setCtx h.val { x with state := 5, yieldSince := s.time, lastGo := s.time, yieldCause := cause, paused := false }
    (boundEcs t h).foldl (fun u e => setTempoReq (setTempoReq u (2 * e)) (2 * e + 1)) t

/-- A context becomes READY now; a latency-critical one asks every overlapping RUN best-effort context to yield (R369). -/
def becomeReady (s : State) (c : Fin 64) : State :=
  let t := s.modCtx c.val fun x => { x with state := 2, readySince := s.time }
  if (t.ctxAt c.val).latencyCritical then
    (List.finRange 64).foldl (fun u h =>
      if (u.ctxAt h.val).state == 4 && !(u.ctxAt h.val).latencyCritical && overlaps u h c then requestYield u h (some c) else u) t
  else t

/-- The time slice of a context in ct; 0 for none. -/
def sliceOf (s : State) (c : Fin 64) : Nat :=
  let x := s.ctxAt c.val
  let p := s.partAt x.part.toNat
  1000 * (if x.latencyCritical then p.sliceLc.toNat else p.sliceBe.toNat)

/-- SLICE_EXPIRY. -/
def execSliceExpiry (ctx : Fin 64) (s : State) : Answer := whileClocked s <|
  let x := s.ctxAt ctx.val
  let n := sliceOf s ctx
  match firstReady s fun c => overlaps s ctx c && ((s.ctxAt c.val).latencyCritical || !x.latencyCritical) with
  | none => .next s
  | some c => whenEnabled (x.state == 4 && n != 0 && decide (x.runSince.toNat + n ≤ s.time.toNat)) s (requestYield s ctx (some c))

/-- A steward idles at level S. -/
def idlesAtS (x : Steward) : Bool := x.run == .idle && x.pl == 1

/-- IDLE_YIELD_REQUEST. -/
def execIdleYieldRequest (ctx : Fin 64) (s : State) : Answer := whileClocked s <|
  let quiet := (boundEcs s ctx).all fun e =>
    idlesAtS (s.stewardAt (2 * e)) && idlesAtS (s.stewardAt (2 * e + 1)) &&
      !(tabGet {} (s.ecAt e).tasks 0).active && !(tabGet {} (s.ecAt e).tasks 1).active
  match firstReady s fun c => overlaps s ctx c with
  | none => .next s
  | some c => whenEnabled ((s.ctxAt ctx.val).state == 4 && quiet) s (requestYield s ctx (some c))

/-! ### Binding and restore (R367 to R369, R382) -/

/-- The context may bind: READY, and each EC of its footprint is unbound and free or reserved for it. -/
def canBind (s : State) (c : Fin 64) : Bool :=
  let x := s.ctxAt c.val
  x.state == 2 && (s.partAt x.part.toNat).active && !s.power.noBinding &&
    x.footprint.all fun e =>
      let y := s.ecAt e.val
      y.bound.isNone && (y.reserved.isNone || y.reserved == some c)

/-- CONTEXT_BIND: the first READY context that may bind does. -/
def execContextBind (ctx : Fin 64) (s : State) : Answer := whileClocked s <|
  let x := s.ctxAt ctx.val
  if firstReady s (canBind s) ≠ some ctx then .next s
  else
    let t := s.setCtx ctx.val { x with state := 3, doorbellSinceBind := false, paused := false, yieldCause := none, tasks := [] }
    let t := x.footprint.foldl (fun u e =>
      let y := u.ecAt e.val
      let u := u.setEc e.val { y with bound := some ctx, reserved := none, tasks :=
        [(0, tabGet {} x.tasks (2 * e.val)), (1, tabGet {} x.tasks (2 * e.val + 1))] }
      let bind := fun (z : Steward) => { z with part := x.part, bound := true, ctx := BitVec.ofNat 6 ctx.val }
      (u.modSteward (2 * e.val) bind).modSteward (2 * e.val + 1) bind) t
    .next (leaveReady t ctx)

/-- The accesses that the hub makes to a context's save area. -/
def saveReq (s : State) (c : Fin 64) : Req :=
  { owner := .context c, part := some (s.ctxAt c.val).part.toNat, ctx := some c }

/-- The footprint's ECs in increasing order. -/
def footprintList (s : State) (c : Fin 64) : List Nat := (List.range 128).filter fun e => footprintHas s c e

/-- The address of the save block of the footprint's `j`-th EC (R378). -/
def blockBase (x : Context) (j : Nat) : Nat := saveBase x + 4096 + j * (x.savePages.toNat * 4096)

/-- The steward record of steward `i` in a block. -/
def stewardRecord (base i : Nat) : Nat := base + 0x100 + 0x140 * i

/-- The map at an address: its data-memory ranges and its local-store ranges (R377). -/
def mapRanges (s : State) (q : Req) (a : Nat) : Got (List (Nat × Nat) × List (Nat × Nat)) := do
  if a = 0 then return ([], [])
  let n ← uReadNat s q (a + 4) 2
  let m ← uReadNat s q (a + 6) 2
  let rs ← mapGot (fun i => do
    let o ← uReadNat s q (a + 8 + 8 * i) 4
    let l ← uReadNat s q (a + 12 + 8 * i) 4
    return (o, l)) (List.range (n + m))
  return (rs.take n, rs.drop n)

/-- The bytes of a list of ranges. -/
def rangesBytes (l : List (Nat × Nat)) : Nat := (l.map Prod.snd).sum

/-- Local-store ranges of an EC copied between the save block at `a` and the store: to the store, or from it. -/
def copyLocal (s : State) (q : Req) (e : Nat) (toStore : Bool) : Nat → List (Nat × Nat) → Got State
  | _, [] => .ok s
  | a, r :: l => do
    let ls := sramBase + e * sramSize + r.1
    let bs ← uRead s q (if toStore then a else ls) r.2
    let t ← uWrite s q (if toStore then ls else a) bs
    copyLocal t q e toStore (a + r.2) l

/-- The local-store ranges of a block's two maps and where they begin in it (R378). -/
def blockLive (s : State) (q : Req) (base map0 map1 : Nat) : Got (Nat × List (Nat × Nat)) := do
  let m0 ← mapRanges s q map0
  let m1 ← mapRanges s q map1
  return (base + 0xC00 + rangesBytes m0.1 + rangesBytes m1.1, m0.2 ++ m1.2)

/-- A saved instruction record: its ACC and the record of the ledger. -/
def savedInstruction (s : State) (q : Req) (c : Fin 64) (a : Nat) : Got (Nat × MacroRec) := do
  let w ← uRead s q a 64
  let issuer ← uReadNat s q (a + 0x40) 2
  let paused ← uReadNat s q (a + 0x42) 2
  let n ← uReadNat s q (a + 0x44) 4
  let tiles ← uReadNat s q (a + 0x48) 4
  let fl ← uReadNat s q (a + 0x4C) 2
  let acc ← uReadNat s q (a + 0x50) 8
  let rs ← mapGot (fun i => do
    let f ← uReadNat s q (a + 0x60 + 8 * i) 4
    let k ← uReadNat s q (a + 0x64 + 8 * i) 4
    return (f, k)) (List.range (min n 52))
  return (acc, { acc := 0, issuer := stewardOf (issuer % 256), ctx := some c, word := w, tiles, aflags := BitVec.ofNat 16 fl,
                 only := if paused = 1 then some rs else none })

/-- A saved command enters its ledger and its queues again. -/
def reaccept (s : State) (r : MacroRec) : State :=
  let port := stewardPort r.issuer
  let acc := acceptedOf s port.val + 1
  let t := acceptNext s port.val
  let t := setMacros t port.val (macrosOf t port.val ++ [{ r with acc }])
  let t := (crewUnits port.val r.word).foldl (fun u e => setQueueOf u e (queueOf u e ++ [{ port, acc, started := false }])) t
  if drgCommand r.word then drgPlace t port.val else t

/-- A list of saved commands with the one of acceptance number `x.1` in its place. -/
def insertAcc (x : Nat × MacroRec) : List (Nat × MacroRec) → List (Nat × MacroRec)
  | [] => [x]
  | y :: l => if x.1 < y.1 then x :: y :: l else y :: insertAcc x l

/-- One EC's pairs and local store come back (R382 step 1). -/
def restoreEc (c : Fin 64) (q : Req) (t : State) (j : Nat × Nat) : Got State := do
  let base := blockBase (t.ctxAt c.val) j.2
  let ps ← mapGot (fun n => uReadNat t q (base + 4 * n) 4) (List.range 64)
  let t := t.modEc j.1 fun x => { x with pairs := ps.zipIdx.map fun v => (v.2, (BitVec.ofNat 16 v.1, BitVec.ofNat 16 (v.1 / 65536))) }
  let m0 ← uReadNat t q (stewardRecord base 0 + 8) 8
  let m1 ← uReadNat t q (stewardRecord base 1 + 8) 8
  let live ← blockLive t q base (m0 % 2 ^ 48) (m1 % 2 ^ 48)
  copyLocal t q j.1 true live.1 live.2

/-- The records of one EC's block. -/
def blockInstructions (c : Fin 64) (q : Req) (t : State) (j : Nat × Nat) : Got (List (Nat × MacroRec)) := do
  let base := blockBase (t.ctxAt c.val) j.2
  let n ← uReadNat t q (base + 0x380) 4
  mapGot (fun i => savedInstruction t q c (base + 0x400 + 512 * i)) (List.range (min n 4))

/-- The control fields of a steward come back from its record (R382 step 3). -/
def restoreSteward (q : Req) (t : State) (st a : Nat) : Got State := do
  let rd := fun (o n : Nat) => uReadNat t q (a + o) n
  let issued ← rd 0x10 8
  let retired ← rd 0x18 8
  let tvec ← rd 0x20 8
  let scratch ← rd 0x28 8
  let cmp ← rd 0x30 8
  let mask ← rd 0x38 4
  let point ← rd 0x3C 2
  return t.modSteward st fun x =>
    { x with issued := BitVec.ofNat 64 issued, retired := BitVec.ofNat 64 retired, tvec := BitVec.ofNat 64 tvec &&& 0x0000FFFFFFFFFFFC,
             sscratch := BitVec.ofNat 64 scratch, timecmp := BitVec.ofNat 64 cmp, evmask := BitVec.ofNat 4 mask,
             tpoint := BitVec.ofNat 64 point }

/-- A steward starts at level S at the resume entry (R382 step 5). -/
def startSteward (s : State) (c : Fin 64) (st : Nat) (g1 : Nat) : State :=
  let x := s.ctxAt c.val
  s.modSteward st fun y =>
    { y with run := .running, pl := 1, ppl := 0, eie := false, inTrap := false, tempoReq := false,
             pc := BitVec.ofNat 64 (x.resumeHi.toNat * 2 ^ 32 + x.resumeLo.toNat * 4) }.setReg 1 (BitVec.ofNat 64 g1)

/-- The restore of R382. -/
def restoreContext (s : State) (c : Fin 64) : Got State := do
  let q := saveReq s c
  let ecs := (footprintList s c).zipIdx
  let base := saveBase (s.ctxAt c.val)
  let valid ← if (s.ctxAt c.val).savePages = 0 then pure 0 else uReadNat s q (base + 8) 4
  if valid = 1 then
    let t ← foldGot (restoreEc c q) s ecs
    let rs ← mapGot (blockInstructions c q t) ecs
    let t := ((rs.flatten.foldl (fun l x => insertAcc x l) []).foldl (fun u x => reaccept u x.2) t)
    let t ← foldGot (fun u j => do
      let b := blockBase (u.ctxAt c.val) j.2
      let u ← restoreSteward q u (2 * j.1) (stewardRecord b 0)
      restoreSteward q u (2 * j.1 + 1) (stewardRecord b 1)) t ecs
    let t ← uWriteNat t q (base + 8) 4 0
    return ecs.foldl (fun u j =>
      let b := blockBase (u.ctxAt c.val) j.2
      startSteward (startSteward u c (2 * j.1) (stewardRecord b 0)) c (2 * j.1 + 1) (stewardRecord b 1)) t
  else return ecs.foldl (fun u j => startSteward (startSteward u c (2 * j.1) 0) c (2 * j.1 + 1) 0) s

/-- A fault of a save-area access tears the context down (R386); one that meets a window under HOLD waits. -/
def saveFault (s : State) (c : Fin 64) (e : MemErr) : State := if e.1 = codeHeld then s else memoryFault s (.context c) e.1 e.2

/-- CONTEXT_RESTORE; while binding is stopped a context that enters RUN is asked to yield at once (14_power R418). -/
def execContextRestore (ctx : Fin 64) (s : State) : Answer := whileClocked s <|
  if (s.ctxAt ctx.val).state ≠ 3 then .next s
  else
    match restoreContext s ctx with
    | .error e => .next (saveFault s ctx e)
    | .ok t =>
      let t := t.modCtx ctx.val fun x => { x with state := 4, runSince := s.time }
      .next (if s.power.noBinding then requestYield t ctx none else t)

/-! ### Task registers (R374, R375) -/

/-- The writer of a task register is a steward at U: the write is ignored and counted. -/
def atUser (s : State) (who : Agent) : Bool := match who with | .steward st => (s.stewardAt st.val).pl == 0 | _ => false

/-- The context bound to an EC counts one END. -/
def countDone (s : State) (e : Nat) : State :=
  match (s.ecAt e).bound with
  | some c => s.modCtx c.val fun x => { x with done := x.done + 1 }
  | none => s

/-- A context has an ACTIVE task on an EC. -/
def hasTask (s : State) (c : Fin 64) : Bool :=
  (boundEcs s c).any fun e => (tabGet {} (s.ecAt e).tasks 0).active || (tabGet {} (s.ecAt e).tasks 1).active

/-- The end of a task is reported: its queue raises its vector, and DONE counts. The caravan task ends with the last task of its context. -/
def reportEnd (s : State) (e k : Nat) : State :=
  let x := tabGet {} (s.ecAt e).tasks k
  let t := s.modEc e fun c => { c with tasks := tabSet c.tasks k { x with active := false } }
  let t := countDone t e
  let q := t.queueAt x.queue.toNat
  let t := if q.irq then hubVector t q.vector.toNat else t
  match t.ring.task with
  | some c => if (t.ecAt e).bound == some c && !hasTask t c then dropCaravan t c else t
  | none => t

/-- The report of the end of the caravan task waits until its last release time plus MARGIN (09_route R290). -/
def endWaits (s : State) (e : Nat) : Bool :=
  s.ring.task.isSome && (s.ecAt e).bound == s.ring.task && layersDone s &&
    match s.ring.finalRelease with
    | some r => !reached s (ctAdd r s.ring.margin.toNat)
    | none => false

/-- END. -/
def taskEndStep (s : State) (e k : Nat) : State :=
  if !(tabGet {} (s.ecAt e).tasks k).active || s.ring.heldEnds.contains (e, k) then bumpEc s e cntTaskIgn
  else if endWaits s e then { s with ring := { s.ring with heldEnds := s.ring.heldEnds ++ [(e, k)] } }
  else reportEnd s e k

/-- What the passing of time brings to the caravan task: the ends that wait are reported, and a task whose context declares no layer ends
(09_route R290; log 34). -/
def settleCaravan (s : State) : State :=
  match s.ring.task with
  | none => s
  | some c =>
    if !layersDone s ∨ (boundEcs s c).any (endWaits s) ∨ (s.ring.finalRelease.any fun r => !reached s (ctAdd r s.ring.margin.toNat)) then s
    else
      let t := s.ring.heldEnds.foldl (fun u j => reportEnd u j.1 j.2) { s with ring := { s.ring with heldEnds := [] } }
      if (s.ctxAt c.val).layers = [] then dropCaravan t c else t

/-- One nanosecond of caravan time passes, with what it brings. -/
def passTime (s : State) : State := settleCaravan (tick s)

/-- A caravan task that may not run completes at once with a code, which is logged (09_route R290, R296; 12_partitions R371). -/
def refuseTask (s : State) (e k : Nat) (queue : BitVec 20) (code : Code) : State :=
  let x := { tabGet {} (s.ecAt e).tasks k with queue }
  let t := writeTaskRecord (logCaravan s code) (s.ecAt e).bound x code
  reportEnd (t.modEc e fun c => { c with tasks := tabSet c.tasks k x }) e k

/-- START: a task of QUEUE is active. A task of a context whose image declares caravan layers is a caravan task (log 34). -/
def taskStartStep (s : State) (e k : Nat) (queue : BitVec 20) : State :=
  let x := tabGet {} (s.ecAt e).tasks k
  if x.active then bumpEc s e cntTaskIgn
  else
    let t := s.modEc e fun c => { c with tasks := tabSet c.tasks k { x with active := true, queue } }
    match (s.ecAt e).bound with
    | none => t
    | some c =>
      if (s.ctxAt c.val).layers = [] then t
      else
        let code := caravanCode s (s.partAt (s.ctxAt c.val).part.toNat).ring
        if code ≠ 0 ∧ s.ring.task ≠ some c then refuseTask s e k queue code else beginCaravan t c

/-- EC_TASK_CTLs: END acts before START (log 42); a write without START writes QUEUE. -/
def taskCtlWrite (s : State) (who : Agent) (e k : Nat) (v : Reg32) : State :=
  if atUser s who then bumpEc s e cntTaskIgn
  else
    let t := if v.getLsbD 30 then taskEndStep s e k else s
    if v.getLsbD 31 then taskStartStep t e k (v.extractLsb' 0 20)
    else
      let x := tabGet {} (t.ecAt e).tasks k
      t.modEc e fun c => { c with tasks := tabSet c.tasks k { x with queue := v.extractLsb' 0 20 } }

/-- EC_TASK_COMPL_LOs and EC_TASK_COMPL_HIs. -/
def taskComplWrite (s : State) (who : Agent) (e k : Nat) (hi : Bool) (v : Reg32) : State :=
  if atUser s who then bumpEc s e cntTaskIgn
  else
    let x := tabGet {} (s.ecAt e).tasks k
    let y := if hi then { x with complHi := v.extractLsb' 0 16 } else { x with complLo := v.extractLsb' 4 28 }
    s.modEc e fun c => { c with tasks := tabSet c.tasks k y }

/-! ### Yields (R379, R380) -/

/-- The map address of the tempo point that a steward has passed last. -/
def mapOf (s : State) (c : Fin 64) (x : Steward) : Nat :=
  match (s.ctxAt c.val).tempo.find? fun e => e.point == x.tpoint.toNat with
  | some e => e.map.address
  | none => 0

/-- The place of an EC in its context's footprint. -/
def placeOf (s : State) (c : Fin 64) (e : Nat) : Nat := (footprintList s c).findIdx fun f => f == e

/-- The hub writes a steward record (R378, R379 step 2). -/
def writeStewardRecord (s : State) (c : Fin 64) (st : Nat) (idle : Bool) (pc : Word64) : Got State := do
  let x := s.stewardAt st
  let a := stewardRecord (blockBase (s.ctxAt c.val) (placeOf s c (st / 2))) (st % 2)
  let words := natLe 8 pc.toNat ++ natLe 8 (if idle then 0 else mapOf s c x) ++ natLe 8 x.issued.toNat ++ natLe 8 x.retired.toNat ++
    natLe 8 x.tvec.toNat ++ natLe 8 x.sscratch.toNat ++ natLe 8 x.timecmp.toNat ++ natLe 4 x.evmask.toNat ++
    natLe 2 x.tpoint.toNat ++ natLe 2 (if idle then 1 else 0)
  uWrite s (saveReq s c) a words

/-- EC_YIELDs: GO stops the steward for the yield of its context. -/
def yieldWrite (s : State) (who : Agent) (e k : Nat) (v : Reg32) : State :=
  let st := 2 * e + k
  let x := s.stewardAt st
  if atUser s who then bumpEc s e cntTaskIgn
  else if !v.getLsbD 31 then s
  else if !x.tempoReq then bumpEc s e cntTaskIgn
  else
    match (s.ecAt e).bound with
    | none => bumpEc s e cntTaskIgn
    | some c =>
      let idle := v.getLsbD 30
      let own := match who with | .steward w => w.val == st | _ => false
      let pc := if idle then (if own then x.pc + 4 else x.pc) else x.tpc
      let t := s.modSteward st fun y => { y with run := .yielded idle }
      match writeStewardRecord t c st idle pc with
      | .error f => if f.1 = codeHeld then s else saveFault t c f
      | .ok u => u.modCtx c.val fun y => { y with lastGo := s.time }

/-- R379: every bound steward has yielded; a halted one counts as yielded. -/
def allYielded (s : State) (c : Fin 64) : Bool :=
  (boundEcs s c).all fun e =>
    let done := fun (x : Steward) => hasYielded x || x.run == .halted
    done (s.stewardAt (2 * e)) && done (s.stewardAt (2 * e + 1))

/-- The commands of a context on every die. -/
def commandsOf (s : State) (c : Fin 64) : List (Nat × MacroRec) :=
  (List.range 4).flatMap fun p => ((macrosOf s p).filter fun r => r.ctx == some c).map fun r => (p, r)

/-- YIELD_PAUSE: grants and steals of the context's commands stop, but for a SEARCH or a SELECT_BALES that has started (08_dragoman R239). -/
def execYieldPause (ctx : Fin 64) (s : State) : Answer := whileClocked s <|
  let x := s.ctxAt ctx.val
  whenEnabled (x.state == 5 && !x.paused && allYielded s ctx) s
    ((List.range 4).foldl (fun t p =>
      setMacros t p ((macrosOf t p).map fun r => if r.ctx == some ctx && !runsOn r then { r with paused := true } else r))
      (s.setCtx ctx.val { x with paused := true }))

/-- R380: a pausable command. -/
def pausable (w : List Byte) : Bool := [0x01, 0x02, 0x03, 0x04, 0x05, 0x06, 0x08, 0x09].contains (wOpcode w)

/-- Every output tile of a split command has none of its parts, or all of them and its combine step. -/
def partsWhole (s : State) (r : MacroRec) : Bool :=
  let n := recParts s r
  n ≤ 1 || r.drained.all fun d => decide (d.1 < recHalf s r) || d.2 == n + 1

/-- R380 is satisfied for a command: one that has not started, or a paused one with nothing left that must complete. -/
def commandSettled (s : State) (r : MacroRec) : Bool :=
  if r.joined = [] ∧ !r.finished then true
  else if r.finished then false
  else pausable r.word && r.taken.isEmpty && partsWhole s r && !tooManyRanges r && !recFinished s r

/-- A command's instruction record (R378). -/
def instructionRecord (r : MacroRec) : List Byte :=
  let started := r.armed && r.joined != []
  let rs := if started then untaken r else match r.only with | some l => l | none => []
  let paused := started || r.only.isSome
  r.word.take 64 ++ natLe 2 r.issuer.val ++ natLe 2 (if paused then 1 else 0) ++ natLe 4 rs.length ++ natLe 4 (tilesWritten r) ++
    natLe 2 r.aflags.toNat ++ natLe 2 0 ++ natLe 8 r.acc ++ natLe 8 0 ++ (rs.flatMap fun x => natLe 4 x.1 ++ natLe 4 x.2) ++
    List.replicate (8 * (52 - rs.length)) 0

/-- The map of a steward that has yielded from a TEMPO trap. -/
def yieldMap (s : State) (c : Fin 64) (st : Nat) : Nat :=
  let x := s.stewardAt st
  match x.run with | .yielded false => mapOf s c x | _ => 0

/-- RETIRED of a steward record as it stands when the context is saved: commands may have completed since GO (R379, R380). -/
def saveRetired (q : Req) (base st : Nat) (t : State) : Got State :=
  uWriteNat t q (stewardRecord base (st % 2) + 0x18) 8 (t.stewardAt st).retired.toNat

/-- One EC's block is written (R379 step 4). -/
def saveEc (c : Fin 64) (q : Req) (t : State) (j : Nat × Nat) : Got State := do
  let base := blockBase (t.ctxAt c.val) j.2
  let pairs := (List.range 64).flatMap fun n => natLe 2 (pairAt t j.1 n).1.toNat ++ natLe 2 (pairAt t j.1 n).2.toNat
  let rs := (commandsOf t c).filter fun r => (crewUnits r.1 r.2.word).head? == some j.1
  let t ← uWrite t q base pairs
  let t ← saveRetired q base (2 * j.1) t
  let t ← saveRetired q base (2 * j.1 + 1) t
  let t ← uWriteNat t q (base + 0x380) 4 (min 4 rs.length)
  let t ← foldGot (fun u (r : (Nat × MacroRec) × Nat) => uWrite u q (base + 0x400 + 512 * r.2) (instructionRecord r.1.2)) t (rs.take 4).zipIdx
  let live ← blockLive t q base (yieldMap t c (2 * j.1)) (yieldMap t c (2 * j.1 + 1))
  copyLocal t q j.1 false live.1 live.2

/-- The save of R379 step 4. -/
def saveContext (s : State) (c : Fin 64) : Got State := do
  let q := saveReq s c
  let ecs := (footprintList s c).zipIdx
  let t ← foldGot (saveEc c q) s ecs
  uWrite t q (saveBase (s.ctxAt c.val)) (natLe 8 s.time.toNat ++ natLe 4 1 ++ natLe 4 ecs.length)

/-- An EC is unbound (R379 step 5); its task registers stay with the context. -/
def unbindEc (c : Fin 64) (t : State) (e : Nat) : State :=
  let x := t.ecAt e
  let t := t.modCtx c.val fun y => { y with tasks := tabSet (tabSet y.tasks (2 * e) (tabGet {} x.tasks 0)) (2 * e + 1) (tabGet {} x.tasks 1) }
  let t := t.setEc e { x with pairs := [], releases := [], released := [], queue := [], tasks := [], bound := none, tempoHold := false, engines := [],
                              scoreOwner := none, scoreWaiters := [], rowUnit := { x.rowUnit with holds := none, current := none, oldTiles := 0 } }
  let off := fun (y : Steward) => { y with run := .halted, bound := false, tempoReq := false, stores := [] }
  (t.modSteward (2 * e) off).modSteward (2 * e + 1) off

/-- The unbinding of a context that has been saved: its counters, its next state, and its ECs (R368, R375, R383). -/
def unbindContext (s : State) (c : Fin 64) : State :=
  let x := s.ctxAt c.val
  let ecs := boundEcs s c
  let active := (ecs.flatMap fun e => [tabGet {} (s.ecAt e).tasks 0, tabGet {} (s.ecAt e).tasks 1]).countP fun r => r.active
  let cs := commandsOf s c
  let again := decide (0 < active) || cs != [] || x.doorbellSinceBind
  let us := (x.lastGo.toNat - x.yieldSince.toNat) / 1000
  let t := cs.foldl (fun u r => setMacros u r.1 ((macrosOf u r.1).filter fun y => y.acc != r.2.acc)) s
  let t := (List.range 4).foldl (fun u d => u.modDie d fun y => { y with drgCommands := y.drgCommands.filter fun a => y.macros.any fun r => r.acc == a }) t
  let t := (List.range 4).foldl drgPlace t
  let t := t.setCtx c.val { x with
    preempt := x.preempt + BitVec.ofNat 32 active, overrun := BitVec.ofNat 32 (min (2 ^ 32 - 1) (x.overrun.toNat + us)), state := 1, paused := false,
    yieldCause := none }
  let t := ecs.foldl (unbindEc c) t
  let t := if again then becomeReady t c else t
  ecs.foldl reserveEc t

/-- CONTEXT_SAVE. -/
def execContextSave (ctx : Fin 64) (s : State) : Answer := whileClocked s <|
  let x := s.ctxAt ctx.val
  if x.state = 5 ∧ x.paused ∧ allYielded s ctx ∧ ((commandsOf s ctx).all fun r => commandSettled s r.2) then
    match saveContext s ctx with
    | .error e => .next (saveFault s ctx e)
    | .ok t => .next (unbindContext t ctx)
  else .next s

/-! ### Doorbells (R373) -/

/-- The queue belongs to the page: the contexts of an active partition (13_host R393), or the supervisor queues. -/
def pageTakes (s : State) (page : Option Nat) (q : Nat) : Bool :=
  match page with
  | none => decide (q < 16)
  | some p => decide (16 ≤ q) && (s.partAt p).active && (s.ctxAt (s.queueAt q).ctx.toNat).part.toNat == p && (s.ctxAt (s.queueAt q).ctx.toNat).state != 0

/-- The host slots of a doorbell go to their places in the ring. -/
def copySlots (s : State) (q : Queue) : Nat → Nat → List Byte → State
  | 0, _, _ => s
  | n + 1, t, bs =>
    let a := q.ring.toNat + 64 * (t % 2 ^ q.log2n)
    copySlots (hubStore s (hubReq none) a (bs.take 64)) q n (t + 1) (bs.drop 64)

/-- The queue, the new tail and the number of new slots of a doorbell. -/
def doorbellSlots (s : State) (data : Word64) : Nat := (data.extractLsb' 32 32 - (s.queueAt (data.extractLsb' 0 20).toNat).tail).toNat

/-- A doorbell on a page is valid: the queue is the page's and enabled, and it has room for the new slots. -/
def doorbellValid (s : State) (page : Option Nat) (data : Word64) : Bool :=
  let n := (data.extractLsb' 0 20).toNat
  let q := s.queueAt n
  let a := doorbellSlots s data
  pageTakes s page n && q.state == 1 && a != 0 && decide (a ≤ 2 ^ q.log2n)

/-- The read of a host ring fails: the doorbell is invalid, and what failed is counted and logged (13_host R403). -/
def hostReadFailed (s : State) (queue : Nat) : State :=
  let t := bumpHub (bumpHub s cntDbBad) cntAtsFail
  logWrite t { plainRec t 0 0 0x2FFF with queue }

/-- The pages of a host ring that the new slots touch, in the order of the slots. -/
def hostPages (q : Queue) (a : Nat) : List Nat :=
  ((List.range a).map fun i => (q.hring.toNat + 64 * ((q.tail.toNat + i) % 2 ^ q.log2n)) / 4096).dedup

/-- The translations of a doorbell's pages stand in the translation cache, which keeps the last 256 (13_host R389; log 131). -/
def cacheTranslations (s : State) (q : Queue) (a : Nat) : State :=
  s.modPcie fun x =>
    let l := (hostPages q a).foldl (fun l p => if l.contains (q.pasid, p) then l else l ++ [(q.pasid, p)]) x.atsCache
    { x with atsCache := l.drop (l.length - 256) }

/-- The new slots of a queue with HOST are read and copied; none where the read fails. -/
def copyHost (s : State) (q : Queue) (a : Nat) (read : HostRead) : Option State :=
  match read with
  | .slots bs => some (copySlots (cacheTranslations s q a) q a q.tail.toNat bs)
  | _ => none

/-- A doorbell on a page (none: the supervisor page). -/
def ringDoorbell (s : State) (page : Option Nat) (data : Word64) (read : HostRead) : State :=
  let n := (data.extractLsb' 0 20).toNat
  let tail := data.extractLsb' 32 32
  let q := s.queueAt n
  let a := doorbellSlots s data
  if !doorbellValid s page data then bumpHub s cntDbBad
  else match (if q.host then copyHost s q a read else some s) with
  | none => hostReadFailed (if read = .poisoned then reportAer s "Poisoned TLP Received" else s) n
  | some t =>
    let t := hubStore t (hubReq none) q.tailw.toNat (natLe 8 tail.toNat)
    let t := putRecord (t.setQueue n { q with tail }) n 0x18 (natLe 4 tail.toNat)
    if n < 16 then t
    else
      let c := q.ctx
      let t := t.modCtx c.toNat fun x => { x with submit := x.submit + BitVec.ofNat 32 a, doorbellSinceBind := true }
      if (t.ctxAt c.toNat).state = 1 then becomeReady t ⟨c.toNat, c.isLt⟩
      else if (t.ecAt q.sec.toNat).bound.any fun b => b.val == c.toNat then
        setDoorbell t (2 * q.sec.toNat + if q.sstw then 1 else 0)
      else t

end Sys2Proof.Machine
end

