-- ==== Sys2Proof/Machine/Posted.lean ====
section
/-! DEFINITION. BAR2 accesses at the home caches, the doorbell latch, and what waits in the hub behind a held access (13_host R397 to R401;
02_package R38; 14_power R413, R420). -/

namespace Sys2Proof.Machine

/-- A read returns bytes to the host. -/
def returnData (s : State) (bs : List Byte) : State := s.modPcie fun x => { x with readData := bs }

/-- R391: a request to a function in D3hot is an Unsupported Request; a read gets no data. -/
def unsupported (s : State) (read : Bool) : State :=
  let t := reportAer s "Unsupported Request"
  if read then returnData t [] else t

/-! ### BAR2 at the home caches (R397 to R399) -/

/-- The device address of a BAR2 offset. -/
def bar2Addr (s : State) (f x : Nat) : Nat := (tabGet 0 s.pcie.bar2 f).toNat * 0x1000000000 + x

/-- The code of a BAR2 access to one byte (R398), or 0. -/
def bar2Code (s : State) (f a : Nat) : Code :=
  if (registerOffset a).isSome ∨ !addrDecoded s a then 0x4004
  else if f = 0 then 0
  else if partHasAddr s (f - 1) a then 0 else 0x4005

/-- The first line of an access that fails R398. -/
def bar2Fault (s : State) (f a n : Nat) : Option MemErr :=
  (List.range (lineCount a n)).findSome? fun i =>
    let x := lineStart a i
    let c := bar2Code s f x
    if c ≠ 0 then some (c, x) else none

/-- An access that fails: 0xFF or nothing written, the counter and the record. -/
def bar2Fail (s : State) (code : Code) (a n : Nat) (read : Bool) : State :=
  let t := bumpHub s cntBarErr
  let t := logWrite t (withAddr (plainRec t 0 0 code) a)
  if read then returnData t (List.replicate n 0xFF) else t

/-- The accesses that a function makes through BAR2: those of its partition, or of the PF, which no partition bounds. -/
def bar2Req (f : Nat) : Req := { owner := .nobody, part := if f = 0 then none else some (f - 1), ctx := none }

/-- A read that passed R398: an uncorrectable error gives no data (02_package R43), and an SRAM window that blocks it counts (02_package
R48). -/
def bar2Fetch (s : State) (f a n : Nat) : State :=
  let q := bar2Req f
  let r := spanUse s q.part false a n false
  match r.1 with
  | some x => returnData (logLine r.2 (uncorrectableCode x) x) []
  | none => returnData (countReads r.2 q a n) (unitBytes r.2 none a n)

/-- A write that passed R398, line by line in increasing address: a line whose read is uncorrectable keeps its contents, and its error is
logged (02_package R43). -/
def bar2Lines (s : State) (q : Req) : Nat → Nat → List Byte → State
  | 0, _, _ => s
  | k + 1, a, bs =>
    let m := 128 - a % 128
    let r := storeOpen s q a (bs.take m)
    let t := match r.1 with | some x => logLine r.2 (uncorrectableCode x) x | none => r.2
    bar2Lines t q k (a + m) (bs.drop m)

/-- A BAR2 write is performed, or fails R398. -/
def bar2Store (s : State) (f a : Nat) (bs : List Byte) : State :=
  match bar2Fault s f a bs.length with
  | some e => bar2Fail s e.1 e.2 bs.length false
  | none => bar2Lines s (bar2Req f) ((a % 128 + bs.length + 127) / 128) a bs

/-! ### The doorbell latch (14_power R420) -/

/-- The always-on doorbell latch takes doorbells in Idle, Nap and Doze. -/
def latched (s : State) : Bool := s.power.state == 1 || s.power.state == 2 || s.power.state == 3

/-- A doorbell joins the latch; the first since entry is reported, and one that finds it full is counted (R420). -/
def latchDoorbell (s : State) (page : Option Nat) (data : Word64) (read : HostRead) : State :=
  if 1024 ≤ s.power.latch.length then bumpHub s cntDbBad
  else
    let t := s.modPower fun x => { x with latch := x.latch ++ [(page, data, read)] }
    if s.power.latchReported then t else raiseVector (t.modPower fun x => { x with latchReported := true, code := 0 }) 1

/-- The doorbells of the always-on latch are handled in order (R420). -/
def drainLatch (s : State) : State :=
  s.power.latch.foldl (fun t d => ringDoorbell t d.1 d.2.1 d.2.2) (s.modPower fun x => { x with latch := [], latchReported := false })

/-- A doorbell that no posted write precedes. -/
def takeDoorbell (s : State) (page : Option Nat) (data : Word64) (read : HostRead) : State :=
  if latched s then latchDoorbell s page data read else ringDoorbell s page data read

/-! ### What waits in the hub (02_package R38; 13_host R401) -/

/-- An entry that still waits. -/
def postedHeld (s : State) : Posted → Bool
  | .store _ _ _ a bs => spanHeld s a bs.length
  | .bar2 f a bs => (bar2Fault s f a bs.length).isNone && spanHeld s a bs.length
  | .vector _ => false
  | .doorbell _ _ _ _ => false

/-- An entry takes its effect, under the decode that stands now. -/
def performPosted (s : State) : Posted → State
  | .store o p c a bs => storeNow s { owner := o, part := p, ctx := c } a bs
  | .vector v => raiseVector s v
  | .bar2 f a bs => bar2Store s f a bs
  | .doorbell _ page data read => takeDoorbell s page data read

/-- Everything that waits goes on in order, but for what still waits and what must follow it. -/
def drainPosted (s : State) : State :=
  s.posted.foldl (fun t e =>
    if postedWaits t (postedKey e) || postedHeld t e then { t with posted := t.posted ++ [e] } else performPosted t e) { s with posted := [] }

/-- A write of a window register: accesses that waited at HOLD go on under the decode that it leaves (02_package R38). -/
def windowRegWrite (s : State) (lpd : Bool) (w : Nat) (v : Reg32) : State := drainPosted (windowWrite s lpd w v)

end Sys2Proof.Machine
end

