-- ==== Sys2Proof/Machine/Loader.lean ====
section
/-! DEFINITION. The loader: the checks of a convoy image and what a load sets (05_macro R156, R481; 01_caravan R24;
12_partitions R366, R376 to R378). -/

namespace Sys2Proof.Machine

/-- A failing check: its code, and the address and the index of the command where the check is about one. -/
abbrev LoadFailure := Code × Option (Nat × Nat)

/-- The failures of a list of conditions about one item. -/
def failingAt (a : Option (Nat × Nat)) (l : List (Bool × Code)) : List LoadFailure := (failing l).map fun c => (c, a)

/-! ### Placements and buffers (`0x1001`, `0x1010`) -/

/-- Bytes of a tier that the partition has: its decoded windows there, less the firmware region (00_scope R5). -/
def tierCapacity (s : State) (p : Nat) (lpd : Bool) : Nat :=
  let x := s.partAt p
  if lpd then
    let ws := (List.range 16).filter fun w => x.lpd.getLsbD w && windowDecoded s.lpdWindows w
    ws.length * lpdWindowSize - if (firmwareWindow s).any fun w => ws.contains w then 0x40000000 else 0
  else ((List.range 32).filter fun w => x.hbm.getLsbD w && windowDecoded s.hbmWindows w).length * hbmWindowSize

/-- The bytes of a list of extents in a tier. -/
def placedBytes (l : List Extent) (lpd : Bool) : Nat := ((l.filter fun e => e.lpd == lpd).map fun e => e.size).sum

/-- Every window that an extent touches is decoded and belongs to the partition, in one tier, off the firmware region. -/
def extentInside (s : State) (p : Nat) (fp : List (Fin 128)) (e : Extent) : Bool :=
  let x := s.partAt p
  let last := e.base + e.size - 1
  e.size == 0 ||
    match regionOf e.base, regionOf last with
    | .hbm a, .hbm b => (List.range (b + 1 - a)).all fun i => x.hbm.getLsbD (a + i) && windowDecoded s.hbmWindows (a + i)
    | .lpd a, .lpd b =>
      ((List.range (b + 1 - a)).all fun i => x.lpd.getLsbD (a + i) && windowDecoded s.lpdWindows (a + i)) &&
        !inFirmwareRegion s last
    | .sram a, .sram b => a == b && fp.any fun f => f.val == a
    | _, _ => false

/-- A buffer lies in a declared placement; one in an SRAM window needs none. -/
def inPlacement (im : Image) (e : Extent) : Bool :=
  (match regionOf e.base with | .sram _ => true | _ => false) ||
    im.placements.any fun x => x.lpd == e.lpd && decide (x.base ≤ e.base) && decide (e.base + e.size ≤ x.base + x.size)

/-! ### Command words -/

/-- The word of a declared command. -/
def wordAt (s : State) (c : DeclaredCommand) : List Byte := bytesAt s c.address 64

/-- Every index lies below the declared length of its table; a descriptor that may be left out may be. -/
def indicesOk (w : List Byte) (n : Nat) : Bool :=
  (indexFields (wOpcode w)).all fun o => leftOut w o || decide (field w o 2 < n)

/-- The crew of a command, by its declared issuers (05_macro R481, 11_steward R347). -/
def crewOk (fp : List (Fin 128)) (issuer : Nat) (w : List Byte) : Bool :=
  let us := crewUnits issuer w
  if issuer = 4 then
    us != [] && decide (wCrew w < 8) && (isOrdering w || ([0x10, 0x11, 0x12] : List Nat).contains (wOpcode w)) &&
      (isOrdering w || us.length == 1)
  else us != [] && us.all fun e => fp.any fun f => f.val == e

/-- The reserved fields of an ordering word, its ARG, its TIME and the pair operand (11_steward R348, R355). -/
def orderingOk (w : List Byte) : Bool :=
  let arg := field w 8 4
  decide (wCtl w < 2) && reservedZero w 0x0C 0x10 && reservedZero w 0x18 0x40 &&
    (wOpcode w == 0x23 || field w 0x10 8 == 0) &&
    match wOpcode w with
    | 0x20 => decide (1 ≤ arg) && decide (arg ≤ 65535) && pairFieldOk
    | 0x21 => arg == 0 && pairFieldOk
    | 0x22 => true
    | _ => arg == 0
where
  pairFieldOk : Bool := !bit (field w 2 2) 15 && !bit (field w 2 2) 6

/-- The bytes that a descriptor names: its elements, the scales or flags, the row scales (05_macro R126, R128, R131). The BATCH_STRIDE of one
that a length table limits is ignored (R143). -/
def descExtents (d : Desc) (limited : Bool := false) : List (Nat × Nat) :=
  let b := if limited then 1 else d.batch
  let n := d.rows * b
  [(d.base, d.base + (b - 1) * d.batchStride + (d.rows - 1) * d.rowStride + rowBytes d)] ++
    (if bit d.flags 0 || d.format == 6 then [(d.scaleBase, d.scaleBase + n * d.scaleStride)] else []) ++
    (if bit d.flags 1 then [(d.auxBase, d.auxBase + 4 * n)] else [])

/-- The descriptors of the outputs, and of the inputs and partials, of a command (`0x1012`). -/
def outputFields (op : Nat) : List Nat × List Nat :=
  match op with
  | 0x01 => ([0x1C], [0x18, 0x1A, 0x1E]) | 0x02 => ([0x1E], [0x18, 0x1A, 0x1C, 0x2A]) | 0x03 => ([0x1A], [0x18])
  | 0x04 => ([0x1A], [0x18, 0x1C, 0x1E]) | 0x05 => ([0x1A, 0x1E], [0x18, 0x1C]) | 0x06 => ([0x30, 0x32], [])
  | 0x08 => ([0x1A, 0x1C], [0x18]) | 0x09 => ([0x34], [0x18, 0x1A, 0x1C, 0x32]) | 0x0B => ([], [0x18, 0x1A])
  | 0x18 => ([], [0x20]) | 0x19 => ([], [0x18]) | _ => ([], [])

/-- The word offsets of the descriptors that a command's length table limits (05_macro R143, R153). -/
def limitedFields (w : List Byte) : List Nat :=
  match wOpcode w with
  | 0x01 => if field w 0x28 8 % 2 ^ 48 = 0 then [] else if bit (field w 0x23 1) 1 then [0x1A, 0x1C] else [0x18, 0x1C]
  | 0x02 => if field w 0x30 8 % 2 ^ 48 = 0 then [] else [0x18, 0x1E]
  | _ => []

/-- `n` bytes at an address as an extent; none for address 0, which names no area. -/
def areaAt (a n : Nat) : List (Nat × Nat) := if a = 0 then [] else [(a, a + n)]

/-- The areas that an attention command writes besides its descriptors: the running triples, the scratch of a split, or the gradients. -/
def attWritten (s : State) (q : Req) (c : AttCmd) : Got (List (Nat × Nat)) :=
  if c.bwd then
    if c.place = 1 then (uReadNat s q c.r.blist 4).map fun n => areaAt c.r.triple (n * 1024 * (c.q.cols + if c.latent = 1 then 0 else c.dv))
    else .ok []
  else .ok (areaAt c.stat (2 * c.queryRows) ++
    (if c.place = 1 then areaAt c.r.triple (splitFlagAddr c c.nsplit 0 0 - c.r.triple)
     else if c.fold = 3 then [] else areaAt c.r.triple ((8 + 4 * c.dv) * c.queryRows)))

/-- The areas that an attention command reads besides its descriptors: its length table, bale lists or key lists, bounds, gambit records,
positions and up-projections. -/
def attRead (s : State) (q : Req) (c : AttCmd) : Got (List (Nat × Nat)) := do
  let seqs ← attSeqs s q c
  let lists ← if c.bwd ∧ c.place = 1 then (uReadNat s q c.r.blist 4).map fun n => 64 + 32 * n
    else pure (if c.gate = 0 then 320 * (queryBlocks c seqs).length else 0)
  return areaAt c.r.ltab (16 * c.r.ltabN) ++ (if lists = 0 then [] else areaAt c.r.blist lists) ++
    (if c.mask < 2 then [] else areaAt c.r.bounds (8 * c.q.rows)) ++ (if c.gambitOn then areaAt c.r.gambit (64 * seqs.length) else []) ++
    areaAt c.r.qpos (8 * seqs.length) ++ (if c.latent = 2 then descExtents c.t.upk ++ descExtents c.t.upv else [])

/-- The areas that a command writes, and those that it reads, besides its descriptors: row status words and the bale lists, results and want
bitmaps; length tables, up-projections, token ids, bounds, positions and filters. -/
def namedAreas (s : State) (q : Req) (w : List Byte) : Got (List (Nat × Nat) × List (Nat × Nat)) := do
  let ltab := fun (a n : Nat) => areaAt a (16 * n)
  let ups := fun (t : KvTable) => descExtents t.upk ++ descExtents t.upv
  match wOpcode w with
  | 0x01 => return ([], ltab (field w 0x28 8 % 2 ^ 48) (field w 0x24 4))
  | 0x02 => return ([], ltab (field w 0x30 8 % 2 ^ 48) (field w 0x38 4))
  | 0x04 =>
    let c ← rowCmd s q w
    return (areaAt c.stat (2 * c.dy.batch * c.dx.rows), [])
  | 0x05 =>
    let c ← rowCmd s q w
    return (if c.hasStatus then areaAt c.stat (2 * c.dy.batch * c.dx.rows) else [], [])
  | 0x06 =>
    let t ← kvTable s q (field w 0x18 8 % 2 ^ 48)
    return ([], ups t)
  | 0x08 =>
    let c ← attCmd s q w
    return (← attWritten s q c, ← attRead s q c)
  | 0x09 =>
    let c ← attCmd s q w
    return (← attWritten s q c, ← attRead s q c)
  | 0x0A => return ([], areaAt (field w 0x18 8 % 2 ^ 48) (64 * field w 0x28 4))
  | 0x0B =>
    let l := field w 0x28 8 % 2 ^ 48
    let es ← mapGot (fun p => lengthEntry s q l p) (List.range (field w 0x30 4))
    return ([], ltab l (field w 0x30 4) ++ areaAt (field w 0x38 8 % 2 ^ 48) (4 * (es.map fun e => e.2 + e.1).foldl max 0))
  | 0x18 =>
    let c ← searchCmd s q w
    return (areaAt c.result (c.dq.rows * (64 + 16 * c.topk)) ++ areaAt c.scratch c.scratchBytes,
      if c.filtered then areaAt c.filter ((c.dq.rows - 1) * c.fpitch + 64) else [])
  | 0x19 =>
    let c ← selectCmd s q w
    let seqs ← attSeqs s q c.att
    let rows := seqs.length * c.att.ngrp * c.wpitch
    return (areaAt c.blist (320 * (queryBlocks c.att seqs).length) ++ (if c.wanted then areaAt c.want rows else []),
      ltab c.att.r.ltab c.att.r.ltabN ++ if c.filtered then areaAt c.filter rows else [])
  | _ => return ([], [])

/-- The extents of the descriptors at a list of word offsets. -/
def extentsOf (s : State) (q : Req) (w : List Byte) (l : List Nat) : List (Nat × Nat) :=
  l.flatMap fun o =>
    match optDesc s q w (field w o 2) with
    | .ok (some d) => descExtents d ((limitedFields w).contains o)
    | _ => []

/-- What a command writes, and what it reads. -/
def commandExtents (s : State) (q : Req) (w : List Byte) : List (Nat × Nat) × List (Nat × Nat) :=
  let f := outputFields (wOpcode w)
  let n := match namedAreas s q w with | .ok x => x | .error _ => ([], [])
  (extentsOf s q w f.1 ++ n.1, extentsOf s q w f.2 ++ n.2)

/-- No output of the command overlaps an input or partial of it. -/
def outputsApart (s : State) (q : Req) (w : List Byte) : Bool :=
  let x := commandExtents s q w
  x.1.all fun a => x.2.all fun b => decide (a.2 ≤ b.1) || decide (b.2 ≤ a.1)

/-- The buffers of the command and its completion record, in the placements and in the partition's resources (`0x1010`). -/
def buffersInside (s : State) (p : Nat) (im : Image) (q : Req) (w : List Byte) : Bool :=
  let c := commandExtents s q w
  (c.1 ++ c.2 ++ (if isOrdering w then [] else [(wCompl w % 2 ^ 48, wCompl w % 2 ^ 48 + 16)])).all fun x =>
    let e : Extent := { lpd := match regionOf x.1 with | .lpd _ => true | _ => false, base := x.1, size := x.2 - x.1 }
    extentInside s p im.footprint e && inPlacement im e

/-! ### Declared partial buffers (`0x100A`, 05_macro R481) -/

/-- The declared products of a partial buffer. -/
def declaredProducts (im : Image) (base : Nat) : Option Nat := (im.partials.find? fun p => p.1 == base).map Prod.snd

/-- The WINDOW partial that a word names at an offset. -/
def windowPartialAt (s : State) (q : Req) (w : List Byte) (o : Nat) : Option Desc :=
  match optDesc s q w (field w o 2) with
  | .ok (some d) => if d.format = 6 then some d else none
  | _ => none

/-- The products that reach a window word of the partial that a command writes: K of a MATMUL, the sum over the planes of a
COMBINE (03_arithmetic R62). -/
def productsReached (s : State) (im : Image) (q : Req) (w : List Byte) : Option Nat :=
  match wOpcode w with
  | 0x01 => match matCmd s q w with | .ok c => some c.a.cols | .error _ => none
  | 0x03 => ((windowPartialAt s q w 0x18).bind fun d => declaredProducts im d.base).map fun n => n * field w 0x1C 2
  | _ => none

/-- Every WINDOW partial of a MATMUL or a COMBINE is declared, one that it writes with at least the products that reach it. -/
def partialsDeclared (s : State) (im : Image) (q : Req) (w : List Byte) : Bool :=
  let written := match wOpcode w with | 0x01 => windowPartialAt s q w 0x1E | 0x03 => windowPartialAt s q w 0x1A | _ => none
  let read := if wOpcode w = 0x03 then windowPartialAt s q w 0x18 else none
  (match read with | some d => (declaredProducts im d.base).isSome | none => true) &&
    match written with
    | some d => (match declaredProducts im d.base, productsReached s im q w with
      | some n, some k => decide (k ≤ n)
      | some _, none => true
      | none, _ => false)
    | none => true

/-- A command whose work its word does not fix (R481). -/
def needsDuration (w : List Byte) : Bool :=
  match wOpcode w with
  | 0x08 => bits (field w 0x24 1) 3 2 == 1
  | 0x09 => bits (field w 0x24 1) 3 2 == 1 || bits (field w 0x24 1) 1 0 == 1
  | 0x18 => true | 0x19 => true | 0x0B => true | 0x0A => true | 0x10 => true | 0x11 => true | 0x12 => true
  | _ => false

/-- The request of the loader: firmware, unchecked. -/
def loaderReq : Req := { owner := .nobody, part := none, ctx := none, loader := true, waits := false }

/-- The failures of one declared command. -/
def commandFailures (s : State) (p : Nat) (im : Image) (c : DeclaredCommand) : List LoadFailure :=
  let w := wordAt s c
  let at' := some (c.address, im.commands.findIdx fun x => x == c)
  let lead := (crewUnits c.issuer.val w).headD 0
  let issuer := stewardOf (if c.issuer.val = 4 then 256 else 2 * lead)
  let inner := if isOrdering w then failing [(orderingOk w, 0x1006)]
    else match commandChecks s loaderReq c.issuer.val issuer w with
      | .ok l => l
      | .error _ => 0x1010 :: wordChecks w
  inner.map (fun k => (k, at')) ++ failingAt at' [
    (c.address % 64 == 0, 0x1003),
    (indicesOk w c.tableLength && crewOk im.footprint c.issuer.val w, 0x1014),
    (wOpcode w != 3 || (match productsReached s im loaderReq w with | some n => decide (n ≤ 2 ^ 27) | none => true), 0x100A),
    (partialsDeclared s im loaderReq w, 0x1002),
    (buffersInside s p im loaderReq w, 0x1010),
    (outputsApart s loaderReq w, 0x1012),
    (!needsDuration w || c.durationUs.isSome, 0x1002),
    (match earlyFormats s loaderReq w with | .ok b => b | .error _ => true, 0x1007)]

/-! ### Caravan layers (`0x1011`) -/

/-- A command that a layer lists agrees with its declaration (01_caravan R24). -/
def layerCommandOk (s : State) (im : Image) (gated : Bool) (i : Nat) : List LoadFailure :=
  match im.commands[i]? with
  | none => [(0x1002, none)]
  | some c =>
    let w := wordAt s c
    let gate := bits (field w 0x24 1) 3 2
    match wOpcode w with
    | 0x08 => failingAt (some (c.address, i)) [(gate == (if gated then 0 else 1), 0x1011)]
    | 0x19 => failingAt (some (c.address, i)) [(gated, 0x1011)]
    | _ => [(0x1002, some (c.address, i))]

/-! ### Tempo points and live-range maps (`0x1015` to `0x1018`) -/

/-- Strictly increasing numbers. -/
def increasing : List Nat → Bool
  | a :: b :: r => decide (a < b) && increasing (b :: r)
  | _ => true

/-- The ranges of one kind obey R377. -/
def liveRangesOk (l : List (Nat × Nat)) (grain limit : Nat) : Bool :=
  decide (l.length ≤ 64) && l.all (fun r => r.1 % grain == 0 && r.2 % grain == 0 && decide (r.1 + r.2 ≤ limit)) &&
    rangesDisjoint (l.map fun r => (r.2, r.1))

/-- A live-range map obeys R377. -/
def mapOk (m : LiveMap) : Bool :=
  !m.gmask.getLsbD 0 && liveRangesOk m.dataRanges 8 65536 && liveRangesOk m.localRanges 256 8388608

/-- The entries of a table of 16-byte entries. -/
def tableEntries (l : List Byte) : List (List Byte) := (List.range (l.length / 16)).map fun i => (l.drop (16 * i)).take 16

/-- The live-range map at a byte offset of the map section (R377). -/
def mapAt (im : Image) (off : Nat) : LiveMap :=
  let f := fun (o n : Nat) => leNat (getBytes im.mapSection (off + o) n)
  let ranges := fun (first n : Nat) => (List.range n).map fun i => (f (8 + 8 * (first + i)) 4, f (12 + 8 * (first + i)) 4)
  { address := im.mapBase + off, gmask := BitVec.ofNat 32 (f 0 4), dataRanges := ranges 0 (f 4 2), localRanges := ranges (f 4 2) (f 6 2) }

/-- The tempo-point table of an image: PC in 8 bytes with the address in [47:0], POINT in 2, 2 reserved bytes, MAP in 4 (R376). -/
def tempoOf (im : Image) : List TempoEntry :=
  (tableEntries im.tempoTable).map fun e => { pc := field e 0 8 % 2 ^ 48, point := field e 8 2, map := mapAt im (field e 0x0C 4) }

/-- The hold table of an image: FIRST and LAST, 8 bytes each (R376; log 12). -/
def holdsOf (im : Image) : List (Nat × Nat) :=
  (tableEntries im.holdTable).map fun e => (field e 0 8 % 2 ^ 48, field e 8 8 % 2 ^ 48)

/-- The tempo-point table is whole entries with their reserved bits zero. -/
def tempoTableOk (im : Image) : Bool :=
  im.tempoTable.length % 16 == 0 && (tableEntries im.tempoTable).all fun e => topClear e 0 && field e 0x0A 2 == 0

/-- The map at a byte offset lies in the map section, 64-byte aligned within it (R377). -/
def mapInside (im : Image) (off : Nat) : Bool :=
  let f := fun (o n : Nat) => leNat (getBytes im.mapSection (off + o) n)
  off % 64 == 0 && decide (off + 8 + 8 * (f 4 2 + f 6 2) ≤ im.mapSection.length)

/-- The live bytes of a map. -/
def mapLive (m : LiveMap) : Nat := rangesBytes m.dataRanges + rangesBytes m.localRanges

/-- The largest live data of a steward's points. -/
def largestLive (im : Image) (l : List Nat) : Nat :=
  (l.map fun i => match (tempoOf im)[i]? with | some e => mapLive e.map | none => 0).foldl max 0

/-- SB holds every pair of tempo points of an EC's two stewards (R378). -/
def saveFits (im : Image) (sb : Nat) : Bool :=
  im.points.all fun x => decide (0xC00 + largestLive im x.1 + largestLive im x.2 ≤ sb * 4096)

/-! ### The work between tempo points (`0x1017`) -/

/-- The operations of a command and the depth of its format, from its word (log 43). A row function and the addition of a partial word take
one of the 256 lanes of the row unit or an engine for a cycle, four operations at depth 1; an attention command reads 64 bales a query
block. -/
def commandWork (s : State) (w : List Byte) : Nat × Nat :=
  match wOpcode w with
  | 0x01 => match matCmd s loaderReq w with
    | .ok c => (2 * c.c.batch * c.c.rows * c.c.cols * c.a.cols, formatDepth c.a.format)
    | .error _ => (0, 64)
  | 0x02 => match chainCmd s loaderReq w with
    | .ok c => (2 * c.y.batch * c.y.rows * (c.a.cols * c.b.rows + c.b.rows * c.d.rows), formatDepth c.a.format)
    | .error _ => (0, 64)
  | 0x03 => match combineCmd s loaderReq w with
    | .ok c => (4 * c.npart * c.dc.batch * c.dc.rows * c.dc.cols, 1)
    | .error _ => (0, 64)
  | 0x04 => rowWork
  | 0x05 => rowWork
  | 0x06 => match kvTable s loaderReq (field w 0x18 8 % 2 ^ 48) with
    | .ok t => (2 * field w 0x2C 4 * 128 * t.dl * (t.dqk + t.dv), if t.xfmt % 16 = 4 then 32 else 64)
    | .error _ => (0, 64)
  | 0x08 => attWork fun c => c.q.cols + c.dv
  | 0x09 => attWork fun c => 2 * c.q.cols + c.dv
  | _ => (0, 64)
where
  rowWork : Nat × Nat := match rowCmd s loaderReq w with
    | .ok c => (4 * c.dy.batch * c.dx.rows * c.dx.cols, 1)
    | .error _ => (0, 64)
  attWork (depth : AttCmd → Nat) : Nat × Nat := match attCmd s loaderReq w with
    | .ok c => match attSeqs s loaderReq c with
      | .ok l => ((queryBlocks c l).length * 256 * c.qheads * 64 * 128 * 2 * depth c, formatDepth c.q.format)
      | .error _ => (0, 64)
    | .error _ => (0, 64)

/-- Nanoseconds of a stretch on the partition's ECs, at 1,024 operations a cycle per element of depth and the rate of the phase:
600 MHz in early service (14_power R431), else 1.7 GHz (log 43). -/
def stretchNs (s : State) (p : Nat) (x : Stretch) : Nat :=
  let ecs := max 1 ((List.range 128).countP fun e => (tabGet 0 (s.partAt p).ecs (e / 32)).getLsbD (e % 32))
  let one := (x.commands.map fun c =>
    let w := wordAt s c
    if needsDuration w then 1000 * c.durationUs.getD 0
    else let k := commandWork s w; ceilDiv (10 * k.1) ((if s.power.phase = 1 then 6 else 17) * 1024 * k.2 * ecs)).sum
  max 1 x.loop * one

/-! ### The load (R156) -/

/-- The ranges that the shard map gives a sequence hold each bale from 0 on once (01_caravan R20). -/
def shardsOk (d : CaravanDecl) : Bool :=
  (d.shards.map fun r => r.seq).dedup.all fun p =>
    let l := (d.shards.filter fun r => r.seq == p).map fun r => (r.first, r.count)
    rangesDisjoint l && (l.map fun r => r.1 + r.2).foldl max 0 == (l.map fun r => r.2).sum

/-- The origins that the shard map names. -/
def shardOrigins (d : CaravanDecl) : List Nat := (d.shards.map fun r => r.origin).dedup

/-- The largest carried set that the shard map permits: a whole shard; none where there is one origin (01_caravan R23, R30). -/
def largestCarried (d : CaravanDecl) : Nat :=
  if (shardOrigins d).length ≤ 1 then 0 else ((shardOrigins d).map fun o => (shardBales d o).length * d.baleBytes).foldl max 0

/-- The failures of the caravan declarations: an image with layers has a shard map that gives every bale one origin, and a survey table of each
origin; its caravan area holds two shards' worth (01_caravan R20, R28, R30; log 111). -/
def caravanFailures (im : Image) : List LoadFailure :=
  match im.caravan with
  | none => failingAt none [(im.layers.isEmpty, 0x1002)]
  | some d => failingAt none [
      (shardsOk d && (shardOrigins d).all (fun o => d.surveys.any fun e => e.1 == o) && decide (1 ≤ d.baleBytes) && decide (1 ≤ d.recordBytes) &&
        decide (1 ≤ d.stepCt), 0x1002),
      (decide (2 * largestCarried d ≤ d.area.size), 0x1011)]

/-- Every failure of an image for partition `p`, with a save area at `base` of `sb` pages per EC. -/
def loadFailures (s : State) (p : Nat) (im : Image) (base sb : Nat) : List LoadFailure :=
  let tempo := tempoOf im
  let pcs := tempo.map fun e => e.pc
  let points := tempo.map fun e => e.point
  failingAt none [
    (im.wellFormed, 0x1002),
    (decide (placedBytes im.placements false ≤ tierCapacity s p false) && decide (placedBytes im.placements true ≤ tierCapacity s p true), 0x1001),
    (base % 4096 == 0, 0x1005),
    (im.placements.all (extentInside s p im.footprint), 0x1010),
    (im.buffers.all fun b => extentInside s p im.footprint b && inPlacement im b, 0x1010),
    (im.footprint.all fun e => partHasEc s p e.val, 0x1014),
    (tempoTableOk im && increasing pcs && decide points.Nodup, 0x1015),
    (tempo.all fun e => (holdsOf im).all fun h => decide (e.pc < h.1) || decide (h.2 < e.pc), 0x1016),
    (im.stretches.all fun x => decide (stretchNs s p x ≤ 200000), 0x1017),
    (im.stretches.all fun x => x.commands.all fun c => im.commands.contains c, 0x1002),
    ((List.range tempo.length).all fun i => im.points.any fun x => x.1.contains i || x.2.contains i, 0x1002),
    (tempo.all (fun e => mapInside im (e.map.address - im.mapBase) && mapOk e.map) && saveFits im sb, 0x1018),
    (im.points.all fun x => (x.1 ++ x.2).all fun i => decide (i < tempo.length), 0x1002),
    (im.holdTable.length % 16 == 0, 0x1002),
    (im.caravan.all fun d => extentInside s p im.footprint d.area && inPlacement im d.area, 0x1010)] ++
  caravanFailures im ++
  im.commands.flatMap (commandFailures s p im) ++
  im.layers.flatMap fun l => l.steps.flatten.flatMap (layerCommandOk s im l.gated)

/-- The lowest code of a list of failures. -/
def lowestCode (l : List LoadFailure) : Code := l.foldl (fun c x => if c = 0 ∨ x.1.toNat < c.toNat then x.1 else c) 0

/-- The failures of a load are logged in the order of their codes (16_counters R461): the byte offset in the image of the failing item and the
index of its command, where they are known (log 104). -/
def logFailures (s : State) (image : Nat) (p c : Nat) (l : List LoadFailure) : State :=
  (sortBy (fun (a b : LoadFailure) => decide (a.1.toNat < b.1.toNat)) l).foldl (fun t x =>
    let r := withCtx (plainRec t 7 0 x.1) p c
    match x.2 with
    | some a => logWrite t { withAddr r a.1 with detail := (natLe 8 (a.1 + 2 ^ 64 - image) ++ natLe 4 a.2).map BitVec.toNat }
    | none =>
      let v := drawFree t
      let i := drawFree v.2
      logWrite i.2 { r with detail := (natLe 8 v.1.toNat ++ natLe 4 i.1.toNat).map BitVec.toNat }) s

/-- A load that passes every check sets the footprint, the save area, the resume entry and the tables (R366, R376). -/
def installImage (s : State) (c : Fin 64) (im : Image) (base sb : Nat) : State :=
  s.modCtx c.val fun x => { x with
    footprint := im.footprint, saveLo := BitVec.ofNat 20 (base / 4096), saveHi := BitVec.ofNat 16 (base / 2 ^ 32),
    savePages := BitVec.ofNat 16 sb, resumeLo := BitVec.ofNat 30 (im.resume / 4), resumeHi := BitVec.ofNat 16 (im.resume / 2 ^ 32),
    tempo := tempoOf im, imageDigest := some (sha512 im.bytes), layers := im.layers.map (fun l => l.gated), caravan := im.caravan, tasks := [] }

end Sys2Proof.Machine
end

