-- ==== Sys2Proof/Machine/Tables.lean ====
section
/-! DEFINITION. The registers of the row-unit tables, of the bale table walker and of the dragoman (03_arithmetic R84 to R88;
07_kv R210, R211; 08_dragoman R236, R239). -/

namespace Sys2Proof.Machine

/-! ### Row-unit tables (03_arithmetic R84 to R88) -/

/-- PENDING: a tile that started on the previous bank still runs. -/
def tablesPending (u : RowUnit) : Bool := decide (0 < u.oldTiles)

/-- `n` ignored writes, counted up to 0xFFFF. -/
def ignoreTable (u : RowUnit) (n : Nat) : RowUnit := { u with ignored := BitVec.ofNat 16 (min 65535 (u.ignored.toNat + n)) }

/-- SWAP: the banks are exchanged; a tile that runs keeps the bank that it started with. -/
def swapTables (u : RowUnit) : RowUnit :=
  { u with active := u.shadow, shadow := u.active, epoch := u.epoch + 1, oldTiles := if u.current.isSome then 1 else 0 }

/-- RU_TBL_CTL. One write with SWAP and RESTORE that PENDING or BUSY turns away counts as two ignored writes (log 101). -/
def tableCtlWrite (s : State) (e : Nat) (v : Reg32) : State :=
  s.modEc e fun c =>
    let u := { c.rowUnit with func := v.extractLsb' 0 3 }
    let swap := v.getLsbD 4
    let restore := v.getLsbD 3
    let u :=
      if tablesPending u || u.busy then ignoreTable u ((if swap then 1 else 0) + if restore then 1 else 0)
      else if swap then ignoreTable (swapTables u) (if restore then 1 else 0)
      else if restore then { u with busy := true }
      else u
    { c with rowUnit := u }

/-- The word of a shadow table. While a RESTORE is in progress it is the word from before the RESTORE (log 102). -/
def shadowWord (u : RowUnit) : Reg32 :=
  if 5 ≤ u.func.toNat then 0
  else tabGet (factoryWordAt u.func.toNat u.index.toNat) u.shadow (u.func.toNat * 2048 + u.index.toNat)

/-- RU_TBL_DATA. -/
def tableDataWriteReg (s : State) (e : Nat) (v : Reg32) : State :=
  s.modEc e fun c =>
    let u := c.rowUnit
    { c with rowUnit :=
      if tablesPending u || u.busy || decide (5 ≤ u.func.toNat) then ignoreTable u 1
      else { u with shadow := tabSet u.shadow (u.func.toNat * 2048 + u.index.toNat) v, index := u.index + 1 } }

/-- RESTORE_COMPLETE. -/
def execRestoreComplete (ec : Fin 128) (s : State) : Answer := whileClocked s <|
  whenEnabled (s.ecAt ec.val).rowUnit.busy s
    (s.modEc ec.val fun c => { c with rowUnit := { c.rowUnit with busy := false, shadow := [] } })

/-! ### The look-aside buffer (07_kv R210, R211) -/

/-- DIR of the walker's registers. -/
def invDir (x : Die) : Nat := x.invDirHi.toNat * 2 ^ 32 + x.invDirLo.toNat * 4096

/-- An entry lies in the scope of an invalidation. -/
def inScope (x : Die) (l : LabEntry) : Bool :=
  l.part == x.invFor.toNat &&
  (x.invScope.toNat == 0 ||
    (l.dir == invDir x &&
      (x.invScope.toNat == 1 ||
        (l.seq == x.invSeq.toNat && (x.invScope.toNat == 2 || (l.chain == x.invChain.toNat && l.seg == x.invSeg.toNat))))))

/-- BTW_TLB_INV; `own` is the partition of a steward's invalidation. Walks are whole in the model, so the entries leave at
the write. PART and SCOPE are written also where GO is ignored: the model's choice (log 126). -/
def tlbInvWrite (s : State) (d : Nat) (own : Option Nat) (v : Reg32) : State :=
  let x := s.dieAt d
  let y := { x with invPart := v.extractLsb' 16 3, invScope := v.extractLsb' 2 2 }
  if !v.getLsbD 0 then s.setDie d y
  else if x.invBusy then bumpWalker (s.setDie d y) d 2
  else
    let z := { y with invBusy := true, invFor := match own with | some p => BitVec.ofNat 3 p | none => y.invPart }
    s.setDie d { z with lab := z.lab.filter fun l => !inScope z l }

/-- TLB_INVALIDATE_DONE. -/
def execTlbInvalidateDone (die : Fin 4) (s : State) : Answer := whileClocked s <|
  whenEnabled (s.dieAt die.val).invBusy s (s.modDie die.val fun x => { x with invBusy := false })

/-! ### Limits of the dragoman (08_dragoman R236) -/

/-- LIMIT of DRG_PART_CTXp. -/
def limitWrite (s : State) (d p : Nat) (v : Reg32) : State :=
  s.modDie d fun x => { x with drgLimits := tabSet x.drgLimits p (v.extractLsb' 0 12) }

end Sys2Proof.Machine
end

