-- ==== Sys2Proof/Machine/Supervisor.lean ====
section
/-! DEFINITION. The supervisor commands (12_partitions R385, R387; 13_host R402; 15_trust R452, R454), and the channel sets that
firmware forms (12_partitions R363). -/

namespace Sys2Proof.Machine

/-! ### Channel sets (R363) -/

/-- The largest block of 2^k windows that begins at `w`, at a multiple of its size, and lies wholly in the mask. -/
def blockLog2 (mask : Nat) (w : Nat) : Nat :=
  ((List.range 6).filter fun k => w % 2 ^ k == 0 && (List.range (2 ^ k)).all fun i => bit mask (w + i)).foldl max 0

/-- The blocks of a mask of `n` windows: first window and log2 of the length, from the lowest window upward. -/
def windowBlocks (mask : Nat) : Nat → Nat → List (Nat × Nat)
  | 0, _ => []
  | fuel + 1, w =>
    if 32 ≤ w then []
    else if !bit mask w then windowBlocks mask fuel (w + 1)
    else
      let k := blockLog2 mask w
      (w, k) :: windowBlocks mask fuel (w + 2 ^ k)

/-- A window takes a new set: its lines leave the caches under HOLD, then the set is written and HOLD cleared. -/
def reformWindow (s : State) (lpd : Bool) (w b k : Nat) : State :=
  let x := s.window lpd w
  let new := { x with valid := true, hold := false, drained := false, setLog2 := BitVec.ofNat 3 k, setBase := BitVec.ofNat 5 b }
  if x == new then s
  else
    let t := (List.range 4).foldl (fun t d =>
      ((t.dieAt d).cache.filter fun l => lineInWindow lpd w l.1).foldl (fun u l => dropLine u d l) t) s
    t.setWindow lpd w new

/-- The windows of a mask whose channels are trained (02_package R41); before full service no HBM3E window is set (14_power R431, R432). -/
def trainedMask (s : State) (lpd : Bool) (mask : Nat) : Nat :=
  ((List.range 32).map fun w => if bit mask w && (s.window lpd w).trained && (lpd || s.power.phase == 2) then 2 ^ w else 0).sum

/-- Firmware forms the windows of a mask into channel sets. -/
def formSets (s : State) (lpd : Bool) (mask : Nat) : State :=
  (windowBlocks (trainedMask s lpd mask) 32 0).foldl (fun t b =>
    (List.range (2 ^ b.2)).foldl (fun u i => reformWindow u lpd (b.1 + i) b.1 b.2) t) s

/-! ### Completion (R387) -/

/-- Hub firmware runs: it has started, the core clocks run, and no register hot reset is in progress (14_power R425, R428). -/
def firmwareRuns (s : State) : Bool := s.trust.stage == 3 && coreClocks s && !s.power.hotReset

/-- Bytes of firmware's own accesses. -/
def firmwareRead (s : State) (a n : Nat) : Option (List Byte) :=
  match uRead s loaderReq a n with | .ok b => some b | .error _ => none

/-- The bytes of a supervisor slot spell an opcode and the slot's fields; other bytes are reserved. -/
def slotSpells (r : List Byte) (slot : SupSlot) (op : Nat) : Bool :=
  field r 0 1 == op && field r 4 4 == slot.arg0.toNat && field r 8 8 == slot.arg1.toNat && field r 0x10 8 == slot.arg2.toNat &&
    field r 0x18 8 == slot.arg3.toNat && field r 0x20 8 == slot.compl.toNat

/-- The address of the slot of count `t` of a queue (R372). -/
def supSlotAddr (q : Queue) (t : Nat) : Nat := q.ring.toNat + 64 * (t % 2 ^ q.log2n)

/-- Firmware executes the slots of an enabled supervisor queue in order, from the count that it last served up to TAIL: the next one spells
this command. FW_UPDATE keeps its slot until it completes (15_trust R452). -/
def supServed (s : State) (slot : SupSlot) (op : Nat) : Bool :=
  let q := s.queueAt slot.queue.val
  firmwareRuns s && q.state == 1 && q.served != q.tail && (s.trust.update.all fun u => u.2.queue != slot.queue) &&
    (firmwareRead s (supSlotAddr q q.served.toNat) 64).any fun r => slotSpells r slot op

/-- The next slot of a supervisor queue is served. -/
def nextSlot (s : State) (n : Nat) : State := s.setQueue n { s.queueAt n with served := (s.queueAt n).served + 1 }

/-- The slot is served: STATUS and END_CT of its record, and the vector of its queue (log 45). -/
def supComplete (s : State) (slot : SupSlot) (code : Code) : State :=
  let s := nextSlot s slot.queue.val
  let a := slot.compl.toNat % 2 ^ 48
  let t := match rangeFault s none a 2 true, rangeFault s none (a + 8) 8 true with
    | none, none => hubStore (hubStore s (hubReq none) a (natLe 2 code.toNat)) (hubReq none) (a + 8) (natLe 8 s.time.toNat)
    | some f, _ => logWrite s (faultRec s .nobody f.1 f.2)
    | none, some f => logWrite s (faultRec s .nobody f.1 f.2)
  let q := t.queueAt slot.queue.val
  if q.irq then hubVector t q.vector.toNat else t

/-- A command whose requirement fails changes nothing and completes with `0x200E`, which is logged (00_scope R17). -/
def supRefuse (s : State) (slot : SupSlot) : Answer :=
  .next (supComplete (logWrite s (faultRec s .nobody 0x200E (slot.compl.toNat % 2 ^ 48))) slot 0x200E)

/-- A command that firmware executes. -/
def supCommand (s : State) (slot : SupSlot) (op : Nat) (c : Bool) (t : State) : Answer :=
  if !supServed s slot op then .next s else if c then .next (supComplete t slot 0) else supRefuse s slot

/-! ### Partitions -/

/-- The partition registers of a record of PART_SET. -/
def partOfRecord (r : List Byte) : Partition :=
  let w := fun o => BitVec.ofNat 32 (field r o 4)
  { active := false, ring := bit (field r 0 4) 30, ecs := [(0, w 4), (1, w 8), (2, w 0x0C), (3, w 0x10)], hbm := w 0x14,
    lpd := BitVec.ofNat 16 (field r 0x18 2), rwinLo := BitVec.ofNat 20 (field r 0x1C 4 / 4096), rwinHi := BitVec.ofNat 16 (field r 0x20 2),
    rwinPages := w 0x24, sliceLc := BitVec.ofNat 16 (field r 0x2A 2), sliceBe := BitVec.ofNat 16 (field r 0x28 2) }

/-- The way masks and limits of a record of PART_SET. -/
def partShares (s : State) (p : Nat) (r : List Byte) : State :=
  (List.range 4).foldl (fun t d =>
    limitWrite (applyWays t d p (BitVec.ofNat 16 (field r (0x40 + 2 * d) 2))) d p (BitVec.ofNat 32 (field r (0x48 + 2 * d) 2))) s

/-- PART_SET (R387, R363): the registers, the shares, the channel sets, and ACTIVE last. A set of registers that R363
does not let be active is refused and counted (log 46). -/
def execPartSet (slot : SupSlot) (s : State) : Answer :=
  let p := slot.arg0.toNat
  if !supServed s slot 0x01 then .next s
  else
    match firmwareRead s (slot.arg1.toNat % 2 ^ 48) 128 with
    | none => supRefuse s slot
    | some r =>
      let x := partOfRecord r
      if !(decide (p < 8) && !(s.partAt p).active && (partContexts s p).isEmpty) then supRefuse s slot
      else if !activationOk s p x then supRefuse (bumpHub s cntPartCfgErr) slot
      else
        let t := partShares (s.setPart p x) p r
        let t := formSets (formSets t false x.hbm.toNat) true x.lpd.toNat
        .next (supComplete (t.setPart p { x with active := true }) slot 0)

/-- PART_CLEAR. -/
def execPartClear (slot : SupSlot) (s : State) : Answer :=
  let p := slot.arg0.toNat
  let t := if (s.partAt p).active then clearPartition s p else s
  supCommand s slot 0x02 (decide (p < 8) && (partContexts s p).isEmpty)
    ((partShares t p (List.replicate 128 0)).setPart p { t.partAt p with active := false })

/-! ### Contexts -/

/-- CTX_CREATE (R368): class and partition set, counters cleared; the registers of the save area and the resume entry keep
what they hold. -/
def execCtxCreate (slot : SupSlot) (s : State) : Answer :=
  let v := slot.arg0
  let c := (v.extractLsb' 0 6).toNat
  let p := v.extractLsb' 8 3
  let x := s.ctxAt c
  supCommand s slot 0x03 (x.state == 0 && (s.partAt p.toNat).active)
    (s.setCtx c { state := 1, latencyCritical := v.getLsbD 16, part := p, saveLo := x.saveLo, savePages := x.savePages,
                  saveHi := x.saveHi, resumeLo := x.resumeLo, resumeHi := x.resumeHi })

/-- The context that ARG0 names. -/
def supCtx (slot : SupSlot) : Option (Fin 64) := if h : slot.arg0.toNat < 64 then some ⟨slot.arg0.toNat, h⟩ else none

/-- CTX_LOAD (R387, 05_macro R156): the loader runs, and a load that passes every check sets the context. -/
def execCtxLoad (slot : SupSlot) (image : Image) (s : State) : Answer :=
  if !supServed s slot 0x04 then .next s
  else
    match supCtx slot with
    | none => supRefuse s slot
    | some c =>
      let x := s.ctxAt c.val
      if x.state ≠ 1 then supRefuse s slot
      else
        let base := slot.arg2.toNat % 2 ^ 48
        let fs := loadFailures s x.part.toNat image base slot.arg3.toNat
        if fs.isEmpty then .next (supComplete (installImage s c image base slot.arg3.toNat) slot 0)
        else .next (supComplete (logFailures s (slot.arg1.toNat % 2 ^ 48) x.part.toNat c.val fs) slot (lowestCode fs))

/-- The queues of a context that is freed go free (R368). -/
def freeQueues (s : State) (c : Fin 64) : State :=
  changeQueues s fun e => if decide (16 ≤ e.1) && e.2.ctx.toNat == c.val then { e.2 with state := 0, torn := false } else e.2

/-- CTX_DESTROY (R384, R387): a teardown where the context is in use, and then FREE. -/
def execCtxDestroy (slot : SupSlot) (s : State) : Answer :=
  match supCtx slot with
  | none => if supServed s slot 0x05 then supRefuse s slot else .next s
  | some c =>
    let n := (s.ctxAt c.val).state
    let t := if 2 ≤ n ∧ n ≤ 5 then tearLogged s c 0x200C else s
    let t := freeQueues (t.modCtx c.val fun x => { x with state := 0, imageDigest := none }) c
    supCommand s slot 0x05 (n != 0) t

/-- CTX_RESET (R385): the context is IDLE, and the queues that its teardown stopped are enabled. -/
def execCtxReset (slot : SupSlot) (s : State) : Answer :=
  match supCtx slot with
  | none => if supServed s slot 0x06 then supRefuse s slot else .next s
  | some c =>
    let t := s.modCtx c.val fun x => { x with state := 1, fault := 0, faultTime := 0 }
    let t := changeQueues t fun e => if e.2.torn && e.2.ctx.toNat == c.val then { e.2 with state := 1, torn := false } else e.2
    supCommand s slot 0x06 ((s.ctxAt c.val).state == 6) t

/-! ### Queues (R372, R387; 13_host R402) -/

/-- A queue record in memory; a supervisor queue that takes it serves the slots from TAIL on. -/
def queueOfRecord (r : List Byte) : Queue :=
  { served := BitVec.ofNat 32 (field r 0x18 4), ring := BitVec.ofNat 48 (field r 0 6), hring := BitVec.ofNat 64 (field r 8 8), tailw := BitVec.ofNat 48 (field r 0x10 6),
    tail := BitVec.ofNat 32 (field r 0x18 4), host := bit (field r 0x1C 4) 31, pasid := BitVec.ofNat 20 (field r 0x1C 4),
    log2n := field r 0x20 1, state := field r 0x21 1, ctx := BitVec.ofNat 6 (field r 0x22 1), sstw := bit (field r 0x23 1) 0,
    sec := BitVec.ofNat 7 (field r 0x24 2), irq := bit (field r 0x26 2) 15, vector := BitVec.ofNat 11 (field r 0x26 2) }

/-- R402: the vector that a queue's record may name. -/
def vectorOk (s : State) (n : Nat) (q : Queue) : Bool :=
  let v := q.vector.toNat
  let p := (s.ctxAt q.ctx.toNat).part.toNat
  (decide (16 ≤ v) && decide (v ≤ 255)) || (decide (16 ≤ n) && decide (256 + 224 * p ≤ v) && decide (v < 480 + 224 * p))

/-- R372: the service EC lies in the footprint of the context (log 46). -/
def serviceOk (s : State) (n : Nat) (q : Queue) : Bool :=
  decide (n < 16) || ((s.ctxAt q.ctx.toNat).footprint.any fun e => e.val == q.sec.toNat)

/-- QUEUE_SET: the record is copied into the queue table. -/
def execQueueSet (slot : SupSlot) (s : State) : Answer :=
  let n := slot.arg0.toNat
  if !supServed s slot 0x07 then .next s
  else
    match firmwareRead s (slot.arg1.toNat % 2 ^ 48) 64 with
    | none => supRefuse s slot
    | some r =>
      let q := queueOfRecord r
      let q := if n < 16 then { q with ctx := 0, sstw := false, sec := 0 } else q
      supCommand s slot 0x07 (decide (n < 2 ^ 20) && (s.queueAt n).state != 1 && (decide (n < 16) || (s.ctxAt q.ctx.toNat).state != 0) &&
          serviceOk s n q && decide (q.log2n ≤ 16) && vectorOk s n q)
        (putRecord (s.setQueue n q) n 0 r)

/-- QUEUE_STOP. -/
def execQueueStop (slot : SupSlot) (s : State) : Answer :=
  let n := slot.arg0.toNat
  supCommand s slot 0x08 ((s.queueAt n).state == 1) (stopQueue s n)

/-! ### Firmware update and fuses (15_trust R452, R454) -/

/-- R452: the image lies in decoded memory that no active partition owns. -/
def imagePlaceOk (s : State) (a n : Nat) : Bool :=
  (List.range (lineCount a n)).all fun i =>
    let x := lineStart a i
    (windowAt x).isSome && addrDecoded s x && (List.range 8).all fun p => !partHasAddr s p x

/-- FW_UPDATE: the checks on the copy, then UPDATING; the command completes with FW_UPDATE_COMPLETE. -/
def execFwUpdate (slot : SupSlot) (s : State) : Answer :=
  let a := slot.arg1.toNat % 2 ^ 48
  let n := slot.arg0.toNat
  if !supServed s slot 0x09 then .next s
  else if !(s.power.phase == 2 && !s.trust.updating && imagePlaceOk s a n) then supRefuse s slot
  else
    match firmwareRead s a n with
    | none => supRefuse s slot
    | some img =>
      let c := if decide (n < 4096) || imgLen img + 4096 != n then 0x5001 else imageCode s img
      if c ≠ 0 then .next (supComplete (bootCode s c) slot c)
      else .next { s with trust := { s.trust with updating := true, update := some (img, slot) } }

/-- Root keys that would stay usable: a fused hash stands and is not revoked. -/
def keysLeft (revoked : BitVec 4) : Bool := revoked != 15

/-- FUSE_COMMIT: SVN_MIN rises to the running image's SVN, or a root key is revoked. A write that reads back wrong leaves
SVN_MIN at a free value from the old to the new one, and the revocation's bit free (log 47). -/
def execFuseCommit (slot : SupSlot) (readBackOk : Bool) (s : State) : Answer :=
  let a := slot.arg0.toNat
  let k := a - 1
  let img := s.trust.sram
  let revoked := s.trust.revoked ||| BitVec.ofNat 4 (2 ^ k)
  let refused := s.trust.source || s.trust.updating || decide (4 < a) || (a != 0 && (k == imgKey img || !keysLeft revoked))
  if !supServed s slot 0x0A then .next s
  else if refused then supRefuse s slot
  else
    let old := s.trust.svnMin.toNat
    let good := if a = 0 then { s.trust with svnMin := BitVec.ofNat 7 (max old (imgSvn img)) }
      else { s.trust with revoked }
    if readBackOk then .next (supComplete { s with trust := good } slot 0)
    else
      let f := drawFree s
      let bad := if a = 0 then { s.trust with svnMin := BitVec.ofNat 7 (old + f.1.toNat % (imgSvn img - old + 1)) } else { s.trust with revoked := s.trust.revoked ||| (f.1.setWidth 4 &&& BitVec.ofNat 4 (2 ^ k)) }
      .next (supComplete (logPlain { f.2 with trust := bad } 0 0 0x500B) slot 0x500B)

end Sys2Proof.Machine
end

