-- ==== Sys2Proof/Machine/Resets.lean ====
section
/-! DEFINITION. The kinds of reset, what survives them, the start of hub firmware, and the fault hold (14_power R425 to R432;
15_trust R438, R453). -/

namespace Sys2Proof.Machine

/-! ### What a reset leaves (R429) -/

/-- The units of the compute dies and of the hub, their registers and their counters, return to their reset values. -/
def resetUnits (s : State) : State :=
  { s with
    dies := [], ecs := [], stewards := [], slots := [], unitQueues := [], hubMacros := [], hubAccepted := 0, dieBarriers := [],
    partitions := [], contexts := [], queues := [], queueTable := 0, ring := {}, snap := {}, hubCounters := [], routeCounters := [],
    linkCounters := [], posted := [] }

/-- The SPI NOR once a reset has cut an update short: the image region is incomplete, its header erased (R453; log 48). -/
def spiAfterReset (t : Trust) : List Byte := if t.updating then putBytes t.spiNor 0 (List.replicate 4096 0xFF) else t.spiNor

/-- The root of trust and the management core after a warm reset, or in Off: fuses, straps, the endpoint and the flash stay, and in Off an update
goes on, because the SPI controller is always-on (R452). -/
def trustAfterReset (t : Trust) : Trust :=
  { t with stage := 0, source := false, code := 0, rcvBusy := false, rcvPages := 0, sram := [], sramLocked := false }

/-- The supply, thermal and clock state after a warm reset: the doorbell latch, the monitors with their emergencies, their
settings, HUB_RST_CAUSE and the PERST# filter are always-on (R412; log 49). -/
def powerAfterReset (x : Power) : Power :=
  { railMv := x.railMv, railWarn := x.railWarn, railReset := x.railReset, dip := x.dip, warn := x.warn, warnSince := x.warnSince,
    thermEmerg := x.thermEmerg, thermWarn := x.thermWarn, thermAbove := x.thermAbove, tripped := x.tripped, hotDie := x.hotDie,
    maxTemp := x.maxTemp, temps := x.temps, causePowerOn := x.causePowerOn, causeWarm := x.causeWarm, causeHot := x.causeHot,
    causeRail := x.causeRail, causeWdog := x.causeWdog, railN := x.railN, pwrEn := x.pwrEn, perstHigh := x.perstHigh,
    perstReleased := x.perstReleased, latch := x.latch, latchReported := x.latchReported, sEmerg := x.sEmerg, tEmerg := x.tEmerg }

/-- Everything outside the always-on domain at its reset value, the contents of the tiers and stores dropped (log 5). -/
def resetAll (s : State) : State :=
  { resetUnits s with
    mem := [], bad := [], scrub := 0, hbmWindows := [], lpdWindows := [], ports := [], groups := [],
    sync := { everSynced := s.sync.everSynced, sub := s.sync.sub, lastExchange := s.time }, pcie := { sent := s.pcie.sent, aer := s.pcie.aer, aerSent := s.pcie.aerSent, controllerReset := !s.power.perstHigh }, doe := {},
    power := powerAfterReset s.power, trust := trustAfterReset s.trust }

/-- The watchdog at its reset values, its count at the present time (15_trust R449). -/
def watchdogReset (s : State) (t : Trust) : Trust :=
  { t with wdogEn := false, wdogLock := false, wdogTimeout := 2000, wdogSince := s.time }

/-- A warm reset; `mark` sets its bit of HUB_RST_CAUSE. In Off the part stays in Off (R415), and an exit in progress ends
(R419). -/
def warmReset (s : State) (mark : Power → Power) : State :=
  if s.power.state = 4 then
    { s with
      power := mark { s.power with busy := false, moving := none, pwrEn := false, starting := [] }
      trust := watchdogReset s s.trust }
  else
    let t := resetAll s
    { t with power := mark t.power, trust := { watchdogReset s t.trust with
        spiNor := spiAfterReset s.trust, updating := false, update := none } }

/-- A power-on reset: everything but what is fused, the flash, the history of messages sent and the model's own counter. -/
def powerOnReset (s : State) : State :=
  { State.reset with
    pending := s.pending, free := s.free, pcie := { sent := s.pcie.sent },
    trust := { svnMin := s.trust.svnMin, revoked := s.trust.revoked, rootKeys := s.trust.rootKeys, fuses := s.trust.fuses,
               repairs := s.trust.repairs, spiNor := spiAfterReset s.trust } }

/-! ### Firmware starts (R430 step 4, R438; 12_partitions R360; 13_host R402) -/

/-- Partition 0 as firmware leaves it: active, without the ring, every EC and every window. -/
def defaultPartition : Partition :=
  { active := true, ecs := [(0, 0xFFFFFFFF), (1, 0xFFFFFFFF), (2, 0xFFFFFFFF), (3, 0xFFFFFFFF)], hbm := 0xFFFFFFFF, lpd := 0xFFFF }

/-- The hub stewards start at level F at the firmware entry (11_steward R335; log 10). -/
def startHubStewards (s : State) : State :=
  (List.range 8).foldl (fun t h => t.modSteward (256 + h) fun x => { x with run := .running, pl := 2, pc := firmwareEntry s }) s

/-- What firmware sets as it starts. -/
def firmwareDefaults (s : State) : State := (startHubStewards s).setPart 0 defaultPartition

/-- The certificate chain of the SPI NOR (15_trust R434). -/
def certChain (s : State) : List Byte := getBytes s.trust.spiNor 0x2000000 0x10000

/-- Hub firmware starts from the firmware SRAM at T_F: the SRAM is locked, the watchdog enabled and locked (15_trust R438, R449),
a certificate chain that does not match is logged (R445), and the doorbells that the latch kept through a warm reset are handled
(log 49). -/
def firmwareStart (s : State) (source : Bool) : State :=
  let t := { s with trust := { s.trust with
    stage := 3, source, sramLocked := true, wdogEn := true, wdogLock := true, wdogSince := s.time, rcvBusy := false } }
  let t := drainLatch (firmwareDefaults t)
  if Config.leafMatches (certChain t) then t else logPlain t 0 0 0x5009

/-- Supervisor queue 0's ring and tail word and the queue table: where firmware puts them in the firmware region (13_host R402; 12_partitions
R372; log 10). -/
def placeQueue0 (s : State) : State :=
  match firmwareWindow s with
  | none => s
  | some w =>
    let base := lpdBase + (w + 1) * lpdWindowSize - 0x40000000
    let f := drawFree s
    let g := drawFree f.2
    let h := drawFree g.2
    { h.2 with queueTable := base + 0x10000000 + 64 * (h.1.toNat % 0x300000) }.setQueue 0
      { s.queueAt 0 with ring := BitVec.ofNat 48 (base + 64 * (f.1.toNat % 0x400000)),
                         tailw := BitVec.ofNat 48 (base + 0x20000000 + 8 * (g.1.toNat % 0x4000000)) }

/-- Supervisor queue 0 is enabled (13_host R402). -/
def enableQueue0 (s : State) : State :=
  let q := { s.queueAt 0 with
    hring := 0, tail := 0, host := false, pasid := 0, log2n := 6, state := 1, ctx := 0, sstw := false, sec := 0, irq := true, vector := 16,
    torn := false, served := 0 }
  putRecord (s.setQueue 0 q) 0 0 (queueRecord q)

/-- The windows of a tier are trained, but for those that a list names. -/
def trainWindows (s : State) (lpd : Bool) (n : Nat) (failed : List Nat) : State :=
  (List.range n).foldl (fun t w => t.setWindow lpd w { t.window lpd w with trained := !failed.contains w }) s

/-! ### Register hot reset (R428) -/

/-- Every dirty line goes back to its tier, and the die caches are empty. -/
def flushCaches (s : State) : State :=
  (List.range 4).foldl (fun t d => (t.dieAt d).cache.foldl (fun u l => dropLine u d l) t) s

/-- The windows of a tier at their reset values; what training found stays. -/
def clearWindows (s : State) (lpd : Bool) (n : Nat) : State :=
  (List.range n).foldl (fun t w => t.setWindow lpd w { trained := (t.window lpd w).trained }) s

/-- The SRAM windows' contents are undefined (log 5). -/
def dropStores (s : State) : State := { s with mem := cellsDrop s.mem sramBase (sramBase + 128 * sramSize) }

/-- The hub's SRAM of the groups: the messages that wait and the serais are lost, whose flits are freed (09_route R278, R279); the
link's own counts stay with the physical layer. -/
def dropGroups (s : State) : State :=
  (List.range 3).foldl (fun t g =>
    let x := t.groupAt g
    x.serai.foldl (fun u m => freeFlits u g m.vc.val (msgFlits m)) (t.setGroup g { x with waiting := [], serai := [] })) s

/-- HOT of HUB_RST_CTL (R428 steps 1 to 3): the ring's partners hear of it, the caches are written back, and the units in scope
are reset. Nothing happens in the fault hold or where no verified firmware runs. -/
def hotResetStart (s : State) : State :=
  if s.power.state = 7 ∨ s.power.state = 4 ∨ s.trust.stage ≠ 3 ∨ s.power.hotReset then s
  else
    let t := if s.ring.state = 2 then
        ([0, 1] : List Nat).foldl (fun u g => send u g (abortMessage u true 0 s.time)) (dropGroups s)
      else dropGroups s
    let t := dropStores (flushCaches t)
    let t := clearWindows (clearWindows t false 32) true 16
    let t := resetUnits t
    { t with
      pcie := { t.pcie with bar2 := [] }
      sync := { t.sync with synced := false, goodRun := 0 }, power := { t.power with
      target := 0, busy := true, phase := 0, idleUs := 50, groupPll := 0, diePll := 0, starting := [],
      moving := none, hotReset := true, causeHot := true, noBinding := false, selfRefresh := true } }

/-- REGISTER_HOT_RESET_COMPLETE (R428 steps 4 and 5). The part is then in Run (log 67). -/
def hotResetEnd (s : State) : State :=
  let t := formSets (formSets (s.modPower fun x => { x with phase := 2 }) false 0xFFFFFFFF) true 0xFFFF
  let t := enableQueue0 (placeQueue0 (firmwareDefaults t))
  let t := { t with power := { t.power with state := 0, hotReset := false, busy := false, phase := 2, selfRefresh := false } }
  drainLatch (raiseVector t 1)

/-! ### The fault hold (R425) -/

/-- A record of a supply or thermal event (16_counters R461). -/
def powerRec (s : State) (code : Code) (unit start stop reading : Nat) : LogRec :=
  { plainRec s 6 unit code with detail := (natLe 8 start ++ natLe 8 stop ++ natLe 2 reading).map BitVec.toNat }

/-- R459 of 16_counters: a snapshot that is armed and not yet taken is cancelled, with REFUSED set. -/
def refuseSnapshot (s : State) : State :=
  if s.snap.armed.isSome && !s.snap.taken then { s with snap := { s.snap with armed := none, refused := true } } else s

/-- The part enters the fault hold with a code; a transition in progress ends there. -/
def faultHold (s : State) (code : Code) : State :=
  let t := reportAer (refuseSnapshot s) "Uncorrectable Internal Error"
  { t with
    power := { t.power with
      state := 7, busy := false, hotReset := false, moving := none, code, groupPll := 0, diePll := 0, hubPll := false, starting := [],
      selfRefresh := true } }

end Sys2Proof.Machine
end

