-- ==== Sys2Proof/Machine/Streams.lean ====
section
/-! DEFINITION. Streams: descriptors, arming, fetch-ahead, writes and messages, cancellation, the serai drain, COPY, GATHER
and SCATTER, and the writes of semaphore registers (10_streams R304 to R330). -/

namespace Sys2Proof.Machine

/-! ### The checks of a descriptor (R319) -/

/-- The local store of an EC, at the beginning of its SRAM window (02_package R48). -/
def localSize : Nat := 0x800000

/-- R319, R327: the fields, ranges, alignments and deadline mode of a descriptor on unit `u`. -/
def descriptorOk (u : Nat) (w : List Byte) : Bool :=
  let k := dKind w
  let pairOk := fun (p : BitVec 16) => !p.getLsbD 14 && !p.getLsbD 6
  let indexed := k == 1 || k == 2
  topClear w 0x00 && topClear w 0x08 && topClear w 0x38 && decide (field w 0x26 1 < 7) && decide (field w 0x27 1 < 4) &&
  pairOk (dSema w) && pairOk (dWsem w) && decide (field w 0x37 1 < 8) &&
  decide (64 ≤ dTileBytes w) && decide (dTileBytes w ≤ 131072) && dTileBytes w % 64 == 0 &&
  decide (1 ≤ dTiles w) && decide (dTiles w ≤ 2 ^ 31) && dSstride w % 64 == 0 && dDstride w % 64 == 0 &&
  dIdx w % 64 == 0 && (indexed || dIdx w == 0) &&
  (dAbsolute w || (decide (1 ≤ dDeadline w) && decide (dDeadline w < 2 ^ 32) && !semNone (dSema w) && k != 3 && k != 4 && k != 5)) &&
  (k != 3 || field w 0x36 1 == 0x19 || field w 0x36 1 == 0x1A) &&
  (k != 5 || (decide (128 ≤ u) && decide (u < 130))) &&
  (k != 6 || (decide (u < 128) && regionOf (dSrc w) == .sram u &&
    (match regionOf (dDst w) with | .sram e => decide (e ≠ u ∧ ecDie e = ecDie u) | _ => false) &&
    decide (dSrc w % sramSize < localSize) && decide (dDst w % sramSize < localSize)))

/-- R319: SEMA, WSEM and the addresses lie in the resources of partition `p`. -/
def descriptorInside (s : State) (p : Nat) (w : List Byte) : Bool :=
  let k := dKind w
  (semNone (dSema w) || partHasEc s p (semEc (dSema w))) && (semNone (dWsem w) || partHasEc s p (semEc (dWsem w))) &&
  (k == 5 || partHasAddr s p (dSrc w)) && (k == 3 || k == 4 || partHasAddr s p (dDst w)) &&
  ((k != 1 && k != 2) || partHasAddr s p (dIdx w))

/-! ### Owners (R323) -/

/-- The owner of a stream or of an increase that steward `st` causes by a register write. -/
def stewardOwner (s : State) (st : Fin 264) : Owner :=
  if (s.stewardAt st.val).pl.toNat ≥ 2 then .nobody
  else
    match stewardCtx s st with
    | none => .nobody
    | some c =>
      if decide (st.val < 256) && (tabGet {} (s.ecAt (st.val / 2)).tasks (st.val % 2)).active then .task st else .context c

/-- The owner that an agent's register write gives. -/
def agentOwner (s : State) (who : Agent) : Owner := match who with | .steward st => stewardOwner s st | _ => .nobody

/-! ### Ends of streams (R317, R318, R320) -/

/-- The command that a slot runs for ends with it: TILES written, STATUS from CODE. -/
def endCommand (s : State) (x : Slot) (code : Code) : State :=
  match x.command with
  | none => s
  | some (port, acc) =>
    match macroAt s port.val acc with
    | none => s
    | some r =>
      let r := if code = 0 then r else macroFault s r code
      setMacro s port.val { r with tiles := x.written, finished := true }

/-- A stream ends in a state with a code. -/
def endSlot (s : State) (u i st : Nat) (code : Code) : State :=
  let x := s.slotAt u i
  endCommand (s.setSlot u i { dropData x with state := BitVec.ofNat 3 st, code, command := none }) x code

/-- A memory fault of a stream: its task aborts; a stream of no task ends alone (R323). An access to a window under HOLD waits. -/
def slotFault (s : State) (u i : Nat) (e : MemErr) : State :=
  if e.1 = codeHeld then s
  else
    let x := s.slotAt u i
    let t := memoryFault s x.owner e.1 e.2
    if (ownerCtx s x.owner).isSome then t else endSlot (t.setSlot u i { t.slotAt u i with pend := false }) u i 6 e.1

/-! ### Arming (R319 to R321) -/

/-- An arm is applied: the descriptor at `a` is read and checked; a fault of the checks is logged. -/
def applyArm (s : State) (u i : Nat) (owner : Owner) (command : Option (Fin 5 × Nat)) (a : Nat) : State :=
  let x : Slot := { s.slotAt u i with
    pend := false, owner, pendOwner := .nobody, command, code := 0, ending := none, issued := 0, landed := [], written := 0, performed := 0,
    armedAt := s.time, sent := [], unacked := [], writeAcks := [] }
  let q := slotReq s x
  let fault := fun (t : State) (code : Code) => endSlot (logWrite (t.setSlot u i x) (faultRec t owner code a)) u i 6 code
  match uReadUse s { q with waits := false } a 64 with
  | .error e =>
    if e.1 = 0x4004 ∨ e.1 = 0x4005 then fault s 0x4005 else slotFault (s.setSlot u i { x with state := 1 }) u i e
  | .ok (w, s) =>
    if !descriptorOk u w then fault s 0x4006
    else if (match q.part with | some p => !descriptorInside s p w | none => false) then fault s 0x4005
    else s.setSlot u i { x with state := 1, desc := w, releasedBefore := tabGet 0 (s.ecAt (semEc (dSema w))).released (semNum (dSema w)) }

/-- The descriptor address of a slot's registers. -/
def slotAddr (x : Slot) : Nat := x.addrHi.toNat * 2 ^ 32 + x.addrLo.toNat * 64

/-- A slot that an arm finds free. -/
def slotFree (x : Slot) : Bool := x.state == 0 || x.state == 4 || x.state == 5 || x.state == 6

/-- ARM. -/
def slotArm (s : State) (u i : Nat) (owner : Owner) : State :=
  let x := s.slotAt u i
  if slotFree x then applyArm s u i owner none (slotAddr x)
  else if !x.pend then s.setSlot u i { x with pend := true, pendOwner := owner }
  else logWrite (s.setSlot u i { x with code := 0x4008 }) (faultRec s owner 0x4008 (slotAddr x))

/-! ### Cancelling (R320, R322) -/

/-- CANCEL. While CANCELLING, `landed` keeps the reads that have returned, without their data; tiles whose messages had not begun are dropped
with them. -/
def slotCancel (s : State) (u i : Nat) : State :=
  let x := s.slotAt u i
  if x.state = 1 then endSlot (s.setSlot u i { x with pend := false }) u i 5 x.code
  else if x.state = 2 then
    let gone := unbegunOf s u i
    let w := x.written - tilesOf gone
    let kept := fun (l : List MsgId) => l.filter fun q => !(gone.any fun e => e.2 == q)
    (recallMessages s u i).setSlot u i { x with
      state := 3, pend := false, written := w, performed := min x.performed w, unacked := kept x.unacked, writeAcks := kept x.writeAcks,
      landed := (between w x.written).map (fun t => (t, [])) ++ (dropData x).landed }
  else if x.state = 3 then s.setSlot u i { x with pend := false }
  else s

/-- ST_CTLs: CANCEL first, then ARM (R305). -/
def stCtlWrite (s : State) (u i : Nat) (owner : Owner) (v : Reg32) : State :=
  let t := if v.getLsbD 30 then slotCancel s u i else s
  if v.getLsbD 31 then slotArm t u i owner else t

/-! ### Semaphores of a stream (R308, R309, R311, R312) -/

/-- One acquisition by slot `i` of unit `u` on a pair field; a field with NONE needs none. The pair's own stewards come first, then its EC's
slots in increasing number, and then the others (R311; log 74). -/
def semTake (s : State) (u i : Nat) (p : BitVec 16) (free : Bool) : Option State :=
  let e := semEc p
  let n := semNum p
  if semNone p then some s
  else if (ownStewardWaits s e n free).isSome then none
  else if (match slotWants s e n free with | some j => !(u == e && decide (i ≤ j)) | none => false) then none
  else if u != e && otherStewardWaits s e n free then none
  else pairTake s e n free

/-- An increase that overflows is a fault of its task; without a task it is only logged (R312). -/
def overflowed (s : State) (owner : Owner) (r : State × Bool) : State :=
  if !r.2 then r.1 else memoryFault r.1 (if (ownerCtx s owner).isSome then owner else .nobody) 0x4009 0

/-- One increase of a pair field by a stream. -/
def semGive (s : State) (owner : Owner) (p : BitVec 16) (free : Bool) : State :=
  if semNone p then s else overflowed s owner (pairIncrease s (semEc p) (semNum p) free 1)

/-! ### Admission (R310, R314 to R316) -/

/-- Bytes of the fetch buffer that the streams of a unit have reserved. -/
def reserved (s : State) (u : Nat) : Nat :=
  ((List.range 64).map fun i =>
    let x := s.slotAt u i
    if x.state = 2 ∨ x.state = 3 then 4 * dTileBytes x.desc else 0).sum

/-- No other waiting stream of the unit comes before slot `i`. -/
def firstInDeadline (s : State) (u i : Nat) : Bool :=
  let d := slotDeadline s (s.slotAt u i)
  (List.range 64).all fun j =>
    let y := s.slotAt u j
    j == i || y.state != 1 || decide (d < slotDeadline s y) || (d == slotDeadline s y && decide (i < j))

/-- STREAM_RUN. -/
def execStreamRun (unit : Fin 131) (slot : Fin 64) (s : State) : Answer := whileClocked s <|
  let x := s.slotAt unit.val slot.val
  whenEnabled (unitClocked s unit.val && x.state == 1 && decide (reserved s unit.val + 4 * dTileBytes x.desc ≤ 524288) && firstInDeadline s unit.val slot.val)
    s (s.setSlot unit.val slot.val { x with state := 2 })

/-! ### Reads (R307, R308) -/

/-- A link stream unit counts a cycle of waiting (R332): 0 credits, 3 HBM3E, 6 LPDDR5X. -/
def countLinkWait (s : State) (u base : Nat) : State := if 128 ≤ u then bumpLink s (base + (u - 128)) else s

/-- A link stream unit that waits on an address counts under its tier (R332; 02_package R38). -/
def countTier (s : State) (u a : Nat) : State :=
  match regionOf a with
  | .hbm _ => countLinkWait s u 3
  | .lpd _ => countLinkWait s u 6
  | _ => s

/-- A unit that waits at a window under HOLD counts under its tier (02_package R38); the wait for a PLL is no stall (14_power R413). -/
def countWait (s : State) (u a : Nat) : State := if tierHeld s a then countTier s u a else s

/-- A message held back for lack of credits counts as link credit: in the link stream unit, or in the EC (09_route R278). -/
def countCredit (s : State) (u : Nat) : State := if 128 ≤ u then countLinkWait s u 0 else bumpEc s u cntStallCredit

/-- The next read of a stream would be a new access to a window under HOLD: the address. -/
def heldRead (s : State) (x : Slot) : Option Nat :=
  let q := slotReq s x
  match (do let a ← tileSource s q x.desc x.issued; pure (heldFault s q a (dTileBytes x.desc)) : Got (Option MemErr)) with
  | .ok (some e) => some e.2
  | .ok none => none
  | .error e => if e.1 = codeHeld then some e.2 else none

/-- STREAM_TILE_READ: the next tile in order, at most four past the first unwritten one. -/
def execStreamTileRead (unit : Fin 131) (slot : Fin 64) (s : State) : Answer := whileClocked s <|
  let x := s.slotAt unit.val slot.val
  if x.state = 2 ∧ dKind x.desc ≠ 5 ∧ !unitHeld s unit.val ∧ x.issued < dTiles x.desc ∧ x.issued < x.written + 4 then
    match heldRead s x with
    | some a => .next (countWait s unit.val a)
    | none =>
      match semTake s unit.val slot.val (dWsem x.desc) false with
      | none => .next (countDrgWait s unit.val (dWsem x.desc))
      | some t => .next (t.setSlot unit.val slot.val { x with issued := x.issued + 1 })
  else .next s

/-- The read of a tile that returns: it was issued before, so no window under HOLD stops it (02_package R38). -/
def readTile (s : State) (x : Slot) (t : Nat) : Got (List Byte × State) := do
  let q := { slotReq s x with waits := false }
  let a ← tileSource s q x.desc t
  uReadUse s q a (dTileBytes x.desc)

/-- The read of a tile returns to a stream in RUN. -/
def tileLands (s : State) (u i t : Nat) (x : Slot) : State :=
  match readTile s x t with
  | .error e => slotFault s u i e
  | .ok r => semGive (r.2.setSlot u i { x with landed := tabSet x.landed t r.1 }) x.owner (dWsem x.desc) true

/-- The read of a tile returns to a cancelled or aborted stream: its data is dropped, and a fault is only logged (R322, R325). -/
def tileDropped (s : State) (u i t : Nat) (x : Slot) : State :=
  let y := fun (v : State) => v.setSlot u i { x with landed := tabSet x.landed t [] }
  match readTile s x t with
  | .error e => logWrite (y s) (faultRec s x.owner e.1 e.2)
  | .ok r => y r.2

/-- STREAM_READ_DONE. -/
def execStreamReadDone (unit : Fin 131) (slot : Fin 64) (tile : Nat) (s : State) : Answer := whileClocked s <|
  let x := s.slotAt unit.val slot.val
  if tile < x.issued ∧ x.written ≤ tile ∧ !hasLanded x tile ∧ dKind x.desc ≠ 5 then
    if x.state = 2 then .next (tileLands s unit.val slot.val tile x)
    else if x.state = 3 ∨ x.state = 6 ∨ x.state = 0 then .next (tileDropped s unit.val slot.val tile x)
    else .next s
  else .next s

/-! ### Writes and messages (R307, R309; 09_route R274 to R278) -/

/-- The message of tile `t` of a KIND 3 stream. -/
def tileMessage (s : State) (g : Nat) (w : List Byte) (t : Nat) (bs : List Byte) : Message :=
  let type := field w 0x36 1
  { withBody (newMessage s type (if type = 0x19 then 6 else 7) (decide (g < 2)) (BitVec.ofNat 16 (field w 0x34 2)) 0 []) (dDst w + t * dDstride w) bs with
      dpart := ⟨field w 0x37 1 % 8, Nat.mod_lt _ (by decide)⟩ }

/-- Where no caravan is declared, a tile of a KIND 4 stream is one bale whose entry the manual leaves open: free values (log 38). -/
def freeBale (s : State) (bs : List Byte) : Message × State :=
  let a := drawFree s
  let b := drawFree a.2
  let c := drawFree b.2
  (baleMessage c.2 [((a.1.toNat % 2 ^ 32, b.1.toNat % 2 ^ 16, c.1.toNat % 2 ^ 32), bs)], c.2)

/-- The messages of the next tile of a KIND 3 or a KIND 4 stream with their groups; none where a KIND 4 stream waits. -/
def tileMessages (s : State) (u : Nat) (x : Slot) (bs : List Byte) : Got (Option (List (Nat × Message)) × State) := do
  let w := x.desc
  let q := slotReq s x
  if dKind w = 3 then return (some [(unitGroup u, tileMessage s (unitGroup u) w x.written bs)], s)
  else
    match caravanDecl s with
    | none => let m := freeBale s bs; return (some [(downGroup s, m.1)], m.2)
    | some d =>
      let a ← tileSource s q w x.written
      let l ← forwardTile s q d x.written (if dDst w = 0 then 0 else (dDst w + x.written * dDstride w) % 2 ^ 48) a bs
      return (l, s)

/-- A KIND 4 stream of another slot has bales left to forward. -/
def othersForward (s : State) (u i : Nat) : Bool :=
  s.slots.any fun e => e.1 != u * 64 + i && (e.2.state == 1 || e.2.state == 2) && dKind e.2.desc == 4 && dDst e.2.desc == 0 &&
    decide (e.2.written < dTiles e.2.desc)

/-- The last tile of the last stream that forwards bales ends the hop with HOP_END (R276; log 38). -/
def endHop (s : State) (u i : Nat) (x : Slot) : State :=
  if dKind x.desc = 4 ∧ dDst x.desc = 0 ∧ x.written + 1 = dTiles x.desc ∧ (1 ≤ hopNow s ∨ (caravanDecl s).isNone) ∧ !othersForward s u i then
    send s (downGroup s) (hopEndMessage s)
  else s

/-- The messages of a tile are sent with the deadline of their stream (R315). -/
def sendAll (s : State) (u i : Nat) (x : Slot) (l : List (Nat × Message)) : State × List MsgId :=
  l.foldl (fun st e =>
    let r := sendMessage st.1 e.1 { msg := e.2, deadline := slotDeadline s x, unit := u, slot := i, tile := x.written }
    (r.1, st.2 ++ [r.2])) (s, [])

/-- A tile whose messages may start; a tile of a KIND 4 stream that holds nothing to carry has none. -/
def sendTile (s : State) (u i : Nat) (x : Slot) (bs : List Byte) (l : List (Nat × Message)) : State :=
  let r := sendAll s u i x l
  let acks := r.2.filter fun q => dKind x.desc == 3 && q.vc == 7
  let t := r.1.setSlot u i { x with
    written := x.written + 1, landed := x.landed.filter (fun e => e.1 != x.written), sent := x.sent ++ r.2, unacked := x.unacked ++ r.2,
    writeAcks := x.writeAcks ++ acks }
  if dKind x.desc = 4 then endHop (noteForwarded t bs.length l r.2) u i x else t

/-- The messages of a tile may start now. -/
def canSendAll (s : State) (u i : Nat) (x : Slot) (l : List (Nat × Message)) : Bool :=
  let flits := (l.map fun e => msgFlits e.2).sum
  l.all fun e => canSend s e.1 e.2.vc.val flits (slotDeadline s x) u i

/-- A tile of a stream that writes memory. -/
def writeTile (s : State) (u i : Nat) (x : Slot) (bs : List Byte) : Got State := do
  let q := { slotReq s x with noAllocate := dNoAlloc x.desc }
  let a ← tileDest s q x.desc x.written
  let t ← uWrite s q a bs
  return t.setSlot u i { x with written := x.written + 1, landed := x.landed.filter fun e => e.1 != x.written }

/-- A landed tile of a stream that sends messages. -/
def trySend (s : State) (u i : Nat) (x : Slot) (bs : List Byte) : State :=
  match tileMessages s u x bs with
  | .error e => slotFault s u i e
  | .ok (none, _) => s
  | .ok (some l, t) =>
    if !canSendAll t u i x l then countCredit s u
    else
      match semTake t u i (dSema x.desc) true with
      | none => s
      | some v => sendTile v u i x bs l

/-- A landed tile of a stream that writes memory; one whose destination lies in a window under HOLD waits. -/
def tryWrite (s : State) (u i : Nat) (x : Slot) (bs : List Byte) : State :=
  match semTake s u i (dSema x.desc) true with
  | none => s
  | some t =>
    match writeTile t u i x bs with
    | .ok v => v
    | .error e => if e.1 = codeHeld then countWait s u e.2 else slotFault t u i e

/-- A tile that waits for its read counts under its tier (R332). -/
def countLate (s : State) (u : Nat) (x : Slot) : State :=
  match tileSource s { slotReq s x with waits := false } x.desc x.written with
  | .error _ => s
  | .ok a => countTier s u a

/-- STREAM_TILE_WRITE. -/
def execStreamTileWrite (unit : Fin 131) (slot : Fin 64) (s : State) : Answer := whileClocked s <|
  let u := unit.val
  let x := s.slotAt u slot.val
  let k := dKind x.desc
  if x.state ≠ 2 ∨ k = 5 ∨ dTiles x.desc ≤ x.written then .next s
  else
    match x.landed.find? fun e => e.1 == x.written with
    | none => .next (if x.written < x.issued then countLate s u x else s)
    | some e => .next (if k = 3 ∨ k = 4 then trySend s u slot.val x e.2 else tryWrite s u slot.val x e.2)

/-- STREAM_TILE_PERFORMED. -/
def execStreamTilePerformed (unit : Fin 131) (slot : Fin 64) (s : State) : Answer := whileClocked s <|
  let x := s.slotAt unit.val slot.val
  whenEnabled ((x.state == 2 || x.state == 3) && decide (x.performed < x.written)) s
    (semGive (s.setSlot unit.val slot.val { x with performed := x.performed + 1 }) x.owner (dSema x.desc) false)

/-- A pending re-arm is applied (R321). -/
def applyPending (s : State) (u i : Nat) : State :=
  let x := s.slotAt u i
  if x.pend then applyArm s u i x.pendOwner none (slotAddr x) else s

/-- STREAM_DONE (R318). -/
def execStreamDone (unit : Fin 131) (slot : Fin 64) (s : State) : Answer := whileClocked s <|
  let x := s.slotAt unit.val slot.val
  whenEnabled (x.state == 2 && x.written == dTiles x.desc && x.performed == x.written && x.unacked.isEmpty && x.writeAcks.isEmpty) s
    (applyPending (endSlot s unit.val slot.val 4 0) unit.val slot.val)

/-- STREAM_CANCEL_COMPLETE (R322): the writes and messages begun have ended and every read has returned; a stream of an aborted task ends in
FAULT, and its re-arm is discarded (R321, R324). -/
def execStreamCancelComplete (unit : Fin 131) (slot : Fin 64) (s : State) : Answer := whileClocked s <|
  let x := s.slotAt unit.val slot.val
  whenEnabled (x.state == 3 && cancelEnded s unit.val slot.val x) s
    (match x.ending with
     | none => applyPending (endSlot s unit.val slot.val 5 x.code) unit.val slot.val
     | some c => s.setSlot unit.val slot.val { x with state := 6, pend := false, code := c, ending := none })

/-! ### The serai drain (R304, R306; 07_kv R232; 09_route R276, R279, R299) -/

/-- The drain stream of a ring group: of those in RUN with a tile left, the one with the smallest deadline, then the lowest slot (log 39). -/
def drainSlot (s : State) (g : Nat) : Option Nat :=
  ((List.range 64).filter fun i =>
    let x := s.slotAt (128 + g) i
    x.state == 2 && dKind x.desc == 5 && decide (x.written < dTiles x.desc)).foldl (fun o i =>
      match o with
      | none => some i
      | some j => if slotDeadline s (s.slotAt (128 + g) i) < slotDeadline s (s.slotAt (128 + g) j) then some i else some j) none

/-- A tile of a drain acquires a FILL of WSEM and a FREE of SEMA, and gives the FREE of WSEM (R308, R309). -/
def drainTake (s : State) (u i : Nat) : Option State := do
  let x := s.slotAt u i
  let t ← semTake s u i (dWsem x.desc) false
  let v ← semTake t u i (dSema x.desc) true
  some (semGive v x.owner (dWsem x.desc) true)

/-- A drain's next tile takes its pairs and does `f`; none where it waits for a pair. -/
def drainTile (s : State) (u i : Nat) (f : State → Req → Slot → Got State) : Got (Option State) :=
  match drainTake s u i with
  | none => .ok none
  | some t =>
    let x := t.slotAt u i
    (f t (slotReq t x) x).map fun v => some (v.setSlot u i { x with written := x.written + 1 })

/-- The entries of a BALE message's head payload: SEQ, CHAIN, bale number. -/
def baleEntries : List Nat → List BaleName
  | a :: b :: c :: r => (a, b, c) :: baleEntries r
  | _ => []

/-- The bales of a BALE message, one tile each, land in the caravan area. -/
def drainBales (s : State) (u i hop size : Nat) : List BaleName → List Byte → Got (Option State)
  | [], _ => .ok (some s)
  | b :: l, body => do
    let r ← drainTile s u i fun t q x => do
      let a ← tileDest t q x.desc x.written
      let v ← uWrite t q a ((body.take size).take (dTileBytes x.desc))
      landBale v q hop a b
    match r with
    | none => return none
    | some t => drainBales t u i hop size l (body.drop size)

/-- A message leaves the serai, and its flits are free. -/
def leaveSerai (s : State) (g k : Nat) (m : Message) : State :=
  let x := s.groupAt g
  freeFlits (s.setGroup g { x with serai := x.serai.eraseIdx k }) g m.vc.val (msgFlits m)

/-- Survey records go into the survey table of their origin, or, where none is declared, to the drain's destination (R279). -/
def drainSurvey (s : State) (u i : Nat) (m : Message) : Got (Option State) :=
  drainTile s u i fun t q x =>
    let body := m.body.take m.plen
    let o := m.head.headD 0
    match (caravanDecl t).filter fun d => d.surveys.any fun e => e.1 == o with
    | some d => putSurveys t q d o (m.head.getD 1 0) body
    | none => do
      let a ← tileDest t q x.desc x.written
      uWrite t q a (body.take (dTileBytes x.desc))

/-- A GRAD block: written at ADDR by its origin, or sent on upstream unchanged with the deadline of the forwarding stream (R299). -/
def drainGrad (s : State) (u i : Nat) (m : Message) : Got (Option State) :=
  if m.dst = ownLoc s then drainTile s u i fun t q _ => uWrite t q m.addr.toNat (m.body.take m.plen)
  else
    let deadline := match caravanDecl s with
      | some d => s.ring.released.toNat + d.stepCt
      | none => slotDeadline s (s.slotAt u i)
    .ok (some (passMessage s (upGroup s) { msg := m, deadline }))

/-- What a drain stream does with a message of the serai. -/
def drainMessage (s : State) (u i : Nat) (m : Message) : Got (Option State) :=
  match m.vc.val with
  | 2 =>
    let es := baleEntries (m.head.drop 1)
    if dTiles (s.slotAt u i).desc < (s.slotAt u i).written + es.length then .ok none
    else drainBales s u i m.step.toNat (m.body.length / max 1 es.length) es m.body
  | 3 => drainSurvey s u i m
  | _ => drainGrad s u i m

/-- SERAI_DRAIN: the drain stream of the group takes one whole message; BALE_ACK follows a BALE message. -/
def execSeraiDrain (group : Fin 2) (msgIndex : Nat) (s : State) : Answer := whileClocked s <|
  let g := group.val
  let u := 128 + g
  match (s.groupAt g).serai[msgIndex]?, drainSlot s g with
  | some m, some i =>
    match drainMessage s u i m with
    | .error e => .next (if e.1 = codeHeld then countWait s u e.2 else slotFault s u i e)
    | .ok none => .next s
    | .ok (some t) =>
      let t := leaveSerai t g msgIndex m
      .next (if m.vc = 2 then send t g (newMessage t 0x0B 1 true 0 0 [m.step.toNat, m.seq.toNat]) else t)
  | _, _ => .next s

/-! ### COPY, GATHER and SCATTER (R317) -/

/-- The unit that a stream command names. -/
def commandUnit (port : Nat) (r : MacroRec) : Nat := if port < 4 then r.issuer.val / 2 else (crewUnits 4 r.word).headD 128

/-- The slot that a stream command names or finds; none where it is not free. -/
def commandSlot (s : State) (u : Nat) (w : List Byte) : Option Nat :=
  let n := field w 0x1A 1
  if n = 0xFF then (List.range 64).find? fun i => slotFree (s.slotAt u i)
  else if n < 64 ∧ slotFree (s.slotAt u n) then some n else none

/-- A stream command that has started arms its slot, or completes at once. -/
def runStream (port : Fin 5) (acc op kind : Nat) (s : State) : Answer :=
  match macroAt s port.val acc with
  | none => .next s
  | some r =>
    if wOpcode r.word ≠ op ∨ !r.armed ∨ r.finished ∨ r.slot.isSome ∨ r.joined = [] then .next s
    else
      let u := commandUnit port.val r
      let a := (wDtab r.word + 64 * field r.word 0x18 2) % 2 ^ 48
      match commandSlot s u r.word with
      | none => .next (logCommand (setMacro s port.val { macroFault s r 0x4008 with finished := true }) port.val r 0x4008)
      | some i =>
        match uRead s (reqOf s r) a 64 with
        | .ok d =>
          if dKind d ≠ kind then .next (logCommand (setMacro s port.val { macroFault s r 0x2001 with finished := true }) port.val r 0x2001)
          else
            let t := setMacro s port.val { r with slot := some (⟨u % 131, Nat.mod_lt u (by decide)⟩, ⟨i % 64, Nat.mod_lt i (by decide)⟩) }
            .next (applyArm t u i (.task r.issuer) (some (port, acc)) a)
        | .error e => .next (commandError s port.val r e)

/-- COPY. -/
def execCopy (port : Fin 5) (acc : Nat) (s : State) : Answer := whileClocked s <| runStream port acc 0x12 0 s
/-- GATHER. -/
def execGather (port : Fin 5) (acc : Nat) (s : State) : Answer := whileClocked s <| runStream port acc 0x10 1 s
/-- SCATTER. -/
def execScatter (port : Fin 5) (acc : Nat) (s : State) : Answer := whileClocked s <| runStream port acc 0x11 2 s

/-! ### Semaphore registers (R311, R312) -/

/-- EC_SEMA_CTL: OVF is cleared by writing one; OP 0 signals and 1 releases ADD on PAIR. -/
def semaCtlWrite (s : State) (e : Nat) (owner : Owner) (v : Reg32) : State :=
  let t := if v.getLsbD 31 then s.modEc e fun c => { c with overflow := false } else s
  let op := v.extractLsb' 22 2
  let add := (v.extractLsb' 0 16).toNat
  if add = 0 ∨ 2 ≤ op.toNat then t
  else
    let o := match owner with | .task st => Owner.task st | _ => .nobody
    overflowed t o (pairIncrease t e (v.extractLsb' 16 6).toNat (op == 1) add)

/-- EC_SEMA_VALn. -/
def semaValWrite (s : State) (e n : Nat) (v : Reg32) : State :=
  s.modEc e fun c => { c with pairs := tabSet c.pairs n (v.extractLsb' 0 16, v.extractLsb' 16 16) }

end Sys2Proof.Machine
end

