-- ==== Sys2Proof/Machine/Power.lean ====
section
/-! DEFINITION. Power states, supply and thermal monitoring, compute clocks, and the power-on sequence (14_power R413 to R432). -/

namespace Sys2Proof.Machine

/-! ### Power states (R415 to R421) -/

/-- R416: a GO to a target is refused. -/
def goRefused (s : State) (t : Nat) : Bool :=
  let x := s.power
  let off := x.state == 4
  x.busy || x.hotReset || decide (4 < t) || x.state == 7 || (!off && x.phase != 2) || (off && t != 0) ||
    (decide (0 < t) && s.ring.task.isSome) || (t == 0 && (x.sEmerg || x.tEmerg))

/-- Every RUN context is asked to yield; no further context binds (R418, R432). -/
def stopBinding (s : State) : State :=
  (List.finRange 64).foldl (fun t c => requestYield t c none) (s.modPower fun x => { x with noBinding := true })

/-- A GO to TARGET (R416, R417). -/
def powerGo (s : State) (t : Nat) : State :=
  if goRefused s t then s.modPower fun x => { x with code := 0x6006 }
  else if t = s.power.state.toNat then s.modPower fun x => { x with code := 0 }
  else
    let u := if 2 ≤ t then refuseSnapshot s else s
    let next : Option (BitVec 3) := if s.power.state = 4 then none else some (BitVec.ofNat 3 t)
    let u := u.modPower fun x => { x with busy := true, moving := next, pwrEn := true }
    if s.power.state = 0 then stopBinding u else u

/-- R424: a supply warning or a thermal emergency condition still holds. -/
def emergencyHolds (s : State) : Bool :=
  s.power.warn != 0 || (s.power.tEmerg && decide (s.power.thermEmerg.toNat < s.power.maxTemp.toNat + 3))

/-- RESUME (R424); refused in the fault hold (R425). -/
def powerResume (s : State) : State :=
  if s.power.state = 7 ∨ emergencyHolds s then s.modPower fun x => { x with code := 0x6006 }
  else s.modPower fun x => { x with sEmerg := false, tEmerg := false }

/-- HUB_PWR_CTL; with both bits set RESUME acts first (log 50). -/
def pwrCtlWrite (s : State) (v : Reg32) : State :=
  let t := s.modPower fun x => { x with target := v.extractLsb' 0 3 }
  let t := if v.getLsbD 30 then powerResume t else t
  if v.getLsbD 31 then powerGo t (v.extractLsb' 0 3).toNat else t

/-- Every context is READY, IDLE, FAULTED or FREE (R418). -/
def contextsSettled (s : State) : Bool :=
  (List.finRange 64).all fun c => let n := (s.ctxAt c.val).state; n != 3 && n != 4 && n != 5

/-- Entry to Idle: every core PLL but the hub's stops. -/
def enterIdle (s : State) : State := s.modPower fun x => { x with groupPll := 0, diePll := 0, starting := [] }

/-- Entry to Nap: both tiers go into self-refresh, the stores are retained, and a die PLL that ran on demand in Idle stops. -/
def enterNap (s : State) : State := s.modPower fun x => { x with selfRefresh := true, diePll := 0, starting := [] }

/-- A die's unit registers as Doze leaves them: way masks and limits restored by firmware, the rest at reset (R421, R429). -/
def dozeDie (d : Die) : Die := { wayMasks := d.wayMasks, wayPending := d.wayPending, drgLimits := d.drgLimits }

/-- Entry to Doze: the die caches are written back, and the compute dies lose their state (R415, R429). -/
def enterDoze (s : State) : State :=
  let t := dropStores (flushCaches s)
  { t with
    dies := t.dies.map fun d => (d.1, dozeDie d.2), ecs := t.ecs.map fun e => (e.1, { reserved := e.2.reserved }),
    stewards := t.stewards.filter fun e => decide (256 ≤ e.1), slots := t.slots.filter fun e => decide (128 * 64 ≤ e.1),
    dieBarriers := [], snap := { t.snap with shadow := t.snap.shadow.filter fun e => decide (160 * 4096 ≤ e.1) } }

/-- Entry to Off: only the always-on domain runs, and PWR_EN falls (R415, R429; 17_electrical R466). -/
def enterOff (s : State) : State := (resetAll s).modPower fun x => { x with pwrEn := false }

/-- The steps of the states from `a` (not included) down to `b`, in order. -/
def powerDown (s : State) (a b : Nat) : State :=
  (List.range 5).foldl (fun t n =>
    if a < n ∧ n ≤ b then
      match n with
      | 1 => enterIdle t | 2 => enterNap t | 3 => enterDoze t | _ => enterOff t
    else t) s

/-- The move ends: STATE, BUSY and vector 1 (R418 step 4). -/
def endMove (s : State) (t : BitVec 3) : State :=
  raiseVector (s.modPower fun x => { x with state := t, busy := false, moving := none, latchReported := false }) 1

/-- POWER_TRANSITION_COMPLETE; the exit from Off ends with the switch to full service instead (R417). With IDLE_US 0 a die PLL
that an access started in Idle runs until this change of state (R413). -/
def execPowerTransitionComplete (s : State) : Answer :=
  match s.power.moving with
  | none => .next s
  | some t =>
    let a := s.power.state.toNat
    if s.power.state = 4 ∨ !contextsSettled s then .next s
    else if a < t.toNat then .next (endMove (powerDown s a t.toNat) t)
    else
      let u := if s.power.idleUs = 0 then s.modPower fun x => { x with diePll := 0, starting := [] } else s
      let u := endMove (u.modPower fun x => { x with selfRefresh := decide (2 ≤ t.toNat) }) t
      let u := drainPosted u
      .next (if t = 0 then drainLatch (u.modPower fun x => { x with noBinding := false }) else u)

/-! ### Supply monitoring (R422 to R424) -/

/-- WARN of a rail in mV. -/
def railWarn (s : State) (n : Nat) : Nat := tabGet (if n = 5 then 760 else 705) s.power.railWarn n

/-- RESET of a rail in mV. -/
def railReset (s : State) (n : Nat) : Nat := tabGet (if n = 5 then 730 else 680) s.power.railReset n

/-- A rail is monitored: the core rails once they are up. -/
def railWatched (s : State) (n : Nat) : Bool := n == 5 || s.power.coreRails

/-- SUPPLY_WARNING_BEGIN. -/
def execSupplyWarningBegin (n : Fin 6) (mv : Nat) (s : State) : Answer :=
  let b : BitVec 6 := BitVec.ofNat 6 (2 ^ n.val)
  let t := s.modPower fun x => { x with
    warn := x.warn ||| b, dip := x.dip ||| b, railMv := tabSet x.railMv n.val mv, warnSince := tabSet x.warnSince n.val s.time }
  whenEnabled (railWatched s n.val && !s.power.warn.getLsbD n.val && decide (mv < railWarn s n.val)) s (bumpHub t (cntRailDip + n.val))

/-- SUPPLY_WARNING_END: issue resumes, and the dip is logged with its start, its end and the reading that began it. -/
def execSupplyWarningEnd (n : Fin 6) (mv : Nat) (s : State) : Answer :=
  let start := (tabGet 0 s.power.warnSince n.val).toNat
  let t := s.modPower fun x => { x with warn := x.warn &&& ~~~(BitVec.ofNat 6 (2 ^ n.val)), railMv := tabSet x.railMv n.val mv }
  whenEnabled (s.power.warn.getLsbD n.val && decide (railWarn s n.val + 10 ≤ mv)) s
    (logWrite t (powerRec t 0x6001 n.val start s.time.toNat (tabGet 0 s.power.railMv n.val)))

/-- RAIL_BELOW_RESET: a warm reset, or for VDD_AON a power-on reset; logged once the reset has acted (R423). -/
def execRailBelowReset (n : Fin 6) (mv : Nat) (s : State) : Answer :=
  if !(railWatched s n.val && decide (mv < railReset s n.val)) then .next s
  else if n.val = 5 then
    let t := powerOnReset s
    .next (logWrite t (powerRec t 0x6008 5 s.time.toNat 0 mv))
  else
    let t := warmReset (s.modPower fun x => { x with railMv := tabSet x.railMv n.val mv })
      fun x => { x with causeRail := true, railN := BitVec.ofNat 3 n.val }
    .next (logWrite t (powerRec t 0x6008 n.val s.time.toNat 0 mv))

/-- SUPPLY_EMERGENCY: a warning of a rail that holds issue has lasted 1 ms. -/
def execSupplyEmergency (n : Fin 5) (s : State) : Answer :=
  let start := (tabGet 0 s.power.warnSince n.val).toNat
  let t := s.modPower fun x => { x with sEmerg := true, code := 0x6002 }
  whenEnabled (s.power.warn.getLsbD n.val && !s.power.sEmerg && s.power.state != 7 && decide (start + 1000000 ≤ s.time.toNat)) s
    (logWrite (raiseVector t 1) (powerRec t 0x6002 n.val start 0 (tabGet 0 s.power.railMv n.val)))

/-- HUB_RAIL_CFGn: RESET above WARN − 20 is ignored and counted. -/
def railCfgWrite (s : State) (n : Nat) (v : Reg32) : State :=
  let w := (v.extractLsb' 16 16).toNat
  let r := (v.extractLsb' 0 16).toNat
  if w < r + 20 then bumpHub s cntMemCfgErr
  else s.modPower fun x => { x with railWarn := tabSet x.railWarn n w, railReset := tabSet x.railReset n r }

/-- REGISTER_HOT_RESET_COMPLETE. -/
def execRegisterHotResetComplete (s : State) : Answer := whenEnabled s.power.hotReset s (hotResetEnd s)

/-! ### Temperature (R425) -/

/-- The highest of a list of readings and its place. -/
def hottest (l : List Nat) : Nat × Nat :=
  l.zipIdx.foldl (fun b x => if b.1 < x.1 then x else b) (l.headD 0, 0)

/-- The sensors' registers after a sample. -/
def sampled (s : State) (l : List Nat) : State :=
  let h := hottest l
  s.modPower fun x => { x with temps := l, hotDie := BitVec.ofNat 3 h.2, maxTemp := BitVec.ofNat 8 (min 255 h.1) }

/-- THERMAL_SAMPLE: a level is crossed when the highest reading reaches it (log 51). -/
def execThermalSample (readings : Vector Nat 5) (s : State) : Answer :=
  let l := readings.toList
  let h := hottest l
  let t := sampled s l
  let w := s.power.thermWarn.toNat
  let t := if w ≤ h.1 ∧ !s.power.thermAbove then
      let u := t.modPower fun x => { x with thermAbove := true }
      raiseVector (logWrite u (powerRec u 0x6003 h.2 s.time.toNat 0 h.1)) 1
    else if h.1 + 3 ≤ w then t.modPower fun x => { x with thermAbove := false }
    else t
  if s.power.thermEmerg.toNat ≤ h.1 ∧ !s.power.tEmerg ∧ s.power.state ≠ 7 then
    let u := t.modPower fun x => { x with tEmerg := true, code := 0x6004 }
    .next (logWrite (raiseVector u 1) (powerRec u 0x6004 h.2 s.time.toNat 0 h.1))
  else .next t

/-- THERMAL_TRIP: a reading that reaches 115 °C. In a fault hold of another cause the trip is still recorded in TRIPPED. -/
def execThermalTrip (readings : Vector Nat 5) (s : State) : Answer :=
  let l := readings.toList
  let h := hottest l
  let t := (faultHold (sampled s l) 0x6005).modPower fun x => { x with tripped := true }
  whenEnabled (decide (115 ≤ h.1) && !(s.power.state == 7 && s.power.tripped)) s (logWrite t (powerRec t 0x6005 h.2 s.time.toNat 0 h.1))

/-- HUB_THERM_CFG: invalid levels are ignored. -/
def thermCfgWrite (s : State) (v : Reg32) : State :=
  let e := (v.extractLsb' 8 8).toNat
  let w := (v.extractLsb' 0 8).toNat
  if 110 < e ∨ e ≤ w + 5 then s else s.modPower fun x => { x with thermEmerg := v.extractLsb' 8 8, thermWarn := v.extractLsb' 0 8 }

/-! ### Compute clocks (R413, R414) -/

/-- A steward is in IDLE or halted. -/
def stewardQuiet (s : State) (st : Nat) : Bool := let x := s.stewardAt st; x.run == .idle || x.run == .halted

/-- R413: an EC has nothing to do. -/
def ecIdle (s : State) (e : Nat) : Bool :=
  let x := s.ecAt e
  stewardQuiet s (2 * e) && stewardQuiet s (2 * e + 1) && x.queue.isEmpty &&
    ((x.engineAt 0).holds.isNone && (x.engineAt 1).holds.isNone) && x.rowUnit.holds.isNone &&
    s.slots.all fun z => z.1 / 64 != e || slotFree z.2

/-- An EC group is idle. -/
def groupIdle (s : State) (g : Nat) : Bool := (List.range 8).all fun i => ecIdle s (8 * g + i)

/-- GROUP_PLL_IDLE_STOP. -/
def execGroupPllIdleStop (g : Fin 16) (s : State) : Answer :=
  whenEnabled (s.power.state == 0 && s.power.idleUs != 0 && s.power.groupPll.getLsbD g.val && groupIdle s g.val) s
    (s.modPower fun x => { x with groupPll := x.groupPll &&& ~~~(BitVec.ofNat 16 (2 ^ g.val)) })

/-- R410: no EC group of a die runs, and no walker, dragoman or stream unit of it is busy. -/
def dieQuiet (s : State) (d : Nat) : Bool :=
  let x := s.dieAt d
  (s.power.groupPll.extractLsb' (4 * d) 4) == 0 && !x.invBusy && x.drgJobs.isEmpty && x.drgCommands.isEmpty &&
    s.slots.all fun z => z.1 / 2048 != d || slotFree z.2

/-- DIE_PLL_IDLE_STOP. -/
def execDiePllIdleStop (die : Fin 4) (s : State) : Answer :=
  whenEnabled ((s.power.state == 0 || s.power.state == 1) && s.power.idleUs != 0 && s.power.diePll.getLsbD die.val && dieQuiet s die.val) s
    (s.modPower fun x => { x with diePll := x.diePll &&& ~~~(BitVec.ofNat 4 (2 ^ die.val)) })

/-- A PLL that does not run begins to start. -/
def startPll (s : State) (p : Nat) : State :=
  if pllRuns s p || s.power.starting.any fun e => e.1 == p then s else s.modPower fun x => { x with starting := tabSet x.starting p 0 }

/-- PLL_WAKE: a group in Run, with its die; a die in Run and Idle. -/
def execPllWake (pll : Fin 21) (s : State) : Answer :=
  let n := s.power.state
  if pll.val < 16 then whenEnabled (n == 0 && s.power.hubPll) s (startPll (startPll s pll.val) (16 + pll.val / 4))
  else whenEnabled (decide (pll.val < 20) && (n == 0 || n == 1) && s.power.hubPll) s (startPll s pll.val)

/-- The stewards of a group whose PLL has locked take the events that came while it stood (R413). -/
def wakeGroup (s : State) (g : Nat) : State := (List.range 16).foldl (fun t i => wakeIdle t (16 * g + i)) s

/-- PLL_LOCK. -/
def execPllLock (pll : Fin 21) (s : State) : Answer :=
  let p := pll.val
  let t := s.modPower fun x => { x with
    starting := tabErase x.starting p
    groupPll := if p < 16 then x.groupPll ||| BitVec.ofNat 16 (2 ^ p) else x.groupPll
    diePll := if 16 ≤ p ∧ p < 20 then x.diePll ||| BitVec.ofNat 4 (2 ^ (p - 16)) else x.diePll
    hubPll := x.hubPll || p == 20 }
  whenEnabled (s.power.starting.any fun e => e.1 == p) s (drainPosted (if p < 16 then wakeGroup t p else t))

/-- The failed tries of a core PLL that is starting. The hub's starts with the core rails, and locks at CORE_RAIL_RELEASE
(R430 step 3), so it starts whenever PWR_EN is high and it has not locked. -/
def failedTries (s : State) (p : Nat) : Option Nat :=
  match s.power.starting.find? fun e => e.1 == p with
  | some e => some e.2
  | none => if p = 20 ∧ s.power.pwrEn ∧ !s.power.hubPll ∧ s.power.state ≠ 7 then some 0 else none

/-- PLL_LOCK_FAILURE: a third failure is the fault hold with `0x6007` (R414). -/
def execPllLockFailure (pll : Fin 21) (s : State) : Answer :=
  match failedTries s pll.val with
  | none => .next s
  | some n =>
    if n < 2 then .next (s.modPower fun x => { x with starting := tabSet x.starting pll.val (n + 1) })
    else
      let t := faultHold s 0x6007
      .next (logWrite t (powerRec t 0x6007 pll.val s.time.toNat 0 0))

/-! ### PERST# (R427, R469) -/

/-- The filter accepts a level held for a time: surely from 1.04 µs on, never below 1.00 µs. -/
def filterTakes (heldNs : Nat) (accepted : Bool) : Bool := decide (1040 ≤ heldNs) || (decide (1000 ≤ heldNs) && accepted)

/-- PERST_ASSERT. -/
def execPerstAssert (heldNs : Nat) (accepted : Bool) (s : State) : Answer :=
  let t := s.modPower fun x => { x with perstHigh := false }
  let held := { t with pcie := { t.pcie with controllerReset := true, linkUp := false } }
  whenEnabled (filterTakes heldNs accepted && s.power.perstHigh) s
    (if s.power.perstReleased then warmReset held fun x => { x with causeWarm := true } else held)

/-- PERST_DEASSERT: the PCI Express controller leaves reset. -/
def execPerstDeassert (heldNs : Nat) (accepted : Bool) (s : State) : Answer :=
  let t := s.modPower fun x => { x with perstHigh := true, perstReleased := true }
  whenEnabled (filterTakes heldNs accepted && !s.power.perstHigh) s { t with pcie := { t.pcie with controllerReset := s.power.state == 4 } }

/-- LINK_UP: the link has trained to a speed code and a width. -/
def execLinkUp (flit : Bool) (speed width : Nat) (s : State) : Answer :=
  let ok := decide (1 ≤ speed) && decide (speed ≤ 6) && ([1, 2, 4, 8, 16] : List Nat).contains width && (flit || speed != 6)
  whenEnabled (ok && !s.pcie.controllerReset && s.power.state != 4) s
    { s with pcie := { s.pcie with linkUp := true, flit, speed := BitVec.ofNat 3 speed, width := BitVec.ofNat 5 width } }

/-! ### The power-on sequence (R430 to R432) -/

/-- POWER_ON_RESET: VDD_AON rises, and everything starts from its reset value. -/
def execPowerOnReset (s : State) : Answer := .next (powerOnReset s)

/-- CORE_RAIL_RELEASE: every core rail is in range; the straps are sampled, the hub PLL locks, and the stepping codes are
checked (R430 step 3, R417 step 2; 15_trust R437 check 1). -/
def execCoreRailRelease (loc : BitVec 16) (smb : BitVec 2) (s : State) : Answer :=
  let t := { s with
    power := { s.power with coreRails := true, hubPll := true, starting := tabErase s.power.starting 20, state := 0, phase := 0 }
    pcie := { s.pcie with controllerReset := !s.power.perstHigh }
    trust := { s.trust with locRack := if s.power.state = 4 then s.trust.locRack else loc, smbAddr := smb, stage := 1 } }
  whenEnabled (s.power.pwrEn && !s.power.coreRails && s.power.state != 7) s
    (if steppingsAgree s then t else bootCode { t with trust := { t.trust with stage := 4 } } 0x5003)

/-- Failed positions of a training are logged with `0x4FFF`. -/
def logFailed (s : State) (kind : Nat) (l : List Nat) : State := l.foldl (fun t v => logPlain t kind v 0x4FFF) s

/-- LPDDR5X_TRAINED: a window is trained where both of its devices are; early service begins (R431; 02_package R39 to R41). -/
def execLpddr5xTrained (failed : List (Fin 32)) (s : State) : Answer :=
  let l := failed.map Fin.val
  let t := trainWindows (logFailed s 5 l) true 16 (l.map fun v => v / 2)
  let t := enableQueue0 (placeQueue0 (formSets t true 0xFFFF))
  whenEnabled (firmwareRuns s && s.power.phase == 0 && !s.power.lpdTrained) s
    (t.modPower fun x => { x with lpdTrained := true, phase := 1 })

/-- HBM3E_TRAINED: binding stops, and every RUN context is asked to yield (R432 step 1). -/
def execHbm3eTrained (failed : List (Fin 32)) (s : State) : Answer :=
  let l := failed.map Fin.val
  let t := trainWindows (logFailed s 4 (l.map fun g => 8 * g)) false 32 l
  whenEnabled (firmwareRuns s && s.power.phase == 1 && !s.power.hbmTrained) s
    (stopBinding (t.modPower fun x => { x with hbmTrained := true }))

/-- FULL_SERVICE: the self-test of the FP4 and INT8 paths, the HBM3E windows, PHASE 2 and vector 1 (R432 steps 2 to 5). -/
def execFullService (selfTestOk : Bool) (s : State) : Answer :=
  let t := s.modPower fun x => { x with phase := 2, busy := false, moving := none, noBinding := false }
  let t := formSets t false 0xFFFFFFFF
  let bad := faultHold s 0x6FFF
  whenEnabled (firmwareRuns s && s.power.phase == 1 && s.power.hbmTrained && contextsSettled s) s
    (if selfTestOk then raiseVector t 1 else logWrite bad (powerRec bad 0x6FFF 0 s.time.toNat 0 0))

end Sys2Proof.Machine
end

