-- ==== Sys2Proof/Machine/Snapshots.lean ====
section
/-! DEFINITION. Counter blocks and snapshots (16_counters R456 to R459). -/

namespace Sys2Proof.Machine

/-! ### Blocks of counters (R457) -/

/-- Block numbers: EC e is e; die d's cache, ledger, dragoman, walker and HBM3E controllers are 128 + 8 d and on; the hub, the
Route links and the link stream units are 160, 161 and 162. -/
def blockHub : Nat := 160
def blockRoute : Nat := 161
def blockLink : Nat := 162

/-- The live counters of a block. -/
def liveBlock (s : State) (b : Nat) : Tab Word64 :=
  if b < 128 then (s.ecAt b).counters
  else if b = 160 then s.hubCounters
  else if b = 161 then s.routeCounters
  else if b = 162 then s.linkCounters
  else
    let d := s.dieAt ((b - 128) / 8)
    match (b - 128) % 8 with
    | 0 => d.cacheCounters | 1 => d.ledgerCounters | 2 => d.drgCounters | 3 => d.walkerCounters | 4 => d.hbmCounters | _ => []

/-- The indices that a block names; any other index reads as zero. -/
def blockHas (b i : Nat) : Bool :=
  if b < 128 then decide (i ≤ 20)
  else if b = 160 then decide (i ≤ 11) || (decide (16 ≤ i) && decide (i < 144))
  else if b = 161 then decide (i < 80)
  else if b = 162 then decide (i < 9)
  else match (b - 128) % 8 with
    | 0 => decide (i < 3) | 1 => decide (i < 2) | 2 => decide (i < 4) | 3 => decide (i < 5) | 4 => decide (i < 64) | _ => false

/-- The live counter of an index. -/
def liveCounter (s : State) (b i : Nat) : Word64 := if blockHas b i then tabGet 0 (liveBlock s b) i else 0

/-- The shadow counter of an index. -/
def shadowCounter (s : State) (b i : Nat) : Word64 := if blockHas b i then tabGet 0 s.snap.shadow (b * 4096 + i) else 0

/-- The copy of every counter. -/
def copyCounters (s : State) : Tab Word64 :=
  (List.range 163).flatMap fun b => ((liveBlock s b).filter fun c => blockHas b c.1).map fun c => (b * 4096 + c.1, c.2)

/-- Every live counter restarts from zero. -/
def clearCounters (s : State) : State :=
  { s with
    ecs := s.ecs.map fun e => (e.1, { e.2 with counters := [] })
    dies := s.dies.map fun d => (d.1, { d.2 with cacheCounters := [], ledgerCounters := [], drgCounters := [], walkerCounters := [], hbmCounters := [] })
    hubCounters := [], routeCounters := [], linkCounters := [] }

/-! ### HUB_SNAP_CTL (R458, R459) -/

/-- T as the registers hold it. -/
def snapT (s : State) : Nat := s.snap.tHi.toNat * 2 ^ 32 + s.snap.tLo.toNat

/-- CANCEL: only before T. -/
def snapCancel (s : State) : State :=
  match s.snap.armed with
  | some t => if s.snap.taken || reached s t then s else { s with snap := { s.snap with armed := none } }
  | none => s

/-- ARM. -/
def snapArm (s : State) : State :=
  let t := snapT s
  let ok := s.snap.armed.isNone && (s.power.state == 0 || s.power.state == 1) && !s.power.busy &&
    decide (s.time.toNat + 10000 ≤ t) && decide (t < s.time.toNat + 2 ^ 40)
  { s with snap := if ok then { s.snap with armed := some (BitVec.ofNat 64 t), taken := false } else { s.snap with refused := true } }

/-- A write of HUB_SNAP_CTL: CLEAR is set, and CANCEL acts before ARM. -/
def snapCtlWrite (s : State) (v : Reg32) : State :=
  let t := { s with snap := { s.snap with clear := v.getLsbD 29 } }
  let t := if v.getLsbD 30 then snapCancel t else t
  if v.getLsbD 31 then snapArm t else t

/-- HUB_SNAP_STAT: DONE and REFUSED are cleared by ones. -/
def snapStatWrite (s : State) (v : Reg32) : State :=
  { s with snap := { s.snap with done := s.snap.done && !v.getLsbD 30, refused := s.snap.refused && !v.getLsbD 29 } }

/-- SNAPSHOT_TAKE: every counter into its shadow; stopped PLLs are woken (R413). -/
def execSnapshotTake (s : State) : Answer :=
  match s.snap.armed with
  | none => .next s
  | some t =>
    let u := { s with snap := { s.snap with shadow := copyCounters s, taken := true } }
    let u := if s.snap.clear then clearCounters u else u
    whenEnabled (!s.snap.taken && reached s t) s ((List.range 20).foldl startPll u)

/-- SNAPSHOT_DONE. -/
def execSnapshotDone (s : State) : Answer :=
  match s.snap.armed with
  | none => .next s
  | some t => whenEnabled s.snap.taken s
      { s with snap := { s.snap with armed := none, taken := false, done := true, count := s.snap.count + 1, lastT := t } }

end Sys2Proof.Machine
end

