-- ==== Sys2Proof/Machine/StatusRegs.lean ====
section
/-! DEFINITION. Status registers of the hub as they read, and the records of the error log as bytes (14_power; 15_trust;
16_counters R461). -/

namespace Sys2Proof.Machine

/-- HUB_PWR_STAT. -/
def pwrStat (s : State) : Nat :=
  let x := s.power
  2 ^ 29 * x.state.toNat + atBit (x.busy || x.hotReset) 28 + atBit x.sEmerg 27 + atBit x.tEmerg 26 + 2 ^ 24 * x.phase.toNat + x.code.toNat

/-- HUB_THERM_STAT. -/
def thermStat (s : State) : Nat := atBit s.power.tripped 31 + 2 ^ 16 * s.power.hotDie.toNat + s.power.maxTemp.toNat

/-- HUB_RAIL_STAT. -/
def railStat (s : State) : Nat := 256 * s.power.dip.toNat + s.power.warn.toNat

/-- HUB_RST_CAUSE. -/
def rstCause (s : State) : Nat :=
  let x := s.power
  atBit x.causePowerOn 31 + atBit x.causeWarm 30 + atBit x.causeHot 29 + atBit x.causeRail 28 + atBit x.causeWdog 27 +
    2 ^ 16 * x.railN.toNat

/-- HUB_BOOT_STAT. -/
def bootStat (s : State) : Nat :=
  let x := s.trust
  2 ^ 29 * x.stage.toNat + atBit x.source 28 + atBit x.updating 27 + 2 ^ 20 * x.svnMin.toNat + 2 ^ 16 * x.revoked.toNat + x.code.toNat

/-- A record of the error log as its 64 bytes (16_counters R461). -/
def recordBytes (seq : Nat) (r : LogRec) : List Byte :=
  natLe 8 seq ++ natLe 8 r.ct.toNat ++ natLe 2 r.code.toNat ++ natLe 1 r.kind ++ natLe 1 r.flags.toNat ++ natLe 2 r.unit ++ natLe 1 r.part ++
    natLe 1 r.ctx ++ natLe 8 r.addr ++ natLe 4 r.queue ++ natLe 4 r.slot ++
    ((r.detail.map (BitVec.ofNat 8)) ++ List.replicate 24 0).take 24

/-- Record `n` of the log, or every byte zero when it is not held. -/
def logRecordBytes (s : State) (n : Nat) : List Byte :=
  let first := s.logHead - s.log.length
  if n < first then List.replicate 64 0
  else match s.log[n - first]? with
    | some r => recordBytes n r
    | none => List.replicate 64 0

end Sys2Proof.Machine
end

