-- ==== Sys2Proof/Machine/Trust.lean ====
section
/-! DEFINITION. Secure boot, recovery, attestation, the watchdog and the sideband (15_trust R437 to R454; 13_host R409). -/

namespace Sys2Proof.Machine

/-- The trust registers after `f`. -/
def State.modTrust (s : State) (f : Trust → Trust) : State := { s with trust := f s.trust }

/-- The part is in the recovery hold (R440). -/
def inRecovery (s : State) : Bool := s.trust.stage == 4

/-! ### Boot, recovery and update (R437 to R442, R452, R453) -/

/-- What the boot ROM has read when its checks end with a code: nothing, the header, or the image (R437). -/
def imageRead (s : State) (img : List Byte) (c : Code) : List Byte :=
  if c = 0x5007 then s.trust.sram else if c = 0 ∨ c = 0x5006 then img else img.take 4096

/-- IMAGE_VERIFY: the image of the SPI NOR starts hub firmware, or the part enters the recovery hold with the code of the first
check that fails. The image region that an update is still writing is incomplete (R453). -/
def execImageVerify (spiAnswers : Bool) (s : State) : Answer :=
  let img := (spiAfterReset s.trust).take firmwareSramSize
  let c := if spiAnswers then imageCode s img else 0x5007
  let t := s.modTrust fun x => { x with sram := imageRead s img c }
  whenEnabled (s.trust.stage == 1 && s.power.coreRails) s
    (if c = 0 then firmwareStart t false else bootCode (t.modTrust fun x => { x with stage := 4 }) c)

/-- HUB_RCV_CTL (R441): GO in the recovery hold. -/
def rcvCtlWrite (s : State) (v : Reg32) : State :=
  if !(v.getLsbD 31 && inRecovery s && steppingsAgree s && !s.trust.rcvBusy) then s
  else if s.trust.rcvPages.toNat * 4096 ≠ imgLen s.trust.sram + 4096 then bootCode s 0x5001
  else s.modTrust fun x => { x with rcvBusy := true }

/-- RECOVERY_VERIFY_DONE. -/
def execRecoveryVerifyDone (s : State) : Answer :=
  let c := imageCode s s.trust.sram
  whenEnabled (inRecovery s && s.trust.rcvBusy) s
    (if c = 0 then firmwareStart s true else bootCode (s.modTrust fun x => { x with rcvBusy := false }) c)

/-- HUB_RCV_LEN. -/
def rcvLenWrite (s : State) (v : Reg32) : State := s.modTrust fun x => { x with rcvPages := v.extractLsb' 12 14 }

/-- Free bytes: what a flash that reads back differently holds (log 48). -/
def freeBytes (s : State) (n : Nat) : List Byte := (List.range n).map fun i => (Config.freeValue (s.free + i)).setWidth 8

/-- The image region as an update leaves it: the image, and erased flash behind it (log 48). -/
def imageRegion (img : List Byte) : List Byte := img ++ List.replicate (firmwareSramSize - img.length) 0xFF

/-- FW_UPDATE_COMPLETE: the image region is programmed anew; in Off, where no firmware runs, the flash is written and no record (R417, R452). -/
def execFwUpdateComplete (readBackOk : Bool) (s : State) : Answer :=
  match s.trust.update with
  | none => .next s
  | some (img, slot) =>
    let bytes := if readBackOk then imageRegion img else freeBytes s firmwareSramSize
    let t := { s with free := if readBackOk then s.free else s.free + firmwareSramSize }
    let t := t.modTrust fun x => { x with spiNor := putBytes x.spiNor 0 bytes, updating := false, update := none }
    let u := if readBackOk then t else bootCode t 0x500A
    .next (if firmwareRuns s then supComplete u slot (if readBackOk then 0 else 0x500A) else u)

/-! ### The watchdog (R448, R449) -/

/-- MGT_WDOG_CTL: EN and TIMEOUT are RWL, LOCK is set by a one, and KICK restarts the count. -/
def wdogCtlWrite (s : State) (v : Reg32) : State :=
  let x := s.trust
  let en := v.getLsbD 30
  let timeout := v.extractLsb' 0 16
  let changed := en != x.wdogEn || timeout != x.wdogTimeout
  let y := if x.wdogLock then x
    else { x with wdogEn := en, wdogTimeout := timeout, wdogSince := if en && !x.wdogEn then s.time else x.wdogSince }
  let y := { y with wdogLock := x.wdogLock || v.getLsbD 29, wdogSince := if v.getLsbD 31 then s.time else y.wdogSince }
  let t := { s with trust := y }
  if x.wdogLock && changed then bumpHub t cntLockViol else t

/-- TIMEOUT in ct; values outside 100 to 60,000 ms are taken as the nearer limit. -/
def wdogTimeoutCt (s : State) : Nat := 1000000 * max 100 (min 60000 s.trust.wdogTimeout.toNat)

/-- WATCHDOG_EXPIRY: a warm reset with WDOG set. -/
def execWatchdogExpiry (s : State) : Answer :=
  whenEnabled (s.trust.wdogEn && decide (s.trust.wdogSince.toNat + wdogTimeoutCt s ≤ s.time.toNat)) s
    (warmReset s fun x => { x with causeWdog := true })

/-! ### The DOE mailbox (13_host R409) -/

/-- The mailbox answers requests: firmware runs, and no error waits for an abort (log 53). -/
def doeOpen (s : State) : Bool := firmwareRuns s && !s.doe.error

/-- A response is ready: vector 3. -/
def doeReady (s : State) (response : List Byte) : State :=
  raiseVector { s with doe := { s.doe with ready := true, response } } 3

/-- DISCOVERY: the protocols Discovery (0) and CMA/SPDM (1) under the vendor ID of the PCI-SIG; the last index is followed by 0
(log 53). -/
def execDiscovery (index : Byte) (s : State) : Answer :=
  let r : List Byte := if index = 0 then [0x01, 0x00, 0x00, 0x01] else if index = 1 then [0x01, 0x00, 0x01, 0x00] else [0xFF, 0xFF, 0x00, 0x00]
  whenEnabled (doeOpen s) s (doeReady s r)

/-- DOE_ABORT: the object in progress is discarded. -/
def execDoeAbort (s : State) : Answer :=
  whenEnabled (firmwareRuns s) s { s with doe := { s.doe with ready := false, error := false, response := [], spdm := none } }

/-- DOE_UNSUPPORTED_PROTOCOL: no response, and the mailbox's Error bit. -/
def execDoeUnsupportedProtocol (s : State) : Answer := whenEnabled (doeOpen s) s { s with doe := { s.doe with error := true } }

/-! ### SPDM (R445 to R447) -/

/-- The bytes of a digest. -/
def digestBytes (d : BitVec 512) : List Byte := natLe 64 d.toNat

/-- The mailbox takes data objects of up to 65,536 DW (13_host R409). -/
def doeTakes (request : List Byte) : Bool := decide (request.length ≤ 4 * 65536)

/-- An SPDM response by name and fields, its bytes, and the transcript with the request and the response. A longer request than the mailbox
takes has no response and sets the Error bit (log 53). -/
def spdmAnswer (s : State) (request : List Byte) (name : String) (fields : List Nat) (response : List Byte) : Answer :=
  let d := { s.doe with spdm := some (name, fields), transcript := s.doe.transcript ++ request ++ response }
  whenEnabled (doeOpen s) s (if doeTakes request then doeReady { s with doe := d } response else { s with doe := { s.doe with error := true } })

/-- The certificate slot 0 is served. -/
def slotServed (s : State) : Bool := Config.leafMatches (certChain s)

/-- GET_VERSION: SPDM 1.2; the transcript begins anew. -/
def execGetVersion (request : List Byte) (s : State) : Answer :=
  spdmAnswer { s with doe := { s.doe with transcript := [] } } request "VERSION" [0x12] [0x12]

/-- GET_CAPABILITIES: CERT_CAP, CHAL_CAP and MEAS_CAP with signatures, as bits 1, 2 and 4 (log 53). -/
def execGetCapabilities (request : List Byte) (s : State) : Answer := spdmAnswer s request "CAPABILITIES" [0x16] (natLe 4 0x16)

/-- NEGOTIATE_ALGORITHMS: RSASSA-4096 and RSAPSS-4096, and SHA-512 for base and measurement hashes (log 53). -/
def execNegotiateAlgorithms (request : List Byte) (s : State) : Answer :=
  spdmAnswer s request "ALGORITHMS" [0x60, 0x04, 0x08] (natLe 4 0x60 ++ natLe 4 0x04 ++ natLe 4 0x08)

/-- GET_DIGESTS: slot 0, if it is served. -/
def execGetDigests (request : List Byte) (s : State) : Answer :=
  let d := sha512 (certChain s)
  if slotServed s then spdmAnswer s request "DIGESTS" [1, d.toNat] (1 :: digestBytes d) else spdmAnswer s request "DIGESTS" [0] [0]

/-- An SPDM ERROR response. -/
def spdmError (s : State) (request : List Byte) (code : Nat) : Answer := spdmAnswer s request "ERROR" [code] (natLe 1 code)

/-- GET_CERTIFICATE: a portion of the chain and how many bytes remain; a slot that is not served is an invalid request. -/
def execGetCertificate (request : List Byte) (slot offset len : Nat) (s : State) : Answer :=
  let c := certChain s
  let part := (c.drop offset).take len
  if slot = 0 ∧ slotServed s ∧ offset < c.length then
    spdmAnswer s request "CERTIFICATE" [slot, part.length, c.length - offset - part.length] part
  else spdmError s request 0x01

/-- CHALLENGE: signed with the device identity key over the transcript. -/
def execChallenge (request : List Byte) (slot : Nat) (s : State) : Answer :=
  let d := sha512 (certChain s)
  let body := digestBytes d
  if slot = 0 ∧ slotServed s then
    spdmAnswer s request "CHALLENGE_AUTH" [slot] (body ++ Config.deviceSign (s.doe.transcript ++ request ++ body))
  else spdmError s request 0x01

/-- A measurement block (R447), or none where it is absent. -/
def measurement (s : State) (i : Nat) : Option (List Byte) :=
  match i with
  | 1 => some (digestBytes Config.romDigest)
  | 2 => some (digestBytes (sha512 (signedMessage s.trust.sram)))
  | 3 => some (natLe 4 (imgSvn s.trust.sram) ++ natLe 4 s.trust.svnMin.toNat)
  | 4 => some (identityRecords s ++ natLe 8 (ownDigest s).toNat)
  | 5 => some (natLe 1 (if s.trust.source then 1 else 0))
  | n =>
    if 16 ≤ n ∧ n < 80 ∧ (s.ctxAt (n - 16)).state ≠ 0 then ((s.ctxAt (n - 16)).imageDigest).map digestBytes else none

/-- The indices of the blocks that are present. -/
def measurementIndices (s : State) : List Nat := (List.range 80).filter fun i => (measurement s i).isSome

/-- GET_MEASUREMENTS: index 0 asks for their number, 255 for all, any other for one; signed where asked (log 53). -/
def execGetMeasurements (request : List Byte) (index : Nat) (signed : Bool) (s : State) : Answer :=
  let ids := if index = 255 then measurementIndices s else if index = 0 then [] else (measurementIndices s).filter fun i => i == index
  let body := ids.flatMap fun i => natLe 1 i ++ (measurement s i).getD []
  let tail := if signed then Config.deviceSign (s.doe.transcript ++ request ++ body) else []
  if index = 0 then
    let n := (measurementIndices s).length
    spdmAnswer s request "MEASUREMENTS" [n] (natLe 1 n ++ if signed then Config.deviceSign (s.doe.transcript ++ request ++ natLe 1 n) else [])
  else if ids = [] then spdmError s request 0x01
  else spdmAnswer s request "MEASUREMENTS" ids (body ++ tail)

/-- UNSUPPORTED_REQUEST: ERROR with code UnsupportedRequest. -/
def execUnsupportedRequest (request : List Byte) (s : State) : Answer := spdmError s request 0x07

/-! ### The sideband (R450, R451) -/

/-- The part's sideband address: `0x4C` and the SMB_ADDR straps (R450; 17_electrical R468). -/
def smbusAddress (s : State) : BitVec 7 := 0x4C + s.trust.smbAddr.setWidth 7

/-- A message with a right PEC reaches the part at its address; others are not answered (R450). -/
def sidebandHears (s : State) : Bool := s.trust.smbus.all fun b => b.address == smbusAddress s && b.pecOk

/-- A vendor-defined request that the part takes: it carries vendor ID `0x1F5C`. -/
def vendorHears (s : State) : Bool := sidebandHears s && s.trust.smbus.all fun b => b.vendor == 0x1F5C

/-- A command that the part hears is carried out. -/
def whenHeard (heard : Bool) (s : State) (a : Answer) : Answer := if heard then a else .next s

/-- A vendor-defined response, from the part's address with vendor ID `0x1F5C`: its status and its body. -/
def sidebandSay (s : State) (status : Code) (body : List Byte) : State :=
  s.modTrust fun x => { x with sideband := some (status, body), reply := some (smbusAddress s, 0x7E, 0x1F5C) }

/-- A command that the recovery hold does not serve is answered with `0x5008`, which is logged (R440, R455). -/
def sidebandServed (s : State) (t : State) : Answer :=
  .next (if inRecovery s then sidebandSay (logPlain s 0 0 0x5008) 0x5008 [] else t)

/-- GET_STATUS. -/
def execGetStatus (s : State) : Answer := whenHeard (vendorHears s) s <|
  .next (sidebandSay s 0 (natLe 4 (pwrStat s) ++ natLe 4 (thermStat s) ++ natLe 4 (railStat s) ++ natLe 4 (rstCause s) ++ natLe 4 (bootStat s)))

/-- SET_POWER: a GO to TARGET. -/
def execSetPower (target : Byte) (s : State) : Answer := whenHeard (vendorHears s) s <|
  let n := target.toNat
  let t := powerGo (s.modPower fun x => { x with target := target.setWidth 3 }) n
  sidebandServed s (sidebandSay t (if goRefused s n then 0x6006 else 0) [])

/-- RESUME. -/
def execResume (s : State) : Answer := whenHeard (vendorHears s) s <|
  let refused := s.power.state == 7 || emergencyHolds s
  sidebandServed s (sidebandSay (powerResume s) (if refused then 0x6006 else 0) [])

/-- READ_LOG. -/
def execReadLog (index : BitVec 32) (s : State) : Answer := whenHeard (vendorHears s) s <|
  .next (sidebandSay s 0 (logRecordBytes s index.toNat))

/-- GET_IDENTITY. -/
def execGetIdentity (s : State) : Answer := whenHeard (vendorHears s) s <|
  .next (sidebandSay s 0 (identityRecords s ++ natLe 8 (ownDigest s).toNat))

/-- READ_SENSORS: a byte for each die and two for each rail (log 54). -/
def execReadSensors (s : State) : Answer := whenHeard (vendorHears s) s <|
  let ts := s.power.temps.flatMap fun t => natLe 1 (min 255 t)
  let rs := (List.range 6).flatMap fun n => natLe 2 (tabGet 0 s.power.railMv n)
  sidebandServed s (sidebandSay s 0 (ts ++ rs))

/-- HOT_RESET: acceptance, then the reset; where no reset follows the status is open (log 55). -/
def execHotReset (s : State) : Answer := whenHeard (vendorHears s) s <|
  let t := hotResetStart s
  let f := drawFree s
  sidebandServed s (if t.power.hotReset && !s.power.hotReset then sidebandSay t 0 [] else sidebandSay f.2 (f.1.setWidth 16) [])

/-- OTHER_COMMAND_BYTE. -/
def execOtherCommandByte (_cmd : Byte) (s : State) : Answer := whenHeard (vendorHears s) s <|
  sidebandServed s (sidebandSay (logPlain s 0 0 0x5FFF) 0x5FFF [])

/-- An MCTP control response, of message type 0. -/
def mctpSay (s : State) (bytes : List Byte) : State :=
  s.modTrust fun x => { x with mctp := bytes, reply := some (smbusAddress s, 0x00, 0) }

/-- SET_ENDPOINT_ID: the reserved IDs 0 and 255 are refused as invalid data (log 54). -/
def execSetEndpointId (eid : Byte) (s : State) : Answer := whenHeard (sidebandHears s) s <|
  if eid = 0 ∨ eid = 255 then .next (mctpSay s [2]) else .next (mctpSay (s.modTrust fun x => { x with eid }) [0, 0, eid, 0])

/-- GET_ENDPOINT_ID. -/
def execGetEndpointId (s : State) : Answer := whenHeard (sidebandHears s) s <|
  .next (mctpSay s [0, s.trust.eid, 0, 0])

/-- GET_MCTP_VERSION_SUPPORT: success and one entry, whose version the manual does not give (log 54). -/
def execGetMctpVersionSupport (s : State) : Answer := whenHeard (sidebandHears s) s <|
  let f := drawFree s
  .next (mctpSay f.2 ([0, 1] ++ natLe 4 f.1.toNat))

/-- GET_MESSAGE_TYPE_SUPPORT: MCTP control and vendor-defined PCI. -/
def execGetMessageTypeSupport (s : State) : Answer := whenHeard (sidebandHears s) s <|
  .next (mctpSay s [0, 2, 0x00, 0x7E])

end Sys2Proof.Machine
end

