-- ==== Sys2Proof/Machine/Registers.lean ====
section
/-! DEFINITION. The register space as one map: where each register lies, what a read of it returns, and what a write does for
each requester (00_scope R11, R12; 02_package R47; 11_steward R336, R482; and the registers' own rules). -/

namespace Sys2Proof.Machine

/-! ### Who may do what -/

/-- The management core, or hub firmware: the loader, and hub stewards at level F. -/
def isFirmware (s : State) (who : Agent) : Bool :=
  match who with
  | .management => true
  | .loader => true
  | .steward st => isHub st && (s.stewardAt st.val).pl == 2
  | .bar0 _ => false

/-- The management core or a hub steward. -/
def isHubSide (who : Agent) : Bool :=
  match who with | .management => true | .loader => true | .steward st => isHub st | .bar0 _ => false

/-- The host, through BAR0. -/
def isHost (who : Agent) : Bool := match who with | .bar0 _ => true | _ => false

/-- The EC whose registers or stream slots lie at offset `o` of die `d`. -/
def ecOfOffset (d o : Nat) : Option Nat :=
  if o < 0x800000 then some (32 * d + o / 0x40000)
  else if 0xA00000 ≤ o ∧ o < 0xA20000 ∧ o % 0x1000 < 0x400 then some (32 * d + (o - 0xA00000) / 0x1000)
  else none

/-- R336: a steward's load or store of the register space at `off` is allowed. -/
def registerAllowed (s : State) (st : Fin 264) (off : Nat) (wr : Bool) : Bool :=
  let x := s.stewardAt st.val
  let w := off / 0x1000000
  let o := off % 0x1000000
  if 2 ≤ x.pl.toNat then true
  else if isHub st then
    x.pl == 1 && w == 0 &&
      ((decide (0x200000 ≤ o) && decide (o < 0x203000) && decide (o % 0x1000 < 0x400)) ||
        (!wr && ([0x100200, 0x100304, 0x100220, 0x100224] : List Nat).contains (o / 4 * 4)))
  else
    w == st.val / 64 + 1 &&
      ((match ecOfOffset (w - 1) o with
        | some e => e == st.val / 2 || (x.pl == 1 && partHasEc s x.part.toNat e)
        | none => false) ||
        (decide (0x980000 ≤ o) && decide (o < 0x980014)) || (!wr && decide (0x900000 ≤ o) && decide (o < 0x90000C)))

/-- The requester reaches the register at `off`: R336 for a steward; a VF reaches only its own BAR2 window (13_host R396). -/
def agentReaches (s : State) (who : Agent) (off : Nat) (wr : Bool) : Bool :=
  match who with
  | .steward st => registerAllowed s st off wr
  | .bar0 f => f.val == 0 || off == 0x70100 + 4 * f.val
  | _ => true

/-! ### Reads -/

/-- A register value. -/
def reg (n : Nat) : Reg32 := BitVec.ofNat 32 n

/-- The word of a counter block at offset `o` from its base (16_counters R456): live at 0, shadow at 0x800. -/
def counterWord (s : State) (b o : Nat) : Reg32 :=
  let v := if o < 0x800 then liveCounter s b (o / 8) else shadowCounter s b ((o - 0x800) / 8)
  if o % 8 = 0 then v.extractLsb' 0 32 else v.extractLsb' 32 32

/-- Half of a 64-bit value. -/
def halfOf (hi : Bool) (v : Word64) : Reg32 := if hi then v.extractLsb' 32 32 else v.extractLsb' 0 32

/-- HUB_HBM_WINw and HUB_LPD_WINw. -/
def windowReg (s : State) (lpd : Bool) (w : Nat) : Reg32 :=
  let x := s.window lpd w
  let busy := windowBusy s lpd w && !(x.hold && x.drained)
  reg (atBit x.valid 31 + atBit busy 30 + atBit (lpd && x.trained) 29 + atBit x.hold 28 + 256 * x.setLog2.toNat + x.setBase.toNat)

/-- The registers of a partition (12_partitions R362). -/
def partReg (s : State) (p o : Nat) : Reg32 :=
  let x := s.partAt p
  match o with
  | 0x00 => reg (atBit x.active 31 + atBit x.ring 30)
  | 0x04 => tabGet 0 x.ecs 0
  | 0x08 => tabGet 0 x.ecs 1
  | 0x0C => tabGet 0 x.ecs 2
  | 0x10 => tabGet 0 x.ecs 3
  | 0x14 => x.hbm
  | 0x18 => x.lpd.setWidth 32
  | 0x1C => reg (4096 * x.rwinLo.toNat)
  | 0x20 => x.rwinHi.setWidth 32
  | 0x24 => x.rwinPages
  | 0x28 => reg (65536 * x.sliceLc.toNat + x.sliceBe.toNat)
  | _ => 0

/-- The ECs of a footprint on a die. -/
def footprintWord (x : Context) (d : Nat) : Reg32 :=
  reg (((x.footprint.filter fun e => e.val / 32 == d).map fun e => 2 ^ (e.val % 32)).sum)

/-- The registers of a context (12_partitions R366). -/
def ctxReg (s : State) (c o : Nat) : Reg32 :=
  let x := s.ctxAt c
  match o with
  | 0x00 => reg (2 ^ 29 * x.state + atBit x.latencyCritical 28 + 2 ^ 24 * x.part.toNat + x.fault.toNat)
  | 0x04 => footprintWord x 0
  | 0x08 => footprintWord x 1
  | 0x0C => footprintWord x 2
  | 0x10 => footprintWord x 3
  | 0x14 => reg (4096 * x.saveLo.toNat)
  | 0x18 => reg (65536 * x.savePages.toNat + x.saveHi.toNat)
  | 0x1C => reg (4 * x.resumeLo.toNat)
  | 0x20 => x.resumeHi.setWidth 32
  | 0x24 => x.submit
  | 0x28 => x.done
  | 0x2C => x.preempt
  | 0x30 => x.torn
  | 0x34 => x.overrun
  | _ => 0

/-- HUB_PCIE_STAT. -/
def pcieStat (s : State) : Nat :=
  let x := s.pcie
  atBit x.linkUp 31 + atBit x.flit 30 + 2 ^ 27 * x.speed.toNat + 2 ^ 22 * x.width.toNat + atBit x.vfEnable 21 + 2 ^ 17 * x.numVfs.toNat

/-- The registers of a Route link port at `o` from its block (09_route R285, R286). -/
def portReg (s : State) (n o : Nat) : Reg32 :=
  let p := s.portAt n
  match o with
  | 0x0 => reg (atBit p.en 31 + 2 ^ 28 * p.state + atBit p.replaced 27 + atBit p.returned 26 + atBit p.role 25 + p.partnerPort.toNat)
  | 0x4 => reg (65536 * p.pgroup.toNat + p.loc.toNat)
  | 0x8 => p.digest.extractLsb' 0 32
  | _ => p.digest.extractLsb' 32 32

/-- RL_PORT_TXCFGn (17_electrical R473). -/
def txcfgReg (s : State) (n : Nat) : Reg32 :=
  let p := s.portAt n
  reg (atBit p.cfgAuto 31 + 2 ^ 20 * p.cfgEdge.toNat + 2 ^ 16 * p.cfgAmp.toNat + 64 * p.cfgPre.toNat + p.cfgPost.toNat)

/-- The registers of a stream slot at `o` from its block (10_streams R305). -/
def slotReg (s : State) (u i o : Nat) : Reg32 :=
  let x := s.slotAt u i
  match o with
  | 0x0 => reg (64 * x.addrLo.toNat)
  | 0x4 => x.addrHi.setWidth 32
  | 0x8 => 0
  | _ => reg (2 ^ 29 * x.state.toNat + atBit x.pend 28 + x.code.toNat)

/-- A word of the error log's window (16_counters R461): the record whose number falls on the place, if one is held. -/
def logWord (s : State) (o : Nat) : Reg32 :=
  let k := o / 64
  let n := s.logHead - 1 - (s.logHead - 1 + 4096 - k) % 4096
  if s.logHead = 0 ∨ s.logHead ≤ k then 0 else reg (leNat (((logRecordBytes s n).drop (o % 64)).take 4))

/-- The registers of the hub's power, clock, supply and reset block (14_power). -/
def powerReg (s : State) (o : Nat) : Reg32 :=
  let x := s.power
  if o = 0x80000 then reg x.target.toNat
  else if o = 0x80004 then reg (pwrStat s)
  else if o = 0x80010 then x.idleUs.setWidth 32
  else if o = 0x80014 then reg (65536 * x.groupPll.toNat + 256 * x.diePll.toNat)
  else if 0x80100 ≤ o ∧ o < 0x80118 then reg (65536 * railWarn s ((o - 0x80100) / 4) + railReset s ((o - 0x80100) / 4))
  else if o = 0x80120 then reg (railStat s)
  else if o = 0x80200 then reg (256 * x.thermEmerg.toNat + x.thermWarn.toNat)
  else if o = 0x80204 then reg (thermStat s)
  else if o = 0x80304 then reg (rstCause s)
  else 0

/-- The registers of identity, boot, recovery and the watchdog (15_trust). -/
def trustReg (s : State) (o : Nat) : Reg32 :=
  let x := s.trust
  if 0x90000 ≤ o ∧ o < 0x90050 then fuseWord s ((o - 0x90000) / 16) (o % 16 / 4)
  else if o = 0x90050 then (ownDigest s).extractLsb' 0 32
  else if o = 0x90054 then (ownDigest s).extractLsb' 32 32
  else if o = 0x90100 then reg (bootStat s)
  else if o = 0x90110 then reg (atBit x.rcvBusy 30)
  else if o = 0x90114 then reg (4096 * x.rcvPages.toNat)
  else if o = 0x90200 then reg (atBit x.wdogEn 30 + atBit x.wdogLock 29 + x.wdogTimeout.toNat)
  else 0

/-- The snapshot and log registers (16_counters R458, R461). -/
def snapReg (s : State) (o : Nat) : Reg32 :=
  let x := s.snap
  match o with
  | 0xB0000 => reg (atBit x.clear 29)
  | 0xB0004 => x.tLo
  | 0xB0008 => x.tHi
  | 0xB000C => reg (atBit x.armed.isSome 31 + atBit x.done 30 + atBit x.refused 29 + x.count.toNat)
  | 0xB0010 => halfOf false x.lastT
  | 0xB0014 => halfOf true x.lastT
  | 0xB0100 => reg s.logHead
  | 0xB0104 => reg (s.logHead / 2 ^ 32)
  | _ => 0

/-- The registers of the ring and of caravan time (09_route R287 to R297). -/
def ringReg (s : State) (o : Nat) : Reg32 :=
  let x := s.ring
  let t := s.sync
  match o with
  | 0x100200 => reg (2 ^ 27 * x.state + atBit x.downGroup 26 + 65536 * x.position.toNat + x.code.toNat)
  | 0x100204 => reg (65536 * x.ringId.toNat + x.len.toNat)
  | 0x10020C => x.margin
  | 0x100210 => (ownLoc s).setWidth 32
  | 0x100220 => reg (seraiFill s 0)
  | 0x100224 => reg (seraiFill s 1)
  | 0x100300 => reg (atBit t.master 31 + t.parent.toNat)
  | 0x100304 => reg (atBit (isSynced s) 31 + atBit t.hold 30 + atBit t.diverged 29 + 2 ^ 24 * t.port.toNat + t.offset.toNat)
  | _ => 0

/-- A register of the hub window. -/
def hubReg (s : State) (o : Nat) : Reg32 :=
  if o < 0x40000 then 0
  else if o < 0x40080 then windowReg s false ((o - 0x40000) / 4)
  else if o < 0x400C0 then windowReg s true ((o - 0x40080) / 4)
  else if o < 0x50000 then 0
  else if o < 0x50200 then partReg s ((o - 0x50000) / 0x40) (o % 0x40)
  else if o < 0x60000 then 0
  else if o < 0x61000 then ctxReg s ((o - 0x60000) / 0x40) (o % 0x40)
  else if o = 0x70000 then reg (pcieStat s)
  else if o = 0x70008 then reg (s.queueAt 0).ring.toNat
  else if o = 0x7000C then reg ((s.queueAt 0).ring.toNat / 2 ^ 32)
  else if o = 0x70010 then s.pcie.edge.setWidth 32
  else if 0x70100 ≤ o ∧ o < 0x70124 then (tabGet 0 s.pcie.bar2 ((o - 0x70100) / 4)).setWidth 32
  else if o < 0x80000 then 0
  else if o < 0x90000 then powerReg s o
  else if o < 0xA0000 then trustReg s o
  else if o < 0xA1000 then counterWord s blockHub (o - 0xA0000)
  else if o < 0xB0000 then 0
  else if o < 0xC0000 then snapReg s o
  else if o < 0x100000 then logWord s (o - 0xC0000)
  else if o < 0x100180 then portReg s ((o - 0x100000) / 16) (o % 16)
  else if 0x100400 ≤ o ∧ o < 0x100460 then txcfgReg s ((o - 0x100400) / 4)
  else if 0x101000 ≤ o ∧ o < 0x101800 then tabGet 0 s.ring.table ((o - 0x101000) / 4)
  else if o < 0x110000 then ringReg s o
  else if o < 0x111000 then counterWord s blockRoute (o - 0x110000)
  else if 0x200000 ≤ o ∧ o < 0x203000 ∧ o % 0x1000 < 0x400 then
    slotReg s (128 + (o - 0x200000) / 0x1000) (o % 0x400 / 16) (o % 16)
  else if 0x210000 ≤ o ∧ o < 0x211000 then counterWord s blockLink (o - 0x210000)
  else 0

/-- ME_REPAIRn of an engine (04_matrix R92): field k is that of group 4 n + k. -/
def repairReg (s : State) (e g n : Nat) : Reg32 :=
  reg (((List.range 4).map fun k =>
    match tabFind s.trust.repairs ((2 * e + g) * 16 + 4 * n + k) with
    | some f => (128 + f % 32) * 256 ^ k
    | none => 0).sum)

/-- The lanes that a tile of `m` rows and `k` columns uses in a mode (04_matrix R98). -/
def cellLanes (mode m k l : Nat) : Bool :=
  if mode = 0 then decide (l < m) else if mode = 1 then decide (l < k) else decide (l / 16 < m) && decide (l % 16 < k)

/-- The active lanes of a tile of a command for which no vector enters now: the row block of ATTEND, ATTEND_BWD and CHAIN, the output tile of
a COMBINE or of a combine step, the columns of the up-projection of an EXPAND (04_matrix R107). -/
def tileLanes (s : State) (r : MacroRec) (run : TileRun) : Got (Nat → Bool) := do
  let q := reqOf s r
  let w ← recWork s q r.word
  let z : TileId := { batch := 0, i := 0, j := 0, k := 0 }
  let t := w.tiles.getD run.tile z
  match wOpcode r.word with
  | 0x01 =>
    let c ← matCmd s q r.word
    let t := if run.combine then w.tiles.getD (run.tile * w.parts) z else t
    let b ← matBatch s q c t.batch
    let sh := tileShape c.mode c.tileB
    return cellLanes c.mode (b.m - t.i * sh.1) (b.n - t.j * sh.2)
  | 0x02 =>
    let c ← chainCmd s q r.word
    let b ← chainBatch s q c t.batch
    return fun l => decide (l < b.1 - t.i * 256)
  | 0x03 =>
    let c ← combineCmd s q r.word
    let sh := tileShape c.mode c.tileB
    return cellLanes c.mode (c.dc.rows - t.i * sh.1) (c.dc.cols - t.j * sh.2)
  | 0x06 =>
    let t ← kvTable s q (field r.word 0x18 8 % 2 ^ 48)
    return fun l => decide (l < t.upk.rows)
  | 0x18 =>
    let c ← searchCmd s q r.word
    let t := if run.combine then w.tiles.getD (run.tile * w.parts) z else t
    let sh := tileShape c.coarse.mode c.coarse.tileB
    return cellLanes c.coarse.mode (c.nq - t.i * sh.1) (c.nlist - t.j * sh.2)
  | 0x08 =>
    let c ← attCmd s q r.word
    let seqs ← attSeqs s q c
    let t := if run.combine then w.tiles.getD (w.half + (run.tile - w.half) * w.parts) z else t
    return fun l => decide (l < (seqs.getD t.batch { id := 0, len := 0, off := 0 }).len - 256 * t.i)
  | 0x09 =>
    let c ← attCmd s q r.word
    let seqs ← attSeqs s q c
    return fun l => c.place == 1 || decide (l < (seqs.getD t.batch { id := 0, len := 0, off := 0 }).len - 256 * t.i)
  | _ => return fun _ => false

/-- The active lanes of a tile or a combine step: those that its vectors enter, or those of its output. -/
def runLanes (s : State) (e g : Nat) (run : TileRun) : Nat → Bool :=
  match macroAt s (ecDie e) run.acc with
  | none => fun _ => false
  | some r =>
    match if run.combine then .ok none else runGeo s (reqOf s r) e g r.word run, tileLanes s r run with
    | .ok (some (geo, _)), _ => geo.active
    | _, .ok f => f
    | _, .error _ => fun _ => false

/-- The active lanes of what an engine has: its tile, the combine step that waits to enter, or the tile that drains. -/
def engineLanes (s : State) (e g : Nat) : Nat → Bool :=
  let x := s.engineAt e g
  match x.current, x.combines, x.drains with
  | some run, _, _ => runLanes s e g run
  | none, run :: _, _ => runLanes s e g run
  | none, [], (run, _) :: _ => runLanes s e g run
  | none, [], [] => fun _ => false

/-- GATED of ME_STAT: the lane groups without an active lane; all of them while no macro-instruction has a tile on the engine
(04_matrix R107, R108). -/
def gatedGroups (s : State) (e g : Nat) : Nat :=
  let active := engineLanes s e g
  ((List.range 16).map fun k => if (List.range 16).any fun l => active (16 * k + l) then 0 else 2 ^ k).sum

/-- ME_STAT. -/
def engineStat (s : State) (e g : Nat) : Reg32 :=
  let x := s.engineAt e g
  let mode := match engineRec s e g with | some r => wMode r.word | none => 0
  reg (atBit (x.holds.isSome || !engineIdle x) 31 + atBit (!x.drains.isEmpty) 30 + 2 ^ 28 * mode + atBit x.buffer 27 + 2 ^ 20 * x.broadcast.length + gatedGroups s e g)

/-- The registers of task and yield of steward `k` of an EC (12_partitions R374). -/
def taskReg (s : State) (e k o : Nat) : Reg32 :=
  let x := tabGet {} (s.ecAt e).tasks k
  match o with
  | 0x0 => reg (atBit x.active 29 + x.queue.toNat)
  | 0x4 => reg (16 * x.complLo.toNat)
  | 0x8 => x.complHi.setWidth 32
  | _ => 0

/-- EC_DBG_CTL. -/
def dbgCtlReg (s : State) (e : Nat) : Reg32 :=
  let x := (s.ecAt e).dbg
  reg (atBit x.attach 31 + atBit x.halted 27 + 2 ^ 24 * x.why.toNat)

/-- EC_DBG_SEL. -/
def dbgSelReg (s : State) (e : Nat) : Reg32 :=
  let x := (s.ecAt e).dbg
  reg (atBit x.selPc 10 + atBit x.selStw 9 + atBit x.selCtrl 8 + x.selNum.toNat)

/-- A read of a register of an EC at offset `r` from its block. -/
def ecRead (s : State) (e r : Nat) : Reg32 × State :=
  let u := (s.ecAt e).rowUnit
  if r = 0x1000 then (engineStat s e 0, s)
  else if r = 0x2000 then (engineStat s e 1, s)
  else if 0x1010 ≤ r ∧ r < 0x1020 then (repairReg s e 0 ((r - 0x1010) / 4), s)
  else if 0x2010 ≤ r ∧ r < 0x2020 then (repairReg s e 1 ((r - 0x2010) / 4), s)
  else if r = 0x3000 then (reg (atBit (tablesPending u) 31 + atBit u.busy 30 + 256 * u.epoch.toNat + u.func.toNat), s)
  else if r = 0x3004 then (u.index.setWidth 32, s)
  else if r = 0x3008 then (shadowWord u, s)
  else if r = 0x300C then (u.ignored.setWidth 32, s)
  else if r = 0x4000 then (reg (atBit (s.ecAt e).overflow 31), s)
  else if 0x4100 ≤ r ∧ r < 0x4200 then
    let p := pairAt s e ((r - 0x4100) / 4)
    (p.2 ++ p.1, s)
  else if 0x5000 ≤ r ∧ r < 0x5020 then (taskReg s e (r % 0x20 / 0x10) (r % 0x10), s)
  else if 0x6000 ≤ r ∧ r < 0x7000 then (counterWord s e (r - 0x6000), s)
  else if r = 0x7000 then (dbgCtlReg s e, s)
  else if r = 0x7004 then (dbgSelReg s e, s)
  else if r = 0x7008 then dbgDataRead s e false
  else if r = 0x700C then dbgDataRead s e true
  else if r = 0x7010 then dbgAccfRead s e
  else (0, s)

/-- DRG_CTX_STATE (08_dragoman R239). -/
def drgStateReg (s : State) (d : Nat) : Reg32 :=
  let c := drgCtx s d (s.dieAt d).drgSel.toNat
  reg (2 ^ 29 * drgStateCode s d c + 2 ^ 24 * c.part.toNat + atBit c.select 23 + c.query % 2 ^ 20)

/-- Dragoman contexts of a die that are not FREE. -/
def drgBusy (x : Die) : Nat := (x.drgCtxs.filter fun c => c.2.state != 0).length

/-- DRG_STAT. -/
def drgStatReg (x : Die) : Reg32 :=
  reg (atBit (!x.drgCommands.isEmpty) 31 + 2 ^ 24 * min 64 x.drgJobs.length + 2 ^ 19 * x.drgCommands.length + (2048 - drgBusy x))

/-- A register of a die window outside the EC blocks and the slots. -/
def dieReg (s : State) (d o : Nat) : Reg32 :=
  let x := s.dieAt d
  if o < 0x800020 then (wayMask s d ((o - 0x800000) / 4)).setWidth 32
  else if 0x810000 ≤ o ∧ o < 0x811000 then counterWord s (128 + 8 * d) (o - 0x810000)
  else if 0x890000 ≤ o ∧ o < 0x891000 then counterWord s (129 + 8 * d) (o - 0x890000)
  else if o = 0x900000 then x.drgSel.setWidth 32
  else if o = 0x900004 then drgStateReg s d
  else if o = 0x900008 then drgStatReg x
  else if 0x900100 ≤ o ∧ o < 0x900120 then
    let p := (o - 0x900100) / 4
    reg (65536 * drgInUse s d p + (tabGet 0 x.drgLimits p).toNat)
  else if 0x910000 ≤ o ∧ o < 0x911000 then counterWord s (130 + 8 * d) (o - 0x910000)
  else if o = 0x980000 then reg (atBit x.invBusy 31 + 65536 * x.invPart.toNat + 4 * x.invScope.toNat)
  else if o = 0x980004 then reg (4096 * x.invDirLo.toNat)
  else if o = 0x980008 then x.invDirHi.setWidth 32
  else if o = 0x98000C then x.invSeq
  else if o = 0x980010 then reg (65536 * x.invChain.toNat + x.invSeg.toNat)
  else if 0x990000 ≤ o ∧ o < 0x991000 then counterWord s (131 + 8 * d) (o - 0x990000)
  else if 0xB10000 ≤ o ∧ o < 0xB11000 then counterWord s (132 + 8 * d) (o - 0xB10000)
  else 0

/-- The value that a read of the register space at a 4-byte-aligned offset returns, and the state after it: undefined registers
read as zero (02_package R47), and a debug read that is blocked counts (16_counters R463). -/
def regRead (s : State) (off : Nat) : Reg32 × State :=
  let w := off / 0x1000000
  let o := off % 0x1000000
  if 5 ≤ w ∨ 0xC00000 ≤ o then (0, s)
  else if w = 0 then (hubReg s o, s)
  else
    let d := w - 1
    if o < 0x800000 then ecRead s (32 * d + o / 0x40000) (o % 0x40000)
    else match ecOfOffset d o with
      | some e => (slotReg s e (o % 0x400 / 16) (o % 16), s)
      | none => (dieReg s d o, s)

/-! ### Writes -/

/-- HUB_BAR2_WINf (13_host R397): the PF, the VF for its own, and firmware. -/
def bar2WinWrite (s : State) (who : Agent) (f : Nat) (v : Reg32) : State :=
  let ok := match who with | .bar0 g => g.val == 0 || g.val == f | w => isFirmware s w
  if ok then { s with pcie := { s.pcie with bar2 := tabSet s.pcie.bar2 f (v.extractLsb' 0 12) } } else s

/-- RL_PORT_TXCFGn (17_electrical R473). -/
def txcfgSet (s : State) (n : Nat) (v : Reg32) : State :=
  let p := s.portAt n
  if 24 < (v.extractLsb' 6 6).toNat + (v.extractLsb' 0 6).toNat then bumpHub s cntMemCfgErr
  else s.setPort n { p with
    cfgAuto := v.getLsbD 31, cfgEdge := v.extractLsb' 20 2, cfgAmp := v.extractLsb' 16 4, cfgPre := v.extractLsb' 6 6, cfgPost := v.extractLsb' 0 6 }

/-- HUB_RST_CAUSE: ones clear. -/
def rstCauseWrite (s : State) (v : Reg32) : State :=
  s.modPower fun x => { x with
    causePowerOn := x.causePowerOn && !v.getLsbD 31, causeWarm := x.causeWarm && !v.getLsbD 30, causeHot := x.causeHot && !v.getLsbD 29,
    causeRail := x.causeRail && !v.getLsbD 28, causeWdog := x.causeWdog && !v.getLsbD 27 }

/-- A write of the hub's power, clock, supply and reset block. -/
def powerRegWrite (s : State) (who : Agent) (o : Nat) (v : Reg32) : State :=
  let fw := isFirmware s who
  let host := isHost who
  if o = 0x80000 then (if fw || host then pwrCtlWrite s v else s)
  else if o = 0x80010 then (if fw then s.modPower fun x => { x with idleUs := v.extractLsb' 0 16 } else s)
  else if 0x80100 ≤ o ∧ o < 0x80118 then (if fw then railCfgWrite s ((o - 0x80100) / 4) v else s)
  else if o = 0x80120 then s.modPower fun x => { x with dip := x.dip &&& ~~~(v.extractLsb' 8 6) }
  else if o = 0x80200 then (if fw then thermCfgWrite s v else s)
  else if o = 0x80300 then (if (host || who == .management) && v.getLsbD 31 then hotResetStart s else s)
  else if o = 0x80304 then rstCauseWrite s v
  else s

/-- A write of the snapshot registers: PF BAR0, the management core and hub stewards at F (16_counters R458). -/
def snapRegWrite (s : State) (who : Agent) (o : Nat) (v : Reg32) : State :=
  if !(isFirmware s who || isHost who) then s
  else match o with
    | 0xB0000 => snapCtlWrite s v
    | 0xB0004 => { s with snap := { s.snap with tLo := v } }
    | 0xB0008 => { s with snap := { s.snap with tHi := v } }
    | 0xB000C => snapStatWrite s v
    | _ => s

/-- A write of the Route links' registers (09_route; 17_electrical R473). -/
def routeRegWrite (s : State) (who : Agent) (o : Nat) (v : Reg32) : State :=
  let ringOk := isHubSide who || isHost who
  if o < 0x100180 then (if o % 16 = 0 then portStatWrite s ((o - 0x100000) / 16) v else s)
  else if o = 0x100200 then (if ringOk then ringCtlWrite s v else s)
  else if o = 0x100204 then (if ringOk then ringCfgWrite s v else s)
  else if o = 0x10020C then { s with ring := { s.ring with margin := v } }
  else if o = 0x100300 then timeCtlWrite s v
  else if 0x100400 ≤ o ∧ o < 0x100460 then (if isFirmware s who then txcfgSet s ((o - 0x100400) / 4) v else s)
  else if 0x101000 ≤ o ∧ o < 0x101800 then (if ringOk then ringMemWrite s ((o - 0x101000) / 4) v else s)
  else s

/-- A write of a slot's register at `o` from its block (10_streams R305). -/
def slotRegWrite (s : State) (who : Agent) (u i o : Nat) (v : Reg32) : State :=
  let x := s.slotAt u i
  if isHost who then s
  else match o with
    | 0x0 => s.setSlot u i { x with addrLo := v.extractLsb' 6 26 }
    | 0x4 => s.setSlot u i { x with addrHi := v.extractLsb' 0 16 }
    | 0x8 => stCtlWrite s u i (agentOwner s who) v
    | _ => s

/-- A write of a register of the hub window. -/
def hubRegWrite (s : State) (who : Agent) (o : Nat) (v : Reg32) : State :=
  let fw := isFirmware s who
  if o < 0x40000 then s
  else if o < 0x40080 then (if isHubSide who then windowRegWrite s false ((o - 0x40000) / 4) v else s)
  else if o < 0x400C0 then (if isHubSide who then windowRegWrite s true ((o - 0x40080) / 4) v else s)
  else if o < 0x50000 then s
  else if o < 0x50200 then (if fw then partRegWrite s ((o - 0x50000) / 0x40) (o % 0x40) v else s)
  else if o < 0x60000 then s
  else if o < 0x61000 then (if fw then ctxRegWrite s ((o - 0x60000) / 0x40) (o % 0x40) v else s)
  else if o = 0x70010 then (if fw then { s with pcie := { s.pcie with edge := v.extractLsb' 0 2 } } else s)
  else if 0x70100 ≤ o ∧ o < 0x70124 then bar2WinWrite s who ((o - 0x70100) / 4) v
  else if o < 0x80000 then s
  else if o < 0x90000 then powerRegWrite s who o v
  else if o = 0x90110 then rcvCtlWrite s v
  else if o = 0x90114 then rcvLenWrite s v
  else if o = 0x90200 then (if who = .management then wdogCtlWrite s v else s)
  else if o < 0xB0000 then s
  else if o < 0xC0000 then snapRegWrite s who o v
  else if o < 0x100000 then s
  else if o < 0x110000 then routeRegWrite s who o v
  else if 0x200000 ≤ o ∧ o < 0x203000 ∧ o % 0x1000 < 0x400 then
    slotRegWrite s who (128 + (o - 0x200000) / 0x1000) (o % 0x400 / 16) (o % 16) v
  else s

/-- 03_arithmetic R85: the EC's own stewards, the hub stewards, the management core and the loader. -/
def tablesWriter (who : Agent) (e : Nat) : Bool :=
  match who with | .steward st => isHub st || st.val / 2 == e | .bar0 _ => false | _ => true

/-- 16_counters R462: PF BAR0 and the management core. -/
def debugWriter (who : Agent) : Bool := isHost who || who == .management

/-- A write of a register of an EC at offset `r` from its block; STEP of EC_DBG_CTL is not part of it. -/
def ecRegWrite (s : State) (who : Agent) (e r : Nat) (v : Reg32) : State :=
  if 0x3000 ≤ r ∧ r < 0x3010 then
    if !tablesWriter who e then s
    else match r with
      | 0x3000 => tableCtlWrite s e v
      | 0x3004 => s.modEc e fun c => { c with rowUnit := { c.rowUnit with index := v.extractLsb' 0 11 } }
      | 0x3008 => tableDataWriteReg s e v
      | _ => s
  else if r = 0x4000 then (if isHost who then s else semaCtlWrite s e (agentOwner s who) v)
  else if 0x4100 ≤ r ∧ r < 0x4200 then (if isHost who then s else semaValWrite s e ((r - 0x4100) / 4) v)
  else if 0x5000 ≤ r ∧ r < 0x5020 then
    let k := r % 0x20 / 0x10
    match r % 0x10 with
    | 0x0 => taskCtlWrite s who e k v
    | 0x4 => taskComplWrite s who e k false v
    | 0x8 => taskComplWrite s who e k true v
    | _ => yieldWrite s who e k v
  else if 0x7000 ≤ r ∧ r < 0x7014 then
    if !debugWriter who then s
    else match r with
      | 0x7000 => dbgCtlWrite s e v
      | 0x7004 => dbgSelWrite s e v
      | 0x7008 => dbgDataWrite s e false v
      | 0x700C => dbgDataWrite s e true v
      | _ => dbgAccfWrite s e v
  else s

/-- The walker's registers (07_kv R211). -/
def walkerRegWrite (s : State) (who : Agent) (d o : Nat) (v : Reg32) : State :=
  let own := match who with | .steward st => if isHub st then none else some (s.stewardAt st.val).part.toNat | _ => none
  if isHost who then s
  else match o with
    | 0x980000 => tlbInvWrite s d own v
    | 0x980004 => s.modDie d fun x => { x with invDirLo := v.extractLsb' 12 20 }
    | 0x980008 => s.modDie d fun x => { x with invDirHi := v.extractLsb' 0 16 }
    | 0x98000C => s.modDie d fun x => { x with invSeq := v }
    | 0x980010 => s.modDie d fun x => { x with invChain := v.extractLsb' 16 16, invSeg := v.extractLsb' 0 7 }
    | _ => s

/-- A write of a register of a die window outside the EC blocks and the slots. -/
def dieRegWrite (s : State) (who : Agent) (d o : Nat) (v : Reg32) : State :=
  if o < 0x800020 then (if isHubSide who then wayMaskWrite s d ((o - 0x800000) / 4) v else s)
  else if o = 0x900000 then s.modDie d fun x => { x with drgSel := v.extractLsb' 0 11 }
  else if 0x900100 ≤ o ∧ o < 0x900120 then (if isHubSide who then limitWrite s d ((o - 0x900100) / 4) v else s)
  else if 0x980000 ≤ o ∧ o < 0x980014 then walkerRegWrite s who d o v
  else s

/-- A write of the register space at a 4-byte-aligned offset: undefined registers ignore it (02_package R47). -/
def regWrite (s : State) (who : Agent) (off : Nat) (v : Reg32) : State :=
  let w := off / 0x1000000
  let o := off % 0x1000000
  if 5 ≤ w ∨ 0xC00000 ≤ o then s
  else if w = 0 then hubRegWrite s who o v
  else
    let d := w - 1
    if o < 0x800000 then ecRegWrite s who (32 * d + o / 0x40000) (o % 0x40000) v
    else match ecOfOffset d o with
      | some e => slotRegWrite s who e (o % 0x400 / 16) (o % 16) v
      | none => dieRegWrite s who d o v

end Sys2Proof.Machine
end

