-- ==== Sys2Proof/Machine/StewardMem.lean ====
section
/-! DEFINITION. Loads, stores, the store buffer and the atomic operations of a steward (11_steward R334, R336, R341, R343,
R344, R482). -/

namespace Sys2Proof.Machine

/-! ### What an access meets -/

/-- A register-space access of `n` bytes (R336, R482): the fault that it takes, or 0. One of 8 bytes needs both its registers. -/
def registerFault (s : State) (st : Fin 264) (off n : Nat) (wr : Bool) : Code :=
  if n < 4 then 0x2004 else if registerAllowed s st off wr && (n != 8 || registerAllowed s st (off + 4) wr) then 0 else 0x2003

/-- A read of 4 or 8 bytes of the register space: the lower offset first (R482). -/
def regReadBytes (s : State) (off n : Nat) : Nat × State :=
  let x := regRead s off
  if n = 8 then
    let y := regRead x.2 (off + 4)
    (x.1.toNat + 2 ^ 32 * y.1.toNat, y.2)
  else (x.1.toNat, x.2)

/-- A write of 4 or 8 bytes of the register space: the lower offset first (R482). -/
def regWriteBytes (s : State) (who : Agent) (off n v : Nat) : State :=
  let t := regWrite s who off (BitVec.ofNat 32 v)
  if n = 8 then regWrite t who (off + 4) (BitVec.ofNat 32 (v / 2 ^ 32)) else t

/-- The byte at `a` as the steward's held stores leave it (R344 rule 4): the youngest store that covers it. -/
def heldByte (l : List Store) (a : Nat) (b : Byte) : Byte :=
  l.foldl (fun b h => if h.addr ≤ a ∧ a < h.addr + h.bytes.length then h.bytes.getD (a - h.addr) b else b) b

/-- The bytes that a steward's load returns: zero from an SRAM window that blocks it (02_package R48). -/
def stewardBytes (s : State) (st : Fin 264) (a n : Nat) : List Byte :=
  if (blockedEc s (stewardCtx s st) a).isSome then List.replicate n 0
  else (List.range n).map fun i => heldByte (s.stewardAt st.val).stores (a + i) (byteAt s (a + i))

/-- The tiers are idle but for the access: no stream reads or writes, no command is in work, and no steward holds a store. -/
def tiersIdle (s : State) : Bool :=
  (s.slots.all fun e => e.2.state != 2 && e.2.state != 3) && (s.dies.all fun d => d.2.macros.isEmpty) && s.hubMacros.isEmpty &&
    s.stewards.all fun e => e.2.stores.isEmpty

/-- The cycles of a load (R334): 28 on a hit in the home cache of the steward's own die, 60 in another's; a miss takes 150 (HBM3E) or 230
(LPDDR5X) more where the tiers are otherwise idle, and what other traffic adds is open (log 15). -/
def loadLatency (s : State) (st : Fin 264) (a : Nat) : Option Nat :=
  match homeDie s a with
  | some d =>
    let hit := if st.val / 64 = d then 28 else 60
    if (cacheFind s d (stewardPartition s st) (a / 128)).isSome then some hit
    else if tiersIdle s then some (hit + if (match regionOf a with | .hbm _ => true | _ => false) then 150 else 230)
    else none
  | none => none

/-- `n` bytes as a register value, sign-extended where the load asks for it (R341). -/
def loadValue (n : Nat) (signed : Bool) (v : Nat) : Word64 :=
  if signed then BitVec.ofInt 64 (BitVec.ofNat (8 * n) v).toInt else BitVec.ofNat 64 v

/-! ### Loads -/

/-- A load of `n` bytes at ra + imm into rd. -/
def loadStep (s : State) (st : Fin 264) (rd ra : BitVec 5) (imm : BitVec 16) (n : Nat) (signed : Bool) : Answer :=
  let a := stewardAddr s st ra imm
  if !stewardReady s st then .next s
  else if a % n ≠ 0 then .next (stewardFault s st 0x2004 a)
  else match registerOffset a with
    | some off =>
      let c := registerFault s st off n false
      if c ≠ 0 then .next (stewardFault s st c a)
      else if !regClocked s off then .next s
      else
        let r := regReadBytes s off n
        .next (retireNext (r.2.modSteward st.val fun x => x.setReg rd (loadValue n signed r.1)) st.val (some 40))
    | none =>
      match rangeFault s (stewardPartition s st) a n false with
      | some f => .next (stewardMemFault s st f)
      | none =>
        if windowHeld s a then .next (countStewardHeld s st.val a)
        else
          let u := (spanUse s (stewardPartition s st) false a n false).2
          let v := loadValue n signed (leNat (stewardBytes s st a n))
          let t := countBlocked u (stewardCtx s st) a
          .next (retireNext (t.modSteward st.val fun x => x.setReg rd v) st.val (loadLatency s st a))

/-- LD8U. -/
def execLd8u (st : Fin 264) (rd ra : BitVec 5) (imm : BitVec 16) (s : State) : Answer := loadStep s st rd ra imm 1 false
/-- LD16U. -/
def execLd16u (st : Fin 264) (rd ra : BitVec 5) (imm : BitVec 16) (s : State) : Answer := loadStep s st rd ra imm 2 false
/-- LD32U. -/
def execLd32u (st : Fin 264) (rd ra : BitVec 5) (imm : BitVec 16) (s : State) : Answer := loadStep s st rd ra imm 4 false
/-- LD64. -/
def execLd64 (st : Fin 264) (rd ra : BitVec 5) (imm : BitVec 16) (s : State) : Answer := loadStep s st rd ra imm 8 false
/-- LD8S. -/
def execLd8s (st : Fin 264) (rd ra : BitVec 5) (imm : BitVec 16) (s : State) : Answer := loadStep s st rd ra imm 1 true
/-- LD16S. -/
def execLd16s (st : Fin 264) (rd ra : BitVec 5) (imm : BitVec 16) (s : State) : Answer := loadStep s st rd ra imm 2 true
/-- LD32S. -/
def execLd32s (st : Fin 264) (rd ra : BitVec 5) (imm : BitVec 16) (s : State) : Answer := loadStep s st rd ra imm 4 true

/-! ### Stores -/

/-- The resource fault of an access of at most 8 aligned bytes, which one line holds. -/
def resourceFault (s : State) (p : Option Nat) (a : Nat) : Option MemErr :=
  let c := accessCode s p a
  if c ≠ 0 then some (c, a) else none

/-- A store of the low `n` bytes of rs at ra + imm: into the register at once, or into the store buffer, where 16 held stores
stall it (R334). -/
def storeStep (s : State) (st : Fin 264) (rs ra : BitVec 5) (imm : BitVec 16) (n : Nat) : Answer :=
  let a := stewardAddr s st ra imm
  let v := (regOf s st rs).toNat % 2 ^ (8 * n)
  if !stewardReady s st then .next s
  else if a % n ≠ 0 then .next (stewardFault s st 0x2004 a)
  else match registerOffset a with
    | some off =>
      let c := registerFault s st off n true
      if c ≠ 0 then .next (stewardFault s st c a)
      else if !regClocked s off then .next s
      else
        -- the write may stop the steward (EC_YIELD, R379): the instruction retires all the same
        .next (retireNext (regWriteBytes s (.steward st) off n v) st.val none)
    | none =>
      match resourceFault s (stewardPartition s st) a with
      | some f => .next (stewardMemFault s st f)
      | none =>
        let x := s.stewardAt st.val
        if 16 ≤ x.stores.length then .next s
        else .next (retireNext (s.setSteward st.val { x with stores := x.stores ++ [{ addr := a, bytes := natLe n v, part := stewardPartition s st }] }) st.val (some 1))

/-- ST8. -/
def execSt8 (st : Fin 264) (rs ra : BitVec 5) (imm : BitVec 16) (s : State) : Answer := storeStep s st rs ra imm 1
/-- ST16. -/
def execSt16 (st : Fin 264) (rs ra : BitVec 5) (imm : BitVec 16) (s : State) : Answer := storeStep s st rs ra imm 2
/-- ST32. -/
def execSt32 (st : Fin 264) (rs ra : BitVec 5) (imm : BitVec 16) (s : State) : Answer := storeStep s st rs ra imm 4
/-- ST64. -/
def execSt64 (st : Fin 264) (rs ra : BitVec 5) (imm : BitVec 16) (s : State) : Answer := storeStep s st rs ra imm 8

/-- STORE_BUFFER_DRAIN: the oldest held store is performed at its home; a line that it covers in part may meet a stored error
(02_package R42). -/
def execStoreBufferDrain (st : Fin 264) (s : State) : Answer :=
  let x := s.stewardAt st.val
  match x.stores with
  | [] => .next s
  | h :: r =>
    let t := s.setSteward st.val { x with stores := r }
    let q : Req := { owner := stewardOwner s st, part := h.part, ctx := stewardCtx s st }
    if !coreClocks s then .next s
    else if windowHeld s h.addr then .next (countStewardHeld s st.val h.addr)
    else match rangeFault t none h.addr h.bytes.length true with
      | some f => .next (memoryFault t (stewardOwner s st) f.1 f.2)
      | none =>
        let r := storeCut t q h.addr h.bytes
        match r.1 with
        | some x => .next (memoryFault r.2 (stewardOwner s st) (uncorrectableCode x) x)
        | none => .next r.2

/-! ### Atomic operations (R343) -/

/-- A held store of the steward lies in the line: the operation waits, since accesses to one line keep their order (R344). -/
def lineHeld (x : Steward) (a : Nat) : Bool := x.stores.any fun h => h.addr / 128 == a / 128

/-- An atomic operation on the doubleword at ra: `f` gives what memory becomes from the old value. -/
def amoStep (s : State) (st : Fin 264) (rd ra : BitVec 5) (f : Word64 → Word64) : Answer :=
  let a := addr48 (regOf s st ra)
  if !stewardReady s st then .next s
  else if a % 8 ≠ 0 ∨ (registerOffset a).isSome then .next (stewardFault s st 0x2004 a)
  else match rangeFault s (stewardPartition s st) a 8 false with
    | some e => .next (stewardMemFault s st e)
    | none =>
      if lineHeld (s.stewardAt st.val) a then .next s
      else if windowHeld s a then .next (countStewardHeld s st.val a)
      else
        let old := BitVec.ofNat 64 (leNat (unitBytes s (stewardCtx s st) a 8))
        let p := stewardPartition s st
        let t := if (blockedEc s (stewardCtx s st) a).isSome then countBlocked s (stewardCtx s st) a
          else storeAs (spanUse s p false a 8 true).2 p a (natLe 8 (f old).toNat)
        .next (retireNext (t.modSteward st.val fun x => x.setReg rd old) st.val ((loadLatency s st a).map (· + 4)))

/-- AMO_SWAP. -/
def execAmoSwap (st : Fin 264) (rd ra rb : BitVec 5) (s : State) : Answer := amoStep s st rd ra fun _ => regOf s st rb
/-- AMO_ADD. -/
def execAmoAdd (st : Fin 264) (rd ra rb : BitVec 5) (s : State) : Answer := amoStep s st rd ra fun old => old + regOf s st rb
/-- AMO_AND. -/
def execAmoAnd (st : Fin 264) (rd ra rb : BitVec 5) (s : State) : Answer := amoStep s st rd ra fun old => old &&& regOf s st rb
/-- AMO_OR. -/
def execAmoOr (st : Fin 264) (rd ra rb : BitVec 5) (s : State) : Answer := amoStep s st rd ra fun old => old ||| regOf s st rb
/-- CAS: rb is stored where the old value equals rd. -/
def execCas (st : Fin 264) (rd ra rb : BitVec 5) (s : State) : Answer :=
  amoStep s st rd ra fun old => if old = regOf s st rd then regOf s st rb else old

end Sys2Proof.Machine
end

