-- ==== Sys2Proof/Machine/StewardRun.lean ====
section
/-! DEFINITION. One instruction of a steward fetched and run on its own: STEP of EC_DBG_CTL (16_counters R462), and with it the
whole of a register write. -/

namespace Sys2Proof.Machine

/-- The meaning of a steward instruction; no other command is one. -/
def runInstruction (i : Instr) (s : State) : Answer :=
  match i with
  | .add st rd ra rb => execAdd st rd ra rb s
  | .sub st rd ra rb => execSub st rd ra rb s
  | .and st rd ra rb => execAnd st rd ra rb s
  | .or st rd ra rb => execOr st rd ra rb s
  | .xor st rd ra rb => execXor st rd ra rb s
  | .shl st rd ra rb => execShl st rd ra rb s
  | .shr st rd ra rb => execShr st rd ra rb s
  | .sar st rd ra rb => execSar st rd ra rb s
  | .slt st rd ra rb => execSlt st rd ra rb s
  | .sltu st rd ra rb => execSltu st rd ra rb s
  | .mul st rd ra rb => execMul st rd ra rb s
  | .mulhu st rd ra rb => execMulhu st rd ra rb s
  | .div st rd ra rb => execDiv st rd ra rb s
  | .divu st rd ra rb => execDivu st rd ra rb s
  | .rem st rd ra rb => execRem st rd ra rb s
  | .remu st rd ra rb => execRemu st rd ra rb s
  | .min st rd ra rb => execMin st rd ra rb s
  | .max st rd ra rb => execMax st rd ra rb s
  | .minu st rd ra rb => execMinu st rd ra rb s
  | .maxu st rd ra rb => execMaxu st rd ra rb s
  | .popc st rd ra => execPopc st rd ra s
  | .clz st rd ra => execClz st rd ra s
  | .ctz st rd ra => execCtz st rd ra s
  | .addi st rd ra imm => execAddi st rd ra imm s
  | .andi st rd ra imm => execAndi st rd ra imm s
  | .ori st rd ra imm => execOri st rd ra imm s
  | .xori st rd ra imm => execXori st rd ra imm s
  | .shli st rd ra cnt => execShli st rd ra cnt s
  | .shri st rd ra cnt => execShri st rd ra cnt s
  | .sari st rd ra cnt => execSari st rd ra cnt s
  | .slti st rd ra imm => execSlti st rd ra imm s
  | .sltiu st rd ra imm => execSltiu st rd ra imm s
  | .ldi st rd hw imm => execLdi st rd hw imm s
  | .insi st rd hw imm => execInsi st rd hw imm s
  | .ld8u st rd ra imm => execLd8u st rd ra imm s
  | .ld16u st rd ra imm => execLd16u st rd ra imm s
  | .ld32u st rd ra imm => execLd32u st rd ra imm s
  | .ld64 st rd ra imm => execLd64 st rd ra imm s
  | .ld8s st rd ra imm => execLd8s st rd ra imm s
  | .ld16s st rd ra imm => execLd16s st rd ra imm s
  | .ld32s st rd ra imm => execLd32s st rd ra imm s
  | .ldm st rd ra imm => execLdm st rd ra imm s
  | .st8 st rs ra imm => execSt8 st rs ra imm s
  | .st16 st rs ra imm => execSt16 st rs ra imm s
  | .st32 st rs ra imm => execSt32 st rs ra imm s
  | .st64 st rs ra imm => execSt64 st rs ra imm s
  | .stm st rs ra imm => execStm st rs ra imm s
  | .amoSwap st rd ra rb => execAmoSwap st rd ra rb s
  | .amoAdd st rd ra rb => execAmoAdd st rd ra rb s
  | .amoAnd st rd ra rb => execAmoAnd st rd ra rb s
  | .amoOr st rd ra rb => execAmoOr st rd ra rb s
  | .cas st rd ra rb => execCas st rd ra rb s
  | .beq st ra rb disp => execBeq st ra rb disp s
  | .bne st ra rb disp => execBne st ra rb disp s
  | .blt st ra rb disp => execBlt st ra rb disp s
  | .bge st ra rb disp => execBge st ra rb disp s
  | .bltu st ra rb disp => execBltu st ra rb disp s
  | .bgeu st ra rb disp => execBgeu st ra rb disp s
  | .j st disp => execJ st disp s
  | .jl st disp => execJl st disp s
  | .jlr st rd ra imm => execJlr st rd ra imm s
  | .crr st rd cr => execCrr st rd cr s
  | .crw st ra cr => execCrw st ra cr s
  | .fence st loads stores => execFence st loads stores s
  | .tret st => execTret st s
  | .scall st => execScall st s
  | .breakpoint st => execBreakpoint st s
  | .idle st => execIdle st s
  | .fault st ra => execFault st ra s
  | .missue st rd ra imm => execMissue st rd ra imm s
  | .mfence st => execMfence st s
  | .signal st ra pair => execSignal st ra pair s
  | .release st ra pair => execRelease st ra pair s
  | .wait st rd ra pair => execWait st rd ra pair s
  | .waitf st rd ra pair => execWaitf st rd ra pair s
  | .tempo st point => execTempo st point s
  | .barrier st rd ra rb => execBarrier st rd ra rb s
  | .ctime st rd => execCtime st rd s
  | _ => .next s

/-- The word at a steward's pc. -/
def fetchWord (s : State) (st : Fin 264) : BitVec 32 := BitVec.ofNat 32 (leNat (cellsRead s.mem (addr48 (s.stewardAt st.val).pc) 4))

/-- The state that a command leaves; a stop leaves the state as it was. -/
def afterAnswer (s : State) (a : Answer) : State := match a with | .next t => t | _ => s

/-- A steward that is free to go on runs one instruction: a wait tries its pair once, and an event trap that is due is taken
before the instruction (11_steward R354). A fetch that memory does not serve is its fault (02_package R46). -/
def runOne (s : State) (st : Fin 264) : State :=
  let x := s.stewardAt st.val
  match x.run with
  | .waiting e n free rd _ _ => match pairTake s e.val n.val free with | some t => endWait t st.val rd 0 | none => s
  | .placing rd acc => placingStep s st rd acc
  | .running =>
    if eventTrapDue s x then afterAnswer s (execEventTrap st s)
    else
      match rangeFault s (stewardPartition s st) (addr48 x.pc) 4 false with
      | some f => if stewardReady s st then stewardMemFault s st f else s
      | none =>
        let w := fetchWord s st
        match decodeSteward st w with
        | some i => afterAnswer s (runInstruction i s)
        | none => afterAnswer s (execIllegalInstruction st w s)
  | _ => s

/-- STEP: the selected steward of a halted EC runs one instruction, and the EC halts again (R462). -/
def dbgStep (s : State) (e : Nat) : State :=
  let d := (s.ecAt e).dbg
  if !(d.attach && d.halted) then s
  else
    let t := runOne (s.modDebug e fun x => { x with halted := false }) (selSteward s e)
    t.modDebug e fun x => if x.attach && !x.halting then { x with halting := true, why := 3 } else x

/-- The EC whose EC_DBG_CTL lies at an offset of the register space. -/
def dbgCtlAt (off : Nat) : Option Nat :=
  let w := off / 0x1000000
  let o := off % 0x1000000
  if 1 ≤ w ∧ w ≤ 4 ∧ o < 0x800000 ∧ o % 0x40000 = 0x7000 then some (32 * (w - 1) + o / 0x40000) else none

/-- A write of the register space by the management core, the loader or the host, STEP included: HALT, RUN and STEP act in this
order (log 52). -/
def fullRegWrite (s : State) (who : Agent) (off : Nat) (v : Reg32) : State :=
  let t := regWrite s who off v
  match dbgCtlAt off with
  | some e => if debugWriter who && v.getLsbD 31 && v.getLsbD 28 then dbgStep t e else t
  | none => t

end Sys2Proof.Machine
end

