-- ==== Sys2Proof/Machine/RegisterRows.lean ====
section
/-! DEFINITION. The commands that are writes of one register: each reaches its register through the one map, for the requester
that makes it. -/

namespace Sys2Proof.Machine

/-! ### The host's way to the registers (13_host R391, R393 to R396; 14_power R428; 15_trust R440) -/

/-- The function answers: firmware runs or the part is in the recovery hold, which brings up the PF alone, and a VF is enabled. -/
def functionExists (s : State) (f : Nat) : Bool :=
  s.power.state != 4 &&
    (if f = 0 then s.trust.stage == 3 || s.trust.stage == 4
     else s.trust.stage == 3 && s.pcie.vfEnable && decide (f ≤ s.pcie.numVfs.toNat))

/-- A BAR0 write of the register at `off` takes effect: not in D3hot nor in a register hot reset; in the recovery hold only the
boot registers. -/
def hostMayWrite (s : State) (f off : Nat) : Bool :=
  functionExists s f && !(s.functionAt f).d3hot && !s.power.hotReset &&
    (s.trust.stage != 4 || (decide (0x90000 ≤ off) && decide (off < 0x91000)))

/-- A write through BAR0 of a function in D3hot is an Unsupported Request (13_host R391). -/
def hostInD3hot (s : State) (who : Agent) : Bool :=
  match who with | .bar0 f => functionExists s f.val && (s.functionAt f.val).d3hot | _ => false

/-- A write of a register by a requester that may reach it. In Off only the management core serves writes (14_power R417). A write
of a register whose clock stands waits (R413; log 119): the row does nothing yet. A steward's access that R336 of 11_steward forbids is not made;
its fault belongs to the store. In the fault hold only the hub's registers are served (log 56). -/
def agentWrite (s : State) (who : Agent) (off : Nat) (v : Reg32) : State :=
  let hostOk := match who with | .bar0 f => hostMayWrite s f.val off | _ => true
  if hostInD3hot s who then unsupported s false
  else if s.power.state == 4 && who != .management then s
  else if !regClocked s off then s
  else if hostOk && (coreClocks s || decide (off < 0x1000000)) && agentReaches s who off true then fullRegWrite s who off v else s

/-- The command is the register write that its row names: the value has the bits that make it so. -/
def rowWrite (s : State) (who : Agent) (off : Nat) (v : Reg32) (isRow : Bool) : Answer := whenEnabled isRow s (agentWrite s who off v)

/-! ### Offsets (02_package R47) -/

/-- An offset of the window of a die. -/
def dieOffset (d o : Nat) : Nat := 0x1000000 * (d + 1) + o
/-- An offset of the block of an EC. -/
def ecOffset (e r : Nat) : Nat := dieOffset (e / 32) (0x40000 * (e % 32) + r)
/-- A register of a stream slot (10_streams R305). -/
def slotOffset (u i r : Nat) : Nat :=
  if u < 128 then dieOffset (u / 32) (0xA00000 + 0x1000 * (u % 32) + 16 * i + r) else 0x200000 + 0x1000 * (u - 128) + 16 * i + r

/-! ### The rows -/

/-- REGISTER_WRITE. -/
def execRegisterWrite (who : Agent) (offset : Nat) (value : Reg32) (s : State) : Answer :=
  rowWrite s who offset value (offset % 4 == 0 && decide (offset < 0x5000000))

/-- SEMA_SIGNAL_WRITE: OP 0. -/
def execSemaSignalWrite (who : Agent) (ec : Fin 128) (value : Reg32) (s : State) : Answer :=
  rowWrite s who (ecOffset ec.val 0x4000) value (value.extractLsb' 22 2 == 0)

/-- SEMA_RELEASE_WRITE: OP 1. -/
def execSemaReleaseWrite (who : Agent) (ec : Fin 128) (value : Reg32) (s : State) : Answer :=
  rowWrite s who (ecOffset ec.val 0x4000) value (value.extractLsb' 22 2 == 1)

/-- SEMA_VALUE_WRITE. -/
def execSemaValueWrite (who : Agent) (ec : Fin 128) (pair : Fin 64) (value : Reg32) (s : State) : Answer :=
  rowWrite s who (ecOffset ec.val (0x4100 + 4 * pair.val)) value true

/-- STREAM_ARM: ARM of ST_CTL, with CANCEL or without. -/
def execStreamArm (who : Agent) (unit : Fin 131) (slot : Fin 64) (cancel : Bool) (s : State) : Answer :=
  rowWrite s who (slotOffset unit.val slot.val 0x8) (if cancel then 0xC0000000 else 0x80000000) true

/-- STREAM_CANCEL: CANCEL of ST_CTL. -/
def execStreamCancel (who : Agent) (unit : Fin 131) (slot : Fin 64) (s : State) : Answer :=
  rowWrite s who (slotOffset unit.val slot.val 0x8) 0x40000000 true

/-- HBM_WINDOW_WRITE. -/
def execHbmWindowWrite (who : Agent) (w : Fin 32) (value : Reg32) (s : State) : Answer := rowWrite s who (0x40000 + 4 * w.val) value true

/-- LPD_WINDOW_WRITE. -/
def execLpdWindowWrite (who : Agent) (w : Fin 16) (value : Reg32) (s : State) : Answer := rowWrite s who (0x40080 + 4 * w.val) value true

/-- WAY_MASK_WRITE. -/
def execWayMaskWrite (who : Agent) (die : Fin 4) (p : Fin 8) (value : Reg32) (s : State) : Answer :=
  rowWrite s who (dieOffset die.val (0x800000 + 4 * p.val)) value true

/-- TABLE_DATA_WRITE. -/
def execTableDataWrite (who : Agent) (ec : Fin 128) (value : Reg32) (s : State) : Answer := rowWrite s who (ecOffset ec.val 0x3008) value true

/-- SWAP of RU_TBL_CTL. -/
def execSwap (who : Agent) (ec : Fin 128) (value : Reg32) (s : State) : Answer := rowWrite s who (ecOffset ec.val 0x3000) value (value.getLsbD 4)

/-- RESTORE of RU_TBL_CTL. -/
def execRestore (who : Agent) (ec : Fin 128) (value : Reg32) (s : State) : Answer := rowWrite s who (ecOffset ec.val 0x3000) value (value.getLsbD 3)

/-- TLB_INVALIDATE: GO of BTW_TLB_INV. -/
def execTlbInvalidate (who : Agent) (die : Fin 4) (value : Reg32) (s : State) : Answer :=
  rowWrite s who (dieOffset die.val 0x980000) value (value.getLsbD 0)

/-- CONTEXT_LIMIT_WRITE. -/
def execContextLimitWrite (who : Agent) (die : Fin 4) (p : Fin 8) (value : Reg32) (s : State) : Answer :=
  rowWrite s who (dieOffset die.val (0x900100 + 4 * p.val)) value true

/-- PARTITION_ACTIVATE: a write of HUB_PART_CTLp with ACTIVE. -/
def execPartitionActivate (who : Agent) (p : Fin 8) (value : Reg32) (s : State) : Answer :=
  rowWrite s who (0x50000 + 0x40 * p.val) value (value.getLsbD 31)

/-- PARTITION_DEACTIVATE: a write of HUB_PART_CTLp without ACTIVE. -/
def execPartitionDeactivate (who : Agent) (p : Fin 8) (value : Reg32) (s : State) : Answer :=
  rowWrite s who (0x50000 + 0x40 * p.val) value (!value.getLsbD 31)

/-- BAR2_WINDOW_WRITE. -/
def execBar2WindowWrite (who : Agent) (f : Fin 9) (value : Reg32) (s : State) : Answer := rowWrite s who (0x70100 + 4 * f.val) value true

/-- TASK_START: START of EC_TASK_CTLs. -/
def execTaskStart (who : Agent) (ec : Fin 128) (k : Fin 2) (value : Reg32) (s : State) : Answer :=
  rowWrite s who (ecOffset ec.val (0x5000 + 0x10 * k.val)) value (value.getLsbD 31)

/-- TASK_END: END of EC_TASK_CTLs. -/
def execTaskEnd (who : Agent) (ec : Fin 128) (k : Fin 2) (value : Reg32) (s : State) : Answer :=
  rowWrite s who (ecOffset ec.val (0x5000 + 0x10 * k.val)) value (value.getLsbD 30)

/-- YIELD_GO: GO of EC_YIELDs. -/
def execYieldGo (who : Agent) (ec : Fin 128) (k : Fin 2) (value : Reg32) (s : State) : Answer :=
  rowWrite s who (ecOffset ec.val (0x500C + 0x10 * k.val)) value (value.getLsbD 31)

/-- PORT_ENABLE_WRITE: RL_PORT_STATn. -/
def execPortEnableWrite (who : Agent) (port : Fin 24) (value : Reg32) (s : State) : Answer := rowWrite s who (0x100000 + 16 * port.val) value true

/-- TXCFG_WRITE. -/
def execTxcfgWrite (who : Agent) (port : Fin 24) (value : Reg32) (s : State) : Answer := rowWrite s who (0x100400 + 4 * port.val) value true

/-- PCIE_TXCFG_WRITE. -/
def execPcieTxcfgWrite (who : Agent) (value : Reg32) (s : State) : Answer := rowWrite s who 0x70010 value true

/-- REFORM of RL_RING_CTL. -/
def execReform (who : Agent) (value : Reg32) (s : State) : Answer := rowWrite s who 0x100200 value (value.getLsbD 31)

/-- LEAVE of RL_RING_CTL. -/
def execLeave (who : Agent) (value : Reg32) (s : State) : Answer := rowWrite s who 0x100200 value (value.getLsbD 30)

/-- PWR_GO: GO of HUB_PWR_CTL. -/
def execPwrGo (who : Agent) (value : Reg32) (s : State) : Answer := rowWrite s who 0x80000 value (value.getLsbD 31)

/-- PWR_RESUME: RESUME of HUB_PWR_CTL. -/
def execPwrResume (who : Agent) (value : Reg32) (s : State) : Answer := rowWrite s who 0x80000 value (value.getLsbD 30)

/-- REGISTER_HOT_RESET: HOT of HUB_RST_CTL. -/
def execRegisterHotReset (who : Agent) (value : Reg32) (s : State) : Answer := rowWrite s who 0x80300 value (value.getLsbD 31)

/-- THERMAL_CFG_WRITE. -/
def execThermalCfgWrite (who : Agent) (value : Reg32) (s : State) : Answer := rowWrite s who 0x80200 value true

/-- RAIL_CFG_WRITE. -/
def execRailCfgWrite (who : Agent) (n : Fin 6) (value : Reg32) (s : State) : Answer := rowWrite s who (0x80100 + 4 * n.val) value true

/-- RECOVERY_GO: GO of HUB_RCV_CTL. -/
def execRecoveryGo (who : Agent) (value : Reg32) (s : State) : Answer := rowWrite s who 0x90110 value (value.getLsbD 31)

/-- KICK of MGT_WDOG_CTL. -/
def execKick (who : Agent) (value : Reg32) (s : State) : Answer := rowWrite s who 0x90200 value (value.getLsbD 31)

/-- WATCHDOG_LOCK: LOCK of MGT_WDOG_CTL. -/
def execWatchdogLock (who : Agent) (value : Reg32) (s : State) : Answer := rowWrite s who 0x90200 value (value.getLsbD 29)

/-- SNAPSHOT_ARM: ARM of HUB_SNAP_CTL. -/
def execSnapshotArm (who : Agent) (value : Reg32) (s : State) : Answer := rowWrite s who 0xB0000 value (value.getLsbD 31)

/-- SNAPSHOT_CANCEL: CANCEL of HUB_SNAP_CTL. -/
def execSnapshotCancel (who : Agent) (value : Reg32) (s : State) : Answer := rowWrite s who 0xB0000 value (value.getLsbD 30)

/-- ATTACH: a write of EC_DBG_CTL that asks for no other action. -/
def execAttach (who : Agent) (ec : Fin 128) (value : Reg32) (s : State) : Answer :=
  rowWrite s who (ecOffset ec.val 0x7000) value (value.extractLsb' 28 3 == 0)

/-- HALT of EC_DBG_CTL. -/
def execHalt (who : Agent) (ec : Fin 128) (value : Reg32) (s : State) : Answer := rowWrite s who (ecOffset ec.val 0x7000) value (value.getLsbD 30)

/-- RUN of EC_DBG_CTL. -/
def execRun (who : Agent) (ec : Fin 128) (value : Reg32) (s : State) : Answer := rowWrite s who (ecOffset ec.val 0x7000) value (value.getLsbD 29)

/-- STEP of EC_DBG_CTL. -/
def execStep (who : Agent) (ec : Fin 128) (value : Reg32) (s : State) : Answer := rowWrite s who (ecOffset ec.val 0x7000) value (value.getLsbD 28)

/-- DEBUG_DATA_WRITE: EC_DBG_DATA_LO or EC_DBG_DATA_HI. -/
def execDebugDataWrite (who : Agent) (ec : Fin 128) (hi : Bool) (value : Reg32) (s : State) : Answer :=
  rowWrite s who (ecOffset ec.val (if hi then 0x700C else 0x7008)) value true

end Sys2Proof.Machine
end

