-- ==== Sys2Proof/Machine/Host.lean ====
section
/-! DEFINITION. The host interface: the BARs, doorbells, MSI-X, ATS, configuration requests and function-level reset
(13_host R389 to R408). -/

namespace Sys2Proof.Machine

/-! ### MSI-X (R404, R405) -/

/-- The pending messages of a function whose entries are open now are sent. -/
def sendPending (s : State) (f : Nat) : State :=
  let due := (s.functionAt f).pending.filter fun e => msixOpen s f e
  let t := s.setFunction f { s.functionAt f with pending := (s.functionAt f).pending.filter fun e => !msixOpen s f e }
  t.modPcie fun x => { x with sent := x.sent ++ due.map fun e => (f, e) }

/-- The MSI-X entries of a function. -/
def msixSize (f : Nat) : Nat := if f = 0 then 2048 else 224

/-- A word of the MSI-X table; an entry is masked until software unmasks it. -/
def msixWord (s : State) (f w : Nat) : Reg32 := tabGet (if w % 4 = 3 then 1 else 0) (s.functionAt f).table w

/-- A write of a word of the MSI-X table: vector control holds the mask bit alone, and unmasking sends what is pending. -/
def msixWrite (s : State) (f w : Nat) (v : Reg32) : State :=
  let x := s.functionAt f
  let e := w / 4
  if w % 4 ≠ 3 then s.setFunction f { x with table := tabSet x.table w v }
  else
    let l := x.unmasked.filter fun k => k != e
    sendPending (s.setFunction f { x with
      table := tabSet x.table w (v &&& 1), unmasked := if v.getLsbD 0 then l else l ++ [e] }) f

/-- A word of the pending-bit array. -/
def pbaWord (s : State) (f w : Nat) : Reg32 :=
  reg (((List.range 32).map fun b => if (s.functionAt f).pending.contains (32 * w + b) then 2 ^ b else 0).sum)

/-- MSIX_UNMASK: a write of the MSI-X table in BAR0, which neither the recovery hold nor a register hot reset takes. -/
def execMsixUnmask (f : Fin 9) (entry : Fin 2048) (s : State) : Answer :=
  if functionExists s f.val && (s.functionAt f.val).d3hot then .next (unsupported s false)
  else whenEnabled (functionExists s f.val && decide (entry.val < msixSize f.val) && s.trust.stage != 4 && !s.power.hotReset) s
    (msixWrite s f.val (4 * entry.val + 3) (msixWord s f.val (4 * entry.val + 3) &&& ~~~1))

/-! ### BAR0 (R395, R396) -/

/-- What a 4-byte word of BAR0 reaches. -/
inductive Bar0Target where
  | register (off : Nat)
  | table (w : Nat)
  | pba (w : Nat)
  | reserved
  deriving DecidableEq, Repr

/-- The map of BAR0. -/
def bar0Target (f x : Nat) : Bar0Target :=
  if f = 0 then
    if x < 0x3C00000 then .register (x / 0xC00000 * 0x1000000 + x % 0xC00000)
    else if x < 0x3C08000 then .table ((x - 0x3C00000) / 4)
    else if 0x3C10000 ≤ x ∧ x < 0x3C10100 then .pba ((x - 0x3C10000) / 4)
    else .reserved
  else if x = 0 then .register (0x70100 + 4 * f)
  else if 0x2000 ≤ x ∧ x < 0x2E00 then .table ((x - 0x2000) / 4)
  else if 0x3000 ≤ x ∧ x < 0x3020 then .pba ((x - 0x3000) / 4)
  else .reserved

/-- R440 of 15_trust: outside the recovery hold, or among the boot registers. -/
def recoveryTakes (s : State) (t : Bar0Target) : Bool :=
  s.trust.stage != 4 || match t with | .register off => decide (0x90000 ≤ off) && decide (off < 0x91000) | _ => false

/-- A 4-byte read. In a register hot reset only HUB_PWR_STAT reads; in the fault hold the dies' clocks stand, and what a read of
a die's register returns is open (log 56). -/
def bar0Read (s : State) (f x : Nat) : Reg32 × State :=
  let t := bar0Target f x
  if (s.power.hotReset && t != .register 0x80004) || !recoveryTakes s t then (0, s)
  else match t with
    | .register off =>
      if !coreClocks s && decide (0x1000000 ≤ off) then
        let d := drawFree s
        (d.1.setWidth 32, d.2)
      else regRead s off
    | .table w => (msixWord s f w, s)
    | .pba w => (pbaWord s f w, s)
    | .reserved => (0, s)

/-- A 4-byte write. -/
def bar0Write (s : State) (f : Fin 9) (x : Nat) (v : Reg32) : State :=
  let t := bar0Target f.val x
  if s.power.hotReset || !recoveryTakes s t then s
  else match t with
    | .register off => agentWrite s (.bar0 f) off v
    | .table w => msixWrite s f.val w v
    | _ => s

/-- The size and alignment that BAR0 accepts. -/
def bar0Size (x n : Nat) : Bool := (n == 4 && x % 4 == 0) || (n == 8 && x % 8 == 0)

/-- An access to a register of a die whose clock stands waits (14_power R413). -/
def bar0Waits (s : State) (f x : Nat) : Bool := match bar0Target f x with | .register off => coreClocks s && !regClocked s off | _ => false

/-- BAR0_ACCESS. -/
def execBar0Access (f : Fin 9) (offset size : Nat) (write : Option HostWrite) (s : State) : Answer :=
  if !functionExists s f.val then .next s
  else if (s.functionAt f.val).d3hot then .next (unsupported s write.isNone)
  else if write = some .poisoned then .next (reportAer s "Poisoned TLP Received")
  else if !bar0Size offset size then
    let t := bumpHub s cntBarErr
    .next (if write.isNone then returnData t (List.replicate size 0) else t)
  else if bar0Waits s f.val offset then .next s
  else match write with
    | none =>
      let a := bar0Read s f.val offset
      if size = 4 then .next (returnData a.2 (natLe 4 a.1.toNat))
      else
        let b := bar0Read a.2 f.val (offset + 4)
        .next (returnData b.2 (natLe 4 a.1.toNat ++ natLe 4 b.1.toNat))
    | some .poisoned => .next s
    | some (.data bs) =>
      let t := bar0Write s f offset (reg (field bs 0 4))
      .next (if size = 8 then bar0Write t f (offset + 4) (reg (field bs 4 4)) else t)

/-! ### BAR2 (R397 to R399) -/

/-- R420, R425 and R428 of 14_power: no BAR2 access is served. -/
def bar2Asleep (s : State) : Bool := s.power.state == 2 || s.power.state == 3 || s.power.state == 7 || s.power.hotReset

/-- BAR2 in the recovery hold: the firmware SRAM (15_trust R440, R441). What lies beyond it reads as 0xFF, and writes there are discarded. -/
def bar2Recovery (s : State) (x n : Nat) (write : Option (List Byte)) : State :=
  let k := min n (firmwareSramSize - x)
  match write with
  | none => returnData s (getBytes s.trust.sram x k ++ List.replicate (n - k) 0xFF)
  | some bs => if k = 0 ∨ s.trust.rcvBusy then s else s.modTrust fun y => { y with sram := putBytes y.sram x (bs.take k) }

/-- A BAR2 read: one that waits, or that a posted write of its function precedes, does not complete. -/
def bar2Read (s : State) (f a n : Nat) : State :=
  match bar2Fault s f a n with
  | some e => bar2Fail s e.1 e.2 n true
  | none => if spanHeld s a n || postedWaits s f then s else bar2Fetch s f a n

/-- A BAR2 write: it waits in the hub where it must (R401; 02_package R38). -/
def bar2Write (s : State) (f a : Nat) (bs : List Byte) : State :=
  if postedWaits s f || ((bar2Fault s f a bs.length).isNone && spanHeld s a bs.length) then
    { s with posted := s.posted ++ [.bar2 f a bs] }
  else bar2Store s f a bs

/-- BAR2_ACCESS. -/
def execBar2Access (f : Fin 9) (offset : Nat) (len : Nat) (write : Option (List Byte)) (poisoned : Bool) (s : State) : Answer :=
  let a := bar2Addr s f.val offset
  let n := match write with | some bs => bs.length | none => len
  if !functionExists s f.val ∨ n = 0 then .next s
  else if (s.functionAt f.val).d3hot then .next (unsupported s write.isNone)
  else if write.isSome && poisoned then .next (reportAer s "Poisoned TLP Received")
  else if s.trust.stage = 4 then .next (bar2Recovery s offset n write)
  else if bar2Asleep s then .next (bar2Fail s 0x6009 a n write.isNone)
  else match write with
    | none => .next (bar2Read s f.val a n)
    | some bs => .next (bar2Write s f.val a bs)

/-! ### BAR4 (R400, R401) -/

/-- The partition of a doorbell page: none for the supervisor page. -/
def pagePartition (page : Nat) : Option Nat := if page = 0 then none else some (page - 1)

/-- A page of BAR4 that a function reaches: the PF all 16, VF k its own. -/
def pageReached (f page : Nat) : Bool := f == 0 || f == page

/-- Writes of BAR4 are ignored: in the recovery hold, in the fault hold and during a register hot reset (log 57). -/
def bar4Closed (s : State) : Bool := s.trust.stage != 3 || s.power.state == 7 || s.power.hotReset

/-- DOORBELL: behind its function's posted writes (R401); in Idle, Nap and Doze the latch takes it (14_power R420). -/
def execDoorbell (f : Fin 9) (page : Fin 16) (data : Word64) (read : HostRead) (s : State) : Answer :=
  if !functionExists s f.val || !pageReached f.val page.val || bar4Closed s then .next s
  else if (s.functionAt f.val).d3hot then .next (bumpHub (unsupported s false) cntDbBad)
  else if read = .poisonedWrite then .next (reportAer s "Poisoned TLP Received")
  else if 9 ≤ page.val then .next (bumpHub s cntDbBad)
  else if postedWaits s f.val then .next { s with posted := s.posted ++ [.doorbell f.val (pagePartition page.val) data read] }
  else .next (takeDoorbell s (pagePartition page.val) data read)

/-- An access of BAR4 that is a doorbell. -/
def isDoorbell (offset size : Nat) : Bool := size == 8 && offset % 4096 == 0 && decide (offset / 4096 < 9)

/-- BAR4_ACCESS: reads give zero; any write that is no doorbell is counted. A doorbell is the row DOORBELL. -/
def execBar4Access (f : Fin 9) (offset size : Nat) (write : Option HostWrite) (s : State) : Answer :=
  if !functionExists s f.val then .next s
  else if write.isSome && isDoorbell offset size then .next s
  else if (s.functionAt f.val).d3hot then .next (unsupported s write.isNone)
  else match write with
    | none => .next (returnData s (List.replicate size 0))
    | some w => .next (if bar4Closed s then s else if w = .poisoned then reportAer s "Poisoned TLP Received" else bumpHub s cntDbBad)

/-- COMPLETION_TIMEOUT: the host-ring read of a valid doorbell times out, and the doorbell is invalid (R403). -/
def execCompletionTimeout (f : Fin 9) (page : Fin 16) (data : Word64) (s : State) : Answer :=
  let n := (data.extractLsb' 0 20).toNat
  let ok := functionExists s f.val && pageReached f.val page.val && !bar4Closed s && !latched s && !(s.functionAt f.val).d3hot &&
    decide (page.val < 9) && !postedWaits s f.val && doorbellValid s (pagePartition page.val) data && (s.queueAt n).host
  whenEnabled ok s (reportAer (hostReadFailed s n) "Completion Timeout")

/-! ### ATS (R403) -/

/-- ATS_INVALIDATION: the page's translations leave the cache, and the completion waits for the copies that use one. A copy is one step of this
model, so that none is in use between steps (log 131). -/
def execAtsInvalidation (page : Nat) (s : State) : Answer :=
  whenEnabled (functionExists s 0) s
    (s.modPcie fun x =>
      let y := { x with atsCache := x.atsCache.filter fun e => e.2 != page }
      if x.atsInUse.contains page then { y with atsWaiting := x.atsWaiting ++ [page] } else { y with atsDone := x.atsDone ++ [page] })

/-! ### Function-level reset and D3hot (R391, R407, R408) -/

/-- R407 step 1: the contexts of a partition that are not FREE or IDLE are torn down. -/
def partitionReset (s : State) (p : Nat) : State :=
  dropLab ((List.finRange 64).foldl (fun t c =>
    let x := t.ctxAt c.val
    if x.part.toNat = p ∧ x.state ≠ 0 ∧ x.state ≠ 1 then tearLogged t c 0x200D else t) s) p

/-- FLR_VF: VF k + 1 and partition k. -/
def execFlrVf (k : Fin 8) (s : State) : Answer :=
  let t := (partitionReset s k.val).setFunction (k.val + 1) {}
  whenEnabled (functionExists s (k.val + 1)) s (t.modPcie fun x => { x with bar2 := tabErase x.bar2 (k.val + 1) })

/-- R408: the reset of the PF. -/
def pfReset (s : State) : State :=
  let t := ((List.range 8).filter fun p => (s.partAt p).active).foldl partitionReset s
  let t := t.modPcie fun x => { x with
    vfEnable := false, numVfs := 0, functions := [], bar2 := [], atsCache := [], maxPayload := 0, maxReadRequest := 2, tenBitTags := false,
    atsEnable := false, pasidEnable := false, vfBars := [], aerStatus := 0, aerMask := 0, aerSeverity := 0x00462010,
    aerCorrectableStatus := 0, aerCorrectableMask := 0 }
  let t := { t with doe := {} }
  let t := (List.range 15).foldl (fun u i => if (u.queueAt (i + 1)).state = 1 then stopQueue u (i + 1) else u) t
  if s.trust.stage = 3 then enableQueue0 t else t

/-- FLR_PF. -/
def execFlrPf (s : State) : Answer := whenEnabled (functionExists s 0) s (pfReset s)

/-- PCIE_HOT_RESET: a hot reset or a loss of the link, which then trains again. -/
def execPcieHotReset (s : State) : Answer :=
  whenEnabled (functionExists s 0) s ((pfReset s).modPcie fun x => { x with linkUp := false })

/-- The PCI power state of a function changes; messages that waited in D3hot are sent in D0. -/
def setD3hot (s : State) (f : Nat) (d3 : Bool) : State := sendPending (s.setFunction f { s.functionAt f with d3hot := d3 }) f

/-- D3HOT. -/
def execD3hot (f : Fin 9) (enter : Bool) (s : State) : Answer := whenEnabled (functionExists s f.val) s (setD3hot s f.val enter)

/-! ### Configuration requests (R389, R392, R393) -/

/-- The sizes of the BARs of a function, as powers of two (R394). -/
def barLog2 (vf : Bool) (n : Nat) : Nat := match n with | 0 => if vf then 14 else 26 | 1 => 36 | _ => if vf then 12 else 16

/-- A word of a BAR as it reads: the bits that software has set above the size; the lower word says 64-bit, and prefetchable for BAR2. -/
def barWord (vf : Bool) (bars : Tab (BitVec 32)) (w : Nat) : Nat :=
  let k := barLog2 vf (w / 2)
  let v := (tabGet 0 bars w).toNat
  if w % 2 = 1 then v / 2 ^ (k - 32) * 2 ^ (k - 32)
  else (if k < 32 then v / 2 ^ k * 2 ^ k else 0) + (if w / 2 = 1 then 12 else 4)

/-- What a field reads: those of the PF's capabilities are zero on a VF (log 130). -/
def configRead (s : State) (f : Nat) (c : ConfigField) : Nat :=
  let x := s.functionAt f
  match c with
  | .vendorId => 0x1F5C
  | .deviceId => if f = 0 then 0x4040 else 0x4041
  | .revisionId => if f = 0 then stepCode s 4 % 256 else 0x20
  | .classCode => 0x120000
  | .vfEnable => if f = 0 ∧ s.pcie.vfEnable then 1 else 0
  | .numVfs => if f = 0 then s.pcie.numVfs.toNat else 0
  | .totalVfs => if f = 0 then 8 else 0
  | .firstVfOffset => if f = 0 then 1 else 0
  | .vfStride => if f = 0 then 1 else 0
  | .maxPayload => if f = 0 then s.pcie.maxPayload.toNat else 0
  | .maxReadRequest => if f = 0 then s.pcie.maxReadRequest.toNat else 0
  | .tenBitTags => if f = 0 ∧ s.pcie.tenBitTags then 1 else 0
  | .atsEnable => if f = 0 ∧ s.pcie.atsEnable then 1 else 0
  | .atsQueueDepth => if f = 0 then 32 else 0
  | .pasidEnable => if f = 0 ∧ s.pcie.pasidEnable then 1 else 0
  | .pasidWidth => if f = 0 then 20 else 0
  | .aerStatus => if f = 0 then s.pcie.aerStatus.toNat else 0
  | .aerMask => if f = 0 then s.pcie.aerMask.toNat else 0
  | .aerSeverity => if f = 0 then s.pcie.aerSeverity.toNat else 0
  | .aerCorrectableStatus => if f = 0 then s.pcie.aerCorrectableStatus.toNat else 0
  | .aerCorrectableMask => if f = 0 then s.pcie.aerCorrectableMask.toNat else 0
  | .bar n => if f = 0 then barWord false x.bars n.val else 0
  | .vfBar n => if f = 0 then barWord true s.pcie.vfBars n.val else 0
  | .msixEnable => if x.msixEnable then 1 else 0
  | .functionMask => if x.functionMask then 1 else 0
  | .powerState => if x.d3hot then 3 else 0

/-- VFs that no longer exist lose their state. -/
def dropVfs (s : State) : State :=
  s.modPcie fun x => { x with functions := x.functions.filter fun e => e.1 == 0 || (x.vfEnable && decide (e.1 ≤ x.numVfs.toNat)) }

/-- The uncorrectable errors that R406 names, as bits of the AER registers. -/
def aerBits : Reg32 := 0x00577010

/-- The correctable errors that R406 names: Receiver Error, Bad TLP, Bad DLLP, REPLAY_NUM Rollover, Replay Timer Timeout, Advisory Non-Fatal and
Header Log Overflow. -/
def aerCorrectableBits : Reg32 := 0x0000B1C1

/-- What a write of a field of the PF's capabilities does; the status words are cleared by writing ones. -/
def capabilityWrite (x : Pcie) (c : ConfigField) (v : Nat) : Pcie :=
  match c with
  | .maxPayload => if v ≤ 2 then { x with maxPayload := BitVec.ofNat 3 v } else x
  | .maxReadRequest => if v ≤ 5 then { x with maxReadRequest := BitVec.ofNat 3 v } else x
  | .tenBitTags => { x with tenBitTags := v % 2 == 1 }
  | .atsEnable => { x with atsEnable := v % 2 == 1 }
  | .pasidEnable => { x with pasidEnable := v % 2 == 1 }
  | .aerStatus => { x with aerStatus := x.aerStatus &&& ~~~(reg v) }
  | .aerMask => { x with aerMask := reg v &&& aerBits }
  | .aerSeverity => { x with aerSeverity := reg v &&& aerBits }
  | .aerCorrectableStatus => { x with aerCorrectableStatus := x.aerCorrectableStatus &&& ~~~(reg v) }
  | .aerCorrectableMask => { x with aerCorrectableMask := reg v &&& aerCorrectableBits }
  | .vfBar n => { x with vfBars := tabSet x.vfBars n.val (reg v) }
  | _ => x

/-- What a write of a field does; a field that is read-only, or of another function, keeps its value. -/
def configWrite (s : State) (f : Nat) (c : ConfigField) (v : Nat) : State :=
  let x := s.functionAt f
  match c with
  | .vfEnable => if f = 0 then dropVfs (s.modPcie fun x => { x with vfEnable := v % 2 == 1 }) else s
  | .numVfs => if f = 0 ∧ v ≤ 8 then dropVfs (s.modPcie fun x => { x with numVfs := BitVec.ofNat 4 v }) else s
  | .msixEnable => sendPending (s.setFunction f { x with msixEnable := v % 2 == 1 }) f
  | .functionMask => sendPending (s.setFunction f { x with functionMask := v % 2 == 1 }) f
  | .powerState => if v = 0 then setD3hot s f false else if v = 3 then setD3hot s f true else s
  | .bar n => if f = 0 then s.setFunction f { x with bars := tabSet x.bars n.val (reg v) } else s
  | c => if f = 0 then s.modPcie fun x => capabilityWrite x c v else s

/-- CONFIGURATION_REQUEST: Request Retry Status, which carries no data, until firmware starts (14_power R430). -/
def execConfigurationRequest (f : Fin 9) (field : ConfigField) (write : Option Nat) (s : State) : Answer :=
  if s.pcie.controllerReset ∨ s.power.state = 4 then .next s
  else if !functionExists s f.val then .next (if write.isNone then returnData s [] else s)
  else match write with
    | none => .next (returnData s (natLe 4 (configRead s f.val field)))
    | some v => .next (configWrite s f.val field v)

end Sys2Proof.Machine
end

