-- ==== Sys2Proof/Machine/Orders.lean ====
section
/-! DEFINITION. The queued ordering commands (11_steward R355, R347; 12_partitions R379, R380). -/

namespace Sys2Proof.Machine

/-- An ordering command of a port by its acceptance number and opcode, which its context's pause does not hold. -/
def orderAt (s : State) (port acc op : Nat) : Option MacroRec :=
  match macroAt s port acc with
  | none => none
  | some r => if wOpcode r.word = op ∧ !ctxPaused s r.ctx then some r else none

/-- The place of a command is the first that has not started in every queue of its crew. -/
def headsWaiting (s : State) (port : Nat) (r : MacroRec) : Bool :=
  (crewUnits port r.word).all fun u =>
    match firstWaiting s u with
    | some p => p.port.val == port && p.acc == r.acc
    | none => false

/-- The place of a command is the first of all in every queue of its crew: everything ahead of it has completed. -/
def headsAll (s : State) (port : Nat) (r : MacroRec) : Bool :=
  (crewUnits port r.word).all fun u =>
    match (queueOf s u).head? with
    | some p => p.port.val == port && p.acc == r.acc
    | none => false

/-- PAIR, ARG and TIME of an ordering word. -/
def oPair (w : List Byte) : BitVec 16 := BitVec.ofNat 16 (field w 2 2)
def oArg (w : List Byte) : Nat := field w 8 4
def oFree (w : List Byte) : Bool := bit (wCtl w) 0
def oTime (w : List Byte) : Nat := field w 0x10 8

/-- The fields of an ordering word have the values that R355 gives them; a word that breaks this has no effect (log 37). -/
def orderValid (op : Nat) (r : MacroRec) : Bool :=
  let w := r.word
  decide (wCtl w < 2) && reservedZero w 0x0C 0x10 && reservedZero w 0x18 0x40 &&
    match op with
    | 0x20 => pairLegal r.issuer (oPair w) && decide (1 ≤ oArg w) && decide (oArg w ≤ 65535) && oTime w == 0
    | 0x21 => pairLegal r.issuer (oPair w) && oArg w == 0 && oTime w == 0
    | 0x22 => oTime w == 0
    | _ => oArg w == 0

/-- The EC of an ordering word's pair lies in the partition of its issuer's context. -/
def orderAllowed (s : State) (r : MacroRec) : Bool :=
  match r.ctx with
  | none => true
  | some c => partHasEc s (s.ctxAt c.val).part.toNat (pairEc r.issuer (oPair r.word))

/-- An ordering command acts: it leaves the queues, and its issuer counts it (log 13). -/
def orderActs (s : State) (port : Nat) (r : MacroRec) : State := removeCommand s port r

/-- SIGNAL. -/
def execOrderSignal (port : Fin 5) (acc : Nat) (s : State) : Answer := whileClocked s <|
  match orderAt s port.val acc 0x20 with
  | none => .next s
  | some r =>
    if !headsAll s port.val r then .next s
    else
      let t := orderActs s port.val r
      if !orderValid 0x20 r then .next t
      else if !orderAllowed s r then .next (memoryFault t (.task r.issuer) 0x4005 (oPair r.word).toNat)
      else
        let y := pairIncrease t (pairEc r.issuer (oPair r.word)) (pairNum (oPair r.word)) (oFree r.word) (oArg r.word)
        .next (if y.2 then memoryFault y.1 (.task r.issuer) 0x4009 (oPair r.word).toNat else y.1)

/-- A WAIT or TEMPO that holds the queues of its crew: one cycle of waiting in each of the crew's ECs that is not
halted (11_steward R355; 16_counters R462; log 75). -/
def orderHeld (s : State) (port : Nat) (r : MacroRec) (cause : Nat) : State :=
  if port < 4 then (crewUnits port r.word).foldl (fun t e => if ecStopped s e then t else bumpEc t e cause) s else s

/-- WAIT; the EC's own stewards and stream slots, and the stewards that wait already, are served first (10_streams R311; log 74). -/
def execOrderWait (port : Fin 5) (acc : Nat) (s : State) : Answer := whileClocked s <|
  match orderAt s port.val acc 0x21 with
  | none => .next s
  | some r =>
    if !headsWaiting s port.val r then .next s
    else if !orderValid 0x21 r then .next (orderActs s port.val r)
    else if !orderAllowed s r then .next (memoryFault (orderActs s port.val r) (.task r.issuer) 0x4005 (oPair r.word).toNat)
    else
      let e := pairEc r.issuer (oPair r.word)
      let n := pairNum (oPair r.word)
      if (ownStewardWaits s e n (oFree r.word)).isSome ∨ (slotWants s e n (oFree r.word)).isSome ∨ otherStewardWaits s e n (oFree r.word) then .next (orderHeld s port.val r cntStallSem)
      else
        match pairTake s e n (oFree r.word) with
        | none => .next (orderHeld s port.val r cntStallSem)
        | some t => .next (orderActs t port.val r)

/-- The context of a command has a pre-emption request. -/
def yieldAsked (s : State) (c : Option (Fin 64)) : Bool :=
  match c with
  | some c => (s.ctxAt c.val).state == 5
  | none => false

/-- TEMPO. -/
def execOrderTempo (port : Fin 5) (acc : Nat) (s : State) : Answer := whileClocked s <|
  match orderAt s port.val acc 0x22 with
  | none => .next s
  | some r =>
    whenEnabled (headsWaiting s port.val r) s
      (if yieldAsked s r.ctx then orderHeld s port.val r cntStallPreempt else orderActs s port.val r)

/-- BARRIER. -/
def execOrderBarrier (port : Fin 5) (acc : Nat) (s : State) : Answer := whileClocked s <|
  match orderAt s port.val acc 0x23 with
  | none => .next s
  | some r =>
    whenEnabled (headsWaiting s port.val r && (!orderValid 0x23 r || reached s (BitVec.ofNat 64 (oTime r.word)))) s
      (orderActs s port.val r)

end Sys2Proof.Machine
end

