-- ==== Sys2Proof/Machine/Dispatch.lean ====
section
/-! DEFINITION. The meaning of every command: one direct call each. -/

namespace Sys2Proof.Machine

def exec (i : Instr) (s : State) : Host.Outcome State Fault Refusal :=
  match i with
  | .matmul die acc => Sys2Proof.Machine.execMatmul die acc s
  | .chain die acc => Sys2Proof.Machine.execChain die acc s
  | .combine die acc => Sys2Proof.Machine.execCombine die acc s
  | .norm die acc => Sys2Proof.Machine.execNorm die acc s
  | .rowfn die acc => Sys2Proof.Machine.execRowfn die acc s
  | .expand die acc => Sys2Proof.Machine.execExpand die acc s
  | .attend die acc => Sys2Proof.Machine.execAttend die acc s
  | .attendBwd die acc => Sys2Proof.Machine.execAttendBwd die acc s
  | .gambitCommit die acc => Sys2Proof.Machine.execGambitCommit die acc s
  | .append die acc => Sys2Proof.Machine.execAppend die acc s
  | .appendTentative die acc => Sys2Proof.Machine.execAppendTentative die acc s
  | .attachPrefix die acc => Sys2Proof.Machine.execAttachPrefix die acc s
  | .publishPrefix die acc => Sys2Proof.Machine.execPublishPrefix die acc s
  | .truncate die acc => Sys2Proof.Machine.execTruncate die acc s
  | .copy port acc => Sys2Proof.Machine.execCopy port acc s
  | .gather port acc => Sys2Proof.Machine.execGather port acc s
  | .scatter port acc => Sys2Proof.Machine.execScatter port acc s
  | .search die acc => Sys2Proof.Machine.execSearch die acc s
  | .selectBales die acc => Sys2Proof.Machine.execSelectBales die acc s
  | .orderSignal port acc => Sys2Proof.Machine.execOrderSignal port acc s
  | .orderWait port acc => Sys2Proof.Machine.execOrderWait port acc s
  | .orderTempo port acc => Sys2Proof.Machine.execOrderTempo port acc s
  | .orderBarrier port acc => Sys2Proof.Machine.execOrderBarrier port acc s
  | .commandStart unit => Sys2Proof.Machine.execCommandStart unit s
  | .tileTake ec eng acc => Sys2Proof.Machine.execTileTake ec eng acc s
  | .tileGrant ec eng acc => Sys2Proof.Machine.execTileGrant ec eng acc s
  | .tileSteal ec eng acc => Sys2Proof.Machine.execTileSteal ec eng acc s
  | .vectorEntry ec eng => Sys2Proof.Machine.execVectorEntry ec eng s
  | .feederFill ec eng lane => Sys2Proof.Machine.execFeederFill ec eng lane s
  | .residentBufferLoad ec eng lane => Sys2Proof.Machine.execResidentBufferLoad ec eng lane s
  | .accumulatorDrain ec eng => Sys2Proof.Machine.execAccumulatorDrain ec eng s
  | .combineStep ec eng => Sys2Proof.Machine.execCombineStep ec eng s
  | .macroComplete port acc => Sys2Proof.Machine.execMacroComplete port acc s
  | .rowTile ec acc => Sys2Proof.Machine.execRowTile ec acc s
  | .scoreStoreGrant ec => Sys2Proof.Machine.execScoreStoreGrant ec s
  | .spanPassOne ec eng => Sys2Proof.Machine.execSpanPassOne ec eng s
  | .spanRowUnit ec => Sys2Proof.Machine.execSpanRowUnit ec s
  | .spanPassTwo ec eng => Sys2Proof.Machine.execSpanPassTwo ec eng s
  | .waveAdmit die acc => Sys2Proof.Machine.execWaveAdmit die acc s
  | .probeSelect die cx => Sys2Proof.Machine.execProbeSelect die cx s
  | .scanJobsForm die acc => Sys2Proof.Machine.execScanJobsForm die acc s
  | .scanBlock die job => Sys2Proof.Machine.execScanBlock die job s
  | .scanJobEnd die cx => Sys2Proof.Machine.execScanJobEnd die cx s
  | .fetchArrive die cx => Sys2Proof.Machine.execFetchArrive die cx s
  | .rerank die cx arrived => Sys2Proof.Machine.execRerank die cx arrived s
  | .emit die cx => Sys2Proof.Machine.execEmit die cx s
  | .dragomanTeardownFree die ctx => Sys2Proof.Machine.execDragomanTeardownFree die ctx s
  | .add st rd ra rb => Sys2Proof.Machine.execAdd st rd ra rb s
  | .sub st rd ra rb => Sys2Proof.Machine.execSub st rd ra rb s
  | .and st rd ra rb => Sys2Proof.Machine.execAnd st rd ra rb s
  | .or st rd ra rb => Sys2Proof.Machine.execOr st rd ra rb s
  | .xor st rd ra rb => Sys2Proof.Machine.execXor st rd ra rb s
  | .shl st rd ra rb => Sys2Proof.Machine.execShl st rd ra rb s
  | .shr st rd ra rb => Sys2Proof.Machine.execShr st rd ra rb s
  | .sar st rd ra rb => Sys2Proof.Machine.execSar st rd ra rb s
  | .slt st rd ra rb => Sys2Proof.Machine.execSlt st rd ra rb s
  | .sltu st rd ra rb => Sys2Proof.Machine.execSltu st rd ra rb s
  | .mul st rd ra rb => Sys2Proof.Machine.execMul st rd ra rb s
  | .mulhu st rd ra rb => Sys2Proof.Machine.execMulhu st rd ra rb s
  | .div st rd ra rb => Sys2Proof.Machine.execDiv st rd ra rb s
  | .divu st rd ra rb => Sys2Proof.Machine.execDivu st rd ra rb s
  | .rem st rd ra rb => Sys2Proof.Machine.execRem st rd ra rb s
  | .remu st rd ra rb => Sys2Proof.Machine.execRemu st rd ra rb s
  | .min st rd ra rb => Sys2Proof.Machine.execMin st rd ra rb s
  | .max st rd ra rb => Sys2Proof.Machine.execMax st rd ra rb s
  | .minu st rd ra rb => Sys2Proof.Machine.execMinu st rd ra rb s
  | .maxu st rd ra rb => Sys2Proof.Machine.execMaxu st rd ra rb s
  | .popc st rd ra => Sys2Proof.Machine.execPopc st rd ra s
  | .clz st rd ra => Sys2Proof.Machine.execClz st rd ra s
  | .ctz st rd ra => Sys2Proof.Machine.execCtz st rd ra s
  | .addi st rd ra imm => Sys2Proof.Machine.execAddi st rd ra imm s
  | .andi st rd ra imm => Sys2Proof.Machine.execAndi st rd ra imm s
  | .ori st rd ra imm => Sys2Proof.Machine.execOri st rd ra imm s
  | .xori st rd ra imm => Sys2Proof.Machine.execXori st rd ra imm s
  | .shli st rd ra cnt => Sys2Proof.Machine.execShli st rd ra cnt s
  | .shri st rd ra cnt => Sys2Proof.Machine.execShri st rd ra cnt s
  | .sari st rd ra cnt => Sys2Proof.Machine.execSari st rd ra cnt s
  | .slti st rd ra imm => Sys2Proof.Machine.execSlti st rd ra imm s
  | .sltiu st rd ra imm => Sys2Proof.Machine.execSltiu st rd ra imm s
  | .ldi st rd hw imm => Sys2Proof.Machine.execLdi st rd hw imm s
  | .insi st rd hw imm => Sys2Proof.Machine.execInsi st rd hw imm s
  | .ld8u st rd ra imm => Sys2Proof.Machine.execLd8u st rd ra imm s
  | .ld16u st rd ra imm => Sys2Proof.Machine.execLd16u st rd ra imm s
  | .ld32u st rd ra imm => Sys2Proof.Machine.execLd32u st rd ra imm s
  | .ld64 st rd ra imm => Sys2Proof.Machine.execLd64 st rd ra imm s
  | .ld8s st rd ra imm => Sys2Proof.Machine.execLd8s st rd ra imm s
  | .ld16s st rd ra imm => Sys2Proof.Machine.execLd16s st rd ra imm s
  | .ld32s st rd ra imm => Sys2Proof.Machine.execLd32s st rd ra imm s
  | .ldm st rd ra imm => Sys2Proof.Machine.execLdm st rd ra imm s
  | .st8 st rs ra imm => Sys2Proof.Machine.execSt8 st rs ra imm s
  | .st16 st rs ra imm => Sys2Proof.Machine.execSt16 st rs ra imm s
  | .st32 st rs ra imm => Sys2Proof.Machine.execSt32 st rs ra imm s
  | .st64 st rs ra imm => Sys2Proof.Machine.execSt64 st rs ra imm s
  | .stm st rs ra imm => Sys2Proof.Machine.execStm st rs ra imm s
  | .storeBufferDrain st => Sys2Proof.Machine.execStoreBufferDrain st s
  | .amoSwap st rd ra rb => Sys2Proof.Machine.execAmoSwap st rd ra rb s
  | .amoAdd st rd ra rb => Sys2Proof.Machine.execAmoAdd st rd ra rb s
  | .amoAnd st rd ra rb => Sys2Proof.Machine.execAmoAnd st rd ra rb s
  | .amoOr st rd ra rb => Sys2Proof.Machine.execAmoOr st rd ra rb s
  | .cas st rd ra rb => Sys2Proof.Machine.execCas st rd ra rb s
  | .beq st ra rb disp => Sys2Proof.Machine.execBeq st ra rb disp s
  | .bne st ra rb disp => Sys2Proof.Machine.execBne st ra rb disp s
  | .blt st ra rb disp => Sys2Proof.Machine.execBlt st ra rb disp s
  | .bge st ra rb disp => Sys2Proof.Machine.execBge st ra rb disp s
  | .bltu st ra rb disp => Sys2Proof.Machine.execBltu st ra rb disp s
  | .bgeu st ra rb disp => Sys2Proof.Machine.execBgeu st ra rb disp s
  | .j st disp => Sys2Proof.Machine.execJ st disp s
  | .jl st disp => Sys2Proof.Machine.execJl st disp s
  | .jlr st rd ra imm => Sys2Proof.Machine.execJlr st rd ra imm s
  | .crr st rd cr => Sys2Proof.Machine.execCrr st rd cr s
  | .crw st ra cr => Sys2Proof.Machine.execCrw st ra cr s
  | .fence st loads stores => Sys2Proof.Machine.execFence st loads stores s
  | .tret st => Sys2Proof.Machine.execTret st s
  | .scall st => Sys2Proof.Machine.execScall st s
  | .breakpoint st => Sys2Proof.Machine.execBreakpoint st s
  | .idle st => Sys2Proof.Machine.execIdle st s
  | .fault st ra => Sys2Proof.Machine.execFault st ra s
  | .missue st rd ra imm => Sys2Proof.Machine.execMissue st rd ra imm s
  | .mfence st => Sys2Proof.Machine.execMfence st s
  | .signal st ra pair => Sys2Proof.Machine.execSignal st ra pair s
  | .release st ra pair => Sys2Proof.Machine.execRelease st ra pair s
  | .wait st rd ra pair => Sys2Proof.Machine.execWait st rd ra pair s
  | .waitf st rd ra pair => Sys2Proof.Machine.execWaitf st rd ra pair s
  | .waitTimeout st => Sys2Proof.Machine.execWaitTimeout st s
  | .tempo st point => Sys2Proof.Machine.execTempo st point s
  | .barrier st rd ra rb => Sys2Proof.Machine.execBarrier st rd ra rb s
  | .ctime st rd => Sys2Proof.Machine.execCtime st rd s
  | .illegalInstruction st word => Sys2Proof.Machine.execIllegalInstruction st word s
  | .eventTrap st => Sys2Proof.Machine.execEventTrap st s
  | .dieBarrierRelease die ctx id => Sys2Proof.Machine.execDieBarrierRelease die ctx id s
  | .semaphoreAcquire ec pair free => Sys2Proof.Machine.execSemaphoreAcquire ec pair free s
  | .semaSignalWrite who ec value => Sys2Proof.Machine.execSemaSignalWrite who ec value s
  | .semaReleaseWrite who ec value => Sys2Proof.Machine.execSemaReleaseWrite who ec value s
  | .semaValueWrite who ec pair value => Sys2Proof.Machine.execSemaValueWrite who ec pair value s
  | .streamArm who unit slot cancel => Sys2Proof.Machine.execStreamArm who unit slot cancel s
  | .streamCancel who unit slot => Sys2Proof.Machine.execStreamCancel who unit slot s
  | .streamRun unit slot => Sys2Proof.Machine.execStreamRun unit slot s
  | .streamTileRead unit slot => Sys2Proof.Machine.execStreamTileRead unit slot s
  | .streamReadDone unit slot tile => Sys2Proof.Machine.execStreamReadDone unit slot tile s
  | .streamTileWrite unit slot => Sys2Proof.Machine.execStreamTileWrite unit slot s
  | .streamTilePerformed unit slot => Sys2Proof.Machine.execStreamTilePerformed unit slot s
  | .streamDone unit slot => Sys2Proof.Machine.execStreamDone unit slot s
  | .streamCancelComplete unit slot => Sys2Proof.Machine.execStreamCancelComplete unit slot s
  | .cacheAccess access => Sys2Proof.Machine.execCacheAccess access s
  | .refresh channel => Sys2Proof.Machine.execRefresh channel s
  | .patrolScrub arisen => Sys2Proof.Machine.execPatrolScrub arisen s
  | .timingTracking channel => Sys2Proof.Machine.execTimingTracking channel s
  | .hbmWindowWrite who w value => Sys2Proof.Machine.execHbmWindowWrite who w value s
  | .windowDrainComplete lpd w => Sys2Proof.Machine.execWindowDrainComplete lpd w s
  | .lpdWindowWrite who w value => Sys2Proof.Machine.execLpdWindowWrite who w value s
  | .wayMaskWrite who die p value => Sys2Proof.Machine.execWayMaskWrite who die p value s
  | .wayMaskApply die p => Sys2Proof.Machine.execWayMaskApply die p s
  | .tableDataWrite who ec value => Sys2Proof.Machine.execTableDataWrite who ec value s
  | .swap who ec value => Sys2Proof.Machine.execSwap who ec value s
  | .restore who ec value => Sys2Proof.Machine.execRestore who ec value s
  | .restoreComplete ec => Sys2Proof.Machine.execRestoreComplete ec s
  | .tlbInvalidate who die value => Sys2Proof.Machine.execTlbInvalidate who die value s
  | .tlbInvalidateDone die => Sys2Proof.Machine.execTlbInvalidateDone die s
  | .contextLimitWrite who die p value => Sys2Proof.Machine.execContextLimitWrite who die p value s
  | .partitionActivate who p value => Sys2Proof.Machine.execPartitionActivate who p value s
  | .partitionDeactivate who p value => Sys2Proof.Machine.execPartitionDeactivate who p value s
  | .bar2WindowWrite who f value => Sys2Proof.Machine.execBar2WindowWrite who f value s
  | .registerWrite who offset value => Sys2Proof.Machine.execRegisterWrite who offset value s
  | .doorbell f page data read => Sys2Proof.Machine.execDoorbell f page data read s
  | .taskStart who ec k value => Sys2Proof.Machine.execTaskStart who ec k value s
  | .taskEnd who ec k value => Sys2Proof.Machine.execTaskEnd who ec k value s
  | .yieldGo who ec k value => Sys2Proof.Machine.execYieldGo who ec k value s
  | .contextBind ctx => Sys2Proof.Machine.execContextBind ctx s
  | .contextRestore ctx => Sys2Proof.Machine.execContextRestore ctx s
  | .sliceExpiry ctx => Sys2Proof.Machine.execSliceExpiry ctx s
  | .idleYieldRequest ctx => Sys2Proof.Machine.execIdleYieldRequest ctx s
  | .yieldPause ctx => Sys2Proof.Machine.execYieldPause ctx s
  | .contextSave ctx => Sys2Proof.Machine.execContextSave ctx s
  | .partSet slot => Sys2Proof.Machine.execPartSet slot s
  | .partClear slot => Sys2Proof.Machine.execPartClear slot s
  | .ctxCreate slot => Sys2Proof.Machine.execCtxCreate slot s
  | .ctxLoad slot image => Sys2Proof.Machine.execCtxLoad slot image s
  | .ctxDestroy slot => Sys2Proof.Machine.execCtxDestroy slot s
  | .ctxReset slot => Sys2Proof.Machine.execCtxReset slot s
  | .queueSet slot => Sys2Proof.Machine.execQueueSet slot s
  | .queueStop slot => Sys2Proof.Machine.execQueueStop slot s
  | .fwUpdate slot => Sys2Proof.Machine.execFwUpdate slot s
  | .fuseCommit slot readBackOk => Sys2Proof.Machine.execFuseCommit slot readBackOk s
  | .frameSend port => Sys2Proof.Machine.execFrameSend port s
  | .frameReceive port frame => Sys2Proof.Machine.execFrameReceive port frame s
  | .ident port rec => Sys2Proof.Machine.execIdent port rec s
  | .identSend port => Sys2Proof.Machine.execIdentSend port s
  | .probe port => Sys2Proof.Machine.execProbe port s
  | .trainingComplete port => Sys2Proof.Machine.execTrainingComplete port s
  | .trainTimeout port => Sys2Proof.Machine.execTrainTimeout port s
  | .identTimeout port => Sys2Proof.Machine.execIdentTimeout port s
  | .goodFrameTimeout port => Sys2Proof.Machine.execGoodFrameTimeout port s
  | .portEnableWrite who port value => Sys2Proof.Machine.execPortEnableWrite who port value s
  | .txcfgWrite who port value => Sys2Proof.Machine.execTxcfgWrite who port value s
  | .pcieTxcfgWrite who value => Sys2Proof.Machine.execPcieTxcfgWrite who value s
  | .bale group msg => Sys2Proof.Machine.execBale group msg s
  | .hopEnd group msg => Sys2Proof.Machine.execHopEnd group msg s
  | .baleAck group msg => Sys2Proof.Machine.execBaleAck group msg s
  | .survey group msg => Sys2Proof.Machine.execSurvey group msg s
  | .grad group msg => Sys2Proof.Machine.execGrad group msg s
  | .want group msg => Sys2Proof.Machine.execWant group msg s
  | .dispatch group msg => Sys2Proof.Machine.execDispatch group msg s
  | .write group msg => Sys2Proof.Machine.execWrite group msg s
  | .writeAck group msg => Sys2Proof.Machine.execWriteAck group msg s
  | .unreach group msg => Sys2Proof.Machine.execUnreach group msg s
  | .seraiDrain group msgIndex => Sys2Proof.Machine.execSeraiDrain group msgIndex s
  | .manifestBuild => Sys2Proof.Machine.execManifestBuild s
  | .reform who value => Sys2Proof.Machine.execReform who value s
  | .leave who value => Sys2Proof.Machine.execLeave who value s
  | .ringCheck group msg => Sys2Proof.Machine.execRingCheck group msg s
  | .ringFormTimeout => Sys2Proof.Machine.execRingFormTimeout s
  | .partnerVanish group => Sys2Proof.Machine.execPartnerVanish group s
  | .abort group msg => Sys2Proof.Machine.execAbort group msg s
  | .timeExchange => Sys2Proof.Machine.execTimeExchange s
  | .timeReq port msg t2 t3 => Sys2Proof.Machine.execTimeReq port msg t2 t3 s
  | .timeResp port msg t4 => Sys2Proof.Machine.execTimeResp port msg t4 s
  | .timeHold => Sys2Proof.Machine.execTimeHold s
  | .syncLoss => Sys2Proof.Machine.execSyncLoss s
  | .arrive group msg => Sys2Proof.Machine.execArrive group msg s
  | .barrierRelease => Sys2Proof.Machine.execBarrierRelease s
  | .bar0Access f offset size write => Sys2Proof.Machine.execBar0Access f offset size write s
  | .bar2Access f offset len write poisoned => Sys2Proof.Machine.execBar2Access f offset len write poisoned s
  | .flrVf k => Sys2Proof.Machine.execFlrVf k s
  | .flrPf => Sys2Proof.Machine.execFlrPf s
  | .pcieHotReset => Sys2Proof.Machine.execPcieHotReset s
  | .d3hot f enter => Sys2Proof.Machine.execD3hot f enter s
  | .atsInvalidation page => Sys2Proof.Machine.execAtsInvalidation page s
  | .msixUnmask f entry => Sys2Proof.Machine.execMsixUnmask f entry s
  | .discovery index => Sys2Proof.Machine.execDiscovery index s
  | .doeAbort => Sys2Proof.Machine.execDoeAbort s
  | .getVersion request => Sys2Proof.Machine.execGetVersion request s
  | .getCapabilities request => Sys2Proof.Machine.execGetCapabilities request s
  | .negotiateAlgorithms request => Sys2Proof.Machine.execNegotiateAlgorithms request s
  | .getDigests request => Sys2Proof.Machine.execGetDigests request s
  | .getCertificate request slot offset len => Sys2Proof.Machine.execGetCertificate request slot offset len s
  | .challenge request slot => Sys2Proof.Machine.execChallenge request slot s
  | .getMeasurements request index signed => Sys2Proof.Machine.execGetMeasurements request index signed s
  | .unsupportedRequest request => Sys2Proof.Machine.execUnsupportedRequest request s
  | .getStatus => Sys2Proof.Machine.execGetStatus s
  | .setPower target => Sys2Proof.Machine.execSetPower target s
  | .resume => Sys2Proof.Machine.execResume s
  | .readLog index => Sys2Proof.Machine.execReadLog index s
  | .getIdentity => Sys2Proof.Machine.execGetIdentity s
  | .readSensors => Sys2Proof.Machine.execReadSensors s
  | .hotReset => Sys2Proof.Machine.execHotReset s
  | .setEndpointId eid => Sys2Proof.Machine.execSetEndpointId eid s
  | .getEndpointId => Sys2Proof.Machine.execGetEndpointId s
  | .getMctpVersionSupport => Sys2Proof.Machine.execGetMctpVersionSupport s
  | .getMessageTypeSupport => Sys2Proof.Machine.execGetMessageTypeSupport s
  | .pwrGo who value => Sys2Proof.Machine.execPwrGo who value s
  | .powerTransitionComplete => Sys2Proof.Machine.execPowerTransitionComplete s
  | .pwrResume who value => Sys2Proof.Machine.execPwrResume who value s
  | .registerHotReset who value => Sys2Proof.Machine.execRegisterHotReset who value s
  | .supplyWarningBegin n mv => Sys2Proof.Machine.execSupplyWarningBegin n mv s
  | .supplyWarningEnd n mv => Sys2Proof.Machine.execSupplyWarningEnd n mv s
  | .railBelowReset n mv => Sys2Proof.Machine.execRailBelowReset n mv s
  | .supplyEmergency n => Sys2Proof.Machine.execSupplyEmergency n s
  | .thermalSample readings => Sys2Proof.Machine.execThermalSample readings s
  | .thermalTrip readings => Sys2Proof.Machine.execThermalTrip readings s
  | .thermalCfgWrite who value => Sys2Proof.Machine.execThermalCfgWrite who value s
  | .railCfgWrite who n value => Sys2Proof.Machine.execRailCfgWrite who n value s
  | .groupPllIdleStop g => Sys2Proof.Machine.execGroupPllIdleStop g s
  | .pllWake pll => Sys2Proof.Machine.execPllWake pll s
  | .pllLock pll => Sys2Proof.Machine.execPllLock pll s
  | .diePllIdleStop die => Sys2Proof.Machine.execDiePllIdleStop die s
  | .pllLockFailure pll => Sys2Proof.Machine.execPllLockFailure pll s
  | .perstAssert heldNs accepted => Sys2Proof.Machine.execPerstAssert heldNs accepted s
  | .perstDeassert heldNs accepted => Sys2Proof.Machine.execPerstDeassert heldNs accepted s
  | .powerOnReset => Sys2Proof.Machine.execPowerOnReset s
  | .coreRailRelease loc smb => Sys2Proof.Machine.execCoreRailRelease loc smb s
  | .imageVerify spiAnswers => Sys2Proof.Machine.execImageVerify spiAnswers s
  | .lpddr5xTrained failed => Sys2Proof.Machine.execLpddr5xTrained failed s
  | .hbm3eTrained failed => Sys2Proof.Machine.execHbm3eTrained failed s
  | .fullService selfTestOk => Sys2Proof.Machine.execFullService selfTestOk s
  | .recoveryGo who value => Sys2Proof.Machine.execRecoveryGo who value s
  | .recoveryVerifyDone => Sys2Proof.Machine.execRecoveryVerifyDone s
  | .fwUpdateComplete readBackOk => Sys2Proof.Machine.execFwUpdateComplete readBackOk s
  | .kick who value => Sys2Proof.Machine.execKick who value s
  | .watchdogLock who value => Sys2Proof.Machine.execWatchdogLock who value s
  | .watchdogExpiry => Sys2Proof.Machine.execWatchdogExpiry s
  | .snapshotArm who value => Sys2Proof.Machine.execSnapshotArm who value s
  | .snapshotCancel who value => Sys2Proof.Machine.execSnapshotCancel who value s
  | .snapshotTake => Sys2Proof.Machine.execSnapshotTake s
  | .snapshotDone => Sys2Proof.Machine.execSnapshotDone s
  | .attach who ec value => Sys2Proof.Machine.execAttach who ec value s
  | .halt who ec value => Sys2Proof.Machine.execHalt who ec value s
  | .debugHalted ec => Sys2Proof.Machine.execDebugHalted ec s
  | .run who ec value => Sys2Proof.Machine.execRun who ec value s
  | .step who ec value => Sys2Proof.Machine.execStep who ec value s
  | .debugDataWrite who ec hi value => Sys2Proof.Machine.execDebugDataWrite who ec hi value s
  | .lossOfReceiverLock port => Sys2Proof.Machine.execLossOfReceiverLock port s
  | .timer st => Sys2Proof.Machine.execTimer st s
  | .registerHotResetComplete => Sys2Proof.Machine.execRegisterHotResetComplete s
  | .linkUp flit speed width => Sys2Proof.Machine.execLinkUp flit speed width s
  | .completionTimeout f page data => Sys2Proof.Machine.execCompletionTimeout f page data s
  | .doeUnsupportedProtocol => Sys2Proof.Machine.execDoeUnsupportedProtocol s
  | .otherCommandByte cmd => Sys2Proof.Machine.execOtherCommandByte cmd s
  | .badMsg group msg => Sys2Proof.Machine.execBadMsg group msg s
  | .bar4Access f offset size write => Sys2Proof.Machine.execBar4Access f offset size write s
  | .configurationRequest f field write => Sys2Proof.Machine.execConfigurationRequest f field write s

end Sys2Proof.Machine
end

