-- ==== Sys2Proof/WellFormed.lean ====
section
/-! DEFINITION. Which commands are well-formed: operands that the bus, the link or the word of the command can carry. The check
is on the command alone; whether it can act is a matter of the state. -/

namespace Sys2Proof

/-- The access lies within one line of the 48-bit space, and each half has 68 symbols (02_package R42, R46, R49). -/
def accessOk (a : CacheAccess) : Bool :=
  decide (a.addr < 2 ^ 48) && decide (a.arisenLow ≤ 68) && decide (a.arisenHigh ≤ 68) &&
    match a.write with
    | some (off, bs) => decide (1 ≤ bs.length) && decide (off + bs.length ≤ 128)
    | none => true

/-- A message's sizes (09_route R274): at most 2,048 body flits, which the payload fits. -/
def messageOk (m : Message) : Bool := decide (m.len ≤ 2048) && decide (m.plen ≤ 256 * m.len) && m.body.length == m.plen

/-- A pair operand (11_steward R348): bits 15 and 6 are reserved, and a hub steward has no EC of its own. -/
def pairOperandOk (st : Fin 264) (p : BitVec 16) : Bool := !p.getLsbD 15 && !p.getLsbD 6 && !(p.getLsbD 14 && decide (256 ≤ st.val))

/-- The bytes of a write have its size. -/
def writeLength (n : Nat) (w : Option (List Byte)) : Bool := match w with | some bs => bs.length == n | none => true

/-- The data of a host's write have its size. -/
def hostLength (n : Nat) (w : Option HostWrite) : Bool := match w with | some (.data bs) => bs.length == n | _ => true

/-- A command is well-formed. The rows of one register hold the bits that make the write that row. -/
def Instr.wf : Instr → Bool
  | .crr _ _ cr => decide (cr.toNat ≤ 17)
  | .crw _ _ cr => decide (cr.toNat ≤ 17)
  | .signal st _ p => pairOperandOk st p
  | .release st _ p => pairOperandOk st p
  | .wait st _ _ p => pairOperandOk st p
  | .waitf st _ _ p => pairOperandOk st p
  | .semaSignalWrite _ _ v => v.extractLsb' 22 2 == 0
  | .semaReleaseWrite _ _ v => v.extractLsb' 22 2 == 1
  | .cacheAccess access => accessOk access
  | .patrolScrub arisen => decide (arisen ≤ 68)
  | .swap _ _ v => v.getLsbD 4
  | .restore _ _ v => v.getLsbD 3
  | .tlbInvalidate _ _ v => v.getLsbD 0
  | .partitionActivate _ _ v => v.getLsbD 31
  | .partitionDeactivate _ _ v => !v.getLsbD 31
  | .registerWrite _ offset _ => offset % 4 == 0 && decide (offset < 0x5000000)
  | .doorbell f page _ read => (f.val == 0 || f.val == page.val) && match read with | .slots bs => bs.length % 64 == 0 | _ => true
  | .taskStart _ _ _ v => v.getLsbD 31
  | .taskEnd _ _ _ v => v.getLsbD 30
  | .yieldGo _ _ _ v => v.getLsbD 31
  | .ctxLoad _ image => decide image.footprint.Nodup && image.points.all fun x => (x.1 ++ x.2).all fun i => decide (i < image.tempoTable.length / 16)
  | .frameReceive _ frame => decide (frame.fill ≤ 64) && frame.messages.all messageOk
  | .bale _ m => messageOk m
  | .hopEnd _ m => messageOk m
  | .baleAck _ m => messageOk m
  | .survey _ m => messageOk m
  | .grad _ m => messageOk m
  | .want _ m => messageOk m
  | .dispatch _ m => messageOk m
  | .write _ m => messageOk m
  | .writeAck _ m => messageOk m
  | .unreach _ m => messageOk m
  | .reform _ v => v.getLsbD 31
  | .leave _ v => v.getLsbD 30
  | .ringCheck _ m => messageOk m
  | .abort _ m => messageOk m
  | .timeReq _ m t2 t3 => messageOk m && decide (t2 ≤ t3)
  | .timeResp _ m _ => messageOk m
  | .arrive _ m => messageOk m
  | .bar0Access f offset size wr => decide (1 ≤ size) && decide (offset + size ≤ if f.val = 0 then 0x4000000 else 0x4000) && hostLength size wr
  | .bar2Access _ offset len wr _ => decide (1 ≤ len) && decide (len ≤ 4096) && decide (offset + len ≤ 0x1000000000) && writeLength len wr
  | .msixUnmask f e => f.val == 0 || decide (e.val < 224)
  | .getCertificate _ slot offset len => decide (slot < 8) && decide (offset < 65536) && decide (len < 65536)
  | .challenge _ slot => decide (slot < 8)
  | .getMeasurements _ index _ => decide (index < 256)
  | .pwrGo _ v => v.getLsbD 31
  | .pwrResume _ v => v.getLsbD 30
  | .registerHotReset _ v => v.getLsbD 31
  | .supplyWarningBegin _ mv => decide (mv < 65536)
  | .supplyWarningEnd _ mv => decide (mv < 65536)
  | .railBelowReset _ mv => decide (mv < 65536)
  | .thermalSample readings => readings.toList.all fun r => decide (r < 256)
  | .thermalTrip readings => readings.toList.all fun r => decide (r < 256)
  | .perstAssert ns _ => decide (0 < ns)
  | .perstDeassert ns _ => decide (0 < ns)
  | .recoveryGo _ v => v.getLsbD 31
  | .kick _ v => v.getLsbD 31
  | .watchdogLock _ v => v.getLsbD 29
  | .snapshotArm _ v => v.getLsbD 31
  | .snapshotCancel _ v => v.getLsbD 30
  | .attach _ _ v => v.extractLsb' 28 3 == 0
  | .halt _ _ v => v.getLsbD 30
  | .run _ _ v => v.getLsbD 29
  | .step _ _ v => v.getLsbD 28
  | .linkUp _ speed width => decide (1 ≤ speed) && decide (speed ≤ 6) && ([1, 2, 4, 8, 16] : List Nat).contains width
  | .completionTimeout f page _ => f.val == 0 || f.val == page.val
  | .badMsg _ m => messageOk m
  | .bar4Access f offset size wr => decide (1 ≤ size) && decide (offset + size ≤ if f.val = 0 then 0x10000 else 0x1000) && hostLength size wr
  | .configurationRequest _ _ wr => match wr with | some v => decide (v < 2 ^ 32) | none => true
  | .matmul .. | .chain .. | .combine .. | .norm .. | .rowfn .. | .expand .. | .attend .. | .attendBwd .. => true
  | .gambitCommit .. | .append .. | .appendTentative .. | .attachPrefix .. | .publishPrefix .. | .truncate .. | .copy .. | .gather .. => true
  | .scatter .. | .search .. | .selectBales .. | .orderSignal .. | .orderWait .. | .orderTempo .. | .orderBarrier .. | .commandStart .. => true
  | .tileTake .. | .tileGrant .. | .tileSteal .. | .vectorEntry .. | .feederFill .. | .residentBufferLoad .. | .accumulatorDrain .. | .combineStep .. => true
  | .macroComplete .. | .rowTile .. | .scoreStoreGrant .. | .spanPassOne .. | .spanRowUnit .. | .spanPassTwo .. | .waveAdmit .. | .probeSelect .. => true
  | .scanJobsForm .. | .scanBlock .. | .scanJobEnd .. | .fetchArrive .. | .rerank .. | .emit .. | .dragomanTeardownFree .. | .add .. => true
  | .sub .. | .and .. | .or .. | .xor .. | .shl .. | .shr .. | .sar .. | .slt .. => true
  | .sltu .. | .mul .. | .mulhu .. | .div .. | .divu .. | .rem .. | .remu .. | .min .. => true
  | .max .. | .minu .. | .maxu .. | .popc .. | .clz .. | .ctz .. | .addi .. | .andi .. => true
  | .ori .. | .xori .. | .shli .. | .shri .. | .sari .. | .slti .. | .sltiu .. | .ldi .. => true
  | .insi .. | .ld8u .. | .ld16u .. | .ld32u .. | .ld64 .. | .ld8s .. | .ld16s .. | .ld32s .. => true
  | .ldm .. | .st8 .. | .st16 .. | .st32 .. | .st64 .. | .stm .. | .storeBufferDrain .. | .amoSwap .. => true
  | .amoAdd .. | .amoAnd .. | .amoOr .. | .cas .. | .beq .. | .bne .. | .blt .. | .bge .. => true
  | .bltu .. | .bgeu .. | .j .. | .jl .. | .jlr .. | .fence .. | .tret .. | .scall .. => true
  | .breakpoint .. | .idle .. | .fault .. | .missue .. | .mfence .. | .waitTimeout .. | .tempo .. | .barrier .. => true
  | .ctime .. | .illegalInstruction .. | .eventTrap .. | .dieBarrierRelease .. | .semaphoreAcquire .. | .semaValueWrite .. | .streamArm .. | .streamCancel .. => true
  | .streamRun .. | .streamTileRead .. | .streamReadDone .. | .streamTileWrite .. | .streamTilePerformed .. | .streamDone .. | .streamCancelComplete .. | .refresh .. => true
  | .timingTracking .. | .hbmWindowWrite .. | .windowDrainComplete .. | .lpdWindowWrite .. | .wayMaskWrite .. | .wayMaskApply .. | .tableDataWrite .. | .restoreComplete .. => true
  | .tlbInvalidateDone .. | .contextLimitWrite .. | .bar2WindowWrite .. | .contextBind .. | .contextRestore .. | .sliceExpiry .. | .idleYieldRequest .. | .yieldPause .. => true
  | .contextSave .. | .partSet .. | .partClear .. | .ctxCreate .. | .ctxDestroy .. | .ctxReset .. | .queueSet .. | .queueStop .. => true
  | .fwUpdate .. | .fuseCommit .. | .frameSend .. | .ident .. | .identSend .. | .probe .. | .trainingComplete .. | .trainTimeout .. => true
  | .identTimeout .. | .goodFrameTimeout .. | .portEnableWrite .. | .txcfgWrite .. | .pcieTxcfgWrite .. | .seraiDrain .. | .manifestBuild | .ringFormTimeout => true
  | .partnerVanish .. | .timeExchange | .timeHold | .syncLoss | .barrierRelease | .flrVf .. | .flrPf | .pcieHotReset => true
  | .d3hot .. | .atsInvalidation .. | .discovery .. | .doeAbort | .getVersion .. | .getCapabilities .. | .negotiateAlgorithms .. | .getDigests .. => true
  | .unsupportedRequest .. | .getStatus .. | .setPower .. | .resume .. | .readLog .. | .getIdentity .. | .readSensors .. | .hotReset .. => true
  | .setEndpointId .. | .getEndpointId .. | .getMctpVersionSupport .. | .getMessageTypeSupport .. | .powerTransitionComplete | .supplyEmergency .. | .thermalCfgWrite .. | .railCfgWrite .. => true
  | .groupPllIdleStop .. | .pllWake .. | .pllLock .. | .diePllIdleStop .. | .pllLockFailure .. | .powerOnReset | .coreRailRelease .. | .imageVerify .. => true
  | .lpddr5xTrained .. | .hbm3eTrained .. | .fullService .. | .recoveryVerifyDone | .fwUpdateComplete .. | .watchdogExpiry | .snapshotTake | .snapshotDone => true
  | .debugHalted .. | .debugDataWrite .. | .lossOfReceiverLock .. | .timer .. | .registerHotResetComplete | .doeUnsupportedProtocol | .otherCommandByte .. => true

end Sys2Proof
end

