-- ==== Sys2Proof/Safety.lean ====
section
/-! DEFINITION. What a safe run of the block is, in the terms that claims use. -/

namespace Sys2Proof.Machine

/-- The answer is a next state: the command has neither stopped the block nor been refused. -/
def Answered (a : Answer) : Prop := ∃ t, a = .next t

/-- Device memory stands in its canonical form. -/
def State.canonical (s : State) : Prop := Memory.wf s.mem = true

/-- Every command that waits is well-formed. -/
def State.queueWf (s : State) : Prop := ∀ c ∈ s.pending, c.wf = true

/-- A step is safe: it answers a state whose memory is canonical. -/
def SafeStep (s : State) : Prop := ∃ t, step s = .next t ∧ t.canonical

end Sys2Proof.Machine
end

