-- ==== Sys2Proof/Certificates/Slice0/Obligations.lean ====
section
/-! DEFINITION. What is claimed of the block, one proposition each, and the frames that the claims are written with. -/

namespace Sys2Proof.Claims

open Sys2Proof.Machine

/-! ### Frames -/

/-- `t` is `s` but for the stewards' registers and the counter of the free values. -/
def OnlyStewards (s t : State) : Prop := t = { s with stewards := t.stewards, free := t.free }

/-- Of the stewards, none but `st` has changed. -/
def OthersKept (s t : State) (st : Fin 264) : Prop := ∀ k, k ≠ st.val → t.stewardAt k = s.stewardAt k

/-- Only steward `st` has changed. -/
def OnlySteward (s t : State) (st : Fin 264) : Prop := OnlyStewards s t ∧ OthersKept s t st

/-- General register `rd` holds `v` and every other one is as before; g0 reads as zero whatever is written. -/
def WritesReg (x y : Steward) (rd : BitVec 5) (v : Word64) : Prop :=
  ∀ r : BitVec 5, y.reg r = if r = 0 then 0 else if r = rd then v else x.reg r

/-- CYCLE advances by `n` where the manual gives the latency. -/
def CycleBy (x y : Steward) (n : Option Nat) : Prop := ∀ k, n = some k → y.cycle = x.cycle + BitVec.ofNat 64 k

/-- The steward retires one instruction and goes on at `npc`; of its other registers only the general ones and CYCLE change. -/
def RetiresAt (x y : Steward) (npc : Word64) (n : Option Nat) : Prop :=
  y = { x with g := y.g, pc := npc, instret := x.instret + 1, cycle := y.cycle } ∧ CycleBy x y n

/-- The instruction completes with `v` in `rd` after `n` cycles and changes nothing else. -/
def Computes (c : Instr) (s : State) (st : Fin 264) (rd : BitVec 5) (v : Word64) (n : Option Nat) : Prop :=
  ∃ t, exec c s = .next t ∧ OnlySteward s t st ∧
    WritesReg (s.stewardAt st.val) (t.stewardAt st.val) rd v ∧
    RetiresAt (s.stewardAt st.val) (t.stewardAt st.val) ((s.stewardAt st.val).pc + 4) n

/-- The instruction completes at `npc` after `n` cycles and changes no general register and nothing else. -/
def GoesTo (c : Instr) (s : State) (st : Fin 264) (npc : Word64) (n : Nat) : Prop :=
  ∃ t, exec c s = .next t ∧ OnlySteward s t st ∧
    t.stewardAt st.val =
      { s.stewardAt st.val with pc := npc, instret := (s.stewardAt st.val).instret + 1,
                                cycle := (s.stewardAt st.val).cycle + BitVec.ofNat 64 n }

/-- 1 for a comparison that holds, else 0. -/
def flagOf (b : Prop) [Decidable b] : Word64 := if b then 1 else 0

end Sys2Proof.Claims

open Sys2Proof Sys2Proof.Machine Sys2Proof.Claims

/-! ### The block -/

/-- A step takes the command at the front of the queue and answers what the command answers on the state with the queue's rest. -/
def Obligations.StepRunsFrontCommand : Prop :=
  ∀ (s : State) (c : Instr) (rest : List Instr), s.pending = c :: rest → step s = exec c { s with pending := rest }

/-! ### Steward: arithmetic -/

/-- 11_steward R342, R334, R337: every ALU operation of two registers that is not a divide or a count. -/
def Obligations.AluRegisterResults : Prop :=
  ∀ (s : State) (st : Fin 264) (rd ra rb : BitVec 5), stewardReady s st = true →
    let a := regOf s st ra
    let b := regOf s st rb
    let k := b.toNat % 64
    Computes (.add st rd ra rb) s st rd (BitVec.ofNat 64 (a.toNat + b.toNat)) (some 1) ∧
    Computes (.sub st rd ra rb) s st rd (BitVec.ofInt 64 (a.toNat - b.toNat : Int)) (some 1) ∧
    Computes (.and st rd ra rb) s st rd (a &&& b) (some 1) ∧
    Computes (.or st rd ra rb) s st rd (a ||| b) (some 1) ∧
    Computes (.xor st rd ra rb) s st rd (a ^^^ b) (some 1) ∧
    Computes (.shl st rd ra rb) s st rd (BitVec.ofNat 64 (a.toNat * 2 ^ k)) (some 1) ∧
    Computes (.shr st rd ra rb) s st rd (BitVec.ofNat 64 (a.toNat / 2 ^ k)) (some 1) ∧
    Computes (.sar st rd ra rb) s st rd (BitVec.ofInt 64 (a.toInt / 2 ^ k)) (some 1) ∧
    Computes (.slt st rd ra rb) s st rd (flagOf (a.toInt < b.toInt)) (some 1) ∧
    Computes (.sltu st rd ra rb) s st rd (flagOf (a.toNat < b.toNat)) (some 1) ∧
    Computes (.mul st rd ra rb) s st rd (BitVec.ofNat 64 (a.toNat * b.toNat)) (some 4) ∧
    Computes (.mulhu st rd ra rb) s st rd (BitVec.ofNat 64 (a.toNat * b.toNat / 2 ^ 64)) (some 4) ∧
    Computes (.min st rd ra rb) s st rd (BitVec.ofInt 64 (min a.toInt b.toInt)) (some 1) ∧
    Computes (.max st rd ra rb) s st rd (BitVec.ofInt 64 (max a.toInt b.toInt)) (some 1) ∧
    Computes (.minu st rd ra rb) s st rd (BitVec.ofNat 64 (min a.toNat b.toNat)) (some 1) ∧
    Computes (.maxu st rd ra rb) s st rd (BitVec.ofNat 64 (max a.toNat b.toNat)) (some 1)

/-- 11_steward R342, R334: a divide takes at most 40 cycles; by zero the quotient is all ones and the remainder is ra; the
quotient of −2^63 by −1 wraps. That a signed quotient rounds toward zero is the model's reading (log 17). -/
def Sys2Proof.Claims.DivideResults : Prop :=
  ∀ (s : State) (st : Fin 264) (rd ra rb : BitVec 5), stewardReady s st = true →
    let a := regOf s st ra
    let b := regOf s st rb
    let Divides := fun (c : Instr) (v : Word64) => Computes c s st rd v none ∧
      ∀ t, exec c s = .next t → ∃ n : Nat, 1 ≤ n ∧ n ≤ 40 ∧ CycleBy (s.stewardAt st.val) (t.stewardAt st.val) (some n)
    Divides (.divu st rd ra rb) (if b = 0 then BitVec.allOnes 64 else BitVec.ofNat 64 (a.toNat / b.toNat)) ∧
    Divides (.remu st rd ra rb) (if b = 0 then a else BitVec.ofNat 64 (a.toNat % b.toNat)) ∧
    Divides (.div st rd ra rb) (if b = 0 then BitVec.allOnes 64 else BitVec.ofInt 64 (a.toInt.tdiv b.toInt)) ∧
    Divides (.rem st rd ra rb) (if b = 0 then a else BitVec.ofInt 64 (a.toInt.tmod b.toInt))

/-- 11_steward R342: POPC counts the one bits of ra, CLZ the zeros above its highest one, CTZ the zeros below its lowest one;
both are 64 for zero. -/
def Sys2Proof.Claims.BitCountResults : Prop :=
  ∀ (s : State) (st : Fin 264) (rd ra : BitVec 5), stewardReady s st = true →
    let a := regOf s st ra
    Computes (.popc st rd ra) s st rd (BitVec.ofNat 64 ((List.finRange 64).countP fun i => a[i])) (some 1) ∧
    (∃ n, Computes (.clz st rd ra) s st rd (BitVec.ofNat 64 n) (some 1) ∧ n ≤ 64 ∧ (n = 64 ↔ a = 0) ∧
      (a ≠ 0 → 2 ^ (63 - n) ≤ a.toNat ∧ a.toNat < 2 ^ (64 - n))) ∧
    (∃ n, Computes (.ctz st rd ra) s st rd (BitVec.ofNat 64 n) (some 1) ∧ n ≤ 64 ∧ (n = 64 ↔ a = 0) ∧
      (a ≠ 0 → a.toNat % 2 ^ n = 0 ∧ a.toNat % 2 ^ (n + 1) ≠ 0))

/-- 11_steward R340, R341: the operations with an immediate. imm16 is sign-extended in ADDI and SLTI, zero-extended in ANDI, ORI,
XORI and SLTIU; LDI and INSI place it in halfword HW. -/
def Obligations.AluImmediateResults : Prop :=
  ∀ (s : State) (st : Fin 264) (rd ra : BitVec 5) (imm : BitVec 16) (cnt : BitVec 6) (hw : BitVec 2), stewardReady s st = true →
    let a := regOf s st ra
    let d := regOf s st rd
    Computes (.addi st rd ra imm) s st rd (BitVec.ofInt 64 (a.toInt + imm.toInt)) (some 1) ∧
    Computes (.andi st rd ra imm) s st rd (a &&& BitVec.ofNat 64 imm.toNat) (some 1) ∧
    Computes (.ori st rd ra imm) s st rd (a ||| BitVec.ofNat 64 imm.toNat) (some 1) ∧
    Computes (.xori st rd ra imm) s st rd (a ^^^ BitVec.ofNat 64 imm.toNat) (some 1) ∧
    Computes (.shli st rd ra cnt) s st rd (BitVec.ofNat 64 (a.toNat * 2 ^ cnt.toNat)) (some 1) ∧
    Computes (.shri st rd ra cnt) s st rd (BitVec.ofNat 64 (a.toNat / 2 ^ cnt.toNat)) (some 1) ∧
    Computes (.sari st rd ra cnt) s st rd (BitVec.ofInt 64 (a.toInt / 2 ^ cnt.toNat)) (some 1) ∧
    Computes (.slti st rd ra imm) s st rd (flagOf (a.toInt < imm.toInt)) (some 1) ∧
    Computes (.sltiu st rd ra imm) s st rd (flagOf (a.toNat < imm.toNat)) (some 1) ∧
    Computes (.ldi st rd hw imm) s st rd (BitVec.ofNat 64 (imm.toNat * 2 ^ (16 * hw.toNat))) (some 1) ∧
    ∃ v, Computes (.insi st rd hw imm) s st rd v (some 1) ∧
      ∀ i : Fin 4, v.extractLsb' (16 * i.val) 16 = if i.val = hw.toNat then imm else d.extractLsb' (16 * i.val) 16

/-! ### Steward: control transfer -/

/-- 11_steward R334, R340, R341: a branch goes to pc + 4 × sign-extended disp when its comparison holds, in 2 cycles, and to the
next word in 1 cycle when it does not. -/
def Sys2Proof.Claims.BranchTargets : Prop :=
  ∀ (s : State) (st : Fin 264) (ra rb : BitVec 5) (disp : BitVec 16), stewardReady s st = true →
    let a := regOf s st ra
    let b := regOf s st rb
    let pc := (s.stewardAt st.val).pc
    let target := pc + BitVec.ofInt 64 (4 * disp.toInt)
    pc.toNat % 4 = 0 →
    let Branches := fun (c : Instr) (p : Prop) => (p → GoesTo c s st target 2) ∧ (¬p → GoesTo c s st (pc + 4) 1)
    Branches (.beq st ra rb disp) (a = b) ∧
    Branches (.bne st ra rb disp) (a ≠ b) ∧
    Branches (.blt st ra rb disp) (a.toInt < b.toInt) ∧
    Branches (.bge st ra rb disp) (b.toInt ≤ a.toInt) ∧
    Branches (.bltu st ra rb disp) (a.toNat < b.toNat) ∧
    Branches (.bgeu st ra rb disp) (b.toNat ≤ a.toNat)

/-- 11_steward R334, R340, R341: J goes to pc + 4 × sign-extended disp; JL does so with pc + 4 in g31; JLR goes to ra + imm with
pc + 4 in rd, for a target that is a multiple of 4. -/
def Sys2Proof.Claims.JumpTargetsAndLinks : Prop :=
  ∀ (s : State) (st : Fin 264) (rd ra : BitVec 5) (disp : BitVec 26) (imm : BitVec 16), stewardReady s st = true →
    let x := s.stewardAt st.val
    let target := x.pc + BitVec.ofInt 64 (4 * disp.toInt)
    let Links := fun (c : Instr) (r : BitVec 5) (npc : Word64) => ∃ t, exec c s = .next t ∧ OnlySteward s t st ∧
      WritesReg x (t.stewardAt st.val) r (x.pc + 4) ∧ RetiresAt x (t.stewardAt st.val) npc (some 2)
    (x.pc.toNat % 4 = 0 → GoesTo (.j st disp) s st target 2 ∧ Links (.jl st disp) 31 target) ∧
    ((regOf s st ra + BitVec.ofInt 64 imm.toInt).toNat % 4 = 0 →
      Links (.jlr st rd ra imm) rd (regOf s st ra + BitVec.ofInt 64 imm.toInt))

/-! ### Steward: control registers, time, data memory -/

/-- 11_steward R338: what CRR reads, register by register, and at which level; FVEC reads the firmware entry until it is written. -/
def Sys2Proof.Claims.ControlRegisterReads : Prop :=
  ∀ (s : State) (st : Fin 264) (rd : BitVec 5), stewardReady s st = true →
    let x := s.stewardAt st.val
    let Reads := fun (n : BitVec 5) (v : Word64) => x.pl.toNat ≤ 2 →
      (crReadable x.pl.toNat n.toNat = true → Computes (.crr st rd n) s st rd v (some 1)) ∧
      (x.pl = 2 → crReadable x.pl.toNat n.toNat = true) ∧
      (x.pl = 1 → (crReadable x.pl.toNat n.toNat = true ↔ n.toNat < 16)) ∧
      (x.pl = 0 → (crReadable x.pl.toNat n.toNat = true ↔ n = 0 ∨ (6 ≤ n.toNat ∧ n.toNat < 16)))
    Reads 0 (BitVec.ofNat 64 ((if x.inTrap then 128 else 0) + (if x.eie then 64 else 0) + 16 * x.ppl.toNat + x.pl.toNat)) ∧
    Reads 1 x.tvec ∧ Reads 2 x.tpc ∧ Reads 3 (BitVec.ofNat 64 x.tcause.toNat) ∧ Reads 4 x.tval ∧ Reads 5 x.sscratch ∧
    Reads 6 (BitVec.ofNat 64 (if st.val < 256 then 16 * (st.val / 2) + st.val % 2 else 2 ^ 31 + (st.val - 256))) ∧
    Reads 7 (BitVec.ofNat 64 (65536 * x.part.toNat + (if x.bound then 256 else 0) + x.ctx.toNat)) ∧
    Reads 8 x.cycle ∧ Reads 9 x.instret ∧ Reads 10 x.tpoint ∧ Reads 11 x.issued ∧ Reads 12 x.retired ∧
    Reads 13 (BitVec.ofNat 64 ((if x.mail then 8 else 0) + (if x.timecmp.toNat ≤ s.time.toNat then 4 else 0) +
      (if x.tempoReq then 2 else 0) + (if x.doorbell then 1 else 0))) ∧
    Reads 14 (BitVec.ofNat 64 x.evmask.toNat) ∧ Reads 15 x.timecmp ∧ Reads 16 (fvecOf s x) ∧ Reads 17 x.fscratch

/-- 11_steward R335, R338: what a CRW of each control register leaves. At U only TIMECMP changes; at S and F a write of a register
that is RO there is ignored; PL may only be lowered. That a level field keeps its value where the write names the reserved code 3 is
the model's choice (log 27). -/
def Sys2Proof.Claims.ControlRegisterWrites : Prop :=
  ∀ (s : State) (st : Fin 264) (ra : BitVec 5), stewardReady s st = true →
    let x := s.stewardAt st.val
    let v := regOf s st ra
    let Writes := fun (n : BitVec 5) (y : Steward) => ∃ t, exec (.crw st ra n) s = .next t ∧ OnlySteward s t st ∧
      ∃ k, t.stewardAt st.val = { y with pc := x.pc + 4, instret := x.instret + 1, cycle := k }
    (x.pl = 0 → Writes 15 { x with timecmp := v }) ∧
    (x.pl = 1 ∨ x.pl = 2 →
      Writes 0 { x with
        eie := v.getLsbD 6
        ppl := if v.extractLsb' 4 2 = 3 then x.ppl else v.extractLsb' 4 2
        pl := if v.toNat % 4 ≤ x.pl.toNat then v.extractLsb' 0 2 else x.pl } ∧
      Writes 1 { x with tvec := BitVec.ofNat 64 (v.toNat % 2 ^ 48 / 4 * 4) } ∧
      Writes 2 { x with tpc := v } ∧
      Writes 3 x ∧ Writes 4 x ∧
      Writes 5 { x with sscratch := v } ∧
      Writes 6 x ∧ Writes 8 x ∧ Writes 9 x ∧
      Writes 10 { x with tpoint := v } ∧
      Writes 11 x ∧ Writes 12 x ∧
      Writes 13 { x with mail := x.mail && !v.getLsbD 3, doorbell := x.doorbell && !v.getLsbD 0 } ∧
      Writes 14 { x with evmask := v.extractLsb' 0 4 } ∧
      Writes 15 { x with timecmp := v }) ∧
    (x.pl = 1 → Writes 7 x) ∧
    (x.pl = 2 →
      Writes 7 { x with part := v.extractLsb' 16 3, bound := v.getLsbD 8, ctx := v.extractLsb' 0 6 } ∧
      Writes 16 { x with fvec := some (BitVec.ofNat 64 (v.toNat % 2 ^ 48 / 4 * 4)) } ∧
      Writes 17 { x with fscratch := v })

/-- 11_steward R334, R341, R344 rule 3: CTIME, FENCE, LDM and STM. FENCE waits for earlier stores; the bytes of data memory beside
the doubleword stay as they were. -/
def Obligations.TimeFenceAndDataMemory : Prop :=
  ∀ (s : State) (st : Fin 264) (rd ra rs : BitVec 5) (imm : BitVec 16) (loads stores : Bool), stewardReady s st = true →
    let x := s.stewardAt st.val
    let a := (regOf s st ra + BitVec.ofInt 64 imm.toInt).toNat
    Computes (.ctime st rd) s st rd s.time (some 2) ∧
    ((stores = true → x.stores = []) → ∃ t, exec (.fence st loads stores) s = .next t ∧ OnlySteward s t st ∧
      RetiresAt x (t.stewardAt st.val) (x.pc + 4) none ∧ (t.stewardAt st.val).g = x.g) ∧
    (stores = true → x.stores ≠ [] → exec (.fence st loads stores) s = .next s) ∧
    (a % 8 = 0 → a < 65536 →
      Computes (.ldm st rd ra imm) s st rd (BitVec.ofNat 64 (leNat ((List.range 8).map fun i => cellGet x.dataMemory (a + i)))) (some 2) ∧
      (Memory.wf x.dataMemory = true → ∃ t, exec (.stm st rs ra imm) s = .next t ∧ OnlySteward s t st ∧
        ∃ m, t.stewardAt st.val =
            { x with dataMemory := m, pc := x.pc + 4, instret := x.instret + 1, cycle := x.cycle + 2 } ∧
          Memory.wf m = true ∧
          (∀ i, i < 8 → cellGet m (a + i) = (regOf s st rs).extractLsb' (8 * i) 8) ∧
          ∀ j, j < a ∨ a + 8 ≤ j → cellGet m j = cellGet x.dataMemory j))

/-! ### Steward: faults and traps -/

namespace Sys2Proof.Claims

/-- The log of `t` is that of `s` with a record of this code and those of the abort that it brings; it keeps the last 4,096. -/
def LogsFirst (s t : State) (code : Code) : Prop :=
  ∃ r l, r.code = code ∧ t.logHead = s.logHead + (l.length + 1) ∧ t.log = (s.log ++ r :: l).drop ((s.log ++ r :: l).length - 4096)

/-- The instruction ends in a fault of its steward (11_steward R358): the steward stops with its general registers, its pc and its
data memory; at U and S the trap registers tell of the fault, at F nothing else of the steward changes; the record is logged before
those of the abort that it brings. -/
def Faults (c : Instr) (s : State) (st : Fin 264) (code : Code) (tval : Nat) : Prop :=
  ∃ t, exec c s = .next t ∧
    let x := s.stewardAt st.val
    let y := t.stewardAt st.val
    y.run = .halted ∧ y.g = x.g ∧ y.pc = x.pc ∧ y.dataMemory = x.dataMemory ∧ LogsFirst s t code ∧
      (x.pl.toNat < 2 → y.tpc = x.pc ∧ y.tcause.toNat = 65536 * code.toNat ∧ y.tval = BitVec.ofNat 64 tval) ∧
      (2 ≤ x.pl.toNat → y = { x with run := .halted })

/-- The word of an instruction, as TVAL of a fault of its own carries it. -/
def tvalWord (c : Instr) : Nat := match encodeSteward c with | some w => w.toNat | none => 0

end Sys2Proof.Claims

/-- 11_steward R340, R357 to R359: FAULT and an illegal word end in their fault, and so do an instruction at a level that may not
run it, a misaligned jump and a data-memory address out of range. -/
def Obligations.StewardFaultCodes : Prop :=
  ∀ (s : State) (st : Fin 264) (rd ra cr : BitVec 5) (word : BitVec 32) (imm : BitVec 16) (disp : BitVec 26),
    stewardReady s st = true →
    let x := s.stewardAt st.val
    let a := regOf s st ra
    let c : Code := a.setWidth 16
    (decodeSteward st word = none → Faults (.illegalInstruction st word) s st 0x2002 word.toNat) ∧
    (x.stores = [] → Faults (.fault st ra) s st (if c.toNat / 4096 = 2 ∧ c ≠ 0x2000 then c else 0x2007) (tvalWord (.fault st ra))) ∧
    (x.pl = 2 ∨ (x.pl = 1 ∧ st.val < 256) → Faults (.scall st) s st 0x2002 (tvalWord (.scall st))) ∧
    (x.pl = 0 → Faults (.tret st) s st 0x2003 (tvalWord (.tret st))) ∧
    (x.pl = 0 → cr.toNat < 18 → ¬(cr = 0 ∨ (6 ≤ cr.toNat ∧ cr.toNat < 16)) →
      Faults (.crr st rd cr) s st 0x2003 (tvalWord (.crr st rd cr))) ∧
    (x.pl = 0 → cr.toNat < 18 → cr ≠ 15 → Faults (.crw st ra cr) s st 0x2003 (tvalWord (.crw st ra cr))) ∧
    (x.pl = 1 → 16 ≤ cr.toNat → cr.toNat < 18 → Faults (.crr st rd cr) s st 0x2003 (tvalWord (.crr st rd cr)) ∧
      Faults (.crw st ra cr) s st 0x2003 (tvalWord (.crw st ra cr))) ∧
    ((a + BitVec.ofInt 64 imm.toInt).toNat % 4 ≠ 0 →
      Faults (.jlr st rd ra imm) s st 0x2004 (a + BitVec.ofInt 64 imm.toInt).toNat) ∧
    (x.pc.toNat % 4 ≠ 0 → Faults (.j st disp) s st 0x2004 (x.pc + BitVec.ofInt 64 (4 * disp.toInt)).toNat) ∧
    ((a + BitVec.ofInt 64 imm.toInt).toNat % 8 ≠ 0 ∨ 65536 ≤ (a + BitVec.ofInt 64 imm.toInt).toNat →
      Faults (.ldm st rd ra imm) s st 0x2005 (a + BitVec.ofInt 64 imm.toInt).toNat ∧
      Faults (.stm st rd ra imm) s st 0x2005 (a + BitVec.ofInt 64 imm.toInt).toNat)

namespace Sys2Proof.Claims

/-- What a service-trap entry leaves of its steward (11_steward R357). A hub steward at S enters the F handler. That an instruction
which traps counts as retired, and an event not, is the model's choice (log 16). -/
def TrapEntry (s : State) (st : Fin 264) (x y : Steward) (cause : Nat) : Prop :=
  ∃ k, y =
    { x with
      tpc := x.pc, tcause := BitVec.ofNat 32 cause, ppl := x.pl, inTrap := true, cycle := k
      instret := if cause = 5 then x.instret else x.instret + 1
      pl := if 256 ≤ st.val ∧ x.pl = 1 then 2 else 1
      pc := if 256 ≤ st.val ∧ x.pl = 1 then fvecOf s x else x.tvec }

end Sys2Proof.Claims

/-- 11_steward R344 rule 5, R354, R357: SCALL, BREAK and an event take their service trap once no earlier store is held; BREAK with
Mladkin attached halts the EC instead; TRET returns. A service trap under INTRAP is the privilege fault. -/
def Sys2Proof.Claims.ServiceTrapsAndReturn : Prop :=
  ∀ (s : State) (st : Fin 264),
    let x := s.stewardAt st.val
    let Traps := fun (c : Instr) (cause : Nat) => ∃ t, exec c s = .next t ∧ OnlySteward s t st ∧ TrapEntry s st x (t.stewardAt st.val) cause
    let attached := st.val < 256 ∧ (s.ecAt (st.val / 2)).dbg.attach = true
    (stewardReady s st = true → x.stores = [] → x.inTrap = false →
      (x.pl = 0 ∨ (x.pl = 1 ∧ 256 ≤ st.val) → Traps (.scall st) 1) ∧ (¬attached → Traps (.breakpoint st) 3)) ∧
    (stewardReady s st = true → attached → ∃ t, exec (.breakpoint st) s = .next t ∧ t = { s with ecs := t.ecs } ∧
      (t.ecAt (st.val / 2)).dbg.halting = true ∧ (t.ecAt (st.val / 2)).dbg.why = 2) ∧
    (stewardReady s st = true → x.stores = [] → x.inTrap = true →
      (x.pl = 0 ∨ (x.pl = 1 ∧ 256 ≤ st.val) → Faults (.scall st) s st 0x2003 (tvalWord (.scall st))) ∧
      (¬attached → Faults (.breakpoint st) s st 0x2003 (tvalWord (.breakpoint st)))) ∧
    (coreClocks s = true → unitClocked s (st.val / 2) = true → debugStopped s st = false → x.run = .running → x.stores = [] → x.inTrap = false →
      x.pl = 0 → x.eie = true → eventBits s x &&& x.evmask ≠ 0 → Traps (.eventTrap st) 5) ∧
    (stewardReady s st = true → x.pl = 1 ∨ x.pl = 2 → x.tpc.toNat % 4 = 0 →
      ∃ t, exec (.tret st) s = .next t ∧ OnlySteward s t st ∧
        ∃ k, t.stewardAt st.val = { x with pl := x.ppl, inTrap := false, pc := x.tpc, instret := x.instret + 1, cycle := k })

/-- 11_steward R338, R356: IDLE stops fetch until EVENT & EVMASK is nonzero; TIMER lets a steward in IDLE go on once caravan time has
reached TIMECMP and EVMASK enables it, while the clock of its group runs (14_power R413). -/
def Sys2Proof.Claims.IdleAndTimer : Prop :=
  ∀ (s : State) (st : Fin 264),
    let x := s.stewardAt st.val
    (stewardReady s st = true → ∃ t, exec (.idle st) s = .next t ∧ OnlySteward s t st ∧
      ∃ k, t.stewardAt st.val =
        { x with pc := x.pc + 4, instret := x.instret + 1, cycle := k
                 run := if eventBits s x &&& x.evmask = 0 then .idle else .running }) ∧
    (coreClocks s = true → debugStopped s st = false → x.timecmp.toNat ≤ s.time.toNat →
      ∃ t, exec (.timer st) s = .next t ∧ OnlySteward s t st ∧ (eventBits t (t.stewardAt st.val)).getLsbD 2 = true ∧
        t.stewardAt st.val = { x with run := if x.run = .idle ∧ eventBits s x &&& x.evmask ≠ 0 ∧ unitClocked s (st.val / 2) = true then .running else x.run })

/-! ### Steward: memory -/

namespace Sys2Proof.Claims

/-- The cycles of a load (11_steward R334) where the manual gives them: of a line that its home die cache holds for the steward's partition,
and of one that misses while the tiers are otherwise idle. -/
def LoadCycles (s : State) (st : Fin 264) (a : Nat) : Option Nat :=
  match homeDie s a with
  | some d =>
    let hit := if st.val / 64 = d then 28 else 60
    if (cacheFind s d (stewardPartition s st) (a / 128)).isSome then some hit
    else if tiersIdle s = true then some (hit + if a < 0xC000000000 then 150 else 230)
    else none
  | none => none

/-- What the look-ups of an access change beside its own effect (02_package R43, R49): lines of the die caches with their counters, errors that
are corrected, counted and logged, and nothing of memory. -/
def OnlyLookups (s u : State) : Prop :=
  u = { s with dies := u.dies, ecs := u.ecs, hubCounters := u.hubCounters, bad := u.bad, log := u.log, logHead := u.logHead, pcie := u.pcie,
               free := u.free } ∧
    (∀ d, u.dieAt d = { s.dieAt d with cache := (u.dieAt d).cache, cacheClock := (u.dieAt d).cacheClock,
                                       cacheCounters := (u.dieAt d).cacheCounters, hbmCounters := (u.dieAt d).hbmCounters }) ∧
    ∀ e, u.ecAt e = { s.ecAt e with counters := (u.ecAt e).counters, engines := (u.ecAt e).engines }

/-- The instruction, which reads memory, completes with `v` in `rd` after `n` cycles; beside that only the look-ups of its access change
anything. -/
def ComputesFromMemory (c : Instr) (s : State) (st : Fin 264) (rd : BitVec 5) (v : Word64) (n : Option Nat) : Prop :=
  ∃ u t, exec c s = .next t ∧ OnlyLookups s u ∧ OnlySteward u t st ∧ WritesReg (s.stewardAt st.val) (t.stewardAt st.val) rd v ∧
    RetiresAt (s.stewardAt st.val) (t.stewardAt st.val) ((s.stewardAt st.val).pc + 4) n

/-- A load that its steward starts and that meets no fault, window hold or blocked SRAM window: it lies in device memory. -/
def LoadMeets (s : State) (st : Fin 264) (a n : Nat) : Prop :=
  stewardReady s st = true ∧ a % n = 0 ∧ registerOffset a = none ∧ rangeFault s (stewardPartition s st) a n false = none ∧
    windowHeld s a = false ∧ blockedEc s (stewardCtx s st) a = none

/-- The number in `n` bytes as a register holds it. -/
def extended (n : Nat) (signed : Bool) (v : Nat) : Word64 :=
  if signed = true ∧ 2 ^ (8 * n - 1) ≤ v then BitVec.ofInt 64 ((v : Int) - 2 ^ (8 * n)) else BitVec.ofNat 64 v

/-- The address of a load, a store or a MISSUE: ra + sign-extended imm, bits [63:48] ignored (11_steward R340, R344 rule 1). -/
def accessAddr (s : State) (st : Fin 264) (ra : BitVec 5) (imm : BitVec 16) : Nat :=
  (regOf s st ra + BitVec.ofInt 64 imm.toInt).toNat % 2 ^ 48

end Sys2Proof.Claims

/-- 11_steward R334, R341, R344: a load of device memory puts its bytes, as the steward's own held stores leave them, into rd,
zero- or sign-extended. -/
def Sys2Proof.Claims.LoadResults : Prop :=
  ∀ (s : State) (st : Fin 264) (rd ra : BitVec 5) (imm : BitVec 16) (n : Nat) (signed : Bool) (c : Instr),
    (n, signed, c) ∈ [(1, false, Instr.ld8u st rd ra imm), (2, false, .ld16u st rd ra imm), (4, false, .ld32u st rd ra imm),
      (8, false, .ld64 st rd ra imm), (1, true, .ld8s st rd ra imm), (2, true, .ld16s st rd ra imm), (4, true, .ld32s st rd ra imm)] →
    let a := accessAddr s st ra imm
    LoadMeets s st a n →
    ComputesFromMemory c s st rd
      (extended n signed (leNat ((List.range n).map fun i => heldByte (s.stewardAt st.val).stores (a + i) (byteAt s (a + i)))))
      (LoadCycles s st a)

/-- 11_steward R334, R336, R344 rule 2, R482; 10_streams R323: what a load meets instead: misaligned, a register of a size or at a
level that is not accepted, or a memory fault with its faulting address; a register that it may read takes 40 cycles, once the unit's
clock runs (14_power R413). An 8-byte load needs both its registers. -/
def Sys2Proof.Claims.LoadFaultsAndRegisterLoads : Prop :=
  ∀ (s : State) (st : Fin 264) (rd ra : BitVec 5) (imm : BitVec 16) (n : Nat) (signed : Bool) (c : Instr),
    (n, signed, c) ∈ [(1, false, Instr.ld8u st rd ra imm), (2, false, .ld16u st rd ra imm), (4, false, .ld32u st rd ra imm),
      (8, false, .ld64 st rd ra imm), (1, true, .ld8s st rd ra imm), (2, true, .ld16s st rd ra imm), (4, true, .ld32s st rd ra imm)] →
    let a := accessAddr s st ra imm
    stewardReady s st = true →
    (a % n ≠ 0 → Faults c s st 0x2004 a) ∧
    (a % n = 0 → ∀ off, registerOffset a = some off →
      (n < 4 → Faults c s st 0x2004 a) ∧
      let allowed := registerAllowed s st off false = true ∧ (n = 8 → registerAllowed s st (off + 4) false = true)
      (4 ≤ n → ¬allowed → Faults c s st 0x2003 a) ∧
      (4 ≤ n → allowed → regClocked s off = false → exec c s = .next s) ∧
      (4 ≤ n → allowed → regClocked s off = true → ∃ t, exec c s = .next t ∧
        let r := regReadBytes s off n
        t = { r.2 with stewards := t.stewards, free := t.free } ∧
        WritesReg (r.2.stewardAt st.val) (t.stewardAt st.val) rd (extended n signed r.1) ∧
        RetiresAt (r.2.stewardAt st.val) (t.stewardAt st.val) ((r.2.stewardAt st.val).pc + 4) (some 40))) ∧
    (a % n = 0 → registerOffset a = none → ∀ code b, rangeFault s (stewardPartition s st) a n false = some (code, b) →
      Faults c s st code b)

/-- 11_steward R334, R341, R344: a store of device memory goes into the store buffer in 1 cycle, its low bytes little-endian; with 16
held stores it waits; a misaligned one, or one whose address the partition does not hold, is a fault and stores nothing. -/
def Obligations.StoresEnterTheBuffer : Prop :=
  ∀ (s : State) (st : Fin 264) (rs ra : BitVec 5) (imm : BitVec 16) (n : Nat) (c : Instr),
    (n, c) ∈ [(1, Instr.st8 st rs ra imm), (2, .st16 st rs ra imm), (4, .st32 st rs ra imm), (8, .st64 st rs ra imm)] →
    let x := s.stewardAt st.val
    let a := accessAddr s st ra imm
    stewardReady s st = true →
    (a % n ≠ 0 → Faults c s st 0x2004 a) ∧
    (a % n = 0 → registerOffset a = none →
      let code := accessCode s (stewardPartition s st) a
      (code ≠ 0 → Faults c s st code a) ∧
      (code = 0 → 16 ≤ x.stores.length → exec c s = .next s) ∧
      (code = 0 → x.stores.length < 16 → ∃ t, exec c s = .next t ∧ OnlySteward s t st ∧
        t.stewardAt st.val =
          { x with pc := x.pc + 4, instret := x.instret + 1, cycle := x.cycle + 1
                   stores := x.stores ++ [{ addr := a, bytes := (List.range n).map fun i => (regOf s st rs).extractLsb' (8 * i) 8
                                            part := stewardPartition s st }] }))

/-- 11_steward R344 rule 7, R482: a store to the register space of 4 or 8 bytes writes the register at once, the lower offset first;
one of 1 or 2 bytes is misaligned, and one of which R336 does not allow a register is the privilege fault. Where the unit's clock does not
run it waits (14_power R413). -/
def Obligations.StoresToRegisters : Prop :=
  ∀ (s : State) (st : Fin 264) (rs ra : BitVec 5) (imm : BitVec 16) (off : Nat),
    let a := accessAddr s st ra imm
    let v := regOf s st rs
    let Retires := fun (c : Instr) (u : State) => ∃ t, exec c s = .next t ∧ t = { u with stewards := t.stewards, free := t.free } ∧
      OthersKept u t st ∧ RetiresAt (u.stewardAt st.val) (t.stewardAt st.val) ((u.stewardAt st.val).pc + 4) none ∧
      (t.stewardAt st.val).g = (u.stewardAt st.val).g
    stewardReady s st = true → registerOffset a = some off →
    Faults (.st8 st rs ra imm) s st 0x2004 a ∧ Faults (.st16 st rs ra imm) s st 0x2004 a ∧
    (a % 4 = 0 → registerAllowed s st off true = false → Faults (.st32 st rs ra imm) s st 0x2003 a) ∧
    (a % 4 = 0 → registerAllowed s st off true = true → regClocked s off = false → exec (.st32 st rs ra imm) s = .next s) ∧
    (a % 4 = 0 → registerAllowed s st off true = true → regClocked s off = true →
      Retires (.st32 st rs ra imm) (regWrite s (.steward st) off (v.extractLsb' 0 32))) ∧
    (a % 8 = 0 → ¬(registerAllowed s st off true = true ∧ registerAllowed s st (off + 4) true = true) →
      Faults (.st64 st rs ra imm) s st 0x2003 a) ∧
    (a % 8 = 0 → registerAllowed s st off true = true → registerAllowed s st (off + 4) true = true → regClocked s off = false →
      exec (.st64 st rs ra imm) s = .next s) ∧
    (a % 8 = 0 → registerAllowed s st off true = true → registerAllowed s st (off + 4) true = true → regClocked s off = true →
      Retires (.st64 st rs ra imm) (regWrite (regWrite s (.steward st) off (v.extractLsb' 0 32)) (.steward st) (off + 4) (v.extractLsb' 32 32)))

namespace Sys2Proof.Claims

/-- No 64-byte half of the 128-byte line at `a` holds an error that a read of it cannot correct (02_package R42). -/
def LineReads (s : State) (a : Nat) : Prop := ∀ h, h / 2 = a / 128 → tabGet 0 s.bad h < 2

end Sys2Proof.Claims

/-- 11_steward R334; 02_package R38, R42: the oldest held store, which lies in one doubleword as those of R341 do, is performed: its bytes are
in memory, every other byte is as before, and the younger stores stay. In a window under HOLD it waits, which counts as HBM or LPDDR late;
where the window of an EC's SRAM blocks it, nothing is written and the EC counts it (02_package R48). -/
def Obligations.StoreBufferDrains : Prop :=
  ∀ (s : State) (st : Fin 264) (h : Store) (r : List Store),
    let x := s.stewardAt st.val
    x.stores = h :: r → h.addr % 8 + h.bytes.length ≤ 8 →
    (coreClocks s = false → exec (.storeBufferDrain st) s = .next s) ∧
    (coreClocks s = true → windowHeld s h.addr = true → exec (.storeBufferDrain st) s = .next (countStewardHeld s st.val h.addr)) ∧
    (coreClocks s = true → windowHeld s h.addr = false → rangeFault s none h.addr h.bytes.length true = none →
      (∀ e, blockedEc s (stewardCtx s st) h.addr = some e →
        exec (.storeBufferDrain st) s = .next (bumpEc (s.setSteward st.val { x with stores := r }) e cntDbgBlock)) ∧
      (blockedEc s (stewardCtx s st) h.addr = none → LineReads s h.addr → Memory.wf s.mem = true →
        ∃ u t, exec (.storeBufferDrain st) s = .next t ∧ OnlyLookups s u ∧ t = { u with stewards := t.stewards, mem := t.mem, bad := t.bad } ∧
          OthersKept s t st ∧ t.stewardAt st.val = { x with stores := r } ∧ Memory.wf t.mem = true ∧
          (∀ i (hi : i < h.bytes.length), cellGet t.mem (h.addr + i) = h.bytes[i]) ∧
          ∀ a, a < h.addr ∨ h.addr + h.bytes.length ≤ a → cellGet t.mem a = cellGet s.mem a))

/-- 11_steward R343, R334: an AMO puts the old doubleword into rd and the new one into memory; every other byte is as before. An
address that is misaligned or in the register space is the misaligned fault; while a store of the steward to the line is held, it waits. -/
def Obligations.AtomicResults : Prop :=
  ∀ (s : State) (st : Fin 264) (rd ra rb : BitVec 5) (c : Instr) (f : Word64 → Word64),
    let b := regOf s st rb
    (c, f) ∈ [(Instr.amoSwap st rd ra rb, fun _ => b), (.amoAdd st rd ra rb, fun old => old + b), (.amoAnd st rd ra rb, fun old => old &&& b),
      (.amoOr st rd ra rb, fun old => old ||| b), (.cas st rd ra rb, fun old => if old = regOf s st rd then b else old)] →
    let x := s.stewardAt st.val
    let a := (regOf s st ra).toNat % 2 ^ 48
    (stewardReady s st = true → a % 8 ≠ 0 ∨ (registerOffset a).isSome → Faults c s st 0x2004 a) ∧
    (LoadMeets s st a 8 → (∃ h ∈ x.stores, h.addr / 128 = a / 128) → exec c s = .next s) ∧
    (LoadMeets s st a 8 → (∀ h ∈ x.stores, h.addr / 128 ≠ a / 128) → Memory.wf s.mem = true →
      let old := BitVec.ofNat 64 (leNat ((List.range 8).map fun i => byteAt s (a + i)))
      ∃ u t, exec c s = .next t ∧ OnlyLookups s u ∧ t = { u with stewards := t.stewards, free := t.free, mem := t.mem, bad := t.bad } ∧
        OthersKept s t st ∧ WritesReg x (t.stewardAt st.val) rd old ∧
        RetiresAt x (t.stewardAt st.val) (x.pc + 4) ((LoadCycles s st a).map (· + 4)) ∧ Memory.wf t.mem = true ∧
        (∀ i, i < 8 → cellGet t.mem (a + i) = (f old).extractLsb' (8 * i) 8) ∧
        ∀ j, j < a ∨ a + 8 ≤ j → cellGet t.mem j = cellGet s.mem j)

/-! ### Steward: command words, semaphore pairs, tempo points, barriers -/

/-- 11_steward R345 to R347: MISSUE of an aligned, readable command word. A word that R345 rule 2 or R347 refuses is the fault 0x2001;
otherwise the word is accepted once every queue of its crew has room: ISSUED and rd advance, the record stands in the ledger or the
hub port, and the command takes one place in every queue of its crew; one that the crew check of R157 or R346 turns away completes with
0x2001, which is logged. A word in a window under HOLD waits, and so does MISSUE while a supply warning holds issue. A SEARCH or SELECT_BALES
that has entered its queues waits there, and its MISSUE with it, for one of the dragoman's 16 places (08_dragoman R234). The refusal of an
opcode outside both tables is the model's choice (log 28). -/
def Obligations.MissueAcceptsWords : Prop :=
  ∀ (s : State) (st : Fin 264) (rd ra : BitVec 5) (imm : BitVec 16),
    let x := s.stewardAt st.val
    let a := accessAddr s st ra imm
    let port := (stewardPort st).val
    let w := unitBytes s (stewardCtx s st) a 64
    let op := wOpcode w
    let acc := acceptedOf s port + 1
    let drg := port < 4 ∧ (op = 0x18 ∨ op = 0x19)
    let places := (s.dieAt port).drgCommands
    (∀ q k, x.run = .placing q k → coreClocks s = true → unitClocked s (st.val / 2) = true → debugStopped s st = false →
      waitsForPlace s port k = false → ∃ t, exec (.missue st rd ra imm) s = .next t ∧ OnlySteward s t st ∧
        WritesReg x (t.stewardAt st.val) q x.issued ∧
        ∃ y g, t.stewardAt st.val = { x with run := .running, g := g, pc := x.pc + 4, instret := x.instret + 1, cycle := y }) ∧
    (stewardReady s st = true → x.stores = [] → supplyHold s (st.val / 64) = true →
      exec (.missue st rd ra imm) s = .next (if st.val < 256 then bumpEc s (st.val / 2) cntStallSupply else s)) ∧
    (stewardReady s st = true → x.stores = [] → supplyHold s (st.val / 64) = false →
    (a % 64 ≠ 0 → Faults (.missue st rd ra imm) s st 0x2004 a) ∧
    (a % 64 = 0 → ∀ code b, rangeFault s (stewardPartition s st) a 64 false = some (code, b) → Faults (.missue st rd ra imm) s st code b) ∧
    (a % 64 = 0 → rangeFault s (stewardPartition s st) a 64 false = none → windowHeld s a = true →
      exec (.missue st rd ra imm) s = .next (countStewardHeld s st.val a)) ∧
    (a % 64 = 0 → rangeFault s (stewardPartition s st) a 64 false = none → windowHeld s a = false →
      (op = 0 ∨ 0x24 ≤ op ∨ (op < 0x20 ∧ (wCompl w % 2 ^ 48 = 0 ∨ wCompl w % 16 ≠ 0)) ∨
          (256 ≤ st.val ∧ (8 ≤ wCrew w ∨ (op < 0x20 ∧ wSignal w = true) ∨
            (op ∈ [0x10, 0x11, 0x12] ∧ (crewUnits 4 w).length ≠ 1) ∨ (0x20 ≤ op ∧ crewUnits 4 w = []) ∨
            (0x20 ≤ op ∧ bit (field w 2 2) 14 = true))) →
        Faults (.missue st rd ra imm) s st 0x2001 (tvalWord (.missue st rd ra imm))) ∧
      (issueRefused st w = false → issueAccepted s st w = true → issueRoom s st w = false → exec (.missue st rd ra imm) s = .next s) ∧
      (issueRefused st w = false → issueAccepted s st w = true → issueRoom s st w = true →
        ∃ t, exec (.missue st rd ra imm) s = .next t ∧
          let y := t.stewardAt st.val
          ((¬drg ∧ waitsForPlace s port acc = false) ∨ (drg ∧ (drgUnplaced (s.dieAt port)).length + places.length < 16) →
            y = { x with g := y.g, pc := x.pc + 4, instret := x.instret + 1, cycle := y.cycle, issued := x.issued + 1 } ∧
            WritesReg x y rd (x.issued + 1)) ∧
          (drg → 16 ≤ places.length → acc ∉ places → y = { x with run := .placing rd acc, issued := x.issued + 1 }) ∧
          OthersKept s t st ∧ t.mem = s.mem ∧
          macrosOf t port = macrosOf s port ++ [{ acc := acc, issuer := st, ctx := stewardCtx s st, word := w, addr := a }] ∧
          acceptedOf t port = acc ∧
          ∀ u, queueOf t u = queueOf s u ++
            (if u ∈ crewUnits port w then [{ port := stewardPort st, acc := acc, started := false }] else [])) ∧
      (issueRefused st w = false → issueAccepted s st w = false → op < 0x20 →
        ∃ t, exec (.missue st rd ra imm) s = .next t ∧ (t.stewardAt st.val).issued = x.issued + 1 ∧
          (∀ u, queueOf t u = queueOf s u) ∧
          ∃ r u, macrosOf t port = macrosOf s port ++ [r] ∧ r.acc = acc ∧ r.word = w ∧ r.finished = true ∧
            macroStatus r = 0x2001 ∧ OnlyLookups s u ∧ t.logHead = u.logHead + 1)))

/-- 11_steward R346: MFENCE retires when RETIRED equals ISSUED; until then it waits, which changes nothing but the semaphore stalls of
its EC. -/
def Obligations.MfenceWaitsForCommands : Prop :=
  ∀ (s : State) (st : Fin 264), stewardReady s st = true →
    let x := s.stewardAt st.val
    (x.retired = x.issued → ∃ t, exec (.mfence st) s = .next t ∧ OnlySteward s t st ∧
      RetiresAt x (t.stewardAt st.val) (x.pc + 4) none ∧ (t.stewardAt st.val).g = x.g) ∧
    (x.retired ≠ x.issued → exec (.mfence st) s = .next (if st.val < 256 then bumpEc s (st.val / 2) cntStallSem else s))

namespace Sys2Proof.Claims

/-- The pair that a pair operand names for a steward: its EC and its number (11_steward R348). -/
def namedPair (st : Fin 264) (p : BitVec 16) : Nat × Nat :=
  (if p.getLsbD 14 then st.val / 2 else (p.extractLsb' 7 7).toNat, (p.extractLsb' 0 6).toNat)

/-- Only pair `k` of the ECs, its overflow mark and its times and counts of release may differ. -/
def OnlyPair (s t : State) (k : Nat × Nat) : Prop :=
  (∀ e, e ≠ k.1 → t.ecAt e = s.ecAt e) ∧ (∀ n, n ≠ k.2 → pairAt t k.1 n = pairAt s k.1 n) ∧
    t.ecAt k.1 = { s.ecAt k.1 with
      pairs := (t.ecAt k.1).pairs, overflow := (t.ecAt k.1).overflow, releases := (t.ecAt k.1).releases, released := (t.ecAt k.1).released }

end Sys2Proof.Claims

/-- 11_steward R348, R350; 10_streams R311, R312: SIGNAL increases FILL and RELEASE increases FREE of the pair, by 1 when the ra field
is 0, and sets MAIL of every other steward that waits on the pair; past 65,535 the count stays there, OVF is set and the instruction
is the fault 0x4009. A reserved bit or LOCAL on the hub is illegal; an EC outside the partition is 0x4005. -/
def Obligations.SignalAndRelease : Prop :=
  ∀ (s : State) (st : Fin 264) (ra : BitVec 5) (p : BitVec 16) (free : Bool) (c : Instr),
    (free, c) ∈ [(false, Instr.signal st ra p), (true, .release st ra p)] →
    let x := s.stewardAt st.val
    let k := namedPair st p
    let old := pairAt s k.1 k.2
    let count := if free then old.2 else old.1
    let amount := if ra = 0 then 1 else (regOf s st ra).toNat
    stewardReady s st = true → x.stores = [] →
    (p.getLsbD 15 = true ∨ p.getLsbD 6 = true ∨ (p.getLsbD 14 = true ∧ 256 ≤ st.val) → Faults c s st 0x2002 (tvalWord c)) ∧
    (pairLegal st p = true →
      (pairAllowed s st p = false → Faults c s st 0x4005 p.toNat) ∧
      (pairAllowed s st p = true → 65535 < count.toNat + amount → Faults c s st 0x4009 p.toNat) ∧
      (pairAllowed s st p = true → count.toNat + amount ≤ 65535 → ∃ t, exec c s = .next t ∧
        t = { s with stewards := t.stewards, ecs := t.ecs, free := t.free } ∧ OnlyPair s t k ∧
        (t.ecAt k.1).overflow = (s.ecAt k.1).overflow ∧
        (let new := BitVec.ofNat 16 (count.toNat + amount)
         pairAt t k.1 k.2 = if free then (old.1, new) else (new, old.2)) ∧
        RetiresAt x (t.stewardAt st.val) (x.pc + 4) none ∧ (t.stewardAt st.val).g = x.g ∧
        ∀ j, j ≠ st.val → t.stewardAt j =
          if j < 264 ∧ waitsOn (s.stewardAt j) k.1 k.2 = true then { s.stewardAt j with mail := true } else s.stewardAt j))

/-- 11_steward R349, R351; 10_streams R311, R331: WAIT and WAITF take one of the count at once, with 0 in rd, where no other steward waits
for it and, for a steward from elsewhere, no stream slot of the pair's EC asks for it; otherwise the steward waits, and every count is as it
was; the wait counts in the steward's EC. -/
def Sys2Proof.Claims.WaitAndWaitf : Prop :=
  ∀ (s : State) (st : Fin 264) (rd ra : BitVec 5) (p : BitVec 16) (free : Bool) (c : Instr),
    (free, c) ∈ [(false, Instr.wait st rd ra p), (true, .waitf st rd ra p)] →
    let x := s.stewardAt st.val
    let k := namedPair st p
    let old := pairAt s k.1 k.2
    let count := if free then old.2 else old.1
    let others := (∃ j, j < 264 ∧ j ≠ st.val ∧ countWaiter (s.stewardAt j) k.1 k.2 free = true) ∨
      (st.val / 2 ≠ k.1 ∧ ∃ i, i < 64 ∧ slotAsks s k.1 i k.1 k.2 free = true)
    stewardReady s st = true → pairLegal st p = true → pairAllowed s st p = true →
    (¬others → count ≠ 0 → ∃ t, exec c s = .next t ∧ t = { s with stewards := t.stewards, ecs := t.ecs, free := t.free } ∧
      OnlyPair s t k ∧ OthersKept s t st ∧
      pairAt t k.1 k.2 = (if free then (old.1, count - 1) else (count - 1, old.2)) ∧
      WritesReg x (t.stewardAt st.val) rd 0 ∧ RetiresAt x (t.stewardAt st.val) (x.pc + 4) none) ∧
    (others ∨ count = 0 → ∃ t, exec c s = .next t ∧ t = { s with stewards := t.stewards, ecs := t.ecs } ∧ OthersKept s t st ∧
      (∀ i, t.ecAt i = { s.ecAt i with counters := (t.ecAt i).counters }) ∧
      (∀ i, (i ≠ st.val / 2 ∨ 256 ≤ st.val) → t.ecAt i = s.ecAt i) ∧
      ∃ e n, e.val = k.1 % 128 ∧ n.val = k.2 ∧
        t.stewardAt st.val = { x with run := .waiting e n free rd s.time (regOf s st ra) })

/-- 11_steward R349, R351; 10_streams R311: a waiting steward acquires, with 0 in its rd, once the count is not 0: steward 0 of the EC,
steward 1, and the others only where no stream slot of the EC asks for the pair; while the count is 0 the wait counts in the steward's EC; one
whose timeout has passed while the count is 0 ends with 1 in its rd and changes no count. -/
def Sys2Proof.Claims.WaitsEnd : Prop :=
  ∀ (s : State) (st : Fin 264) (e : Fin 128) (n : Fin 64) (free : Bool) (rd : BitVec 5) (since : CTime) (timeout : Word64),
    let x := s.stewardAt st.val
    let old := pairAt s e.val n.val
    let count := if free then old.2 else old.1
    let Ends := fun (t : State) (v : Word64) => WritesReg x (t.stewardAt st.val) rd v ∧
      RetiresAt { x with run := .running } (t.stewardAt st.val) (x.pc + 4) none ∧ OthersKept s t st
    coreClocks s = true → debugStopped s st = false → x.run = .waiting e n free rd since timeout →
    (count ≠ 0 → nextAcquirer s e.val n.val free = some st.val →
      ∃ t, exec (.semaphoreAcquire e n free) s = .next t ∧ t = { s with stewards := t.stewards, ecs := t.ecs, free := t.free } ∧
        OnlyPair s t (e.val, n.val) ∧ Ends t 0 ∧
        pairAt t e.val n.val = if free then (old.1, count - 1) else (count - 1, old.2)) ∧
    (count = 0 → nextAcquirer s e.val n.val free = some st.val →
      ∃ t, exec (.semaphoreAcquire e n free) s = .next t ∧ t = { s with ecs := t.ecs } ∧
        (∀ i, t.ecAt i = { s.ecAt i with counters := (t.ecAt i).counters }) ∧ ∀ i, (i ≠ st.val / 2 ∨ 256 ≤ st.val) → t.ecAt i = s.ecAt i) ∧
    (st.val = 2 * e.val → nextAcquirer s e.val n.val free = some st.val) ∧
    (st.val / 2 ≠ e.val → (slotWants s e.val n.val free).isSome = true → nextAcquirer s e.val n.val free ≠ some st.val) ∧
    (count = 0 → timeout ≠ 0 → since.toNat + timeout.toNat ≤ s.time.toNat →
      ∃ t, exec (.waitTimeout st) s = .next t ∧ OnlyStewards s t ∧ Ends t 1)

/-- 11_steward R352: TEMPO n at its entry of the tempo-point table writes TPOINT and retires in 1 cycle; with a request pending at U it
takes service trap 4 and the EC's engines take no new tile; a point that the table does not hold for this pc is the fault 0x2008. -/
def Obligations.TempoPoints : Prop :=
  ∀ (s : State) (st : Fin 264) (n : BitVec 16), stewardReady s st = true →
    let x := s.stewardAt st.val
    let listed := ∃ c, stewardCtx s st = some c ∧ ∃ e ∈ (s.ctxAt c.val).tempo, e.pc = x.pc.toNat ∧ e.point = n.toNat
    let checked := st.val < 256 ∧ x.pl.toNat < 2
    (checked → ¬listed → Faults (.tempo st n) s st 0x2008 (tvalWord (.tempo st n))) ∧
    ((checked → listed) → x.tempoReq = false ∨ x.pl ≠ 0 → ∃ t, exec (.tempo st n) s = .next t ∧ OnlySteward s t st ∧
      t.stewardAt st.val =
        { x with tpoint := BitVec.ofNat 64 n.toNat, pc := x.pc + 4, instret := x.instret + 1, cycle := x.cycle + 1 }) ∧
    ((checked → listed) → x.tempoReq = true → x.pl = 0 → x.stores = [] → x.inTrap = false →
      ∃ t, exec (.tempo st n) s = .next t ∧ OthersKept s t st ∧
        TrapEntry s st { x with tpoint := BitVec.ofNat 64 n.toNat } (t.stewardAt st.val) 4 ∧
        t = { s with stewards := t.stewards, ecs := t.ecs, free := t.free } ∧
        (∀ e, e ≠ st.val / 2 ∨ 256 ≤ st.val → t.ecAt e = s.ecAt e) ∧
        (st.val < 256 → t.ecAt (st.val / 2) = { s.ecAt (st.val / 2) with tempoHold := true })) ∧
    ((checked → listed) → x.tempoReq = true → x.pl = 0 → x.stores ≠ [] → exec (.tempo st n) s = .next s) ∧
    ((checked → listed) → x.tempoReq = true → x.pl = 0 → x.stores = [] → x.inTrap = true →
      Faults (.tempo st n) s st 0x2003 (tvalWord (.tempo st n)))

/-- 11_steward R353: the barrier misuse of a word, at die scope and at ring scope; a legal die-scope word makes its steward wait at the
barrier of its die, context, ID and STW, where nobody waits under the ID with another mask. -/
def Sys2Proof.Claims.BarrierArrivalAndMisuse : Prop :=
  ∀ (s : State) (st : Fin 264) (rd ra rb : BitVec 5), stewardReady s st = true → (s.stewardAt st.val).stores = [] →
    let x := s.stewardAt st.val
    let w := regOf s st ra
    let scope := w.toNat / 2 ^ 62
    let id := w.toNat / 2 ^ 32 % 64
    let self := st.val / 2 % 32
    let Misused := Faults (.barrier st rd ra rb) s st 0x2006 (tvalWord (.barrier st rd ra rb))
    (2 ≤ scope → Misused) ∧
    (scope = 0 → w.toNat / 2 ^ 39 ≠ 0 ∨ w.getLsbD self = false ∨ w.getLsbD 38 ≠ (st.val % 2 == 1) → Misused) ∧
    (scope = 1 → w.toNat % 2 ^ 62 ≠ 0 ∨ st.val < 256 ∨ x.pl ≠ 1 ∨ regOf s st rb ≠ 0 → Misused) ∧
    (scope = 0 → w.toNat / 2 ^ 39 = 0 → w.getLsbD self = true → w.getLsbD 38 = (st.val % 2 == 1) → st.val < 256 →
      ∀ c, stewardCtx s st = some c →
      let key := fun stw => barrierKey (st.val / 64) c.val id stw
      let own := key (st.val % 2)
      (∀ stw, stw < 2 → (barrierAt s (key stw)).arrived = [] ∨ (barrierAt s (key stw)).word.toNat % 2 ^ 32 = w.toNat % 2 ^ 32) →
      ∃ t, exec (.barrier st rd ra rb) s = .next t ∧ t = { s with stewards := t.stewards, dieBarriers := t.dieBarriers } ∧
        OthersKept s t st ∧
        barrierAt t own = { word := w, arrived := (barrierAt s own).arrived ++ [(st, regOf s st rb)] } ∧
        barrierAt t (key (1 - st.val % 2)) = barrierAt s (key (1 - st.val % 2)) ∧
        ∃ d i, d.val = st.val / 64 ∧ i.val = id ∧ t.stewardAt st.val = { x with run := .dieBarrier d i rd })

/-- 11_steward R353: a die-scope barrier releases every participant at once, with 0 in its rd, when every steward that the word names
has arrived, none of them in an EC that Mladkin halts (16_counters R462), and caravan time has reached the largest rb. -/
def Sys2Proof.Claims.DieBarrierReleasesAll : Prop :=
  ∀ (s : State) (die : Fin 4) (c id : Fin 64) (stw : Fin 2) (b : DieBarrier),
    let key := fun k => barrierKey die.val c.val id.val k
    coreClocks s = true → barrierAt s (key stw.val) = b → b.arrived ≠ [] →
    (b.arrived.map fun a => a.1.val).Nodup →
    (∀ i, i < 32 → b.word.getLsbD i = true → ∃ a ∈ b.arrived, a.1.val = 2 * (32 * die.val + i) + (if b.word.getLsbD 38 then 1 else 0)) →
    (∀ a ∈ b.arrived, a.2.toNat ≤ s.time.toNat) → (∀ a ∈ b.arrived, debugStopped s a.1 = false) →
    (∀ a ∈ b.arrived, ∃ rd, (s.stewardAt a.1.val).run = .dieBarrier die id rd) →
    ∃ t, exec (.dieBarrierRelease die c id) s = .next t ∧
      t = { s with stewards := t.stewards, dieBarriers := t.dieBarriers, free := t.free } ∧
      (barrierAt t (key stw.val)).arrived = [] ∧
      (∀ a ∈ b.arrived, ∀ rd, (s.stewardAt a.1.val).run = .dieBarrier die id rd →
        WritesReg (s.stewardAt a.1.val) (t.stewardAt a.1.val) rd 0 ∧
        RetiresAt { s.stewardAt a.1.val with run := .running } (t.stewardAt a.1.val) ((s.stewardAt a.1.val).pc + 4) none) ∧
      ∀ k, (∀ a ∈ b.arrived ++ (barrierAt s (key (1 - stw.val))).arrived, a.1.val ≠ k) → t.stewardAt k = s.stewardAt k

/-! ### Register writes -/

namespace Sys2Proof.Claims

/-- The requester reaches the register at `off` with a write (11_steward R336; 13_host R396): the core clocks run and so does that of the
register's unit (14_power R413), the function of a BAR0 write takes it now, and in Off the management core alone is served (14_power R417). -/
def Reaches (s : State) (who : Agent) (off : Nat) : Prop :=
  coreClocks s = true ∧ regClocked s off = true ∧ (s.power.state = 4 → who = .management) ∧ agentReaches s who off true = true ∧ ∀ f, who = .bar0 f → hostMayWrite s f.val off = true

/-- The command answers `t`. -/
def Gives (c : Instr) (s t : State) : Prop := exec c s = .next t

/-- Only EC `e` may have changed. -/
def OnlyEc (s t : State) (e : Nat) : Prop := t = { s with ecs := t.ecs } ∧ ∀ i, i ≠ e → t.ecAt i = s.ecAt i

/-- Only die `d` may have changed. -/
def OnlyDie (s t : State) (d : Nat) : Prop := t = { s with dies := t.dies } ∧ ∀ i, i ≠ d → t.dieAt i = s.dieAt i

end Sys2Proof.Claims

/-- 02_package R47; 11_steward R336; 13_host R391: REGISTER_WRITE changes nothing for a requester that does not reach the register (a write
through a function in D3hot is an Unsupported Request), nothing while the clock of the register's unit stands (14_power R413), nothing at an
offset of the hub window that no register holds, and otherwise does what the register's own map says, once. -/
def Obligations.RegisterWriteReaches : Prop :=
  ∀ (s : State) (who : Agent) (off : Nat) (v : Reg32), off % 4 = 0 → off < 0x5000000 →
    (agentReaches s who off true = false → hostInD3hot s who = false → Gives (.registerWrite who off v) s s) ∧
    (hostInD3hot s who = true → Gives (.registerWrite who off v) s (unsupported s false)) ∧
    (regClocked s off = false → hostInD3hot s who = false → Gives (.registerWrite who off v) s s) ∧
    (s.power.state = 4 → who ≠ .management → hostInD3hot s who = false → Gives (.registerWrite who off v) s s) ∧
    (Reaches s who off → (off < 0x40000 ∨ (0x200 ≤ off % 0x10000 ∧ off / 0x10000 = 5) ∨ 0x300000 ≤ off ∧ off < 0x1000000) →
      Gives (.registerWrite who off v) s s) ∧
    (Reaches s who off → ∀ d o, d < 4 → 0xB00000 ≤ o → o < 0x1000000 → off = dieOffset d o → Gives (.registerWrite who off v) s s) ∧
    (Reaches s who off → Gives (.registerWrite who off v) s (fullRegWrite s who off v))

/-- 10_streams R311, R312: EC_SEMA_CTL signals (OP 0) or releases (OP 1) ADD on PAIR; EC_SEMA_VALn sets both counts. No other pair,
EC or register changes; the host does not write them. -/
def Sys2Proof.Claims.SemaphoreRegisterWrites : Prop :=
  ∀ (s : State) (who : Agent) (e : Fin 128) (pair : Fin 64) (v : Reg32),
    let n := (v.extractLsb' 16 6).toNat
    let add := (v.extractLsb' 0 16).toNat
    let old := pairAt s e.val n
    isHost who = false →
    (Reaches s who (ecOffset e.val 0x4000) → v.getLsbD 31 = false → 1 ≤ add →
      (v.extractLsb' 22 2 = 0 → old.1.toNat + add ≤ 65535 →
        ∃ t, Gives (.semaSignalWrite who e v) s t ∧ OnlyEc s t e.val ∧ OnlyPair s t (e.val, n) ∧
          pairAt t e.val n = (BitVec.ofNat 16 (old.1.toNat + add), old.2) ∧ (t.ecAt e.val).overflow = (s.ecAt e.val).overflow) ∧
      (v.extractLsb' 22 2 = 1 → old.2.toNat + add ≤ 65535 →
        ∃ t, Gives (.semaReleaseWrite who e v) s t ∧ OnlyEc s t e.val ∧ OnlyPair s t (e.val, n) ∧
          pairAt t e.val n = (old.1, BitVec.ofNat 16 (old.2.toNat + add)) ∧ (t.ecAt e.val).overflow = (s.ecAt e.val).overflow) ∧
      (v.extractLsb' 22 2 = 0 → 65535 < old.1.toNat + add →
        ∃ t, Gives (.semaSignalWrite who e v) s t ∧ LogsFirst s t 0x4009)) ∧
    (Reaches s who (ecOffset e.val (0x4100 + 4 * pair.val)) →
      ∃ t, Gives (.semaValueWrite who e pair v) s t ∧ OnlyEc s t e.val ∧ OnlyPair s t (e.val, pair.val) ∧
        pairAt t e.val pair.val = (v.extractLsb' 0 16, v.extractLsb' 16 16))

/-- 03_arithmetic R84 to R88: RU_TBL_DATA writes the word of the shadow table that FUNC and INDEX name and advances INDEX; SWAP exchanges
the banks and advances EPOCH; RESTORE sets BUSY, and its completion makes every word of the shadow tables the factory word. While
PENDING or BUSY reads 1 these writes are ignored and counted. -/
def Sys2Proof.Claims.RowTableRegisterWrites : Prop :=
  ∀ (s : State) (who : Agent) (e : Fin 128) (v : Reg32),
    let u := (s.ecAt e.val).rowUnit
    let free := u.oldTiles = 0 ∧ u.busy = false
    let Leaves := fun (c : Instr) (r : RowUnit) => ∃ t, Gives c s t ∧ OnlyEc s t e.val ∧ t.ecAt e.val = { s.ecAt e.val with rowUnit := r }
    (tablesWriter who e.val = true → Reaches s who (ecOffset e.val 0x3008) → free → u.func.toNat < 5 →
      ∃ m, Leaves (.tableDataWrite who e v) { u with shadow := m, index := u.index + 1 } ∧
        ∀ f i, i < 2048 → tabGet (factoryWordAt f i) m (f * 2048 + i) =
          if f = u.func.toNat ∧ i = u.index.toNat then v else tabGet (factoryWordAt f i) u.shadow (f * 2048 + i)) ∧
    (tablesWriter who e.val = true → Reaches s who (ecOffset e.val 0x3000) → v.getLsbD 4 = true → v.getLsbD 3 = false → free →
      Leaves (.swap who e v) { u with
        func := v.extractLsb' 0 3, active := u.shadow, shadow := u.active, epoch := u.epoch + 1
        oldTiles := if u.current.isSome then 1 else 0 }) ∧
    (tablesWriter who e.val = true → Reaches s who (ecOffset e.val 0x3000) → v.getLsbD 3 = true → v.getLsbD 4 = false → free →
      Leaves (.restore who e v) { u with func := v.extractLsb' 0 3, busy := true }) ∧
    (tablesWriter who e.val = true → Reaches s who (ecOffset e.val 0x3000) → v.getLsbD 4 = true → v.getLsbD 3 = false → ¬free →
      Leaves (.swap who e v) { u with func := v.extractLsb' 0 3, ignored := BitVec.ofNat 16 (min 65535 (u.ignored.toNat + 1)) }) ∧
    (coreClocks s = true → u.busy = true → Leaves (.restoreComplete e) { u with busy := false, shadow := [] })

/-- 02_package R37, R38, R40, R41, R51: a write of a window register while no dirty line of the window is held, no access to it is
outstanding and none waits, and of DC_WAY_MASKp.
Memory keeps its canonical form. A mask that only adds ways is taken at once; one that removes ways waits. -/
def Sys2Proof.Claims.WindowAndWayRegisterWrites : Prop :=
  ∀ (s : State) (who : Agent) (h : Fin 32) (l : Fin 16) (die : Fin 4) (p : Fin 8) (v : Reg32),
    isHubSide who = true → s.posted = [] →
    (Reaches s who (0x40000 + 4 * h.val) → windowBusy s false h.val = false → Memory.wf s.mem = true →
      ∃ t, Gives (.hbmWindowWrite who h v) s t ∧ Memory.wf t.mem = true ∧
        (let w := t.window false h.val
         w.valid = v.getLsbD 31 ∧ w.hold = v.getLsbD 28 ∧ w.setLog2 = v.extractLsb' 8 3 ∧ w.setBase = v.extractLsb' 0 5) ∧
        (∀ i, i ≠ h.val → t.window false i = s.window false i) ∧
        t = { s with hbmWindows := t.hbmWindows, mem := t.mem, bad := t.bad }) ∧
    (Reaches s who (0x40080 + 4 * l.val) → windowBusy s true l.val = false → Memory.wf s.mem = true →
      ∃ t, Gives (.lpdWindowWrite who l v) s t ∧ Memory.wf t.mem = true ∧
        (let w := t.window true l.val
         w.valid = (v.getLsbD 31 && (s.window true l.val).trained) ∧ w.hold = v.getLsbD 28 ∧ w.setLog2 = v.extractLsb' 8 3 ∧
         w.setBase.toNat = v.toNat % 16) ∧
        (∀ i, i ≠ l.val → t.window true i = s.window true i) ∧
        t = { s with lpdWindows := t.lpdWindows, mem := t.mem, bad := t.bad }) ∧
    (Reaches s who (dieOffset die.val (0x800000 + 4 * p.val)) →
      let new := v.extractLsb' 0 16
      let old := wayMask s die.val p.val
      ∃ t, Gives (.wayMaskWrite who die p v) s t ∧ OnlyDie s t die.val ∧
        (old &&& ~~~new = 0 → wayMask t die.val p.val = new) ∧
        (old &&& ~~~new ≠ 0 → wayMask t die.val p.val = old ∧ tabGet 0 (t.dieAt die.val).wayPending p.val = new) ∧
        ∀ q, q ≠ p.val → wayMask t die.val q = wayMask s die.val q)

/-- 12_partitions R362 to R364: ACTIVE := 1 of an inactive partition that meets R363 activates it with its RING bit; one that does not
is counted; ACTIVE := 0 of a partition without contexts deactivates it. 08_dragoman R236 and 13_host R397: the limit of dragoman
contexts and the BAR2 window of a function. -/
def Sys2Proof.Claims.PartitionRegisterWrites : Prop :=
  ∀ (s : State) (who : Agent) (p : Fin 8) (die : Fin 4) (f : Fin 9) (v : Reg32),
    let x := s.partAt p.val
    let y := { x with ring := v.getLsbD 30 }
    isFirmware s who = true →
    (Reaches s who (0x50000 + 0x40 * p.val) → v.getLsbD 31 = true → x.active = false → activationOk s p.val y = true →
      Gives (.partitionActivate who p v) s (s.setPart p.val { y with active := true })) ∧
    (Reaches s who (0x50000 + 0x40 * p.val) → v.getLsbD 31 = true → x.active = false → activationOk s p.val y = false →
      ∃ t, Gives (.partitionActivate who p v) s t ∧ (t.partAt p.val).active = false ∧
        tabGet 0 t.hubCounters 1 = tabGet 0 s.hubCounters 1 + 1) ∧
    (Reaches s who (0x50000 + 0x40 * p.val) → v.getLsbD 31 = false → v.getLsbD 30 = x.ring → x.active = true → partContexts s p.val = [] →
      ∃ t, Gives (.partitionDeactivate who p v) s t ∧ t.partAt p.val = { x with active := false } ∧
        (∀ q, q ≠ p.val → t.partAt q = s.partAt q) ∧ (∀ d, d < 4 → ∀ l ∈ (t.dieAt d).lab, l.part ≠ p.val) ∧ t.mem = s.mem) ∧
    (Reaches s who (dieOffset die.val (0x900100 + 4 * p.val)) →
      ∃ t, Gives (.contextLimitWrite who die p v) s t ∧ OnlyDie s t die.val ∧
        t.dieAt die.val = { s.dieAt die.val with drgLimits := (t.dieAt die.val).drgLimits } ∧
        ∀ q, tabGet 0 (t.dieAt die.val).drgLimits q = if q = p.val then v.extractLsb' 0 12 else tabGet 0 (s.dieAt die.val).drgLimits q) ∧
    (Reaches s who (0x70100 + 4 * f.val) →
      ∃ t, Gives (.bar2WindowWrite who f v) s t ∧ t = { s with pcie := { s.pcie with bar2 := t.pcie.bar2 } } ∧
        ∀ g, tabGet 0 t.pcie.bar2 g = if g = f.val then v.extractLsb' 0 12 else tabGet 0 s.pcie.bar2 g)

/-- 07_kv R210, R211: GO of BTW_TLB_INV removes from the die's look-aside buffer the entries of its scope — all of the partition, those
of a directory, of a sequence in it, or of one segment of a chain — and sets BUSY, during which GO is ignored and counted.
12_partitions R374, R375, R379: START makes a task of QUEUE active; END ends it, counts DONE of the bound context and raises the
queue's vector; GO of EC_YIELD with TEMPO_REQ stops the steward and writes its record in the save area. 09_route R290, R296;
12_partitions R371: a caravan task that may not run ends at its START, and the END of one waits for its last release time plus MARGIN.
That the first START of a context whose image declares layers begins its caravan task is the model's choice (log 34). -/
def Sys2Proof.Claims.WalkerAndTaskRegisterWrites : Prop :=
  (∀ (s : State) (who : Agent) (die : Fin 4) (v : Reg32),
    let x := s.dieAt die.val
    let named := (v.extractLsb' 16 3).toNat
    let part := match who with | .steward st => if 256 ≤ st.val then named else (s.stewardAt st.val).part.toNat | _ => named
    let dir := x.invDirHi.toNat * 2 ^ 32 + x.invDirLo.toNat * 4096
    let scope := (v.extractLsb' 2 2).toNat
    let leaves := fun l : LabEntry => l.part = part ∧ (scope = 0 ∨ (l.dir = dir ∧ (scope = 1 ∨ (l.seq = x.invSeq.toNat ∧
      (scope = 2 ∨ (l.chain = x.invChain.toNat ∧ l.seg = x.invSeg.toNat))))))
    isHost who = false → Reaches s who (dieOffset die.val 0x980000) → v.getLsbD 0 = true →
    (x.invBusy = false → ∃ t, Gives (.tlbInvalidate who die v) s t ∧ OnlyDie s t die.val ∧
      (let y := t.dieAt die.val
       y = { x with lab := y.lab, invBusy := true, invPart := v.extractLsb' 16 3, invScope := v.extractLsb' 2 2, invFor := y.invFor } ∧
       ∀ l, l ∈ y.lab ↔ l ∈ x.lab ∧ ¬leaves l)) ∧
    (x.invBusy = true → ∃ t, Gives (.tlbInvalidate who die v) s t ∧ OnlyDie s t die.val ∧ (t.dieAt die.val).lab = x.lab ∧
      tabGet 0 (t.dieAt die.val).walkerCounters 2 = tabGet 0 x.walkerCounters 2 + 1) ∧
    (coreClocks s = true → x.invBusy = true → ∃ t, Gives (.tlbInvalidateDone die) s t ∧ OnlyDie s t die.val ∧
      t.dieAt die.val = { x with invBusy := false })) ∧
  (∀ (s : State) (who : Agent) (e : Fin 128) (k : Fin 2) (v : Reg32),
    let x := tabGet {} (s.ecAt e.val).tasks k.val
    let queue := v.extractLsb' 0 20
    let SetsTask := fun (t : State) (y : TaskRegs) =>
      t.ecAt e.val = { s.ecAt e.val with tasks := (t.ecAt e.val).tasks } ∧ (∀ i, i ≠ e.val → t.ecAt i = s.ecAt i) ∧
      ∀ j, tabGet {} (t.ecAt e.val).tasks j = if j = k.val then y else tabGet {} (s.ecAt e.val).tasks j
    atUser s who = false → Reaches s who (ecOffset e.val (0x5000 + 0x10 * k.val)) →
    let layered := fun c : Fin 64 => (s.ecAt e.val).bound = some c ∧ (s.ctxAt c.val).layers ≠ []
    let refused := fun c : Fin 64 => caravanCode s (s.partAt (s.ctxAt c.val).part.toNat).ring ≠ 0 ∧ s.ring.task ≠ some c
    (v.getLsbD 31 = true → v.getLsbD 30 = false → x.active = false → (∀ c, ¬layered c) →
      ∃ t, Gives (.taskStart who e k v) s t ∧ t = { s with ecs := t.ecs } ∧ SetsTask t { x with active := true, queue }) ∧
    (v.getLsbD 31 = true → v.getLsbD 30 = false → x.active = false → ∀ c, layered c →
      (¬refused c → ∃ t, Gives (.taskStart who e k v) s t ∧ t = { s with ecs := t.ecs, ring := t.ring } ∧
        SetsTask t { x with active := true, queue } ∧
        t.ring = if caravanRuns s then s.ring else { s.ring with task := some c, layer := 0, step := 0, finalRelease := none }) ∧
      (refused c → ∃ t, Gives (.taskStart who e k v) s t ∧
        (∀ i j, tabGet {} (t.ecAt i).tasks j = if i = e.val ∧ j = k.val then { x with queue } else tabGet {} (s.ecAt i).tasks j) ∧
        (t.ctxAt c.val).done = (s.ctxAt c.val).done + 1)) ∧
    (v.getLsbD 30 = true → v.getLsbD 31 = false → x.active = true → (e.val, k.val) ∉ s.ring.heldEnds → endWaits s e.val = true →
      ∃ t, Gives (.taskEnd who e k v) s t ∧ SetsTask t { x with queue } ∧
        t = { s with ecs := t.ecs, ring := { s.ring with heldEnds := s.ring.heldEnds ++ [(e.val, k.val)] } }) ∧
    (v.getLsbD 30 = true → v.getLsbD 31 = false → x.active = true → (e.val, k.val) ∉ s.ring.heldEnds → endWaits s e.val = false →
      postedWaits s 9 = false → ∃ t, Gives (.taskEnd who e k v) s t ∧ (s.ring.task = none → t.ring = s.ring) ∧
      t = { s with ecs := t.ecs, contexts := t.contexts, pcie := t.pcie, ring := t.ring } ∧ SetsTask t { x with active := false, queue } ∧
      (∀ c, t.ctxAt c = if (s.ecAt e.val).bound.map Fin.val = some c then { s.ctxAt c with done := (s.ctxAt c).done + 1 } else s.ctxAt c) ∧
      (let q := s.queueAt x.queue.toNat
       t.pcie = if q.irq then (raiseVector s q.vector.toNat).pcie else s.pcie)) ∧
    (v.getLsbD 31 = true → x.active = true → v.getLsbD 30 = false → ∃ t, Gives (.taskStart who e k v) s t ∧ OnlyEc s t e.val ∧
      (t.ecAt e.val).tasks = (s.ecAt e.val).tasks ∧
      tabGet 0 (t.ecAt e.val).counters cntTaskIgn = tabGet 0 (s.ecAt e.val).counters cntTaskIgn + 1)) ∧
  (∀ (s : State) (who : Agent) (e : Fin 128) (k : Fin 2) (v : Reg32) (c : Fin 64),
    let st := 2 * e.val + k.val
    let x := s.stewardAt st
    let a := stewardRecord (blockBase (s.ctxAt c.val) (placeOf s c e.val)) k.val
    let own := who = .steward ⟨st, by have := e.isLt; have := k.isLt; omega⟩
    let pc := if v.getLsbD 30 then (if own then x.pc + 4 else x.pc) else x.tpc
    atUser s who = false → Reaches s who (ecOffset e.val (0x500C + 0x10 * k.val)) → v.getLsbD 31 = true → x.tempoReq = true →
    (s.ecAt e.val).bound = some c → rangeFault s (some (s.ctxAt c.val).part.toNat) a 64 true = none → blockedEc s (some c) a = none →
    windowHeld s a = false → Memory.wf s.mem = true →
    ∃ u t, Gives (.yieldGo who e k v) s t ∧ OnlyLookups s u ∧
      t = { u with stewards := t.stewards, contexts := t.contexts, mem := t.mem, bad := t.bad } ∧
      (∀ i, t.stewardAt i = if i = st then { x with run := .yielded (v.getLsbD 30) } else s.stewardAt i) ∧
      (∀ i, t.ctxAt i = if i = c.val then { s.ctxAt i with lastGo := s.time } else s.ctxAt i) ∧
      (∀ i, i < 8 → cellGet t.mem (a + i) = pc.extractLsb' (8 * i) 8) ∧
      (∀ i, i < 8 → cellGet t.mem (a + 0x10 + i) = x.issued.extractLsb' (8 * i) 8) ∧
      (∀ i, i < 8 → cellGet t.mem (a + 0x18 + i) = x.retired.extractLsb' (8 * i) 8) ∧
      ∀ b, b < a ∨ a + 64 ≤ b → cellGet t.mem b = cellGet s.mem b)

/-- 10_streams R305, R306, R319 to R321, R323: ARM of a free slot reads the descriptor and arms it, or ends in FAULT with `0x4006`; ARM of
an occupied slot waits as the one re-arm, and a second re-arm is `0x4008`; both codes are logged; CANCEL of an ARMED slot ends it
CANCELLED, of a RUNNING one begins CANCELLING. A descriptor in an SRAM window that blocks its read counts there (02_package R48). -/
def Sys2Proof.Claims.StreamRegisterWrites : Prop :=
  ∀ (s : State) (who : Agent) (u : Fin 131) (i : Fin 64),
    let x := s.slotAt u.val i.val
    let owner := agentOwner s who
    let part := (ownerCtx s owner).map fun c => (s.ctxAt c.val).part.toNat
    let a := x.addrHi.toNat * 2 ^ 32 + x.addrLo.toNat * 64
    let w := unitBytes s (ownerCtx s owner) a 64
    let inside := ∀ p, part = some p → descriptorInside s p w = true
    let Others := fun t : State => ∀ n, n ≠ u.val * 64 + i.val → tabGet {} t.slots n = tabGet {} s.slots n
    let Only := fun t : State => t = { s with slots := t.slots } ∧ Others t
    let isFree := x.state = 0 ∨ x.state = 4 ∨ x.state = 5 ∨ x.state = 6
    let occupied := x.state = 1 ∨ x.state = 2 ∨ x.state = 3
    isHost who = false → Reaches s who (slotOffset u.val i.val 0x8) →
    (isFree → rangeFault s part a 64 false = none →
      (descriptorOk u.val w = true → inside → ∃ r t, Gives (.streamArm who u i false) s t ∧ OnlyLookups s r ∧
        t = { r with slots := t.slots } ∧ Others t ∧
        t.slotAt u.val i.val = { x with
          state := 1, pend := false, code := 0, desc := w, owner, pendOwner := .nobody, command := none, issued := 0, landed := [],
          written := 0, performed := 0, armedAt := s.time, sent := [], unacked := [], writeAcks := [], ending := none
          releasedBefore := tabGet 0 (s.ecAt (semEc (dSema w))).released (semNum (dSema w)) }) ∧
      (descriptorOk u.val w = false → ∃ r t, Gives (.streamArm who u i false) s t ∧ OnlyLookups s r ∧
        t = { r with slots := t.slots, log := t.log, logHead := t.logHead, pcie := t.pcie } ∧ Others t ∧
        LogsFirst r t 0x4006 ∧ (t.slotAt u.val i.val).state = 6 ∧ (t.slotAt u.val i.val).code = 0x4006)) ∧
    (occupied → x.pend = false → ∃ t, Gives (.streamArm who u i false) s t ∧ Only t ∧
      t.slotAt u.val i.val = { x with pend := true, pendOwner := owner }) ∧
    (occupied → x.pend = true → ∃ t, Gives (.streamArm who u i false) s t ∧
      t = { s with slots := t.slots, log := t.log, logHead := t.logHead, pcie := t.pcie } ∧ Others t ∧
      LogsFirst s t 0x4008 ∧ t.slotAt u.val i.val = { x with code := 0x4008 }) ∧
    (x.state = 1 → x.command = none → ∃ t, Gives (.streamCancel who u i) s t ∧ Only t ∧
      t.slotAt u.val i.val = { x with state := 5, pend := false, landed := x.landed.map fun l => (l.1, []) }) ∧
    (x.state = 2 → ∃ t, Gives (.streamCancel who u i) s t ∧ (t.slotAt u.val i.val).state = 3 ∧ (t.slotAt u.val i.val).pend = false) ∧
    (isFree → Gives (.streamCancel who u i) s s)

/-- Configuration registers of the hub: 14_power R422, R425 (supply and thermal levels: a pair that is out of order changes nothing);
17_electrical R471, R473 (transmit settings); 15_trust R441, R448, R449 (recovery and the watchdog); 02_package R47. -/
def Obligations.ConfigurationRegisterWrites : Prop :=
  ∀ (s : State) (who : Agent) (n : Fin 6) (port : Fin 24) (v : Reg32),
    let lo := (v.extractLsb' 0 16).toNat
    let hi := (v.extractLsb' 16 16).toNat
    let emerg := (v.extractLsb' 8 8).toNat
    let warn := (v.extractLsb' 0 8).toNat
    let pre := (v.extractLsb' 6 6).toNat
    let post := (v.extractLsb' 0 6).toNat
    let OnlyPower := fun t : State => t = { s with power := t.power }
    (isFirmware s who = true → Reaches s who (0x80100 + 4 * n.val) →
      (lo + 20 ≤ hi → ∃ t, Gives (.railCfgWrite who n v) s t ∧ OnlyPower t ∧ railWarn t n.val = hi ∧ railReset t n.val = lo ∧
        ∀ m, m ≠ n.val → railWarn t m = railWarn s m ∧ railReset t m = railReset s m) ∧
      (hi < lo + 20 → Gives (.railCfgWrite who n v) s (bumpHub s cntMemCfgErr))) ∧
    (isFirmware s who = true → Reaches s who 0x80200 →
      (emerg ≤ 110 → warn + 5 < emerg → Gives (.thermalCfgWrite who v) s
        { s with power := { s.power with thermEmerg := v.extractLsb' 8 8, thermWarn := v.extractLsb' 0 8 } }) ∧
      (110 < emerg ∨ emerg ≤ warn + 5 → Gives (.thermalCfgWrite who v) s s)) ∧
    (isFirmware s who = true → Reaches s who (0x100400 + 4 * port.val) →
      (pre + post ≤ 24 → ∃ t, Gives (.txcfgWrite who port v) s t ∧ t = { s with ports := t.ports } ∧
        ∀ m, t.portAt m = if m = port.val then { s.portAt m with
          cfgAuto := v.getLsbD 31, cfgEdge := v.extractLsb' 20 2, cfgAmp := v.extractLsb' 16 4, cfgPre := v.extractLsb' 6 6
          cfgPost := v.extractLsb' 0 6 } else s.portAt m) ∧
      (24 < pre + post → Gives (.txcfgWrite who port v) s (bumpHub s cntMemCfgErr))) ∧
    (isFirmware s who = true → Reaches s who 0x70010 →
      Gives (.pcieTxcfgWrite who v) s { s with pcie := { s.pcie with edge := v.extractLsb' 0 2 } }) ∧
    (Reaches s who 0x90110 → v.getLsbD 31 = true → s.trust.stage = 4 → steppingsAgree s = true → s.trust.rcvBusy = false →
      (s.trust.rcvPages.toNat * 4096 = imgLen s.trust.sram + 4096 →
        Gives (.recoveryGo who v) s { s with trust := { s.trust with rcvBusy := true } }) ∧
      (s.trust.rcvPages.toNat * 4096 ≠ imgLen s.trust.sram + 4096 → ∃ t, Gives (.recoveryGo who v) s t ∧
        t.trust = { s.trust with code := 0x5001 } ∧ t.logHead = s.logHead + 1)) ∧
    (who = .management → v.getLsbD 31 = true → v.getLsbD 29 = false → s.trust.wdogLock = true →
      v.getLsbD 30 = s.trust.wdogEn → v.extractLsb' 0 16 = s.trust.wdogTimeout → coreClocks s = true →
      Gives (.kick who v) s { s with trust := { s.trust with wdogSince := s.time } }) ∧
    (who = .management → v.getLsbD 29 = true → s.trust.wdogLock = false → coreClocks s = true →
      ∃ t, Gives (.watchdogLock who v) s t ∧ t = { s with trust := t.trust } ∧ t.trust.wdogLock = true ∧ t.trust.wdogEn = v.getLsbD 30 ∧
        t.trust.wdogTimeout = v.extractLsb' 0 16) ∧
    (who = .management → v.getLsbD 31 = true → s.trust.wdogLock = true → v.getLsbD 30 ≠ s.trust.wdogEn → coreClocks s = true →
      ∃ t, Gives (.kick who v) s t ∧ t.trust.wdogEn = s.trust.wdogEn ∧ t.trust.wdogTimeout = s.trust.wdogTimeout ∧
        tabGet 0 t.hubCounters cntLockViol = tabGet 0 s.hubCounters cntLockViol + 1)

/-! ### Power, supply, clocks, resets, boot -/

namespace Sys2Proof.Claims

/-- The last record of the log of `t`, which holds one more than that of `s`, has this code, unit kind and unit. -/
def Logs (s t : State) (code : Code) (kind unit : Nat) : Prop :=
  t.logHead = s.logHead + 1 ∧ ∃ r, t.log.getLast? = some r ∧ r.code = code ∧ r.kind = kind ∧ r.unit = unit

/-- A GO to `n` is one that 14_power R416 refuses. -/
def RefusesGo (s : State) (n : Nat) : Prop :=
  let x := s.power
  x.busy = true ∨ x.hotReset = true ∨ 4 < n ∨ x.state = 7 ∨ (x.state ≠ 4 ∧ x.phase ≠ 2) ∨ (x.state = 4 ∧ n ≠ 0) ∨
    (0 < n ∧ s.ring.task ≠ none) ∨ (n = 0 ∧ (x.sEmerg = true ∨ x.tEmerg = true))

/-- An emergency condition still holds (14_power R424). -/
def EmergencyHolds (s : State) : Prop := s.power.warn ≠ 0 ∨ (s.power.tEmerg = true ∧ s.power.thermEmerg.toNat < s.power.maxTemp.toNat + 3)

/-- What an accepted GO from Run to another state begins: BUSY, no further binding, and a yield request in every RUN context. -/
def GoBegins (s t : State) (n : BitVec 3) : Prop :=
  t.power.busy = true ∧ t.power.moving = some n ∧ t.power.noBinding = true ∧ t.power.state = s.power.state ∧ t.mem = s.mem ∧
    ∀ c, c < 64 → (t.ctxAt c).state = if (s.ctxAt c).state = 4 then 5 else (s.ctxAt c).state

/-- The hub stewards run at level F at ENTRY of the image that runs (15_trust R435, R438). -/
def HubStarts (t : State) : Prop :=
  ∀ h, h < 8 → (t.stewardAt (256 + h)).run = .running ∧ (t.stewardAt (256 + h)).pl = 2 ∧
    (t.stewardAt (256 + h)).pc = BitVec.ofNat 64 (imgField t.trust.sram 0x14 4)

/-- Partition 0 owns everything (12_partitions R360). -/
def DefaultPartition (t : State) : Prop :=
  (t.partAt 0).active = true ∧ (t.partAt 0).ring = false ∧ (t.partAt 0).hbm = 0xFFFFFFFF ∧ (t.partAt 0).lpd = 0xFFFF ∧
    ∀ d, d < 4 → tabGet 0 (t.partAt 0).ecs d = 0xFFFFFFFF

end Sys2Proof.Claims

/-- 14_power R415 to R418, R420, R424; 15_trust R450: GO and SET_POWER begin a move, or are refused with `0x6006`; a move ends once every
context has settled; RESUME clears the emergency flags, or is refused with `0x6006` while a condition holds. A sideband message that is not for the
part, or whose PEC or vendor ID is wrong, does nothing. -/
def Obligations.PowerStateMoves : Prop :=
  ∀ (s : State) (who : Agent) (v : Reg32) (n : BitVec 3) (target : Byte),
    let x := s.power
    let named := { x with target := v.extractLsb' 0 3 }
    let writes := (isFirmware s who = true ∨ isHost who = true) ∧ Reaches s who 0x80000
    let Says := fun (t : State) (code : Code) => t.trust.sideband = some (code, [])
    (writes → v.getLsbD 31 = true → v.getLsbD 30 = false →
      (RefusesGo s (v.extractLsb' 0 3).toNat → Gives (.pwrGo who v) s { s with power := { named with code := 0x6006 } }) ∧
      (¬RefusesGo s (v.extractLsb' 0 3).toNat → x.state = 0 → v.extractLsb' 0 3 ≠ 0 →
        ∃ t, Gives (.pwrGo who v) s t ∧ GoBegins s t (v.extractLsb' 0 3))) ∧
    (vendorHears s = false → Gives (.setPower target) s s ∧ Gives .resume s s) ∧
    (s.trust.stage ≠ 4 → vendorHears s = true →
      (RefusesGo s target.toNat → ∃ t, Gives (.setPower target) s t ∧ Says t 0x6006 ∧
        t.power = { x with target := target.setWidth 3, code := 0x6006 }) ∧
      (¬RefusesGo s target.toNat → x.state = 0 → target ≠ 0 → ∃ t, Gives (.setPower target) s t ∧ Says t 0 ∧
        GoBegins s t (target.setWidth 3)) ∧
      (EmergencyHolds s ∨ x.state = 7 → ∃ t, Gives .resume s t ∧ Says t 0x6006 ∧ t.power = { x with code := 0x6006 }) ∧
      (¬EmergencyHolds s → x.state ≠ 7 → ∃ t, Gives .resume s t ∧ Says t 0 ∧ t.power = { x with sEmerg := false, tEmerg := false })) ∧
    (writes → v.getLsbD 30 = true → v.getLsbD 31 = false →
      (EmergencyHolds s → Gives (.pwrResume who v) s { s with power := { named with code := 0x6006 } }) ∧
      (¬EmergencyHolds s → Gives (.pwrResume who v) s { s with power := { named with sEmerg := false, tEmerg := false } })) ∧
    (x.moving = some n → (∀ c, c < 64 → (s.ctxAt c).state ∉ [3, 4, 5]) →
      (x.state = 0 → 1 ≤ n.toNat → n.toNat ≤ 4 → ∃ t, Gives .powerTransitionComplete s t ∧ t.power.state = n ∧ t.power.busy = false ∧
        t.power.moving = none ∧ t.power.groupPll = 0 ∧ t.power.diePll = 0 ∧ (t.power.selfRefresh = true ↔ n = 2 ∨ n = 3 ∨
          (n = 1 ∧ x.selfRefresh = true)) ∧ (n = 4 → t.power.pwrEn = false ∧ t.mem = []) ∧ (n.toNat ≤ 2 → t.mem = s.mem)) ∧
      (1 ≤ x.state.toNat → x.state.toNat ≤ 3 → n.toNat < x.state.toNat → ∃ t, Gives .powerTransitionComplete s t ∧ t.power.state = n ∧
        t.power.busy = false ∧ t.power.moving = none ∧ (t.power.selfRefresh = true ↔ n = 2) ∧
        (n = 0 → t.power.noBinding = false ∧ t.power.latch = [])))

/-- 14_power R422 to R425: a rail below WARN is counted and holds issue, on its die or, for VDD_H, on every die; back at WARN + 10 mV it is logged; below RESET the part takes a
warm reset, for VDD_AON a power-on reset; a warning of 1 ms is a supply emergency. The hottest sensor sets the thermal flags, and one that
reaches 115 °C trips the part into the fault hold. -/
def Obligations.SupplyAndTemperature : Prop :=
  ∀ (s : State) (n : Fin 6) (rail : Fin 5) (mv : Nat) (readings : Vector Nat 5) (h : Nat),
    let x := s.power
    let watched := n.val = 5 ∨ x.coreRails = true
    (watched → x.warn.getLsbD n.val = false → mv < railWarn s n.val → ∃ t, Gives (.supplyWarningBegin n mv) s t ∧
      t = { s with power := t.power, hubCounters := t.hubCounters } ∧
      t.power = { x with warn := t.power.warn, dip := t.power.dip, railMv := t.power.railMv, warnSince := t.power.warnSince } ∧
      (∀ i, t.power.warn.getLsbD i = (decide (i = n.val) || x.warn.getLsbD i)) ∧
      (∀ i, t.power.dip.getLsbD i = (decide (i = n.val) || x.dip.getLsbD i)) ∧
      (∀ d, d < 4 → n.val = d ∨ n.val = 4 → supplyHold t d = true) ∧
      tabGet 0 t.hubCounters (cntRailDip + n.val) = tabGet 0 s.hubCounters (cntRailDip + n.val) + 1) ∧
    (x.warn.getLsbD n.val = true → railWarn s n.val + 10 ≤ mv → ∃ t, Gives (.supplyWarningEnd n mv) s t ∧
      (∀ i, t.power.warn.getLsbD i = (!decide (i = n.val) && x.warn.getLsbD i)) ∧ t.power.dip = x.dip ∧ Logs s t 0x6001 6 n.val) ∧
    (x.coreRails = true → n.val < 5 → mv < railReset s n.val → x.state ≠ 4 → ∃ t, Gives (.railBelowReset n mv) s t ∧
      t.power.causeRail = true ∧ t.power.railN.toNat = n.val ∧ t.trust.stage = 0 ∧ t.mem = [] ∧ t.ecs = [] ∧ t.time = s.time ∧
      Logs s t 0x6008 6 n.val) ∧
    (n.val = 5 → mv < railReset s 5 → ∃ t, Gives (.railBelowReset n mv) s t ∧ t.power.causePowerOn = true ∧ t.power.causeRail = false ∧
      t.time = 0 ∧ t.mem = [] ∧ t.logHead = 1) ∧
    (x.warn.getLsbD rail.val = true → x.sEmerg = false → x.state ≠ 7 →
      (tabGet 0 x.warnSince rail.val).toNat + 1000000 ≤ s.time.toNat → ∃ t, Gives (.supplyEmergency rail) s t ∧
      t.power = { x with sEmerg := true, code := 0x6002 } ∧ Logs s t 0x6002 6 rail.val) ∧
    (h ∈ readings.toList → (∀ r ∈ readings.toList, r ≤ h) →
      (∃ t, Gives (.thermalSample readings) s t ∧ t.power.temps = readings.toList ∧ t.power.maxTemp.toNat = min 255 h ∧
        (x.thermEmerg.toNat ≤ h → x.tEmerg = false → x.state ≠ 7 → t.power.tEmerg = true ∧ t.power.code = 0x6004) ∧
        (h < x.thermEmerg.toNat → t.power.tEmerg = x.tEmerg ∧ t.power.code = x.code) ∧
        (x.thermWarn.toNat ≤ h → t.power.thermAbove = true) ∧ (h + 3 ≤ x.thermWarn.toNat → t.power.thermAbove = false) ∧
        (h + 3 > x.thermWarn.toNat → h < x.thermWarn.toNat → t.power.thermAbove = x.thermAbove)) ∧
      (115 ≤ h → x.state ≠ 7 ∨ x.tripped = false → ∃ t, Gives (.thermalTrip readings) s t ∧ t.power.state = 7 ∧ t.power.tripped = true ∧
        t.power.code = 0x6005 ∧ t.power.groupPll = 0 ∧ t.power.diePll = 0 ∧ t.logHead = s.logHead + 1) ∧
      (h < 115 → Gives (.thermalTrip readings) s s))

/-- 14_power R410, R413, R414: an idle EC group's PLL stops, and a die's PLL when no group of the die runs and its walker, dragoman and stream
units have nothing to do; a wake starts a group with its die; a lock makes the PLL run, and a steward in IDLE of the group takes an event that
came meanwhile; the third failure to lock is the fault hold with `0x6007`. -/
def Obligations.ComputeClocks : Prop :=
  ∀ (s : State) (g : Fin 16) (die : Fin 4) (p : Fin 21) (tries : Nat),
    let x := s.power
    (x.state = 0 → x.idleUs ≠ 0 → x.groupPll.getLsbD g.val = true → groupIdle s g.val = true →
      ∃ t, Gives (.groupPllIdleStop g) s t ∧ t = { s with power := { x with groupPll := t.power.groupPll } } ∧
        ∀ i, t.power.groupPll.getLsbD i = (!decide (i = g.val) && x.groupPll.getLsbD i)) ∧
    (x.state = 0 ∨ x.state = 1 → x.idleUs ≠ 0 → x.diePll.getLsbD die.val = true →
      (∀ i, i < 4 → x.groupPll.getLsbD (4 * die.val + i) = false) → (s.dieAt die.val).invBusy = false → (s.dieAt die.val).drgJobs = [] →
      (s.dieAt die.val).drgCommands = [] → (∀ z ∈ s.slots, z.1 / 2048 = die.val → slotFree z.2 = true) →
      ∃ t, Gives (.diePllIdleStop die) s t ∧ t = { s with power := { x with diePll := t.power.diePll } } ∧
        ∀ i, t.power.diePll.getLsbD i = (!decide (i = die.val) && x.diePll.getLsbD i)) ∧
    (x.state = 0 → x.hubPll = true → p.val < 16 →
      ∃ t, Gives (.pllWake p) s t ∧ t = { s with power := { x with starting := t.power.starting } } ∧
        ∀ q, q = p.val ∨ q = 16 + p.val / 4 → pllRuns s q = false → ∃ e ∈ t.power.starting, e.1 = q) ∧
    (x.state = 0 ∨ x.state = 1 → x.hubPll = true → 16 ≤ p.val → p.val < 20 →
      ∃ t, Gives (.pllWake p) s t ∧ t = { s with power := { x with starting := t.power.starting } } ∧
        (pllRuns s p.val = false → ∃ e ∈ t.power.starting, e.1 = p.val)) ∧
    ((∃ e ∈ x.starting, e.1 = p.val) → s.posted = [] →
      ∃ t, Gives (.pllLock p) s t ∧ t = { s with power := t.power, stewards := t.stewards } ∧ pllRuns t p.val = true ∧
        (∀ e ∈ t.power.starting, e.1 ≠ p.val) ∧ (∀ q, q < 21 → q ≠ p.val → pllRuns t q = pllRuns s q) ∧
        ∀ i, t.stewardAt i = if i / 16 = p.val ∧ p.val < 16 ∧ (s.stewardAt i).run = .idle ∧ eventMasked s (s.stewardAt i) = true ∧
            ecStopped s (i / 2) = false then { s.stewardAt i with run := .running } else s.stewardAt i) ∧
    (p.val = 20 → x.starting.find? (fun e => e.1 == 20) = none → x.pwrEn = true → x.hubPll = false → x.state ≠ 7 →
      ∃ t, Gives (.pllLockFailure p) s t ∧ t = { s with power := { x with starting := t.power.starting } } ∧ tabGet 0 t.power.starting 20 = 1) ∧
    (x.starting.find? (fun e => e.1 == p.val) = some (p.val, tries) →
      (tries < 2 → ∃ t, Gives (.pllLockFailure p) s t ∧ t = { s with power := { x with starting := t.power.starting } } ∧
        ∀ q, tabGet 0 t.power.starting q = if q = p.val then tries + 1 else tabGet 0 x.starting q) ∧
      (2 ≤ tries → ∃ t, Gives (.pllLockFailure p) s t ∧ t.power.state = 7 ∧ t.power.code = 0x6007 ∧ Logs s t 0x6007 6 p.val))

/-- 14_power R427 to R430; 15_trust R448; 17_electrical R469: PERST# asserts (a warm reset, but before its first release) and releases; a
power-on reset; a register hot reset and its end; the watchdog; the PCI Express link comes up. -/
def Obligations.ResetsAndLinkUp : Prop :=
  ∀ (s : State) (who : Agent) (v : Reg32) (held speed width : Nat) (accepted flit : Bool),
    let x := s.power
    let taken := 1040 ≤ held ∨ (1000 ≤ held ∧ accepted = true)
    let HotBegins := fun t : State => t.power.hotReset = true ∧ t.power.busy = true ∧ t.power.phase = 0 ∧ t.power.causeHot = true ∧
      t.dies = [] ∧ t.ecs = [] ∧ t.stewards = [] ∧ t.slots = [] ∧ t.partitions = [] ∧ t.contexts = [] ∧ t.queues = [] ∧ t.ring = {} ∧
      t.snap = {} ∧ t.log = s.log ∧ t.time = s.time
    let hotOk := x.state ≠ 7 ∧ x.state ≠ 4 ∧ s.trust.stage = 3 ∧ x.hotReset = false
    (taken → x.perstHigh = true →
      (x.perstReleased = false → Gives (.perstAssert held accepted) s
        { s with power := { x with perstHigh := false }, pcie := { s.pcie with controllerReset := true, linkUp := false } }) ∧
      (x.perstReleased = true → ∃ t, Gives (.perstAssert held accepted) s t ∧ t.power.perstHigh = false ∧ t.power.causeWarm = true ∧
        t.pcie.controllerReset = true ∧ t.pcie.linkUp = false ∧ t.time = s.time ∧ t.log = s.log ∧
        (x.state ≠ 4 → t.trust.stage = 0 ∧ t.mem = [] ∧ t.dies = [] ∧ t.ecs = [] ∧ t.stewards = [] ∧ t.contexts = [] ∧ t.power.state = 0))) ∧
    (taken → x.perstHigh = false → Gives (.perstDeassert held accepted) s
      { s with power := { x with perstHigh := true, perstReleased := true }
               pcie := { s.pcie with controllerReset := decide (x.state = 4) } }) ∧
    (∃ t, Gives .powerOnReset s t ∧ t.time = 0 ∧ t.mem = [] ∧ t.log = [] ∧ t.logHead = 0 ∧ t.dies = [] ∧ t.ecs = [] ∧ t.stewards = [] ∧
      t.power = {} ∧ t.ring = {} ∧ t.trust.svnMin = s.trust.svnMin ∧ t.trust.revoked = s.trust.revoked ∧ t.trust.fuses = s.trust.fuses ∧
      t.pending = s.pending) ∧
    (hotOk → isHost who = true ∨ who = .management → Reaches s who 0x80300 → v.getLsbD 31 = true →
      ∃ t, Gives (.registerHotReset who v) s t ∧ HotBegins t) ∧
    (hotOk → vendorHears s = true → ∃ t, Gives .hotReset s t ∧ HotBegins t ∧ t.trust.sideband = some (0, [])) ∧
    (x.hotReset = true → ∃ t, Gives .registerHotResetComplete s t ∧ t.power.hotReset = false ∧ t.power.busy = false ∧ t.power.phase = 2 ∧
      (s.trust.stage = 3 → HubStarts t) ∧ DefaultPartition t ∧ (t.queueAt 0).state = 1) ∧
    (s.trust.wdogEn = true → s.trust.wdogSince.toNat + 1000000 * max 100 (min 60000 s.trust.wdogTimeout.toNat) ≤ s.time.toNat → x.state ≠ 4 →
      ∃ t, Gives .watchdogExpiry s t ∧ t.power.causeWdog = true ∧ t.trust.stage = 0 ∧ t.mem = [] ∧ t.ecs = [] ∧ t.trust.wdogEn = false ∧
        t.log = s.log) ∧
    (1 ≤ speed → speed ≤ 6 → width ∈ [1, 2, 4, 8, 16] → flit = true ∨ speed ≠ 6 → s.pcie.controllerReset = false → x.state ≠ 4 →
      Gives (.linkUp flit speed width) s
        { s with pcie := { s.pcie with linkUp := true, flit, speed := BitVec.ofNat 3 speed, width := BitVec.ofNat 5 width } })

/-- 14_power R429 to R432; 15_trust R437 to R441, R453; 09_route R283 (the straps' location is kept on the exit from Off): the steps of
the power-on sequence and of boot, their failures, the recovery boot
and the end of a firmware update. -/
def Obligations.BootSequence : Prop :=
  ∀ (s : State) (loc : BitVec 16) (smb : BitVec 2) (failed : List (Fin 32)) (img : List Byte) (slot : SupSlot),
    let x := s.trust
    let loaded := (spiAfterReset x).take 0x2000000
    let Starts := fun (t : State) (source : Bool) (sram : List Byte) => t.trust.stage = 3 ∧ t.trust.source = source ∧ t.trust.sram = sram ∧
      t.trust.sramLocked = true ∧ t.trust.wdogEn = true ∧ t.trust.wdogLock = true ∧ HubStarts t ∧ DefaultPartition t
    let Holds := fun (t : State) (code : Code) => t.trust.stage = 4 ∧ t.trust.code = code ∧ Logs s t code 0 0
    let runs := x.stage = 3 ∧ s.power.state ≠ 7 ∧ s.power.hotReset = false
    (s.power.pwrEn = true → s.power.coreRails = false → s.power.state ≠ 7 →
      (steppingsAgree s = true → ∃ t, Gives (.coreRailRelease loc smb) s t ∧
        t = { s with power := { s.power with coreRails := true, hubPll := true, starting := tabErase s.power.starting 20, state := 0, phase := 0 }
                     pcie := { s.pcie with controllerReset := !s.power.perstHigh }
                     trust := { x with locRack := if s.power.state = 4 then x.locRack else loc, smbAddr := smb, stage := 1 } }) ∧
      (steppingsAgree s = false → ∃ t, Gives (.coreRailRelease loc smb) s t ∧ Holds t 0x5003)) ∧
    (x.stage = 1 → s.power.coreRails = true →
      (imageCode s loaded = 0 → ∃ t, Gives (.imageVerify true) s t ∧ Starts t false loaded) ∧
      (imageCode s loaded ≠ 0 → ∃ t, Gives (.imageVerify true) s t ∧ Holds t (imageCode s loaded)) ∧
      ∃ t, Gives (.imageVerify false) s t ∧ Holds t 0x5007) ∧
    (runs → s.power.phase = 0 → s.power.lpdTrained = false → ∃ t, Gives (.lpddr5xTrained failed) s t ∧
      t.power = { s.power with lpdTrained := true, phase := 1 } ∧ (t.queueAt 0).state = 1 ∧ s.logHead + failed.length ≤ t.logHead ∧
      ∀ w, w < 16 → ((t.window true w).trained = true ↔ ∀ f ∈ failed, f.val / 2 ≠ w)) ∧
    (runs → s.power.phase = 1 → s.power.hbmTrained = false → ∃ t, Gives (.hbm3eTrained failed) s t ∧
      t.power = { s.power with hbmTrained := true, noBinding := true } ∧ t.logHead = s.logHead + failed.length ∧
      ∀ w, w < 32 → ((t.window false w).trained = true ↔ ∀ f ∈ failed, f.val ≠ w)) ∧
    (runs → s.power.phase = 1 → s.power.hbmTrained = true → (∀ c, c < 64 → (s.ctxAt c).state ∉ [3, 4, 5]) →
      (∃ t, Gives (.fullService true) s t ∧ t.power = { s.power with phase := 2, busy := false, moving := none, noBinding := false }) ∧
      ∃ t, Gives (.fullService false) s t ∧ t.power.state = 7 ∧ t.power.code = 0x6FFF ∧ Logs s t 0x6FFF 6 0) ∧
    (x.stage = 4 → x.rcvBusy = true →
      (imageCode s x.sram = 0 → ∃ t, Gives .recoveryVerifyDone s t ∧ Starts t true x.sram) ∧
      (imageCode s x.sram ≠ 0 → ∃ t, Gives .recoveryVerifyDone s t ∧ t.trust = { x with rcvBusy := false, code := imageCode s x.sram } ∧
        Logs s t (imageCode s x.sram) 0 0)) ∧
    (x.update = some (img, slot) →
      (∃ t, Gives (.fwUpdateComplete true) s t ∧ t.trust = { x with spiNor := t.trust.spiNor, updating := false, update := none } ∧
        t.trust.spiNor = img ++ List.replicate (0x2000000 - img.length) 0xFF ++ x.spiNor.drop (max 0x2000000 img.length)) ∧
      ∃ t, Gives (.fwUpdateComplete false) s t ∧ t.trust.updating = false ∧ t.trust.update = none ∧ t.trust.code = 0x500A)

/-- 16_counters R458, R459: a snapshot is armed for a time at least 10,000 ct and less than 2^40 ct ahead, and refused otherwise; CANCEL
withdraws it; at its time every counter goes into its shadow, and with CLEAR restarts from zero; then DONE is set. -/
def Obligations.Snapshots : Prop :=
  ∀ (s : State) (who : Agent) (v : Reg32) (at_ : CTime),
    let x := s.snap
    let target := x.tHi.toNat * 2 ^ 32 + x.tLo.toNat
    let idle := x.armed = none ∧ (s.power.state = 0 ∨ s.power.state = 1) ∧ s.power.busy = false
    let inReach := s.time.toNat + 10000 ≤ target ∧ target < s.time.toNat + 2 ^ 40
    let may := (isFirmware s who = true ∨ isHost who = true) ∧ Reaches s who 0xB0000
    (may → v.getLsbD 31 = true → v.getLsbD 30 = false →
      (idle → inReach → Gives (.snapshotArm who v) s
        { s with snap := { x with clear := v.getLsbD 29, armed := some (BitVec.ofNat 64 target), taken := false } }) ∧
      (¬(idle ∧ inReach) → Gives (.snapshotArm who v) s { s with snap := { x with clear := v.getLsbD 29, refused := true } })) ∧
    (may → v.getLsbD 30 = true → v.getLsbD 31 = false → x.armed = some at_ → x.taken = false → s.time.toNat < at_.toNat →
      Gives (.snapshotCancel who v) s { s with snap := { x with clear := v.getLsbD 29, armed := none } }) ∧
    (x.armed = some at_ → x.taken = false → at_.toNat ≤ s.time.toNat → ∃ t, Gives .snapshotTake s t ∧ t.snap.taken = true ∧
      (∀ b i, b < 163 → i < 4096 → shadowCounter t b i = liveCounter s b i) ∧
      (∀ b i, b < 163 → liveCounter t b i = if x.clear then 0 else liveCounter s b i) ∧ t.mem = s.mem ∧ t.log = s.log) ∧
    (x.armed = some at_ → x.taken = true → Gives .snapshotDone s
      { s with snap := { x with armed := none, taken := false, done := true, count := x.count + 1, lastT := at_ } })

/-- 16_counters R462 to R464: ATTACH, HALT, HALTED, RUN, STEP and a write of the selected register through EC_DBG_DATA. A halted EC's
stewards stand; one in IDLE or in a die-scope BARRIER stands before its instruction again, its arrival withdrawn. -/
def Obligations.DebugControl : Prop :=
  ∀ (s : State) (who : Agent) (e : Fin 128) (hi : Bool) (v : Reg32),
    let d := (s.ecAt e.val).dbg
    let ctl := debugWriter who = true ∧ Reaches s who (ecOffset e.val 0x7000)
    let Sets := fun (t : State) (y : DebugRegs) => (∀ i, i ≠ e.val → t.ecAt i = s.ecAt i) ∧ t.ecAt e.val = { s.ecAt e.val with dbg := y }
    let first := s.stewardAt (2 * e.val)
    let second := s.stewardAt (2 * e.val + 1)
    let Others := fun t : State => ∀ i, i ≠ 2 * e.val → i ≠ 2 * e.val + 1 → t.stewardAt i = s.stewardAt i
    (ctl → v.getLsbD 31 = true → v.extractLsb' 28 3 = 0 → ∃ t, Gives (.attach who e v) s t ∧ t = { s with ecs := t.ecs } ∧
      Sets t { d with attach := true }) ∧
    (ctl → v.getLsbD 31 = false → v.extractLsb' 28 3 = 0 → d.halted = false → d.halting = false →
      ∃ t, Gives (.attach who e v) s t ∧ t = { s with ecs := t.ecs } ∧ Sets t { d with attach := false }) ∧
    (ctl → v.getLsbD 31 = true → v.extractLsb' 28 3 = 4 → d.halted = false → d.halting = false →
      ∃ t, Gives (.halt who e v) s t ∧ t = { s with ecs := t.ecs } ∧ Sets t { d with attach := true, halting := true, why := 1 }) ∧
    (d.halting = true → ∃ t, Gives (.debugHalted e) s t ∧ t = { s with ecs := t.ecs, stewards := t.stewards, dieBarriers := t.dieBarriers } ∧
      Others t ∧ Sets t { d with halting := false, halted := true } ∧
      (∀ k, ∀ a ∈ (barrierAt t k).arrived, a.1.val / 2 ≠ e.val) ∧
      ∀ i, i = 2 * e.val ∨ i = 2 * e.val + 1 →
        let y := s.stewardAt i
        (y.run = .idle → t.stewardAt i = { y with run := .running, pc := y.pc - 4, instret := y.instret - 1 }) ∧
        (∀ f k rd, y.run = .dieBarrier f k rd → t.stewardAt i = { y with run := .running }) ∧
        (y.run ≠ .idle → (∀ f k rd, y.run ≠ .dieBarrier f k rd) → t.stewardAt i = y)) ∧
    (ctl → v.getLsbD 31 = true → v.extractLsb' 28 3 = 2 → d.halted = true → ∃ t, Gives (.run who e v) s t ∧
      t = { s with ecs := t.ecs, stewards := t.stewards } ∧ Others t ∧
      Sets t { d with attach := true, halting := false, halted := false, why := 0 } ∧
      (∀ i, (s.stewardAt i).run = .running → t.stewardAt i = s.stewardAt i) ∧
      ∀ i ec pair free rd since timeout, i = 2 * e.val ∨ i = 2 * e.val + 1 →
        (s.stewardAt i).run = .waiting ec pair free rd since timeout →
        t.stewardAt i = { s.stewardAt i with run := .waiting ec pair free rd s.time timeout }) ∧
    (ctl → v.getLsbD 31 = true → v.extractLsb' 28 3 = 1 → d.attach = true → d.halted = true → d.halting = false →
      first.run = .halted → second.run = .halted → ∃ t, Gives (.step who e v) s t ∧ t = { s with ecs := t.ecs } ∧
      Sets t { d with halted := false, halting := true, why := 3 }) ∧
    (ctl → v.getLsbD 31 = true → v.extractLsb' 28 3 = 1 → d.attach = true → d.halted = true →
      let st := selSteward s e.val
      let x := s.stewardAt st.val
      let free := s.modDebug e.val fun y => { y with halted := false }
      x.run = .running → eventTrapDue s x = false → rangeFault s (stewardPartition s st) (x.pc.toNat % 2 ^ 48) 4 false = none → ∀ i u,
      decodeSteward st (BitVec.ofNat 32 (leNat (cellsRead s.mem (x.pc.toNat % 2 ^ 48) 4))) = some i → exec i free = .next u →
      ∃ t, Gives (.step who e v) s t ∧ t = { u with ecs := t.ecs } ∧ (∀ k, k ≠ e.val → t.ecAt k = u.ecAt k) ∧
        let y := (u.ecAt e.val).dbg
        t.ecAt e.val = { u.ecAt e.val with dbg := if y.attach && !y.halting then { y with halting := true, why := 3 } else y }) ∧
    (debugWriter who = true → Reaches s who (ecOffset e.val (if hi then 0x700C else 0x7008)) →
      let st := 2 * e.val + if d.selStw then 1 else 0
      let old := (s.stewardAt st).pc
      let new := if hi then v ++ old.extractLsb' 0 32 else old.extractLsb' 32 32 ++ v
      let isOpen := d.halted = true ∨ (s.ecAt e.val).bound = none
      (isOpen → d.selPc = true → ∃ t, Gives (.debugDataWrite who e hi v) s t ∧ t = { s with stewards := t.stewards } ∧
        ∀ i, t.stewardAt i = if i = st then { s.stewardAt st with pc := new } else s.stewardAt i) ∧
      (isOpen → d.selPc = false → d.selCtrl = false → ∃ t, Gives (.debugDataWrite who e hi v) s t ∧ t = { s with stewards := t.stewards } ∧
        let was := (s.stewardAt st).reg d.selNum
        WritesReg (s.stewardAt st) (t.stewardAt st) d.selNum (if hi then v ++ was.extractLsb' 0 32 else was.extractLsb' 32 32 ++ v) ∧
        t.stewardAt st = { s.stewardAt st with g := (t.stewardAt st).g } ∧ ∀ i, i ≠ st → t.stewardAt i = s.stewardAt i) ∧
      (¬isOpen → ∃ t, Gives (.debugDataWrite who e hi v) s t ∧ OnlyEc s t e.val ∧
        tabGet 0 (t.ecAt e.val).counters cntDbgBlock = tabGet 0 (s.ecAt e.val).counters cntDbgBlock + 1))

/-! ### Route links -/

namespace Sys2Proof.Claims

/-- Only port `n` of the Route links may have changed. -/
def OnlyPort (s t : State) (n : Nat) : Prop := t = { s with ports := t.ports } ∧ ∀ i, i ≠ n → t.portAt i = s.portAt i

/-- The transmit settings of a port, as its training puts them in force (17_electrical R473). -/
def settings (p : Port) : Bool × BitVec 2 × BitVec 4 × BitVec 6 × BitVec 6 := (p.cfgAuto, p.cfgEdge, p.cfgAmp, p.cfgPre, p.cfgPost)

/-- The frame that a port sends: FSEQ, FILL, the messages that it completes, and the trailer of port `p` of group `x` with the CRC over slots
and trailer (09_route R273, R278; the CRC's initial value and bit order: log 113). -/
def CarriesFrame (x : Group) (p : Port) (o : Option OutFrame) (fseq : BitVec 16) (fill : Nat) (ms : List OutMessage) : Prop :=
  ∃ f, o = some f ∧ f.fseq = fseq ∧ f.fill = fill ∧ f.messages = ms.map OutMessage.msg ∧ f.ackSeq = p.lastGood ∧ f.ackValid = p.ackValid ∧
    f.nak = p.nak ∧ (∀ vc, vc < 8 → f.credits[vc]? = some (if vc = 3 ∨ vc = 4 then 0 else tabGet 0 x.freed vc)) ∧
    f.crc = crc64 (f.slots.flatten ++ trailerBytes f.fseq f.ackSeq f.ackValid f.nak f.fill f.credits)

/-- `n` ct have passed since an instant that has been. -/
def Elapsed (s : State) (o : Option CTime) (n : Nat) : Prop := ∀ x, o = some x → x.toNat + n ≤ s.time.toNat

/-- A message of the type arrives for the first time on a group that carries it; VC 2, 3 and 4 only in a FORMED ring
(09_route R275, R277, R280). -/
def Arrives (s : State) (g type : Nat) (m : Message) : Prop :=
  coreClocks s = true ∧ m.type.toNat = type ∧ isBadMessage g m = false ∧ (2 ≤ m.vc.val → m.vc.val ≤ 4 → s.ring.state = 2) ∧
    (m.src, m.vc, m.seq) ∉ (s.groupAt g).seen

/-- The group has taken the message: it will not take its SEQ again. -/
def Taken (t : State) (g : Nat) (m : Message) : Prop := (m.src, m.vc, m.seq) ∈ (t.groupAt g).seen

/-- An access of `n` bytes at `a` meets no window under HOLD, no SRAM window that blocks context `c`, and no error that a read of its lines cannot
correct (02_package R38, R42, R48). -/
def Unimpeded (s : State) (c : Option (Fin 64)) (a n : Nat) : Prop :=
  spanHeld s a n = false ∧ (∀ i, i < n → blockedEc s c (a + i) = none) ∧
    ∀ h, a / 128 ≤ h / 2 → h / 2 ≤ (a + n - 1) / 128 → tabGet 0 s.bad h < 2

/-- Memory holds the bytes from `a` on and is as before elsewhere. -/
def Stores (s t : State) (a : Nat) (bs : List Byte) : Prop :=
  (∀ i (h : i < bs.length), cellGet t.mem (a + i) = bs[i]) ∧ ∀ b, b < a ∨ a + bs.length ≤ b → cellGet t.mem b = cellGet s.mem b

/-- The range lies in the remote window of an active partition (09_route R302). -/
def InRemote (s : State) (p a n : Nat) : Prop :=
  let x := s.partAt p
  let base := x.rwinHi.toNat * 2 ^ 32 + x.rwinLo.toNat * 4096
  x.active = true ∧ base ≤ a ∧ a + n ≤ base + 4096 * x.rwinPages.toNat

end Sys2Proof.Claims

/-- 09_route R273, R281 to R286: the states of a port, the identity exchange, and its frames: a resend, a new frame of at most 64 flits
that keeps the order of the messages (VC 2, 3 and 4 stay where the ring does not carry them, R288) and stamps a TIME_REQ (R293), an idle frame,
each with its trailer; a frame with a bad CRC asks for a resend, one out of order is dropped, and ACKSEQ
empties the replay buffer. -/
def Obligations.PortStatesAndFrames : Prop :=
  ∀ (s : State) (who : Agent) (port : Fin 24) (v : Reg32) (r : IdentRec) (f : Frame) (group : Fin 3) (m : Message),
    let n := port.val
    let g := n / 8
    let p := s.portAt n
    let entered := fun st : Nat => { p with state := st, since := s.time }
    let Becomes := fun (c : Instr) (q : Port) => ∃ t, Gives c s t ∧ OnlyPort s t n ∧ t.portAt n = q
    let Leaves := fun (c : Instr) (st : Nat) => ∃ t, Gives c s t ∧ (t.portAt n).state = st ∧ (t.portAt n).replay = [] ∧ (t.portAt n).transmit = []
    let late := fun k : Nat => p.since.toNat + k ≤ s.time.toNat
    let frame := let u := if p.state = 3 then countHubHeld (pump s g) g else s
                 (u, u.portAt n)
    coreClocks s = true →
    (Elapsed s p.probeAt 1000000 →
      (p.state = 0 ∨ p.state = 5 → p.en = true → s.power.coreRails = true →
        Becomes (.probe port) { entered 1 with inForce := settings p, probeAt := some s.time }) ∧
      (p.state = 7 → Becomes (.probe port) { entered 2 with probeAt := some s.time })) ∧
    (¬Elapsed s p.probeAt 1000000 → Gives (.probe port) s s) ∧
    (p.state = 1 → Becomes (.trainingComplete port) (entered 2) ∧ (late 2000000 → Becomes (.trainTimeout port) (entered 5))) ∧
    (p.state = 4 → Becomes (.trainingComplete port) { entered 2 with resend := p.replay.length, nakRun := 0 } ∧
      (late 100000 → Leaves (.trainTimeout port) 5)) ∧
    (p.state = 2 → late 1000000 → Leaves (.identTimeout port) 5) ∧
    (p.state = 3 →
      (p.lastGoodAt.toNat + 10000 ≤ s.time.toNat → Leaves (.goodFrameTimeout port) 5 ∧
        ∀ t, Gives (.goodFrameTimeout port) s t → tabGet 0 t.routeCounters (48 + n) = tabGet 0 s.routeCounters (48 + n) + 1) ∧
      (∃ t, Gives (.lossOfReceiverLock port) s t ∧ (∀ i, i ≠ n → t.portAt i = s.portAt i) ∧
        t.portAt n = { entered 4 with inForce := settings p })) ∧
    (p.state = 2 → (if g = 2 then r.isSwitch = true else ∀ k ∈ upPorts s g, (s.portAt k).loc = r.loc ∧ (s.portAt k).pgroup.toNat = r.group.val) →
      ∃ t, Gives (.ident port r) s t ∧ let q := t.portAt n
        q.state = 3 ∧ q.loc = r.loc ∧ q.digest = r.digest ∧ q.role = r.isSwitch ∧ q.partnerPort.toNat = r.port.val ∧ q.pgroup.toNat = r.group.val) ∧
    (p.state = 2 → g = 2 → r.isSwitch = false → ∃ t, Gives (.ident port r) s t ∧ (t.portAt n).state = 7) ∧
    (p.state = 3 → p.loc ≠ r.loc ∨ p.digest ≠ r.digest → Leaves (.ident port r) 5) ∧
    (p.state = 2 ∨ p.state = 3 → Elapsed s p.identAt (if p.state = 2 then 10000 else 1000000) →
      (upPorts s g ≠ [] → 1 ≤ tabGet 0 (s.groupAt g).credits 0) → ∃ t, Gives (.identSend port) s t ∧
      t = { s with ports := t.ports, groups := t.groups } ∧ (∀ i, i ≠ n → t.portAt i = s.portAt i) ∧ (t.portAt n).identAt = some s.time ∧
      ∃ x ∈ (t.portAt n).transmit, x.msg.type = 1 ∧ x.msg.vc = 0 ∧ x.msg.seq = tabGet 0 (s.groupAt g).nextSeq 0 ∧
        x.msg.head.take 3 = [s.trust.locRack.toNat, n, g] ∧ x.msg.head.getD 4 0 = (ownDigest s).toNat) ∧
    (p.state = 2 ∨ p.state = 3 → Elapsed s p.identAt (if p.state = 2 then 10000 else 1000000) →
      upPorts s g ≠ [] → tabGet 0 (s.groupAt g).credits 0 = 0 → Gives (.identSend port) s (bumpLink s g)) ∧
    (Reaches s who (0x100000 + 16 * n) →
      (v.getLsbD 31 = false → p.state ≠ 6 → Leaves (.portEnableWrite who port v) 6 ∧
        ∀ t, Gives (.portEnableWrite who port v) s t → (t.portAt n).en = false) ∧
      (v.getLsbD 31 = true → p.state = 6 → Becomes (.portEnableWrite who port v)
        { entered 5 with en := true, replaced := p.replaced && !v.getLsbD 27, returned := p.returned && !v.getLsbD 26 })) ∧
    (p.state = 2 ∨ p.state = 3 → ∃ t, Gives (.frameSend port) s t ∧
      t = { frame.1 with ports := t.ports, sync := t.sync } ∧ (∀ i, i ≠ n → t.portAt i = frame.1.portAt i) ∧
      (let q := frame.2
       let l := sendable frame.1 n
       let link := (t.portAt n).onLink
       let Carries := CarriesFrame (s.groupAt g) q link
       (0 < q.resend → t.sync = s.sync ∧ t.portAt n = { q with nak := false, resend := q.resend - 1, onLink := link } ∧
         ∀ r, q.replay[q.replay.length - q.resend]? = some r → Carries r.1 r.2.1 r.2.2) ∧
       (q.resend = 0 → 32 ≤ q.replay.length ∨ l.1 = [] → t.sync = s.sync ∧ t.portAt n = { q with nak := false, onLink := link } ∧
         Carries (q.fseq - 1) 0 [] ∧ link.map OutFrame.slots = some (List.replicate 64 (List.replicate 256 0))) ∧
       (q.resend = 0 → q.replay.length < 32 → l.1 ≠ [] → ∃ ms rest k fill slots,
         let stamped := ms.map (stampRequest (ownClock s))
         t.portAt n = { q with nak := false, transmit := rest ++ l.2, sentFlits := k, replay := q.replay ++ [(q.fseq, fill, stamped)],
                               replaySlots := q.replaySlots ++ [(q.fseq, slots)], fseq := q.fseq + 1, onLink := link } ∧
         Carries q.fseq fill stamped ∧ link.map OutFrame.slots = some slots ∧ slots.length = 64 ∧ ms ++ rest = l.1 ∧
         fill = min 64 ((l.1.map fun o => msgFlits o.msg).sum - q.sentFlits) ∧
         (ms.map fun o => msgFlits o.msg).sum + k ≤ q.sentFlits + 64 ∧
         t.sync = if ∃ o ∈ ms, o.msg.type = 0x08 then { s.sync with pending := some (ownClock s) } else s.sync))) ∧
    (p.state = 2 ∨ p.state = 3 →
      (f.crcOk = false → ∃ t, Gives (.frameReceive port f) s t ∧ t = { s with ports := t.ports, routeCounters := t.routeCounters } ∧
        t.portAt n = { p with nak := true } ∧ (∀ i, i ≠ n → t.portAt i = s.portAt i) ∧
        tabGet 0 t.routeCounters n = tabGet 0 s.routeCounters n + 1) ∧
      (f.crcOk = true → f.fill ≠ 0 → f.fseq ≠ p.expect → Becomes (.frameReceive port f) { p with lastGoodAt := s.time }) ∧
      (f.crcOk = true → f.fill ≠ 0 → f.fseq = p.expect → ∃ t, Gives (.frameReceive port f) s t ∧
        let q := t.portAt n
        q.expect = p.expect + 1 ∧ q.lastGood = f.fseq ∧ q.ackValid = true ∧ q.nak = false ∧ q.lastGoodAt = s.time ∧
        (∀ a b, f.ackValid = true → p.replay.map Prod.fst = a ++ f.ackSeq :: b → f.ackSeq ∉ a → q.replay = p.replay.drop (a.length + 1)) ∧
        (f.ackValid = false → q.replay = p.replay) ∧ (f.nak = true → q.resend = q.replay.length))) ∧
    (isBadMessage group.val m = true → ∃ t, Gives (.badMsg group m) s t ∧
      t = { s with groups := t.groups, routeCounters := t.routeCounters } ∧
      tabGet 0 t.routeCounters (75 + group.val) = tabGet 0 s.routeCounters (75 + group.val) + 1 ∧
      t.groupAt group.val = { s.groupAt group.val with freed := (t.groupAt group.val).freed } ∧
      ∀ i, i ≠ group.val → t.groupAt i = s.groupAt i)

/-- 09_route R274 to R276, R279, R280, R299 to R302; 10_streams R318; 14_power R420: what a message that arrives does, type by type; one whose SEQ
the group has taken before does nothing. WANT, DISPATCH and WRITE wait for a window under HOLD (02_package R38), and no partition takes a DISPATCH
or WRITE in Nap and Doze. -/
def Obligations.MessagesTakeEffect : Prop :=
  ∀ (s : State) (group : Fin 3) (m : Message) (c : Instr) (type : Nat),
    (c, type) ∈ [(Instr.bale group m, 0x10), (.hopEnd group m, 0x11), (.survey group m, 0x12), (.grad group m, 0x13), (.baleAck group m, 0x0B),
      (.want group m, 0x18), (.dispatch group m, 0x19), (.write group m, 0x1A), (.writeAck group m, 0x1B), (.unreach group m, 0x04)] →
    let g := group.val
    let a := m.addr.toNat
    let bs := m.body.take m.plen
    let room := ((s.groupAt g).serai.map msgFlits).sum + msgFlits m ≤ 131072
    let id := fun (vc : Nat) (q : BitVec 32) => MsgId.mk g vc q
    let hit := fun (k : Nat) (i : MsgId) => i ∈ (tabGet {} s.slots k).sent ∧ ((tabGet {} s.slots k).state = 2 ∨ (tabGet {} s.slots k).state = 3)
    let takes := InRemote s m.dpart.val a m.plen ∧ s.power.state ≠ 2 ∧ s.power.state ≠ 3
    let failed := fun (x : Slot) (code : Code) =>
      { x with state := 6, pend := false, code, command := none, landed := x.landed.map fun e => (e.1, []), unacked := [], writeAcks := [] }
    let Fails := fun (i : MsgId) (code : Code) => ∃ t, Gives c s t ∧ Taken t g m ∧ t.mem = s.mem ∧ t.ring = s.ring ∧
      ((∀ k, ¬hit k i) → t = { s with groups := t.groups }) ∧
      ∀ k, hit k i → (∀ j, hit j i → j = k) → (∃ n, Logs s t code 3 n ∧ n / 8 = g) ∧
        ∀ j, tabGet {} t.slots j = if j = k then failed (tabGet {} s.slots k) code else tabGet {} s.slots j
    ((m.src, m.vc, m.seq) ∈ (s.groupAt g).seen → Gives c s s) ∧
    (Arrives s g type m →
      (c ∈ [Instr.bale group m, .grad group m] → room → ∃ t, Gives c s t ∧ t = { s with groups := t.groups } ∧ Taken t g m ∧
        (t.groupAt g).serai = (s.groupAt g).serai ++ [m]) ∧
      (c = .survey group m → room → ∃ t, Gives c s t ∧ Taken t g m ∧ (t.groupAt g).serai = (s.groupAt g).serai ++ [m] ∧
        t.ring = s.ring ∧ t.mem = s.mem ∧
        (s.ring.members.length ≤ 1 ∨ m.head.getD 0 0 = (s.ring.position.toNat + 1) % s.ring.members.length → t = { s with groups := t.groups })) ∧
      (c = .hopEnd group m → ∃ t, Gives c s t ∧ t = { s with groups := t.groups, ring := { s.ring with hopBales := t.ring.hopBales } } ∧
        Taken t g m ∧ ∀ h, tabGet 0 t.ring.hopBales h = if h = m.head.getD 0 0 then m.head.getD 1 0 else tabGet 0 s.ring.hopBales h) ∧
      (c = .baleAck group m → ∃ t, Gives c s t ∧ t = { s with groups := t.groups, ring := { s.ring with unacked := t.ring.unacked } } ∧
        Taken t g m ∧ t.ring.unacked = s.ring.unacked.filter fun q => q.toNat != m.head.getD 1 0) ∧
      (c = .want group m → Memory.wf s.mem = true → ∀ k, s.ring.task = some k →
        rangeFault s (some (s.ctxAt k.val).part.toNat) a (min m.plen m.body.length) true = none →
        Unimpeded s none a (min m.plen m.body.length) → ∃ t, Gives c s t ∧ Taken t g m ∧
        Stores s t a bs ∧ ∃ w, t.ring = { s.ring with wants := s.ring.wants ++ [w] } ∧ w.group = m.head.getD 1 0 ∧
          w.firstBale = m.head.getD 2 0 ∧ w.addr = a) ∧
      (c ∈ [Instr.dispatch group m, .write group m] → takes → spanHeld s a m.plen = true → Gives c s s) ∧
      (c = .want group m → spanHeld s a (min m.plen m.body.length) = true → Gives c s s) ∧
      (c = .dispatch group m →
        (takes → rangeFault s (some m.dpart.val) a bs.length true = none → Unimpeded s none a (max m.plen bs.length) → Memory.wf s.mem = true →
          ∃ u t, Gives c s t ∧ Taken t g m ∧ OnlyLookups s u ∧ t = { u with groups := t.groups, mem := t.mem, bad := t.bad } ∧ Stores s t a bs) ∧
        (¬takes → ∃ t, Gives c s t ∧ Taken t g m ∧ t.mem = s.mem ∧ tabGet 0 t.routeCounters 79 = tabGet 0 s.routeCounters 79 + 1)) ∧
      (c = .write group m → Memory.wf s.mem = true → (takes → spanHeld s a m.plen = false) → ∃ t, Gives c s t ∧ Taken t g m ∧
        (takes → rangeFault s (some m.dpart.val) a bs.length true = none → Unimpeded s none a (max m.plen bs.length) → Stores s t a bs) ∧
        (¬takes → t.mem = s.mem) ∧ tabGet 0 (t.groupAt g).nextSeq 7 = tabGet 0 (s.groupAt g).nextSeq 7 + 1) ∧
      (c = .writeAck group m →
        let q := id 7 (BitVec.ofNat 32 (m.head.getD 0 0))
        let code : Code := BitVec.ofNat 16 (m.head.getD 1 0)
        (code = 0 → ∃ t, Gives c s t ∧ t = { s with groups := t.groups, slots := t.slots } ∧ Taken t g m ∧ ∀ k,
          tabGet {} t.slots k = { tabGet {} s.slots k with writeAcks := (tabGet {} s.slots k).writeAcks.filter fun y => y != q }) ∧
        (code ≠ 0 → Fails q code)) ∧
      (c = .unreach group m → Fails (id (m.head.getD 1 0 % 8) (BitVec.ofNat 32 (m.head.getD 7 0))) 0x3005))

/-- 09_route R287 to R290; 01_caravan R31: REFORM and LEAVE, the ring check and its time limits, and how a ring breaks and its caravan task
with it. -/
def Obligations.RingFormationAndBreak : Prop :=
  ∀ (s : State) (who : Agent) (v : Reg32) (group : Fin 3) (side : Fin 2) (m : Message),
    let r := s.ring
    let l := r.len.toNat
    let ms := (List.range l).map fun k => memberEntry s k
    let valid := 1 ≤ l ∧ l ≤ 1024 ∧ ms.Nodup ∧ s.trust.locRack ∈ ms
    let may := (isHubSide who = true ∨ isHost who = true) ∧ Reaches s who 0x100200
    let hash := (ringHash r.ringId r.members).toNat
    (may → v.getLsbD 31 = true → v.getLsbD 30 = false → r.state ≠ 1 →
      (r.task ≠ none → Gives (.reform who v) s { s with ring := { r with code := 0x3008 } }) ∧
      (r.task = none → ¬valid → ∃ t, Gives (.reform who v) s t ∧ t.ring = { r with state := 4, code := 0x3002 }) ∧
      (r.task = none → valid → l = 1 → ∃ t, Gives (.reform who v) s t ∧ t.ring.state = 2 ∧ t.ring.code = 0 ∧ t.ring.members = ms ∧
        t.ring.position = 0 ∧ t.ring.formedId = r.ringId ∧ t.ring.barrier = 0) ∧
      (r.task = none → valid → 2 ≤ l → ∃ t, Gives (.reform who v) s t ∧ t.ring.state = 1 ∧ t.ring.code = 0 ∧ t.ring.members = ms ∧
        ms[t.ring.position.toNat]? = some s.trust.locRack)) ∧
    (may → v.getLsbD 30 = true → v.getLsbD 31 = false → r.state ≠ 1 →
      (r.task = none → ∃ t, Gives (.leave who v) s t ∧ t.ring = { r with state := 0 } ∧ t.mem = s.mem) ∧
      (r.task ≠ none → Gives (.leave who v) s { s with ring := { r with code := 0x3008 } })) ∧
    (may → r.state = 1 → v.getLsbD 30 = true → Gives (.leave who v) s s) ∧
    (Arrives s group.val 0x02 m → group.val ≠ 2 → r.state = 1 →
      (r.checkSent = true → group.val = (if r.downGroup then 0 else 1) →
        (m.head.getD 0 0 = hash → ∃ t, Gives (.ringCheck group m) s t ∧ t.ring.state = 2 ∧ t.ring.code = 0) ∧
        (m.head.getD 0 0 ≠ hash → ∃ t, Gives (.ringCheck group m) s t ∧ t.ring = { r with state := 4, code := 0x3004 })) ∧
      (r.checkSent = false → ∃ t, Gives (.ringCheck group m) s t ∧ t.ring = { r with checkGot := t.ring.checkGot } ∧
        t.ring.checkGot.find? (fun e => e.1 == group.val) = some (group.val, m.head.getD 0 0))) ∧
    (coreClocks s = true → r.state = 1 → r.formingSince.toNat + 10000000 ≤ s.time.toNat → ∃ t, Gives .ringFormTimeout s t ∧
      t.ring = { r with state := 4, code := if r.checkSent then 0x3004 else 0x3003 }) ∧
    (coreClocks s = true → r.state = 2 → 2 ≤ r.members.length → r.task = none →
      ((s.groupAt side.val).changed = true ∨ ∃ d, (s.groupAt side.val).lostSince = some d ∧ d.toNat + 200000 ≤ s.time.toNat) →
      ∃ t, Gives (.partnerVanish side) s t ∧ t.ring.state = 3 ∧ t.ring.code = 0x3001 ∧ t.ring.arrived = false ∧ Logs s t 0x3001 0 0 ∧
        ∀ k rd, 256 ≤ k → k < 264 → (s.stewardAt k).run = .ringBarrier rd →
          WritesReg (s.stewardAt k) (t.stewardAt k) rd 0x3001 ∧ (t.stewardAt k).run = .running) ∧
    (∀ c : Fin 64, coreClocks s = true → r.state = 2 → 2 ≤ r.members.length → r.task = some c → (s.ctxAt c.val).state ≠ 6 →
      r.layer < max 1 (s.ctxAt c.val).layers.length → (s.groupAt side.val).changed = true →
      ∃ t, Gives (.partnerVanish side) s t ∧ t.ring.state = 3 ∧ t.ring.task = none ∧ t.ring.manifest = [] ∧ t.ring.wants = [] ∧
        t.ring.caravanArea = [] ∧ (t.ctxAt c.val).state = 6 ∧ (t.ctxAt c.val).fault = 0x3001) ∧
    (Arrives s group.val 0x03 m →
      (r.state = 2 → ∃ t, Gives (.abort group m) s t ∧ t.ring.state = 3 ∧ t.ring.code = 0x3001) ∧
      (r.state = 3 → ∃ t, Gives (.abort group m) s t ∧ (r.task = none → t.ring = { r with detection := t.ring.detection }) ∧
        ∃ d, t.ring.detection = some d ∧ d.toNat ≤ (BitVec.ofNat 64 (m.head.getD 1 0)).toNat ∧ ∀ x, r.detection = some x → d.toNat ≤ x.toNat) ∧
      (r.state ≠ 2 → r.state ≠ 3 → ∃ t, Gives (.abort group m) s t ∧ t.ring = r))

/-- 11_steward R353, R356; 01_caravan R22 to R24, R27, R28; 09_route R297, R301; 12_partitions R371: a ring-scope barrier of hub steward p at S,
which runs the caravan task of partition p, what its arrival waits for in the survey and in the gating phase, the arrivals of the other members, the release MARGIN after the last arrival, and the manifest: D of a bale is the largest distance of a member that
wants it. -/
def Obligations.RingBarriersAndManifest : Prop :=
  ∀ (s : State) (st : Fin 264) (rd ra rb : BitVec 5) (group : Fin 3) (m : Message),
    let r := s.ring
    let x := s.stewardAt st.val
    let l := r.members.length
    (stewardReady s st = true → x.stores = [] → 256 ≤ st.val → x.pl = 1 → (regOf s st ra).toNat = 2 ^ 62 → regOf s st rb = 0 →
      let own := stewardCtx s st
      let ringPart := (s.partAt (st.val - 256)).ring
      let synced := s.sync.master = true ∨ s.sync.synced = true
      let Ends := fun v : Code => ∃ t, exec (.barrier st rd ra rb) s = .next t ∧ OthersKept s t st ∧
        WritesReg x (t.stewardAt st.val) rd (v.setWidth 64) ∧ RetiresAt x (t.stewardAt st.val) (x.pc + 4) none ∧ Logs s t v 0 0 ∧
        t.mem = s.mem ∧ t.ring = s.ring
      (ringPart = false → Ends 0x200F) ∧
      (ringPart = true → r.state ≠ 2 → Ends 0x3009) ∧
      (ringPart = true → r.state = 2 → ¬synced → Ends 0x3006) ∧
      (ringPart = true → r.state = 2 → synced → ∃ t, exec (.barrier st rd ra rb) s = .next t ∧ OthersKept s t st ∧
        t.stewardAt st.val = { x with run := .ringBarrier rd } ∧ (r.task = none → t.ring.task = own) ∧
        (r.arrived = true → t.ring.arrivals = r.arrivals) ∧
        (r.arrived = false → (r.task = none → ∀ c, own = some c → (s.ctxAt c.val).caravan = none) → arrivalDue s = true →
          t.ring.arrived = true ∧ tabGet 0 t.ring.arrivals (r.barrier * 1024 + r.position.toNat) = s.time) ∧
        (r.arrived = false → (∃ c, r.task = some c ∧ r.layer < max 1 (s.ctxAt c.val).layers.length) → arrivalDue s = false →
          t.ring.arrived = false ∧ t.ring.arrivals = r.arrivals))) ∧
    (∀ c d, r.task = some c → (s.ctxAt c.val).caravan = some d → r.layer < max 1 (s.ctxAt c.val).layers.length →
      let gated := (s.ctxAt c.val).layers.getD r.layer true
      (r.step = 0 → (arrivalDue s = true ↔
        (∀ o, o < l → o ≠ r.position.toNat % l → surveyHeld s d o = true) ∧ surveysUnacked s = false)) ∧
      (gated = true → r.step = 1 → (arrivalDue s = true ↔
        selectsPending s = false ∧ (rowsOwed s d).length ≤ r.wantsSent ∧ wantsComplete s = true ∧ r.manifestWritten = true)) ∧
      ((gated = true → 2 ≤ r.step) → 1 ≤ r.step → arrivalDue s = true)) ∧
    (coreClocks s = true → r.state = 2 → r.arrived = false → (∃ k d, 256 ≤ k ∧ k < 264 ∧ (s.stewardAt k).run = .ringBarrier d) →
      arrivalDue s = true → ∃ t, Gives .barrierRelease s t ∧ t.ring.arrived = true ∧ t.ring.barrier = r.barrier ∧
        tabGet 0 t.ring.arrivals (r.barrier * 1024 + r.position.toNat) = s.time) ∧
    (Arrives s group.val 0x0A m → group.val ≠ 2 → r.state = 2 → ∃ t, Gives (.arrive group m) s t ∧
      t.ring = { r with arrivals := t.ring.arrivals } ∧
      ∀ k, tabGet 0 t.ring.arrivals k =
        if k = m.head.getD 0 0 * 1024 + m.head.getD 1 0 then BitVec.ofNat 64 (m.head.getD 2 0) else tabGet 0 r.arrivals k) ∧
    (coreClocks s = true → r.state = 2 → r.arrived = true → 2 ≤ l → (knownArrivals s).length = l →
      (∀ a ∈ knownArrivals s, a + r.margin.toNat ≤ s.time.toNat) → ∃ t, Gives .barrierRelease s t ∧
        t.ring.barrier = r.barrier + 1 ∧ t.ring.arrived = false ∧
        ∀ k, if 256 ≤ k ∧ k < 264 then ∀ d, (s.stewardAt k).run = .ringBarrier d →
            WritesReg (s.stewardAt k) (t.stewardAt k) d 0 ∧
            RetiresAt { s.stewardAt k with run := .running } (t.stewardAt k) ((s.stewardAt k).pc + 4) none
          else t.stewardAt k = s.stewardAt k) ∧
    (coreClocks s = true → r.state = 2 → r.arrived = true → 2 ≤ l → (∃ a ∈ knownArrivals s, s.time.toNat < a + r.margin.toNat) →
      Gives .barrierRelease s s) ∧
    (∀ c, coreClocks s = true → r.state = 2 → r.task = some c → r.layer < max 1 (s.ctxAt c.val).layers.length →
      (s.ctxAt c.val).layers.getD r.layer true = true → r.step = 1 → r.manifestWritten = false → wantsComplete s = true →
      ∃ t, Gives .manifestBuild s t ∧
      t = { s with ring := { r with manifestWritten := true, manifest := t.ring.manifest } } ∧ ∀ b,
        (∀ w ∈ r.wants, b ∈ rowBales s w → distanceOf s w.position ≤ tabGet 0 t.ring.manifest b) ∧
        (tabGet 0 t.ring.manifest b = 0 ∨ ∃ w ∈ r.wants, b ∈ rowBales s w ∧ tabGet 0 t.ring.manifest b = distanceOf s w.position))

/-- 00_scope R9; 09_route R292 to R296: with no command waiting, one ct passes while the counter runs (log 2), a slew that is due is added to
the clock, and a caravan task that is over ends (log 34); the exchange with the parent (its t1 is stamped as the head flit
passes the serializer: PortStatesAndFrames), the answer to one, the offset that a response gives, and the loss of exchanges. -/
def Obligations.CaravanTime : Prop :=
  ∀ (s : State) (port : Fin 24) (m : Message) (t1 t2 t3 t4 : Nat),
    let y := s.sync
    let due := y.lastSlew.toNat + 65536 ≤ s.time.toNat
    let clock := 16 * s.time.toNat + y.sub
    let part := max (-16) (min 16 y.slew)
    let up : Int := (m.head.getD 1 0 : Int) - t1
    let down : Int := (t4 : Int) - m.head.getD 2 0 - m.head.getD 3 0
    let exchanges := ((up - down) / 2, (up + down) / 2) :: y.exchanges.take 7
    let f := filteredOffset exchanges
    let n := y.parent.toNat
    (s.pending = [] → s.ring.task = none ∨ layersDone s = false →
      (s.timeRuns = false → step s = .next s) ∧
      (s.timeRuns = true → ¬due ∨ y.slew = 0 → step s = .next { s with time := s.time + 1 }) ∧
      (s.timeRuns = true → due → y.slew ≠ 0 → y.sub < 16 → s.time.toNat + 2 < 2 ^ 64 → ∃ t, step s = .next t ∧
        t = { s with time := t.time, sync := { y with slew := y.slew - part, sub := t.sync.sub, lastSlew := t.time } } ∧ t.sync.sub < 16 ∧
        (16 * t.time.toNat + t.sync.sub : Int) = clock + 16 + part)) ∧
    (∀ c rel, s.pending = [] → s.timeRuns = false → s.ring.task = some c → layersDone s = true → s.ring.finalRelease = some rel →
      (boundEcs s c).any (endWaits s) = false → rel.toNat + s.ring.margin.toNat ≤ s.time.toNat → (s.ctxAt c.val).layers = [] →
      ∃ t, step s = .next t ∧ t.ring.task = none) ∧
    (coreClocks s = true → y.master = false → n < 24 → (s.portAt n).state = 3 →
      (¬Elapsed s y.requestAt 1048576 → Gives .timeExchange s s) ∧
      (Elapsed s y.requestAt 1048576 → 1 ≤ tabGet 0 (s.groupAt (n / 8)).credits 1 → ∃ t, Gives .timeExchange s t ∧
        t.sync = { y with pending := none, requestAt := some s.time, port := y.parent } ∧
        ∃ x ∈ (t.portAt n).transmit, x.msg.type = 0x08 ∧ x.msg.vc = 1 ∧ (stampRequest clock x).msg.head = [clock, 0]) ∧
      (Elapsed s y.requestAt 1048576 → tabGet 0 (s.groupAt (n / 8)).credits 1 = 0 → Gives .timeExchange s (bumpLink s (n / 8)))) ∧
    (Arrives s (port.val / 8) 0x08 m → (s.portAt port.val).state = 3 → 1 ≤ tabGet 0 (s.groupAt (port.val / 8)).credits 1 →
      ∃ t, Gives (.timeReq port m t2 t3) s t ∧ Taken t (port.val / 8) m ∧
      ∃ x ∈ (t.portAt port.val).transmit, x.msg.type = 0x09 ∧ x.msg.vc = 1 ∧ x.msg.dst = m.src ∧
        x.msg.head = [m.head.getD 0 0, t2 - m.head.getD 1 0, t3, 0]) ∧
    (Arrives s (port.val / 8) 0x09 m → y.master = false → y.pending = some t1 → m.head.getD 0 0 = t1 →
      ∃ t, Gives (.timeResp port m t4) s t ∧ t.sync.pending = none ∧ t.sync.exchanges = exchanges ∧ t.sync.hold = false ∧
        t.sync.offset = BitVec.ofInt 16 f ∧
        (y.everSynced = true → 16000 < f.natAbs → t.sync.diverged = true ∧ t.sync.synced = false ∧ t.time = s.time ∧ Logs s t 0x3006 0 0) ∧
        (y.everSynced = true → f.natAbs ≤ 16000 → t.sync.slew = f ∧ t.time = s.time) ∧
        (y.everSynced = false → 0 ≤ clock + f → t.time = BitVec.ofInt 64 ((clock + f) / 16) ∧ (t.sync.sub : Int) = (clock + f) % 16 ∧
          (t.sync.synced = true ↔ y.synced = true ∨ (7 ≤ y.goodRun ∧ f.natAbs < 32)))) ∧
    (y.master = false → y.hold = false → y.lastExchange.toNat + 4 * 1048576 ≤ s.time.toNat →
      Gives .timeHold s { s with sync := { y with hold := true, holdSince := s.time } }) ∧
    (y.hold = true → y.holdSince.toNat + 1000000000 ≤ s.time.toNat →
      Gives .syncLoss s { s with sync := { y with synced := false, goodRun := 0 } })

/-! ### Host interface -/

namespace Sys2Proof.Claims

/-- Function `f` answers requests and firmware runs. -/
def Serves (s : State) (f : Nat) : Prop :=
  s.trust.stage = 3 ∧ s.power.state ≠ 4 ∧ s.power.state ≠ 7 ∧ s.power.hotReset = false ∧
    (f = 0 ∨ (s.pcie.vfEnable = true ∧ f ≤ s.pcie.numVfs.toNat))

/-- A doorbell's queue takes it on a page (13_host R401; 12_partitions R373): the queue is the page's and enabled, and the tail has
advanced by at most the size of the ring. -/
def DoorbellValid (s : State) (page : Nat) (data : Word64) : Prop :=
  let n := data.toNat % 2 ^ 20
  let q := s.queueAt n
  let k := (data.extractLsb' 32 32 - q.tail).toNat
  let x := s.ctxAt q.ctx.toNat
  q.state = 1 ∧ 1 ≤ k ∧ k ≤ 2 ^ q.log2n ∧
    (if page = 0 then n < 16 else 16 ≤ n ∧ x.part.toNat + 1 = page ∧ x.state ≠ 0 ∧ (s.partAt (page - 1)).active = true)

end Sys2Proof.Claims

/-- 13_host R389, R391, R396 to R403; 12_partitions R373; 14_power R420: doorbells, BAR accesses, the end of a host-ring read and
configuration requests. A doorbell writes its tail word, and TAIL of the queue's record where the table has its place (12_partitions R372); it
follows its function's posted writes (R401). -/
def Obligations.HostAccesses : Prop :=
  ∀ (s : State) (f : Fin 9) (page : Fin 16) (data : Word64) (x len : Nat) (bs : List Byte) (read : HostRead) (w : HostWrite),
    let y := s.functionAt f.val
    let n := data.toNat % 2 ^ 20
    let q := s.queueAt n
    let tail := data.extractLsb' 32 32
    let k := (tail - q.tail).toNat
    let off := x / 0xC00000 * 0x1000000 + x % 0xC00000
    let a := (tabGet 0 s.pcie.bar2 f.val).toNat * 0x1000000000 + x
    let asleep := s.power.state = 1 ∨ s.power.state = 2 ∨ s.power.state = 3
    let word := q.tailw.toNat
    let record := s.queueTable + 64 * n + 0x18
    let poisoned := reportAer s "Poisoned TLP Received"
    let Reads := fun (c : Instr) (l : List Byte) => ∃ t, Gives c s t ∧ t.pcie.readData = l
    Serves s f.val → y.d3hot = false →
    (f = 0 ∨ f.val = page.val → read = .poisonedWrite → Gives (.doorbell f page data read) s poisoned) ∧
    (f = 0 ∨ f.val = page.val → page.val < 9 → read ≠ .poisonedWrite → postedWaits s f.val = true → Gives (.doorbell f page data read) s
      { s with posted := s.posted ++ [.doorbell f.val (if page = 0 then none else some (page.val - 1)) data read] }) ∧
    (f = 0 ∨ f.val = page.val → page.val < 9 → read ≠ .poisonedWrite → postedWaits s f.val = false →
      (¬asleep → DoorbellValid s page.val data → q.host = true →
        (read = .refused → Gives (.doorbell f page data read) s (hostReadFailed s n)) ∧
        (read = .poisoned → Gives (.doorbell f page data read) s (hostReadFailed poisoned n)) ∧
        (read = .slots bs → ∃ t, Gives (.doorbell f page data read) s t ∧ t.queueAt n = { q with tail })) ∧
      (¬asleep → DoorbellValid s page.val data → q.host = false → rangeFault s none word 8 true = none → Unimpeded s none word 8 →
        Memory.wf s.mem = true →
        ∃ t, Gives (.doorbell f page data read) s t ∧ t.queueAt n = { q with tail } ∧ (∀ i, i ≠ n → t.queueAt i = s.queueAt i) ∧
          (s.queueTable = 0 ∨ record + 4 ≤ word ∨ word + 8 ≤ record →
            (∀ i, i < 8 → cellGet t.mem (word + i) = if i < 4 then tail.extractLsb' (8 * i) 8 else 0) ∧
            ∀ b, b < word ∨ word + 8 ≤ b → s.queueTable = 0 ∨ b < record ∨ record + 4 ≤ b → cellGet t.mem b = cellGet s.mem b) ∧
          (s.queueTable ≠ 0 → rangeFault s none record 4 true = none → Unimpeded s none record 4 →
            ∀ i, i < 4 → cellGet t.mem (record + i) = tail.extractLsb' (8 * i) 8) ∧
          (16 ≤ n → let c := q.ctx.toNat
            (t.ctxAt c).submit = (s.ctxAt c).submit + BitVec.ofNat 32 k ∧
            ((s.ctxAt c).state = 1 → (t.ctxAt c).state = 2) ∧
            ((s.ctxAt c).state ≠ 1 → (s.ecAt q.sec.toNat).bound.map Fin.val = some c →
              (t.stewardAt (2 * q.sec.toNat + if q.sstw then 1 else 0)).doorbell = true))) ∧
      (¬asleep → ¬DoorbellValid s page.val data → Gives (.doorbell f page data read) s (bumpHub s cntDbBad)) ∧
      (asleep → s.power.latch.length < 1024 → ∃ t, Gives (.doorbell f page data read) s t ∧
        t.power.latch = s.power.latch ++ [(if page = 0 then none else some (page.val - 1), data, read)] ∧ t.mem = s.mem) ∧
      (¬asleep → DoorbellValid s page.val data → q.host = true → ∃ t, Gives (.completionTimeout f page data) s t ∧ t.queueAt n = q ∧
        tabGet 0 t.hubCounters cntDbBad = tabGet 0 s.hubCounters cntDbBad + 1 ∧
        tabGet 0 t.hubCounters cntAtsFail = tabGet 0 s.hubCounters cntAtsFail + 1 ∧
        t.pcie.aer = s.pcie.aer ++ ["Completion Timeout"] ∧ Logs s t 0x2FFF 0 0)) ∧
    (f = 0 → x % 4 = 0 → x < 0x3C00000 →
      (regClocked s off = true → Reads (.bar0Access f x 4 none) (natLe 4 (regRead s off).1.toNat)) ∧
      (regClocked s off = true → bs.length = 4 →
        Gives (.bar0Access f x 4 (some (.data bs))) s (fullRegWrite s (.bar0 f) off (BitVec.ofNat 32 (leNat bs)))) ∧
      (regClocked s off = false → w ≠ .poisoned → Gives (.bar0Access f x 4 (some w)) s s ∧ Gives (.bar0Access f x 4 none) s s)) ∧
    Gives (.bar0Access f x len (some .poisoned)) s poisoned ∧
    (len ≠ 4 → len ≠ 8 → ∃ t, Gives (.bar0Access f x len none) s t ∧ t.pcie.readData = List.replicate len 0 ∧
      tabGet 0 t.hubCounters cntBarErr = tabGet 0 s.hubCounters cntBarErr + 1) ∧
    (s.power.state = 0 ∨ s.power.state = 1 → s.power.selfRefresh = false → 1 ≤ len →
      (bar2Fault s f.val a len = none → windowHeld s a = true → Gives (.bar2Access f x len none false) s s) ∧
      (bar2Fault s f.val a len = none → postedWaits s f.val = true → Gives (.bar2Access f x len none false) s s) ∧
      (bar2Fault s f.val a len = none → postedWaits s f.val = false → Unimpeded s none a len →
        ∃ t, Gives (.bar2Access f x len none false) s t ∧ t.mem = s.mem ∧ t.pcie.readData = bytesAt s a len) ∧
      (bs ≠ [] → bar2Fault s f.val a bs.length = none → postedWaits s f.val = false → Unimpeded s none a bs.length → Memory.wf s.mem = true →
        ∃ u t, Gives (.bar2Access f x len (some bs) false) s t ∧ OnlyLookups s u ∧ t = { u with mem := t.mem, bad := t.bad } ∧ Stores s t a bs) ∧
      (bs ≠ [] → bar2Fault s f.val a bs.length = none → postedWaits s f.val = true ∨ spanHeld s a bs.length = true →
        Gives (.bar2Access f x len (some bs) false) s { s with posted := s.posted ++ [.bar2 f.val a bs] }) ∧
      (∀ code b, bar2Fault s f.val a len = some (code, b) → ∃ t, Gives (.bar2Access f x len none false) s t ∧
        t.pcie.readData = List.replicate len 0xFF ∧ Logs s t code 0 0 ∧ t.mem = s.mem ∧
        tabGet 0 t.hubCounters cntBarErr = tabGet 0 s.hubCounters cntBarErr + 1) ∧
      (bs ≠ [] → Gives (.bar2Access f x len (some bs) true) s poisoned)) ∧
    (poisoned.pcie.aer = s.pcie.aer ++ ["Poisoned TLP Received"] ∧ poisoned.pcie.aerStatus = s.pcie.aerStatus ||| 0x1000 ∧
      poisoned = { s with pcie := poisoned.pcie }) ∧
    (s.power.state = 2 ∨ s.power.state = 3 → 1 ≤ len → ∃ t, Gives (.bar2Access f x len none false) s t ∧
      t.pcie.readData = List.replicate len 0xFF ∧ Logs s t 0x6009 0 0) ∧
    Reads (.bar4Access f x len none) (List.replicate len 0) ∧
    (len ≠ 8 ∨ x % 4096 ≠ 0 ∨ 9 ≤ x / 4096 → Gives (.bar4Access f x len (some w)) s (if w = .poisoned then poisoned else bumpHub s cntDbBad)) ∧
    (s.pcie.controllerReset = false →
      Reads (.configurationRequest f .vendorId none) (natLe 4 0x1F5C) ∧
      Reads (.configurationRequest f .deviceId none) (natLe 4 (if f = 0 then 0x4040 else 0x4041)) ∧
      Reads (.configurationRequest f .classCode none) (natLe 4 0x120000) ∧
      Reads (.configurationRequest f .powerState none) (natLe 4 0) ∧
      (f = 0 → len ≤ 8 → ∃ t, Gives (.configurationRequest f .numVfs (some len)) s t ∧ t.pcie.numVfs.toNat = len))

/-- 13_host R391, R403 to R405, R407, R408: function-level resets, the link's hot reset, power states of a function, the unmasking of a
vector and translation invalidations. -/
def Obligations.FunctionResetsAndVectors : Prop :=
  ∀ (s : State) (f : Fin 9) (k : Fin 8) (entry : Fin 2048) (page : Nat) (c : Fin 64),
    let inUse := 2 ≤ (s.ctxAt c.val).state ∧ (s.ctxAt c.val).state ≤ 5
    let Torn := fun t : State => (t.ctxAt c.val).state = 6 ∧ (t.ctxAt c.val).fault = 0x200D
    let PfReset := fun t : State => t.pcie.vfEnable = false ∧ t.pcie.numVfs = 0 ∧ t.pcie.functions = [] ∧ t.pcie.bar2 = [] ∧ t.doe = {} ∧
      (t.queueAt 0).state = 1 ∧ (∀ i, 1 ≤ i → i < 16 → (t.queueAt i).state = if (s.queueAt i).state = 1 then 2 else (s.queueAt i).state) ∧
      (inUse → (s.partAt (s.ctxAt c.val).part.toNat).active = true → Torn t)
    (Serves s (k.val + 1) → ∃ t, Gives (.flrVf k) s t ∧ t.functionAt (k.val + 1) = {} ∧ tabGet 0 t.pcie.bar2 (k.val + 1) = 0 ∧
      (inUse → (s.ctxAt c.val).part.toNat = k.val → Torn t) ∧
      ∀ p, t.partAt p = s.partAt p) ∧
    (Serves s 0 → (∃ t, Gives .flrPf s t ∧ PfReset t) ∧ ∃ t, Gives .pcieHotReset s t ∧ PfReset t ∧ t.pcie.linkUp = false) ∧
    (Serves s f.val →
      (∃ t, Gives (.d3hot f true) s t ∧ t.functionAt f.val = { s.functionAt f.val with d3hot := true } ∧ t.pcie.sent = s.pcie.sent ∧
        ∀ g, g ≠ f.val → t.functionAt g = s.functionAt g) ∧
      ∃ t, Gives (.d3hot f false) s t ∧ (t.functionAt f.val).d3hot = false ∧ (∀ g, g ≠ f.val → t.functionAt g = s.functionAt g) ∧
        ((s.functionAt f.val).msixEnable = true → (s.functionAt f.val).functionMask = false → ∀ e ∈ (s.functionAt f.val).pending,
          e ∈ (s.functionAt f.val).unmasked → (f.val, e) ∈ t.pcie.sent ∧ e ∉ (t.functionAt f.val).pending)) ∧
    (Serves s f.val → entry.val < (if f = 0 then 2048 else 224) → (s.functionAt f.val).d3hot = false → ∃ t, Gives (.msixUnmask f entry) s t ∧
      t = { s with pcie := t.pcie } ∧ entry.val ∈ (t.functionAt f.val).unmasked ∧
      ((s.functionAt f.val).msixEnable = true → (s.functionAt f.val).functionMask = false → entry.val ∈ (s.functionAt f.val).pending →
        (f.val, entry.val) ∈ t.pcie.sent ∧ entry.val ∉ (t.functionAt f.val).pending)) ∧
    (Serves s f.val → (s.functionAt f.val).d3hot = true → Gives (.msixUnmask f entry) s (unsupported s false)) ∧
    (Serves s 0 →
      let cache := s.pcie.atsCache.filter fun e => e.2 != page
      (page ∈ s.pcie.atsInUse → Gives (.atsInvalidation page) s
        { s with pcie := { s.pcie with atsCache := cache, atsWaiting := s.pcie.atsWaiting ++ [page] } }) ∧
      (page ∉ s.pcie.atsInUse → Gives (.atsInvalidation page) s
        { s with pcie := { s.pcie with atsCache := cache, atsDone := s.pcie.atsDone ++ [page] } }))

/-- 13_host R409; 15_trust R445 to R447: what the DOE mailbox answers while firmware runs; each response raises vector 3, an object of
another protocol sets the Error bit, and an abort clears both. The fields of the SPDM base specification are the model's (log 53). -/
def Obligations.DoeResponses : Prop :=
  ∀ (s : State) (q : List Byte) (slot offset len index : Nat),
    let chain := certChain s
    let served := Config.leafMatches chain = true
    let digest := (sha512 chain).toNat
    let takes := q.length ≤ 4 * 65536
    let Says := fun (c : Instr) (name : String) (fields : List Nat) => ∃ t, Gives c s t ∧ t.doe.ready = true ∧
      t.doe.spdm = some (name, fields) ∧ t.pcie = (raiseVector s 3).pcie ∧ t.mem = s.mem
    firmwareRuns s = true →
    (s.doe.error = false → ¬takes → Gives (.getCapabilities q) s { s with doe := { s.doe with error := true } }) ∧
    Gives .doeAbort s { s with doe := { s.doe with ready := false, error := false, response := [], spdm := none } } ∧
    (s.doe.error = false →
      Gives .doeUnsupportedProtocol s { s with doe := { s.doe with error := true } } ∧
      (∃ t, Gives (.discovery 0) s t ∧ t.doe.ready = true ∧ t.doe.response = [0x01, 0x00, 0x00, 0x01] ∧ t.pcie = (raiseVector s 3).pcie) ∧
      (∃ t, Gives (.discovery 1) s t ∧ t.doe.response = [0x01, 0x00, 0x01, 0x00])) ∧
    (s.doe.error = false → takes →
      Says (.getVersion q) "VERSION" [0x12] ∧
      (∃ t, Gives (.getVersion q) s t ∧ t.doe.transcript = q ++ [0x12]) ∧
      Says (.getCapabilities q) "CAPABILITIES" [0x16] ∧
      (∃ t, Gives (.getCapabilities q) s t ∧ t.doe.transcript = s.doe.transcript ++ q ++ [0x16, 0, 0, 0]) ∧
      Says (.negotiateAlgorithms q) "ALGORITHMS" [0x60, 0x04, 0x08] ∧
      (served → Says (.getDigests q) "DIGESTS" [1, digest] ∧ Says (.challenge q 0) "CHALLENGE_AUTH" [0]) ∧
      (¬served → Says (.getDigests q) "DIGESTS" [0] ∧ Says (.challenge q 0) "ERROR" [1] ∧ Says (.getCertificate q 0 offset len) "ERROR" [1]) ∧
      (slot ≠ 0 → Says (.challenge q slot) "ERROR" [1] ∧ Says (.getCertificate q slot offset len) "ERROR" [1]) ∧
      (served → offset < chain.length → Says (.getCertificate q 0 offset len) "CERTIFICATE"
        [0, min len (chain.length - offset), chain.length - offset - min len (chain.length - offset)] ∧
        ∃ t, Gives (.getCertificate q 0 offset len) s t ∧ t.doe.response = (chain.drop offset).take len) ∧
      (1 ≤ index → index ≤ 5 → Says (.getMeasurements q index false) "MEASUREMENTS" [index] ∧
        Says (.getMeasurements q index true) "MEASUREMENTS" [index]) ∧
      (6 ≤ index → index < 16 → Says (.getMeasurements q index false) "ERROR" [1]) ∧
      (16 ≤ index → index < 80 → (s.ctxAt (index - 16)).state = 0 → Says (.getMeasurements q index false) "ERROR" [1]) ∧
      Says (.unsupportedRequest q) "ERROR" [7])

/-- 15_trust R440, R450, R451, R455: the sideband's reads, its unknown commands, what the recovery hold refuses, and the MCTP control
messages. The width of a reading and the MCTP fields are the model's (log 54). -/
def Obligations.SidebandResponses : Prop :=
  ∀ (s : State) (cmd eid : Byte) (index : BitVec 32),
    let address : BitVec 7 := 0x4C + s.trust.smbAddr.setWidth 7
    let heard := ∀ b, s.trust.smbus = some b → b.address = address ∧ b.pecOk = true
    let vendor := ∀ b, s.trust.smbus = some b → b.vendor = 0x1F5C
    let Answered := fun (code : Code) (body : List Byte) =>
      { s.trust with sideband := some (code, body), reply := some (address, 0x7E, 0x1F5C) }
    let Controls := fun (c : Instr) (x : Trust) (body : List Byte) =>
      Gives c s { s with trust := { x with mctp := body, reply := some (address, 0x00, 0) } }
    let Says := fun (c : Instr) (code : Code) (body : List Byte) => Gives c s { s with trust := Answered code body }
    let Refuses := fun c : Instr => ∃ t, Gives c s t ∧ t.trust = Answered 0x5008 [] ∧ Logs s t 0x5008 0 0
    let x := s.power
    let status : List Nat :=
      [2 ^ 29 * x.state.toNat + (if x.busy ∨ x.hotReset then 2 ^ 28 else 0) + (if x.sEmerg then 2 ^ 27 else 0) +
          (if x.tEmerg then 2 ^ 26 else 0) + 2 ^ 24 * x.phase.toNat + x.code.toNat,
       (if x.tripped then 2 ^ 31 else 0) + 2 ^ 16 * x.hotDie.toNat + x.maxTemp.toNat,
       256 * x.dip.toNat + x.warn.toNat,
       rstCause s, bootStat s]
    (¬heard → Gives .getEndpointId s s ∧ Gives (.setEndpointId eid) s s ∧ Gives .getMctpVersionSupport s s ∧ Gives .getMessageTypeSupport s s) ∧
    (¬(heard ∧ vendor) → Gives .getStatus s s ∧ Gives .getIdentity s s ∧ Gives (.readLog index) s s ∧ Gives .readSensors s s ∧
      Gives (.otherCommandByte cmd) s s ∧ Gives .hotReset s s ∧ Gives .resume s s ∧ Gives (.setPower eid) s s) ∧
    (heard → vendor → Says .getStatus 0 (status.flatMap (natLe 4)) ∧
    Says .getIdentity 0 (identityRecords s ++ natLe 8 (ownDigest s).toNat) ∧
    (∀ r, s.logHead ≤ index.toNat + s.log.length → s.log[index.toNat + s.log.length - s.logHead]? = some r → s.log.length ≤ s.logHead →
      Says (.readLog index) 0 (recordBytes index.toNat r)) ∧
    (s.trust.stage ≠ 4 →
      Says .readSensors 0 ((x.temps.flatMap fun t => natLe 1 (min 255 t)) ++ (List.range 6).flatMap fun n => natLe 2 (tabGet 0 x.railMv n)) ∧
      ∃ t, Gives (.otherCommandByte cmd) s t ∧ t.trust = Answered 0x5FFF [] ∧ Logs s t 0x5FFF 0 0) ∧
    (s.trust.stage = 4 → Refuses .readSensors ∧ Refuses .hotReset ∧ Refuses .resume ∧ Refuses (.setPower eid) ∧ Refuses (.otherCommandByte cmd))) ∧
    (heard → (eid ≠ 0 → eid ≠ 255 → Controls (.setEndpointId eid) { s.trust with eid } [0, 0, eid, 0]) ∧
      (eid = 0 ∨ eid = 255 → Controls (.setEndpointId eid) s.trust [2]) ∧
      Controls .getEndpointId s.trust [0, s.trust.eid, 0, 0] ∧
      Controls .getMessageTypeSupport s.trust [0, 2, 0x00, 0x7E] ∧
      ∃ version : Word64, Gives .getMctpVersionSupport s
        { s with free := s.free + 1, trust := { s.trust with mctp := [0, 1] ++ natLe 4 version.toNat, reply := some (address, 0x00, 0) } })

/-! ### Scheduler and supervisor -/

namespace Sys2Proof.Claims

/-- The next slot of an enabled supervisor queue, from the count last served up to TAIL, spells this command (12_partitions R372, R387), and
its completion record can be written. -/
def SlotServed (s : State) (slot : SupSlot) (op : Nat) : Prop :=
  let q := s.queueAt slot.queue.val
  let a := slot.compl.toNat % 2 ^ 48
  firmwareRuns s = true ∧ q.state = 1 ∧ q.served ≠ q.tail ∧ (∀ u, s.trust.update = some u → u.2.queue ≠ slot.queue) ∧
    (∃ r, firmwareRead s (q.ring.toNat + 64 * (q.served.toNat % 2 ^ q.log2n)) 64 = some r ∧ field r 0 1 = op ∧ field r 4 4 = slot.arg0.toNat ∧
      field r 8 8 = slot.arg1.toNat ∧ field r 0x10 8 = slot.arg2.toNat ∧ field r 0x18 8 = slot.arg3.toNat ∧ field r 0x20 8 = slot.compl.toNat) ∧
    rangeFault s none a 2 true = none ∧ rangeFault s none (a + 8) 8 true = none ∧ Unimpeded s none a 2 ∧ Unimpeded s none (a + 8) 8 ∧
    Memory.wf s.mem = true

/-- The supervisor slot has completed with this STATUS: its record says so, the next slot of its queue is to be served, and bytes of memory
outside the record and the queue table are as before. -/
def Completes (s t : State) (slot : SupSlot) (code : Code) : Prop :=
  let a := slot.compl.toNat % 2 ^ 48
  (∀ i, i < 2 → cellGet t.mem (a + i) = code.extractLsb' (8 * i) 8) ∧
    (∀ i, i < 8 → cellGet t.mem (a + 8 + i) = s.time.extractLsb' (8 * i) 8) ∧
    (∀ b, b < a ∨ a + 16 ≤ b → s.queueTable = 0 ∨ b < s.queueTable ∨ s.queueTable + 2 ^ 26 ≤ b → cellGet t.mem b = cellGet s.mem b) ∧
    (t.queueAt slot.queue.val).served = (s.queueAt slot.queue.val).served + 1

end Sys2Proof.Claims

/-- 12_partitions R366 to R371, R379, R382: binding takes the first READY context that may bind; a fresh context starts its stewards at
level S at the resume entry; a time slice or idleness with another context READY asks for a yield; the pause stops its commands, but
for a SEARCH, a SELECT_BALES, an APPEND_KV or a GAMBIT_COMMIT that has started (R380; 08_dragoman R239); after the save the context is unbound. -/
def Obligations.ContextScheduling : Prop :=
  ∀ (s : State) (c d : Fin 64),
    let x := s.ctxAt c.val
    let YieldAsked := fun t : State => (t.ctxAt c.val).state = 5 ∧
      ∀ e, e < 128 → (s.ecAt e).bound = some c → (t.stewardAt (2 * e)).tempoReq = true ∧ (t.stewardAt (2 * e + 1)).tempoReq = true
    let slice := 1000 * (if x.latencyCritical then (s.partAt x.part.toNat).sliceLc.toNat else (s.partAt x.part.toNat).sliceBe.toNat)
    let atIdle := fun y : Steward => y.run = .idle ∧ y.pl = 1
    coreClocks s = true →
    (canBind s c = true → (∀ b, b ≠ c → canBind s b = true → readyBefore s c b = true) → ∃ t, Gives (.contextBind c) s t ∧
      (t.ctxAt c.val).state = 3 ∧ t.mem = s.mem ∧ ∀ e ∈ x.footprint, (t.ecAt e.val).bound = some c ∧ (t.ecAt e.val).reserved = none ∧
        ∀ i, i = 2 * e.val ∨ i = 2 * e.val + 1 → (t.stewardAt i).part = x.part ∧ (t.stewardAt i).bound = true ∧
          (t.stewardAt i).ctx.toNat = c.val) ∧
    (x.state = 3 → s.power.noBinding = false → ∀ u, restoreContext s c = .ok u →
      Gives (.contextRestore c) s (u.setCtx c.val { u.ctxAt c.val with state := 4, runSince := s.time })) ∧
    (x.state = 3 → x.savePages = 0 → s.power.noBinding = false → ∃ t, Gives (.contextRestore c) s t ∧
      t = { s with contexts := t.contexts, stewards := t.stewards } ∧ t.ctxAt c.val = { x with state := 4, runSince := s.time } ∧
      ∀ e ∈ x.footprint, ∀ i, i = 2 * e.val ∨ i = 2 * e.val + 1 →
        let y := t.stewardAt i
        y.run = .running ∧ y.pl = 1 ∧ y.pc.toNat = x.resumeHi.toNat * 2 ^ 32 + x.resumeLo.toNat * 4 ∧ y.reg 1 = 0) ∧
    (x.state = 4 → s.ring.task ≠ some c → slice ≠ 0 → x.runSince.toNat + slice ≤ s.time.toNat → (s.ctxAt d.val).state = 2 →
      overlaps s c d = true → ((s.ctxAt d.val).latencyCritical = true ∨ x.latencyCritical = false) →
      ∃ t, Gives (.sliceExpiry c) s t ∧ YieldAsked t) ∧
    (x.state = 4 → s.ring.task ≠ some c → (s.ctxAt d.val).state = 2 → overlaps s c d = true →
      (∀ e, e < 128 → (s.ecAt e).bound = some c → atIdle (s.stewardAt (2 * e)) ∧ atIdle (s.stewardAt (2 * e + 1)) ∧
        (tabGet {} (s.ecAt e).tasks 0).active = false ∧ (tabGet {} (s.ecAt e).tasks 1).active = false) →
      ∃ t, Gives (.idleYieldRequest c) s t ∧ YieldAsked t) ∧
    (x.state = 5 → x.paused = false → allYielded s c = true → ∃ t, Gives (.yieldPause c) s t ∧
      t.ctxAt c.val = { x with paused := true } ∧ (∀ b, b ≠ c.val → t.ctxAt b = s.ctxAt b) ∧ t.mem = s.mem ∧
      ∀ p, p < 4 → macrosOf t p = (macrosOf s p).map fun r =>
        if r.ctx = some c ∧ runsOn r = false then { r with paused := true } else r) ∧
    (x.state = 5 → x.paused = true → allYielded s c = true → (∀ p, p < 4 → ∀ r ∈ macrosOf s p, r.ctx = some c → commandSettled s r = true) →
      ∀ u, saveContext s c = .ok u → ∃ t, Gives (.contextSave c) s t ∧ ((t.ctxAt c.val).state = 1 ∨ (t.ctxAt c.val).state = 2) ∧
        t.mem = u.mem ∧ (∀ p, p < 4 → ∀ r ∈ macrosOf t p, r.ctx ≠ some c) ∧
        ∀ e, e < 128 → (s.ecAt e).bound = some c → (t.ecAt e).bound = none ∧
          ∀ i, i = 2 * e ∨ i = 2 * e + 1 → (t.stewardAt i).run = .halted ∧ (t.stewardAt i).bound = false)

/-- 12_partitions R363, R364, R368, R372, R384, R385, R387; 13_host R402; 15_trust R452, R454; 05_macro R156: a supervisor command waits for its slot; what each
does where its requirement holds, and that it completes with `0x200E`, which is logged, and changes no unit where it does not. -/
def Obligations.SupervisorCommands : Prop :=
  ∀ (s : State) (slot : SupSlot) (image : Image),
    let n := slot.arg0.toNat
    let v := slot.arg0
    let c := n % 64
    let a := slot.arg1.toNat % 2 ^ 48
    let x := s.ctxAt c
    let own := slot.queue.val
    let record := fun size : Nat => firmwareRead s a size
    let Others := fun (t : State) (m : Nat) => ∀ i, i ≠ m → i ≠ own → t.queueAt i = s.queueAt i
    let Table := fun (t : State) (off : Nat) (bs : List Byte) =>
      let o := s.queueTable + 64 * n + off
      let w := slot.compl.toNat % 2 ^ 48
      s.queueTable ≠ 0 → rangeFault s none o bs.length true = none → Unimpeded s none o bs.length → o + bs.length ≤ w ∨ w + 16 ≤ o →
        ∀ i (h : i < bs.length), cellGet t.mem (o + i) = bs[i]
    let Refuses := fun i : Instr => ∃ u t, Gives i s t ∧ OnlyLookups s u ∧
      t = { u with mem := t.mem, bad := t.bad, pcie := t.pcie, posted := t.posted, queues := t.queues } ∧ Completes s t slot 0x200E ∧
      (∀ i, t.queueAt i = if i = own then { s.queueAt i with served := (s.queueAt i).served + 1 } else s.queueAt i) ∧
      ∃ r ∈ t.log, r.code = 0x200E
    ((s.queueAt own).state ≠ 1 ∨ (s.queueAt own).served = (s.queueAt own).tail →
      ∀ i ∈ [Instr.partSet slot, .partClear slot, .ctxCreate slot, .ctxLoad slot image, .ctxDestroy slot, .ctxReset slot, .queueSet slot,
        .queueStop slot, .fwUpdate slot, .fuseCommit slot true], Gives i s s) ∧
    (SlotServed s slot 0x01 → ∀ r, n < 8 → (s.partAt n).active = false → partContexts s n = [] → record 128 = some r → activationOk s n (partOfRecord r) = true →
      ∃ t, Gives (.partSet slot) s t ∧ t.partAt n = { partOfRecord r with active := true } ∧ (∀ q, q ≠ n → t.partAt q = s.partAt q) ∧
        ∀ d, d < 4 → wayMask t d n = BitVec.ofNat 16 (field r (0x40 + 2 * d) 2) ∧
          tabGet 0 (t.dieAt d).drgLimits n = BitVec.ofNat 12 (field r (0x48 + 2 * d) 2)) ∧
    (SlotServed s slot 0x01 → 8 ≤ n ∨ (s.partAt n).active = true ∨ partContexts s n ≠ [] → Refuses (.partSet slot)) ∧
    (SlotServed s slot 0x02 → n < 8 → partContexts s n = [] → ∃ t, Gives (.partClear slot) s t ∧ t.partAt n = { s.partAt n with active := false } ∧
      (∀ q, q ≠ n → t.partAt q = s.partAt q) ∧ ∀ d, d < 4 → wayMask t d n = 0) ∧
    (SlotServed s slot 0x02 → 8 ≤ n → Refuses (.partClear slot)) ∧
    (SlotServed s slot 0x03 → let p := v.extractLsb' 8 3
     (x.state = 0 → (s.partAt p.toNat).active = true → ∃ t, Gives (.ctxCreate slot) s t ∧ Completes s t slot 0 ∧
        (let y := t.ctxAt c
         y.state = 1 ∧ y.latencyCritical = v.getLsbD 16 ∧ y.part = p ∧ y.submit = 0 ∧ y.done = 0 ∧ y.preempt = 0 ∧ y.torn = 0 ∧ y.overrun = 0 ∧
           y.fault = 0) ∧ ∀ b, b ≠ c → t.ctxAt b = s.ctxAt b) ∧
     (x.state ≠ 0 ∨ (s.partAt p.toNat).active = false → Refuses (.ctxCreate slot))) ∧
    (SlotServed s slot 0x04 → n < 64 → x.state = 1 → loadFailures s x.part.toNat image (slot.arg2.toNat % 2 ^ 48) slot.arg3.toNat = [] →
      ∃ t, Gives (.ctxLoad slot image) s t ∧ Completes s t slot 0 ∧ (t.ctxAt c).footprint = image.footprint ∧ (t.ctxAt c).tempo = tempoOf image ∧
        (t.ctxAt c).imageDigest = some (sha512 image.bytes) ∧ (t.ctxAt c).state = 1) ∧
    (SlotServed s slot 0x04 → n < 64 → x.state ≠ 1 → Refuses (.ctxLoad slot image)) ∧
    (SlotServed s slot 0x05 → n < 64 → x.state = 1 ∨ x.state = 6 → ∃ t, Gives (.ctxDestroy slot) s t ∧ Completes s t slot 0 ∧
      t.ctxAt c = { x with state := 0, imageDigest := none } ∧
      ∀ q, 16 ≤ q → (t.queueAt q).state = if (s.queueAt q).ctx.toNat = c then 0 else (s.queueAt q).state) ∧
    (SlotServed s slot 0x05 → n < 64 → x.state = 0 → Refuses (.ctxDestroy slot)) ∧
    (SlotServed s slot 0x06 → n < 64 → x.state = 6 → ∃ t, Gives (.ctxReset slot) s t ∧ Completes s t slot 0 ∧ t.ctxAt c = { x with state := 1, fault := 0, faultTime := 0 } ∧
      ∀ q, (t.queueAt q).state = if (s.queueAt q).torn = true ∧ (s.queueAt q).ctx.toNat = c then 1 else (s.queueAt q).state) ∧
    (SlotServed s slot 0x06 → n < 64 → x.state ≠ 6 → Refuses (.ctxReset slot)) ∧
    (SlotServed s slot 0x07 → ∀ r, 16 ≤ n → n < 2 ^ 20 → (s.queueAt n).state ≠ 1 → record 64 = some r →
      let q := queueOfRecord r
      (s.ctxAt q.ctx.toNat).state ≠ 0 → (∃ e ∈ (s.ctxAt q.ctx.toNat).footprint, e.val = q.sec.toNat) → q.log2n ≤ 16 → vectorOk s n q = true →
      ∃ t, Gives (.queueSet slot) s t ∧ Completes s t slot 0 ∧ t.queueAt n = q ∧ Others t n ∧ Table t 0 r) ∧
    (SlotServed s slot 0x07 → (s.queueAt n).state = 1 → Refuses (.queueSet slot)) ∧
    (SlotServed s slot 0x08 → (s.queueAt n).state = 1 → ∃ t, Gives (.queueStop slot) s t ∧ Completes s t slot 0 ∧
      t.queueAt n = { s.queueAt n with state := 2, served := (t.queueAt n).served } ∧ Others t n ∧ Table t 0x21 [2]) ∧
    (SlotServed s slot 0x08 → (s.queueAt n).state ≠ 1 → Refuses (.queueStop slot)) ∧
    (SlotServed s slot 0x09 → ∀ img, s.power.phase = 2 → s.trust.updating = false → imagePlaceOk s a n = true → record n = some img → 4096 ≤ n →
      imgLen img + 4096 = n → imageCode s img = 0 →
      Gives (.fwUpdate slot) s { s with trust := { s.trust with updating := true, update := some (img, slot) } }) ∧
    (SlotServed s slot 0x09 → s.trust.updating = true ∨ s.power.phase ≠ 2 → Refuses (.fwUpdate slot)) ∧
    (SlotServed s slot 0x0A → s.trust.source = false → s.trust.updating = false →
      (n = 0 → ∃ t, Gives (.fuseCommit slot true) s t ∧ Completes s t slot 0 ∧
        t.trust = { s.trust with svnMin := BitVec.ofNat 7 (max s.trust.svnMin.toNat (imgSvn s.trust.sram)) }) ∧
      (1 ≤ n → n ≤ 4 → n - 1 ≠ imgKey s.trust.sram → s.trust.revoked ||| BitVec.ofNat 4 (2 ^ (n - 1)) ≠ 15 →
        ∃ t, Gives (.fuseCommit slot true) s t ∧ Completes s t slot 0 ∧
          t.trust = { s.trust with revoked := s.trust.revoked ||| BitVec.ofNat 4 (2 ^ (n - 1)) }) ∧
      (n = 0 → imgSvn s.trust.sram ≤ 64 → ∃ t, Gives (.fuseCommit slot false) s t ∧ Completes s t slot 0x500B ∧ s.trust.svnMin.toNat ≤ t.trust.svnMin.toNat ∧
        t.trust.svnMin.toNat ≤ max s.trust.svnMin.toNat (imgSvn s.trust.sram))) ∧
    (SlotServed s slot 0x0A → s.trust.source = true ∨ 4 < n → Refuses (.fuseCommit slot true))

/-! ### Memory -/

/-- 02_package R38, R42 to R44, R49 to R51: a hit and a miss of a die cache, the maintenance of the tiers, the drain of a window under HOLD
and a way mask that removes ways. Device memory never loses a byte by them. -/
def Obligations.CachesAndMaintenance : Prop :=
  ∀ (s : State) (k : CacheAccess) (channel : Fin 384) (arisen : Nat) (lpd : Bool) (w : Fin 32) (die : Fin 4) (p : Fin 8),
    let line := k.addr / 128
    let base := line * 128
    let x := s.window lpd w.val
    let trained := (if channel.val < 256 then s.power.hbmTrained else s.power.lpdTrained) = true ∧ s.power.selfRefresh = false
    let scrubbed := s.scrub % 0x300000000 * 64
    (coreClocks s = true → windowAt k.addr ≠ none → windowHeld s k.addr = true → k.task = none → Gives (.cacheAccess k) s s) ∧
    (coreClocks s = true → accessCode s (k.partition.map Fin.val) k.addr = 0 → k.arisenLow = 0 → k.arisenHigh = 0 →
      (∀ o bs, k.write = some (o, bs) → o + bs.length ≤ 128) → windowHeld s k.addr = false → ∀ d, homeDie s base = some d →
      (∀ l, cacheFind s d (k.partition.map Fin.val) line = some l → ∃ t, Gives (.cacheAccess k) s t ∧
        tabGet 0 (t.dieAt d).cacheCounters 0 = tabGet 0 (s.dieAt d).cacheCounters 0 + 1 ∧ t.bad = s.bad ∧ t.log = s.log ∧
        tabGet { way := 0, dirty := false, used := 0 } (t.dieAt d).cache line =
          { l with dirty := l.dirty || k.write.isSome, used := (s.dieAt d).cacheClock + 1 } ∧
        t.mem = match k.write with | none => s.mem | some (o, bs) => cellsWrite s.mem (base + o) bs) ∧
      (cacheFind s d (k.partition.map Fin.val) line = none → k.write = none → tabGet 0 s.bad (2 * line) = 0 → tabGet 0 s.bad (2 * line + 1) = 0 →
        ∃ t, Gives (.cacheAccess k) s t ∧ t.mem = s.mem ∧ t.log = s.log ∧
          tabGet 0 (t.dieAt d).cacheCounters 1 = tabGet 0 (s.dieAt d).cacheCounters 1 + 1 ∧
          ∀ q : Fin 8, k.partition = some q → waysOf s d q.val ≠ 0 → ∃ l, (line, l) ∈ (t.dieAt d).cache ∧ l.dirty = false ∧
            (waysOf s d q.val).getLsbD l.way = true)) ∧
    (trained → Gives (.refresh channel) s { s with refreshes := s.refreshes + 1 } ∧ Gives (.timingTracking channel) s s) ∧
    (s.power.hbmTrained = true → s.power.selfRefresh = false → arisen = 0 →
      (tabGet 0 s.bad (scrubbed / 64) = 0 → Gives (.patrolScrub arisen) s { s with scrub := (s.scrub + 1) % 0x300000000 }) ∧
      (2 ≤ tabGet 0 s.bad (scrubbed / 64) → tabGet 0 s.bad (scrubbed / 64) ≤ 3 → ∃ t, Gives (.patrolScrub arisen) s t ∧ t.mem = s.mem ∧
        t.bad = s.bad ∧ t.scrub = (s.scrub + 1) % 0x300000000 ∧ t.logHead = s.logHead + 1 ∧ ∃ r, t.log.getLast? = some r ∧ r.code = 0x4007)) ∧
    (coreClocks s = true → windowOutstanding s lpd w.val = true → Gives (.windowDrainComplete lpd w) s s) ∧
    (coreClocks s = true → x.hold = true → x.drained = false → windowOutstanding s lpd w.val = false → Memory.wf s.mem = true →
      ∃ t, Gives (.windowDrainComplete lpd w) s t ∧
      t.window lpd w.val = { x with drained := true } ∧ Memory.wf t.mem = true ∧
      ∀ d, d < 4 → ∀ l ∈ (t.dieAt d).cache, windowAt (l.1 * 128) ≠ some (lpd, w.val)) ∧
    (coreClocks s = true → ∀ e, (s.dieAt die.val).wayPending.find? (fun y => y.1 == p.val) = some e → ∃ t, Gives (.wayMaskApply die p) s t ∧
      wayMask t die.val p.val = e.2 ∧ t.mem = s.mem ∧ (∀ y ∈ (t.dieAt die.val).wayPending, y.1 ≠ p.val) ∧
      (∀ l ∈ (t.dieAt die.val).cache, ((waysOf s die.val p.val) &&& ~~~e.2).getLsbD l.2.way = false) ∧
      ((s.dieAt die.val).cache.Pairwise (fun a b => a.1 < b.1) → ∀ l ∈ (t.dieAt die.val).cache,
        ((wayMask s die.val p.val) &&& ~~~e.2).getLsbD l.2.way = true → l.2.dirty = false))

/-! ### Macro-instructions -/

namespace Sys2Proof.Claims

/-- The record of a command, if it still stands, has ended, and no engine and no row unit of its crew is held for it. -/
def Ended (t : State) (d acc : Nat) : Prop :=
  ∀ z, macroAt t d acc = some z → z.finished = true ∧
    ∀ e ∈ crewUnits d z.word, (∀ g, g < 2 → (t.engineAt e g).holds ≠ some acc) ∧ (t.ecAt e).rowUnit.holds ≠ some acc

/-- The work of one tile, as a command's kind does it: what it looks up first, and then its effect. -/
abbrev TileWork := State → MacroRec → Nat → State × Got (State × BitVec 16)

/-- A whole command of opcode `op`, which goes on in the state `s0`, ends its record; with one tile left, the tile's work stands in memory and
its flags in the record. Where an access of it meets a window under HOLD the whole command waits, and only its cycles are counted (02_package
R38). -/
def RunsFrom (s s0 : State) (die : Fin 4) (acc : Nat) (r : MacroRec) (i : Instr) (op : Nat) (f : TileWork) : Prop :=
  macroReady s die acc op = some r →
    (∀ z, allTiles s0 die r f = .error z → ∃ t, Gives i s t ∧ t.mem = s.mem ∧ macroAt t die.val acc = some r) ∧
    ((∀ z, allTiles s0 die r f ≠ .error z) → ∃ t, Gives i s t ∧ Ended t die.val acc ∧
      let r0 := { r with windows := [], next := r.total }
      ∀ n u fl y, leftTiles r = [n] → (f (grantAll s0 die.val r) r0 n).2 = .ok (u, fl) → macroAt u die.val acc = some y → recParts u y ≤ 1 →
        (∀ z, macroAt (tileDrained u die.val acc n fl) die.val acc = some z → recParts (tileDrained u die.val acc n fl) z ≤ 1) →
        t.mem = u.mem ∧ ∃ z, macroAt t die.val acc = some z ∧ z.aflags = y.aflags ||| fl ∧ z.tiles = y.tiles + 1)

/-- One that uses no score store goes on from the state that it finds. -/
def RunsToEnd (s : State) (die : Fin 4) (acc : Nat) (r : MacroRec) (i : Instr) (op : Nat) (f : TileWork) : Prop :=
  RunsFrom s s die acc r i op f

/-- The state in which unit `u` of EC `e` has asked for the score store. -/
def asked (s : State) (e : Nat) (u : Fin 3) : State := s.setEc e (scoreAsk (s.ecAt e) u).2

/-- One that uses the score store of its EC goes on once the store is its, and counts the cycle while it is not (06_attend R168); it leaves the
store free. -/
def RunsWithStore (s : State) (die : Fin 4) (acc : Nat) (r : MacroRec) (u : Fin 3) (i : Instr) (op : Nat) (f : TileWork) : Prop :=
  let e := leadEc die.val r
  let c := s.ecAt e
  let mine := c.scoreOwner = some u ∨ (c.scoreOwner = none ∧ c.scoreWaiters = [])
  (mine → RunsFrom s (asked s e u) die acc r i op f) ∧
    (macroReady s die acc op = some r → ¬mine → ∃ t, Gives i s t ∧ OnlyEc s t e ∧ u ∈ (t.ecAt e).scoreWaiters ∧
      (t.ecAt e).counters = bumpBy c.counters cntStallScore 1 ∧ (t.ecAt e).scoreOwner = c.scoreOwner)

end Sys2Proof.Claims

/-- 05_macro R122, R132 to R136, R152, R153; 06_attend R160, R180, R187, R189; 07_kv R216 to R218, R224, R225: a whole macro-instruction
does all its tiles, after which its record has ended and its units are free; what one tile leaves in memory and its flags stand. One that uses
the score store waits for it (R168). -/
def Obligations.MacroInstructionsRun : Prop :=
  ∀ (s : State) (die : Fin 4) (acc : Nat) (r : MacroRec), coreClocks s = true →
    let Runs := RunsToEnd s die acc r
    let d := die.val
    let attends := attendTile d (leadEc d r) (leadEngine r)
    let Scores := RunsWithStore s die acc r (leadUnit r)
    let c := s.ecAt (leadEc d r)
    Runs (.matmul die acc) 0x01 (plainTile (matmulTile d)) ∧ Scores (.chain die acc) 0x02 (plainTile (chainTile d)) ∧
    Runs (.combine die acc) 0x03 (plainTile combineMacroTile) ∧ Runs (.norm die acc) 0x04 (plainTile (rowMacroTile d)) ∧
    (field r.word 0x20 1 ≠ 0x10 → Runs (.rowfn die acc) 0x05 (plainTile (rowMacroTile d))) ∧
    (field r.word 0x20 1 = 0x10 → RunsWithStore s die acc r 2 (.rowfn die acc) 0x05 (plainTile (rowMacroTile d))) ∧ Runs (.expand die acc) 0x06 (expandTile d (leadEc d r)) ∧
    (recParts s r ≤ 1 → recHalf s r = 0 → Scores (.attend die acc) 0x08 attends) ∧
    (¬(recParts s r ≤ 1 ∧ recHalf s r = 0) → r.next = 0 → r.drained = [] → macroReady s die acc 0x08 = some r →
      c.scoreOwner = some (leadUnit r) ∨ (c.scoreOwner = none ∧ c.scoreWaiters = []) →
      (∀ z, eachTile d acc attends (grantAll (asked s (leadEc d r) (leadUnit r)) d r) (leftTiles r) ≠ .error z) →
      ∃ t, Gives (.attend die acc) s t ∧ Ended t d acc) ∧
    Scores (.attendBwd die acc) 0x09 attends ∧ Runs (.gambitCommit die acc) 0x0A (commitTile d) ∧
    (field r.word 0x1C 1 = 0 → Runs (.append die acc) 0x0B (appendTile d)) ∧
    (field r.word 0x1C 1 = 1 → Runs (.appendTentative die acc) 0x0B (appendTile d)) ∧
    (field r.word 0x1C 1 = 2 → Runs (.attachPrefix die acc) 0x0B (appendTile d)) ∧
    (field r.word 0x1C 1 = 3 → Runs (.publishPrefix die acc) 0x0B (appendTile d)) ∧
    (field r.word 0x1C 1 = 4 → Runs (.truncate die acc) 0x0B (appendTile d))

/-! ### Ledgers and tile sequencers -/

namespace Sys2Proof.Claims

/-- 05_macro R121, R157: a sequencer that starts a fresh command arms its counter with the number of its tiles, joins it and holds the
units that it uses; a command that its start checks refuse ends with their code and computes nothing. -/
def CommandStarts : Prop :=
  ∀ (s : State) (u : Fin 131) (p : Place) (r : MacroRec),
    let d := p.port.val
    let Started := fun (t : State) (z : MacroRec) => macroAt t d p.acc = some z ∧ t.mem = s.mem ∧
      { p with started := true } ∈ queueOf t u.val ∧ p ∉ queueOf t u.val
    coreClocks s = true → unitClocked s u.val = true → canStart s u.val = some (p, r) → r.armed = false → r.finished = false →
    (∀ c, startCode s (reqOf s r) d r = .ok c → c ≠ 0 → ∃ t, Gives (.commandStart u) s t ∧
      Logs s t c (if d < 4 then 2 else 0) (if d < 4 then d else 0) ∧
      Started t { macroFault s r c with armed := true, finished := true, total := 0, next := 0, joined := r.joined ++ [u.val] }) ∧
    (∀ v w, startCode s (reqOf s r) d r = .ok 0 → viewAtStart s (reqOf s r) r.word = .ok v →
      recWork s { reqOf s r with view := v } r.word = .ok w →
      let total := match r.only with | none => w.tiles.length | some l => rangeCount l
      ∃ t, Gives (.commandStart u) s t ∧ Started t { r with armed := true, view := v, total, joined := r.joined ++ [u.val] } ∧
        (u.val < 128 → r.next < total → (∀ g ∈ enginesOf r.word, (t.engineAt u.val g).holds = some p.acc ∧ (t.engineAt u.val g).region = 0) ∧
          (usesRowUnit r.word = true → (t.ecAt u.val).rowUnit.holds = some p.acc)))

/-- 05_macro R146 to R148: a take gives the tile at the head of the EC's window (in a pause the tail, where only a K range there must still be
taken, 12_partitions R380), a grant the tiles from NEXT on, a steal the tail half of the largest window, the lowest EC's among equals; each gives
one tile to the unit that asked, no tile is lost or given twice, and the ledger notes the partition that it served (12_partitions R365). With
nothing left to steal, or with NOSTEAL, the unit leaves. A request that another one comes before waits. -/
def TilesGoOutOnce : Prop :=
  ∀ (s : State) (ec : Fin 128) (eng : Fin 2) (acc : Nat) (r : MacroRec),
    let e := ec.val
    let g := eng.val
    let d := ecDie e
    let w := windowOf r e
    let n := grantSize s e r
    let free := r.paused = false ∧ (s.ecAt e).tempoHold = false
    let Goes := fun (t : State) (z : MacroRec) (tile : Nat) =>
      macroAt t d acc = some z ∧ t.mem = s.mem ∧ z.taken = r.taken ++ [tile] ∧ (leftTiles z).Perm (leftTiles r) ∧
      (t.dieAt d).lastPartition = (reqOf s r).partOr0 ∧
      if sequenceCommand r.word = true then t.ecs = s.ecs
      else if rowCommand r.word = true then ((t.ecAt e).rowUnit.current.map fun x => x.tile) = some tile
      else if (s.engineAt e g).current = none then ((t.engineAt e g).current.map fun x => x.tile) = some tile
      else ((t.engineAt e g).next.map fun x => x.tile) = some tile
    let Leaves := ∃ t, Gives (.tileSteal ec eng acc) s t ∧ macroAt t d acc = some r ∧
      if rowCommand r.word = true then (t.ecAt e).rowUnit.holds = none else (t.engineAt e g).holds = none
    coreClocks s = true → macroAt s d acc = some r → r.windows.Pairwise (fun a b => a.1 < b.1) →
    mayAsk s e g acc r (inLastPass s e g r) = true →
    (ledgerServes s d r 0 e g = false → Gives (.tileTake ec eng acc) s s) ∧ (ledgerServes s d r 1 e g = false → Gives (.tileGrant ec eng acc) s s) ∧
    (ledgerServes s d r 2 e g = false → Gives (.tileSteal ec eng acc) s s) ∧
    (ledgerServes s d r 0 e g = true → 0 < w.2 →
      (mayTake s e r (tileNumber r w.1) = true → ∃ t z, Gives (.tileTake ec eng acc) s t ∧ Goes t z (tileNumber r w.1) ∧
        z.next = r.next ∧ windowOf z e = (w.1 + 1, w.2 - 1)) ∧
      (mayTake s e r (tileNumber r w.1) = false → requiredTile s r (tileNumber r (w.1 + w.2 - 1)) = true →
        ∃ t z, Gives (.tileTake ec eng acc) s t ∧ Goes t z (tileNumber r (w.1 + w.2 - 1)) ∧ z.next = r.next ∧ windowOf z e = (w.1, w.2 - 1))) ∧
    (ledgerServes s d r 1 e g = true → w.2 = 0 → r.next < r.total → roundOpen s r = true → 0 < n → ∃ t z, Gives (.tileGrant ec eng acc) s t ∧ Goes t z (tileNumber r r.next) ∧
      z.next = r.next + n ∧ windowOf z e = (r.next + 1, n - 1)) ∧
    (free → recHalf s r = 0 → n = min (grantOf r.word) (r.total - r.next)) ∧
    (ledgerServes s d r 2 e g = true → w.2 = 0 → r.total ≤ r.next → free →
      (∀ v ∈ r.windows, 0 < v.2.2 → (∀ x ∈ r.windows, x.2.2 < v.2.2 ∨ (x.2.2 = v.2.2 ∧ v.1 ≤ x.1)) → wNoSteal r.word = false →
        let m := max 1 (v.2.2 / 2)
        let first := v.2.1 + (v.2.2 - m)
        ∃ t z, Gives (.tileSteal ec eng acc) s t ∧ Goes t z (tileNumber r first) ∧ z.next = r.next ∧
          windowOf z v.1 = (v.2.1, v.2.2 - m) ∧ windowOf z e = (first + 1, m - 1)) ∧
      (sequenceCommand r.word = false → (∀ x ∈ r.windows, x.2.2 = 0) ∨ wNoSteal r.word = true → Leaves))

end Sys2Proof.Claims

/-- 05_macro R121, R146 to R148, R157: how a command starts on a unit and how its tiles go out (COMMAND_START, TILE_TAKE, TILE_GRANT,
TILE_STEAL). -/
def Obligations.CommandsStartAndTilesGoOut : Prop := CommandStarts ∧ TilesGoOutOnce

/-- 05_macro R122, R125: a command that has ended writes its 16-byte record, leaves its ledger and every queue, and counts in RETIRED of
its issuer; with SIGNAL it then increases FILL of pair SEM of the issuer's EC, and an overflow is the fault `0x4009`. -/
def Obligations.MacroCompletes : Prop :=
  ∀ (s : State) (port : Fin 5) (acc : Nat) (r : MacroRec),
    let a := wCompl r.word % 2 ^ 48
    let fl := r.aflags ||| (if 1 < r.epochs.dedup.length then flagEpoch else 0)
    let e := r.issuer.val / 2
    let pair := pairAt s e (wSem r.word)
    let signals := wSignal r.word = true ∧ r.issuer.val < 256
    coreClocks s = true → macroAt s port.val acc = some r → recFinished s r = true → wOpcode r.word < 0x20 →
    rangeFault s (reqOf s r).part a 16 true = none → Unimpeded s r.ctx a 16 → Memory.wf s.mem = true →
    ((signals → pair.1.toNat < 65535) → ∃ t, Gives (.macroComplete port acc) s t ∧
      Stores s t a (natLe 2 (macroStatus r).toNat ++ natLe 2 fl.toNat ++ natLe 4 (tilesWritten r) ++ natLe 8 s.time.toNat) ∧
      macroAt t port.val acc = none ∧ (∀ b, b ≠ acc → macroAt t port.val b = macroAt s port.val b) ∧
      (∀ u ∈ crewUnits port.val r.word, ∀ p ∈ queueOf t u, ¬(p.port = port ∧ p.acc = acc)) ∧
      (t.stewardAt r.issuer.val).retired = (s.stewardAt r.issuer.val).retired + 1 ∧
      (signals → pairAt t e (wSem r.word) = (pair.1 + 1, pair.2)) ∧ (¬signals → pairAt t e (wSem r.word) = pair)) ∧
    (signals → pair.1.toNat = 65535 → (∀ h, a / 128 ≤ h / 2 → h / 2 ≤ (a + 15) / 128 → tabGet 0 s.bad h = 0) → ∃ t, Gives (.macroComplete port acc) s t ∧ LogsFirst s t 0x4009)

/-! ### Matrix engines -/

namespace Sys2Proof.Claims

/-- 04_matrix R102 to R104, R106: a fill adds the next chunk in program order to a queue of at most 8 entries, that of the current run while
it lacks one and then of the runs after it, elements beyond the matrix edge as nothing to read; in output-resident mode every lane that
shares the chunk takes it. What the chunk is read from is looked up in the caches. While phase 2 of a CHAIN goes on, the broadcast queue takes vectors of phase 3. A free resident buffer takes the head
of its lane's queue, if that is the chunk of the next pass marker. -/
def FillsAndBuffers : Prop :=
  ∀ (s : State) (ec : Fin 128) (eng : Fin 2) (lane : Fin 256) (run : TileRun) (r : MacroRec) (geo : Geo) (subs : Nat),
    let e := ec.val
    let g := eng.val
    let l := lane.val
    let x := s.engineAt e g
    let q := tabGet [] x.feeders l
    let key := bufferKey l (!x.buffer)
    let reads := fun (t : State) (spans : List (Nat × Nat)) => readsUse t (reqOf s r) spans
    coreClocks s = true →
    (engineRun s e g = some (run, r, .ok none) → run.phase = 2 → x.broadcast.length < 8 →
      let third := { run with phase := 3 }
      runGeo s (reqOf s r) e g r.word third = .ok (some (geo, subs)) →
      ∀ p c, seekPlace s e g r true (nextBroadcast x.broadcast) 9 0 (third, false) geo subs = .ok (some p) → p.column < p.geo.cols →
        p.geo.colChunk p.column p.pass = .ok c → Gives (.feederFill ec eng none) s
          (reads (s.setEngine e g { x with broadcast := x.broadcast ++ [{ c with pass := p.pass, column := p.column, run := p.run }] })
            (p.geo.colSpans p.column p.pass))) ∧
    (engineRun s e g = some (run, r, .ok (some (geo, subs))) →
    let seekLane := seekPlace s e g r false (if geo.outRes = true then nextPair q l else nextResident x l) 9 0 (run, false) geo subs
    (8 ≤ x.broadcast.length ∨ geo.outRes = true → Gives (.feederFill ec eng none) s s) ∧
    (8 ≤ q.length ∨ seekLane = .ok none → Gives (.feederFill ec eng (some lane)) s s) ∧
    (geo.active l = false → subs ≤ run.sub + 1 → x.next = none → Gives (.feederFill ec eng (some lane)) s s) ∧
    (geo.outRes = false → x.broadcast.length < 8 →
      ∀ p, seekPlace s e g r true (nextBroadcast x.broadcast) 9 0 (run, false) geo subs = .ok (some p) →
      let Fills := fun (c : Chunk) (l : List (Nat × Nat)) => Gives (.feederFill ec eng none) s
        (reads (s.setEngine e g { x with broadcast := x.broadcast ++ [{ c with pass := p.pass, column := p.column, run := p.run }] }) l)
      (∀ pass col, nextBroadcast x.broadcast 0 run geo = some (pass, col) → p = { run := 0, geo, pass, column := col }) ∧
      (p.geo.cols ≤ p.column → Fills { pass := 0, column := 0, elements := [], scales := [] } []) ∧
      (p.column < p.geo.cols → ∀ c, p.geo.colChunk p.column p.pass = .ok c → Fills c (p.geo.colSpans p.column p.pass))) ∧
    (geo.outRes = false → q.length < 8 → ∀ p, seekLane = .ok (some p) →
      (∀ pass col, nextResident x l 0 run geo = some (pass, col) → p = { run := 0, geo, pass, column := col }) ∧
      ∀ c, p.geo.laneChunk l p.pass = .ok c → Gives (.feederFill ec eng (some lane)) s
        (reads (s.setEngine e g { x with feeders := tabSet x.feeders l (q ++ [{ c with pass := p.pass, column := 0, run := p.run }]) })
          (p.geo.laneSpans l p.pass))) ∧
    (geo.outRes = true → geo.active l = true → q.length < 8 → ∀ step kind c, nextPair q l 0 run geo = some (step, kind) →
      (if kind = 0 then geo.laneChunk l step else geo.colChunk (l % 16) step) = .ok c →
      ∃ t, Gives (.feederFill ec eng (some lane)) s (reads t (if kind = 0 then geo.laneSpans l step else geo.colSpans (l % 16) step)) ∧
      OnlyEc s t e ∧ ∀ k, tabGet [] (t.engineAt e g).feeders k =
        let old := tabGet [] x.feeders k
        if k < 256 ∧ geo.active k = true ∧ sharesChunk kind l k = true ∧ old.length < 8 ∧ nextPair old k 0 run geo = some (step, kind)
        then old ++ [{ c with pass := step, column := kind, run := 0 }] else old) ∧
    (let due := if run.column = 0 then (0, run.pass) else if run.pass + 1 < geo.passes then (0, run.pass + 1) else (1, 0)
     geo.outRes = false → ∀ c rest, q = c :: rest →
      (tabFind x.resident key = none → (c.run, c.pass) = due → Gives (.residentBufferLoad ec eng lane) s
        (s.setEngine e g { x with resident := tabSet x.resident key c, residentBad := tabErase x.residentBad key,
                                  feeders := tabSet x.feeders l rest })) ∧
      (tabFind x.resident key ≠ none ∨ (c.run, c.pass) ≠ due → Gives (.residentBufferLoad ec eng lane) s s)))

/-- The value fits the accumulator word that holds it (03_arithmetic R62). -/
def Fits : Accum → Prop
  | .win v => -(2 ^ 127) ≤ v.w ∧ v.w < 2 ^ 127
  | .f32 _ => True

/-- 04_matrix R95, R99, R100, R104, R105, R107, R113, R116: a held entry is a bubble under its cause, or under an earlier one for which a
steward of the EC waits (10_streams R331); otherwise every active lane adds its
dot product to its accumulator word, the first pass writing it, and no other byte of memory changes; a pass marker switches the resident
buffers; entry goes on to the next column, the next pass, or the drain of the region. -/
def VectorsEnter : Prop :=
  ∀ (s : State) (ec : Fin 128) (eng : Fin 2) (run : TileRun) (r : MacroRec) (geo : Geo) (subs : Nat),
    let e := ec.val
    let g := eng.val
    let i := Instr.vectorEntry ec eng
    let c := s.ecAt e
    let x := s.engineAt e g
    let hold := supplyHold s (ecDie e) = true
    let loaded := ∀ l ∈ geo.lanes, ∃ k, tabFind x.resident (bufferKey l (!x.buffer)) = some k ∧ k.run = 0 ∧ k.pass = run.pass
    let draining := run.pass = 0 ∧ run.column = 0 ∧ ∃ q ∈ x.drains, regionsMeet q.1.region run.region = true
    let store := run.phase ≠ 1 ∨ c.scoreOwner = some (engineUnit eng) ∨ (c.scoreOwner = none ∧ c.scoreWaiters = [])
    let Bubble := fun k : Nat => ∃ t, Gives i s t ∧ OnlyEc s t e ∧ (t.ecAt e).engines = c.engines ∧
      (t.ecAt e).counters = bumpBy c.counters (match stewardsWait s e with | some n => min k n | none => k) 1
    let col := regionBase geo.anchored run.region + run.column
    let size := if geo.anchored = true then 16 else 4
    let Adds := fun (t : State) (l w : Nat) (old : Accum) (d : Accum) =>
      let v := accumAdd (if run.pass = 0 then none else some old) d
      Fits v → readAccum t e g l w geo.anchored = v
    coreClocks s = true → c.dbg.halting = false → c.dbg.halted = false → engineRun s e g = some (run, r, .ok (some (geo, subs))) →
    (hold → Bubble cntStallSupply) ∧
    (¬hold → draining → Bubble cntStallAcc) ∧
    (¬hold → ¬draining → ¬store → Bubble cntStallScore) ∧
    (¬hold → ¬draining → store → geo.outRes = false →
      (x.broadcast = [] → ∃ t, Gives i s t ∧ OnlyEc s t e ∧ (t.ecAt e).engines = c.engines) ∧
      (x.broadcast = [] → run.phase ≠ 1 → (∀ k, lateCause s e r run = some k → Bubble k) ∧
        (lateCause s e r run = none → run.column = 0 → ¬loaded → Bubble (cntFeedStall + g))) ∧
      (x.broadcast ≠ [] → run.column = 0 → ¬loaded → Bubble (cntFeedStall + g)) ∧
      (∀ b rest, x.broadcast = b :: rest → (run.column = 0 → loaded) → x.accBad = [] → x.residentBad = [] → ∃ t, Gives i s t ∧
        (let y := t.engineAt e g
         let lanes := if run.column < geo.cols then geo.lanes else []
         let x' := if run.column = 0 then castle x else x
         (run.column + 1 < geo.width → y.current = some { run with column := run.column + 1 } ∧ y.broadcast = rest ∧ y.drains = x.drains ∧
           y.buffer = if run.column = 0 then !x.buffer else x.buffer) ∧
         (geo.width ≤ run.column + 1 → run.pass + 1 < geo.passes →
           y.current = some { run with pass := run.pass + 1, column := 0 } ∧ y.broadcast = rest ∧ y.drains = x.drains) ∧
         (geo.width ≤ run.column + 1 → geo.passes ≤ run.pass + 1 → y.drains = x.drains ++ [(run, 0)] ∧
           (subs ≤ run.sub + 1 → run.phase ≠ 1 → y.current = x.next ∧ y.next = none)) ∧
         (Memory.wf s.mem = true → (∀ q ∈ s.bad, q.2 < 4) → col < (if geo.anchored = true then 512 else 2048) →
           (∀ l ∈ lanes, Adds t l col (readAccum s e g l col geo.anchored) (dotOf geo.fl geo.fb geo.anchor (residentOf x' l) b)) ∧
           ∀ a, (∀ l ∈ lanes, a < accAddr e g l col geo.anchored ∨ accAddr e g l col geo.anchored + size ≤ a) →
             cellGet t.mem a = cellGet s.mem a)))) ∧
    (¬hold → ¬draining → store → geo.outRes = true →
      (¬(∀ l ∈ geo.lanes, 2 ≤ (tabGet [] x.feeders l).length) → Bubble (cntFeedStall + g)) ∧
      ((∀ l ∈ geo.lanes, 2 ≤ (tabGet [] x.feeders l).length) → ∃ t, Gives i s t ∧
        (run.pass + 1 < geo.passes → t.mem = s.mem ∧ (t.engineAt e g).current = some { run with pass := run.pass + 1, column := 0 }) ∧
        (geo.passes ≤ run.pass + 1 → (t.engineAt e g).drains = x.drains ++ [(run, 0)]) ∧
        ∀ l ∈ geo.lanes, ∀ a b rest, tabGet [] x.feeders l = a :: b :: rest →
          let d := dotOf geo.fl geo.fb geo.anchor a b
          let old := regAccum geo.anchored (tabGet (0, 0) x.registers l)
          tabGet (0, 0) (t.engineAt e g).registers l = accumReg (accumAdd (if run.pass = 0 then none else some old) d) ∧
          (run.pass + 1 < geo.passes → tabGet [] (t.engineAt e g).feeders l = rest) ∧
          (geo.passes ≤ run.pass + 1 → Memory.wf s.mem = true → (∀ q ∈ s.bad, q.2 < 4) → run.region < 2 →
            Adds t l (regionBase geo.anchored run.region) old d)))

end Sys2Proof.Claims

/-- 04_matrix R95 to R118: the queues, resident buffers and vectors of an engine (FEEDER_FILL, RESIDENT_BUFFER_LOAD, VECTOR_ENTRY). -/
def Obligations.EngineFillsAndVectors : Prop := FillsAndBuffers ∧ VectorsEnter

/-- 04_matrix R114; 05_macro R122, R150 to R152: a drain takes one column of the oldest region from every active lane, joins its flags and
ends its tile with the last column; a due combine step, behind the tile that its engine has taken, and a tile of COMBINE leave their sums in
memory and their flags in the record. -/
def Obligations.DrainsAndCombineSteps : Prop :=
  ∀ (s : State) (ec : Fin 128) (eng : Fin 2),
    let e := ec.val
    let g := eng.val
    let d := ecDie e
    let x := s.engineAt e g
    coreClocks s = true →
    (∀ run col rest r geo subs u fl y, x.drains = (run, col) :: rest → macroAt s d run.acc = some r →
      runGeo s (reqOf s r) e g r.word run = .ok (some (geo, subs)) → drainColumn s e g run col geo = .ok (u, fl) →
      macroAt u d run.acc = some y → ∃ t, Gives (.accumulatorDrain ec eng) s t ∧ t.mem = u.mem ∧
        (t.engineAt e g).drains = (if col + 1 < geo.cols then (run, col + 1) :: rest else rest) ∧
        ∃ z, macroAt t d run.acc = some z ∧ z.aflags = y.aflags ||| fl ∧
          (geo.cols ≤ col + 1 → drainEndsTile run subs = true → run.tile ∉ z.taken)) ∧
    (∀ run rest r u fl y, ecIssues s e = true → x.combines = run :: rest → macroAt s d run.acc = some r → x.current = none → x.next = none →
      (∀ q ∈ x.drains, regionsMeet q.1.region (takeRegion (tileWidth s r 0) x.region).1 = false) →
      combineStepOf s e g r run.tile = .ok (u, fl) → macroAt u d run.acc = some y → ∃ t, Gives (.combineStep ec eng) s t ∧ t.mem = u.mem ∧
        (t.engineAt e g).combines = rest ∧ ∃ z, macroAt t d run.acc = some z ∧ z.aflags = y.aflags ||| fl ∧ z.tiles = y.tiles + 1) ∧
    (ecIssues s e = true → x.combines ≠ [] → (∀ run ∈ x.combines, (macroAt s d run.acc).isSome = true) →
      x.current ≠ none ∨ x.next ≠ none → Gives (.combineStep ec eng) s s) ∧
    (∀ run r c w u fl y, ecIssues s e = true → x.combines = [] → x.current = some run → engineRec s e g = some r → wOpcode r.word = 3 →
      run.acc = r.acc → combineCmd s (reqOf s r) r.word = .ok c → recWork s (reqOf s r) r.word = .ok w →
      combineTile s (reqOf s r) c (w.tiles.getD run.tile { batch := 0, i := 0, j := 0, k := 0 }) = .ok (u, fl) →
      macroAt u d run.acc = some y → ∃ t, Gives (.combineStep ec eng) s t ∧ t.mem = u.mem ∧
        (t.engineAt e g).current = (u.engineAt e g).next ∧
        ∃ z, macroAt t d run.acc = some z ∧ z.aflags = y.aflags ||| fl ∧ run.tile ∉ z.taken)

/-- 03_arithmetic R87; 05_macro R153, R155; 06_attend R167 to R174, R180: a row tile, phase 2 of a CHAIN, the grant of the score store,
and the passes of a span of ATTEND, each with what it leaves in memory, in the span and in the units. -/
def Obligations.RowTilesAndSpans : Prop :=
  ∀ (s : State) (ec : Fin 128) (eng : Fin 2) (acc : Nat),
    let e := ec.val
    let g := eng.val
    let d := ecDie e
    let c := s.ecAt e
    let x := s.engineAt e g
    let one := Instr.spanPassOne ec eng
    let two := Instr.spanPassTwo ec eng
    let BlockEnds := fun (i : Instr) (u : State) => ∃ t, Gives i s t ∧ t.mem = u.mem ∧ (t.engineAt e g).span = none ∧
      (t.engineAt e g).current = (u.engineAt e g).next
    coreClocks s = true →
    (∀ u rest, c.scoreWaiters = u :: rest → c.scoreOwner = none →
      Gives (.scoreStoreGrant ec) s (s.setEc e { c with scoreOwner := some u, scoreWaiters := rest })) ∧
    (ecIssues s e = true →
      (∀ r run k u fl y, macroAt s d acc = some r → wOpcode r.word ≠ 2 → c.rowUnit.current = some run → run.acc = acc →
        rowCmd s (reqOf s r) r.word = .ok k → (k.norm = false → k.func = 0x10 → (scoreAsk c 2).1 = true) →
        rowTileRun s (reqOf s r) (runningBank c.rowUnit).1 e k ((rowTiles k).getD run.tile { batch := 0, i := 0, j := 0, k := 0 }) =
          .ok (u, fl) → macroAt u d acc = some y → ∃ t, Gives (.rowTile ec acc) s t ∧ t.mem = u.mem ∧
          (t.ecAt e).rowUnit.current = none ∧ (t.ecAt e).scoreOwner ≠ some 2 ∧ ∃ z, macroAt t d acc = some z ∧
            z.aflags = y.aflags ||| fl ∧ z.epochs = (if k.compat = true then y.epochs else y.epochs ++ [(runningBank c.rowUnit).2]) ∧ run.tile ∉ z.taken) ∧
      (∀ r k w run b u fl, macroAt s d acc = some r → wOpcode r.word = 2 → chainWaiting s e r.acc = some eng →
        chainCmd s (reqOf s r) r.word = .ok k → recWork s (reqOf s r) r.word = .ok w → x.current = some run →
        (let tile := w.tiles.getD run.tile { batch := 0, i := 0, j := 0, k := 0 }
         chainBatch s (reqOf s r) k tile.batch = .ok b → chainPhase2 s (reqOf s r) e g k tile b.1 = .ok (u, fl) →
         ∃ t, Gives (.rowTile ec acc) s t ∧ t.mem = u.mem ∧ (t.ecAt e).scoreOwner = none ∧
           let m := takeRegion (anchoredFormat k.xfmt, 64 * k.tileB) (u.engineAt e g).region
           (t.engineAt e g).current = some { run with phase := 3, region := m.1 } ∧ (t.engineAt e g).region = m.2 ∧
           ∀ y, macroAt u d r.acc = some y → ∃ z, macroAt t d r.acc = some z ∧ z.aflags = y.aflags ||| fl)) ∧
      (∀ run r k seqs tile wk w, attendRun s e g = some (run, r, .ok (k, seqs, tile, wk)) →
        blockWork s (reqOf s r) d k seqs tile = .ok w →
        let q := reqOf s r
        let sp := x.span.getD (startSpan k run w.rows.length)
        let split := k.place = 1
        let n := if k.place = 1 then tile.sub % max k.nsplit 1 else sp.span
        let ask := scoreAsk c (engineUnit eng)
        let looked := if x.span.isSome = true then s else labUseAll s q d k.t (attLookups s q k seqs tile)
        let s1 := looked.setEc e (scoreAsk (looked.ecAt e) (engineUnit eng)).2
        (¬split → w.spans = [] → Gives one s s) ∧
        (sp.stage = 1 → (split → w.spans.length ≤ k.nsplit) → (split ∨ w.spans ≠ []) →
          (ask.1 = false → ∃ t, Gives one s t ∧ OnlyEc s t e ∧ (t.ecAt e).engines = c.engines ∧
            (t.ecAt e).counters = bumpBy c.counters cntStallScore 1 ∧ engineUnit eng ∈ (t.ecAt e).scoreWaiters) ∧
          (ask.1 = true → ∀ v u sp', stageSpan s1 q e g k w tile.j n (k.place == 1 || sp.span == 0) = .ok v →
            passOne v q e g k w tile.j sp n = .ok (u, sp') →
            (¬(split ∧ run.tile < wk.half) → ∃ t, Gives one s t ∧ t.mem = u.mem ∧ (t.engineAt e g).span = some sp') ∧
            (split → run.tile < wk.half → ∀ v, foldGot (fun v (m : BitVec 32 × Nat) =>
                uWriteNat v q (splitMaxAddr k n (tile.j * k.q.rows + (w.rows.getD m.2 ⟨0, 0, 0, 0, 0⟩).row)) 4 m.1.toNat) u
                sp'.rowMax.zipIdx = .ok v → BlockEnds one v))) ∧
        (sp.stage = 3 → ¬split → w.spans ≠ [] →
          let p := passTwo s e g k w sp
          (sp.span + 1 < w.spans.length → Gives two s (p.1.setEngine e g { p.1.engineAt e g with span := some p.2 }) ∧
            p.2.span = sp.span + 1 ∧ p.2.stage = 1) ∧
          (w.spans.length ≤ sp.span + 1 → ∀ u fl, resolveBlock p.1 q e g k w tile.j p.2 = .ok (u, fl) → BlockEnds two u)) ∧
        (¬split → w.spans = [] → ∀ u fl,
          resolveBlock (noteUse s d r.acc k.compat c.rowUnit.epoch) q e g k w tile.j sp = .ok (u, fl) → BlockEnds two u) ∧
        (sp.stage = 3 → split → ∀ u fl, splitPassTwo s q e g k w tile.j (tile.sub % max k.nsplit 1) sp = .ok (u, fl) → BlockEnds two u)) ∧
      (∀ run r k seqs tile wk w sp v sp', c.scoreOwner = some (engineUnit eng) → attendRun s e g = some (run, r, .ok (k, seqs, tile, wk)) →
        x.span = some sp → sp.stage = 2 → blockWork s (reqOf s r) d k seqs tile = .ok w →
        rowUnitSpan s (reqOf s r) e g k w tile.j sp (if k.place = 1 then tile.sub % max k.nsplit 1 else sp.span) = .ok (v, sp') →
        ∃ t, Gives (.spanRowUnit ec) s t ∧ t.mem = v.mem ∧ (t.ecAt e).scoreOwner = none ∧ (t.engineAt e g).span = some sp'))

/-! ### Queued ordering commands -/

namespace Sys2Proof.Claims

/-- The command has left its port and the queues of its crew, and its issuer's RETIRED counts it; memory is as before. -/
def Leaves (s t : State) (port : Fin 5) (r : MacroRec) : Prop :=
  macroAt t port.val r.acc = none ∧ (∀ b, b ≠ r.acc → macroAt t port.val b = macroAt s port.val b) ∧
    (∀ u ∈ crewUnits port.val r.word, ∀ p ∈ queueOf t u, ¬(p.port = port ∧ p.acc = r.acc)) ∧
    (t.stewardAt r.issuer.val).retired = (s.stewardAt r.issuer.val).retired + 1 ∧ t.mem = s.mem

end Sys2Proof.Claims

/-- 11_steward R347, R355; 12_partitions R379; 10_streams R311: a queued SIGNAL acts when everything ahead of it in its crew's queues has completed, the
others when everything ahead has started: SIGNAL adds ARG to the count of its pair, WAIT takes one once the count is not 0 and neither a steward of the
pair's EC nor one of its stream slots asks for it, nor a steward from elsewhere that waits already (for the ordering commands that order is the model's choice, log 74), TEMPO passes
where no yield is asked of its context, BARRIER once caravan time reaches TIME. A WAIT or a TEMPO that holds its queues counts the cause of
its waiting, once an attempt (log 75), in each EC of its crew. That the command counts in RETIRED is the model's reading
(log 13). -/
def Obligations.QueuedOrders : Prop :=
  ∀ (s : State) (port : Fin 5) (acc : Nat) (r : MacroRec),
    let p := oPair r.word
    let k := namedPair r.issuer p
    let old := pairAt s k.1 k.2
    let count := if oFree r.word = true then old.2 else old.1
    let Counts := fun (t : State) (n : BitVec 16) => pairAt t k.1 k.2 = if oFree r.word = true then (old.1, n) else (n, old.2)
    let waits := fun i : Instr => Gives i s s
    coreClocks s = true →
    (orderAt s port.val acc 0x20 = some r →
      (headsAll s port.val r = false → waits (.orderSignal port acc)) ∧
      (headsAll s port.val r = true → orderValid 0x20 r = true → orderAllowed s r = true → count.toNat + oArg r.word ≤ 65535 →
        ∃ t, Gives (.orderSignal port acc) s t ∧ Leaves s t port r ∧ Counts t (BitVec.ofNat 16 (count.toNat + oArg r.word)))) ∧
    (orderAt s port.val acc 0x21 = some r →
      (headsWaiting s port.val r = false → waits (.orderWait port acc)) ∧
      (headsWaiting s port.val r = true → orderValid 0x21 r = true → orderAllowed s r = true →
        let own := ownStewardWaits s k.1 k.2 (oFree r.word)
        let slot := slotWants s k.1 k.2 (oFree r.word)
        let before := otherStewardWaits s k.1 k.2 (oFree r.word) = true
        (count = 0 ∨ own.isSome = true ∨ slot.isSome = true ∨ before → Gives (.orderWait port acc) s (orderHeld s port.val r cntStallSem)) ∧
        (count ≠ 0 → own = none → slot = none → ¬before → ∃ t, Gives (.orderWait port acc) s t ∧ Leaves s t port r ∧ Counts t (count - 1)))) ∧
    (orderAt s port.val acc 0x22 = some r →
      (headsWaiting s port.val r = false → waits (.orderTempo port acc)) ∧
      (headsWaiting s port.val r = true → yieldAsked s r.ctx = true →
        Gives (.orderTempo port acc) s (orderHeld s port.val r cntStallPreempt)) ∧
      (headsWaiting s port.val r = true → yieldAsked s r.ctx = false → ∃ t, Gives (.orderTempo port acc) s t ∧ Leaves s t port r)) ∧
    (orderAt s port.val acc 0x23 = some r → orderValid 0x23 r = true →
      (headsWaiting s port.val r = false ∨ s.time.toNat < oTime r.word → waits (.orderBarrier port acc)) ∧
      (headsWaiting s port.val r = true → oTime r.word ≤ s.time.toNat → ∃ t, Gives (.orderBarrier port acc) s t ∧ Leaves s t port r))

/-! ### The dragoman -/

namespace Sys2Proof.Claims

/-- The context is in HALT with the code, and none of its jobs is left (08_dragoman R237, R268). -/
def Halts (t : State) (d cx : Nat) (code : Code) : Prop := (drgCtx t d cx).state = 7 ∧ (drgCtx t d cx).fault = code

/-- 08_dragoman R236, R237, R245, R253, R265; 07_kv R210: a wave takes the lowest free contexts for the next queries or blocks and binds the queries of
a SEARCH to the current epoch slot, whose ACTIVE grows by them; a slot that is not current halts them with `0x7002`. A context whose
coarse scores are written makes the look-ups of its source's bundles (log 110) and chooses its probe set; the jobs of a wave then hold every context with every list of its probe set. -/
def WavesAndJobs : Prop :=
  ∀ (s : State) (die : Fin 4) (acc : Nat) (r : MacroRec) (n w : Nat) (cx : Fin 2048),
    let d := die.val
    let q := reqOf s r
    let x := drgCtx s d cx.val
    let wave := (s.dieAt d).drgWaves + 1
    let Admitted := fun (t : State) (P : Nat → DrgCtx → Prop) => (∃ z, macroAt t d acc = some z ∧ z.nextQuery = r.nextQuery + n) ∧
      (t.dieAt d).drgWaves = wave ∧ ∀ k, k < n → ∃ y, (drgFreeList s d)[k]? = some y ∧ P k (drgCtx t d y)
    coreClocks s = true → macroAt s d acc = some r →
    (waveDue s d r = none → Gives (.waveAdmit die acc) s s) ∧
    (waveDue s d r = some n → wOpcode r.word = 0x18 → ∀ c u, searchCmd s q r.word = .ok c → (c.oneEpoch = true → r.epochSlot = none) →
      (∀ a ws, bindEpoch s q c.root (if c.oneEpoch = true then c.nq else n) = .ok (u, some a) → slotWordsOf u q a = .ok ws →
        ∃ t, Gives (.waveAdmit die acc) s t ∧ t.mem = u.mem ∧ Admitted t fun k y => y.state = 1 ∧ y.acc = acc ∧ y.ctx = r.ctx ∧
          y.select = false ∧ y.query = r.nextQuery + k ∧ y.wave = wave ∧ y.slot = some a ∧ y.slotWords = ws) ∧
      (bindEpoch s q c.root (if c.oneEpoch = true then c.nq else n) = .ok (u, none) →
        ∃ t, Gives (.waveAdmit die acc) s t ∧ t.mem = u.mem ∧ Admitted t fun _ y => y.state = 7 ∧ y.fault = 0x7002)) ∧
    (waveDue s d r = some n → wOpcode r.word = 0x18 → ∀ c a ws, searchCmd s q r.word = .ok c → c.oneEpoch = true → a ≠ 0 →
      r.epochSlot = some a → slotWordsOf s q a = .ok ws → ∃ t, Gives (.waveAdmit die acc) s t ∧ t.mem = s.mem ∧
        Admitted t fun k y => y.state = 1 ∧ y.acc = acc ∧ y.query = r.nextQuery + k ∧ y.slot = some a ∧ y.slotWords = ws) ∧
    (waveDue s d r = some n → wOpcode r.word = 0x19 → ∀ c seqs, selectCmd s q r.word = .ok c → attSeqs s q c.att = .ok seqs →
      r.nextQuery + n ≤ (selectBlocks c seqs).length →
      ∃ t, Gives (.waveAdmit die acc) s t ∧ t.mem = s.mem ∧ Admitted t fun k y => y.state = 1 ∧ y.acc = acc ∧ y.select = true ∧
        y.wave = wave ∧ y.slot = none ∧ ∃ b, (selectBlocks c seqs)[r.nextQuery + k]? = some b ∧ y.query = b.2) ∧
    (x.acc = acc → x.state = 1 → coarseReady s d x = false → Gives (.probeSelect die cx) s s) ∧
    (x.acc = acc → x.state = 1 → coarseReady s d x = true →
      let u := blockLookups s d x r fun c => (sourceBundles c).map fun b => 64 * b
      (x.select = false → u = s) ∧ u.mem = s.mem ∧
      (∀ l, probeSet u d x r = .ok l → Gives (.probeSelect die cx) s (setDrgCtx u d cx.val { x with state := 3, probes := l })) ∧
      (∀ z, probeSet u d x r = .error z → z.1.cls = 7 → ∃ t, Gives (.probeSelect die cx) s t ∧ Halts t d cx.val z.1)) ∧
    ((s.dieAt d).drgCtxs.Pairwise (fun a b => a.1 < b.1) → (s.dieAt d).drgJobs.Pairwise (fun a b => a.1 < b.1) →
      waveToForm s d acc = some w → ∃ t, Gives (.scanJobsForm die acc) s t ∧ t.mem = s.mem ∧
        (∀ j ∈ (s.dieAt d).drgJobs, j ∈ (t.dieAt d).drgJobs) ∧
        ∀ y ∈ drgOf s d acc, y.2.wave = w → y.2.state = 3 →
          drgCtx t d y.1 = { y.2 with formed := true, jobs := y.2.probes.length } ∧
          ∀ l ∈ y.2.probes, ∃ j ∈ (t.dieAt d).drgJobs, j.2.acc = acc ∧ j.2.list = l ∧ j.2.block = 0 ∧ j.2.ctxs.length ≤ 32 ∧
            cxOf y.1 ∈ j.2.ctxs)

/-- 08_dragoman R237, R239, R254 to R258, R263 to R269: a block of a scan job, the end of a scan, the arrival of data, one distance of
re-rank, the result, and the teardown of a context whose command is gone. -/
def ScansAndResults : Prop :=
  ∀ (s : State) (die : Fin 4) (acc : Nat) (r : MacroRec) (cx : Fin 2048) (job : Fin 64) (ctx : Fin 64) (arrived : Bool),
    let d := die.val
    let q := reqOf s r
    let x := drgCtx s d cx.val
    coreClocks s = true →
    (∀ key j, (s.dieAt d).drgJobs[job.val]? = some (key, j) → macroAt s d j.acc = some r → supplyHold s d = false →
      (wOpcode r.word = 0x18 → ∀ u l, scanPosting s d key j r = .ok u → j.ctxs.Nodup →
        listEntry s q (drgCtx s d (match j.ctxs.head? with | some y => y.val | none => 0)).ldir j.list = .ok l → l.1 % 64 = 0 →
        Gives (.scanBlock die job) s u ∧ u.mem = s.mem ∧
        (32 * (j.block + 1) < l.2 → tabGet j (u.dieAt d).drgJobs key = { j with block := j.block + 1 }) ∧
        (l.2 ≤ 32 * (j.block + 1) → (∀ y ∈ (u.dieAt d).drgJobs, y.1 ≠ key) ∧
          ∀ y ∈ j.ctxs, (drgCtx u d y.val).jobs = (drgCtx s d y.val).jobs - 1)) ∧
      (wOpcode r.word = 0x19 → ∀ u, scanBundles s d key j r = .ok u → Gives (.scanBlock die job) s u ∧
        ∀ y ∈ (u.dieAt d).drgJobs, y.1 ≠ key)) ∧
    (macroAt s d x.acc = some r → x.state = 3 → x.formed = true → x.jobs = 0 →
      (x.select = false → ∀ c, searchCmd s q r.word = .ok c →
        let widens := x.shortlist.length < c.topk ∧ x.widened < c.widen ∧ x.probes.length < c.nlist
        (widens → ∀ l, SearchCmd.ranked s q c x.query = .ok l → ∃ t, Gives (.scanJobEnd die cx) s t ∧ t.mem = s.mem ∧
          let n := l.getD x.probes.length 0
          drgCtx t d cx.val = { x with probes := x.probes ++ [n], widened := x.widened + 1, jobs := 1 } ∧
          ∃ j ∈ (t.dieAt d).drgJobs, j.2 = { acc := x.acc, list := n, ctxs := [cx], block := 0 }) ∧
        (¬widens → outOfRangeFault c.rr x = true → ∃ t, Gives (.scanJobEnd die cx) s t ∧ Halts t d cx.val 0x7009) ∧
        (¬widens → outOfRangeFault c.rr x = false → ∀ u, writeShortlist s q c x = .ok u → ∃ t, Gives (.scanJobEnd die cx) s t ∧
          t.mem = u.mem ∧ drgCtx t d cx.val = { x with state := 4 })) ∧
      (x.select = true → ∀ c b cs, selectCmd s q r.word = .ok c → selectBlock s q c x.query = .ok b → candidates s q d c b = .ok cs →
        (c.sel < (forcedBales c b cs).length → ∃ t, Gives (.scanJobEnd die cx) s t ∧ Halts t d cx.val 0x7008) ∧
        ((forcedBales c b cs).length ≤ c.sel → Gives (.scanJobEnd die cx) s (setDrgCtx s d cx.val { x with state := 4 })))) ∧
    (x.state = 5 → Gives (.fetchArrive die cx) s (setDrgCtx s d cx.val { x with state := 4 })) ∧
    (x.state = 4 →
      (x.shortlist.length ≤ x.dists.length → Gives (.rerank die cx arrived) s (setDrgCtx s d cx.val { x with state := 6 })) ∧
      (∀ k, x.shortlist[x.dists.length]? = some k → Gives (.rerank die cx false) s (setDrgCtx s d cx.val { x with state := 5 }) ∧
        (macroAt s d x.acc = some r →
          let v := blockLookups s d x r fun _ => [k.2.1]
          let u := readsUse v q (rerankSpans v d x r k)
          (x.select = false → v = s) ∧ u.mem = s.mem ∧
          ∀ v, nextDistance u d x r k = .ok v → Gives (.rerank die cx true) s (setDrgCtx u d cx.val
          { x with dists := x.dists ++ [v], state := if x.shortlist.length ≤ x.dists.length + 1 then 6 else 4 })))) ∧
    (x.state = 6 ∨ x.state = 7 → macroAt s d x.acc = some r → ∀ u, emitCtx s d cx x r = .ok u → Gives (.emit die cx) s u ∧
      (drgCtx u d cx.val).state = 0) ∧
    ((∀ y ∈ (s.dieAt d).drgCtxs, y.1 < 2048) → ∃ t, Gives (.dragomanTeardownFree die ctx) s t ∧
      ∀ y ∈ (t.dieAt d).drgCtxs, y.2.state ≠ 0 → y.2.ctx = some ctx → macroAt t d y.2.acc ≠ none) ∧
    (∀ op i, (op, i) ∈ [(0x18, Instr.search die acc), (0x19, .selectBales die acc)] → macroReady s die acc op = some r →
      (∀ z, allTiles s die r (plainTile (coarseTile d)) = .error z → ∃ t, Gives i s t ∧ t.mem = s.mem ∧ macroAt t d acc = some r) ∧
      ((∀ z, allTiles s die r (plainTile (coarseTile d)) ≠ .error z) →
        ∃ t, Gives i s t ∧ ∀ z, macroAt t d acc = some z → z.next = r.total ∧ z.windows = []))

end Sys2Proof.Claims

/-- 08_dragoman R236 to R269: waves, probe sets, scan jobs, re-rank, results and teardown of the dragoman. SEARCH and SELECT_BALES as whole
commands give out all their coarse tiles; where one of these meets a window under HOLD the whole command waits (02_package R38). -/
def Obligations.DragomanSteps : Prop := WavesAndJobs ∧ ScansAndResults

/-! ### Streams -/

namespace Sys2Proof.Claims

/-- 10_streams R317, R319, R321: a started COPY, GATHER or SCATTER arms the slot that it names or the lowest free one; without a free slot
it ends with `0x4008`, with a descriptor of another KIND with `0x2001`, with a descriptor that R319 refuses with `0x4006`; each
such end is logged (00_scope R17). -/
def StreamCommands : Prop :=
  ∀ (s : State) (port : Fin 5) (acc op kind : Nat) (i : Instr) (r : MacroRec),
    (op, kind, i) ∈ [(0x12, 0, Instr.copy port acc), (0x10, 1, .gather port acc), (0x11, 2, .scatter port acc)] →
    let u := commandUnit port.val r
    let a := (wDtab r.word + 64 * field r.word 0x18 2) % 2 ^ 48
    let EndsWith := fun code : Code => ∃ t z, Gives i s t ∧ t.mem = s.mem ∧ macroAt t port.val acc = some z ∧ z.finished = true ∧
      z.fault = holdFault r.fault ⟨code, s.time⟩ ∧ ∃ e ∈ t.log, e.code = code
    coreClocks s = true → macroAt s port.val acc = some r → wOpcode r.word = op → r.armed = true → r.finished = false → r.slot = none →
    r.joined ≠ [] → u < 131 →
    (commandSlot s u r.word = none → EndsWith 0x4008) ∧
    (∀ n d, n < 64 → commandSlot s u r.word = some n → uRead s (reqOf s r) a 64 = .ok d →
      (dKind d ≠ kind → EndsWith 0x2001) ∧
      (dKind d = kind → ownerCtx s (.task r.issuer) = r.ctx →
        (descriptorOk u d = false → EndsWith 0x4006) ∧
        (descriptorOk u d = true → (∀ c, r.ctx = some c → descriptorInside s (s.ctxAt c.val).part.toNat d = true) →
          ∃ t z, Gives i s t ∧ t.mem = s.mem ∧ macroAt t port.val acc = some z ∧ z.finished = false ∧
            (z.slot.map fun y => (y.1.val, y.2.val)) = some (u, n) ∧
            let y := t.slotAt u n
            y.state = 1 ∧ y.desc = d ∧ y.owner = .task r.issuer ∧ y.command = some (port, acc) ∧ y.issued = 0 ∧ y.written = 0 ∧
              y.performed = 0 ∧ y.armedAt = s.time)))

/-- The message waits on the group or stands in the transmit queue of one of its ports. -/
def Sent (t : State) (g : Nat) (o : OutMessage) : Prop := o ∈ (t.groupAt g).waiting ∨ ∃ n, n / 8 = g ∧ o ∈ (t.portAt n).transmit

/-- 10_streams R308 to R318, R322, R325; 02_package R38: a slot runs when its tiles fit the fetch buffer and it is first by deadline; it
reads at most four tiles ahead, takes FILL of WSEM first, and waits before a window under HOLD; it writes landed tiles in order and takes FREE
of SEMA first; a message carries its stream's deadline; a tile written increases FILL of SEMA; the slot ends in DONE after its last tile, or
in CANCELLED once what it began has ended and every read has returned; one of an aborted task ends in FAULT then (R324). -/
def StreamSteps : Prop :=
  ∀ (s : State) (unit : Fin 131) (slot : Fin 64) (tile : Nat), unitClocked s unit.val = true →
    let u := unit.val
    let i := slot.val
    let x := s.slotAt u i
    let q := { slotReq s x with waits := false }
    let k := dKind x.desc
    let Becomes := fun (t : State) (y : Slot) => t.slotAt u i = y
    let source := fun v : List Byte => (tileSource s q x.desc tile).bind (fun a => uRead s q a (dTileBytes x.desc)) = .ok v
    let toSema := semNone (dSema x.desc) = false → (pairAt s (semEc (dSema x.desc)) (semNum (dSema x.desc))).1.toNat < 65535
    let toWsem := semNone (dWsem x.desc) = false → (pairAt s (semEc (dWsem x.desc)) (semNum (dWsem x.desc))).2.toNat < 65535
    let dropped := x.landed.map fun e => (e.1, ([] : List Byte))
    coreClocks s = true →
    (x.state = 1 → reserved s u + 4 * dTileBytes x.desc ≤ 524288 → firstInDeadline s u i = true →
      Gives (.streamRun unit slot) s (s.setSlot u i { x with state := 2 })) ∧
    (x.state = 2 → k ≠ 5 → unitHeld s u = false → x.issued < dTiles x.desc →
      (x.written + 4 ≤ x.issued → Gives (.streamTileRead unit slot) s s) ∧
      (x.issued < x.written + 4 → ∀ a, heldRead s x = some a → ∃ t, Gives (.streamTileRead unit slot) s t ∧
        t = { s with linkCounters := t.linkCounters }) ∧
      (x.issued < x.written + 4 → heldRead s x = none → semTake s u i (dWsem x.desc) false = none →
        Gives (.streamTileRead unit slot) s (countDrgWait s u (dWsem x.desc))) ∧
      (x.issued < x.written + 4 → heldRead s x = none → ∀ v, semTake s u i (dWsem x.desc) false = some v →
        Gives (.streamTileRead unit slot) s (v.setSlot u i { x with issued := x.issued + 1 }))) ∧
    (k ≠ 5 → tile < x.issued → x.written ≤ tile → hasLanded x tile = false →
      (x.state = 2 → toWsem → ∀ v, source v → ∃ t, Gives (.streamReadDone unit slot tile) s t ∧ t.mem = s.mem ∧
        Becomes t { x with landed := tabSet x.landed tile v } ∧ (semNone (dWsem x.desc) = false →
          let p := pairAt s (semEc (dWsem x.desc)) (semNum (dWsem x.desc))
          pairAt t (semEc (dWsem x.desc)) (semNum (dWsem x.desc)) = (p.1, p.2 + 1))) ∧
      (x.state = 3 ∨ x.state = 6 ∨ x.state = 0 → ∃ t, Gives (.streamReadDone unit slot tile) s t ∧ t.mem = s.mem ∧
        Becomes t { x with landed := tabSet x.landed tile [] } ∧
        ∀ z, readTile s x tile = .error z → t.logHead = s.logHead + 1 ∧ ∃ r, t.log.getLast? = some r ∧ r.code = z.1)) ∧
    (x.state = 2 → k ≠ 5 → x.written < dTiles x.desc → ∀ v, (x.landed.find? fun e => e.1 == x.written) = some (x.written, v) →
      let rest := x.landed.filter fun e => e.1 != x.written
      (k ≠ 3 → k ≠ 4 →
        (semTake s u i (dSema x.desc) true = none → Gives (.streamTileWrite unit slot) s s) ∧
        ∀ w, semTake s u i (dSema x.desc) true = some w → ∀ a n, tileDest w { slotReq w x with noAllocate := dNoAlloc x.desc } x.desc x.written = .ok a →
          uWrite w { slotReq w x with noAllocate := dNoAlloc x.desc } a v = .ok n →
          Gives (.streamTileWrite unit slot) s (n.setSlot u i { x with written := x.written + 1, landed := rest })) ∧
      (k = 3 → ∀ w, semTake s u i (dSema x.desc) true = some w → slotGroup s u x = unitGroup u →
        canSend s (unitGroup u) (slotVc s x) (1 + ceilDiv v.length 256) (slotDeadline s x) u i = true →
        ∃ t o, Gives (.streamTileWrite unit slot) s t ∧ t.mem = s.mem ∧ Sent t (unitGroup u) o ∧ o.deadline = slotDeadline w x ∧ o.unit = u ∧
          o.slot = i ∧ o.tile = x.written ∧ o.msg.vc.val = slotVc s x ∧ o.msg.seq = tabGet 0 (s.groupAt (unitGroup u)).nextSeq o.msg.vc.val ∧
          o.msg.body = v ∧ o.msg.plen = v.length ∧ o.msg.type.toNat = field x.desc 0x36 1 ∧
          o.msg.addr.toNat = (dDst x.desc + x.written * dDstride x.desc) % 2 ^ 48 ∧
          (let id : MsgId := ⟨unitGroup u, o.msg.vc.val, o.msg.seq⟩
           Becomes t { x with written := x.written + 1, landed := rest, sent := x.sent ++ [id], unacked := x.unacked ++ [id],
                              writeAcks := x.writeAcks ++ if slotVc s x = 7 then [id] else [] })) ∧
      (k = 4 → ∀ l w y, tileMessages s u x v = .ok (some l, w) → canSendAll w u i x l = true → semTake w u i (dSema x.desc) true = some y →
        ∃ t, Gives (.streamTileWrite unit slot) s t ∧ t.mem = s.mem ∧ (t.slotAt u i).written = x.written + 1 ∧
          (t.slotAt u i).landed = rest ∧ (∀ e ∈ l, ∃ o, Sent t e.1 o ∧ o.msg.type = e.2.type ∧ o.msg.head = e.2.head ∧ o.msg.body = e.2.body ∧
            o.deadline = slotDeadline y x) ∧
          (dDst x.desc = 0 → x.written + 1 = dTiles x.desc → 1 ≤ hopNow s ∨ caravanDecl s = none → othersForward s u i = false →
            ∃ h, Sent t (downGroup s) h ∧ h.msg.type = 0x11))) ∧
    (x.state = 2 ∨ x.state = 3 → x.performed < x.written → toSema → ∃ t, Gives (.streamTilePerformed unit slot) s t ∧ t.mem = s.mem ∧
      Becomes t { x with performed := x.performed + 1 } ∧ (semNone (dSema x.desc) = false →
        let p := pairAt s (semEc (dSema x.desc)) (semNum (dSema x.desc))
        pairAt t (semEc (dSema x.desc)) (semNum (dSema x.desc)) = (p.1 + 1, p.2))) ∧
    (let done := x.state = 2 ∧ x.written = dTiles x.desc ∧ x.performed = x.written ∧ x.unacked = [] ∧ x.writeAcks = []
     let gone := x.state = 3 ∧ x.performed = x.written ∧ x.issued ≤ x.written + x.landed.length ∧ inTransmit s u i = false
     (gone → ∀ code, x.ending = some code → Gives (.streamCancelComplete unit slot) s
       (s.setSlot u i { x with state := 6, pend := false, code, ending := none })) ∧
     (x.pend = false → x.command = none →
       (done → Gives (.streamDone unit slot) s (s.setSlot u i { x with state := 4, code := 0, landed := dropped })) ∧
       (gone → x.ending = none → Gives (.streamCancelComplete unit slot) s (s.setSlot u i { x with state := 5, landed := dropped }))) ∧
     (x.pend = false → ∀ port acc r, x.command = some (port, acc) → macroAt s port.val acc = some r → done →
       ∃ t, Gives (.streamDone unit slot) s t ∧ t.mem = s.mem ∧
         Becomes t { x with state := 4, code := 0, landed := dropped, command := none } ∧
         macroAt t port.val acc = some { r with tiles := x.performed, finished := true }) ∧
     (x.pend = true →
       (done → Gives (.streamDone unit slot) s (applyArm (endSlot s u i 4 0) u i x.pendOwner none (slotAddr x))) ∧
       (gone → x.ending = none → Gives (.streamCancelComplete unit slot) s (applyArm (endSlot s u i 5 x.code) u i x.pendOwner none (slotAddr x)))))

/-- 09_route R276, R299; 10_streams R304, R308, R309; 07_kv R232: the drain stream of a ring group takes a whole message out of the serai:
the bales of a BALE, which a BALE_ACK answers, the records of a SURVEY, or a GRAD block, written at ADDR where it belongs and sent on upstream
unchanged elsewhere. -/
def SeraiDrains : Prop :=
  ∀ (s : State) (group : Fin 2) (n i : Nat) (m : Message),
    let g := group.val
    let u := 128 + g
    let x := s.slotAt u i
    let es := baleEntries (m.head.drop 1)
    let leaves := fun t : State => (t.groupAt g).serai = (s.groupAt g).serai.eraseIdx n
    coreClocks s = true → (s.groupAt g).serai[n]? = some m → drainSlot s g = some i →
    (m.vc.val = 2 → x.written + es.length ≤ dTiles x.desc →
      ∀ v, drainBales s u i m.step.toNat (m.body.length / max 1 es.length) es m.body = .ok (some v) →
      ∃ t h, Gives (.seraiDrain group n) s t ∧ t.mem = v.mem ∧ leaves t ∧ t.ring = v.ring ∧ t.slotAt u i = v.slotAt u i ∧
        Sent t g h ∧ h.msg.type = 0x0B ∧ h.msg.head = [m.step.toNat, m.seq.toNat]) ∧
    (m.vc.val = 3 → ∀ v, drainSurvey s u i m = .ok (some v) → ∃ t, Gives (.seraiDrain group n) s t ∧ t.mem = v.mem ∧ leaves t ∧
      t.slotAt u i = v.slotAt u i ∧ t.ring = v.ring) ∧
    (m.vc.val ≠ 2 → m.vc.val ≠ 3 →
      (m.dst = ownLoc s → ∀ w v, drainTake s u i = some w → uWrite w (slotReq w (w.slotAt u i)) m.addr.toNat (m.body.take m.plen) = .ok v →
        ∃ t, Gives (.seraiDrain group n) s t ∧ t.mem = v.mem ∧ leaves t ∧
          t.slotAt u i = { w.slotAt u i with written := (w.slotAt u i).written + 1 }) ∧
      (m.dst = ownLoc s → drainTake s u i = none → Gives (.seraiDrain group n) s s) ∧
      (m.dst ≠ ownLoc s → ∃ t h, Gives (.seraiDrain group n) s t ∧ t.mem = s.mem ∧ leaves t ∧ Sent t (upGroup s) h ∧ h.msg = m ∧
        h.deadline = match caravanDecl s with | some d => s.ring.released.toNat + d.stepCt | none => slotDeadline s x))

end Sys2Proof.Claims

/-- 10_streams R304 to R322; 09_route R276, R299; 07_kv R232: stream commands, the steps of a stream, and the serai drain. -/
def Obligations.Streams : Prop := StreamCommands ∧ StreamSteps ∧ SeraiDrains

/-! ### Reset, and what every step keeps -/

/-- 09_route, 11_steward R338, 13_host, 14_power R422, R425, R430: what a power-on reset leaves: caravan time 0, an empty queue, stewards
halted at level F with the reset values of their control registers, canonical memory, and the hub registers that have a reset value. -/
def Obligations.ResetState : Prop :=
  let s := State.reset
  let Holds := fun (o : Nat) (v : Nat) => (regRead s o).1 = BitVec.ofNat 32 v
  s.pending = [] ∧ s.time = 0 ∧ Memory.wf s.mem = true ∧ s.log = [] ∧
  (∀ st : Fin 264, let x := s.stewardAt st.val
    x.run = .halted ∧ statusOf x = 2 ∧ x.timecmp = BitVec.allOnes 64 ∧ x.stores = [] ∧
    (∀ r, x.reg r = 0) ∧ (∀ n : Fin 18, n.val ≠ 0 → n.val ≠ 6 → n.val ≠ 15 → n.val ≠ 16 → crValue s st n.val = 0)) ∧
  (∀ p : Fin 24, Holds (0x100000 + 16 * p.val) 0x80000000) ∧
  (∀ p : Fin 8, Holds (0x50000 + 64 * p.val) 0) ∧ (∀ c : Fin 64, (s.ctxAt c.val).state = 0) ∧
  (∀ w : Fin 48, Holds (0x40000 + 4 * w.val) 0) ∧ (∀ f : Fin 9, Holds (0x70100 + 4 * f.val) 0) ∧
  Holds 0x100204 1 ∧ Holds 0x10020C 30000 ∧ Holds 0x100300 0x1F ∧ Holds 0x100304 0x1F000000 ∧
  Holds 0x80004 0 ∧ Holds 0x80010 50 ∧ (∀ n : Fin 5, Holds (0x80100 + 4 * n.val) (705 * 65536 + 680)) ∧
  Holds 0x80114 (760 * 65536 + 730) ∧ Holds 0x80120 0 ∧ Holds 0x80200 (105 * 256 + 95) ∧ Holds 0x80304 0x80000000

/-- Every step of the block answers a next state: no command stops it, whatever the state (the manual describes every command that its
table names). -/
def Obligations.EveryStepAnswers : Prop := ∀ s : State, ∃ t, step s = .next t

namespace Sys2Proof.Claims

/-- What every step keeps: device memory and the data memory of every steward stand in their canonical form (rising addresses, none that
reads as an unlisted one), and the error log holds at most 4,096 records (16_counters R461). -/
def Kept (s : State) : Prop :=
  Memory.wf s.mem = true ∧ (∀ x ∈ s.stewards, Memory.wf x.2.dataMemory = true) ∧ s.log.length ≤ 4096

end Sys2Proof.Claims

/-- 02_package; 11_steward R344; 16_counters R461: every step, from every state, keeps memories canonical and the log within 4,096
records; the state after reset has them so. -/
def Obligations.EveryStepKeepsMemoryAndLog : Prop := Kept State.reset ∧ ∀ s t : State, Kept s → step s = .next t → Kept t

/-- 11_steward R339 to R343, R355: the word of every well-formed steward instruction decodes to that instruction for its steward, so that
no bit of an operand is dropped and no two instructions share a word. -/
def Obligations.StewardWordsDecode : Prop :=
  ∀ (i : Instr) (w : BitVec 32), i.wf = true → encodeSteward i = some w → ∃ st, decodeSteward st w = some i

/-! ### Arithmetic -/

namespace Sys2Proof.Claims

/-- The rational value of a finite number. -/
def numVal : Machine.Num → ℚ
  | .fin n m e => (if n then -1 else 1) * (m : ℚ) * (2 : ℚ) ^ e
  | _ => 0

/-- A number is neither NaN nor an infinity. -/
def isFinite (x : Machine.Num) : Prop := ∃ n m e, x = .fin n m e

end Sys2Proof.Claims

/-- 03_arithmetic R60, R61, R64 to R66: a product is truncated toward zero into the window or saturates with SAT; NaN and infinities set
their flags; window words add as integers with their flags by OR, so that neither the order of the products nor a K split nor the order
of the partials changes a sum. -/
def Obligations.AnchoredSums : Prop :=
  (∀ (a : Int) (x y : Machine.Num) (eA eB : Nat), isFinite x → isFinite y → eA < 255 → eB < 255 →
    let p := numVal x * numVal y * (2 : ℚ) ^ (((eA : Int) - 127) + ((eB : Int) - 127))
    let c := convertProduct a (numMul (numMul x (scaleNum eA)) (numMul y (scaleNum eB)))
    let sign : Int := if p < 0 then -1 else 1
    (|p| < (2 : ℚ) ^ a → c.flags = 0 ∧ c.w = sign * ⌊|p| / (2 : ℚ) ^ (a - 100)⌋) ∧
    ((2 : ℚ) ^ a ≤ |p| → c.flags = 1 ∧ c.w = sign * (2 ^ 100 - 1))) ∧
  (∀ a : Int, convertProduct a .nan = ⟨0, 2⟩ ∧ convertProduct a (.inf false) = ⟨0, 4⟩ ∧ convertProduct a (.inf true) = ⟨0, 8⟩) ∧
  (∀ xs ys : List Win, xs.Perm ys → xs.foldl winAdd {} = ys.foldl winAdd {}) ∧
  (∀ xs ys : List Win, (xs ++ ys).foldl winAdd {} = winAdd (xs.foldl winAdd {}) (ys.foldl winAdd {})) ∧
  (∀ xs : List Win, (xs.foldl winAdd {}).w = (xs.map Win.w).sum ∧
    ∀ i : Fin 4, (xs.foldl winAdd {}).flags[i] = xs.any fun x => x.flags[i]) ∧
  (∀ (g : Geo) (l x : Nat) (d : Nat → Win), 0 < g.passes → (∀ k, k < g.passes → g.dot l x k = .ok (.win (d k))) →
    g.acc l x = .ok (some (.win (((List.range g.passes).map d).foldl winAdd {})))) ∧
  (∀ (s : State) (q : Req) (b : Desc) (q0 n r c : Nat) (d : Nat → Win), 0 < n →
    (∀ k, k < n → readPartial s q b (q0 + k) r c = .ok (.win (d k))) →
    sumPlanes s q b q0 n r c = .ok (some (.win (((List.range n).map d).foldl winAdd {}))))

/-- 03_arithmetic R63: an output is the exact V = W × 2^(a − 100) × the scales, rounded once to the nearest value of its format, ties to
even, with gradual underflow; a nonzero V that rounds to zero keeps its sign and sets UNF; overflow sets OVF and gives an infinity, or ±448
in E4M3. That E4M3 overflows from 464 on follows the example of R63 (log 65). -/
def Obligations.OutputRounding : Prop :=
  ∀ (l : Layout) (limit : ℚ) (a : Int) (x : Win) (scales : List (BitVec 32)),
    (l, limit) ∈ [(layoutF32, (2 ^ 25 - 1) * 2 ^ 103), (layoutBf16, (2 ^ 9 - 1) * 2 ^ 119), (layoutE5m2, 61440), (layoutE4m3, 464)] →
    x.flags &&& 0xE = 0 → (∀ t ∈ scales, isFinite (f32Num t)) →
    let V := (x.w : ℚ) * (2 : ℚ) ^ (a - 100) * (scales.map fun t => numVal (f32Num t)).prod
    let r := winOut l a x scales
    (V = 0 → r.1 = 0) ∧
    (|V| < limit → V ≠ 0 → r.2 &&& flagOvf = 0 ∧ ∃ m e, ofCode l r.1 = .fin (decide (V < 0)) m e ∧
      let v := numVal (.fin (decide (V < 0)) m e)
      (r.2 &&& flagUnf ≠ 0 ↔ v = 0) ∧
      ∀ c, isFinite (ofCode l c) → |V - v| ≤ |V - numVal (ofCode l c)| ∧
        (|V - v| = |V - numVal (ofCode l c)| → numVal (ofCode l c) ≠ v → r.1 % 2 = 0)) ∧
    (limit ≤ |V| → r.2 &&& flagOvf ≠ 0 ∧
      r.1 = (if V < 0 then 2 ^ (l.mant + l.expo) else 0) + if l = layoutE4m3 then 0x7E else (2 ^ l.expo - 1) * 2 ^ l.mant) ∧
    (r.2 &&& flagSat ≠ 0 ↔ x.flags[0] = true)

/-! ### Where orders, waits, traps and barriers complete -/

namespace Sys2Proof.Claims

/-- 11_steward R334, R341, R344 rule 3: CTIME, FENCE, LDM and STM complete for a steward that may start an instruction, FENCE once the stores
that it waits for have been performed, LDM and STM at a doubleword of data memory. -/
def DataMemoryAndTimeComplete : Prop :=
  ∀ (s : State) (st : Fin 264) (rd ra rs : BitVec 5) (imm : BitVec 16) (loads stores : Bool), stewardReady s st = true →
    let x := s.stewardAt st.val
    let a := (regOf s st ra + BitVec.ofInt 64 imm.toInt).toNat
    let Done := fun (t : State) => OnlySteward s t st ∧ (t.stewardAt st.val).pc = x.pc + 4 ∧ (t.stewardAt st.val).instret = x.instret + 1
    (∃ t, exec (.ctime st rd) s = .next t ∧ Done t ∧ WritesReg x (t.stewardAt st.val) rd s.time) ∧
    ((stores = true → x.stores = []) → ∃ t, exec (.fence st loads stores) s = .next t ∧ Done t ∧ (t.stewardAt st.val).g = x.g) ∧
    (a % 8 = 0 → a < 65536 →
      (∃ t, exec (.ldm st rd ra imm) s = .next t ∧ Done t ∧
        WritesReg x (t.stewardAt st.val) rd (BitVec.ofNat 64 (leNat ((List.range 8).map fun i => cellGet x.dataMemory (a + i))))) ∧
      (Memory.wf x.dataMemory = true → ∃ t, exec (.stm st rs ra imm) s = .next t ∧ Done t ∧ (t.stewardAt st.val).g = x.g ∧
        ∀ i, i < 8 → cellGet (t.stewardAt st.val).dataMemory (a + i) = (regOf s st rs).extractLsb' (8 * i) 8))

/-- 14_power R413, R414, R422 to R425; 17_electrical R473: where the events of the rails, of the temperature and of the PLLs, and the writes of their
levels and of a port's transmit settings, have their effect. -/
def SupplyAndClocksComplete : Prop :=
  ∀ (s : State) (who : Agent) (n : Fin 6) (rail : Fin 5) (mv tries : Nat) (readings : Vector Nat 5) (g : Fin 16) (die : Fin 4) (p : Fin 21)
    (port : Fin 24) (v : Reg32),
    let x := s.power
    let lo := (v.extractLsb' 0 16).toNat
    let hi := (v.extractLsb' 16 16).toNat
    (n.val = 5 ∨ x.coreRails = true → x.warn.getLsbD n.val = false → mv < railWarn s n.val →
      ∃ t, exec (.supplyWarningBegin n mv) s = .next t ∧ t.power.warn.getLsbD n.val = true ∧ t.power.dip.getLsbD n.val = true) ∧
    (x.warn.getLsbD n.val = true → railWarn s n.val + 10 ≤ mv →
      ∃ t, exec (.supplyWarningEnd n mv) s = .next t ∧ t.power.warn.getLsbD n.val = false ∧ t.logHead = s.logHead + 1) ∧
    (x.coreRails = true → n.val < 5 → mv < railReset s n.val → x.state ≠ 4 →
      ∃ t, exec (.railBelowReset n mv) s = .next t ∧ t.power.causeRail = true ∧ t.ecs = []) ∧
    (n.val = 5 → mv < railReset s 5 → ∃ t, exec (.railBelowReset n mv) s = .next t ∧ t.power.causePowerOn = true ∧ t.time = 0) ∧
    (x.warn.getLsbD rail.val = true → x.sEmerg = false → x.state ≠ 7 → (tabGet 0 x.warnSince rail.val).toNat + 1000000 ≤ s.time.toNat →
      ∃ t, exec (.supplyEmergency rail) s = .next t ∧ t.power.sEmerg = true ∧ t.power.code = 0x6002) ∧
    (∃ t, exec (.thermalSample readings) s = .next t ∧ t.power.temps = readings.toList) ∧
    ((∃ r ∈ readings.toList, 115 ≤ r) → x.state ≠ 7 ∨ x.tripped = false →
      ∃ t, exec (.thermalTrip readings) s = .next t ∧ t.power.state = 7 ∧ t.power.tripped = true) ∧
    (isFirmware s who = true → Reaches s who (0x80100 + 4 * n.val) → lo + 20 ≤ hi →
      ∃ t, exec (.railCfgWrite who n v) s = .next t ∧ railWarn t n.val = hi ∧ railReset t n.val = lo) ∧
    (isFirmware s who = true → Reaches s who 0x80200 → (v.extractLsb' 8 8).toNat ≤ 110 → (v.extractLsb' 0 8).toNat + 5 < (v.extractLsb' 8 8).toNat →
      ∃ t, exec (.thermalCfgWrite who v) s = .next t ∧ t.power.thermEmerg = v.extractLsb' 8 8 ∧ t.power.thermWarn = v.extractLsb' 0 8) ∧
    (isFirmware s who = true → Reaches s who (0x100400 + 4 * port.val) → (v.extractLsb' 6 6).toNat + (v.extractLsb' 0 6).toNat ≤ 24 →
      ∃ t, exec (.txcfgWrite who port v) s = .next t ∧ (t.portAt port.val).cfgPre = v.extractLsb' 6 6 ∧
        (t.portAt port.val).cfgPost = v.extractLsb' 0 6) ∧
    (x.state = 0 → x.idleUs ≠ 0 → x.groupPll.getLsbD g.val = true → groupIdle s g.val = true →
      ∃ t, exec (.groupPllIdleStop g) s = .next t ∧ t.power.groupPll.getLsbD g.val = false) ∧
    (x.state = 0 ∨ x.state = 1 → x.idleUs ≠ 0 → x.diePll.getLsbD die.val = true → dieQuiet s die.val = true →
      ∃ t, exec (.diePllIdleStop die) s = .next t ∧ t.power.diePll.getLsbD die.val = false) ∧
    (x.state = 0 → x.hubPll = true → p.val < 20 → pllRuns s p.val = false →
      ∃ t, exec (.pllWake p) s = .next t ∧ ∃ e ∈ t.power.starting, e.1 = p.val) ∧
    ((∃ e ∈ x.starting, e.1 = p.val) → s.posted = [] →
      ∃ t, exec (.pllLock p) s = .next t ∧ pllRuns t p.val = true ∧ ∀ e ∈ t.power.starting, e.1 ≠ p.val) ∧
    (x.starting.find? (fun e => e.1 == p.val) = some (p.val, tries) →
      (tries < 2 → ∃ t, exec (.pllLockFailure p) s = .next t ∧ tabGet 0 t.power.starting p.val = tries + 1) ∧
      (2 ≤ tries → ∃ t, exec (.pllLockFailure p) s = .next t ∧ t.power.state = 7 ∧ t.power.code = 0x6007))

/-- The queued ordering commands, the service traps, the waits and the barriers. -/
def OrdersAndTrapsComplete : Prop :=
  (∀ (s : State) (port : Fin 5) (acc : Nat) (r : MacroRec), coreClocks s = true →
    let k := namedPair r.issuer (oPair r.word)
    let free := oFree r.word
    let old := pairAt s k.1 k.2
    let count := if free then old.2 else old.1
    (orderAt s port.val acc 0x20 = some r → headsAll s port.val r = true → orderValid 0x20 r = true → orderAllowed s r = true →
      count.toNat + oArg r.word ≤ 65535 → ∃ t, exec (.orderSignal port acc) s = .next t ∧ Leaves s t port r ∧
        pairAt t k.1 k.2 = if free then (old.1, count + BitVec.ofNat 16 (oArg r.word)) else (count + BitVec.ofNat 16 (oArg r.word), old.2)) ∧
    (orderAt s port.val acc 0x21 = some r → headsWaiting s port.val r = true → orderValid 0x21 r = true → orderAllowed s r = true →
      ownStewardWaits s k.1 k.2 free = none → slotWants s k.1 k.2 free = none → otherStewardWaits s k.1 k.2 free = false → count ≠ 0 →
      ∃ t, exec (.orderWait port acc) s = .next t ∧ Leaves s t port r ∧
        pairAt t k.1 k.2 = if free then (old.1, count - 1) else (count - 1, old.2)) ∧
    (orderAt s port.val acc 0x22 = some r → headsWaiting s port.val r = true → yieldAsked s r.ctx = false →
      ∃ t, exec (.orderTempo port acc) s = .next t ∧ Leaves s t port r) ∧
    (orderAt s port.val acc 0x23 = some r → headsWaiting s port.val r = true → oTime r.word ≤ s.time.toNat →
      ∃ t, exec (.orderBarrier port acc) s = .next t ∧ Leaves s t port r)) ∧
  (∀ (s : State) (st : Fin 264), stewardReady s st = true →
    let x := s.stewardAt st.val
    let attached := st.val < 256 ∧ (s.ecAt (st.val / 2)).dbg.attach = true
    (1 ≤ x.pl.toNat → x.tpc.toNat % 4 = 0 → ∃ t, exec (.tret st) s = .next t ∧ OnlySteward s t st ∧
      (let y := t.stewardAt st.val
       y.pc = x.tpc ∧ y.pl = x.ppl ∧ y.inTrap = false ∧ y.g = x.g)) ∧
    (x.stores = [] → x.inTrap = false → x.pl = 0 ∨ (x.pl = 1 ∧ 256 ≤ st.val) →
      ∃ t, exec (.scall st) s = .next t ∧ OnlySteward s t st ∧ TrapEntry s st x (t.stewardAt st.val) 1) ∧
    (x.stores = [] → x.inTrap = false → ¬attached →
      ∃ t, exec (.breakpoint st) s = .next t ∧ OnlySteward s t st ∧ TrapEntry s st x (t.stewardAt st.val) 3) ∧
    (attached → ∃ t, exec (.breakpoint st) s = .next t ∧ (t.ecAt (st.val / 2)).dbg.halting = true ∧ (t.ecAt (st.val / 2)).dbg.why = 2) ∧
    (∃ t, exec (.idle st) s = .next t ∧ OnlySteward s t st ∧ (t.stewardAt st.val).pc = x.pc + 4 ∧
      (t.stewardAt st.val).run = if eventBits s x &&& x.evmask = 0 then .idle else .running) ∧
    ∀ word : BitVec 32, decodeSteward st word = none → ∃ t, exec (.illegalInstruction st word) s = .next t ∧
      (t.stewardAt st.val).run = .halted ∧ LogsFirst s t 0x2002 ∧
      (x.pl.toNat < 2 → (t.stewardAt st.val).tpc = x.pc ∧ (t.stewardAt st.val).tval = BitVec.ofNat 64 word.toNat)) ∧
  (∀ (s : State) (st : Fin 264) (rd ra rb : BitVec 5) (p : BitVec 16), stewardReady s st = true →
    let x := s.stewardAt st.val
    let k := namedPair st p
    let old := pairAt s k.1 k.2
    let alone := fun free : Bool => ∀ j, j < 264 → j ≠ st.val → countWaiter (s.stewardAt j) k.1 k.2 free = false
    let w := regOf s st ra
    let id := w.toNat / 2 ^ 32 % 64
    (pairLegal st p = true → pairAllowed s st p = true → (st.val / 2 = k.1 ∨ ∀ free, slotWants s k.1 k.2 free = none) →
      (alone false → old.1 ≠ 0 → ∃ t, exec (.wait st rd ra p) s = .next t ∧ OthersKept s t st ∧ pairAt t k.1 k.2 = (old.1 - 1, old.2) ∧
        WritesReg x (t.stewardAt st.val) rd 0 ∧ RetiresAt x (t.stewardAt st.val) (x.pc + 4) none) ∧
      (alone true → old.2 ≠ 0 → ∃ t, exec (.waitf st rd ra p) s = .next t ∧ OthersKept s t st ∧ pairAt t k.1 k.2 = (old.1, old.2 - 1) ∧
        WritesReg x (t.stewardAt st.val) rd 0 ∧ RetiresAt x (t.stewardAt st.val) (x.pc + 4) none)) ∧
    (x.stores = [] → st.val < 256 → w.toNat / 2 ^ 39 = 0 → w.getLsbD (st.val / 2 % 32) = true → w.getLsbD 38 = (st.val % 2 == 1) →
      ∀ c, stewardCtx s st = some c →
      (∀ stw, stw < 2 → (barrierAt s (barrierKey (st.val / 64) c.val id stw)).arrived = [] ∨
        (barrierAt s (barrierKey (st.val / 64) c.val id stw)).word.toNat % 2 ^ 32 = w.toNat % 2 ^ 32) →
      ∃ t, exec (.barrier st rd ra rb) s = .next t ∧ OthersKept s t st ∧
        ∃ d i, d.val = st.val / 64 ∧ i.val = id ∧ t.stewardAt st.val = { x with run := .dieBarrier d i rd }) ∧
    (x.stores = [] → 256 ≤ st.val → x.pl = 1 → w.toNat = 2 ^ 62 → regOf s st rb = 0 →
      let code := caravanCode s (s.partAt (st.val - 256)).ring
      (code = 0 → ∃ t, exec (.barrier st rd ra rb) s = .next t ∧ (t.stewardAt st.val).run = .ringBarrier rd) ∧
      (code ≠ 0 → ∃ t, exec (.barrier st rd ra rb) s = .next t ∧ WritesReg x (t.stewardAt st.val) rd (code.setWidth 64) ∧
        RetiresAt x (t.stewardAt st.val) (x.pc + 4) none))) ∧
  (∀ (s : State) (st : Fin 264), coreClocks s = true → debugStopped s st = false → unitClocked s (st.val / 2) = true →
    let x := s.stewardAt st.val
    (x.run = .running → x.stores = [] → x.inTrap = false → x.pl = 0 → x.eie = true → eventBits s x &&& x.evmask ≠ 0 →
      ∃ t, exec (.eventTrap st) s = .next t ∧ OnlySteward s t st ∧ TrapEntry s st x (t.stewardAt st.val) 5) ∧
    (x.timecmp.toNat ≤ s.time.toNat → ∃ t, exec (.timer st) s = .next t ∧ OnlySteward s t st ∧
      (eventBits t (t.stewardAt st.val)).getLsbD 2 = true ∧
      (x.run = .idle → x.evmask.getLsbD 2 = true → (t.stewardAt st.val).run = .running)) ∧
    ∀ (e : Fin 128) (n : Fin 64) (free : Bool) (rd : BitVec 5) (since : CTime) (timeout : Word64),
      x.run = .waiting e n free rd since timeout →
      let old := pairAt s e.val n.val
      let count := if free then old.2 else old.1
      (count = 0 → timeout ≠ 0 → since.toNat + timeout.toNat ≤ s.time.toNat →
        ∃ t, exec (.waitTimeout st) s = .next t ∧ OnlyStewards s t ∧ OthersKept s t st ∧ WritesReg x (t.stewardAt st.val) rd 1 ∧
          RetiresAt { x with run := .running } (t.stewardAt st.val) (x.pc + 4) none) ∧
      (count ≠ 0 → st.val = 2 * e.val →
        ∃ t, exec (.semaphoreAcquire e n free) s = .next t ∧ OthersKept s t st ∧
          pairAt t e.val n.val = (if free then (old.1, count - 1) else (count - 1, old.2)) ∧ WritesReg x (t.stewardAt st.val) rd 0 ∧
          RetiresAt { x with run := .running } (t.stewardAt st.val) (x.pc + 4) none)) ∧
  ∀ (s : State) (die : Fin 4) (c id : Fin 64) (stw : Fin 2) (b : DieBarrier), coreClocks s = true →
    barrierAt s (barrierKey die.val c.val id.val stw.val) = b → b.arrived ≠ [] →
    (b.arrived.map fun a => a.1.val).Nodup →
    (∀ i, i < 32 → b.word.getLsbD i = true → ∃ a ∈ b.arrived, a.1.val = 2 * (32 * die.val + i) + (if b.word.getLsbD 38 then 1 else 0)) →
    (∀ a ∈ b.arrived, a.2.toNat ≤ s.time.toNat) → (∀ a ∈ b.arrived, debugStopped s a.1 = false) →
    (∀ a ∈ b.arrived, ∃ rd, (s.stewardAt a.1.val).run = .dieBarrier die id rd) →
    ∃ t, exec (.dieBarrierRelease die c id) s = .next t ∧ (barrierAt t (barrierKey die.val c.val id.val stw.val)).arrived = [] ∧
      ∀ a ∈ b.arrived, (t.stewardAt a.1.val).run = .running ∧ (t.stewardAt a.1.val).pc = (s.stewardAt a.1.val).pc + 4

end Sys2Proof.Claims

/-- 11_steward R338, R341, R344, R349, R351, R353 to R359: conditions on the state and the operands under which each of the queued ordering
commands, of the service traps and the return from them, of IDLE, WAIT, WAITF, BARRIER and an illegal word, and of the events that end a wait,
completes with its own effect. That a die-scope barrier belongs to a steward with a context is the model's choice (log 29), and so is that the
stewards of a pair's EC, its slots and the stewards that wait already come before an ordering WAIT (log 74). The same of CTIME, FENCE, LDM and STM, and,
14_power R413, R414, R422 to R425 and 17_electrical R473, of the events of the rails, the temperature and the PLLs and the writes of their levels. -/
def Obligations.OrdersWaitsAndTrapsComplete : Prop :=
  OrdersAndTrapsComplete ∧ DataMemoryAndTimeComplete ∧ SupplyAndClocksComplete

/-! ### Statements of two parts -/

/-- `DivideResults` and `BitCountResults`. -/
def Obligations.DivideAndCountResults : Prop := DivideResults ∧ BitCountResults

/-- `BranchTargets` and `JumpTargetsAndLinks`. -/
def Obligations.ControlTransfers : Prop := BranchTargets ∧ JumpTargetsAndLinks

/-- `ControlRegisterReads` and `ControlRegisterWrites`. -/
def Obligations.ControlRegisters : Prop := ControlRegisterReads ∧ ControlRegisterWrites

/-- `WaitAndWaitf` and `WaitsEnd`. -/
def Obligations.SemaphoreWaits : Prop := WaitAndWaitf ∧ WaitsEnd

/-- `BarrierArrivalAndMisuse` and `DieBarrierReleasesAll`. -/
def Obligations.DieBarriers : Prop := BarrierArrivalAndMisuse ∧ DieBarrierReleasesAll

/-- `ServiceTrapsAndReturn` and `IdleAndTimer`. -/
def Obligations.TrapsIdleAndTimer : Prop := ServiceTrapsAndReturn ∧ IdleAndTimer

/-- `LoadResults` and `LoadFaultsAndRegisterLoads`. -/
def Obligations.Loads : Prop := LoadResults ∧ LoadFaultsAndRegisterLoads

/-- `SemaphoreRegisterWrites` and `RowTableRegisterWrites`. -/
def Obligations.SemaphoreAndRowTableRegisters : Prop := SemaphoreRegisterWrites ∧ RowTableRegisterWrites

/-- `WindowAndWayRegisterWrites` and `PartitionRegisterWrites`. -/
def Obligations.MemoryAndPartitionRegisters : Prop := WindowAndWayRegisterWrites ∧ PartitionRegisterWrites

/-- `WalkerAndTaskRegisterWrites` and `StreamRegisterWrites`. -/
def Obligations.TaskAndStreamRegisters : Prop := WalkerAndTaskRegisterWrites ∧ StreamRegisterWrites
end

