-- ==== Sys2Proof/Laws/State.lean ====
section
/-! SUPPORT. One lemma per field and update of the state: what each named update leaves alone, and what it gives back. -/

namespace Sys2Proof.Machine

variable (s : State)

/-! `setEc` -/

@[simp] theorem setEc_pending (e : Nat) (x : Ec) : (s.setEc e x).pending = s.pending := rfl
@[simp] theorem setEc_time (e : Nat) (x : Ec) : (s.setEc e x).time = s.time := rfl
@[simp] theorem setEc_timeRuns (e : Nat) (x : Ec) : (s.setEc e x).timeRuns = s.timeRuns := rfl
@[simp] theorem setEc_free (e : Nat) (x : Ec) : (s.setEc e x).free = s.free := rfl
@[simp] theorem setEc_mem (e : Nat) (x : Ec) : (s.setEc e x).mem = s.mem := rfl
@[simp] theorem setEc_bad (e : Nat) (x : Ec) : (s.setEc e x).bad = s.bad := rfl
@[simp] theorem setEc_scrub (e : Nat) (x : Ec) : (s.setEc e x).scrub = s.scrub := rfl
@[simp] theorem setEc_refreshes (e : Nat) (x : Ec) : (s.setEc e x).refreshes = s.refreshes := rfl
@[simp] theorem setEc_posted (e : Nat) (x : Ec) : (s.setEc e x).posted = s.posted := rfl
@[simp] theorem setEc_hbmWindows (e : Nat) (x : Ec) : (s.setEc e x).hbmWindows = s.hbmWindows := rfl
@[simp] theorem setEc_lpdWindows (e : Nat) (x : Ec) : (s.setEc e x).lpdWindows = s.lpdWindows := rfl
@[simp] theorem setEc_dies (e : Nat) (x : Ec) : (s.setEc e x).dies = s.dies := rfl
@[simp] theorem setEc_stewards (e : Nat) (x : Ec) : (s.setEc e x).stewards = s.stewards := rfl
@[simp] theorem setEc_slots (e : Nat) (x : Ec) : (s.setEc e x).slots = s.slots := rfl
@[simp] theorem setEc_unitQueues (e : Nat) (x : Ec) : (s.setEc e x).unitQueues = s.unitQueues := rfl
@[simp] theorem setEc_hubMacros (e : Nat) (x : Ec) : (s.setEc e x).hubMacros = s.hubMacros := rfl
@[simp] theorem setEc_hubAccepted (e : Nat) (x : Ec) : (s.setEc e x).hubAccepted = s.hubAccepted := rfl
@[simp] theorem setEc_dieBarriers (e : Nat) (x : Ec) : (s.setEc e x).dieBarriers = s.dieBarriers := rfl
@[simp] theorem setEc_partitions (e : Nat) (x : Ec) : (s.setEc e x).partitions = s.partitions := rfl
@[simp] theorem setEc_contexts (e : Nat) (x : Ec) : (s.setEc e x).contexts = s.contexts := rfl
@[simp] theorem setEc_queues (e : Nat) (x : Ec) : (s.setEc e x).queues = s.queues := rfl
@[simp] theorem setEc_queueTable (e : Nat) (x : Ec) : (s.setEc e x).queueTable = s.queueTable := rfl
@[simp] theorem setEc_ports (e : Nat) (x : Ec) : (s.setEc e x).ports = s.ports := rfl
@[simp] theorem setEc_groups (e : Nat) (x : Ec) : (s.setEc e x).groups = s.groups := rfl
@[simp] theorem setEc_ring (e : Nat) (x : Ec) : (s.setEc e x).ring = s.ring := rfl
@[simp] theorem setEc_sync (e : Nat) (x : Ec) : (s.setEc e x).sync = s.sync := rfl
@[simp] theorem setEc_pcie (e : Nat) (x : Ec) : (s.setEc e x).pcie = s.pcie := rfl
@[simp] theorem setEc_doe (e : Nat) (x : Ec) : (s.setEc e x).doe = s.doe := rfl
@[simp] theorem setEc_power (e : Nat) (x : Ec) : (s.setEc e x).power = s.power := rfl
@[simp] theorem setEc_trust (e : Nat) (x : Ec) : (s.setEc e x).trust = s.trust := rfl
@[simp] theorem setEc_snap (e : Nat) (x : Ec) : (s.setEc e x).snap = s.snap := rfl
@[simp] theorem setEc_log (e : Nat) (x : Ec) : (s.setEc e x).log = s.log := rfl
@[simp] theorem setEc_logHead (e : Nat) (x : Ec) : (s.setEc e x).logHead = s.logHead := rfl
@[simp] theorem setEc_hubCounters (e : Nat) (x : Ec) : (s.setEc e x).hubCounters = s.hubCounters := rfl
@[simp] theorem setEc_routeCounters (e : Nat) (x : Ec) : (s.setEc e x).routeCounters = s.routeCounters := rfl
@[simp] theorem setEc_linkCounters (e : Nat) (x : Ec) : (s.setEc e x).linkCounters = s.linkCounters := rfl

/-! `setDie` -/

@[simp] theorem setDie_pending (d : Nat) (x : Die) : (s.setDie d x).pending = s.pending := rfl
@[simp] theorem setDie_time (d : Nat) (x : Die) : (s.setDie d x).time = s.time := rfl
@[simp] theorem setDie_timeRuns (d : Nat) (x : Die) : (s.setDie d x).timeRuns = s.timeRuns := rfl
@[simp] theorem setDie_free (d : Nat) (x : Die) : (s.setDie d x).free = s.free := rfl
@[simp] theorem setDie_mem (d : Nat) (x : Die) : (s.setDie d x).mem = s.mem := rfl
@[simp] theorem setDie_bad (d : Nat) (x : Die) : (s.setDie d x).bad = s.bad := rfl
@[simp] theorem setDie_scrub (d : Nat) (x : Die) : (s.setDie d x).scrub = s.scrub := rfl
@[simp] theorem setDie_refreshes (d : Nat) (x : Die) : (s.setDie d x).refreshes = s.refreshes := rfl
@[simp] theorem setDie_posted (d : Nat) (x : Die) : (s.setDie d x).posted = s.posted := rfl
@[simp] theorem setDie_hbmWindows (d : Nat) (x : Die) : (s.setDie d x).hbmWindows = s.hbmWindows := rfl
@[simp] theorem setDie_lpdWindows (d : Nat) (x : Die) : (s.setDie d x).lpdWindows = s.lpdWindows := rfl
@[simp] theorem setDie_ecs (d : Nat) (x : Die) : (s.setDie d x).ecs = s.ecs := rfl
@[simp] theorem setDie_stewards (d : Nat) (x : Die) : (s.setDie d x).stewards = s.stewards := rfl
@[simp] theorem setDie_slots (d : Nat) (x : Die) : (s.setDie d x).slots = s.slots := rfl
@[simp] theorem setDie_unitQueues (d : Nat) (x : Die) : (s.setDie d x).unitQueues = s.unitQueues := rfl
@[simp] theorem setDie_hubMacros (d : Nat) (x : Die) : (s.setDie d x).hubMacros = s.hubMacros := rfl
@[simp] theorem setDie_hubAccepted (d : Nat) (x : Die) : (s.setDie d x).hubAccepted = s.hubAccepted := rfl
@[simp] theorem setDie_dieBarriers (d : Nat) (x : Die) : (s.setDie d x).dieBarriers = s.dieBarriers := rfl
@[simp] theorem setDie_partitions (d : Nat) (x : Die) : (s.setDie d x).partitions = s.partitions := rfl
@[simp] theorem setDie_contexts (d : Nat) (x : Die) : (s.setDie d x).contexts = s.contexts := rfl
@[simp] theorem setDie_queues (d : Nat) (x : Die) : (s.setDie d x).queues = s.queues := rfl
@[simp] theorem setDie_queueTable (d : Nat) (x : Die) : (s.setDie d x).queueTable = s.queueTable := rfl
@[simp] theorem setDie_ports (d : Nat) (x : Die) : (s.setDie d x).ports = s.ports := rfl
@[simp] theorem setDie_groups (d : Nat) (x : Die) : (s.setDie d x).groups = s.groups := rfl
@[simp] theorem setDie_ring (d : Nat) (x : Die) : (s.setDie d x).ring = s.ring := rfl
@[simp] theorem setDie_sync (d : Nat) (x : Die) : (s.setDie d x).sync = s.sync := rfl
@[simp] theorem setDie_pcie (d : Nat) (x : Die) : (s.setDie d x).pcie = s.pcie := rfl
@[simp] theorem setDie_doe (d : Nat) (x : Die) : (s.setDie d x).doe = s.doe := rfl
@[simp] theorem setDie_power (d : Nat) (x : Die) : (s.setDie d x).power = s.power := rfl
@[simp] theorem setDie_trust (d : Nat) (x : Die) : (s.setDie d x).trust = s.trust := rfl
@[simp] theorem setDie_snap (d : Nat) (x : Die) : (s.setDie d x).snap = s.snap := rfl
@[simp] theorem setDie_log (d : Nat) (x : Die) : (s.setDie d x).log = s.log := rfl
@[simp] theorem setDie_logHead (d : Nat) (x : Die) : (s.setDie d x).logHead = s.logHead := rfl
@[simp] theorem setDie_hubCounters (d : Nat) (x : Die) : (s.setDie d x).hubCounters = s.hubCounters := rfl
@[simp] theorem setDie_routeCounters (d : Nat) (x : Die) : (s.setDie d x).routeCounters = s.routeCounters := rfl
@[simp] theorem setDie_linkCounters (d : Nat) (x : Die) : (s.setDie d x).linkCounters = s.linkCounters := rfl

/-! `setSteward` -/

@[simp] theorem setSteward_pending (k : Nat) (x : Steward) : (s.setSteward k x).pending = s.pending := rfl
@[simp] theorem setSteward_time (k : Nat) (x : Steward) : (s.setSteward k x).time = s.time := rfl
@[simp] theorem setSteward_timeRuns (k : Nat) (x : Steward) : (s.setSteward k x).timeRuns = s.timeRuns := rfl
@[simp] theorem setSteward_free (k : Nat) (x : Steward) : (s.setSteward k x).free = s.free := rfl
@[simp] theorem setSteward_mem (k : Nat) (x : Steward) : (s.setSteward k x).mem = s.mem := rfl
@[simp] theorem setSteward_bad (k : Nat) (x : Steward) : (s.setSteward k x).bad = s.bad := rfl
@[simp] theorem setSteward_scrub (k : Nat) (x : Steward) : (s.setSteward k x).scrub = s.scrub := rfl
@[simp] theorem setSteward_refreshes (k : Nat) (x : Steward) : (s.setSteward k x).refreshes = s.refreshes := rfl
@[simp] theorem setSteward_posted (k : Nat) (x : Steward) : (s.setSteward k x).posted = s.posted := rfl
@[simp] theorem setSteward_hbmWindows (k : Nat) (x : Steward) : (s.setSteward k x).hbmWindows = s.hbmWindows := rfl
@[simp] theorem setSteward_lpdWindows (k : Nat) (x : Steward) : (s.setSteward k x).lpdWindows = s.lpdWindows := rfl
@[simp] theorem setSteward_dies (k : Nat) (x : Steward) : (s.setSteward k x).dies = s.dies := rfl
@[simp] theorem setSteward_ecs (k : Nat) (x : Steward) : (s.setSteward k x).ecs = s.ecs := rfl
@[simp] theorem setSteward_slots (k : Nat) (x : Steward) : (s.setSteward k x).slots = s.slots := rfl
@[simp] theorem setSteward_unitQueues (k : Nat) (x : Steward) : (s.setSteward k x).unitQueues = s.unitQueues := rfl
@[simp] theorem setSteward_hubMacros (k : Nat) (x : Steward) : (s.setSteward k x).hubMacros = s.hubMacros := rfl
@[simp] theorem setSteward_hubAccepted (k : Nat) (x : Steward) : (s.setSteward k x).hubAccepted = s.hubAccepted := rfl
@[simp] theorem setSteward_dieBarriers (k : Nat) (x : Steward) : (s.setSteward k x).dieBarriers = s.dieBarriers := rfl
@[simp] theorem setSteward_partitions (k : Nat) (x : Steward) : (s.setSteward k x).partitions = s.partitions := rfl
@[simp] theorem setSteward_contexts (k : Nat) (x : Steward) : (s.setSteward k x).contexts = s.contexts := rfl
@[simp] theorem setSteward_queues (k : Nat) (x : Steward) : (s.setSteward k x).queues = s.queues := rfl
@[simp] theorem setSteward_queueTable (k : Nat) (x : Steward) : (s.setSteward k x).queueTable = s.queueTable := rfl
@[simp] theorem setSteward_ports (k : Nat) (x : Steward) : (s.setSteward k x).ports = s.ports := rfl
@[simp] theorem setSteward_groups (k : Nat) (x : Steward) : (s.setSteward k x).groups = s.groups := rfl
@[simp] theorem setSteward_ring (k : Nat) (x : Steward) : (s.setSteward k x).ring = s.ring := rfl
@[simp] theorem setSteward_sync (k : Nat) (x : Steward) : (s.setSteward k x).sync = s.sync := rfl
@[simp] theorem setSteward_pcie (k : Nat) (x : Steward) : (s.setSteward k x).pcie = s.pcie := rfl
@[simp] theorem setSteward_doe (k : Nat) (x : Steward) : (s.setSteward k x).doe = s.doe := rfl
@[simp] theorem setSteward_power (k : Nat) (x : Steward) : (s.setSteward k x).power = s.power := rfl
@[simp] theorem setSteward_trust (k : Nat) (x : Steward) : (s.setSteward k x).trust = s.trust := rfl
@[simp] theorem setSteward_snap (k : Nat) (x : Steward) : (s.setSteward k x).snap = s.snap := rfl
@[simp] theorem setSteward_log (k : Nat) (x : Steward) : (s.setSteward k x).log = s.log := rfl
@[simp] theorem setSteward_logHead (k : Nat) (x : Steward) : (s.setSteward k x).logHead = s.logHead := rfl
@[simp] theorem setSteward_hubCounters (k : Nat) (x : Steward) : (s.setSteward k x).hubCounters = s.hubCounters := rfl
@[simp] theorem setSteward_routeCounters (k : Nat) (x : Steward) : (s.setSteward k x).routeCounters = s.routeCounters := rfl
@[simp] theorem setSteward_linkCounters (k : Nat) (x : Steward) : (s.setSteward k x).linkCounters = s.linkCounters := rfl

/-! `setSlot` -/

@[simp] theorem setSlot_pending (u i : Nat) (x : Slot) : (s.setSlot u i x).pending = s.pending := rfl
@[simp] theorem setSlot_time (u i : Nat) (x : Slot) : (s.setSlot u i x).time = s.time := rfl
@[simp] theorem setSlot_timeRuns (u i : Nat) (x : Slot) : (s.setSlot u i x).timeRuns = s.timeRuns := rfl
@[simp] theorem setSlot_free (u i : Nat) (x : Slot) : (s.setSlot u i x).free = s.free := rfl
@[simp] theorem setSlot_mem (u i : Nat) (x : Slot) : (s.setSlot u i x).mem = s.mem := rfl
@[simp] theorem setSlot_bad (u i : Nat) (x : Slot) : (s.setSlot u i x).bad = s.bad := rfl
@[simp] theorem setSlot_scrub (u i : Nat) (x : Slot) : (s.setSlot u i x).scrub = s.scrub := rfl
@[simp] theorem setSlot_refreshes (u i : Nat) (x : Slot) : (s.setSlot u i x).refreshes = s.refreshes := rfl
@[simp] theorem setSlot_posted (u i : Nat) (x : Slot) : (s.setSlot u i x).posted = s.posted := rfl
@[simp] theorem setSlot_hbmWindows (u i : Nat) (x : Slot) : (s.setSlot u i x).hbmWindows = s.hbmWindows := rfl
@[simp] theorem setSlot_lpdWindows (u i : Nat) (x : Slot) : (s.setSlot u i x).lpdWindows = s.lpdWindows := rfl
@[simp] theorem setSlot_dies (u i : Nat) (x : Slot) : (s.setSlot u i x).dies = s.dies := rfl
@[simp] theorem setSlot_ecs (u i : Nat) (x : Slot) : (s.setSlot u i x).ecs = s.ecs := rfl
@[simp] theorem setSlot_stewards (u i : Nat) (x : Slot) : (s.setSlot u i x).stewards = s.stewards := rfl
@[simp] theorem setSlot_unitQueues (u i : Nat) (x : Slot) : (s.setSlot u i x).unitQueues = s.unitQueues := rfl
@[simp] theorem setSlot_hubMacros (u i : Nat) (x : Slot) : (s.setSlot u i x).hubMacros = s.hubMacros := rfl
@[simp] theorem setSlot_hubAccepted (u i : Nat) (x : Slot) : (s.setSlot u i x).hubAccepted = s.hubAccepted := rfl
@[simp] theorem setSlot_dieBarriers (u i : Nat) (x : Slot) : (s.setSlot u i x).dieBarriers = s.dieBarriers := rfl
@[simp] theorem setSlot_partitions (u i : Nat) (x : Slot) : (s.setSlot u i x).partitions = s.partitions := rfl
@[simp] theorem setSlot_contexts (u i : Nat) (x : Slot) : (s.setSlot u i x).contexts = s.contexts := rfl
@[simp] theorem setSlot_queues (u i : Nat) (x : Slot) : (s.setSlot u i x).queues = s.queues := rfl
@[simp] theorem setSlot_queueTable (u i : Nat) (x : Slot) : (s.setSlot u i x).queueTable = s.queueTable := rfl
@[simp] theorem setSlot_ports (u i : Nat) (x : Slot) : (s.setSlot u i x).ports = s.ports := rfl
@[simp] theorem setSlot_groups (u i : Nat) (x : Slot) : (s.setSlot u i x).groups = s.groups := rfl
@[simp] theorem setSlot_ring (u i : Nat) (x : Slot) : (s.setSlot u i x).ring = s.ring := rfl
@[simp] theorem setSlot_sync (u i : Nat) (x : Slot) : (s.setSlot u i x).sync = s.sync := rfl
@[simp] theorem setSlot_pcie (u i : Nat) (x : Slot) : (s.setSlot u i x).pcie = s.pcie := rfl
@[simp] theorem setSlot_doe (u i : Nat) (x : Slot) : (s.setSlot u i x).doe = s.doe := rfl
@[simp] theorem setSlot_power (u i : Nat) (x : Slot) : (s.setSlot u i x).power = s.power := rfl
@[simp] theorem setSlot_trust (u i : Nat) (x : Slot) : (s.setSlot u i x).trust = s.trust := rfl
@[simp] theorem setSlot_snap (u i : Nat) (x : Slot) : (s.setSlot u i x).snap = s.snap := rfl
@[simp] theorem setSlot_log (u i : Nat) (x : Slot) : (s.setSlot u i x).log = s.log := rfl
@[simp] theorem setSlot_logHead (u i : Nat) (x : Slot) : (s.setSlot u i x).logHead = s.logHead := rfl
@[simp] theorem setSlot_hubCounters (u i : Nat) (x : Slot) : (s.setSlot u i x).hubCounters = s.hubCounters := rfl
@[simp] theorem setSlot_routeCounters (u i : Nat) (x : Slot) : (s.setSlot u i x).routeCounters = s.routeCounters := rfl
@[simp] theorem setSlot_linkCounters (u i : Nat) (x : Slot) : (s.setSlot u i x).linkCounters = s.linkCounters := rfl

/-! `setPart` -/

@[simp] theorem setPart_pending (p : Nat) (x : Partition) : (s.setPart p x).pending = s.pending := rfl
@[simp] theorem setPart_time (p : Nat) (x : Partition) : (s.setPart p x).time = s.time := rfl
@[simp] theorem setPart_timeRuns (p : Nat) (x : Partition) : (s.setPart p x).timeRuns = s.timeRuns := rfl
@[simp] theorem setPart_free (p : Nat) (x : Partition) : (s.setPart p x).free = s.free := rfl
@[simp] theorem setPart_mem (p : Nat) (x : Partition) : (s.setPart p x).mem = s.mem := rfl
@[simp] theorem setPart_bad (p : Nat) (x : Partition) : (s.setPart p x).bad = s.bad := rfl
@[simp] theorem setPart_scrub (p : Nat) (x : Partition) : (s.setPart p x).scrub = s.scrub := rfl
@[simp] theorem setPart_refreshes (p : Nat) (x : Partition) : (s.setPart p x).refreshes = s.refreshes := rfl
@[simp] theorem setPart_posted (p : Nat) (x : Partition) : (s.setPart p x).posted = s.posted := rfl
@[simp] theorem setPart_hbmWindows (p : Nat) (x : Partition) : (s.setPart p x).hbmWindows = s.hbmWindows := rfl
@[simp] theorem setPart_lpdWindows (p : Nat) (x : Partition) : (s.setPart p x).lpdWindows = s.lpdWindows := rfl
@[simp] theorem setPart_dies (p : Nat) (x : Partition) : (s.setPart p x).dies = s.dies := rfl
@[simp] theorem setPart_ecs (p : Nat) (x : Partition) : (s.setPart p x).ecs = s.ecs := rfl
@[simp] theorem setPart_stewards (p : Nat) (x : Partition) : (s.setPart p x).stewards = s.stewards := rfl
@[simp] theorem setPart_slots (p : Nat) (x : Partition) : (s.setPart p x).slots = s.slots := rfl
@[simp] theorem setPart_unitQueues (p : Nat) (x : Partition) : (s.setPart p x).unitQueues = s.unitQueues := rfl
@[simp] theorem setPart_hubMacros (p : Nat) (x : Partition) : (s.setPart p x).hubMacros = s.hubMacros := rfl
@[simp] theorem setPart_hubAccepted (p : Nat) (x : Partition) : (s.setPart p x).hubAccepted = s.hubAccepted := rfl
@[simp] theorem setPart_dieBarriers (p : Nat) (x : Partition) : (s.setPart p x).dieBarriers = s.dieBarriers := rfl
@[simp] theorem setPart_contexts (p : Nat) (x : Partition) : (s.setPart p x).contexts = s.contexts := rfl
@[simp] theorem setPart_queues (p : Nat) (x : Partition) : (s.setPart p x).queues = s.queues := rfl
@[simp] theorem setPart_queueTable (p : Nat) (x : Partition) : (s.setPart p x).queueTable = s.queueTable := rfl
@[simp] theorem setPart_ports (p : Nat) (x : Partition) : (s.setPart p x).ports = s.ports := rfl
@[simp] theorem setPart_groups (p : Nat) (x : Partition) : (s.setPart p x).groups = s.groups := rfl
@[simp] theorem setPart_ring (p : Nat) (x : Partition) : (s.setPart p x).ring = s.ring := rfl
@[simp] theorem setPart_sync (p : Nat) (x : Partition) : (s.setPart p x).sync = s.sync := rfl
@[simp] theorem setPart_pcie (p : Nat) (x : Partition) : (s.setPart p x).pcie = s.pcie := rfl
@[simp] theorem setPart_doe (p : Nat) (x : Partition) : (s.setPart p x).doe = s.doe := rfl
@[simp] theorem setPart_power (p : Nat) (x : Partition) : (s.setPart p x).power = s.power := rfl
@[simp] theorem setPart_trust (p : Nat) (x : Partition) : (s.setPart p x).trust = s.trust := rfl
@[simp] theorem setPart_snap (p : Nat) (x : Partition) : (s.setPart p x).snap = s.snap := rfl
@[simp] theorem setPart_log (p : Nat) (x : Partition) : (s.setPart p x).log = s.log := rfl
@[simp] theorem setPart_logHead (p : Nat) (x : Partition) : (s.setPart p x).logHead = s.logHead := rfl
@[simp] theorem setPart_hubCounters (p : Nat) (x : Partition) : (s.setPart p x).hubCounters = s.hubCounters := rfl
@[simp] theorem setPart_routeCounters (p : Nat) (x : Partition) : (s.setPart p x).routeCounters = s.routeCounters := rfl
@[simp] theorem setPart_linkCounters (p : Nat) (x : Partition) : (s.setPart p x).linkCounters = s.linkCounters := rfl

/-! `setCtx` -/

@[simp] theorem setCtx_pending (c : Nat) (x : Context) : (s.setCtx c x).pending = s.pending := rfl
@[simp] theorem setCtx_time (c : Nat) (x : Context) : (s.setCtx c x).time = s.time := rfl
@[simp] theorem setCtx_timeRuns (c : Nat) (x : Context) : (s.setCtx c x).timeRuns = s.timeRuns := rfl
@[simp] theorem setCtx_free (c : Nat) (x : Context) : (s.setCtx c x).free = s.free := rfl
@[simp] theorem setCtx_mem (c : Nat) (x : Context) : (s.setCtx c x).mem = s.mem := rfl
@[simp] theorem setCtx_bad (c : Nat) (x : Context) : (s.setCtx c x).bad = s.bad := rfl
@[simp] theorem setCtx_scrub (c : Nat) (x : Context) : (s.setCtx c x).scrub = s.scrub := rfl
@[simp] theorem setCtx_refreshes (c : Nat) (x : Context) : (s.setCtx c x).refreshes = s.refreshes := rfl
@[simp] theorem setCtx_posted (c : Nat) (x : Context) : (s.setCtx c x).posted = s.posted := rfl
@[simp] theorem setCtx_hbmWindows (c : Nat) (x : Context) : (s.setCtx c x).hbmWindows = s.hbmWindows := rfl
@[simp] theorem setCtx_lpdWindows (c : Nat) (x : Context) : (s.setCtx c x).lpdWindows = s.lpdWindows := rfl
@[simp] theorem setCtx_dies (c : Nat) (x : Context) : (s.setCtx c x).dies = s.dies := rfl
@[simp] theorem setCtx_ecs (c : Nat) (x : Context) : (s.setCtx c x).ecs = s.ecs := rfl
@[simp] theorem setCtx_stewards (c : Nat) (x : Context) : (s.setCtx c x).stewards = s.stewards := rfl
@[simp] theorem setCtx_slots (c : Nat) (x : Context) : (s.setCtx c x).slots = s.slots := rfl
@[simp] theorem setCtx_unitQueues (c : Nat) (x : Context) : (s.setCtx c x).unitQueues = s.unitQueues := rfl
@[simp] theorem setCtx_hubMacros (c : Nat) (x : Context) : (s.setCtx c x).hubMacros = s.hubMacros := rfl
@[simp] theorem setCtx_hubAccepted (c : Nat) (x : Context) : (s.setCtx c x).hubAccepted = s.hubAccepted := rfl
@[simp] theorem setCtx_dieBarriers (c : Nat) (x : Context) : (s.setCtx c x).dieBarriers = s.dieBarriers := rfl
@[simp] theorem setCtx_partitions (c : Nat) (x : Context) : (s.setCtx c x).partitions = s.partitions := rfl
@[simp] theorem setCtx_queues (c : Nat) (x : Context) : (s.setCtx c x).queues = s.queues := rfl
@[simp] theorem setCtx_queueTable (c : Nat) (x : Context) : (s.setCtx c x).queueTable = s.queueTable := rfl
@[simp] theorem setCtx_ports (c : Nat) (x : Context) : (s.setCtx c x).ports = s.ports := rfl
@[simp] theorem setCtx_groups (c : Nat) (x : Context) : (s.setCtx c x).groups = s.groups := rfl
@[simp] theorem setCtx_ring (c : Nat) (x : Context) : (s.setCtx c x).ring = s.ring := rfl
@[simp] theorem setCtx_sync (c : Nat) (x : Context) : (s.setCtx c x).sync = s.sync := rfl
@[simp] theorem setCtx_pcie (c : Nat) (x : Context) : (s.setCtx c x).pcie = s.pcie := rfl
@[simp] theorem setCtx_doe (c : Nat) (x : Context) : (s.setCtx c x).doe = s.doe := rfl
@[simp] theorem setCtx_power (c : Nat) (x : Context) : (s.setCtx c x).power = s.power := rfl
@[simp] theorem setCtx_trust (c : Nat) (x : Context) : (s.setCtx c x).trust = s.trust := rfl
@[simp] theorem setCtx_snap (c : Nat) (x : Context) : (s.setCtx c x).snap = s.snap := rfl
@[simp] theorem setCtx_log (c : Nat) (x : Context) : (s.setCtx c x).log = s.log := rfl
@[simp] theorem setCtx_logHead (c : Nat) (x : Context) : (s.setCtx c x).logHead = s.logHead := rfl
@[simp] theorem setCtx_hubCounters (c : Nat) (x : Context) : (s.setCtx c x).hubCounters = s.hubCounters := rfl
@[simp] theorem setCtx_routeCounters (c : Nat) (x : Context) : (s.setCtx c x).routeCounters = s.routeCounters := rfl
@[simp] theorem setCtx_linkCounters (c : Nat) (x : Context) : (s.setCtx c x).linkCounters = s.linkCounters := rfl

/-! `setQueue` -/

@[simp] theorem setQueue_pending (q : Nat) (x : Queue) : (s.setQueue q x).pending = s.pending := rfl
@[simp] theorem setQueue_time (q : Nat) (x : Queue) : (s.setQueue q x).time = s.time := rfl
@[simp] theorem setQueue_timeRuns (q : Nat) (x : Queue) : (s.setQueue q x).timeRuns = s.timeRuns := rfl
@[simp] theorem setQueue_free (q : Nat) (x : Queue) : (s.setQueue q x).free = s.free := rfl
@[simp] theorem setQueue_mem (q : Nat) (x : Queue) : (s.setQueue q x).mem = s.mem := rfl
@[simp] theorem setQueue_bad (q : Nat) (x : Queue) : (s.setQueue q x).bad = s.bad := rfl
@[simp] theorem setQueue_scrub (q : Nat) (x : Queue) : (s.setQueue q x).scrub = s.scrub := rfl
@[simp] theorem setQueue_refreshes (q : Nat) (x : Queue) : (s.setQueue q x).refreshes = s.refreshes := rfl
@[simp] theorem setQueue_posted (q : Nat) (x : Queue) : (s.setQueue q x).posted = s.posted := rfl
@[simp] theorem setQueue_hbmWindows (q : Nat) (x : Queue) : (s.setQueue q x).hbmWindows = s.hbmWindows := rfl
@[simp] theorem setQueue_lpdWindows (q : Nat) (x : Queue) : (s.setQueue q x).lpdWindows = s.lpdWindows := rfl
@[simp] theorem setQueue_dies (q : Nat) (x : Queue) : (s.setQueue q x).dies = s.dies := rfl
@[simp] theorem setQueue_ecs (q : Nat) (x : Queue) : (s.setQueue q x).ecs = s.ecs := rfl
@[simp] theorem setQueue_stewards (q : Nat) (x : Queue) : (s.setQueue q x).stewards = s.stewards := rfl
@[simp] theorem setQueue_slots (q : Nat) (x : Queue) : (s.setQueue q x).slots = s.slots := rfl
@[simp] theorem setQueue_unitQueues (q : Nat) (x : Queue) : (s.setQueue q x).unitQueues = s.unitQueues := rfl
@[simp] theorem setQueue_hubMacros (q : Nat) (x : Queue) : (s.setQueue q x).hubMacros = s.hubMacros := rfl
@[simp] theorem setQueue_hubAccepted (q : Nat) (x : Queue) : (s.setQueue q x).hubAccepted = s.hubAccepted := rfl
@[simp] theorem setQueue_dieBarriers (q : Nat) (x : Queue) : (s.setQueue q x).dieBarriers = s.dieBarriers := rfl
@[simp] theorem setQueue_partitions (q : Nat) (x : Queue) : (s.setQueue q x).partitions = s.partitions := rfl
@[simp] theorem setQueue_queueTable (q : Nat) (x : Queue) : (s.setQueue q x).queueTable = s.queueTable := rfl
@[simp] theorem setQueue_contexts (q : Nat) (x : Queue) : (s.setQueue q x).contexts = s.contexts := rfl
@[simp] theorem setQueue_ports (q : Nat) (x : Queue) : (s.setQueue q x).ports = s.ports := rfl
@[simp] theorem setQueue_groups (q : Nat) (x : Queue) : (s.setQueue q x).groups = s.groups := rfl
@[simp] theorem setQueue_ring (q : Nat) (x : Queue) : (s.setQueue q x).ring = s.ring := rfl
@[simp] theorem setQueue_sync (q : Nat) (x : Queue) : (s.setQueue q x).sync = s.sync := rfl
@[simp] theorem setQueue_pcie (q : Nat) (x : Queue) : (s.setQueue q x).pcie = s.pcie := rfl
@[simp] theorem setQueue_doe (q : Nat) (x : Queue) : (s.setQueue q x).doe = s.doe := rfl
@[simp] theorem setQueue_power (q : Nat) (x : Queue) : (s.setQueue q x).power = s.power := rfl
@[simp] theorem setQueue_trust (q : Nat) (x : Queue) : (s.setQueue q x).trust = s.trust := rfl
@[simp] theorem setQueue_snap (q : Nat) (x : Queue) : (s.setQueue q x).snap = s.snap := rfl
@[simp] theorem setQueue_log (q : Nat) (x : Queue) : (s.setQueue q x).log = s.log := rfl
@[simp] theorem setQueue_logHead (q : Nat) (x : Queue) : (s.setQueue q x).logHead = s.logHead := rfl
@[simp] theorem setQueue_hubCounters (q : Nat) (x : Queue) : (s.setQueue q x).hubCounters = s.hubCounters := rfl
@[simp] theorem setQueue_routeCounters (q : Nat) (x : Queue) : (s.setQueue q x).routeCounters = s.routeCounters := rfl
@[simp] theorem setQueue_linkCounters (q : Nat) (x : Queue) : (s.setQueue q x).linkCounters = s.linkCounters := rfl

/-! `setPort` -/

@[simp] theorem setPort_pending (n : Nat) (x : Port) : (s.setPort n x).pending = s.pending := rfl
@[simp] theorem setPort_time (n : Nat) (x : Port) : (s.setPort n x).time = s.time := rfl
@[simp] theorem setPort_timeRuns (n : Nat) (x : Port) : (s.setPort n x).timeRuns = s.timeRuns := rfl
@[simp] theorem setPort_free (n : Nat) (x : Port) : (s.setPort n x).free = s.free := rfl
@[simp] theorem setPort_mem (n : Nat) (x : Port) : (s.setPort n x).mem = s.mem := rfl
@[simp] theorem setPort_bad (n : Nat) (x : Port) : (s.setPort n x).bad = s.bad := rfl
@[simp] theorem setPort_scrub (n : Nat) (x : Port) : (s.setPort n x).scrub = s.scrub := rfl
@[simp] theorem setPort_refreshes (n : Nat) (x : Port) : (s.setPort n x).refreshes = s.refreshes := rfl
@[simp] theorem setPort_posted (n : Nat) (x : Port) : (s.setPort n x).posted = s.posted := rfl
@[simp] theorem setPort_hbmWindows (n : Nat) (x : Port) : (s.setPort n x).hbmWindows = s.hbmWindows := rfl
@[simp] theorem setPort_lpdWindows (n : Nat) (x : Port) : (s.setPort n x).lpdWindows = s.lpdWindows := rfl
@[simp] theorem setPort_dies (n : Nat) (x : Port) : (s.setPort n x).dies = s.dies := rfl
@[simp] theorem setPort_ecs (n : Nat) (x : Port) : (s.setPort n x).ecs = s.ecs := rfl
@[simp] theorem setPort_stewards (n : Nat) (x : Port) : (s.setPort n x).stewards = s.stewards := rfl
@[simp] theorem setPort_slots (n : Nat) (x : Port) : (s.setPort n x).slots = s.slots := rfl
@[simp] theorem setPort_unitQueues (n : Nat) (x : Port) : (s.setPort n x).unitQueues = s.unitQueues := rfl
@[simp] theorem setPort_hubMacros (n : Nat) (x : Port) : (s.setPort n x).hubMacros = s.hubMacros := rfl
@[simp] theorem setPort_hubAccepted (n : Nat) (x : Port) : (s.setPort n x).hubAccepted = s.hubAccepted := rfl
@[simp] theorem setPort_dieBarriers (n : Nat) (x : Port) : (s.setPort n x).dieBarriers = s.dieBarriers := rfl
@[simp] theorem setPort_partitions (n : Nat) (x : Port) : (s.setPort n x).partitions = s.partitions := rfl
@[simp] theorem setPort_contexts (n : Nat) (x : Port) : (s.setPort n x).contexts = s.contexts := rfl
@[simp] theorem setPort_queues (n : Nat) (x : Port) : (s.setPort n x).queues = s.queues := rfl
@[simp] theorem setPort_queueTable (n : Nat) (x : Port) : (s.setPort n x).queueTable = s.queueTable := rfl
@[simp] theorem setPort_groups (n : Nat) (x : Port) : (s.setPort n x).groups = s.groups := rfl
@[simp] theorem setPort_ring (n : Nat) (x : Port) : (s.setPort n x).ring = s.ring := rfl
@[simp] theorem setPort_sync (n : Nat) (x : Port) : (s.setPort n x).sync = s.sync := rfl
@[simp] theorem setPort_pcie (n : Nat) (x : Port) : (s.setPort n x).pcie = s.pcie := rfl
@[simp] theorem setPort_doe (n : Nat) (x : Port) : (s.setPort n x).doe = s.doe := rfl
@[simp] theorem setPort_power (n : Nat) (x : Port) : (s.setPort n x).power = s.power := rfl
@[simp] theorem setPort_trust (n : Nat) (x : Port) : (s.setPort n x).trust = s.trust := rfl
@[simp] theorem setPort_snap (n : Nat) (x : Port) : (s.setPort n x).snap = s.snap := rfl
@[simp] theorem setPort_log (n : Nat) (x : Port) : (s.setPort n x).log = s.log := rfl
@[simp] theorem setPort_logHead (n : Nat) (x : Port) : (s.setPort n x).logHead = s.logHead := rfl
@[simp] theorem setPort_hubCounters (n : Nat) (x : Port) : (s.setPort n x).hubCounters = s.hubCounters := rfl
@[simp] theorem setPort_routeCounters (n : Nat) (x : Port) : (s.setPort n x).routeCounters = s.routeCounters := rfl
@[simp] theorem setPort_linkCounters (n : Nat) (x : Port) : (s.setPort n x).linkCounters = s.linkCounters := rfl

/-! `setGroup` -/

@[simp] theorem setGroup_pending (g : Nat) (x : Group) : (s.setGroup g x).pending = s.pending := rfl
@[simp] theorem setGroup_time (g : Nat) (x : Group) : (s.setGroup g x).time = s.time := rfl
@[simp] theorem setGroup_timeRuns (g : Nat) (x : Group) : (s.setGroup g x).timeRuns = s.timeRuns := rfl
@[simp] theorem setGroup_free (g : Nat) (x : Group) : (s.setGroup g x).free = s.free := rfl
@[simp] theorem setGroup_mem (g : Nat) (x : Group) : (s.setGroup g x).mem = s.mem := rfl
@[simp] theorem setGroup_bad (g : Nat) (x : Group) : (s.setGroup g x).bad = s.bad := rfl
@[simp] theorem setGroup_scrub (g : Nat) (x : Group) : (s.setGroup g x).scrub = s.scrub := rfl
@[simp] theorem setGroup_refreshes (g : Nat) (x : Group) : (s.setGroup g x).refreshes = s.refreshes := rfl
@[simp] theorem setGroup_posted (g : Nat) (x : Group) : (s.setGroup g x).posted = s.posted := rfl
@[simp] theorem setGroup_hbmWindows (g : Nat) (x : Group) : (s.setGroup g x).hbmWindows = s.hbmWindows := rfl
@[simp] theorem setGroup_lpdWindows (g : Nat) (x : Group) : (s.setGroup g x).lpdWindows = s.lpdWindows := rfl
@[simp] theorem setGroup_dies (g : Nat) (x : Group) : (s.setGroup g x).dies = s.dies := rfl
@[simp] theorem setGroup_ecs (g : Nat) (x : Group) : (s.setGroup g x).ecs = s.ecs := rfl
@[simp] theorem setGroup_stewards (g : Nat) (x : Group) : (s.setGroup g x).stewards = s.stewards := rfl
@[simp] theorem setGroup_slots (g : Nat) (x : Group) : (s.setGroup g x).slots = s.slots := rfl
@[simp] theorem setGroup_unitQueues (g : Nat) (x : Group) : (s.setGroup g x).unitQueues = s.unitQueues := rfl
@[simp] theorem setGroup_hubMacros (g : Nat) (x : Group) : (s.setGroup g x).hubMacros = s.hubMacros := rfl
@[simp] theorem setGroup_hubAccepted (g : Nat) (x : Group) : (s.setGroup g x).hubAccepted = s.hubAccepted := rfl
@[simp] theorem setGroup_dieBarriers (g : Nat) (x : Group) : (s.setGroup g x).dieBarriers = s.dieBarriers := rfl
@[simp] theorem setGroup_partitions (g : Nat) (x : Group) : (s.setGroup g x).partitions = s.partitions := rfl
@[simp] theorem setGroup_contexts (g : Nat) (x : Group) : (s.setGroup g x).contexts = s.contexts := rfl
@[simp] theorem setGroup_queues (g : Nat) (x : Group) : (s.setGroup g x).queues = s.queues := rfl
@[simp] theorem setGroup_queueTable (g : Nat) (x : Group) : (s.setGroup g x).queueTable = s.queueTable := rfl
@[simp] theorem setGroup_ports (g : Nat) (x : Group) : (s.setGroup g x).ports = s.ports := rfl
@[simp] theorem setGroup_ring (g : Nat) (x : Group) : (s.setGroup g x).ring = s.ring := rfl
@[simp] theorem setGroup_sync (g : Nat) (x : Group) : (s.setGroup g x).sync = s.sync := rfl
@[simp] theorem setGroup_pcie (g : Nat) (x : Group) : (s.setGroup g x).pcie = s.pcie := rfl
@[simp] theorem setGroup_doe (g : Nat) (x : Group) : (s.setGroup g x).doe = s.doe := rfl
@[simp] theorem setGroup_power (g : Nat) (x : Group) : (s.setGroup g x).power = s.power := rfl
@[simp] theorem setGroup_trust (g : Nat) (x : Group) : (s.setGroup g x).trust = s.trust := rfl
@[simp] theorem setGroup_snap (g : Nat) (x : Group) : (s.setGroup g x).snap = s.snap := rfl
@[simp] theorem setGroup_log (g : Nat) (x : Group) : (s.setGroup g x).log = s.log := rfl
@[simp] theorem setGroup_logHead (g : Nat) (x : Group) : (s.setGroup g x).logHead = s.logHead := rfl
@[simp] theorem setGroup_hubCounters (g : Nat) (x : Group) : (s.setGroup g x).hubCounters = s.hubCounters := rfl
@[simp] theorem setGroup_routeCounters (g : Nat) (x : Group) : (s.setGroup g x).routeCounters = s.routeCounters := rfl
@[simp] theorem setGroup_linkCounters (g : Nat) (x : Group) : (s.setGroup g x).linkCounters = s.linkCounters := rfl

/-! `setFunction` -/

@[simp] theorem setFunction_pending (f : Nat) (x : Function) : (s.setFunction f x).pending = s.pending := rfl
@[simp] theorem setFunction_time (f : Nat) (x : Function) : (s.setFunction f x).time = s.time := rfl
@[simp] theorem setFunction_timeRuns (f : Nat) (x : Function) : (s.setFunction f x).timeRuns = s.timeRuns := rfl
@[simp] theorem setFunction_free (f : Nat) (x : Function) : (s.setFunction f x).free = s.free := rfl
@[simp] theorem setFunction_mem (f : Nat) (x : Function) : (s.setFunction f x).mem = s.mem := rfl
@[simp] theorem setFunction_bad (f : Nat) (x : Function) : (s.setFunction f x).bad = s.bad := rfl
@[simp] theorem setFunction_scrub (f : Nat) (x : Function) : (s.setFunction f x).scrub = s.scrub := rfl
@[simp] theorem setFunction_refreshes (f : Nat) (x : Function) : (s.setFunction f x).refreshes = s.refreshes := rfl
@[simp] theorem setFunction_posted (f : Nat) (x : Function) : (s.setFunction f x).posted = s.posted := rfl
@[simp] theorem setFunction_hbmWindows (f : Nat) (x : Function) : (s.setFunction f x).hbmWindows = s.hbmWindows := rfl
@[simp] theorem setFunction_lpdWindows (f : Nat) (x : Function) : (s.setFunction f x).lpdWindows = s.lpdWindows := rfl
@[simp] theorem setFunction_dies (f : Nat) (x : Function) : (s.setFunction f x).dies = s.dies := rfl
@[simp] theorem setFunction_ecs (f : Nat) (x : Function) : (s.setFunction f x).ecs = s.ecs := rfl
@[simp] theorem setFunction_stewards (f : Nat) (x : Function) : (s.setFunction f x).stewards = s.stewards := rfl
@[simp] theorem setFunction_slots (f : Nat) (x : Function) : (s.setFunction f x).slots = s.slots := rfl
@[simp] theorem setFunction_unitQueues (f : Nat) (x : Function) : (s.setFunction f x).unitQueues = s.unitQueues := rfl
@[simp] theorem setFunction_hubMacros (f : Nat) (x : Function) : (s.setFunction f x).hubMacros = s.hubMacros := rfl
@[simp] theorem setFunction_hubAccepted (f : Nat) (x : Function) : (s.setFunction f x).hubAccepted = s.hubAccepted := rfl
@[simp] theorem setFunction_dieBarriers (f : Nat) (x : Function) : (s.setFunction f x).dieBarriers = s.dieBarriers := rfl
@[simp] theorem setFunction_partitions (f : Nat) (x : Function) : (s.setFunction f x).partitions = s.partitions := rfl
@[simp] theorem setFunction_contexts (f : Nat) (x : Function) : (s.setFunction f x).contexts = s.contexts := rfl
@[simp] theorem setFunction_queues (f : Nat) (x : Function) : (s.setFunction f x).queues = s.queues := rfl
@[simp] theorem setFunction_queueTable (f : Nat) (x : Function) : (s.setFunction f x).queueTable = s.queueTable := rfl
@[simp] theorem setFunction_ports (f : Nat) (x : Function) : (s.setFunction f x).ports = s.ports := rfl
@[simp] theorem setFunction_groups (f : Nat) (x : Function) : (s.setFunction f x).groups = s.groups := rfl
@[simp] theorem setFunction_ring (f : Nat) (x : Function) : (s.setFunction f x).ring = s.ring := rfl
@[simp] theorem setFunction_sync (f : Nat) (x : Function) : (s.setFunction f x).sync = s.sync := rfl
@[simp] theorem setFunction_doe (f : Nat) (x : Function) : (s.setFunction f x).doe = s.doe := rfl
@[simp] theorem setFunction_power (f : Nat) (x : Function) : (s.setFunction f x).power = s.power := rfl
@[simp] theorem setFunction_trust (f : Nat) (x : Function) : (s.setFunction f x).trust = s.trust := rfl
@[simp] theorem setFunction_snap (f : Nat) (x : Function) : (s.setFunction f x).snap = s.snap := rfl
@[simp] theorem setFunction_log (f : Nat) (x : Function) : (s.setFunction f x).log = s.log := rfl
@[simp] theorem setFunction_logHead (f : Nat) (x : Function) : (s.setFunction f x).logHead = s.logHead := rfl
@[simp] theorem setFunction_hubCounters (f : Nat) (x : Function) : (s.setFunction f x).hubCounters = s.hubCounters := rfl
@[simp] theorem setFunction_routeCounters (f : Nat) (x : Function) : (s.setFunction f x).routeCounters = s.routeCounters := rfl
@[simp] theorem setFunction_linkCounters (f : Nat) (x : Function) : (s.setFunction f x).linkCounters = s.linkCounters := rfl

/-! `modEc` -/

@[simp] theorem modEc_pending (e : Nat) (f : Ec → Ec) : (s.modEc e f).pending = s.pending := rfl
@[simp] theorem modEc_time (e : Nat) (f : Ec → Ec) : (s.modEc e f).time = s.time := rfl
@[simp] theorem modEc_timeRuns (e : Nat) (f : Ec → Ec) : (s.modEc e f).timeRuns = s.timeRuns := rfl
@[simp] theorem modEc_free (e : Nat) (f : Ec → Ec) : (s.modEc e f).free = s.free := rfl
@[simp] theorem modEc_mem (e : Nat) (f : Ec → Ec) : (s.modEc e f).mem = s.mem := rfl
@[simp] theorem modEc_bad (e : Nat) (f : Ec → Ec) : (s.modEc e f).bad = s.bad := rfl
@[simp] theorem modEc_scrub (e : Nat) (f : Ec → Ec) : (s.modEc e f).scrub = s.scrub := rfl
@[simp] theorem modEc_refreshes (e : Nat) (f : Ec → Ec) : (s.modEc e f).refreshes = s.refreshes := rfl
@[simp] theorem modEc_posted (e : Nat) (f : Ec → Ec) : (s.modEc e f).posted = s.posted := rfl
@[simp] theorem modEc_hbmWindows (e : Nat) (f : Ec → Ec) : (s.modEc e f).hbmWindows = s.hbmWindows := rfl
@[simp] theorem modEc_lpdWindows (e : Nat) (f : Ec → Ec) : (s.modEc e f).lpdWindows = s.lpdWindows := rfl
@[simp] theorem modEc_dies (e : Nat) (f : Ec → Ec) : (s.modEc e f).dies = s.dies := rfl
@[simp] theorem modEc_stewards (e : Nat) (f : Ec → Ec) : (s.modEc e f).stewards = s.stewards := rfl
@[simp] theorem modEc_slots (e : Nat) (f : Ec → Ec) : (s.modEc e f).slots = s.slots := rfl
@[simp] theorem modEc_unitQueues (e : Nat) (f : Ec → Ec) : (s.modEc e f).unitQueues = s.unitQueues := rfl
@[simp] theorem modEc_hubMacros (e : Nat) (f : Ec → Ec) : (s.modEc e f).hubMacros = s.hubMacros := rfl
@[simp] theorem modEc_hubAccepted (e : Nat) (f : Ec → Ec) : (s.modEc e f).hubAccepted = s.hubAccepted := rfl
@[simp] theorem modEc_dieBarriers (e : Nat) (f : Ec → Ec) : (s.modEc e f).dieBarriers = s.dieBarriers := rfl
@[simp] theorem modEc_partitions (e : Nat) (f : Ec → Ec) : (s.modEc e f).partitions = s.partitions := rfl
@[simp] theorem modEc_contexts (e : Nat) (f : Ec → Ec) : (s.modEc e f).contexts = s.contexts := rfl
@[simp] theorem modEc_queues (e : Nat) (f : Ec → Ec) : (s.modEc e f).queues = s.queues := rfl
@[simp] theorem modEc_queueTable (e : Nat) (f : Ec → Ec) : (s.modEc e f).queueTable = s.queueTable := rfl
@[simp] theorem modEc_ports (e : Nat) (f : Ec → Ec) : (s.modEc e f).ports = s.ports := rfl
@[simp] theorem modEc_groups (e : Nat) (f : Ec → Ec) : (s.modEc e f).groups = s.groups := rfl
@[simp] theorem modEc_ring (e : Nat) (f : Ec → Ec) : (s.modEc e f).ring = s.ring := rfl
@[simp] theorem modEc_sync (e : Nat) (f : Ec → Ec) : (s.modEc e f).sync = s.sync := rfl
@[simp] theorem modEc_pcie (e : Nat) (f : Ec → Ec) : (s.modEc e f).pcie = s.pcie := rfl
@[simp] theorem modEc_doe (e : Nat) (f : Ec → Ec) : (s.modEc e f).doe = s.doe := rfl
@[simp] theorem modEc_power (e : Nat) (f : Ec → Ec) : (s.modEc e f).power = s.power := rfl
@[simp] theorem modEc_trust (e : Nat) (f : Ec → Ec) : (s.modEc e f).trust = s.trust := rfl
@[simp] theorem modEc_snap (e : Nat) (f : Ec → Ec) : (s.modEc e f).snap = s.snap := rfl
@[simp] theorem modEc_log (e : Nat) (f : Ec → Ec) : (s.modEc e f).log = s.log := rfl
@[simp] theorem modEc_logHead (e : Nat) (f : Ec → Ec) : (s.modEc e f).logHead = s.logHead := rfl
@[simp] theorem modEc_hubCounters (e : Nat) (f : Ec → Ec) : (s.modEc e f).hubCounters = s.hubCounters := rfl
@[simp] theorem modEc_routeCounters (e : Nat) (f : Ec → Ec) : (s.modEc e f).routeCounters = s.routeCounters := rfl
@[simp] theorem modEc_linkCounters (e : Nat) (f : Ec → Ec) : (s.modEc e f).linkCounters = s.linkCounters := rfl

/-! `modDie` -/

@[simp] theorem modDie_pending (d : Nat) (f : Die → Die) : (s.modDie d f).pending = s.pending := rfl
@[simp] theorem modDie_time (d : Nat) (f : Die → Die) : (s.modDie d f).time = s.time := rfl
@[simp] theorem modDie_timeRuns (d : Nat) (f : Die → Die) : (s.modDie d f).timeRuns = s.timeRuns := rfl
@[simp] theorem modDie_free (d : Nat) (f : Die → Die) : (s.modDie d f).free = s.free := rfl
@[simp] theorem modDie_mem (d : Nat) (f : Die → Die) : (s.modDie d f).mem = s.mem := rfl
@[simp] theorem modDie_bad (d : Nat) (f : Die → Die) : (s.modDie d f).bad = s.bad := rfl
@[simp] theorem modDie_scrub (d : Nat) (f : Die → Die) : (s.modDie d f).scrub = s.scrub := rfl
@[simp] theorem modDie_refreshes (d : Nat) (f : Die → Die) : (s.modDie d f).refreshes = s.refreshes := rfl
@[simp] theorem modDie_posted (d : Nat) (f : Die → Die) : (s.modDie d f).posted = s.posted := rfl
@[simp] theorem modDie_hbmWindows (d : Nat) (f : Die → Die) : (s.modDie d f).hbmWindows = s.hbmWindows := rfl
@[simp] theorem modDie_lpdWindows (d : Nat) (f : Die → Die) : (s.modDie d f).lpdWindows = s.lpdWindows := rfl
@[simp] theorem modDie_ecs (d : Nat) (f : Die → Die) : (s.modDie d f).ecs = s.ecs := rfl
@[simp] theorem modDie_stewards (d : Nat) (f : Die → Die) : (s.modDie d f).stewards = s.stewards := rfl
@[simp] theorem modDie_slots (d : Nat) (f : Die → Die) : (s.modDie d f).slots = s.slots := rfl
@[simp] theorem modDie_unitQueues (d : Nat) (f : Die → Die) : (s.modDie d f).unitQueues = s.unitQueues := rfl
@[simp] theorem modDie_hubMacros (d : Nat) (f : Die → Die) : (s.modDie d f).hubMacros = s.hubMacros := rfl
@[simp] theorem modDie_hubAccepted (d : Nat) (f : Die → Die) : (s.modDie d f).hubAccepted = s.hubAccepted := rfl
@[simp] theorem modDie_dieBarriers (d : Nat) (f : Die → Die) : (s.modDie d f).dieBarriers = s.dieBarriers := rfl
@[simp] theorem modDie_partitions (d : Nat) (f : Die → Die) : (s.modDie d f).partitions = s.partitions := rfl
@[simp] theorem modDie_contexts (d : Nat) (f : Die → Die) : (s.modDie d f).contexts = s.contexts := rfl
@[simp] theorem modDie_queues (d : Nat) (f : Die → Die) : (s.modDie d f).queues = s.queues := rfl
@[simp] theorem modDie_queueTable (d : Nat) (f : Die → Die) : (s.modDie d f).queueTable = s.queueTable := rfl
@[simp] theorem modDie_ports (d : Nat) (f : Die → Die) : (s.modDie d f).ports = s.ports := rfl
@[simp] theorem modDie_groups (d : Nat) (f : Die → Die) : (s.modDie d f).groups = s.groups := rfl
@[simp] theorem modDie_ring (d : Nat) (f : Die → Die) : (s.modDie d f).ring = s.ring := rfl
@[simp] theorem modDie_sync (d : Nat) (f : Die → Die) : (s.modDie d f).sync = s.sync := rfl
@[simp] theorem modDie_pcie (d : Nat) (f : Die → Die) : (s.modDie d f).pcie = s.pcie := rfl
@[simp] theorem modDie_doe (d : Nat) (f : Die → Die) : (s.modDie d f).doe = s.doe := rfl
@[simp] theorem modDie_power (d : Nat) (f : Die → Die) : (s.modDie d f).power = s.power := rfl
@[simp] theorem modDie_trust (d : Nat) (f : Die → Die) : (s.modDie d f).trust = s.trust := rfl
@[simp] theorem modDie_snap (d : Nat) (f : Die → Die) : (s.modDie d f).snap = s.snap := rfl
@[simp] theorem modDie_log (d : Nat) (f : Die → Die) : (s.modDie d f).log = s.log := rfl
@[simp] theorem modDie_logHead (d : Nat) (f : Die → Die) : (s.modDie d f).logHead = s.logHead := rfl
@[simp] theorem modDie_hubCounters (d : Nat) (f : Die → Die) : (s.modDie d f).hubCounters = s.hubCounters := rfl
@[simp] theorem modDie_routeCounters (d : Nat) (f : Die → Die) : (s.modDie d f).routeCounters = s.routeCounters := rfl
@[simp] theorem modDie_linkCounters (d : Nat) (f : Die → Die) : (s.modDie d f).linkCounters = s.linkCounters := rfl

/-! `modSteward` -/

@[simp] theorem modSteward_pending (k : Nat) (f : Steward → Steward) : (s.modSteward k f).pending = s.pending := rfl
@[simp] theorem modSteward_time (k : Nat) (f : Steward → Steward) : (s.modSteward k f).time = s.time := rfl
@[simp] theorem modSteward_timeRuns (k : Nat) (f : Steward → Steward) : (s.modSteward k f).timeRuns = s.timeRuns := rfl
@[simp] theorem modSteward_free (k : Nat) (f : Steward → Steward) : (s.modSteward k f).free = s.free := rfl
@[simp] theorem modSteward_mem (k : Nat) (f : Steward → Steward) : (s.modSteward k f).mem = s.mem := rfl
@[simp] theorem modSteward_bad (k : Nat) (f : Steward → Steward) : (s.modSteward k f).bad = s.bad := rfl
@[simp] theorem modSteward_scrub (k : Nat) (f : Steward → Steward) : (s.modSteward k f).scrub = s.scrub := rfl
@[simp] theorem modSteward_refreshes (k : Nat) (f : Steward → Steward) : (s.modSteward k f).refreshes = s.refreshes := rfl
@[simp] theorem modSteward_posted (k : Nat) (f : Steward → Steward) : (s.modSteward k f).posted = s.posted := rfl
@[simp] theorem modSteward_hbmWindows (k : Nat) (f : Steward → Steward) : (s.modSteward k f).hbmWindows = s.hbmWindows := rfl
@[simp] theorem modSteward_lpdWindows (k : Nat) (f : Steward → Steward) : (s.modSteward k f).lpdWindows = s.lpdWindows := rfl
@[simp] theorem modSteward_dies (k : Nat) (f : Steward → Steward) : (s.modSteward k f).dies = s.dies := rfl
@[simp] theorem modSteward_ecs (k : Nat) (f : Steward → Steward) : (s.modSteward k f).ecs = s.ecs := rfl
@[simp] theorem modSteward_slots (k : Nat) (f : Steward → Steward) : (s.modSteward k f).slots = s.slots := rfl
@[simp] theorem modSteward_unitQueues (k : Nat) (f : Steward → Steward) : (s.modSteward k f).unitQueues = s.unitQueues := rfl
@[simp] theorem modSteward_hubMacros (k : Nat) (f : Steward → Steward) : (s.modSteward k f).hubMacros = s.hubMacros := rfl
@[simp] theorem modSteward_hubAccepted (k : Nat) (f : Steward → Steward) : (s.modSteward k f).hubAccepted = s.hubAccepted := rfl
@[simp] theorem modSteward_dieBarriers (k : Nat) (f : Steward → Steward) : (s.modSteward k f).dieBarriers = s.dieBarriers := rfl
@[simp] theorem modSteward_partitions (k : Nat) (f : Steward → Steward) : (s.modSteward k f).partitions = s.partitions := rfl
@[simp] theorem modSteward_contexts (k : Nat) (f : Steward → Steward) : (s.modSteward k f).contexts = s.contexts := rfl
@[simp] theorem modSteward_queues (k : Nat) (f : Steward → Steward) : (s.modSteward k f).queues = s.queues := rfl
@[simp] theorem modSteward_queueTable (k : Nat) (f : Steward → Steward) : (s.modSteward k f).queueTable = s.queueTable := rfl
@[simp] theorem modSteward_ports (k : Nat) (f : Steward → Steward) : (s.modSteward k f).ports = s.ports := rfl
@[simp] theorem modSteward_groups (k : Nat) (f : Steward → Steward) : (s.modSteward k f).groups = s.groups := rfl
@[simp] theorem modSteward_ring (k : Nat) (f : Steward → Steward) : (s.modSteward k f).ring = s.ring := rfl
@[simp] theorem modSteward_sync (k : Nat) (f : Steward → Steward) : (s.modSteward k f).sync = s.sync := rfl
@[simp] theorem modSteward_pcie (k : Nat) (f : Steward → Steward) : (s.modSteward k f).pcie = s.pcie := rfl
@[simp] theorem modSteward_doe (k : Nat) (f : Steward → Steward) : (s.modSteward k f).doe = s.doe := rfl
@[simp] theorem modSteward_power (k : Nat) (f : Steward → Steward) : (s.modSteward k f).power = s.power := rfl
@[simp] theorem modSteward_trust (k : Nat) (f : Steward → Steward) : (s.modSteward k f).trust = s.trust := rfl
@[simp] theorem modSteward_snap (k : Nat) (f : Steward → Steward) : (s.modSteward k f).snap = s.snap := rfl
@[simp] theorem modSteward_log (k : Nat) (f : Steward → Steward) : (s.modSteward k f).log = s.log := rfl
@[simp] theorem modSteward_logHead (k : Nat) (f : Steward → Steward) : (s.modSteward k f).logHead = s.logHead := rfl
@[simp] theorem modSteward_hubCounters (k : Nat) (f : Steward → Steward) : (s.modSteward k f).hubCounters = s.hubCounters := rfl
@[simp] theorem modSteward_routeCounters (k : Nat) (f : Steward → Steward) : (s.modSteward k f).routeCounters = s.routeCounters := rfl
@[simp] theorem modSteward_linkCounters (k : Nat) (f : Steward → Steward) : (s.modSteward k f).linkCounters = s.linkCounters := rfl

/-! `modCtx` -/

@[simp] theorem modCtx_pending (c : Nat) (f : Context → Context) : (s.modCtx c f).pending = s.pending := rfl
@[simp] theorem modCtx_time (c : Nat) (f : Context → Context) : (s.modCtx c f).time = s.time := rfl
@[simp] theorem modCtx_timeRuns (c : Nat) (f : Context → Context) : (s.modCtx c f).timeRuns = s.timeRuns := rfl
@[simp] theorem modCtx_free (c : Nat) (f : Context → Context) : (s.modCtx c f).free = s.free := rfl
@[simp] theorem modCtx_mem (c : Nat) (f : Context → Context) : (s.modCtx c f).mem = s.mem := rfl
@[simp] theorem modCtx_bad (c : Nat) (f : Context → Context) : (s.modCtx c f).bad = s.bad := rfl
@[simp] theorem modCtx_scrub (c : Nat) (f : Context → Context) : (s.modCtx c f).scrub = s.scrub := rfl
@[simp] theorem modCtx_refreshes (c : Nat) (f : Context → Context) : (s.modCtx c f).refreshes = s.refreshes := rfl
@[simp] theorem modCtx_posted (c : Nat) (f : Context → Context) : (s.modCtx c f).posted = s.posted := rfl
@[simp] theorem modCtx_hbmWindows (c : Nat) (f : Context → Context) : (s.modCtx c f).hbmWindows = s.hbmWindows := rfl
@[simp] theorem modCtx_lpdWindows (c : Nat) (f : Context → Context) : (s.modCtx c f).lpdWindows = s.lpdWindows := rfl
@[simp] theorem modCtx_dies (c : Nat) (f : Context → Context) : (s.modCtx c f).dies = s.dies := rfl
@[simp] theorem modCtx_ecs (c : Nat) (f : Context → Context) : (s.modCtx c f).ecs = s.ecs := rfl
@[simp] theorem modCtx_stewards (c : Nat) (f : Context → Context) : (s.modCtx c f).stewards = s.stewards := rfl
@[simp] theorem modCtx_slots (c : Nat) (f : Context → Context) : (s.modCtx c f).slots = s.slots := rfl
@[simp] theorem modCtx_unitQueues (c : Nat) (f : Context → Context) : (s.modCtx c f).unitQueues = s.unitQueues := rfl
@[simp] theorem modCtx_hubMacros (c : Nat) (f : Context → Context) : (s.modCtx c f).hubMacros = s.hubMacros := rfl
@[simp] theorem modCtx_hubAccepted (c : Nat) (f : Context → Context) : (s.modCtx c f).hubAccepted = s.hubAccepted := rfl
@[simp] theorem modCtx_dieBarriers (c : Nat) (f : Context → Context) : (s.modCtx c f).dieBarriers = s.dieBarriers := rfl
@[simp] theorem modCtx_partitions (c : Nat) (f : Context → Context) : (s.modCtx c f).partitions = s.partitions := rfl
@[simp] theorem modCtx_queues (c : Nat) (f : Context → Context) : (s.modCtx c f).queues = s.queues := rfl
@[simp] theorem modCtx_queueTable (c : Nat) (f : Context → Context) : (s.modCtx c f).queueTable = s.queueTable := rfl
@[simp] theorem modCtx_ports (c : Nat) (f : Context → Context) : (s.modCtx c f).ports = s.ports := rfl
@[simp] theorem modCtx_groups (c : Nat) (f : Context → Context) : (s.modCtx c f).groups = s.groups := rfl
@[simp] theorem modCtx_ring (c : Nat) (f : Context → Context) : (s.modCtx c f).ring = s.ring := rfl
@[simp] theorem modCtx_sync (c : Nat) (f : Context → Context) : (s.modCtx c f).sync = s.sync := rfl
@[simp] theorem modCtx_pcie (c : Nat) (f : Context → Context) : (s.modCtx c f).pcie = s.pcie := rfl
@[simp] theorem modCtx_doe (c : Nat) (f : Context → Context) : (s.modCtx c f).doe = s.doe := rfl
@[simp] theorem modCtx_power (c : Nat) (f : Context → Context) : (s.modCtx c f).power = s.power := rfl
@[simp] theorem modCtx_trust (c : Nat) (f : Context → Context) : (s.modCtx c f).trust = s.trust := rfl
@[simp] theorem modCtx_snap (c : Nat) (f : Context → Context) : (s.modCtx c f).snap = s.snap := rfl
@[simp] theorem modCtx_log (c : Nat) (f : Context → Context) : (s.modCtx c f).log = s.log := rfl
@[simp] theorem modCtx_logHead (c : Nat) (f : Context → Context) : (s.modCtx c f).logHead = s.logHead := rfl
@[simp] theorem modCtx_hubCounters (c : Nat) (f : Context → Context) : (s.modCtx c f).hubCounters = s.hubCounters := rfl
@[simp] theorem modCtx_routeCounters (c : Nat) (f : Context → Context) : (s.modCtx c f).routeCounters = s.routeCounters := rfl
@[simp] theorem modCtx_linkCounters (c : Nat) (f : Context → Context) : (s.modCtx c f).linkCounters = s.linkCounters := rfl

/-! `bumpHub` -/

@[simp] theorem bumpHub_pending (i : Nat) : (bumpHub s i).pending = s.pending := rfl
@[simp] theorem bumpHub_time (i : Nat) : (bumpHub s i).time = s.time := rfl
@[simp] theorem bumpHub_timeRuns (i : Nat) : (bumpHub s i).timeRuns = s.timeRuns := rfl
@[simp] theorem bumpHub_free (i : Nat) : (bumpHub s i).free = s.free := rfl
@[simp] theorem bumpHub_mem (i : Nat) : (bumpHub s i).mem = s.mem := rfl
@[simp] theorem bumpHub_bad (i : Nat) : (bumpHub s i).bad = s.bad := rfl
@[simp] theorem bumpHub_scrub (i : Nat) : (bumpHub s i).scrub = s.scrub := rfl
@[simp] theorem bumpHub_refreshes (i : Nat) : (bumpHub s i).refreshes = s.refreshes := rfl
@[simp] theorem bumpHub_posted (i : Nat) : (bumpHub s i).posted = s.posted := rfl
@[simp] theorem bumpHub_hbmWindows (i : Nat) : (bumpHub s i).hbmWindows = s.hbmWindows := rfl
@[simp] theorem bumpHub_lpdWindows (i : Nat) : (bumpHub s i).lpdWindows = s.lpdWindows := rfl
@[simp] theorem bumpHub_dies (i : Nat) : (bumpHub s i).dies = s.dies := rfl
@[simp] theorem bumpHub_ecs (i : Nat) : (bumpHub s i).ecs = s.ecs := rfl
@[simp] theorem bumpHub_stewards (i : Nat) : (bumpHub s i).stewards = s.stewards := rfl
@[simp] theorem bumpHub_slots (i : Nat) : (bumpHub s i).slots = s.slots := rfl
@[simp] theorem bumpHub_unitQueues (i : Nat) : (bumpHub s i).unitQueues = s.unitQueues := rfl
@[simp] theorem bumpHub_hubMacros (i : Nat) : (bumpHub s i).hubMacros = s.hubMacros := rfl
@[simp] theorem bumpHub_hubAccepted (i : Nat) : (bumpHub s i).hubAccepted = s.hubAccepted := rfl
@[simp] theorem bumpHub_dieBarriers (i : Nat) : (bumpHub s i).dieBarriers = s.dieBarriers := rfl
@[simp] theorem bumpHub_partitions (i : Nat) : (bumpHub s i).partitions = s.partitions := rfl
@[simp] theorem bumpHub_contexts (i : Nat) : (bumpHub s i).contexts = s.contexts := rfl
@[simp] theorem bumpHub_queues (i : Nat) : (bumpHub s i).queues = s.queues := rfl
@[simp] theorem bumpHub_queueTable (i : Nat) : (bumpHub s i).queueTable = s.queueTable := rfl
@[simp] theorem bumpHub_ports (i : Nat) : (bumpHub s i).ports = s.ports := rfl
@[simp] theorem bumpHub_groups (i : Nat) : (bumpHub s i).groups = s.groups := rfl
@[simp] theorem bumpHub_ring (i : Nat) : (bumpHub s i).ring = s.ring := rfl
@[simp] theorem bumpHub_sync (i : Nat) : (bumpHub s i).sync = s.sync := rfl
@[simp] theorem bumpHub_pcie (i : Nat) : (bumpHub s i).pcie = s.pcie := rfl
@[simp] theorem bumpHub_doe (i : Nat) : (bumpHub s i).doe = s.doe := rfl
@[simp] theorem bumpHub_power (i : Nat) : (bumpHub s i).power = s.power := rfl
@[simp] theorem bumpHub_trust (i : Nat) : (bumpHub s i).trust = s.trust := rfl
@[simp] theorem bumpHub_snap (i : Nat) : (bumpHub s i).snap = s.snap := rfl
@[simp] theorem bumpHub_log (i : Nat) : (bumpHub s i).log = s.log := rfl
@[simp] theorem bumpHub_logHead (i : Nat) : (bumpHub s i).logHead = s.logHead := rfl
@[simp] theorem bumpHub_routeCounters (i : Nat) : (bumpHub s i).routeCounters = s.routeCounters := rfl
@[simp] theorem bumpHub_linkCounters (i : Nat) : (bumpHub s i).linkCounters = s.linkCounters := rfl

/-! `bumpRoute` -/

@[simp] theorem bumpRoute_pending (i : Nat) : (bumpRoute s i).pending = s.pending := rfl
@[simp] theorem bumpRoute_time (i : Nat) : (bumpRoute s i).time = s.time := rfl
@[simp] theorem bumpRoute_timeRuns (i : Nat) : (bumpRoute s i).timeRuns = s.timeRuns := rfl
@[simp] theorem bumpRoute_free (i : Nat) : (bumpRoute s i).free = s.free := rfl
@[simp] theorem bumpRoute_mem (i : Nat) : (bumpRoute s i).mem = s.mem := rfl
@[simp] theorem bumpRoute_bad (i : Nat) : (bumpRoute s i).bad = s.bad := rfl
@[simp] theorem bumpRoute_scrub (i : Nat) : (bumpRoute s i).scrub = s.scrub := rfl
@[simp] theorem bumpRoute_refreshes (i : Nat) : (bumpRoute s i).refreshes = s.refreshes := rfl
@[simp] theorem bumpRoute_posted (i : Nat) : (bumpRoute s i).posted = s.posted := rfl
@[simp] theorem bumpRoute_hbmWindows (i : Nat) : (bumpRoute s i).hbmWindows = s.hbmWindows := rfl
@[simp] theorem bumpRoute_lpdWindows (i : Nat) : (bumpRoute s i).lpdWindows = s.lpdWindows := rfl
@[simp] theorem bumpRoute_dies (i : Nat) : (bumpRoute s i).dies = s.dies := rfl
@[simp] theorem bumpRoute_ecs (i : Nat) : (bumpRoute s i).ecs = s.ecs := rfl
@[simp] theorem bumpRoute_stewards (i : Nat) : (bumpRoute s i).stewards = s.stewards := rfl
@[simp] theorem bumpRoute_slots (i : Nat) : (bumpRoute s i).slots = s.slots := rfl
@[simp] theorem bumpRoute_unitQueues (i : Nat) : (bumpRoute s i).unitQueues = s.unitQueues := rfl
@[simp] theorem bumpRoute_hubMacros (i : Nat) : (bumpRoute s i).hubMacros = s.hubMacros := rfl
@[simp] theorem bumpRoute_hubAccepted (i : Nat) : (bumpRoute s i).hubAccepted = s.hubAccepted := rfl
@[simp] theorem bumpRoute_dieBarriers (i : Nat) : (bumpRoute s i).dieBarriers = s.dieBarriers := rfl
@[simp] theorem bumpRoute_partitions (i : Nat) : (bumpRoute s i).partitions = s.partitions := rfl
@[simp] theorem bumpRoute_contexts (i : Nat) : (bumpRoute s i).contexts = s.contexts := rfl
@[simp] theorem bumpRoute_queues (i : Nat) : (bumpRoute s i).queues = s.queues := rfl
@[simp] theorem bumpRoute_queueTable (i : Nat) : (bumpRoute s i).queueTable = s.queueTable := rfl
@[simp] theorem bumpRoute_ports (i : Nat) : (bumpRoute s i).ports = s.ports := rfl
@[simp] theorem bumpRoute_groups (i : Nat) : (bumpRoute s i).groups = s.groups := rfl
@[simp] theorem bumpRoute_ring (i : Nat) : (bumpRoute s i).ring = s.ring := rfl
@[simp] theorem bumpRoute_sync (i : Nat) : (bumpRoute s i).sync = s.sync := rfl
@[simp] theorem bumpRoute_pcie (i : Nat) : (bumpRoute s i).pcie = s.pcie := rfl
@[simp] theorem bumpRoute_doe (i : Nat) : (bumpRoute s i).doe = s.doe := rfl
@[simp] theorem bumpRoute_power (i : Nat) : (bumpRoute s i).power = s.power := rfl
@[simp] theorem bumpRoute_trust (i : Nat) : (bumpRoute s i).trust = s.trust := rfl
@[simp] theorem bumpRoute_snap (i : Nat) : (bumpRoute s i).snap = s.snap := rfl
@[simp] theorem bumpRoute_log (i : Nat) : (bumpRoute s i).log = s.log := rfl
@[simp] theorem bumpRoute_logHead (i : Nat) : (bumpRoute s i).logHead = s.logHead := rfl
@[simp] theorem bumpRoute_hubCounters (i : Nat) : (bumpRoute s i).hubCounters = s.hubCounters := rfl
@[simp] theorem bumpRoute_linkCounters (i : Nat) : (bumpRoute s i).linkCounters = s.linkCounters := rfl

/-! `bumpLink` -/

@[simp] theorem bumpLink_pending (i : Nat) : (bumpLink s i).pending = s.pending := rfl
@[simp] theorem bumpLink_time (i : Nat) : (bumpLink s i).time = s.time := rfl
@[simp] theorem bumpLink_timeRuns (i : Nat) : (bumpLink s i).timeRuns = s.timeRuns := rfl
@[simp] theorem bumpLink_free (i : Nat) : (bumpLink s i).free = s.free := rfl
@[simp] theorem bumpLink_mem (i : Nat) : (bumpLink s i).mem = s.mem := rfl
@[simp] theorem bumpLink_bad (i : Nat) : (bumpLink s i).bad = s.bad := rfl
@[simp] theorem bumpLink_scrub (i : Nat) : (bumpLink s i).scrub = s.scrub := rfl
@[simp] theorem bumpLink_refreshes (i : Nat) : (bumpLink s i).refreshes = s.refreshes := rfl
@[simp] theorem bumpLink_posted (i : Nat) : (bumpLink s i).posted = s.posted := rfl
@[simp] theorem bumpLink_hbmWindows (i : Nat) : (bumpLink s i).hbmWindows = s.hbmWindows := rfl
@[simp] theorem bumpLink_lpdWindows (i : Nat) : (bumpLink s i).lpdWindows = s.lpdWindows := rfl
@[simp] theorem bumpLink_dies (i : Nat) : (bumpLink s i).dies = s.dies := rfl
@[simp] theorem bumpLink_ecs (i : Nat) : (bumpLink s i).ecs = s.ecs := rfl
@[simp] theorem bumpLink_stewards (i : Nat) : (bumpLink s i).stewards = s.stewards := rfl
@[simp] theorem bumpLink_slots (i : Nat) : (bumpLink s i).slots = s.slots := rfl
@[simp] theorem bumpLink_unitQueues (i : Nat) : (bumpLink s i).unitQueues = s.unitQueues := rfl
@[simp] theorem bumpLink_hubMacros (i : Nat) : (bumpLink s i).hubMacros = s.hubMacros := rfl
@[simp] theorem bumpLink_hubAccepted (i : Nat) : (bumpLink s i).hubAccepted = s.hubAccepted := rfl
@[simp] theorem bumpLink_dieBarriers (i : Nat) : (bumpLink s i).dieBarriers = s.dieBarriers := rfl
@[simp] theorem bumpLink_partitions (i : Nat) : (bumpLink s i).partitions = s.partitions := rfl
@[simp] theorem bumpLink_contexts (i : Nat) : (bumpLink s i).contexts = s.contexts := rfl
@[simp] theorem bumpLink_queues (i : Nat) : (bumpLink s i).queues = s.queues := rfl
@[simp] theorem bumpLink_queueTable (i : Nat) : (bumpLink s i).queueTable = s.queueTable := rfl
@[simp] theorem bumpLink_ports (i : Nat) : (bumpLink s i).ports = s.ports := rfl
@[simp] theorem bumpLink_groups (i : Nat) : (bumpLink s i).groups = s.groups := rfl
@[simp] theorem bumpLink_ring (i : Nat) : (bumpLink s i).ring = s.ring := rfl
@[simp] theorem bumpLink_sync (i : Nat) : (bumpLink s i).sync = s.sync := rfl
@[simp] theorem bumpLink_pcie (i : Nat) : (bumpLink s i).pcie = s.pcie := rfl
@[simp] theorem bumpLink_doe (i : Nat) : (bumpLink s i).doe = s.doe := rfl
@[simp] theorem bumpLink_power (i : Nat) : (bumpLink s i).power = s.power := rfl
@[simp] theorem bumpLink_trust (i : Nat) : (bumpLink s i).trust = s.trust := rfl
@[simp] theorem bumpLink_snap (i : Nat) : (bumpLink s i).snap = s.snap := rfl
@[simp] theorem bumpLink_log (i : Nat) : (bumpLink s i).log = s.log := rfl
@[simp] theorem bumpLink_logHead (i : Nat) : (bumpLink s i).logHead = s.logHead := rfl
@[simp] theorem bumpLink_hubCounters (i : Nat) : (bumpLink s i).hubCounters = s.hubCounters := rfl
@[simp] theorem bumpLink_routeCounters (i : Nat) : (bumpLink s i).routeCounters = s.routeCounters := rfl

/-! `bumpEcBy` -/

@[simp] theorem bumpEcBy_pending (e i n : Nat) : (bumpEcBy s e i n).pending = s.pending := rfl
@[simp] theorem bumpEcBy_time (e i n : Nat) : (bumpEcBy s e i n).time = s.time := rfl
@[simp] theorem bumpEcBy_timeRuns (e i n : Nat) : (bumpEcBy s e i n).timeRuns = s.timeRuns := rfl
@[simp] theorem bumpEcBy_free (e i n : Nat) : (bumpEcBy s e i n).free = s.free := rfl
@[simp] theorem bumpEcBy_mem (e i n : Nat) : (bumpEcBy s e i n).mem = s.mem := rfl
@[simp] theorem bumpEcBy_bad (e i n : Nat) : (bumpEcBy s e i n).bad = s.bad := rfl
@[simp] theorem bumpEcBy_scrub (e i n : Nat) : (bumpEcBy s e i n).scrub = s.scrub := rfl
@[simp] theorem bumpEcBy_refreshes (e i n : Nat) : (bumpEcBy s e i n).refreshes = s.refreshes := rfl
@[simp] theorem bumpEcBy_posted (e i n : Nat) : (bumpEcBy s e i n).posted = s.posted := rfl
@[simp] theorem bumpEcBy_hbmWindows (e i n : Nat) : (bumpEcBy s e i n).hbmWindows = s.hbmWindows := rfl
@[simp] theorem bumpEcBy_lpdWindows (e i n : Nat) : (bumpEcBy s e i n).lpdWindows = s.lpdWindows := rfl
@[simp] theorem bumpEcBy_dies (e i n : Nat) : (bumpEcBy s e i n).dies = s.dies := rfl
@[simp] theorem bumpEcBy_stewards (e i n : Nat) : (bumpEcBy s e i n).stewards = s.stewards := rfl
@[simp] theorem bumpEcBy_slots (e i n : Nat) : (bumpEcBy s e i n).slots = s.slots := rfl
@[simp] theorem bumpEcBy_unitQueues (e i n : Nat) : (bumpEcBy s e i n).unitQueues = s.unitQueues := rfl
@[simp] theorem bumpEcBy_hubMacros (e i n : Nat) : (bumpEcBy s e i n).hubMacros = s.hubMacros := rfl
@[simp] theorem bumpEcBy_hubAccepted (e i n : Nat) : (bumpEcBy s e i n).hubAccepted = s.hubAccepted := rfl
@[simp] theorem bumpEcBy_dieBarriers (e i n : Nat) : (bumpEcBy s e i n).dieBarriers = s.dieBarriers := rfl
@[simp] theorem bumpEcBy_partitions (e i n : Nat) : (bumpEcBy s e i n).partitions = s.partitions := rfl
@[simp] theorem bumpEcBy_contexts (e i n : Nat) : (bumpEcBy s e i n).contexts = s.contexts := rfl
@[simp] theorem bumpEcBy_queues (e i n : Nat) : (bumpEcBy s e i n).queues = s.queues := rfl
@[simp] theorem bumpEcBy_queueTable (e i n : Nat) : (bumpEcBy s e i n).queueTable = s.queueTable := rfl
@[simp] theorem bumpEcBy_ports (e i n : Nat) : (bumpEcBy s e i n).ports = s.ports := rfl
@[simp] theorem bumpEcBy_groups (e i n : Nat) : (bumpEcBy s e i n).groups = s.groups := rfl
@[simp] theorem bumpEcBy_ring (e i n : Nat) : (bumpEcBy s e i n).ring = s.ring := rfl
@[simp] theorem bumpEcBy_sync (e i n : Nat) : (bumpEcBy s e i n).sync = s.sync := rfl
@[simp] theorem bumpEcBy_pcie (e i n : Nat) : (bumpEcBy s e i n).pcie = s.pcie := rfl
@[simp] theorem bumpEcBy_doe (e i n : Nat) : (bumpEcBy s e i n).doe = s.doe := rfl
@[simp] theorem bumpEcBy_power (e i n : Nat) : (bumpEcBy s e i n).power = s.power := rfl
@[simp] theorem bumpEcBy_trust (e i n : Nat) : (bumpEcBy s e i n).trust = s.trust := rfl
@[simp] theorem bumpEcBy_snap (e i n : Nat) : (bumpEcBy s e i n).snap = s.snap := rfl
@[simp] theorem bumpEcBy_log (e i n : Nat) : (bumpEcBy s e i n).log = s.log := rfl
@[simp] theorem bumpEcBy_logHead (e i n : Nat) : (bumpEcBy s e i n).logHead = s.logHead := rfl
@[simp] theorem bumpEcBy_hubCounters (e i n : Nat) : (bumpEcBy s e i n).hubCounters = s.hubCounters := rfl
@[simp] theorem bumpEcBy_routeCounters (e i n : Nat) : (bumpEcBy s e i n).routeCounters = s.routeCounters := rfl
@[simp] theorem bumpEcBy_linkCounters (e i n : Nat) : (bumpEcBy s e i n).linkCounters = s.linkCounters := rfl

/-! `bumpWalker` -/

@[simp] theorem bumpWalker_pending (d i : Nat) : (bumpWalker s d i).pending = s.pending := rfl
@[simp] theorem bumpWalker_time (d i : Nat) : (bumpWalker s d i).time = s.time := rfl
@[simp] theorem bumpWalker_timeRuns (d i : Nat) : (bumpWalker s d i).timeRuns = s.timeRuns := rfl
@[simp] theorem bumpWalker_free (d i : Nat) : (bumpWalker s d i).free = s.free := rfl
@[simp] theorem bumpWalker_mem (d i : Nat) : (bumpWalker s d i).mem = s.mem := rfl
@[simp] theorem bumpWalker_bad (d i : Nat) : (bumpWalker s d i).bad = s.bad := rfl
@[simp] theorem bumpWalker_scrub (d i : Nat) : (bumpWalker s d i).scrub = s.scrub := rfl
@[simp] theorem bumpWalker_refreshes (d i : Nat) : (bumpWalker s d i).refreshes = s.refreshes := rfl
@[simp] theorem bumpWalker_posted (d i : Nat) : (bumpWalker s d i).posted = s.posted := rfl
@[simp] theorem bumpWalker_hbmWindows (d i : Nat) : (bumpWalker s d i).hbmWindows = s.hbmWindows := rfl
@[simp] theorem bumpWalker_lpdWindows (d i : Nat) : (bumpWalker s d i).lpdWindows = s.lpdWindows := rfl
@[simp] theorem bumpWalker_ecs (d i : Nat) : (bumpWalker s d i).ecs = s.ecs := rfl
@[simp] theorem bumpWalker_stewards (d i : Nat) : (bumpWalker s d i).stewards = s.stewards := rfl
@[simp] theorem bumpWalker_slots (d i : Nat) : (bumpWalker s d i).slots = s.slots := rfl
@[simp] theorem bumpWalker_unitQueues (d i : Nat) : (bumpWalker s d i).unitQueues = s.unitQueues := rfl
@[simp] theorem bumpWalker_hubMacros (d i : Nat) : (bumpWalker s d i).hubMacros = s.hubMacros := rfl
@[simp] theorem bumpWalker_hubAccepted (d i : Nat) : (bumpWalker s d i).hubAccepted = s.hubAccepted := rfl
@[simp] theorem bumpWalker_dieBarriers (d i : Nat) : (bumpWalker s d i).dieBarriers = s.dieBarriers := rfl
@[simp] theorem bumpWalker_partitions (d i : Nat) : (bumpWalker s d i).partitions = s.partitions := rfl
@[simp] theorem bumpWalker_contexts (d i : Nat) : (bumpWalker s d i).contexts = s.contexts := rfl
@[simp] theorem bumpWalker_queues (d i : Nat) : (bumpWalker s d i).queues = s.queues := rfl
@[simp] theorem bumpWalker_queueTable (d i : Nat) : (bumpWalker s d i).queueTable = s.queueTable := rfl
@[simp] theorem bumpWalker_ports (d i : Nat) : (bumpWalker s d i).ports = s.ports := rfl
@[simp] theorem bumpWalker_groups (d i : Nat) : (bumpWalker s d i).groups = s.groups := rfl
@[simp] theorem bumpWalker_ring (d i : Nat) : (bumpWalker s d i).ring = s.ring := rfl
@[simp] theorem bumpWalker_sync (d i : Nat) : (bumpWalker s d i).sync = s.sync := rfl
@[simp] theorem bumpWalker_pcie (d i : Nat) : (bumpWalker s d i).pcie = s.pcie := rfl
@[simp] theorem bumpWalker_doe (d i : Nat) : (bumpWalker s d i).doe = s.doe := rfl
@[simp] theorem bumpWalker_power (d i : Nat) : (bumpWalker s d i).power = s.power := rfl
@[simp] theorem bumpWalker_trust (d i : Nat) : (bumpWalker s d i).trust = s.trust := rfl
@[simp] theorem bumpWalker_snap (d i : Nat) : (bumpWalker s d i).snap = s.snap := rfl
@[simp] theorem bumpWalker_log (d i : Nat) : (bumpWalker s d i).log = s.log := rfl
@[simp] theorem bumpWalker_logHead (d i : Nat) : (bumpWalker s d i).logHead = s.logHead := rfl
@[simp] theorem bumpWalker_hubCounters (d i : Nat) : (bumpWalker s d i).hubCounters = s.hubCounters := rfl
@[simp] theorem bumpWalker_routeCounters (d i : Nat) : (bumpWalker s d i).routeCounters = s.routeCounters := rfl
@[simp] theorem bumpWalker_linkCounters (d i : Nat) : (bumpWalker s d i).linkCounters = s.linkCounters := rfl

/-! `bumpCache` -/

@[simp] theorem bumpCache_pending (d i : Nat) : (bumpCache s d i).pending = s.pending := rfl
@[simp] theorem bumpCache_time (d i : Nat) : (bumpCache s d i).time = s.time := rfl
@[simp] theorem bumpCache_timeRuns (d i : Nat) : (bumpCache s d i).timeRuns = s.timeRuns := rfl
@[simp] theorem bumpCache_free (d i : Nat) : (bumpCache s d i).free = s.free := rfl
@[simp] theorem bumpCache_mem (d i : Nat) : (bumpCache s d i).mem = s.mem := rfl
@[simp] theorem bumpCache_bad (d i : Nat) : (bumpCache s d i).bad = s.bad := rfl
@[simp] theorem bumpCache_scrub (d i : Nat) : (bumpCache s d i).scrub = s.scrub := rfl
@[simp] theorem bumpCache_refreshes (d i : Nat) : (bumpCache s d i).refreshes = s.refreshes := rfl
@[simp] theorem bumpCache_posted (d i : Nat) : (bumpCache s d i).posted = s.posted := rfl
@[simp] theorem bumpCache_hbmWindows (d i : Nat) : (bumpCache s d i).hbmWindows = s.hbmWindows := rfl
@[simp] theorem bumpCache_lpdWindows (d i : Nat) : (bumpCache s d i).lpdWindows = s.lpdWindows := rfl
@[simp] theorem bumpCache_ecs (d i : Nat) : (bumpCache s d i).ecs = s.ecs := rfl
@[simp] theorem bumpCache_stewards (d i : Nat) : (bumpCache s d i).stewards = s.stewards := rfl
@[simp] theorem bumpCache_slots (d i : Nat) : (bumpCache s d i).slots = s.slots := rfl
@[simp] theorem bumpCache_unitQueues (d i : Nat) : (bumpCache s d i).unitQueues = s.unitQueues := rfl
@[simp] theorem bumpCache_hubMacros (d i : Nat) : (bumpCache s d i).hubMacros = s.hubMacros := rfl
@[simp] theorem bumpCache_hubAccepted (d i : Nat) : (bumpCache s d i).hubAccepted = s.hubAccepted := rfl
@[simp] theorem bumpCache_dieBarriers (d i : Nat) : (bumpCache s d i).dieBarriers = s.dieBarriers := rfl
@[simp] theorem bumpCache_partitions (d i : Nat) : (bumpCache s d i).partitions = s.partitions := rfl
@[simp] theorem bumpCache_contexts (d i : Nat) : (bumpCache s d i).contexts = s.contexts := rfl
@[simp] theorem bumpCache_queues (d i : Nat) : (bumpCache s d i).queues = s.queues := rfl
@[simp] theorem bumpCache_queueTable (d i : Nat) : (bumpCache s d i).queueTable = s.queueTable := rfl
@[simp] theorem bumpCache_ports (d i : Nat) : (bumpCache s d i).ports = s.ports := rfl
@[simp] theorem bumpCache_groups (d i : Nat) : (bumpCache s d i).groups = s.groups := rfl
@[simp] theorem bumpCache_ring (d i : Nat) : (bumpCache s d i).ring = s.ring := rfl
@[simp] theorem bumpCache_sync (d i : Nat) : (bumpCache s d i).sync = s.sync := rfl
@[simp] theorem bumpCache_pcie (d i : Nat) : (bumpCache s d i).pcie = s.pcie := rfl
@[simp] theorem bumpCache_doe (d i : Nat) : (bumpCache s d i).doe = s.doe := rfl
@[simp] theorem bumpCache_power (d i : Nat) : (bumpCache s d i).power = s.power := rfl
@[simp] theorem bumpCache_trust (d i : Nat) : (bumpCache s d i).trust = s.trust := rfl
@[simp] theorem bumpCache_snap (d i : Nat) : (bumpCache s d i).snap = s.snap := rfl
@[simp] theorem bumpCache_log (d i : Nat) : (bumpCache s d i).log = s.log := rfl
@[simp] theorem bumpCache_logHead (d i : Nat) : (bumpCache s d i).logHead = s.logHead := rfl
@[simp] theorem bumpCache_hubCounters (d i : Nat) : (bumpCache s d i).hubCounters = s.hubCounters := rfl
@[simp] theorem bumpCache_routeCounters (d i : Nat) : (bumpCache s d i).routeCounters = s.routeCounters := rfl
@[simp] theorem bumpCache_linkCounters (d i : Nat) : (bumpCache s d i).linkCounters = s.linkCounters := rfl

end Sys2Proof.Machine
end

