-- ==== Sys2Proof/Laws/Tables.lean ====
section
/-! SUPPORT. Laws of the sparse tables, of the canonical memory list, and of the conditional answers. -/

namespace Sys2Proof.Machine

/-! ### Tables -/

@[simp] theorem tabGet_tabSet_same {α : Type} (d : α) (t : Tab α) (k : Nat) (v : α) : tabGet d (tabSet t k v) k = v := by
  induction t with
  | nil => simp [tabSet, tabGet]
  | cons e r ih =>
    obtain ⟨j, w⟩ := e
    by_cases h1 : j = k
    · simp [tabSet, tabGet, h1]
    · by_cases h2 : k < j
      · simp [tabSet, tabGet, h1, h2]
      · simp [tabSet, tabGet, h1, h2, ih]

theorem tabGet_tabSet_ne {α : Type} (d : α) (t : Tab α) (k i : Nat) (v : α) (h : i ≠ k) :
    tabGet d (tabSet t k v) i = tabGet d t i := by
  induction t with
  | nil => simp [tabSet, tabGet, Ne.symm h]
  | cons e r ih =>
    obtain ⟨j, w⟩ := e
    by_cases h1 : j = k
    · subst h1
      simp [tabSet, tabGet, Ne.symm h]
    · by_cases h2 : k < j
      · simp [tabSet, tabGet, h1, h2, Ne.symm h]
      · simp [tabSet, tabGet, h1, h2, ih]

/-- What a table holds after a write of one entry. -/
theorem tabGet_tabSet {α : Type} (d : α) (t : Tab α) (k i : Nat) (v : α) :
    tabGet d (tabSet t k v) i = if i = k then v else tabGet d t i := by
  by_cases h : i = k
  · simp [h]
  · simp [h, tabGet_tabSet_ne d t k i v h]

@[simp] theorem tabGet_nil {α : Type} (d : α) (k : Nat) : tabGet d ([] : Tab α) k = d := rfl

/-- A second write of an entry replaces the first. -/
@[simp] theorem tabSet_tabSet {α : Type} (t : Tab α) (k : Nat) (v w : α) : tabSet (tabSet t k v) k w = tabSet t k w := by
  induction t with
  | nil => simp [tabSet]
  | cons e r ih =>
    obtain ⟨j, x⟩ := e
    simp only [tabSet]
    split
    · simp [tabSet]
    · rename_i hjk
      split
      · simp [tabSet]
      · rename_i hlt
        simp only [tabSet, if_neg hjk, if_neg hlt, ih]

/-- A counter table after an increase. -/
theorem tabGet_bumpBy (t : Tab Word64) (i n k : Nat) :
    tabGet 0 (bumpBy t i n) k = if k = i then tabGet 0 t i + BitVec.ofNat 64 n else tabGet 0 t k := by
  simp [bumpBy, tabMod, tabGet_tabSet]

/-! ### Conditional answers -/

@[simp] theorem whenEnabled_true (s t : State) : whenEnabled true s t = .next t := rfl
@[simp] theorem whenEnabled_false (s t : State) : whenEnabled false s t = .next s := rfl

/-- A conditional command always answers a state. -/
theorem whenEnabled_cases (c : Bool) (s t : State) :
    (c = true ∧ whenEnabled c s t = .next t) ∨ (c = false ∧ whenEnabled c s t = .next s) := by cases c <;> simp

/-- A unit whose clock runs makes its step. -/
theorem whileClocked_of_clock {s : State} (h : coreClocks s = true) (a : Answer) : whileClocked s a = a := by
  simp [whileClocked, h]

/-! ### Memory -/

theorem cellsWfFrom_mono {lo hi : Nat} (h : lo ≤ hi) : ∀ {m : List Host.Cell}, cellsWfFrom hi m = true → cellsWfFrom lo m = true
  | [], _ => rfl
  | (a, v) :: r, hm => by
    simp only [cellsWfFrom, Bool.and_eq_true, decide_eq_true_eq] at hm ⊢
    exact ⟨⟨by omega, hm.1.2⟩, hm.2⟩

/-- An address below a canonical list reads as an unlisted one. -/
theorem cellGet_below : ∀ {m : List Host.Cell} {lo a : Nat}, cellsWfFrom lo m = true → a < lo → cellGet m a = unlisted
  | [], _, _, _, _ => rfl
  | (j, v) :: r, lo, a, hm, ha => by
    simp only [cellsWfFrom, Bool.and_eq_true, decide_eq_true_eq] at hm
    have hj : j ≠ a := by omega
    simp only [cellGet, hj, if_false]
    exact cellGet_below hm.2 (by omega)

/-- A write keeps the canonical form. -/
theorem cellSet_wf : ∀ {m : List Host.Cell} {lo a : Nat} (v : Byte), cellsWfFrom lo m = true → lo ≤ a → cellsWfFrom lo (cellSet m a v) = true
  | [], lo, a, v, _, ha => by
    by_cases hv : v = unlisted
    · simp [cellSet, hv, cellsWfFrom]
    · simp [cellSet, hv, cellsWfFrom, ha]
  | (j, w) :: r, lo, a, v, hm, ha => by
    have hm' := hm
    simp only [cellsWfFrom, Bool.and_eq_true, decide_eq_true_eq] at hm
    by_cases h1 : j = a
    · subst h1
      by_cases hv : v = unlisted
      · simp only [cellSet, hv, if_true]
        exact cellsWfFrom_mono (by omega) hm.2
      · simp only [cellSet, hv, if_true, if_false, cellsWfFrom, Bool.and_eq_true, decide_eq_true_eq]
        exact ⟨⟨ha, by simpa using hv⟩, hm.2⟩
    · by_cases h2 : a < j
      · by_cases hv : v = unlisted
        · simp only [cellSet, h1, h2, hv, if_true, if_false]
          exact hm'
        · simp only [cellSet, h1, h2, hv, if_true, if_false, cellsWfFrom, Bool.and_eq_true, decide_eq_true_eq]
          exact ⟨⟨ha, by simpa using hv⟩, ⟨by omega, hm.1.2⟩, hm.2⟩
      · simp only [cellSet, h1, h2, if_false, cellsWfFrom, Bool.and_eq_true, decide_eq_true_eq]
        exact ⟨hm.1, cellSet_wf v hm.2 (by omega)⟩

/-- A read after a write of the same address. -/
theorem cellGet_cellSet_same : ∀ {m : List Host.Cell} {lo : Nat} (a : Nat) (v : Byte), cellsWfFrom lo m = true →
    cellGet (cellSet m a v) a = v
  | [], _, a, v, _ => by
    by_cases hv : v = unlisted
    · simp [cellSet, hv, cellGet]
    · simp [cellSet, hv, cellGet]
  | (j, w) :: r, lo, a, v, hm => by
    have hm' := hm
    simp only [cellsWfFrom, Bool.and_eq_true, decide_eq_true_eq] at hm
    by_cases h1 : j = a
    · subst h1
      by_cases hv : v = unlisted
      · simp only [cellSet, hv, if_true]
        exact cellGet_below hm.2 (by omega)
      · simp [cellSet, hv, cellGet]
    · by_cases h2 : a < j
      · by_cases hv : v = unlisted
        · simp only [cellSet, h1, h2, hv, if_true, if_false]
          simp only [cellGet, h1, if_false]
          exact cellGet_below hm.2 (by omega)
        · simp [cellSet, h1, h2, hv, cellGet]
      · simp only [cellSet, h1, h2, if_false, cellGet]
        exact cellGet_cellSet_same a v hm.2

/-- A write leaves every other address alone. -/
theorem cellGet_cellSet_ne (m : List Host.Cell) (a b : Nat) (v : Byte) (h : b ≠ a) : cellGet (cellSet m a v) b = cellGet m b := by
  induction m with
  | nil =>
    by_cases hv : v = unlisted
    · simp [cellSet, hv]
    · simp [cellSet, hv, cellGet, Ne.symm h]
  | cons e r ih =>
    obtain ⟨j, w⟩ := e
    by_cases h1 : j = a
    · subst h1
      by_cases hv : v = unlisted
      · simp [cellSet, hv, cellGet, Ne.symm h]
      · simp [cellSet, hv, cellGet, Ne.symm h]
    · by_cases h2 : a < j
      · by_cases hv : v = unlisted
        · simp [cellSet, h1, h2, hv]
        · simp [cellSet, h1, h2, hv, cellGet, Ne.symm h]
      · simp [cellSet, h1, h2, cellGet, ih]

/-- A write of bytes keeps the canonical form. -/
theorem cellsWrite_wf (bs : List Byte) : ∀ {m : List Host.Cell} (a : Nat), Memory.wf m = true → Memory.wf (cellsWrite m a bs) = true := by
  induction bs with
  | nil => intro m a h; exact h
  | cons b r ih => intro m a h; exact ih (a + 1) (cellSet_wf b h (Nat.zero_le a))

/-- A write of bytes leaves the addresses outside it alone. -/
theorem cellGet_cellsWrite_outside (bs : List Byte) : ∀ (m : List Host.Cell) (a b : Nat), b < a ∨ a + bs.length ≤ b →
    cellGet (cellsWrite m a bs) b = cellGet m b := by
  induction bs with
  | nil => intro m a b _; rfl
  | cons x r ih =>
    intro m a b h
    simp only [cellsWrite]
    simp only [List.length_cons] at h
    rw [ih _ _ _ (by omega), cellGet_cellSet_ne _ _ _ _ (by omega)]

/-- A read of the bytes just written. -/
theorem cellGet_cellsWrite_inside (bs : List Byte) : ∀ (m : List Host.Cell) (a i : Nat), Memory.wf m = true → (h : i < bs.length) →
    cellGet (cellsWrite m a bs) (a + i) = bs[i] := by
  induction bs with
  | nil => intro m a i _ h; simp at h
  | cons x r ih =>
    intro m a i hm h
    simp only [cellsWrite]
    cases i with
    | zero =>
      have e := cellGet_cellsWrite_outside r (cellSet m a x) (a + 1) a (Or.inl (Nat.lt_succ_self a))
      simpa [e] using cellGet_cellSet_same a x hm
    | succ n =>
      have h' : n < r.length := by simpa using h
      have e : a + (n + 1) = a + 1 + n := by omega
      rw [e, ih _ (a + 1) n (cellSet_wf x hm (Nat.zero_le a)) h']
      simp

/-- Dropping a range keeps the canonical form. -/
theorem cellsDrop_wf (lo hi : Nat) : ∀ {m : List Host.Cell} {k : Nat}, cellsWfFrom k m = true → cellsWfFrom k (cellsDrop m lo hi) = true
  | [], _, _ => rfl
  | (a, v) :: r, k, hm => by
    have hm' := hm
    simp only [cellsWfFrom, Bool.and_eq_true, decide_eq_true_eq] at hm
    by_cases hc : (decide (a < lo) || decide (hi ≤ a)) = true
    · simp only [cellsDrop, List.filter_cons, hc, if_true, cellsWfFrom, Bool.and_eq_true, decide_eq_true_eq]
      exact ⟨hm.1, cellsDrop_wf lo hi hm.2⟩
    · simp only [cellsDrop, List.filter_cons, hc]
      exact cellsWfFrom_mono (by omega) (cellsDrop_wf lo hi hm.2)

/-- A store keeps the canonical form of device memory. -/
theorem store_wf (s : State) (a : Nat) (bs : List Byte) (h : Memory.wf s.mem = true) : Memory.wf (store s a bs).mem = true :=
  cellsWrite_wf bs a h

/-- The bytes outside a store read as before. -/
theorem store_outside (s : State) (a b : Nat) (bs : List Byte) (h : b < a ∨ a + bs.length ≤ b) :
    cellGet (store s a bs).mem b = cellGet s.mem b := cellGet_cellsWrite_outside bs s.mem a b h

/-- Rebuilding a tier's contents at other addresses keeps the canonical form. -/
theorem foldl_cellSet_wf (f : Host.Cell → Nat) (l : List Host.Cell) : ∀ {m : List Host.Cell}, Memory.wf m = true →
    Memory.wf (l.foldl (fun m c => cellSet m (f c) c.2) m) = true := by
  induction l with
  | nil => intro m h; exact h
  | cons c r ih => intro m h; exact ih (cellSet_wf c.2 h (Nat.zero_le _))

/-- Memory after reset is canonical. -/
theorem reset_mem_wf : Memory.wf State.reset.mem = true := rfl

@[simp] theorem natLe_length (n v : Nat) : (natLe n v).length = n := by
  induction n generalizing v with
  | zero => rfl
  | succ n ih => simp [natLe, ih]

/-- The bytes of a number spell it, below the power that they can hold. -/
theorem leNat_natLe (n v : Nat) : leNat (natLe n v) = v % 256 ^ n := by
  induction n generalizing v with
  | zero => simp [natLe, leNat, Nat.mod_one]
  | succ n ih =>
    have e : (256 : Nat) ^ (n + 1) = 256 * 256 ^ n := by rw [Nat.pow_succ, Nat.mul_comm]
    rw [e, Nat.mod_mul]
    simp [natLe, leNat, ih]

end Sys2Proof.Machine
end

