-- ==== Sys2Proof/Laws/Units.lean ====
section
/-! SUPPORT. Reading back what an update of a unit wrote. -/

namespace Sys2Proof.Machine

variable (s : State)

@[simp] theorem ecAt_setEc (e : Nat) (x : Ec) : (s.setEc e x).ecAt e = x := tabGet_tabSet_same _ _ _ _
theorem ecAt_setEc_ne (e i : Nat) (x : Ec) (h : i ≠ e) : (s.setEc e x).ecAt i = s.ecAt i := tabGet_tabSet_ne _ _ _ _ _ h

@[simp] theorem dieAt_setDie (d : Nat) (x : Die) : (s.setDie d x).dieAt d = x := tabGet_tabSet_same _ _ _ _
theorem dieAt_setDie_ne (d i : Nat) (x : Die) (h : i ≠ d) : (s.setDie d x).dieAt i = s.dieAt i := tabGet_tabSet_ne _ _ _ _ _ h

@[simp] theorem stewardAt_setSteward (k : Nat) (x : Steward) : (s.setSteward k x).stewardAt k = x := tabGet_tabSet_same _ _ _ _
theorem stewardAt_setSteward_ne (k i : Nat) (x : Steward) (h : i ≠ k) : (s.setSteward k x).stewardAt i = s.stewardAt i := tabGet_tabSet_ne _ _ _ _ _ h

@[simp] theorem partAt_setPart (p : Nat) (x : Partition) : (s.setPart p x).partAt p = x := tabGet_tabSet_same _ _ _ _
theorem partAt_setPart_ne (p i : Nat) (x : Partition) (h : i ≠ p) : (s.setPart p x).partAt i = s.partAt i := tabGet_tabSet_ne _ _ _ _ _ h

@[simp] theorem ctxAt_setCtx (c : Nat) (x : Context) : (s.setCtx c x).ctxAt c = x := tabGet_tabSet_same _ _ _ _
theorem ctxAt_setCtx_ne (c i : Nat) (x : Context) (h : i ≠ c) : (s.setCtx c x).ctxAt i = s.ctxAt i := tabGet_tabSet_ne _ _ _ _ _ h

@[simp] theorem queueAt_setQueue (q : Nat) (x : Queue) : (s.setQueue q x).queueAt q = x := tabGet_tabSet_same _ _ _ _
theorem queueAt_setQueue_ne (q i : Nat) (x : Queue) (h : i ≠ q) : (s.setQueue q x).queueAt i = s.queueAt i := tabGet_tabSet_ne _ _ _ _ _ h

@[simp] theorem portAt_setPort (n : Nat) (x : Port) : (s.setPort n x).portAt n = x := tabGet_tabSet_same _ _ _ _
theorem portAt_setPort_ne (n i : Nat) (x : Port) (h : i ≠ n) : (s.setPort n x).portAt i = s.portAt i := tabGet_tabSet_ne _ _ _ _ _ h

@[simp] theorem groupAt_setGroup (g : Nat) (x : Group) : (s.setGroup g x).groupAt g = x := tabGet_tabSet_same _ _ _ _
theorem groupAt_setGroup_ne (g i : Nat) (x : Group) (h : i ≠ g) : (s.setGroup g x).groupAt i = s.groupAt i := tabGet_tabSet_ne _ _ _ _ _ h

@[simp] theorem functionAt_setFunction (f : Nat) (x : Function) : (s.setFunction f x).functionAt f = x := tabGet_tabSet_same _ _ _ _
theorem functionAt_setFunction_ne (f i : Nat) (x : Function) (h : i ≠ f) : (s.setFunction f x).functionAt i = s.functionAt i := tabGet_tabSet_ne _ _ _ _ _ h

@[simp] theorem ecAt_modEc (e : Nat) (f : Ec → Ec) : (s.modEc e f).ecAt e = f (s.ecAt e) := tabGet_tabSet_same _ _ _ _
theorem ecAt_modEc_ne (e i : Nat) (f : Ec → Ec) (h : i ≠ e) : (s.modEc e f).ecAt i = s.ecAt i := tabGet_tabSet_ne _ _ _ _ _ h

@[simp] theorem dieAt_modDie (d : Nat) (f : Die → Die) : (s.modDie d f).dieAt d = f (s.dieAt d) := tabGet_tabSet_same _ _ _ _
theorem dieAt_modDie_ne (d i : Nat) (f : Die → Die) (h : i ≠ d) : (s.modDie d f).dieAt i = s.dieAt i := tabGet_tabSet_ne _ _ _ _ _ h

@[simp] theorem stewardAt_modSteward (k : Nat) (f : Steward → Steward) : (s.modSteward k f).stewardAt k = f (s.stewardAt k) := tabGet_tabSet_same _ _ _ _
theorem stewardAt_modSteward_ne (k i : Nat) (f : Steward → Steward) (h : i ≠ k) : (s.modSteward k f).stewardAt i = s.stewardAt i := tabGet_tabSet_ne _ _ _ _ _ h

@[simp] theorem ctxAt_modCtx (c : Nat) (f : Context → Context) : (s.modCtx c f).ctxAt c = f (s.ctxAt c) := tabGet_tabSet_same _ _ _ _
theorem ctxAt_modCtx_ne (c i : Nat) (f : Context → Context) (h : i ≠ c) : (s.modCtx c f).ctxAt i = s.ctxAt i := tabGet_tabSet_ne _ _ _ _ _ h

@[simp] theorem slotAt_setSlot (u i : Nat) (x : Slot) : (s.setSlot u i x).slotAt u i = x := tabGet_tabSet_same _ _ _ _
theorem slotAt_setSlot_ne (u i v j : Nat) (x : Slot) (h : v * 64 + j ≠ u * 64 + i) : (s.setSlot u i x).slotAt v j = s.slotAt v j :=
  tabGet_tabSet_ne _ _ _ _ _ h

/-- Windows that replace others leave memory canonical. -/
theorem moveTier_wf (old new : Tab Window) (base size limit : Nat) (h : Memory.wf s.mem = true) :
    Memory.wf (moveTier s old new base size limit).mem = true := by
  unfold moveTier
  split
  · exact h
  · exact foldl_cellSet_wf _ _ rfl

/-- A window register's new value leaves memory canonical. -/
theorem setWindow_wf (lpd : Bool) (w : Nat) (x : Window) (h : Memory.wf s.mem = true) : Memory.wf (s.setWindow lpd w x).mem = true := by
  unfold State.setWindow
  split <;> exact moveTier_wf _ _ _ _ _ _ h

end Sys2Proof.Machine
end

