-- ==== Sys2Proof/Laws/Faults.lean ====
section
/-! SUPPORT. What a fault and the teardown of a context leave of the stewards and of the error log. -/

namespace Sys2Proof.Machine

/-- What a teardown leaves of a steward: its general registers, its pc and trap registers, its data memory, and that it has
stopped. -/
def SavedRegs (x y : Steward) : Prop :=
  y.g = x.g ∧ y.pc = x.pc ∧ y.tpc = x.tpc ∧ y.tcause = x.tcause ∧ y.tval = x.tval ∧ y.dataMemory = x.dataMemory ∧
    (x.run = .halted → y.run = .halted)

/-- The records `l` join a log, which keeps its last 4,096. -/
def joinLog (a l : List LogRec) : List LogRec := if l = [] then a else (a ++ l).drop ((a ++ l).length - 4096)

/-- The log of `t` is that of `s` with the records `l`. -/
def Logged (s t : State) (l : List LogRec) : Prop := t.logHead = s.logHead + l.length ∧ t.log = joinLog s.log l

/-- What a teardown leaves of the stewards and of the log, which it may add to. -/
def SavedIn (s t : State) : Prop := (∀ k, SavedRegs (s.stewardAt k) (t.stewardAt k)) ∧ ∃ l, Logged s t l

@[simp] theorem joinLog_nil (a : List LogRec) : joinLog a [] = a := rfl

theorem drop_drop_append {α : Type} (n : Nat) (a m : List α) :
    (a.drop (a.length - n) ++ m).drop ((a.drop (a.length - n) ++ m).length - n) = (a ++ m).drop ((a ++ m).length - n) := by
  have h : a.length - n ≤ a.length := Nat.sub_le _ _
  rw [← List.drop_append_of_le_length h, List.drop_drop]
  congr 1
  simp only [List.length_drop, List.length_append]
  omega

theorem joinLog_join (a l m : List LogRec) : joinLog (joinLog a l) m = joinLog a (l ++ m) := by
  unfold joinLog
  by_cases hl : l = []
  · simp [hl]
  · by_cases hm : m = []
    · simp [hl, hm]
    · simp only [hl, hm, if_false, List.append_eq_nil_iff, false_and]
      rw [drop_drop_append, List.append_assoc]

theorem Logged.trans {s t u : State} {l m : List LogRec} (h : Logged s t l) (h' : Logged t u m) : Logged s u (l ++ m) := by
  refine ⟨by rw [h'.1, h.1, List.length_append, Nat.add_assoc], ?_⟩
  rw [h'.2, h.2, joinLog_join]

theorem SavedRegs.refl (x : Steward) : SavedRegs x x := ⟨rfl, rfl, rfl, rfl, rfl, rfl, id⟩

theorem SavedIn.refl (s : State) : SavedIn s s := ⟨fun _ => .refl _, [], rfl, rfl⟩

theorem SavedIn.trans {s t u : State} (h : SavedIn s t) (h' : SavedIn t u) : SavedIn s u := by
  obtain ⟨l, hl⟩ := h.2
  obtain ⟨m, hm⟩ := h'.2
  refine ⟨fun k => ?_, _, hl.trans hm⟩
  obtain ⟨a1, a2, a3, a4, a5, a6, a7⟩ := h.1 k
  obtain ⟨b1, b2, b3, b4, b5, b6, b7⟩ := h'.1 k
  exact ⟨b1.trans a1, b2.trans a2, b3.trans a3, b4.trans a4, b5.trans a5, b6.trans a6, fun e => b7 (a7 e)⟩

theorem SavedIn.of_eq {s t : State} (h1 : t.stewards = s.stewards) (h2 : t.log = s.log) (h3 : t.logHead = s.logHead) : SavedIn s t := by
  refine ⟨fun k => ?_, [], h3, h2⟩
  have : t.stewardAt k = s.stewardAt k := by simp only [State.stewardAt, h1]
  rw [this]
  exact .refl _

theorem SavedIn.modSteward (s : State) (k : Nat) (f : Steward → Steward) (h : ∀ x, SavedRegs x (f x)) : SavedIn s (s.modSteward k f) := by
  refine ⟨fun j => ?_, [], rfl, rfl⟩
  by_cases hj : j = k
  · subst hj
    rw [stewardAt_modSteward]
    exact h _
  · rw [stewardAt_modSteward_ne _ _ _ _ hj]
    exact .refl _

theorem SavedIn.foldl {α : Type} (f : State → α → State) (l : List α) (h : ∀ s a, SavedIn s (f s a)) : ∀ s, SavedIn s (l.foldl f s) := by
  induction l with
  | nil => exact fun s => .refl s
  | cons a r ih => exact fun s => (h s a).trans (ih _)

theorem raiseVector_saved (s : State) (v : Nat) : SavedIn s (raiseVector s v) := by
  unfold raiseVector
  dsimp only
  split
  · exact .of_eq rfl rfl rfl
  · split
    · exact .refl s
    · exact .of_eq rfl rfl rfl

theorem reserveEc_saved (s : State) (e : Nat) : SavedIn s (reserveEc s e) := .of_eq rfl rfl rfl

theorem withdrawYields_saved (s : State) (c : Fin 64) : SavedIn s (withdrawYields s c) := by
  refine SavedIn.foldl _ _ (fun t h => ?_) s
  dsimp only
  split
  · refine SavedIn.trans (SavedIn.foldl _ _ (fun u e => ?_) t) (.of_eq rfl rfl rfl)
    exact (SavedIn.modSteward _ _ (fun y => { y with tempoReq := false }) fun x => ⟨rfl, rfl, rfl, rfl, rfl, rfl, id⟩).trans
      (SavedIn.modSteward _ _ (fun y => { y with tempoReq := false }) fun x => ⟨rfl, rfl, rfl, rfl, rfl, rfl, id⟩)
  · exact .refl t

theorem leaveReady_saved (s : State) (c : Fin 64) : SavedIn s (leaveReady s c) := by
  refine (withdrawYields_saved s c).trans (SavedIn.foldl _ _ (fun t e => ?_) _)
  split
  · exact reserveEc_saved _ _
  · exact .refl t

theorem setMacros_saved (s : State) (p : Nat) (l : List MacroRec) : SavedIn s (setMacros s p l) := by
  unfold setMacros
  split <;> exact .of_eq rfl rfl rfl

theorem setQueueOf_saved (s : State) (u : Nat) (q : List Place) : SavedIn s (setQueueOf s u q) := by
  unfold setQueueOf
  split <;> exact .of_eq rfl rfl rfl

theorem drgPlace_saved (s : State) (d : Nat) : SavedIn s (drgPlace s d) := .of_eq rfl rfl rfl

theorem removeCommand_saved (s : State) (p : Nat) (r : MacroRec) : SavedIn s (removeCommand s p r) := by
  have h1 : SavedIn s (leaveQueues s p r) := SavedIn.foldl _ _ (fun t u => setQueueOf_saved _ _ _) s
  have h2 := SavedIn.modSteward (leaveQueues s p r) r.issuer.val (fun x => { x with retired := x.retired + 1 })
    fun x => ⟨rfl, rfl, rfl, rfl, rfl, rfl, id⟩
  refine (h1.trans h2).trans ?_
  unfold removeCommand
  dsimp only
  split
  · exact ((setMacros_saved _ _ _).trans (SavedIn.of_eq rfl rfl rfl)).trans (drgPlace_saved _ p)
  · exact setMacros_saved _ _ _

theorem withDetail_spec (s : State) (r : LogRec) :
    (withDetail s r).1.code = r.code ∧ (withDetail s r).2 = { s with free := (withDetail s r).2.free } := by
  unfold withDetail
  dsimp only
  split
  · exact ⟨rfl, rfl⟩
  · split <;> exact ⟨rfl, rfl⟩

/-- A record that is written is the only one that joins the log. -/
theorem logWrite_spec (s : State) (r : LogRec) :
    (logWrite s r).stewards = s.stewards ∧ ∃ x, x.code = r.code ∧ Logged s (logWrite s r) [x] := by
  obtain ⟨hc, hs⟩ := withDetail_spec s r
  have hv : ∀ (u : State) (v : Nat), (raiseVector u v).stewards = u.stewards ∧ (raiseVector u v).log = u.log ∧
      (raiseVector u v).logHead = u.logHead := by
    intro u v
    unfold raiseVector
    dsimp only
    split
    · exact ⟨rfl, rfl, rfl⟩
    · split <;> exact ⟨rfl, rfl, rfl⟩
  unfold logWrite
  dsimp only
  refine ⟨?_, (withDetail s r).1, hc, ?_, ?_⟩
  · rw [(hv _ _).1, hs]
  · rw [(hv _ _).2.2]; rfl
  · rw [(hv _ _).2.1]; simp [joinLog]

theorem logWrite_saved (s : State) (r : LogRec) : SavedIn s (logWrite s r) := by
  obtain ⟨h1, x, _, h2⟩ := logWrite_spec s r
  refine ⟨fun k => ?_, [x], h2⟩
  rw [show (logWrite s r).stewardAt k = s.stewardAt k by simp only [State.stewardAt, h1]]
  exact .refl _

/-! ### What the look-ups and the stores of the hub leave -/

theorem logLine_saved (s : State) (code : Code) (a : Nat) : SavedIn s (logLine s code a) :=
  (SavedIn.of_eq (t := (drawFree s).2) rfl rfl rfl).trans (logWrite_saved _ _)

theorem countCorrected_saved (s : State) (a : Nat) : SavedIn s (countCorrected s a) := by
  unfold countCorrected
  split <;> exact .of_eq rfl rfl rfl

theorem correctLine_saved (s : State) (a : Nat) : SavedIn s (correctLine s a) := by
  have h := countCorrected_saved s a
  unfold correctLine
  generalize countCorrected s a = t at *
  split
  · refine h.trans (SavedIn.trans ?_ (logLine_saved _ _ _))
    exact .of_eq rfl rfl rfl
  · exact h.trans (logLine_saved _ _ _)

theorem tierRead_saved (s : State) (a : Nat) : SavedIn s (tierRead s a).2 := by
  unfold tierRead
  dsimp only
  split
  · exact .refl s
  · split
    · exact correctLine_saved s a
    · split
      · exact .refl s
      · split <;> exact .refl s

theorem readHalves_saved (l : List Nat) : ∀ s, SavedIn s (readHalves s l).2 := by
  induction l with
  | nil => exact fun s => .refl s
  | cons a r ih =>
    intro s
    unfold readHalves
    dsimp only
    split
    · exact tierRead_saved s a
    · exact (tierRead_saved s a).trans (ih _)

theorem bumpCache_saved (s : State) (d i : Nat) : SavedIn s (bumpCache s d i) := .of_eq rfl rfl rfl
theorem touchLine_saved (s : State) (d line : Nat) (l : CacheLine) (w : Bool) : SavedIn s (touchLine s d line l w) := .of_eq rfl rfl rfl

theorem dropLine_saved (s : State) (d : Nat) (l : Nat × CacheLine) : SavedIn s (dropLine s d l) := by
  unfold dropLine
  dsimp only
  split <;> exact .of_eq rfl rfl rfl

theorem fillLine_saved (s : State) (d p line : Nat) (w : Bool) : SavedIn s (fillLine s d p line w) := by
  unfold fillLine
  split
  · exact .refl s
  · dsimp only
    split
    · exact (dropLine_saved _ _ _).trans (.of_eq rfl rfl rfl)
    · exact .of_eq rfl rfl rfl

theorem sramCorrect_saved (s : State) (x y : Nat) : SavedIn s (sramCorrect s x y) := by
  unfold sramCorrect
  split
  · split
    · exact .refl s
    · exact .of_eq rfl rfl rfl
  · exact .refl s

theorem sramRead_saved (s : State) (a n line : Nat) : SavedIn s (sramRead s a n line).2 := by
  unfold sramRead
  generalize [line * 128, line * 128 + 64] = l
  have h : ∀ (l : List Nat) (r : Option Nat × State), SavedIn s r.2 → SavedIn s (l.foldl (fun (r : Option Nat × State) h =>
      if r.1.isSome || !halfTouched a n h then r
      else
        let p := partOf a n h
        if 1 < sramError r.2 p.1 p.2 then (some h, r.2) else (none, sramCorrect r.2 p.1 p.2)) r).2 := by
    intro l
    induction l with
    | nil => exact fun r h => h
    | cons x l ih =>
      intro r h
      refine ih _ ?_
      dsimp only
      split
      · exact h
      · split
        · exact h
        · exact h.trans (sramCorrect_saved _ _ _)
  exact h l _ (.refl s)

/-- A look-up of a line leaves every steward, and only adds records to the log. -/
theorem lineUse_saved (s : State) (p : Option Nat) (na : Bool) (line a n : Nat) (w : Bool) : SavedIn s (lineUse s p na line a n w).2 := by
  unfold lineUse
  split
  · split
    · exact .refl s
    · exact sramRead_saved _ _ _ _
  · split
    · exact (touchLine_saved _ _ _ _ _).trans (bumpCache_saved _ _ _)
    · dsimp only
      split
      · split
        · exact ((bumpCache_saved _ _ _).trans (readHalves_saved _ _)).trans (fillLine_saved _ _ _ _ _)
        · exact (bumpCache_saved _ _ _).trans (readHalves_saved _ _)
      · exact (bumpCache_saved _ _ _).trans (readHalves_saved _ _)

theorem linesUse_saved (p : Option Nat) (na : Bool) (a n : Nat) (w : Bool) (k : Nat) :
    ∀ s line, SavedIn s (linesUse s p na a n w k line).2 := by
  induction k with
  | zero => exact fun s _ => .refl s
  | succ k ih =>
    intro s line
    unfold linesUse
    dsimp only
    split
    · exact lineUse_saved _ _ _ _ _ _ _
    · exact (lineUse_saved _ _ _ _ _ _ _).trans (ih _ _)

theorem spanUse_saved (s : State) (p : Option Nat) (na : Bool) (a n : Nat) (w : Bool) : SavedIn s (spanUse s p na a n w).2 := by
  unfold spanUse
  split
  · exact .refl s
  · exact linesUse_saved _ _ _ _ _ _ _ _

theorem memWrite_saved (s : State) (p : Option Nat) (na : Bool) (a : Nat) (bs : List Byte) : SavedIn s (memWrite s p na a bs).2 := by
  unfold memWrite
  dsimp only
  split
  · exact spanUse_saved _ _ _ _ _ _
  · exact (spanUse_saved _ _ _ _ _ _).trans (.of_eq rfl rfl rfl)

theorem countBlocked_saved (s : State) (c : Option (Fin 64)) (a : Nat) : SavedIn s (countBlocked s c a) := by
  unfold countBlocked
  split <;> exact .of_eq rfl rfl rfl

theorem storeOpen_saved (s : State) (q : Req) (a : Nat) (bs : List Byte) : SavedIn s (storeOpen s q a bs).2 := by
  unfold storeOpen
  split
  · exact countBlocked_saved _ _ _
  · exact memWrite_saved _ _ _ _ _

theorem storeCut_saved (s : State) (q : Req) (a : Nat) (bs : List Byte) : SavedIn s (storeCut s q a bs).2 := by
  unfold storeCut
  dsimp only
  split
  · exact (storeOpen_saved _ _ _ _).trans (storeOpen_saved _ _ _ _)
  · exact storeOpen_saved _ _ _ _

theorem storeNow_saved (s : State) (q : Req) (a : Nat) (bs : List Byte) : SavedIn s (storeNow s q a bs) := by
  unfold storeNow
  split
  · exact logWrite_saved _ _
  · dsimp only
    split
    · exact (storeCut_saved _ _ _ _).trans (logWrite_saved _ _)
    · exact storeCut_saved _ _ _ _

/-- A store of the hub leaves every steward, and only adds records to the log, whether it waits or is performed. -/
theorem hubStore_saved (s : State) (q : Req) (a : Nat) (bs : List Byte) : SavedIn s (hubStore s q a bs) := by
  unfold hubStore
  split
  · exact .of_eq rfl rfl rfl
  · exact storeNow_saved _ _ _ _

theorem hubVector_saved (s : State) (v : Nat) : SavedIn s (hubVector s v) := by
  unfold hubVector
  split
  · exact .of_eq rfl rfl rfl
  · exact raiseVector_saved _ _

theorem putRecord_saved (s : State) (n off : Nat) (bs : List Byte) : SavedIn s (putRecord s n off bs) := by
  unfold putRecord
  split
  · exact .refl s
  · exact hubStore_saved _ _ _ _

theorem changeQueues_saved (s : State) (f : Nat × Queue → Queue) : SavedIn s (changeQueues s f) :=
  (SavedIn.of_eq (t := { s with queues := s.queues.map fun e => (e.1, f e) }) rfl rfl rfl).trans
    (SavedIn.foldl _ _ (fun t e => putRecord_saved t _ _ _) _)

theorem setGroup_saved (s : State) (g : Nat) (x : Group) : SavedIn s (s.setGroup g x) := .of_eq rfl rfl rfl
theorem setPort_saved (s : State) (n : Nat) (p : Port) : SavedIn s (s.setPort n p) := .of_eq rfl rfl rfl
theorem setSlot_saved (s : State) (u i : Nat) (x : Slot) : SavedIn s (s.setSlot u i x) := .of_eq rfl rfl rfl
theorem giveCredits_saved (s : State) (g vc n : Nat) : SavedIn s (giveCredits s g vc n) := setGroup_saved _ _ _
theorem pairIncrease_saved (s : State) (e n : Nat) (free : Bool) (k : Nat) : SavedIn s (pairIncrease s e n free k).1 := .of_eq rfl rfl rfl

theorem recallPort_saved (s : State) (u i n : Nat) : SavedIn s (recallPort s u i n) :=
  (setPort_saved s n { s.portAt n with
    transmit := (s.portAt n).transmit.filter fun m => !(unbegun (s.portAt n) u i).contains m }).trans
    (SavedIn.foldl _ _ (fun t _ => giveCredits_saved t _ _ _) _)

theorem recallMessages_saved (s : State) (u i : Nat) : SavedIn s (recallMessages s u i) :=
  SavedIn.foldl _ _ (fun t g => (SavedIn.foldl _ (groupPorts g) (fun v n => recallPort_saved v u i n) t).trans (setGroup_saved _ _ _)) s

theorem signalWritten_saved (s : State) (x : Slot) : SavedIn s (signalWritten s x) := by
  unfold signalWritten
  split
  · exact .refl s
  · dsimp only
    split
    · exact (pairIncrease_saved _ _ _ _ _).trans (logWrite_saved _ _)
    · exact pairIncrease_saved _ _ _ _ _

theorem abortSlot_saved (s : State) (u i : Nat) (code : Code) : SavedIn s (abortSlot s u i code) := by
  unfold abortSlot
  dsimp only
  exact ((recallMessages_saved s u i).trans (signalWritten_saved _ _)).trans (setSlot_saved _ _ _ _)

theorem abortStreams_saved (s : State) (c : Fin 64) (code : Code) : SavedIn s (abortStreams s c code) := by
  unfold abortStreams
  dsimp only
  refine SavedIn.trans (SavedIn.foldl _ s.slots (fun t _ => ?_) s) (.of_eq rfl rfl rfl)
  split
  · exact abortSlot_saved _ _ _ _
  · exact .refl t

theorem abortCommand_saved (s : State) (c : Fin 64) (code : Code) (p : Nat) (r : MacroRec) : SavedIn s (abortCommand s c code p r) := by
  unfold abortCommand
  dsimp only
  refine SavedIn.trans ?_ (removeCommand_saved _ _ _)
  split
  · exact hubStore_saved _ _ _ _
  · exact .refl s

theorem abortCommands_saved (s : State) (c : Fin 64) (code : Code) (p : Nat) : SavedIn s (abortCommands s c code p) :=
  SavedIn.foldl _ _ (fun t r => abortCommand_saved t c code p r) s

theorem writeTaskRecord_saved (s : State) (c : Option (Fin 64)) (x : TaskRegs) (code : Code) : SavedIn s (writeTaskRecord s c x code) :=
  (hubStore_saved _ _ _ _).trans (hubStore_saved _ _ _ _)

theorem modCtx_saved (s : State) (c : Nat) (f : Context → Context) : SavedIn s (s.modCtx c f) := .of_eq rfl rfl rfl

theorem endVector_saved (t : State) (c : Fin 64) (x : TaskRegs) :
    SavedIn t ((if (t.queueAt x.queue.toNat).irq then hubVector t (t.queueAt x.queue.toNat).vector.toNat else t).modCtx c.val
      fun y => { y with torn := y.torn + 1 }) := by
  refine SavedIn.trans ?_ (modCtx_saved _ _ _)
  split
  · exact hubVector_saved _ _
  · exact .refl t

theorem endTorn_saved (s : State) (c : Fin 64) (code : Code) (x : TaskRegs) : SavedIn s (endTorn s c code x) := by
  unfold endTorn
  split
  · exact .refl s
  · exact (writeTaskRecord_saved s (some c) x code).trans (endVector_saved _ c x)

theorem tearTask_saved (s : State) (c : Fin 64) (code : Code) (e i : Nat) : SavedIn s (tearTask s c code e i) :=
  (endTorn_saved s c code _).trans (.of_eq rfl rfl rfl)

theorem tearSaved_saved (s : State) (c : Fin 64) (code : Code) : SavedIn s (tearSaved s c code) :=
  (SavedIn.foldl (fun (t : State) (x : Nat × TaskRegs) => endTorn t c code x.2) _ (fun t x => endTorn_saved t c code x.2) s).trans
    (.of_eq rfl rfl rfl)

theorem releaseEc_saved (s : State) (e : Nat) : SavedIn s (releaseEc s e) := by
  refine SavedIn.trans ?_ (reserveEc_saved _ e)
  refine SavedIn.trans ?_ (SavedIn.modSteward _ _ _ fun x => ⟨rfl, rfl, rfl, rfl, rfl, rfl, fun _ => rfl⟩)
  refine SavedIn.trans ?_ (SavedIn.modSteward _ _ _ fun x => ⟨rfl, rfl, rfl, rfl, rfl, rfl, fun _ => rfl⟩)
  exact .of_eq rfl rfl rfl

theorem dropCaravan_saved (s : State) (c : Fin 64) : SavedIn s (dropCaravan s c) := by
  unfold dropCaravan
  split
  · exact .of_eq rfl rfl rfl
  · exact .refl s

/-- A teardown leaves the saved registers of every steward and the log. -/
theorem teardown_saved (s : State) (c : Fin 64) (code : Code) : SavedIn s (teardown s c code) := by
  unfold teardown
  dsimp only
  split
  · split
    · exact .of_eq rfl rfl rfl
    · exact .refl s
  · generalize hx : s.ctxAt c.val = x
    have h0 : SavedIn s (s.setCtx c.val { x with
      fault := code, faultTime := s.time, state := 6, paused := false, yieldCause := none, doorbellSinceBind := false }) := .of_eq rfl rfl rfl
    refine h0.trans ?_
    generalize s.setCtx c.val _ = t0
    have h1 : SavedIn t0 (if x.state = 2 then leaveReady t0 c else t0) := by
      split
      · exact leaveReady_saved _ _
      · exact .refl _
    refine h1.trans ?_
    generalize (if x.state = 2 then leaveReady t0 c else t0) = t1
    have h2 := abortStreams_saved t1 c code
    refine h2.trans ?_
    generalize abortStreams t1 c code = t2
    refine (SavedIn.foldl (fun u p => abortCommands u c code p) (List.range 5) (fun u p => abortCommands_saved u c code p) t2).trans ?_
    generalize List.foldl (fun u p => abortCommands u c code p) t2 (List.range 5) = t3
    generalize boundEcs t3 c = ecs
    refine (tearSaved_saved t3 c code).trans ?_
    generalize tearSaved t3 c code = t4
    refine (SavedIn.foldl (fun u e => tearTask (tearTask u c code e 0) c code e 1) ecs
      (fun u e => (tearTask_saved u c code e 0).trans (tearTask_saved _ c code e 1)) t4).trans ?_
    generalize List.foldl (fun u e => tearTask (tearTask u c code e 0) c code e 1) t4 ecs = t5
    refine (SavedIn.foldl releaseEc ecs (fun u e => releaseEc_saved u e) t5).trans ?_
    generalize List.foldl releaseEc t5 ecs = t6
    have h3 : SavedIn t6 { t6 with dieBarriers := t6.dieBarriers.filter fun b => b.1 / 128 % 64 != c.val } := .of_eq rfl rfl rfl
    refine h3.trans ?_
    generalize ({ t6 with dieBarriers := t6.dieBarriers.filter fun b => b.1 / 128 % 64 != c.val } : State) = t7
    refine (dropCaravan_saved t7 c).trans ?_
    generalize dropCaravan t7 c = t8
    have h4 : SavedIn t8 (dropLab t8 x.part.toNat) := SavedIn.foldl
      (fun (u : State) (d : Nat) => u.modDie d fun y => { y with lab := y.lab.filter fun l => l.part != x.part.toNat }) _
      (fun u d => .of_eq rfl rfl rfl) t8
    refine h4.trans ?_
    generalize dropLab t8 x.part.toNat = t9
    have h5 : SavedIn t9 (stopQueues t9 c) := changeQueues_saved _ _
    refine h5.trans ?_
    split
    · exact .refl _
    · exact hubStore_saved _ _ _ _

theorem withTask_code (s : State) (st : Fin 264) (r : LogRec) : (withTask s st r).code = r.code := by
  unfold withTask
  dsimp only
  split <;> rfl

theorem faultRec_code (s : State) (o : Owner) (code : Code) (a : Nat) : (faultRec s o code a).code = code := by
  unfold faultRec
  dsimp only
  generalize (code.cls == 4 && decide (code.toNat < 0x4006)) = m
  generalize (if m = true then channelOf s a else none) = ch
  have hb : ∀ b : LogRec, b.code = code →
      ∀ r : LogRec, r = (match o with | .task st => withTask s st (withAddr b a) | _ => withAddr b a) →
      (match ownerCtx s o with | some c => withCtx r (s.ctxAt c.val).part.toNat c.val | none => r).code = code := by
    intro b hb r hr
    have hc : r.code = code := by
      rw [hr]
      cases o with
      | task st => exact (withTask_code _ _ _).trans hb
      | context c => exact hb
      | nobody => exact hb
    cases ownerCtx s o with
    | none => exact hc
    | some c => exact hc
  cases ch with
  | none => cases o <;> exact hb _ (by cases m <;> rfl) _ rfl
  | some c =>
    obtain ⟨t, n⟩ := c
    cases t <;> cases o <;> exact hb _ (by cases m <;> rfl) _ rfl

/-- A memory fault leaves the saved registers of every steward, and its record is the first that joins the log. -/
theorem memoryFault_spec (s : State) (o : Owner) (code : Code) (a : Nat) :
    (∀ k, SavedRegs (s.stewardAt k) ((memoryFault s o code a).stewardAt k)) ∧
    ∃ r l, r.code = code ∧ Logged s (memoryFault s o code a) (r :: l) := by
  obtain ⟨hs, x, hx, hl⟩ := logWrite_spec s (faultRec s o code a)
  have h0 := (logWrite_saved s (faultRec s o code a)).1
  rw [faultRec_code] at hx
  unfold memoryFault
  dsimp only
  split
  · rename_i c _
    obtain ⟨h, l, h'⟩ := teardown_saved (logWrite s (faultRec s o code a)) c code
    refine ⟨fun k => ?_, x, l, hx, hl.trans h'⟩
    obtain ⟨a1, a2, a3, a4, a5, a6, a7⟩ := h0 k
    obtain ⟨b1, b2, b3, b4, b5, b6, b7⟩ := h k
    exact ⟨b1.trans a1, b2.trans a2, b3.trans a3, b4.trans a4, b5.trans a5, b6.trans a6, fun e => b7 (a7 e)⟩
  · exact ⟨h0, x, [], hx, hl⟩

/-- A fault of a steward (11_steward R358): it stops with its general registers, its pc and its data memory; the record is
logged before those of its task's abort, and at U and S the trap registers tell of the fault. -/
theorem stewardFaultAt_spec (s : State) (st : Fin 264) (code : Code) (tval a : Nat) :
    let x := s.stewardAt st.val
    let t := stewardFaultAt s st code tval a
    let y := t.stewardAt st.val
    y.run = .halted ∧ y.g = x.g ∧ y.pc = x.pc ∧ y.dataMemory = x.dataMemory ∧
      (∃ r l, r.code = code ∧ Logged s t (r :: l)) ∧
      (x.pl.toNat < 2 → y.tpc = x.pc ∧ y.tcause = code.setWidth 32 <<< 16 ∧ y.tval = BitVec.ofNat 64 tval) ∧
      (2 ≤ x.pl.toNat → y = { x with run := .halted }) := by
  dsimp only
  unfold stewardFaultAt
  dsimp only
  split
  · rename_i h
    generalize hy : ({ s.stewardAt st.val with run := .halted } : Steward) = y
    obtain ⟨hs, x, hx, hl⟩ := logWrite_spec (s.setSteward st.val y) (faultRec s (.task st) code a)
    rw [faultRec_code] at hx
    generalize logWrite (s.setSteward st.val y) _ = u at *
    have e : u.stewardAt st.val = y := by
      rw [State.stewardAt, hs]
      exact stewardAt_setSteward s st.val y
    rw [e]
    subst hy
    exact ⟨rfl, rfl, rfl, rfl, ⟨x, [], hx, hl⟩, fun h' => absurd h (by omega), fun _ => rfl⟩
  · rename_i h
    generalize hx : ({ s.stewardAt st.val with
      tpc := (s.stewardAt st.val).pc, tcause := code.setWidth 32 <<< 16, tval := BitVec.ofNat 64 tval, run := .halted } : Steward) = x1
    obtain ⟨h1, h2⟩ := memoryFault_spec (s.setSteward st.val x1) (.task st) code a
    obtain ⟨a1, a2, a3, a4, a5, a6, a7⟩ := h1 st.val
    rw [stewardAt_setSteward] at a1 a2 a3 a4 a5 a6 a7
    subst hx
    exact ⟨a7 rfl, a1, a2, a6, h2, fun _ => ⟨a3, a4, a5⟩, fun h' => absurd h' h⟩

end Sys2Proof.Machine
end

