-- ==== Sys2Proof/Laws/Registers.lean ====
section
/-! SUPPORT. Where a write of the register space goes: the hub, an EC, a stream slot or the rest of a die window; and what a
register-write row does for a requester that reaches its register. -/

namespace Sys2Proof.Machine

theorem regWrite_hub (s : State) (who : Agent) (o : Nat) (v : Reg32) (h : o < 0xC00000) : regWrite s who o v = hubRegWrite s who o v := by
  have h1 : o / 0x1000000 = 0 := Nat.div_eq_of_lt (by omega)
  have h2 : o % 0x1000000 = o := Nat.mod_eq_of_lt (by omega)
  simp only [regWrite, h1, h2]
  rw [if_neg (by omega), if_pos trivial]

theorem dieOffset_window (d o : Nat) (ho : o < 0x1000000) : dieOffset d o / 0x1000000 = d + 1 ∧ dieOffset d o % 0x1000000 = o := by
  unfold dieOffset
  omega

theorem regWrite_window (s : State) (who : Agent) (d o : Nat) (v : Reg32) (hd : d < 4) (ho : o < 0xC00000) :
    regWrite s who (dieOffset d o) v =
      if o < 0x800000 then ecRegWrite s who (32 * d + o / 0x40000) (o % 0x40000) v
      else match ecOfOffset d o with
        | some e => slotRegWrite s who e (o % 0x400 / 16) (o % 16) v
        | none => dieRegWrite s who d o v := by
  obtain ⟨h1, h2⟩ := dieOffset_window d o (by omega)
  simp only [regWrite, h1, h2]
  rw [if_neg (by omega), if_neg (by omega), Nat.add_sub_cancel] <;> rfl

theorem regWrite_ec (s : State) (who : Agent) (e r : Nat) (v : Reg32) (he : e < 128) (hr : r < 0x40000) :
    regWrite s who (ecOffset e r) v = ecRegWrite s who e r v := by
  rw [ecOffset, regWrite_window s who (e / 32) _ v (by omega) (by omega), if_pos (by omega)]
  congr 1 <;> omega

theorem regWrite_slot_ec (s : State) (who : Agent) (u i r : Nat) (v : Reg32) (hu : u < 128) (hi : i < 64) (hr : r < 16) :
    regWrite s who (slotOffset u i r) v = slotRegWrite s who u i r v := by
  have ho : 0xA00000 + 0x1000 * (u % 32) + 16 * i + r < 0xC00000 := by omega
  rw [slotOffset, if_pos hu, regWrite_window s who (u / 32) _ v (by omega) ho, if_neg (by omega)]
  have : ecOfOffset (u / 32) (0xA00000 + 0x1000 * (u % 32) + 16 * i + r) = some u := by
    rw [ecOfOffset, if_neg (by omega), if_pos (by omega)]
    congr 1
    omega
  rw [this]
  dsimp only
  congr 1 <;> omega

theorem regWrite_slot_link (s : State) (who : Agent) (u i r : Nat) (v : Reg32) (hu : 128 ≤ u) (hu' : u < 131) (hi : i < 64) (hr : r < 16) :
    regWrite s who (slotOffset u i r) v = slotRegWrite s who u i r v := by
  have e : slotOffset u i r = 0x200000 + 0x1000 * (u - 128) + 16 * i + r := by rw [slotOffset, if_neg (by omega)]
  rw [e, regWrite_hub s who _ v (by omega)]
  unfold hubRegWrite
  dsimp only
  repeat rw [if_neg (by omega)]
  rw [if_pos (by omega)]
  congr 1 <;> omega

theorem regWrite_die (s : State) (who : Agent) (d o : Nat) (v : Reg32) (hd : d < 4) (h1 : 0x800000 ≤ o) (h2 : o < 0xC00000)
    (h3 : o < 0xA00000 ∨ 0xA20000 ≤ o) : regWrite s who (dieOffset d o) v = dieRegWrite s who d o v := by
  rw [regWrite_window s who d o v hd h2, if_neg (by omega)]
  rw [show ecOfOffset d o = none by rw [ecOfOffset, if_neg (by omega), if_neg (by omega)]]

/-- Away from EC_DBG_CTL a full register write is the write of the map. -/
theorem fullRegWrite_map (s : State) (who : Agent) (off : Nat) (v : Reg32) (h : dbgCtlAt off = none) :
    fullRegWrite s who off v = regWrite s who off v := by
  simp only [fullRegWrite, h]

theorem dbgCtlAt_hub (o : Nat) (h : o < 0x1000000) : dbgCtlAt o = none := by
  have h1 : o / 0x1000000 = 0 := Nat.div_eq_of_lt h
  simp only [dbgCtlAt, h1]
  rw [if_neg (by omega)]

theorem dbgCtlAt_ec (e r : Nat) (he : e < 128) (hr : r < 0x40000) : dbgCtlAt (ecOffset e r) = if r = 0x7000 then some e else none := by
  obtain ⟨h1, h2⟩ := dieOffset_window (e / 32) (0x40000 * (e % 32) + r) (by omega)
  simp only [dbgCtlAt, ecOffset, h1, h2]
  by_cases h : r = 0x7000
  · rw [if_pos (by omega), if_pos h]
    congr 1
    omega
  · rw [if_neg (by omega), if_neg h]

theorem dbgCtlAt_die (d o : Nat) (ho : o < 0x1000000) (h : 0x800000 ≤ o) : dbgCtlAt (dieOffset d o) = none := by
  obtain ⟨h1, h2⟩ := dieOffset_window d o ho
  simp only [dbgCtlAt, h1, h2]
  rw [if_neg (by omega)]

/-- A row for a requester that reaches its register. -/
theorem rowWrite_reached (s : State) (who : Agent) (off : Nat) (v : Reg32)
    (h1 : ∀ f, who = .bar0 f → hostMayWrite s f.val off = true) (h2 : coreClocks s = true) (h3 : agentReaches s who off true = true)
    (h4 : regClocked s off = true) (h5 : s.power.state = 4 → who = .management) :
    rowWrite s who off v true = .next (fullRegWrite s who off v) := by
  have h6 : hostInD3hot s who = false := by
    cases who with
    | bar0 f =>
      have h := h1 f rfl
      simp only [hostMayWrite, Bool.and_eq_true, Bool.not_eq_true'] at h
      simp only [hostInD3hot, h.1.1.2, Bool.and_false]
    | steward st => rfl
    | management => rfl
    | loader => rfl
  have h7 : ¬((s.power.state == 4 && who != .management) = true) := by
    intro h
    simp only [Bool.and_eq_true, beq_iff_eq, bne_iff_ne] at h
    exact h.2 (h5 h.1)
  unfold rowWrite whenEnabled agentWrite
  rw [if_pos rfl, if_neg (by rw [h6]; exact Bool.false_ne_true), if_neg h7, h4, h2, h3]
  cases who with
  | bar0 f => simp [h1 f rfl]
  | steward st => rfl
  | management => rfl
  | loader => rfl

/-- A row for a requester that does not reach its register changes nothing; one through a function in D3hot is an Unsupported Request. -/
theorem rowWrite_unreached (s : State) (who : Agent) (off : Nat) (v : Reg32) (isRow : Bool) (h : agentReaches s who off true = false)
    (h' : hostInD3hot s who = false) : rowWrite s who off v isRow = .next s := by
  cases isRow <;> simp [rowWrite, whenEnabled, agentWrite, h, h']

end Sys2Proof.Machine
end

