-- ==== Sys2Proof/Laws/Steward.lean ====
section
/-! SUPPORT. What the shared operations of a steward do: registers, retirement, an instruction that only computes, and
control transfer. -/

namespace Sys2Proof.Machine

theorem setSteward_setSteward (s : State) (k : Nat) (x y : Steward) : (s.setSteward k x).setSteward k y = s.setSteward k y := by
  simp only [State.setSteward, tabSet_tabSet]

/-- A register write changes the general registers alone. -/
theorem setReg_eq (x : Steward) (rd : BitVec 5) (v : Word64) :
    ∃ g, x.setReg rd v = { x with g } ∧
      ∀ r : BitVec 5, ({ x with g } : Steward).reg r = if r = 0 then 0 else if r = rd then v else x.reg r := by
  unfold Steward.setReg
  by_cases hd : rd = 0
  · refine ⟨x.g, by simp [hd], fun r => ?_⟩
    by_cases h0 : r = 0
    · simp [Steward.reg, h0]
    · have : ¬ r = rd := fun h => h0 (h.trans hd)
      simp only [Steward.reg, if_neg h0, if_neg this]
  · refine ⟨tabSet x.g rd.toNat v, if_neg hd, fun r => ?_⟩
    by_cases h0 : r = 0
    · simp [Steward.reg, h0]
    · by_cases hr : r = rd
      · subst hr
        simp only [Steward.reg, if_neg h0, if_true, tabGet_tabSet_same]
      · have : r.toNat ≠ rd.toNat := fun h => hr (BitVec.eq_of_toNat_eq h)
        simp only [Steward.reg, if_neg h0, if_neg hr, tabGet_tabSet_ne _ _ _ _ _ this]

/-- Retiring changes the pc, INSTRET and CYCLE of the steward; CYCLE by the latency that is given. -/
theorem retireTo_eq (s : State) (st : Nat) (lat : Option Nat) (npc : Word64) :
    ∃ c f, retireTo s st lat npc =
        { s.setSteward st { s.stewardAt st with pc := npc, instret := (s.stewardAt st).instret + 1, cycle := c } with free := f } ∧
      ∀ n, lat = some n → c = (s.stewardAt st).cycle + BitVec.ofNat 64 n := by
  cases lat with
  | none =>
    refine ⟨(s.stewardAt st).cycle + Config.freeValue s.free, s.free + 1, ?_, fun n h => by cases h⟩
    simp only [retireTo, addCycles, drawFree, State.modSteward, State.setSteward, State.stewardAt, tabGet_tabSet_same, tabSet_tabSet]
  | some m =>
    refine ⟨(s.stewardAt st).cycle + BitVec.ofNat 64 m, s.free, ?_, fun n h => by cases h; rfl⟩
    simp only [retireTo, addCycles, State.modSteward, State.setSteward, State.stewardAt, tabGet_tabSet_same, tabSet_tabSet]

/-- A register write and then the retirement. -/
theorem setReg_retireTo_eq (s : State) (st : Nat) (rd : BitVec 5) (v : Word64) (lat : Option Nat) (npc : Word64) :
    ∃ g c f, retireTo (s.modSteward st fun x => x.setReg rd v) st lat npc =
        { s.setSteward st { s.stewardAt st with g, pc := npc, instret := (s.stewardAt st).instret + 1, cycle := c } with free := f } ∧
      (∀ r : BitVec 5, ({ s.stewardAt st with g } : Steward).reg r =
        if r = 0 then 0 else if r = rd then v else (s.stewardAt st).reg r) ∧
      ∀ n, lat = some n → c = (s.stewardAt st).cycle + BitVec.ofNat 64 n := by
  obtain ⟨g, hg, hr⟩ := setReg_eq (s.stewardAt st) rd v
  obtain ⟨c, f, hc, hn⟩ := retireTo_eq (s.modSteward st fun x => x.setReg rd v) st lat npc
  refine ⟨g, c, f, ?_, hr, fun n h => ?_⟩
  · rw [hc]
    simp only [State.modSteward, hg, stewardAt_setSteward, setSteward_setSteward]
  · rw [hn n h]
    simp only [State.modSteward, hg, stewardAt_setSteward]

/-- An instruction that only computes, on a steward that starts it. -/
theorem computeReg_eq (s : State) (st : Fin 264) (rd : BitVec 5) (v : Word64) (lat : Option Nat) (h : stewardReady s st = true) :
    ∃ g c f, computeReg s st rd v lat = .next
        { s.setSteward st.val { s.stewardAt st.val with
            g, pc := (s.stewardAt st.val).pc + 4, instret := (s.stewardAt st.val).instret + 1, cycle := c } with free := f } ∧
      (∀ r : BitVec 5, ({ s.stewardAt st.val with g } : Steward).reg r =
        if r = 0 then 0 else if r = rd then v else (s.stewardAt st.val).reg r) ∧
      ∀ n, lat = some n → c = (s.stewardAt st.val).cycle + BitVec.ofNat 64 n := by
  have hp : ((s.modSteward st.val fun x => x.setReg rd v).stewardAt st.val).pc = (s.stewardAt st.val).pc := by
    obtain ⟨g, hg, -⟩ := setReg_eq (s.stewardAt st.val) rd v
    simp only [State.modSteward, hg, stewardAt_setSteward]
  obtain ⟨g, c, f, h1, h2, h3⟩ := setReg_retireTo_eq s st.val rd v lat ((s.stewardAt st.val).pc + 4)
  exact ⟨g, c, f, by simp only [computeReg, whenEnabled, h, if_true, retireNext, hp, h1], h2, h3⟩

/-- A jump to an aligned target without a link register. -/
theorem jumpTo_none (s : State) (st : Fin 264) (target : Word64) (h : target.toNat % 4 = 0) :
    jumpTo s st none target = retireTo s st.val (some 2) target := by simp [jumpTo, h]

/-- A jump to an aligned target with a link register. -/
theorem jumpTo_some (s : State) (st : Fin 264) (rd : BitVec 5) (target : Word64) (h : target.toNat % 4 = 0) :
    jumpTo s st (some rd) target =
      retireTo (s.modSteward st.val fun x => x.setReg rd ((s.stewardAt st.val).pc + 4)) st.val (some 2) target := by
  simp [jumpTo, h, State.modSteward]

/-- A jump to a target that is not a multiple of 4 is the misaligned fault. -/
theorem jumpTo_misaligned (s : State) (st : Fin 264) (link : Option (BitVec 5)) (target : Word64) (h : target.toNat % 4 ≠ 0) :
    jumpTo s st link target = stewardFault s st 0x2004 target.toNat := if_pos h

end Sys2Proof.Machine
end

