-- ==== Sys2Proof/Tests/Slice0.lean ====
section
/-! SUPPORT. Tests of one step each, against results worked out by hand from the rules, and for every claim states that meet its
hypotheses (named `test_meets_…`, after the claim). -/

namespace Sys2Proof.Tests

open Sys2Proof Sys2Proof.Machine Sys2Proof.Claims

set_option Elab.async false

/-! ### Well-formedness: one ill-formed command for each check -/

/-- A message of no body flit. -/
def msg : Message where
  type := 0
  toPartner := true
  vc := 1
  len := 0
  src := 0
  dst := 0
  ring := 0
  step := 0
  seq := 0
  addr := 0
  plen := 0
  dpart := 0
  head := []
  body := []

/-- A message with more body flits than 09_route R274 allows. -/
def longMsg : Message := { msg with len := 2049 }

/-- A convoy image that declares one EC and nothing else. -/
def image : Image where
  wellFormed := true
  footprint := [0]
  placements := []
  buffers := []
  commands := []
  partials := []
  tempoTable := []
  holdTable := []
  mapSection := []
  mapBase := 0
  stretches := []
  layers := []
  points := []
  resume := 0
  bytes := []

def frame : Frame where
  crcOk := true
  fseq := 0
  ackSeq := 0
  ackValid := false
  nak := false
  fill := 1
  credits := Vector.replicate 8 0
  messages := []

/-- A read of one line. -/
def lineRead : CacheAccess where
  partition := none
  task := none
  addr := 0
  write := none
  noAllocate := false
  arisenLow := 0
  arisenHigh := 0

theorem test_wf_control_register : (Instr.crr 0 1 18).wf = false ∧ (Instr.crw 0 1 18).wf = false := by decide
theorem test_wf_pair_reserved_bits : (Instr.signal 0 0 0x8000).wf = false ∧ (Instr.release 0 0 0x40).wf = false ∧
    (Instr.wait 256 1 0 0x4000).wf = false ∧ (Instr.waitf 0 1 0 0xFFFF).wf = false := by decide
theorem test_wf_sema_op : (Instr.semaSignalWrite .management 0 0x400000).wf = false ∧
    (Instr.semaReleaseWrite .management 0 0).wf = false := by decide
theorem test_wf_cache_access : (Instr.cacheAccess { lineRead with addr := 2 ^ 48 }).wf = false ∧
    (Instr.cacheAccess { lineRead with arisenLow := 69 }).wf = false ∧
    (Instr.cacheAccess { lineRead with arisenHigh := 69 }).wf = false ∧
    (Instr.cacheAccess { lineRead with write := some (0, []) }).wf = false ∧
    (Instr.cacheAccess { lineRead with write := some (127, [0, 0]) }).wf = false := by decide
theorem test_wf_scrub : (Instr.patrolScrub 69).wf = false := by decide
theorem test_wf_table_control : (Instr.swap .management 0 8).wf = false ∧ (Instr.restore .management 0 16).wf = false := by decide
theorem test_wf_partition_active : (Instr.partitionActivate .management 0 0).wf = false ∧
    (Instr.partitionDeactivate .management 0 0x80000000).wf = false := by decide
theorem test_wf_register_offset : (Instr.registerWrite .management 2 0).wf = false ∧
    (Instr.registerWrite .management 0x5000000 0).wf = false := by decide
theorem test_wf_doorbell : (Instr.doorbell 1 2 0 (.slots [])).wf = false ∧ (Instr.doorbell 0 1 0 (.slots [0])).wf = false ∧
    (Instr.completionTimeout 1 2 0).wf = false := by decide
theorem test_wf_go_bits : (Instr.tlbInvalidate .management 0 0).wf = false ∧ (Instr.taskStart .management 0 0 0).wf = false ∧
    (Instr.taskEnd .management 0 0 0).wf = false ∧ (Instr.yieldGo .management 0 0 0).wf = false ∧
    (Instr.reform .management 0).wf = false ∧ (Instr.leave .management 0).wf = false ∧ (Instr.pwrGo .management 0).wf = false ∧
    (Instr.pwrResume .management 0).wf = false ∧ (Instr.registerHotReset .management 0).wf = false ∧
    (Instr.recoveryGo .management 0).wf = false ∧ (Instr.kick .management 0).wf = false ∧
    (Instr.watchdogLock .management 0).wf = false ∧ (Instr.snapshotArm .management 0).wf = false ∧
    (Instr.snapshotCancel .management 0).wf = false := by decide
theorem test_wf_debug_bits : (Instr.attach .management 0 0x40000000).wf = false ∧ (Instr.halt .management 0 0).wf = false ∧
    (Instr.run .management 0 0).wf = false ∧ (Instr.step .management 0 0).wf = false := by decide
theorem test_wf_image : (Instr.ctxLoad ⟨0, 0, 0, 0, 0, 0⟩ { image with footprint := [0, 0] }).wf = false ∧
    (Instr.ctxLoad ⟨0, 0, 0, 0, 0, 0⟩ { image with points := [([0], [])] }).wf = false := by decide
theorem test_wf_frame : (Instr.frameReceive 0 { frame with fill := 65 }).wf = false ∧
    (Instr.frameReceive 0 { frame with messages := [longMsg] }).wf = false := by decide
theorem test_wf_message_sizes : (Instr.bale 0 longMsg).wf = false ∧ (Instr.bale 0 { msg with len := 1, plen := 257 }).wf = false ∧
    (Instr.bale 0 { msg with len := 1, plen := 1 }).wf = false := by decide
theorem test_wf_messages : (Instr.hopEnd 0 longMsg).wf = false ∧ (Instr.baleAck 0 longMsg).wf = false ∧
    (Instr.survey 0 longMsg).wf = false ∧ (Instr.grad 0 longMsg).wf = false ∧ (Instr.want 0 longMsg).wf = false ∧
    (Instr.dispatch 0 longMsg).wf = false ∧ (Instr.write 0 longMsg).wf = false ∧ (Instr.writeAck 0 longMsg).wf = false ∧
    (Instr.unreach 0 longMsg).wf = false ∧ (Instr.ringCheck 0 longMsg).wf = false ∧ (Instr.abort 0 longMsg).wf = false ∧
    (Instr.timeReq 0 longMsg 0 0).wf = false ∧ (Instr.timeResp 0 longMsg 0).wf = false ∧ (Instr.arrive 0 longMsg).wf = false ∧
    (Instr.badMsg 0 longMsg).wf = false := by decide
theorem test_wf_time_answer : (Instr.timeReq 0 msg 2 1).wf = false := by decide
theorem test_wf_bar0 : (Instr.bar0Access 0 0 0 none).wf = false ∧ (Instr.bar0Access 0 0x3FFFFFD 4 none).wf = false ∧
    (Instr.bar0Access 1 0x4000 4 none).wf = false ∧ (Instr.bar0Access 0 0 4 (some (.data []))).wf = false := by decide
theorem test_wf_bar2 : (Instr.bar2Access 0 0 0 none false).wf = false ∧ (Instr.bar2Access 0 0 4097 none false).wf = false ∧
    (Instr.bar2Access 0 0xFFFFFFFFF 2 none false).wf = false ∧ (Instr.bar2Access 0 0 1 (some []) false).wf = false := by decide
theorem test_wf_bar4 : (Instr.bar4Access 0 0 0 none).wf = false ∧ (Instr.bar4Access 0 0x10000 1 none).wf = false ∧
    (Instr.bar4Access 1 0x1000 1 none).wf = false := by decide
theorem test_wf_vector : (Instr.msixUnmask 1 224).wf = false := by decide
theorem test_wf_spdm : (Instr.getCertificate [] 8 0 0).wf = false ∧ (Instr.getCertificate [] 0 65536 0).wf = false ∧
    (Instr.getCertificate [] 0 0 65536).wf = false ∧ (Instr.challenge [] 8).wf = false ∧
    (Instr.getMeasurements [] 256 false).wf = false := by decide
theorem test_wf_supply : (Instr.supplyWarningBegin 0 65536).wf = false ∧ (Instr.supplyWarningEnd 0 65536).wf = false ∧
    (Instr.railBelowReset 0 65536).wf = false := by decide
theorem test_wf_thermal : (Instr.thermalSample (Vector.replicate 5 256)).wf = false ∧
    (Instr.thermalTrip (Vector.replicate 5 256)).wf = false := by decide
theorem test_wf_perst : (Instr.perstAssert 0 true).wf = false ∧ (Instr.perstDeassert 0 true).wf = false := by decide
theorem test_wf_link : (Instr.linkUp true 0 1).wf = false ∧ (Instr.linkUp true 7 1).wf = false ∧
    (Instr.linkUp true 1 3).wf = false := by decide
theorem test_wf_configuration : (Instr.configurationRequest 0 .numVfs (some (2 ^ 32))).wf = false := by decide
/-- Commands that pass. -/
theorem test_wf_accepts : (Instr.crr 0 1 17).wf = true ∧ (Instr.signal 0 0 0x4005).wf = true ∧ (Instr.add 263 31 31 31).wf = true ∧
    (Instr.ctxLoad ⟨0, 0, 0, 0, 0, 0⟩ image).wf = true ∧ (Instr.frameReceive 23 frame).wf = true ∧
    (Instr.cacheAccess lineRead).wf = true ∧ (Instr.bar0Access 0 0x3FFFFFC 4 none).wf = true := by decide

/-! ### Words of 11_steward R340, R341, written out by hand from the encoding -/

theorem test_word_add : decodeSteward 0 0x04221800 = some (.add 0 1 2 3) := by decide
theorem test_word_ldi : decodeSteward 7 0x2C211234 = some (.ldi 7 1 1 0x1234) := by decide
theorem test_word_ld64 : decodeSteward 0 0x4C810010 = some (.ld64 0 4 1 0x10) := by decide
theorem test_word_ld16u : decodeSteward 0 0x44A40000 = some (.ld16u 0 5 4 0) := by decide
theorem test_word_bne : decodeSteward 0 0x84A00006 = some (.bne 0 5 0 6) := by decide
theorem test_word_missue : decodeSteward 0 0xC0410000 = some (.missue 0 2 1 0) := by decide
theorem test_word_wait : decodeSteward 0 0xD0604003 = some (.wait 0 3 0 0x4003) := by decide
theorem test_word_tempo : decodeSteward 0 0xD8000005 = some (.tempo 0 5) := by decide
/-- An opcode that the table does not hold is illegal. -/
theorem test_word_illegal : decodeSteward 0 0xFC000000 = none := by decide
/-- The opcode table gives its rows no bits. -/
theorem test_table_words : decodeTableWord 32 0xD8000005 = none := by decide

/-! ### Stewards -/

/-- Every PLL has locked. -/
def clocked : Power := { groupPll := 0xFFFF, diePll := 0xF, hubPll := true }
/-- The part as reset left it, but for its clocks. -/
def awake : State := { State.reset with power := clocked }
/-- The part with one steward that is not as reset left it. -/
def oneSteward (n : Nat) (x : Steward) : State := { awake with stewards := [(n, x)] }
/-- A running steward at level F, at S in partition 0 with context 0, at U there. -/
def atF : Steward := { run := .running }
def atS : Steward := { run := .running, pl := 1, bound := true }
def atU : Steward := { run := .running, pl := 0, bound := true }
/-- The state that a command answers. -/
def after (i : Instr) (s : State) : State := match exec i s with | .next t => t | _ => s
/-- Register `r` of steward 0, at F with the registers `g`, after one instruction. -/
def regAfter (g : Tab Word64) (i : Instr) (r : BitVec 5) : Word64 := ((after i (oneSteward 0 { atF with g })).stewardAt 0).reg r
/-- The pc of steward 0, from 0x100, after one instruction. -/
def pcAfter (g : Tab Word64) (i : Instr) : Word64 := ((after i (oneSteward 0 { atF with g, pc := 0x100 })).stewardAt 0).pc

def minus : Nat → Word64 := fun n => 0 - BitVec.ofNat 64 n

theorem test_add_wraps : regAfter [(1, minus 1), (2, 2)] (.add 0 3 1 2) 3 = 1 := by decide +kernel
theorem test_g0_discards : regAfter [(1, 5)] (.add 0 0 1 1) 0 = 0 := by decide +kernel
theorem test_sub_order : regAfter [(1, 5), (2, 7)] (.sub 0 1 1 2) 1 = minus 2 := by decide +kernel
theorem test_shl_count_modulo : regAfter [(1, 1), (2, 65)] (.shl 0 3 1 2) 3 = 2 := by decide +kernel
theorem test_sar_sign : regAfter [(1, minus 8), (2, 2)] (.sar 0 3 1 2) 3 = minus 2 := by decide +kernel
theorem test_shr_zero_fill : regAfter [(1, minus 8), (2, 60)] (.shr 0 3 1 2) 3 = 15 := by decide +kernel
theorem test_slt_signed : regAfter [(1, minus 1), (2, 0)] (.slt 0 3 1 2) 3 = 1 := by decide +kernel
theorem test_sltu_unsigned : regAfter [(1, minus 1), (2, 0)] (.sltu 0 3 1 2) 3 = 0 := by decide +kernel
theorem test_mulhu : regAfter [(1, minus 1), (2, minus 1)] (.mulhu 0 3 1 2) 3 = minus 2 := by decide +kernel
theorem test_div_by_zero : regAfter [(1, 9)] (.div 0 3 1 0) 3 = minus 1 := by decide +kernel
theorem test_rem_by_zero : regAfter [(1, 9)] (.rem 0 3 1 0) 3 = 9 := by decide +kernel
theorem test_div_wraps : regAfter [(1, 0x8000000000000000), (2, minus 1)] (.div 0 3 1 2) 3 = 0x8000000000000000 := by decide +kernel
theorem test_min_signed : regAfter [(1, minus 1), (2, 1)] (.min 0 3 1 2) 3 = minus 1 := by decide +kernel
theorem test_maxu_unsigned : regAfter [(1, minus 1), (2, 1)] (.maxu 0 3 1 2) 3 = minus 1 := by decide +kernel
theorem test_clz_zero : regAfter [] (.clz 0 3 0) 3 = 64 := by decide +kernel
theorem test_ctz : regAfter [(1, 0x10)] (.ctz 0 3 1) 3 = 4 := by decide +kernel
theorem test_popc : regAfter [(1, 0xFF00)] (.popc 0 3 1) 3 = 8 := by decide +kernel
theorem test_addi_sign_extends : regAfter [(1, 1)] (.addi 0 3 1 0xFFFF) 3 = 0 := by decide +kernel
theorem test_ori_zero_extends : regAfter [] (.ori 0 3 0 0xFFFF) 3 = 0xFFFF := by decide +kernel
theorem test_sltiu_zero_extends : regAfter [(1, 0x10000)] (.sltiu 0 3 1 0xFFFF) 3 = 0 := by decide +kernel
theorem test_ldi_halfword : regAfter [(3, minus 1)] (.ldi 0 3 3 0x1234) 3 = 0x1234000000000000 := by decide +kernel
theorem test_insi_halfword : regAfter [(3, minus 1)] (.insi 0 3 1 0) 3 = 0xFFFFFFFF0000FFFF := by decide +kernel
theorem test_branch_back : pcAfter [] (.beq 0 0 0 0xFFFF) = 0xFC := by decide +kernel
theorem test_branch_not_taken : pcAfter [] (.bne 0 0 0 0xFFFF) = 0x104 := by decide +kernel
theorem test_bltu_unsigned : pcAfter [(1, minus 1)] (.bltu 0 0 1 4) = 0x110 := by decide +kernel
theorem test_jl_link : regAfter [] (.jl 0 0) 31 = 4 := by decide +kernel
/-- The link is written after the target is read. -/
theorem test_jlr_same_register : pcAfter [(1, 0x200)] (.jlr 0 1 1 8) = 0x208 := by decide +kernel
theorem test_jlr_misaligned : ((after (.jlr 0 1 1 2) (oneSteward 0 atU)).stewardAt 0).tcause = 0x20040000 := by decide +kernel
theorem test_stid : ((after (.crr 131 3 6) (oneSteward 131 atF)).stewardAt 131).reg 3 = 0x411 := by decide +kernel
theorem test_scall_enters : let y := (after (.scall 0) (oneSteward 0 { atU with pc := 0x40, tvec := 0x800 })).stewardAt 0
    y.pc = 0x800 ∧ y.tpc = 0x40 ∧ y.pl = 1 ∧ y.tcause = 1 := by decide +kernel
theorem test_tret_returns : let y := (after (.tret 0) (oneSteward 0 { atS with tpc := 0x44, inTrap := true })).stewardAt 0
    y.pc = 0x44 ∧ y.pl = 0 ∧ y.inTrap = false := by decide +kernel
theorem test_ldm_range : ((after (.ldm 0 1 1 0) (oneSteward 0 { atU with g := [(1, 0x10000)] })).stewardAt 0).tcause = 0x20050000 := by
  decide +kernel
theorem test_stm_little_endian :
    ((after (.stm 0 2 1 0) (oneSteward 0 { atF with g := [(1, 8), (2, 0x0102)] })).stewardAt 0).dataMemory = [(8, 2), (9, 1)] := by
  decide +kernel
theorem test_fault_code_out_of_class : ((after (.fault 0 1) (oneSteward 0 { atU with g := [(1, 0x3001)] })).stewardAt 0).tcause =
    0x20070000 := by decide +kernel



/-- Data memory of one listed byte. -/
def oneByte : List Host.Cell := [(8, 1)]

theorem test_meets_StepRunsFrontCommand : ({ State.reset with pending := [.idle 0, .resume] } : State).pending = .idle 0 :: [.resume] := by
  decide +kernel
theorem test_meets_AluRegisterResults : stewardReady (oneSteward 263 { atF with g := [(31, minus 1)] }) 263 = true := by decide +kernel
/-- A zero divisor, and −2^63 by −1. -/
theorem test_meets_DivideAndCountResults :
    (stewardReady (oneSteward 0 { atF with g := [(1, 9)] }) 0 = true ∧ regOf (oneSteward 0 { atF with g := [(1, 9)] }) 0 2 = 0) ∧
    (let s := oneSteward 0 { atU with g := [(1, 0x8000000000000000), (2, minus 1)] }
     stewardReady s 0 = true ∧ regOf s 0 2 ≠ 0 ∧ regOf s 0 1 ≠ 0) := by decide +kernel
theorem test_meets_AluImmediateResults : stewardReady (oneSteward 0 { atS with g := [(1, 5)] }) 0 = true := by decide +kernel
theorem test_meets_ControlTransfers :
    let s := oneSteward 0 { atU with pc := 0x100, g := [(1, 0x200)] }
    stewardReady s 0 = true ∧ (s.stewardAt 0).pc.toNat % 4 = 0 ∧ (regOf s 0 1 + BitVec.ofInt 64 (0xFFFC#16).toInt).toNat % 4 = 0 ∧
      regOf s 0 1 ≠ regOf s 0 0 ∧ regOf s 0 0 = regOf s 0 2 := by decide +kernel
/-- At U, S and F; a register of each group that a level may read. -/
theorem test_meets_ControlRegisters :
    (stewardReady (oneSteward 0 atU) 0 = true ∧ (atU.pl = 0) ∧ crReadable 0 0 = true ∧ crReadable 0 6 = true ∧ crReadable 0 15 = true) ∧
    (stewardReady (oneSteward 0 atS) 0 = true ∧ atS.pl = 1 ∧ crReadable 1 0 = true ∧ crReadable 1 15 = true ∧ crReadable 1 16 = false) ∧
    (stewardReady (oneSteward 256 atF) 256 = true ∧ atF.pl = 2 ∧ crReadable 2 17 = true) := by decide +kernel
theorem test_meets_TimeFenceAndDataMemory :
    let s := oneSteward 0 { atU with dataMemory := oneByte, g := [(1, 0xFFF8)] }
    stewardReady s 0 = true ∧ (s.stewardAt 0).stores = [] ∧ ((regOf s 0 1 + BitVec.ofInt 64 (0#16).toInt).toNat % 8 = 0 ∧
      (regOf s 0 1 + BitVec.ofInt 64 (0#16).toInt).toNat < 65536) ∧ Memory.wf (s.stewardAt 0).dataMemory = true ∧
      (let u := oneSteward 0 { atU with stores := [⟨0x1000, [1], none⟩] }
       stewardReady u 0 = true ∧ (u.stewardAt 0).stores ≠ []) := by decide +kernel
/-- The clauses of the fault codes, one state each where the level differs. -/
theorem test_meets_StewardFaultCodes :
    (decodeSteward 0 0 = none ∧ stewardReady (oneSteward 0 atU) 0 = true ∧ atU.stores = [] ∧ atU.pl = 0 ∧
      (17 : BitVec 5).toNat < 18 ∧ ¬((17 : BitVec 5) = 0 ∨ (6 ≤ (17 : BitVec 5).toNat ∧ (17 : BitVec 5).toNat < 16)) ∧ (17 : BitVec 5) ≠ 15) ∧
    (stewardReady (oneSteward 0 atS) 0 = true ∧ atS.pl = 1 ∧ (0 : Fin 264).val < 256 ∧ 16 ≤ (16 : BitVec 5).toNat) ∧
    (stewardReady (oneSteward 0 atF) 0 = true ∧ atF.pl = 2) ∧
    (let s := oneSteward 0 { atU with pc := 2, g := [(1, 2), (2, 0x10000)] }
     stewardReady s 0 = true ∧ (regOf s 0 1 + BitVec.ofInt 64 (0#16).toInt).toNat % 4 ≠ 0 ∧ (s.stewardAt 0).pc.toNat % 4 ≠ 0 ∧
      65536 ≤ (regOf s 0 2 + BitVec.ofInt 64 (0#16).toInt).toNat) := by decide +kernel
/-- An EC steward and a hub steward, an attached EC, and a steward under INTRAP. -/
theorem test_meets_TrapsIdleAndTimer :
    (stewardReady (oneSteward 0 atU) 0 = true ∧ atU.stores = [] ∧ atU.inTrap = false ∧ atU.pl = 0) ∧
    (stewardReady (oneSteward 256 atS) 256 = true ∧ atS.pl = 1 ∧ 256 ≤ (256 : Fin 264).val ∧ atS.tpc.toNat % 4 = 0) ∧
    (let s := { oneSteward 0 atU with ecs := [(0, { dbg := { attach := true } })] }
     stewardReady s 0 = true ∧ (s.ecAt 0).dbg.attach = true) ∧
    (stewardReady (oneSteward 0 { atU with inTrap := true }) 0 = true) ∧
    (let s := oneSteward 0 { atU with eie := true, mail := true, evmask := 8 }
     coreClocks s = true ∧ unitClocked s 0 = true ∧ debugStopped s 0 = false ∧ (s.stewardAt 0).run = .running ∧ (s.stewardAt 0).eie = true ∧
       eventBits s (s.stewardAt 0) &&& (s.stewardAt 0).evmask ≠ 0) ∧
    (let s := oneSteward 0 { atU with run := .idle, timecmp := 0, evmask := 4 }
     coreClocks s = true ∧ debugStopped s 0 = false ∧ (s.stewardAt 0).timecmp.toNat ≤ s.time.toNat) := by decide +kernel

/-- HBM window 0 and LPDDR5X window 0 are decoded and trained, and hold two bytes; partition 0 has them and EC 0. -/
def mapped (n : Nat) (x : Steward) : State :=
  { oneSteward n x with
    hbmWindows := [(0, { valid := true, trained := true })], lpdWindows := [(0, { valid := true, trained := true })]
    partitions := [(0, { active := true, hbm := 1, lpd := 1, ecs := [(0, 1)] })]
    mem := [(0x1000, 0x80), (0x1001, 0x01)] }

/-- The same with HBM window 0 under HOLD. -/
def underHold (s : State) : State := { s with hbmWindows := [(0, { valid := true, trained := true, hold := true })] }

theorem test_load_zero_extends : ((after (.ld8u 0 2 1 0) (mapped 0 { atU with g := [(1, 0x1000)] })).stewardAt 0).reg 2 = 0x80 := by
  decide +kernel
theorem test_load_sign_extends : ((after (.ld8s 0 2 1 0) (mapped 0 { atU with g := [(1, 0x1000)] })).stewardAt 0).reg 2 = minus 128 := by
  decide +kernel
/-- Little-endian, and the steward's own held store of the second byte is seen. -/
theorem test_load_sees_held_store :
    ((after (.ld16u 0 2 1 0) (mapped 0 { atU with g := [(1, 0x1000)], stores := [⟨0x1001, [0x55], some 0⟩] })).stewardAt 0).reg 2 = 0x5580 := by
  decide +kernel
theorem test_load_ignores_high_bits :
    ((after (.ld8u 0 2 1 0) (mapped 0 { atU with g := [(1, 0xFFFF000000001000)] })).stewardAt 0).reg 2 = 0x80 := by decide +kernel
theorem test_cas_exchanges : (after (.cas 0 2 1 3) (mapped 0 { atU with g := [(1, 0x1000), (2, 0x180), (3, 7)] })).mem = [(0x1000, 7)] := by
  decide +kernel
theorem test_cas_keeps : (after (.cas 0 2 1 3) (mapped 0 { atU with g := [(1, 0x1000), (2, 0x181), (3, 7)] })).mem =
    [(0x1000, 0x80), (0x1001, 0x01)] := by decide +kernel

theorem test_meets_Loads :
    (let s := mapped 0 { atU with g := [(1, 0x1000)] }
     LoadMeets s 0 (accessAddr s 0 1 0xFFF8) 8) ∧
    (let s := mapped 0 { atU with g := [(1, 0x1001), (2, 0x3FFF01000000), (3, 0x4000000000)] }
     stewardReady s 0 = true ∧ accessAddr s 0 1 0 % 2 ≠ 0 ∧ registerOffset (accessAddr s 0 2 0x4100) = some 0x1004100 ∧
       accessAddr s 0 2 0x4100 % 8 = 0 ∧ registerAllowed s 0 0x1004100 false = true ∧ registerAllowed s 0 0x1004104 false = true ∧
       regClocked s 0x1004100 = true ∧ registerOffset (accessAddr s 0 2 0x7FF8) = some 0x1007FF8 ∧
       registerAllowed (mapped 64 atU) 64 0x1004100 false = false ∧
       (let u := { mapped 0 { atF with g := [(1, 0x3FFF01200000)] } with power := { clocked with groupPll := 1 } }
        stewardReady u 0 = true ∧ registerOffset (accessAddr u 0 1 0) = some 0x1200000 ∧ registerAllowed u 0 0x1200000 false = true ∧
          registerAllowed u 0 0x1200004 false = true ∧ regClocked u 0x1200000 = false) ∧
       rangeFault s (stewardPartition s 0) (accessAddr s 0 3 0) 8 false = some (0x4004, 0x4000000000)) := by
  unfold LoadMeets; decide +kernel
/-- Misaligned; outside the partition; a full buffer; one place left. -/
theorem test_meets_StoresEnterTheBuffer :
    let full := List.replicate 16 (⟨0x1000, [1], some 0⟩ : Store)
    let s := mapped 0 { atU with g := [(1, 0x1001), (2, 0x1000), (3, 0x1800000000)], stores := full.drop 1 }
    stewardReady s 0 = true ∧ accessAddr s 0 1 0 % 8 ≠ 0 ∧ accessAddr s 0 2 0 % 8 = 0 ∧ registerOffset (accessAddr s 0 2 0) = none ∧
      accessCode s (stewardPartition s 0) (accessAddr s 0 3 0) ≠ 0 ∧ accessCode s (stewardPartition s 0) (accessAddr s 0 2 0) = 0 ∧
      (s.stewardAt 0).stores.length < 16 ∧ 16 ≤ ((mapped 0 { atU with stores := full }).stewardAt 0).stores.length := by decide +kernel
theorem test_meets_StoresToRegisters :
    let s := mapped 0 { atU with g := [(1, 0x3FFF01004100)] }
    stewardReady s 0 = true ∧ registerOffset (accessAddr s 0 1 0) = some 0x1004100 ∧ accessAddr s 0 1 0 % 8 = 0 ∧
      registerAllowed s 0 0x1004100 true = true ∧ registerAllowed s 0 0x1004104 true = true ∧ regClocked s 0x1004100 = true ∧
      (let u := { mapped 0 { atF with g := [(1, 0x3FFF01200000)] } with power := { clocked with groupPll := 1 } }
       stewardReady u 0 = true ∧ registerOffset (accessAddr u 0 1 0) = some 0x1200000 ∧ accessAddr u 0 1 0 % 8 = 0 ∧
         registerAllowed u 0 0x1200000 true = true ∧ registerAllowed u 0 0x1200004 true = true ∧ regClocked u 0x1200000 = false) ∧
      (let s := mapped 64 { atU with g := [(1, 0x3FFF01004100)] }
       stewardReady s 64 = true ∧ registerOffset (accessAddr s 64 1 0) = some 0x1004100 ∧
         registerAllowed s 64 0x1004100 true = false) := by decide +kernel
/-- A part without errors in its tiers. -/
theorem lineReads (s : State) (a : Nat) (h : s.bad = []) : LineReads s a := fun i _ => by rw [h]; exact Nat.zero_lt_two
/-- Performed; under HOLD; in the window of EC 1, which runs another context; the core clocks stopped. -/
theorem test_meets_StoreBufferDrains :
    let h : Store := ⟨0x1001, [0], some 0⟩
    let s := mapped 0 { atU with stores := [h, h] }
    (coreClocks s = true ∧ (s.stewardAt 0).stores = h :: [h] ∧ h.addr % 8 + h.bytes.length ≤ 8 ∧ windowHeld s h.addr = false ∧
      blockedEc s (stewardCtx s 0) h.addr = none ∧ rangeFault s none h.addr h.bytes.length true = none ∧ LineReads s h.addr ∧
      Memory.wf s.mem = true) ∧
    windowHeld (underHold s) h.addr = true ∧
    (let g : Store := ⟨sramBase + sramSize, [0], some 0⟩
     let u := { mapped 0 { atU with stores := [g] } with ecs := [(1, { bound := some 1 })] }
     coreClocks u = true ∧ g.addr % 8 + g.bytes.length ≤ 8 ∧ windowHeld u g.addr = false ∧
       rangeFault u none g.addr g.bytes.length true = none ∧ blockedEc u (stewardCtx u 0) g.addr = some 1) ∧
    coreClocks { s with power := { clocked with state := 7 } } = false := by
  refine ⟨⟨?_, ?_, ?_, ?_, ?_, ?_, lineReads _ _ rfl, ?_⟩, ?_, ?_, ?_⟩ <;> decide +kernel
theorem test_meets_AtomicResults :
    let s := mapped 0 { atU with g := [(1, 0x1000), (2, 0x1004), (3, 0x3FFF01004100)] }
    (stewardReady s 0 = true ∧ (regOf s 0 2).toNat % 2 ^ 48 % 8 ≠ 0 ∧ (registerOffset ((regOf s 0 3).toNat % 2 ^ 48)).isSome = true) ∧
      LoadMeets s 0 ((regOf s 0 1).toNat % 2 ^ 48) 8 ∧ (s.stewardAt 0).stores = [] ∧ Memory.wf s.mem = true ∧
      (let u := mapped 0 { atU with g := [(1, 0x1000)], stores := [⟨0x1078, [1], some 0⟩] }
       LoadMeets u 0 ((regOf u 0 1).toNat % 2 ^ 48) 8 ∧ ∃ h ∈ (u.stewardAt 0).stores, h.addr / 128 = (regOf u 0 1).toNat % 2 ^ 48 / 128) := by
  unfold LoadMeets; decide +kernel

/-- A command word in memory, byte by byte. -/
def wordBytes (l : List (Nat × Nat)) : List Host.Cell := l.map fun b => (0x2000 + b.1, BitVec.ofNat 8 b.2)
/-- A word of MATMUL for EC 0 with its record at 0x4000, one of MATMUL without a record, and an ordering BARRIER for TIME 0. -/
def matmulWord : List Host.Cell := wordBytes [(0, 0x01), (4, 1), (0x11, 0x40)]
def badWord : List Host.Cell := wordBytes [(0, 0x01), (4, 1)]
def orderWord : List Host.Cell := wordBytes [(0, 0x23), (4, 1)]
/-- Steward 0 at U before the word. -/
def issuing (m : List Host.Cell) : State :=
  { mapped 0 { atU with g := [(1, 0x2000), (2, 0x2004)] } with mem := m, contexts := [(0, { state := 4, footprint := [0] })] }
def wordAt (s : State) : List Byte := unitBytes s (stewardCtx s 0) 0x2000 64

/-- The word of SEARCH for EC 0 with its record at 0x4000, where the dragoman holds these commands. -/
def issuingSearch (held : List Nat) : State :=
  { issuing (wordBytes [(0, 0x18), (4, 1), (0x11, 0x40)]) with dies := [(0, { drgCommands := held })] }
/-- A bad word, a word under HOLD, an ordering command, a crew outside the footprint, SEARCH with and without a place at the dragoman, a supply
warning, and a steward whose command has got its place. -/
theorem test_meets_MissueAcceptsWords :
    (let s := issuing badWord
     stewardReady s 0 = true ∧ (s.stewardAt 0).stores = [] ∧ supplyHold s 0 = false ∧ accessAddr s 0 2 0 % 64 ≠ 0 ∧
       accessAddr s 0 1 0 = 0x2000 ∧ rangeFault s (stewardPartition s 0) 0x2000 64 false = none ∧ wOpcode (wordAt s) < 0x20 ∧
       wCompl (wordAt s) % 2 ^ 48 = 0 ∧ windowHeld s 0x2000 = false) ∧
    (let s := underHold (issuing badWord)
     rangeFault s (stewardPartition s 0) 0x2000 64 false = none ∧ windowHeld s 0x2000 = true) ∧
    (let s := issuing orderWord
     issueRefused 0 (wordAt s) = false ∧ issueAccepted s 0 (wordAt s) = true ∧ issueRoom s 0 (wordAt s) = true) ∧
    (let s := { issuing matmulWord with contexts := [] }
     issueRefused 0 (wordAt s) = false ∧ issueAccepted s 0 (wordAt s) = false ∧ wOpcode (wordAt s) < 0x20) ∧
    (let s := issuingSearch []
     issueRefused 0 (wordAt s) = false ∧ issueAccepted s 0 (wordAt s) = true ∧ issueRoom s 0 (wordAt s) = true ∧ wOpcode (wordAt s) = 0x18 ∧
       (drgUnplaced (s.dieAt 0)).length + (s.dieAt 0).drgCommands.length < 16) ∧
    (let s := issuingSearch (List.replicate 16 9)
     stewardReady s 0 = true ∧ (s.stewardAt 0).stores = [] ∧ rangeFault s (stewardPartition s 0) 0x2000 64 false = none ∧
       windowHeld s 0x2000 = false ∧ issueRefused 0 (wordAt s) = false ∧ issueAccepted s 0 (wordAt s) = true ∧
       issueRoom s 0 (wordAt s) = true ∧ 16 ≤ (s.dieAt 0).drgCommands.length ∧ acceptedOf s 0 + 1 ∉ (s.dieAt 0).drgCommands) ∧
    (let s := { issuing badWord with power := { clocked with warn := 1 } }
     stewardReady s 0 = true ∧ supplyHold s 0 = true) ∧
    (let s := oneSteward 0 { atU with run := .placing 3 1 }
     coreClocks s = true ∧ unitClocked s 0 = true ∧ debugStopped s 0 = false ∧ waitsForPlace s 0 1 = false) := by decide +kernel
theorem test_missue_accepts : let t := after (.missue 0 3 1 0) (issuing matmulWord)
    (t.stewardAt 0).issued = 1 ∧ (t.stewardAt 0).reg 3 = 1 ∧ acceptedOf t 0 = 1 ∧
      queueOf t 0 = [{ port := 0, acc := 1, started := false }] := by decide +kernel
theorem test_missue_bad_word : ((after (.missue 0 3 1 0) (issuing badWord)).stewardAt 0).tcause = 0x20010000 := by decide +kernel
theorem test_meets_MfenceWaitsForCommands : stewardReady (oneSteward 0 atU) 0 = true ∧ atU.retired = atU.issued ∧
    stewardReady (oneSteward 0 { atU with issued := 1 }) 0 = true := by decide +kernel

/-- EC 0 with FILL 65,535 and FREE 1 on pair 3, and EC 1 that partition 0 does not have. -/
def paired (x : Steward) : State := { mapped 0 x with ecs := [(0, { pairs := [(3, (0xFFFF#16, 1#16))] })] }
theorem test_meets_SignalAndRelease :
    (stewardReady (paired atU) 0 = true ∧ atU.stores = [] ∧ (0x8000 : BitVec 16).getLsbD 15 = true) ∧
    (pairLegal 0 0x4003 = true ∧ pairAllowed (paired atU) 0 0x4003 = true ∧ 65535 < (pairAt (paired atU) 0 3).1.toNat + 1 ∧
      (pairAt (paired atU) 0 3).2.toNat + 1 ≤ 65535) ∧
    (pairLegal 0 0x0080 = true ∧ pairAllowed (paired atU) 0 0x0080 = false) := by decide +kernel
/-- RELEASE to 65,535 is the last count that overflows nothing. -/
theorem test_release_to_limit : let t := after (.release 0 1 0x4003) (paired { atU with g := [(1, 0xFFFE)] })
    pairAt t 0 3 = (0xFFFF, 0xFFFF) ∧ (t.ecAt 0).overflow = false := by decide +kernel
theorem test_signal_overflow : let t := after (.signal 0 0 0x4003) (paired atU)
    pairAt t 0 3 = (0xFFFF, 1) ∧ (t.ecAt 0).overflow = true ∧ (t.stewardAt 0).run = .halted := by decide +kernel
/-- A stream in slot 0 of EC 0 that asks for FREE of pair 3 and a steward of EC 1 that waits for it. -/
def slotFirst : State :=
  { paired atU with
    stewards := [(2, { atU with run := .waiting 0 3 true 5 0 7 })]
    slots := [(0, { state := 2, desc := (List.replicate 64 0).set 0x14 1 |>.set 0x30 3, issued := 1, landed := [(0, [1])] })] }
/-- A count of 1, a count of 0, and another steward that waits. -/
theorem test_meets_SemaphoreWaits :
    (let s := paired atU
     stewardReady s 0 = true ∧ pairLegal 0 0x4003 = true ∧ pairAllowed s 0 0x4003 = true ∧ (pairAt s 0 3).2 ≠ 0 ∧ (pairAt s 0 4).1 = 0 ∧
       (∀ j, j < 264 → j ≠ 0 → countWaiter (s.stewardAt j) 0 3 true = false) ∧ 0 / 2 = 0) ∧
    (let s := { paired atU with stewards := [(0, { atU with run := .waiting 0 3 true 5 0 7 }), (1, { atU with run := .waiting 0 4 false 5 0 7 })] }
     coreClocks s = true ∧ debugStopped s 0 = false ∧ (s.stewardAt 0).run = .waiting 0 3 true 5 0 7 ∧ (pairAt s 0 3).2 ≠ 0 ∧
       nextAcquirer s 0 3 true = some 0 ∧ countWaiter (s.stewardAt 1) 0 4 false = true) ∧
    (let s := { paired { atU with run := .waiting 0 4 true 5 0 7 } with time := 7 }
     (pairAt s 0 4).2 = 0 ∧ (7 : Word64) ≠ 0 ∧ (0 : CTime).toNat + (7 : Word64).toNat ≤ s.time.toNat) ∧
    (coreClocks slotFirst = true ∧ debugStopped slotFirst 2 = false ∧ (slotFirst.stewardAt 2).run = .waiting 0 3 true 5 0 7 ∧
      (slotWants slotFirst 0 3 true).isSome = true) ∧
    (let s := { slotFirst with stewards := [(2, atS)], partitions := [(0, { active := true, ecs := [(0, 3)] })] }
     stewardReady s 2 = true ∧ pairLegal 2 0x0003 = true ∧ pairAllowed s 2 0x0003 = true ∧ 2 / 2 ≠ 0 ∧
       slotAsks s 0 0 0 3 true = true) := by decide +kernel

/-- Context 0 with one tempo point, 5 at pc 0x40. -/
def withPoint (x : Steward) : State :=
  { oneSteward 0 x with contexts := [(0, { state := 4, tempo := [⟨0x40, 5, ⟨0, 0, [], []⟩⟩] })] }
theorem test_meets_TempoPoints :
    (stewardReady (withPoint atU) 0 = true ∧ stewardCtx (withPoint atU) 0 = some 0 ∧
      ¬∃ e ∈ ((withPoint atU).ctxAt 0).tempo, e.pc = atU.pc.toNat ∧ e.point = (5 : BitVec 16).toNat) ∧
    (let s := withPoint { atU with pc := 0x40, tempoReq := true }
     stewardReady s 0 = true ∧ (∃ e ∈ (s.ctxAt 0).tempo, e.pc = (s.stewardAt 0).pc.toNat ∧ e.point = (5 : BitVec 16).toNat) ∧
       (s.stewardAt 0).tempoReq = true ∧ (s.stewardAt 0).pl = 0 ∧ (s.stewardAt 0).stores = [] ∧ (s.stewardAt 0).inTrap = false) ∧
    ((withPoint { atU with pc := 0x40 }).stewardAt 0).tempoReq = false := by decide +kernel
theorem test_tempo_writes_point : ((after (.tempo 0 5) (withPoint { atU with pc := 0x40 })).stewardAt 0).tpoint = 5 := by decide +kernel
/-- An illegal scope, a die word without its own EC, a ring word at U, and the legal word of EC 0 alone. -/
theorem test_meets_DieBarriers :
    let bare := { atU with g := [(1, 0x8000000000000000), (2, 2), (3, 0x4000000000000000), (4, 1)] }
    let s := oneSteward 0 bare
    let w := regOf s 0 4
    stewardReady s 0 = true ∧ bare.stores = [] ∧ 2 ≤ (regOf s 0 1).toNat / 2 ^ 62 ∧
      ((regOf s 0 2).toNat / 2 ^ 62 = 0 ∧ (regOf s 0 2).getLsbD 0 = false) ∧ ((regOf s 0 3).toNat / 2 ^ 62 = 1 ∧ bare.pl ≠ 1) ∧
      w.toNat / 2 ^ 62 = 0 ∧ w.toNat / 2 ^ 39 = 0 ∧ w.getLsbD 0 = true ∧ w.getLsbD 38 = false ∧ stewardCtx s 0 = some 0 ∧
      (∀ stw, stw < 2 → (barrierAt s (barrierKey 0 0 0 stw)).arrived = []) := by decide +kernel
theorem test_meets_DieBarrierReleasesAll :
    let b : DieBarrier := { word := 1, arrived := [(0, 9)] }
    let s := { oneSteward 0 { atU with run := .dieBarrier 0 0 5 } with dieBarriers := [(barrierKey 0 0 0 0, b)], time := 9 }
    coreClocks s = true ∧ barrierAt s (barrierKey 0 0 0 0) = b ∧ b.arrived ≠ [] ∧
      (b.arrived.map fun a => a.1.val).Nodup ∧ (∀ i, i < 32 → b.word.getLsbD i = true → ∃ a ∈ b.arrived, a.1.val = 2 * (32 * 0 + i) + 0) ∧
      (b.arrived.all fun a => decide (a.2.toNat ≤ s.time.toNat) && !debugStopped s a.1) = true ∧ (s.stewardAt 0).run = .dieBarrier 0 0 5 := by decide +kernel

/-! ### Register writes, power, clocks, resets, boot, snapshots, debug -/

def core : Agent := .management
/-- Run with firmware. -/
def serving : State := { awake with power := { clocked with phase := 2, coreRails := true, perstHigh := true, perstReleased := true }, trust := { stage := 3 } }

theorem test_meets_RegisterWriteReaches :
    (agentReaches (oneSteward 0 atU) (.steward 0) 0x80000 true = false ∧ 0x80000 % 4 = 0 ∧ 0x80000 < 0x5000000) ∧
    Reaches (oneSteward 256 atF) (.steward 256) 0x3FFFC ∧ Reaches serving (.bar0 0) 0x300000 ∧
    (Reaches awake core (dieOffset 3 0xB00000) ∧ 0xB00000 ≤ 0xB00000 ∧ 0xB00000 < 0x1000000) ∧
    hostInD3hot { serving with pcie := { functions := [(0, { d3hot := true })] } } (.bar0 0) = true ∧
    regClocked State.reset (ecOffset 0 0x4000) = false ∧
    ({ serving with power := { serving.power with state := 4 } } : State).power.state = 4 := by
  unfold Reaches; refine ⟨?_, ?_, ?_, ?_, ?_⟩ <;> decide +kernel
theorem test_meets_SemaphoreAndRowTableRegisters :
    (let s := paired atU
     isHost core = false ∧ Reaches s core (ecOffset 0 0x4000) ∧ Reaches s core (ecOffset 0 0x41FC) ∧
       ((0x00030001 : Reg32).extractLsb' 22 2 = 0 ∧ 65535 < (pairAt s 0 3).1.toNat + 1) ∧
       ((0x0004FFFF : Reg32).extractLsb' 22 2 = 0 ∧ (pairAt s 0 4).1.toNat + 65535 ≤ 65535) ∧
       ((0x0043FFFE : Reg32).extractLsb' 22 2 = 1 ∧ (pairAt s 0 3).2.toNat + 65534 ≤ 65535)) ∧
    (let s := { awake with ecs := [(1, { rowUnit := { busy := true } })] }
     tablesWriter core 0 = true ∧ Reaches s core (ecOffset 0 0x3008) ∧ Reaches s core (ecOffset 0 0x3000) ∧
       ((s.ecAt 0).rowUnit.oldTiles = 0 ∧ (s.ecAt 0).rowUnit.busy = false ∧ (s.ecAt 0).rowUnit.func.toNat < 5) ∧
       coreClocks s = true ∧ (s.ecAt 1).rowUnit.busy = true) := by
  unfold Reaches; decide +kernel
theorem test_sema_value_write : pairAt (after (.semaValueWrite core 0 63 0x00020001) awake) 0 63 = (1, 2) := by decide +kernel
theorem test_swap_epoch : ((after (.swap core 0 0x10) awake).ecAt 0).rowUnit.epoch = 1 := by decide +kernel
theorem test_meets_MemoryAndPartitionRegisters :
    (let s := mapped 0 atU
     isHubSide core = true ∧ s.posted = [] ∧ Reaches s core 0x4007C ∧ windowBusy s false 31 = false ∧ Memory.wf s.mem = true ∧
       Reaches s core 0x400BC ∧ windowBusy s true 15 = false ∧ Reaches s core (dieOffset 0 0x80001C) ∧
       wayMask s 0 0 &&& ~~~(0x00FF : BitVec 16) ≠ 0 ∧ wayMask s 0 7 &&& ~~~(0x00FF : BitVec 16) = 0) ∧
    (let s := mapped 0 atU
     isFirmware s core = true ∧ Reaches s core 0x50040 ∧ (s.partAt 1).active = false ∧
       activationOk s 1 { s.partAt 1 with ring := false } = true ∧ Reaches s core 0x50000 ∧ (s.partAt 0).active = true ∧
       partContexts s 0 = [] ∧ Reaches s core (dieOffset 3 0x90011C) ∧ Reaches s core 0x70120 ∧
       (let u := { s with partitions := [(0, { active := true, hbm := 1 }), (1, { hbm := 1 })] }
        Reaches u core 0x50040 ∧ (u.partAt 1).active = false ∧ activationOk u 1 { u.partAt 1 with ring := false } = false)) := by
  unfold Reaches; constructor <;> decide +kernel
/-- LPD_WINDOW_WRITE cannot set VALID while TRAINED is 0. -/
theorem test_lpd_window_untrained : ((after (.lpdWindowWrite core 3 0x80000003) awake).window true 3).valid = false := by decide +kernel
theorem test_way_mask_waits : let t := after (.wayMaskWrite core 0 0 0x00FF) awake
    wayMask t 0 0 = 0xFFFF ∧ (t.dieAt 0).wayPending = [(0, 0x00FF)] := by decide +kernel

def bytesOf (n : Nat) (l : Tab Nat) : List Byte := (List.range n).map fun i => BitVec.ofNat 8 (tabGet 0 l i)
/-- COPY of one tile of 64 bytes from 0x1000 to 0x8000 without pairs, at an absolute deadline. -/
def descFields : Tab Nat := [(0x01, 0x10), (0x09, 0x80), (0x10, 64), (0x14, 1), (0x27, 1), (0x31, 0x80), (0x33, 0x80)]
def desc : List Byte := bytesOf 64 descFields
def cellsOf (a : Nat) (l : Tab Nat) : List Host.Cell := l.map fun b => (a + b.1, BitVec.ofNat 8 b.2)
/-- Slot 0 of EC 0 names a good descriptor, slot 1 one of zeros; slots 2 to 4 are ARMED, occupied with a re-arm, and RUNNING. -/
def streaming : State :=
  { mapped 0 atU with
    mem := cellsOf 0x3000 descFields
    slots := [(0, { addrLo := 0x3000 / 64 }), (1, { addrLo := 0x4000 / 64 }), (2, { state := 1 }), (3, { state := 2, pend := true }), (4, { state := 2 })] }

theorem test_meets_TaskAndStreamRegisters :
    (let l : LabEntry := { part := 0, dir := 0x1000, seq := 0, chain := 0, seg := 0, addr := 0, used := 0 }
     let s := { awake with dies := [(0, { lab := [l] }), (1, { invBusy := true })] }
     isHost core = false ∧ Reaches s core (dieOffset 0 0x980000) ∧ (s.dieAt 0).invBusy = false ∧ Reaches s core (dieOffset 1 0x980000) ∧
       (s.dieAt 1).invBusy = true ∧ coreClocks s = true) ∧
    (let s := { mapped 0 { atS with tempoReq := true } with
                ecs := [(0, { bound := some 0, tasks := [(1, { active := true })] })]
                contexts := [(0, { state := 4, footprint := [0], saveLo := 0x10, savePages := 1 })] }
     atUser s (.steward 0) = false ∧ Reaches s (.steward 0) (ecOffset 0 0x5010) ∧ (tabGet {} (s.ecAt 0).tasks 1).active = true ∧
       (tabGet {} (s.ecAt 0).tasks 0).active = false ∧ Reaches s (.steward 0) (ecOffset 0 0x500C) ∧ (s.stewardAt 0).tempoReq = true ∧
       (s.ecAt 0).bound = some 0 ∧ (0, 1) ∉ s.ring.heldEnds ∧ endWaits s 0 = false ∧ postedWaits s 9 = false ∧ s.ring.task = none ∧
       rangeFault s (some (s.ctxAt 0).part.toNat) (stewardRecord (blockBase (s.ctxAt 0) (placeOf s 0 0)) 0) 64 true = none ∧
       blockedEc s (some 0) (stewardRecord (blockBase (s.ctxAt 0) (placeOf s 0 0)) 0) = none ∧ Memory.wf s.mem = true ∧
       windowHeld s (stewardRecord (blockBase (s.ctxAt 0) (placeOf s 0 0)) 0) = false) ∧
    (let s := streaming
     let part := (ownerCtx s (agentOwner s (.steward 0))).map fun c => (s.ctxAt c.val).part.toNat
     isHost (.steward 0) = false ∧ Reaches s (.steward 0) (slotOffset 0 0 8) ∧ part = some 0 ∧ rangeFault s part 0x3000 64 false = none ∧
       descriptorOk 0 (unitBytes s (ownerCtx s (agentOwner s (.steward 0))) 0x3000 64) = true ∧
       descriptorInside s 0 (unitBytes s (ownerCtx s (agentOwner s (.steward 0))) 0x3000 64) = true ∧
       descriptorOk 0 (unitBytes s (ownerCtx s (agentOwner s (.steward 0))) 0x4000 64) = false ∧
       ((s.slotAt 0 2).state = 1 ∧ (s.slotAt 0 2).pend = false ∧ (s.slotAt 0 2).command = none) ∧
       ((s.slotAt 0 3).state = 2 ∧ (s.slotAt 0 3).pend = true)) := by
  unfold Reaches; refine ⟨?_, ?_, ?_⟩ <;> decide +kernel
/-- Context 0 of EC 0 declares a layer; the ring has the state `r`, and a task of the EC is active if `active`. -/
def layered (r : Ring) (active : Bool) : State :=
  { mapped 0 atS with
    partitions := [(0, { active := true, ring := true, hbm := 1, lpd := 1, ecs := [(0, 1)] })], sync := { master := true }
    contexts := [(0, { state := 4, footprint := [0], layers := [true] })], ring := r, time := 30000
    ecs := [(0, { bound := some 0, tasks := [(0, { active })] })] }
/-- A context without layers; a caravan task that may begin, one that the ring does not carry, and an END before and after its release time
plus MARGIN. -/
theorem test_meets_TaskAndStreamRegisters_caravan :
    (let s := { layered {} false with contexts := [(0, { state := 4, footprint := [0] })] }
     Reaches s (.steward 0) (ecOffset 0 0x5000) ∧ ∀ c : Fin 64, ¬((s.ecAt 0).bound = some c ∧ (s.ctxAt c.val).layers ≠ [])) ∧
    (let s := layered { state := 2, members := [0, 1] } false
     (s.ecAt 0).bound = some 0 ∧ (s.ctxAt 0).layers ≠ [] ∧ caravanCode s (s.partAt (s.ctxAt 0).part.toNat).ring = 0) ∧
    (let s := layered {} false
     (s.ecAt 0).bound = some 0 ∧ (s.ctxAt 0).layers ≠ [] ∧ caravanCode s (s.partAt (s.ctxAt 0).part.toNat).ring ≠ 0 ∧ s.ring.task ≠ some 0) ∧
    (let past := fun m : BitVec 32 => layered { task := some 0, layer := 1, finalRelease := some 0, margin := m } true
     let s := past 30001
     (tabGet {} (s.ecAt 0).tasks 0).active = true ∧ s.ring.heldEnds = [] ∧ endWaits s 0 = true ∧ endWaits (past 30000) 0 = false) := by
  unfold Reaches; decide +kernel
theorem test_stream_arm : let t := after (.streamArm (.steward 0) 0 0 false) streaming
    (t.slotAt 0 0).state = 1 ∧ (t.slotAt 0 0).desc = desc := by decide +kernel
theorem test_stream_cancel_running : ((after (.streamCancel (.steward 0) 0 4) streaming).slotAt 0 4).state = 3 := by decide +kernel

/-- The reset part in its recovery hold, with an image of one body page in SRAM and two pages declared. -/
def inHold : State :=
  { awake with trust := { stage := 4, rcvPages := 2, sram := bytesOf 16 [(9, 0x10)] }, time := 5 }
def locked : State := { awake with trust := { wdogLock := true, wdogEn := true }, time := 9 }

theorem test_meets_ConfigurationRegisterWrites :
    (let s := awake
     isFirmware s core = true ∧ Reaches s core 0x80114 ∧ Reaches s core 0x80200 ∧ Reaches s core 0x10045C ∧ Reaches s core 0x70010 ∧
       (let v : Reg32 := 0x00640050  -- 100 and 80 mV
        (v.extractLsb' 0 16).toNat + 20 ≤ (v.extractLsb' 16 16).toNat) ∧
       (let v : Reg32 := 0x00640051
        (v.extractLsb' 16 16).toNat < (v.extractLsb' 0 16).toNat + 20) ∧
       (let v : Reg32 := 0x6E68
        (v.extractLsb' 8 8).toNat ≤ 110 ∧ (v.extractLsb' 0 8).toNat + 5 < (v.extractLsb' 8 8).toNat) ∧
       (let v : Reg32 := 0x6E69
        (v.extractLsb' 8 8).toNat ≤ (v.extractLsb' 0 8).toNat + 5) ∧
       (let v : Reg32 := 0x408
        (v.extractLsb' 6 6).toNat + (v.extractLsb' 0 6).toNat ≤ 24) ∧
       (let v : Reg32 := 0x409
        24 < (v.extractLsb' 6 6).toNat + (v.extractLsb' 0 6).toNat)) ∧
    (Reaches inHold core 0x90110 ∧ inHold.trust.stage = 4 ∧ steppingsAgree inHold = true ∧ inHold.trust.rcvBusy = false ∧
      inHold.trust.rcvPages.toNat * 4096 = imgLen inHold.trust.sram + 4096 ∧
      inHold.trust.rcvPages.toNat * 4096 ≠ imgLen (bytesOf 16 []) + 4096) ∧
    (locked.trust.wdogLock = true ∧ (0xC00007D0 : Reg32).getLsbD 30 = locked.trust.wdogEn ∧ (0x800007D0 : Reg32).getLsbD 30 ≠ locked.trust.wdogEn ∧
      (0xC00007D0 : Reg32).extractLsb' 0 16 = locked.trust.wdogTimeout ∧ coreClocks locked = true ∧ State.reset.trust.wdogLock = false) := by
  unfold Reaches; decide +kernel
theorem test_rail_config_order : railReset (after (.railCfgWrite core 0 0x00640051) awake) 0 = 680 := by decide +kernel
theorem test_watchdog_kick : (after (.kick core 0xC00007D0) locked).trust.wdogSince = 9 := by decide +kernel

/-- The header of a request for the part, of vendor ID 0x1F5C and with a good PEC, at the address of strap 0. -/
def smbus : Smbus := { address := 0x4C, pecOk := true, vendor := 0x1F5C }
def sleeping : State := { serving with power := { serving.power with state := 2, busy := true, moving := some 1, selfRefresh := true } }
def ending : State := { serving with power := { serving.power with busy := true, moving := some 4 } }

theorem test_meets_PowerStateMoves :
    (isFirmware serving core = true ∧ Reaches serving core 0x80000 ∧ serving.trust.stage ≠ 4 ∧ serving.power.state = 0 ∧
      vendorHears serving = true ∧ ¬RefusesGo serving 4 ∧ RefusesGo serving 5 ∧ RefusesGo ending 1 ∧ ¬EmergencyHolds serving) ∧
    (let s := { serving with power := { serving.power with warn := 1, sEmerg := true } }
     EmergencyHolds s ∧ RefusesGo s 0) ∧
    (ending.power.moving = some 4 ∧ (∀ c, c < 64 → (ending.ctxAt c).state ∉ [3, 4, 5]) ∧ ending.power.state = 0) ∧
    (sleeping.power.moving = some 1 ∧ (∀ c, c < 64 → (sleeping.ctxAt c).state ∉ [3, 4, 5]) ∧ sleeping.power.state = 2 ∧ (1 : BitVec 3).toNat < 2) ∧
    vendorHears { serving with trust := { serving.trust with smbus := some { smbus with vendor := 0x8086 } } } = false := by
  unfold Reaches RefusesGo EmergencyHolds; dsimp only; refine ⟨⟨?_, ?_, ?_, ?_, ?_, ?_, ?_, ?_, ?_⟩, ?_, ?_, ?_, ?_⟩ <;> decide +kernel
theorem test_power_off : (after .powerTransitionComplete ending).power.pwrEn = false := by decide +kernel
theorem test_power_refused : (after (.pwrGo core 0x80000005) serving).power.code = 0x6006 := by decide +kernel

def dipping : State := { serving with power := { serving.power with warn := 1, warnSince := [(0, 0#64)] }, time := 1000000 }
def hot (n : Nat) : Vector Nat 5 := #v[40, n, 41, 42, 43]
theorem test_meets_SupplyAndTemperature :
    (let s := serving
     s.power.coreRails = true ∧ s.power.warn.getLsbD 0 = false ∧ 704 < railWarn s 0 ∧ 679 < railReset s 0 ∧ s.power.state ≠ 4 ∧ 729 < railReset s 5) ∧
    (let s := dipping
     s.power.warn.getLsbD 0 = true ∧ railWarn s 0 + 10 ≤ 715 ∧ s.power.sEmerg = false ∧ s.power.state ≠ 7 ∧
       (tabGet 0 s.power.warnSince 0).toNat + 1000000 ≤ s.time.toNat) ∧
    (105 ∈ (hot 105).toList ∧ ((hot 105).toList.all fun r => decide (r ≤ 105)) = true ∧ serving.power.thermEmerg.toNat ≤ 105 ∧
      serving.power.tEmerg = false) ∧
    (115 ∈ (hot 115).toList ∧ ((hot 115).toList.all fun r => decide (r ≤ 115)) = true ∧ serving.power.state ≠ 7 ∧ 115 ≤ 115 ∧ 114 < 115) ∧
    (92 + 3 ≤ serving.power.thermWarn.toNat ∧ 93 + 3 > serving.power.thermWarn.toNat) := by decide +kernel
theorem test_thermal_emergency : (after (.thermalSample (hot 105)) serving).power.code = 0x6004 := by decide +kernel
theorem test_thermal_trip_at_115 : (after (.thermalTrip (hot 115)) serving).power.tripped = true ∧
    (after (.thermalTrip (hot 114)) serving).power.tripped = false := by decide +kernel
theorem test_supply_emergency : (after (.supplyEmergency 0) dipping).power.sEmerg = true := by decide +kernel

theorem test_meets_ComputeClocks :
    (let s := { serving with power := { serving.power with groupPll := 0x8000, diePll := 1, starting := [(3, 1), (16, 2)] } }
     s.power.state = 0 ∧ s.power.idleUs ≠ 0 ∧ s.power.groupPll.getLsbD 15 = true ∧ groupIdle s 15 = true ∧ s.power.diePll.getLsbD 0 = true ∧
       (∀ i, i < 4 → s.power.groupPll.getLsbD (4 * 0 + i) = false) ∧ (s.dieAt 0).invBusy = false ∧ (s.dieAt 0).drgJobs = [] ∧
       (s.dieAt 0).drgCommands = [] ∧ s.slots = [] ∧ s.posted = [] ∧ s.power.hubPll = true ∧ pllRuns s 1 = false ∧ pllRuns s 17 = false ∧
       (∃ e ∈ s.power.starting, e.1 = 16) ∧
       s.power.starting.find? (fun e => e.1 == 3) = some (3, 1) ∧ s.power.starting.find? (fun e => e.1 == 16) = some (16, 2)) ∧
    (State.reset.power.starting.find? (fun e => e.1 == 20) = none ∧ State.reset.power.pwrEn = true ∧ State.reset.power.hubPll = false ∧
      State.reset.power.state ≠ 7) := by decide +kernel
theorem test_pll_third_failure : let t := after (.pllLockFailure 16) { serving with power := { serving.power with starting := [(16, 2)] } }
    t.power.state = 7 ∧ t.power.code = 0x6007 := by decide +kernel

theorem test_meets_ResetsAndLinkUp :
    (1000 ≤ 1000 ∧ serving.power.perstHigh = true ∧ serving.power.perstReleased = true ∧ State.reset.power.perstHigh = false ∧
      State.reset.power.perstReleased = false) ∧
    (serving.power.state ≠ 7 ∧ serving.power.state ≠ 4 ∧ serving.trust.stage = 3 ∧ serving.power.hotReset = false ∧
      Reaches serving core 0x80300) ∧
    ({ serving with power := { serving.power with hotReset := true } } : State).power.hotReset = true ∧
    (let s := { serving with trust := { serving.trust with wdogEn := true, wdogTimeout := 1 }, time := 100000000 }
     s.trust.wdogEn = true ∧ s.trust.wdogSince.toNat + 1000000 * max 100 (min 60000 s.trust.wdogTimeout.toNat) ≤ s.time.toNat) ∧
    (let s := { serving with pcie := { controllerReset := false } }
     s.pcie.controllerReset = false ∧ s.power.state ≠ 4 ∧ 16 ∈ [1, 2, 4, 8, 16] ∧ vendorHears s = true) := by
  unfold Reaches; decide +kernel
theorem test_perst_too_short : after (.perstAssert 999 true) serving = serving := by decide +kernel
theorem test_power_on_keeps_fuses :
    (after .powerOnReset { State.reset with trust := { svnMin := 7, fuses := [(3, 9)] }, time := 5 }).trust.svnMin = 7 := by decide +kernel
theorem test_watchdog_floor :
    let s := { serving with trust := { serving.trust with wdogEn := true, wdogTimeout := 1 }, time := 99999999 }
    after .watchdogExpiry s = s := by decide +kernel

theorem test_meets_BootSequence :
    (State.reset.power.pwrEn = true ∧ State.reset.power.coreRails = false ∧ steppingsAgree State.reset = true ∧
      steppingsAgree { State.reset with trust := { fuses := [(11, 1)] } } = false) ∧
    (let s := { awake with power := { clocked with coreRails := true }, trust := { stage := 1 } }
     s.trust.stage = 1 ∧ s.power.coreRails = true ∧ imageCode s ((spiAfterReset s.trust).take 0x2000000) ≠ 0) ∧
    (let s := { serving with power := { serving.power with phase := 0 } }
     s.trust.stage = 3 ∧ s.power.state ≠ 7 ∧ s.power.hotReset = false ∧ s.power.phase = 0 ∧ s.power.lpdTrained = false) ∧
    (let s := { serving with power := { serving.power with phase := 1 } }
     s.trust.stage = 3 ∧ s.power.state ≠ 7 ∧ s.power.hotReset = false ∧ s.power.phase = 1 ∧ s.power.hbmTrained = false ∧
       ({ s with power := { s.power with hbmTrained := true } } : State).power.hbmTrained = true ∧
       ∀ c, c < 64 → (s.ctxAt c).state ∉ [3, 4, 5]) ∧
    (let s := { inHold with trust := { inHold.trust with rcvBusy := true } }
     s.trust.stage = 4 ∧ s.trust.rcvBusy = true ∧ imageCode s s.trust.sram ≠ 0) ∧
    ({ serving with trust := { serving.trust with update := some ([1], ⟨0, 0, 0, 0, 0, 0⟩) } } : State).trust.update =
      some ([1], ⟨0, 0, 0, 0, 0, 0⟩) := by decide +kernel
theorem test_no_image : (after (.imageVerify true) { awake with power := { clocked with coreRails := true }, trust := { stage := 1 } }).trust.code = 0x5001 := by
  decide +kernel

def soon : State := { serving with snap := { tLo := 10000 } }
theorem test_meets_Snapshots :
    (isFirmware soon core = true ∧ Reaches soon core 0xB0000 ∧ soon.snap.armed = none ∧ soon.power.state = 0 ∧ soon.power.busy = false ∧
      soon.time.toNat + 10000 ≤ soon.snap.tHi.toNat * 2 ^ 32 + soon.snap.tLo.toNat ∧
      soon.snap.tHi.toNat * 2 ^ 32 + soon.snap.tLo.toNat < soon.time.toNat + 2 ^ 40) ∧
    (let s := { serving with snap := { tLo := 9999 } }
     ¬(s.time.toNat + 10000 ≤ s.snap.tHi.toNat * 2 ^ 32 + s.snap.tLo.toNat)) ∧
    (let s := { serving with snap := { armed := some 7 } }
     s.snap.armed = some 7 ∧ s.snap.taken = false ∧ s.time.toNat < (7 : CTime).toNat ∧
       (7 : CTime).toNat ≤ ({ s with time := 7 } : State).time.toNat) ∧
    (let s := { serving with snap := { armed := some 7, taken := true } }
     s.snap.armed = some 7 ∧ s.snap.taken = true) := by unfold Reaches; decide +kernel
theorem test_snapshot_bounds : (after (.snapshotArm core 0x80000000) soon).snap.armed = some 10000 ∧
    (after (.snapshotArm core 0x80000000) { serving with snap := { tLo := 9999 } }).snap.refused = true := by decide +kernel

/-- EC 0 halted by Mladkin, with both stewards of it stopped, and EC 1 halting. -/
def debugged (x : Steward) (d : DebugRegs) : State := { mapped 0 x with ecs := [(0, { dbg := d }), (1, { dbg := { halting := true } })] }
def haltedRegs : DebugRegs := { attach := true, halted := true }
theorem test_meets_DebugControl :
    (let s := oneSteward 0 atU
     debugWriter core = true ∧ Reaches s core (ecOffset 0 0x7000) ∧ (s.ecAt 0).dbg.halted = false ∧ (s.ecAt 0).dbg.halting = false) ∧
    (let s := debugged { atU with run := .halted } haltedRegs
     (s.ecAt 1).dbg.halting = true ∧ (s.ecAt 0).dbg.attach = true ∧ (s.ecAt 0).dbg.halted = true ∧ (s.ecAt 0).dbg.halting = false ∧
       (s.stewardAt 0).run = .halted ∧ (s.stewardAt 1).run = .halted) ∧
    (let s := { debugged atU haltedRegs with mem := [(0, 7), (2, 0x20), (3, 0x08)] }
     selSteward s 0 = 0 ∧ rangeFault s (stewardPartition s 0) ((s.stewardAt 0).pc.toNat % 2 ^ 48) 4 false = none ∧
       (s.stewardAt 0).run = .running ∧ eventTrapDue s (s.stewardAt 0) = false ∧
       decodeSteward 0 (BitVec.ofNat 32 (leNat (cellsRead s.mem ((s.stewardAt 0).pc.toNat % 2 ^ 48) 4))) = some (.addi 0 1 0 7)) ∧
    (let s := debugged atU haltedRegs
     Reaches s core (ecOffset 0 0x7008) ∧ Reaches s core (ecOffset 0 0x700C) ∧ (s.ecAt 0).dbg.halted = true ∧ (s.ecAt 0).dbg.selPc = false ∧
       (debugged atU { haltedRegs with selPc := true }).ecAt 0 = { dbg := { haltedRegs with selPc := true } }) ∧
    (let s := { oneSteward 0 atU with ecs := [(0, { bound := some 0 })] }
     (s.ecAt 0).dbg.halted = false ∧ (s.ecAt 0).bound ≠ none) := by unfold Reaches; decide +kernel
/-- The word at the pc of a halted steward is ADDI g1 := g0 + 7: STEP runs it and halts again. -/
theorem test_step_runs_one : let t := after (.step core 0 0x90000000) { debugged atF haltedRegs with mem := [(0, 7), (2, 0x20), (3, 0x08)] }
    (t.stewardAt 0).reg 1 = 7 ∧ (t.ecAt 0).dbg.halting = true ∧ (t.ecAt 0).dbg.why = 3 := by decide +kernel

/-! ### Links, the ring, caravan time, the host, supervisor commands -/

/-- The part in Run with one port that is not as reset left it. -/
def onePort (n : Nat) (p : Port) : State := { serving with ports := [(n, p)], time := 2000000 }
def identRec : IdentRec where
  loc := 9
  port := 0
  group := 0
  isSwitch := false
  digest := 0
  stepping := 0
  ringId := 0
  position := 0
  synced := false

theorem test_meets_PortStatesAndFrames :
    coreClocks (onePort 0 {}) = true ∧
    (((onePort 0 {}).portAt 0).state = 0 ∧ ((onePort 0 {}).portAt 0).en = true ∧ (onePort 0 {}).power.coreRails = true) ∧
    (let p := (onePort 23 { state := 7 }).portAt 23
     p.state = 7) ∧
    (let s := onePort 0 { state := 1 }
     (s.portAt 0).state = 1 ∧ (s.portAt 0).since.toNat + 2000000 ≤ s.time.toNat) ∧
    (let s := onePort 0 { state := 4, since := 1900000 }
     (s.portAt 0).state = 4 ∧ (s.portAt 0).since.toNat + 100000 ≤ s.time.toNat) ∧
    (let s := onePort 0 { state := 2, since := 1000000 }
     (s.portAt 0).state = 2 ∧ (s.portAt 0).since.toNat + 1000000 ≤ s.time.toNat ∧ (∀ k ∈ upPorts s 0, (s.portAt k).loc = identRec.loc ∧ (s.portAt k).pgroup.toNat = identRec.group.val) ∧
       frame.crcOk = true ∧ frame.fill ≠ 0 ∧ frame.fseq = (s.portAt 0).expect ∧ ({ frame with fseq := 1 } : Frame).fseq ≠ (s.portAt 0).expect ∧
       ({ frame with crcOk := false } : Frame).crcOk = false) ∧
    (let s := onePort 0 { state := 3, lastGoodAt := 1990000, replay := [(4, 1, []), (5, 1, [])], resend := 1, fseq := 6 }
     (s.portAt 0).state = 3 ∧ (s.portAt 0).lastGoodAt.toNat + 10000 ≤ s.time.toNat ∧ (s.portAt 0).loc ≠ identRec.loc ∧ 0 < (s.portAt 0).resend ∧
       (s.portAt 0).replay.map Prod.fst = [4] ++ 5 :: [] ∧ (5 : BitVec 16) ∉ [(4 : BitVec 16)]) ∧
    (let s := onePort 0 { state := 3, transmit := [{ msg }] }
     let u := countHubHeld (pump s 0) 0
     (s.portAt 0).state = 3 ∧ (u.portAt 0).resend = 0 ∧ (u.portAt 0).replay.length < 32 ∧ (sendable u 0).1 ≠ []) ∧
    (let s := onePort 0 { state := 2 }
     (s.portAt 0).state = 2 ∧ (s.portAt 0).resend = 0 ∧ (sendable s 0).1 = []) ∧
    (let s := onePort 23 { state := 2 }
     (s.portAt 23).state = 2 ∧ 23 / 8 = 2 ∧ identRec.isSwitch = false) ∧
    (let s := onePort 5 { state := 6, en := false }
     Reaches s core (0x100000 + 16 * 5) ∧ (s.portAt 5).state = 6 ∧ (s.portAt 4).state ≠ 6) ∧
    isBadMessage 0 { msg with type := 0x05 } = true := by unfold Reaches; decide +kernel
theorem elapsed_some (s : State) (o : Option CTime) (x : CTime) (n : Nat) (h : o = some x) (hx : x.toNat + n ≤ s.time.toNat) : Elapsed s o n := by
  intro y hy; rw [h] at hy; cases hy; exact hx
theorem elapsed_none {s : State} (o : Option CTime) (n : Nat) (h : o = none) : Elapsed s o n := by
  intro y hy; rw [h] at hy; cases hy
/-- The intervals of probes and of IDENTs have passed, or not; an IDENT goes out on a port in IDENT and on one in UP with a credit. -/
theorem test_meets_PortStatesAndFrames_intervals :
    (let s := onePort 0 { probeAt := some 1000000 }
     Elapsed s (s.portAt 0).probeAt 1000000) ∧
    ¬Elapsed (onePort 0 { probeAt := some 1000001 }) ((onePort 0 { probeAt := some 1000001 }).portAt 0).probeAt 1000000 ∧
    (let s := onePort 0 { state := 2, identAt := some 1990000 }
     (s.portAt 0).state = 2 ∧ Elapsed s (s.portAt 0).identAt 10000) ∧
    (let s := { onePort 0 { state := 3 } with groups := [(0, { credits := [(0, 1)] })] }
     (s.portAt 0).state = 3 ∧ Elapsed s (s.portAt 0).identAt 1000000 ∧ 1 ≤ tabGet 0 (s.groupAt 0).credits 0) ∧
    (let s := onePort 0 { state := 3 }
     (s.portAt 0).state = 3 ∧ upPorts s 0 ≠ [] ∧ tabGet 0 (s.groupAt 0).credits 0 = 0 ∧ Elapsed s (s.portAt 0).identAt 1000000) := by
  refine ⟨elapsed_some _ _ 1000000 _ rfl (by decide +kernel), fun h => absurd (h 1000001 rfl) (by decide +kernel), ⟨by decide +kernel, elapsed_some _ _ 1990000 _ rfl (by decide +kernel)⟩,
    ⟨by decide +kernel, elapsed_none _ _ rfl, by decide +kernel⟩, by decide +kernel, by decide +kernel, by decide +kernel, elapsed_none _ _ rfl⟩
theorem test_ident_miswired : ((after (.ident 23 identRec) (onePort 23 { state := 2 })).portAt 23).state = 7 := by decide +kernel
/-- A frame carries at most 64 flits: the first message of 66 flits goes on in the next frame. -/
theorem test_frame_of_64_flits : let p := (after (.frameSend 0) (onePort 0 { state := 2, transmit := [{ msg := { msg with len := 65 } }] })).portAt 0
    p.sentFlits = 64 ∧ p.transmit.length = 1 ∧ p.fseq = 1 := by decide +kernel
theorem test_train_timeout_time : ((after (.trainTimeout 0) (onePort 0 { state := 1, since := 1 })).portAt 0).state = 1 := by decide +kernel

/-- A FORMED ring of two whose caravan task is of context 0 in partition 0, and one slot that waits for two acknowledgements. -/
def ringed : State :=
  { mapped 0 atU with
    contexts := [(0, { state := 4 })]
    ring := { state := 2, members := [0, 1], len := 2, task := some 0, table := [(0, 0x00010000)] }
    slots := [(130 * 64, { state := 2, desc := bytesOf 64 [(0x26, 3), (0x36, 0x19)], sent := [⟨2, 6, 8⟩, ⟨2, 7, 7⟩], unacked := [⟨2, 6, 8⟩], writeAcks := [⟨2, 7, 7⟩] })]
    partitions := [(0, { active := true, hbm := 1, lpd := 1, ecs := [(0, 1)], rwinPages := 1 })] }
/-- A message with one body flit of two bytes. -/
def sends (type : Byte) (vc : Fin 8) : Message := { msg with type, vc, len := 1, plen := 2, body := [1, 2] }

theorem test_meets_MessagesTakeEffect :
    (Arrives ringed 0 0x10 (sends 0x10 2) ∧ Arrives ringed 1 0x11 (sends 0x11 2) ∧ Arrives ringed 0 0x12 (sends 0x12 3)) ∧
    (Arrives ringed 0 0x13 (sends 0x13 4) ∧ Arrives ringed 1 0x0B (sends 0x0B 1) ∧ Arrives ringed 2 0x18 (sends 0x18 5)) ∧
    (Arrives ringed 2 0x19 (sends 0x19 6) ∧ Arrives ringed 2 0x1A (sends 0x1A 7) ∧ Arrives ringed 2 0x1B (sends 0x1B 7)) ∧
    (Arrives ringed 2 0x04 (sends 0x04 0) ∧ Memory.wf ringed.mem = true ∧ ringed.ring.task = some 0) ∧
    (InRemote ringed 0 0 4096 ∧ ¬InRemote ringed 0 4095 2 ∧ rangeFault ringed (some 0) 0 2 true = none) ∧
    (unitGroup 130 = 2 ∧ (tabGet {} ringed.slots (130 * 64)).state = 2 ∧ ⟨2, 6, 8⟩ ∈ (tabGet {} ringed.slots (130 * 64)).sent ∧
      ⟨2, 7, 7⟩ ∈ (tabGet {} ringed.slots (130 * 64)).sent) ∧
    (ringed.ring.members.length = 2 ∧ ([1].headD 0 = (ringed.ring.position.toNat + 1) % ringed.ring.members.length)) := by
  unfold Arrives InRemote; dsimp only
  refine ⟨⟨?_, ?_, ?_⟩, ⟨?_, ?_, ?_⟩, ⟨?_, ?_, ?_⟩, ⟨?_, ?_, ?_⟩, ⟨?_, ?_, ?_⟩, ⟨?_, ?_, ?_, ?_⟩, ?_, ?_⟩ <;> decide +kernel
/-- Only slot 0 of unit 130 has the message that an UNREACH or a WRITE_ACK names. -/
theorem test_meets_MessagesTakeEffect_fails (j : Nat) (i : MsgId) (h : i ∈ (tabGet {} ringed.slots j).sent) : j = 130 * 64 := by
  by_contra hj
  have : tabGet ({} : Slot) ringed.slots j = {} := by simp [ringed, tabGet]; omega
  rw [this] at h; cases h
/-- A part without errors in its tiers. -/
theorem unimpeded (s : State) (c : Option (Fin 64)) (a n : Nat) (hb : s.bad = []) (hh : spanHeld s a n = false)
    (hx : ∀ i, i < n → blockedEc s c (a + i) = none) : Unimpeded s c a n :=
  ⟨hh, hx, fun _ _ _ => by rw [hb]; exact Nat.zero_lt_two⟩
/-- The last two bytes of a remote window, free and under HOLD. -/
theorem test_meets_MessagesTakeEffect_memory :
    (InRemote ringed 0 4094 2 ∧ ringed.power.state ≠ 2 ∧ ringed.power.state ≠ 3 ∧ rangeFault ringed (some 0) 4094 2 true = none) ∧
    Unimpeded ringed none 4094 2 ∧ Memory.wf ringed.mem = true ∧ (InRemote (underHold ringed) 0 4094 2 ∧ spanHeld (underHold ringed) 4094 2 = true) ∧
    ((ringed.groupAt 0).serai.map msgFlits).sum + msgFlits (sends 0x10 2) ≤ 131072 := by
  unfold InRemote; refine ⟨?_, unimpeded _ _ _ _ rfl ?_ ?_, ?_, ?_, ?_⟩ <;> decide +kernel
theorem test_dispatch_stores : (after (.dispatch 2 { sends 0x19 6 with addr := 4094 }) ringed).mem =
    [(0xFFE, 1), (0xFFF, 2), (0x1000, 0x80), (0x1001, 0x01)] := by decide +kernel
theorem test_dispatch_outside : (after (.dispatch 2 { sends 0x19 6 with addr := 4095 }) ringed).mem = ringed.mem := by decide +kernel

/-- A part with location 0 whose ring table names 0 and 1; `n` is LEN. -/
def ringTable (n : BitVec 11) (k : Nat) : State :=
  { serving with ring := { state := k, len := n, table := [(0, 0x00010000)], members := [0, 1], checkSent := true, downGroup := true }, time := 10000000 }
theorem test_meets_RingFormationAndBreak :
    (isHubSide core = true ∧ Reaches (ringTable 2 0) core 0x100200 ∧ (ringTable 2 0).ring.task = none ∧
      ((List.range 2).map fun k => memberEntry (ringTable 2 0) k).Nodup ∧
      (ringTable 2 0).trust.locRack ∈ (List.range 2).map fun k => memberEntry (ringTable 2 0) k) ∧
    (¬(1 ≤ (ringTable 0 0).ring.len.toNat) ∧ (ringTable 1 0).ring.len.toNat = 1) ∧
    ringed.ring.task ≠ none ∧
    (let s := ringTable 2 1
     let m := { msg with type := 0x02, vc := 0, head := [(ringHash s.ring.ringId s.ring.members).toNat] }
     Arrives s 0 0x02 m ∧ s.ring.state = 1 ∧ s.ring.checkSent = true ∧ s.ring.downGroup = true ∧
       m.head.getD 0 0 = (ringHash s.ring.ringId s.ring.members).toNat ∧ s.ring.formingSince.toNat + 10000000 ≤ s.time.toNat) ∧
    (let s := { ringTable 2 2 with groups := [(1, { lostSince := some 9800000 })] }
     coreClocks s = true ∧ s.ring.state = 2 ∧ 2 ≤ s.ring.members.length ∧ s.ring.task = none ∧ (s.groupAt 1).lostSince = some 9800000 ∧
       (9800000 : CTime).toNat + 200000 ≤ s.time.toNat) ∧
    (let s := { ringTable 2 2 with groups := [(1, { changed := true })] }
     s.ring.task = none ∧ (s.groupAt 1).changed = true) ∧
    (Arrives (ringTable 2 3) 1 0x03 { msg with type := 0x03, vc := 0, head := [0, 5] } ∧ (ringTable 2 3).ring.state = 3) ∧
    (let s := { ringed with groups := [(1, { changed := true })] }
     coreClocks s = true ∧ s.ring.state = 2 ∧ 2 ≤ s.ring.members.length ∧ s.ring.task = some 0 ∧ (s.ctxAt 0).state ≠ 6 ∧
       s.ring.layer < max 1 (s.ctxAt 0).layers.length ∧ (s.groupAt 1).changed = true) := by
  unfold Arrives Reaches; dsimp only; refine ⟨?_, ?_, ?_, ?_, ?_, ?_, ?_, ?_⟩ <;> decide +kernel
theorem test_ring_of_one : (after (.reform core 0x80000000) (ringTable 1 0)).ring.state = 2 := by decide +kernel
theorem test_ring_table_invalid : (after (.reform core 0x80000000) { ringTable 2 0 with ring := { len := 2 } }).ring.code = 0x3002 := by
  decide +kernel

/-- Hub steward 0 at S before a ring-scope BARRIER, without a context; partition 0 has the ring, which has two members. -/
def atRing (x : Steward) (r : Ring) : State := { oneSteward 256 x with ring := r, partitions := [(0, { ring := true })], sync := { master := true }, time := 30005 }
def hubS : Steward := { run := .running, pl := 1, g := [(1, 0x4000000000000000)] }
/-- The gating phase of a caravan without a shard map, with the one row of the other member. -/
def wanting : State :=
  { ringed with ring := { ringed.ring with step := 1, wants := [{ position := 1, group := 3, firstBale := 8, addr := 0x1000, bytes := 1 }] } }
def arrivedRing : Ring := { state := 2, members := [0, 1], arrived := true, arrivals := [(0, 3#64), (1, 5#64)] }
theorem test_meets_RingBarriersAndManifest :
    (let s := atRing hubS { state := 2, members := [0, 1] }
     stewardReady s 256 = true ∧ (s.stewardAt 256).stores = [] ∧ (s.stewardAt 256).pl = 1 ∧ (regOf s 256 1).toNat = 2 ^ 62 ∧
       regOf s 256 2 = 0 ∧ (s.partAt (256 - 256)).ring = true ∧ s.ring.task = none ∧ s.ring.arrived = false ∧ stewardCtx s 256 = none ∧
       arrivalDue s = true ∧ s.ring.state = 2 ∧ s.sync.master = true) ∧
    (let s := { atRing hubS {} with partitions := [] }
     stewardReady s 256 = true ∧ (s.partAt 0).ring = false ∧ s.ring.state ≠ 2 ∧
       ¬(({ s with sync := {} } : State).sync.master = true ∨ ({ s with sync := {} } : State).sync.synced = true)) ∧
    (let s := atRing { hubS with run := .ringBarrier 5 } arrivedRing
     Arrives s 0 0x0A { msg with type := 0x0A, head := [0, 1, 5] } ∧ s.ring.arrived = true ∧ (knownArrivals s).length = 2 ∧
       (∀ a ∈ knownArrivals s, a + s.ring.margin.toNat ≤ s.time.toNat)) ∧
    (let s := { atRing hubS arrivedRing with time := 30004 }
     ∃ a ∈ knownArrivals s, s.time.toNat < a + s.ring.margin.toNat) ∧
    (let s := wanting
     coreClocks s = true ∧ s.ring.state = 2 ∧ s.ring.task = some 0 ∧ s.ring.layer < max 1 (s.ctxAt 0).layers.length ∧
       (s.ctxAt 0).layers.getD s.ring.layer true = true ∧ s.ring.step = 1 ∧ s.ring.manifestWritten = false ∧ wantsComplete s = true) := by
  unfold Arrives; dsimp only; refine ⟨?_, ?_, ?_, ?_, ?_⟩ <;> decide +kernel
/-- The shard map of sequences 0 and 1 of one bale each, with origins 0 and 1. -/
def twoShards : CaravanDecl :=
  { shards := [⟨0, 0, 1, 0⟩, ⟨1, 0, 1, 1⟩], groups := 1, baleBytes := 32768, recordBytes := 64, view := 0, transit0 := 0, transit1 := 0,
    surveys := [], stepCt := 5, area := { lpd := false, base := 0, size := 0 } }
/-- A caravan of two parts whose shards have one bale each, in state `r` of the ring; hub steward 0 is at its barrier's word. -/
def inCaravan (r : Ring) (x : Steward := hubS) : State :=
  { atRing x { r with state := 2, members := [0, 1], task := some 0 } with
    contexts := [(0, { state := 4, layers := [true], caravan := some twoShards })] }
/-- The survey of a caravan before and after it is held, its gating phase before and after the manifest, and a step. -/
theorem test_meets_RingBarriersAndManifest_phases :
    (let s := inCaravan {}
     stewardReady s 256 = true ∧ stewardCtx s 256 = none ∧ s.ring.arrived = false ∧ s.ring.task = some 0 ∧
       s.ring.layer < max 1 (s.ctxAt 0).layers.length ∧ s.ring.step = 0 ∧ arrivalDue s = false) ∧
    (let s := inCaravan { surveys := [(1, 0, 2)] }
     (s.ctxAt 0).caravan.isSome = true ∧ s.ring.step = 0 ∧ arrivalDue s = true) ∧
    (let wants : List WantRow := [{ position := 1, group := 0, firstBale := 0, addr := 0x1000, bytes := 1 }]
     let s := inCaravan { step := 1, wantsSent := 1, wants }
     (s.ctxAt 0).layers.getD 0 true = true ∧ s.ring.step = 1 ∧ arrivalDue s = false ∧
       arrivalDue (inCaravan { step := 1, wantsSent := 1, wants, manifestWritten := true }) = true) ∧
    (let s := inCaravan { step := 2 } { hubS with run := .ringBarrier 5 }
     2 ≤ s.ring.step ∧ coreClocks s = true ∧ s.ring.arrived = false ∧ (s.stewardAt 256).run = .ringBarrier 5 ∧ arrivalDue s = true) ∧
    (inCaravan { arrived := true }).ring.arrived = true := by decide +kernel
/-- The release is MARGIN after the last arrival, 5. -/
theorem test_ring_release : let t := after .barrierRelease (atRing { hubS with run := .ringBarrier 5 } arrivedRing)
    (t.stewardAt 256).run = .running ∧ t.ring.barrier = 1 := by decide +kernel
/-- Bit 7 of the row's one byte 0x80 wants bale 8 + 7 of group 3, at distance 1. -/
theorem test_manifest : (after .manifestBuild wanting).ring.manifest =
    [(3 * 2 ^ 32 + 15, 1)] := by decide +kernel

def answered (y : TimeSync) : State := { onePort 0 { state := 3 } with sync := y, groups := [(0, { credits := [(1, 1)] })] }
def response (n : Nat) : Message := { msg with type := 0x09, head := [0, n, 0, 0] }
theorem test_meets_CaravanTime :
    (State.reset.pending = [] ∧ State.reset.timeRuns = true ∧ ¬(State.reset.sync.lastSlew.toNat + 65536 ≤ State.reset.time.toNat)) ∧
    (let s := { State.reset with time := 65536, sync := { slew := 16 } }
     s.ring.task = none ∧ s.sync.lastSlew.toNat + 65536 ≤ s.time.toNat ∧ s.sync.slew ≠ 0 ∧ s.sync.sub < 16 ∧ s.time.toNat + 2 < 2 ^ 64) ∧
    (let s := answered { parent := 0, lastExchange := 0 }
     coreClocks s = true ∧ s.sync.master = false ∧ s.sync.parent.toNat < 24 ∧ (s.portAt 0).state = 3 ∧
       1 ≤ tabGet 0 (s.groupAt 0).credits 1 ∧ tabGet 0 (({ s with groups := [] } : State).groupAt 0).credits 1 = 0) ∧
    Arrives (answered {}) 0 0x08 { msg with type := 0x08, head := [3, 0] } ∧
    (let s := answered { pending := some 0, everSynced := true }
     Arrives s 0 0x09 (response 100000) ∧ s.sync.pending = some 0 ∧ (response 100000).head.getD 0 0 = 0 ∧ s.sync.everSynced = true ∧
       16000 < (filteredOffset [(50000, 50000)]).natAbs ∧ (filteredOffset [(16, 16)]).natAbs ≤ 16000 ∧
       ({ s with sync := { pending := some 0 } } : State).sync.everSynced = false) ∧
    (let s := { State.reset with time := 4194304 }
     s.sync.hold = false ∧ s.sync.lastExchange.toNat + 4 * 1048576 ≤ s.time.toNat) ∧
    (let s := { State.reset with time := 1000000000, sync := { hold := true } }
     s.sync.hold = true ∧ s.sync.holdSince.toNat + 1000000000 ≤ s.time.toNat) := by
  unfold Arrives; dsimp only; refine ⟨?_, ?_, ?_, ?_, ?_, ?_, ?_⟩ <;> decide +kernel
/-- The caravan task of a context without layers is over and past its last release plus MARGIN. -/
theorem test_meets_CaravanTime_over :
    let s := { atRing hubS { state := 2, members := [0, 1], task := some 0, layer := 1, finalRelease := some 5 } with timeRuns := false }
    s.pending = [] ∧ s.timeRuns = false ∧ s.ring.task = some 0 ∧ layersDone s = true ∧ s.ring.finalRelease = some 5 ∧
      (boundEcs s 0).any (endWaits s) = false ∧ (5 : CTime).toNat + s.ring.margin.toNat ≤ s.time.toNat ∧ (s.ctxAt 0).layers = [] ∧
      layersDone (atRing hubS { state := 2, members := [0, 1], task := some 0 }) = false := by decide +kernel
/-- The interval of a TIME_REQ has passed, or not. -/
theorem test_meets_CaravanTime_interval :
    Elapsed (answered { requestAt := some 951424 }) (some 951424) 1048576 ∧
    ¬Elapsed (answered { requestAt := some 951425 }) (some 951425) 1048576 :=
  ⟨elapsed_some _ _ 951424 _ rfl (by decide +kernel), fun h => absurd (h 951425 rfl) (by decide +kernel)⟩
theorem test_tick : (match step State.reset with | .next t => t.time | _ => 0) = 1 := by decide +kernel
theorem test_time_diverges : (after (.timeResp 0 (response 100000) 0) (answered { pending := some 0, everSynced := true })).sync.diverged = true := by
  decide +kernel

/-- Firmware runs, windows are decoded, supervisor queue 0 and queue 16 of context 0 are enabled, and the VFs are. -/
def hosting : State :=
  { serving with
    hbmWindows := (mapped 0 {}).hbmWindows, lpdWindows := (mapped 0 {}).lpdWindows, partitions := (mapped 0 {}).partitions
    mem := (mapped 0 {}).mem
    queues := [(0, { state := 1, log2n := 4, tailw := 0x5000 }), (16, { state := 1, log2n := 0, tailw := 0x5008 })]
    contexts := [(0, { state := 1 })]
    pcie := { vfEnable := true, numVfs := 8, controllerReset := false } }
theorem test_meets_HostAccesses :
    (Serves hosting 0 ∧ (hosting.functionAt 0).d3hot = false ∧ ¬(hosting.power.state = 1 ∨ hosting.power.state = 2 ∨ hosting.power.state = 3) ∧
      DoorbellValid hosting 0 0x0000001000000000 ∧ (hosting.queueAt 0).host = false ∧
      postedWaits hosting 0 = false ∧ rangeFault hosting none (hosting.queueAt 0).tailw.toNat 8 true = none ∧ Memory.wf hosting.mem = true) ∧
    (Serves hosting 1 ∧ DoorbellValid hosting 1 0x0000000100000010 ∧ ¬DoorbellValid hosting 1 0x0000000200000010 ∧ ¬DoorbellValid hosting 0 16) ∧
    (sleeping.power.state = 2 ∧ Serves sleeping 0 ∧ sleeping.power.latch.length < 1024) ∧
    (let s := { hosting with queues := [(0, { state := 1, log2n := 4, tailw := 0x5000, host := true })] }
     DoorbellValid s 0 0x0000001000000000 ∧ (s.queueAt 0).host = true) ∧
    (windowHeld (underHold hosting) 0x1000 = true ∧ spanHeld (underHold hosting) 0x1000 2 = true ∧ bar2Fault (underHold hosting) 0 0x1000 2 = none) ∧
    (let s := { hosting with posted := [.bar2 0 0x1000 [1]] }
     postedWaits s 0 = true ∧ Serves s 0 ∧ bar2Fault s 0 0x1000 2 = none) ∧
    (let s := { hosting with queueTable := 0x10000 }
     DoorbellValid s 0 0x0000001000000000 ∧ rangeFault s none (s.queueTable + 64 * 0 + 0x18) 4 true = none ∧
       s.queueTable + 64 * 0 + 0x18 + 4 ≤ 0x10018 + 4 ∧ (s.queueAt 0).tailw.toNat + 8 ≤ s.queueTable + 64 * 0 + 0x18) ∧
    (regClocked hosting 0x1000000 = true ∧
      regClocked { hosting with power := { hosting.power with groupPll := 0 } } 0x1000000 = false) ∧
    (hosting.power.selfRefresh = false ∧ bar2Fault hosting 0 0x1000 4096 = none ∧
      bar2Fault hosting 0 0x1800000000 1 = some (0x4004, 0x1800000000)) ∧
    hosting.pcie.controllerReset = false := by
  unfold Serves DoorbellValid; dsimp only; refine ⟨?_, ?_, ?_, ?_, ?_, ?_, ?_, ?_, ?_, ?_⟩ <;> decide +kernel
theorem test_meets_HostAccesses_memory : Unimpeded hosting none (hosting.queueAt 0).tailw.toNat 8 ∧ Unimpeded hosting none 0x1000 2 ∧
    (let s := { hosting with queueTable := 0x10000 }
     Unimpeded s none 0x10018 4) := by
  refine ⟨unimpeded _ _ _ _ rfl ?_ ?_, unimpeded _ _ _ _ rfl ?_ ?_, unimpeded _ _ _ _ rfl ?_ ?_⟩ <;> decide +kernel
theorem test_doorbell_full_ring : ((after (.doorbell 0 0 0x0000001000000000 (.slots [])) hosting).queueAt 0).tail = 16 ∧
    ((after (.doorbell 0 0 0x0000001100000000 (.slots [])) hosting).queueAt 0).tail = 0 := by decide +kernel
theorem test_bar0_size : (after (.bar0Access 0 0 2 none) hosting).pcie.readData = [0, 0] := by decide +kernel
theorem test_vendor : (after (.configurationRequest 0 .vendorId none) hosting).pcie.readData = [0x5C, 0x1F, 0, 0] := by decide +kernel
theorem test_meets_FunctionResetsAndVectors :
    (let s := { hosting with contexts := [(0, { state := 4 })], pcie := { hosting.pcie with
                  functions := [(1, { msixEnable := true, unmasked := [223], pending := [223] })], atsInUse := [4] } }
     Serves s 1 ∧ Serves s 0 ∧ 2 ≤ (s.ctxAt 0).state ∧ (s.ctxAt 0).state ≤ 5 ∧ (s.ctxAt 0).part.toNat = 0 ∧ (s.partAt 0).active = true ∧
       (s.functionAt 1).msixEnable = true ∧ (s.functionAt 1).functionMask = false ∧ 223 ∈ (s.functionAt 1).pending ∧ 223 < 224 ∧
       (s.functionAt 1).d3hot = false ∧ 4 ∈ s.pcie.atsInUse ∧ 5 ∉ s.pcie.atsInUse) ∧
    (let s := { hosting with pcie := { hosting.pcie with functions := [(1, { d3hot := true })] } }
     Serves s 1 ∧ (s.functionAt 1).d3hot = true) := by
  unfold Serves; dsimp only; constructor <;> decide +kernel
theorem test_flr_tears_down : ((after (.flrVf 0) { hosting with contexts := [(0, { state := 4 })] }).ctxAt 0).fault = 0x200D := by decide +kernel
/-- Whether the chain's leaf matches is free (log 9), so no state can be shown for that hypothesis or for its negation. -/
theorem test_meets_DoeResponses : firmwareRuns hosting = true ∧ hosting.doe.error = false ∧ (hosting.ctxAt 63).state = 0 ∧
    ([] : List Byte).length ≤ 4 * 65536 ∧ ¬(List.replicate 262145 (0 : Byte)).length ≤ 4 * 65536 := by
  refine ⟨?_, ?_, ?_, ?_, by rw [List.length_replicate]; decide⟩ <;> decide +kernel
theorem test_meets_SidebandResponses :
    (let r : LogRec := { ct := 0, code := 0x6008, kind := 0, flags := 0, unit := 0, part := 0, ctx := 0, addr := 0, queue := 0, slot := 0, detail := [] }
     let s := { serving with log := [r], logHead := 4097 }
     s.logHead ≤ (4096 : BitVec 32).toNat + s.log.length ∧ s.log[(4096 : BitVec 32).toNat + s.log.length - s.logHead]? = some r ∧
       s.log.length ≤ s.logHead) ∧ serving.trust.stage ≠ 4 ∧ inHold.trust.stage = 4 ∧ serving.trust.smbus = none ∧ inHold.trust.smbus = none ∧
    (let s := { serving with trust := { serving.trust with smbus := some smbus } }
     s.trust.smbus = some smbus ∧ smbus.address = 0x4C + s.trust.smbAddr.setWidth 7 ∧ smbus.pecOk = true ∧ smbus.vendor = 0x1F5C ∧
       ({ smbus with pecOk := false } : Smbus).pecOk ≠ true ∧ ({ smbus with vendor := 0x8086 } : Smbus).vendor ≠ 0x1F5C) := by decide +kernel
theorem test_sideband_unknown : (after (.otherCommandByte 0x7F) serving).trust.sideband = some (0x5FFF, []) := by decide +kernel

/-- Contexts 0 and 1 overlap on EC 0: 0 runs there for 1 ms, 1 is READY. -/
def scheduling (k : Nat) (x : Steward) : State :=
  { mapped 0 x with
    stewards := [(0, x), (1, x)]
    ecs := [(0, { bound := some 0 })]
    contexts := [(0, { state := k, footprint := [0], saveLo := 0x10, savePages := 1 }), (1, { state := 2, footprint := [0] })]
    time := 2000000 }
theorem test_meets_ContextScheduling :
    (let s := { scheduling 1 {} with ecs := [] }
     coreClocks s = true ∧ canBind s 1 = true ∧ ∀ b, b ≠ 1 → canBind s b = true → readyBefore s 1 b = true) ∧
    (let s := { scheduling 3 {} with contexts := [(0, { state := 3, footprint := [0] })] }
     (s.ctxAt 0).state = 3 ∧ (s.ctxAt 0).savePages = 0 ∧ s.power.noBinding = false ∧
       (match restoreContext s 0 with | .ok _ => true | .error _ => false) = true) ∧
    (let s := scheduling 4 { run := .idle, pl := 1 }
     (s.ctxAt 0).state = 4 ∧ s.ring.task ≠ some 0 ∧ (s.partAt 0).sliceBe.toNat = 2000 ∧
       (s.ctxAt 0).runSince.toNat + 1000 * 2000 ≤ s.time.toNat ∧ (s.ctxAt 1).state = 2 ∧ overlaps s 0 1 = true ∧
       (s.ctxAt 0).latencyCritical = false ∧
       (∀ e, e < 128 → (s.ecAt e).bound = some 0 → ((s.stewardAt (2 * e)).run = .idle ∧ (s.stewardAt (2 * e)).pl = 1) ∧
         ((s.stewardAt (2 * e + 1)).run = .idle ∧ (s.stewardAt (2 * e + 1)).pl = 1) ∧ (tabGet {} (s.ecAt e).tasks 0).active = false ∧
         (tabGet {} (s.ecAt e).tasks 1).active = false)) ∧
    (let s := scheduling 5 { run := .yielded false }
     (s.ctxAt 0).state = 5 ∧ (s.ctxAt 0).paused = false ∧ allYielded s 0 = true ∧
       (∀ p, p < 4 → ∀ r ∈ macrosOf s p, r.ctx = some 0 → commandSettled s r = true) ∧
       (match saveContext s 0 with | .ok _ => true | .error _ => false) = true) := by
  refine ⟨?_, ?_, ?_, ?_⟩ <;> decide +kernel
theorem test_slice_not_yet : ((after (.sliceExpiry 0) { scheduling 4 {} with time := 1999999 }).ctxAt 0).state = 4 := by decide +kernel
theorem test_yield_asked : ((after (.sliceExpiry 0) (scheduling 4 {})).stewardAt 1).tempoReq = true := by decide +kernel

/-- A supervisor slot of queue 0 with its completion record at 0x6000. -/
def sup (a0 : BitVec 32) (a1 : BitVec 64) : SupSlot := { queue := 0, arg0 := a0, arg1 := a1, arg2 := 0, arg3 := 0, compl := 0x6000 }
/-- The bytes of a slot of opcode `op`. -/
def slotBytes (op : Nat) (x : SupSlot) : List Byte :=
  natLe 4 op ++ natLe 4 x.arg0.toNat ++ natLe 8 x.arg1.toNat ++ natLe 8 x.arg2.toNat ++ natLe 8 x.arg3.toNat ++ natLe 8 x.compl.toNat
/-- The record of partition 1 at 0x7000: EC 1 of die 0 and HBM window 1; the record of queue 16 at 0x7100: vector 16; the slot to be served of
supervisor queue 0 at 0x9000, of opcode `op`. -/
def supply (op : Nat) (x : SupSlot) : State :=
  { hosting with mem := [(0x7004, 2), (0x7014, 2), (0x7126, 16)] ++ (((slotBytes op x).zipIdx.map fun b => (0x9000 + b.2, b.1)).filter fun c => c.2 ≠ 0)
                 contexts := [(0, { state := 1, footprint := [0] }), (1, { state := 6 }), (2, {})]
                 queues := [(0, { state := 1, ring := 0x9000, tail := 1 }), (17, { state := 1, ctx := 1, torn := true })] }
def supplied : State := supply 1 (sup 1 0x7000)
/-- The next slot of its queue spells the command, and the completion record can be written. -/
def slotOk (s : State) (x : SupSlot) (op : Nat) : Bool :=
  let q := s.queueAt x.queue.val
  let a := x.compl.toNat % 2 ^ 48
  let span := fun (b n : Nat) => decide (rangeFault s none b n true = none) && !spanHeld s b n &&
    ((List.range n).all fun i => (blockedEc s none (b + i)).isNone)
  firmwareRuns s && q.state == 1 && q.served != q.tail && s.trust.update.isNone && s.bad.isEmpty && Memory.wf s.mem && span a 2 && span (a + 8) 8 &&
    match firmwareRead s (q.ring.toNat + 64 * (q.served.toNat % 2 ^ q.log2n)) 64 with
    | some r => field r 0 1 == op && field r 4 4 == x.arg0.toNat && field r 8 8 == x.arg1.toNat && field r 0x10 8 == x.arg2.toNat &&
        field r 0x18 8 == x.arg3.toNat && field r 0x20 8 == x.compl.toNat
    | none => false
theorem slotServed (s : State) (x : SupSlot) (op : Nat) (h : slotOk s x op = true) : SlotServed s x op := by
  simp only [slotOk, Bool.and_eq_true, List.all_eq_true, List.mem_range, decide_eq_true_eq, beq_iff_eq, bne_iff_ne, Bool.not_eq_true',
    Option.isNone_iff_eq_none, List.isEmpty_iff] at h
  obtain ⟨⟨⟨⟨⟨⟨⟨⟨h1, h2⟩, h3⟩, h4⟩, h5⟩, h6⟩, ⟨h7, h8⟩, h9⟩, ⟨h10, h11⟩, h12⟩, h13⟩ := h
  refine ⟨h1, h2, h3, ?_, ?_, h7, h10, unimpeded _ _ _ _ h5 h8 h9, unimpeded _ _ _ _ h5 h11 h12, h6⟩
  · intro u hu; rw [h4] at hu; cases hu
  · split at h13
    · rename_i r hr
      simp only [Bool.and_eq_true, beq_iff_eq] at h13
      exact ⟨r, hr, h13.1.1.1.1.1, h13.1.1.1.1.2, h13.1.1.1.2, h13.1.1.2, h13.1.2, h13.2⟩
    · cases h13
/-- A slot of each opcode that a statement names, with its operands. -/
theorem test_meets_SupervisorCommands_slots :
    (∀ e ∈ [(1, sup 1 0x7000), (1, sup 8 0), (2, sup 1 0), (2, sup 8 0), (3, sup 2 0), (3, sup 0 0), (4, sup 0 0), (4, sup 2 0), (5, sup 0 0),
      (5, sup 2 0), (6, sup 1 0), (6, sup 0 0), (7, sup 16 0x7100), (7, sup 17 0x7100), (8, sup 17 0), (8, sup 16 0), (9, sup 4096 0),
      (10, sup 0 0), (10, sup 1 0), (10, sup 4 0), (10, sup 5 0)], SlotServed (supply e.1 e.2) e.2 e.1) ∧
    (let s := { supplied with queues := [(0, { state := 1, tail := 1, served := 1 })] }
     (s.queueAt 0).served = (s.queueAt 0).tail) ∧
    (let s := { supply 9 (sup 4096 0) with trust := { supplied.trust with updating := true } }
     slotOk s (sup 4096 0) 9 = true ∧ s.trust.updating = true) := by
  refine ⟨fun e he => slotServed _ _ _ ?_, by decide +kernel, by decide +kernel⟩
  revert e; decide +kernel
theorem test_meets_SupervisorCommands :
    (SlotServed supplied (sup 1 0x7000) 1 ∧ (supplied.partAt 1).active = false ∧ partContexts supplied 1 = [] ∧
      (match firmwareRead supplied 0x7000 128 with | some r => activationOk supplied 1 (partOfRecord r) | none => false) = true ∧
      (supplied.partAt 0).active = true ∧ partContexts supplied 0 ≠ []) ∧
    ((supplied.ctxAt 2).state = 0 ∧ (supplied.ctxAt 0).state = 1 ∧ (supplied.ctxAt 1).state = 6 ∧
      loadFailures supplied 0 image 0 0 = []) ∧
    ((supplied.queueAt 16).state ≠ 1 ∧
      (match firmwareRead supplied 0x7100 64 with
       | some r => let q := queueOfRecord r
           (supplied.ctxAt q.ctx.toNat).state != 0 && ((supplied.ctxAt q.ctx.toNat).footprint.any fun e => e.val == q.sec.toNat) &&
             decide (q.log2n ≤ 16) && vectorOk supplied 16 q
       | none => false) = true ∧ (supplied.queueAt 17).state = 1) ∧
    (supplied.trust.source = false ∧ supplied.trust.updating = false ∧ 1 - 1 = 0 ∧ 4 - 1 ≠ imgKey supplied.trust.sram ∧
      supplied.trust.revoked ||| BitVec.ofNat 4 (2 ^ (4 - 1)) ≠ 15 ∧ serving.power.phase = 2 ∧
      ({ supplied with power := { supplied.power with phase := 1 } } : State).power.phase ≠ 2) := by
  refine ⟨⟨slotServed _ _ _ ?_, ?_⟩, ?_, ?_, ?_⟩ <;> decide +kernel
theorem test_part_set : ((after (.partSet (sup 1 0x7000)) supplied).partAt 1).active = true := by decide +kernel
theorem test_ctx_reset_restarts_queue : let t := after (.ctxReset (sup 1 0)) (supply 6 (sup 1 0))
    (t.ctxAt 1).state = 1 ∧ (t.queueAt 17).state = 1 := by decide +kernel
theorem test_ctx_create_refused : cellsRead (after (.ctxCreate (sup 0 0)) (supply 3 (sup 0 0))).mem 0x6000 2 = [0x0E, 0x20] := by decide +kernel

/-! ### Macro-instructions, engines, ledgers -/

/-- The word of opcode `op` for EC 0, with its table at 0x8000 and its record at 0x4000, and more fields. -/
def word (op : Nat) (l : Tab Nat) : List Byte := bytesOf 64 ([(0, op), (4, 1), (9, 0x80), (0x11, 0x40)] ++ l)
/-- A started record of one tile. -/
def started (w : List Byte) : MacroRec := { acc := 1, issuer := 0, ctx := some 0, word := w, joined := [0], armed := true, total := 1 }
/-- Six descriptors: A = (1, 2) and B = (3, 4) in BF16, C of one binary32 element, two partial planes of one element, a row of
two binary32 elements, and the first element of A; and the data. -/
def tables : List Host.Cell :=
  let d := fun (i base cols fmt batch : Nat) =>
    cellsOf (0x8000 + 64 * i) [(1, base), (2, 1), (8, 64), (0x10, 1), (0x14, cols), (0x18, fmt), (0x1E, 0x80), (0x1F, 0x3F), (0x2C, batch), (0x31, 1)]
  ((d 0 0x00 2 4 1) ++ (d 1 0x01 2 4 1) ++ (d 2 0x02 1 5 1) ++ (d 3 0x03 1 5 2) ++ (d 4 0x05 2 5 1) ++ (d 5 0x00 1 4 1) ++
    cellsOf 0x10000 [(0, 0x80), (1, 0x3F), (3, 0x40)] ++ cellsOf 0x10100 [(0, 0x40), (1, 0x40), (2, 0x80), (3, 0x40)] ++
    cellsOf 0x10300 [(2, 0x80), (3, 0x3F)] ++ cellsOf 0x10400 [(2, 0x20), (3, 0x40)]).filter fun c => c.2 ≠ 0
def ledger (r : MacroRec) : State :=
  { mapped 0 atU with mem := tables, contexts := [(0, { state := 4, footprint := [0] })], dies := [(0, { macros := [r], accepted := 1 })]
                      ecs := [(0, { bound := some 0, queue := [{ port := 0, acc := 1, started := true }] })] }
def matmul : MacroRec := started (word 0x01 [(0x1A, 1), (0x1C, 2), (0x1E, 0xFF), (0x1F, 0xFF), (0x20, 1), (0x21, 1), (0x22, 1)])
def combine : MacroRec := started (word 0x03 [(0x18, 3), (0x1A, 2), (0x1C, 2), (0x1E, 1), (0x1F, 1)])
def rowfn : MacroRec := started (word 0x05 [(0x1A, 4), (0x1C, 0xFF), (0x1D, 0xFF), (0x1E, 0xFF), (0x1F, 0xFF), (0x20, 0), (0x21, 1), (0x26, 0x80), (0x27, 0x3F)])
/-- The soft maximum of a matrix of no row: that of a row needs a factory function, which has no value here. -/
def softmax : MacroRec := started (word 0x05 [(0x1A, 6), (0x1C, 6), (0x1E, 0xFF), (0x1F, 0xFF), (0x20, 0x10), (0x21, 1), (0x26, 0x80), (0x27, 0x3F)])
/-- NORM of a matrix of no row: the norm of a row needs a factory function, which has no value here. -/
def norm : MacroRec := started (word 0x04 [(0x18, 6), (0x1A, 6), (0x1C, 6), (0x1E, 0xFF), (0x1F, 0xFF), (0x20, 0x21), (0x21, 1), (0x28, 0), (0x29, 0x50)])
def chain : MacroRec := started (word 0x02 [(0x1A, 1), (0x1C, 5), (0x1E, 2), (0x20, 1), (0x21, 4), (0x22, 1), (0x26, 0x80), (0x27, 0x3F), (0x2A, 0xFF), (0x2B, 0xFF)])

def isOk {α : Type} (x : Got α) : Bool := match x with | .ok _ => true | .error _ => false
/-- In `s`, a macro-instruction of opcode `op` is ready with one tile left; the tile does its work, nothing waits, and its output has one
part. -/
def runsFrom (s s0 : State) (r : MacroRec) (op : Nat) (f : TileWork) : Bool :=
  let r0 := { r with windows := [], next := r.total }
  coreClocks s && decide (macroReady s 0 1 op = some r) && decide (leftTiles r = [0]) && isOk (allTiles s0 0 r f) &&
  match (f (grantAll s0 0 r) r0 0).2 with
  | .ok (u, fl) => match macroAt u 0 1 with
    | some y => decide (recParts u y ≤ 1) && (match macroAt (tileDrained u 0 1 0 fl) 0 1 with
      | some z => decide (recParts (tileDrained u 0 1 0 fl) z ≤ 1) | none => false)
    | none => false
  | .error _ => false
def runsOne (s : State) (r : MacroRec) (op : Nat) (f : TileWork) : Bool := runsFrom s s r op f
/-- The same for one that uses the score store of EC 0, which is free. -/
def runsScores (s : State) (r : MacroRec) (op : Nat) (f : TileWork) (u : Fin 3 := 0) : Bool :=
  decide (leadEc 0 r = 0) && decide ((s.ecAt 0).scoreOwner = none) && (s.ecAt 0).scoreWaiters.isEmpty && runsFrom s (asked s 0 u) r op f
/-- A bale table of one sequence, one chain and one segment, with its view root at 0x20000, its header at 0x30000, the chain record at
0x32000 (`ntok` tokens, all committed), of DSUM 0 or 1, the segment at 0x34000, bale 0, and bale 1 of more than 128 tokens, in the buffers at 0x50000 and 0x58000, a gambit record of one accepted candidate at
0x60000 and a length table that cuts sequence 0 to 2 tokens at 0x61000. -/
def tableOf (ntok dsum : Nat) : List Host.Cell :=
  let a := 0x3D000 + 0x1000 * dsum
  cellsOf 0x20000 [(2, 3), (0x0C, 1), (0x0E, 0x44), (0x10, 1), (0x12, 1), (0x1A, 0x80), (0x1B, 0x3F), (0x1E, 0x80), (0x1F, 0x3F)] ++
  cellsOf 0x30000 [(0, 1), (4, 1), (6, 1), (0x10, dsum), (0x1000, 1), (0x1009, 0x20), (0x100A, 3)] ++
  cellsOf 0x32000 [(0, ntok), (4, ntok), (0x40, 1), (0x41, 0x40), (0x42, 3)] ++ cellsOf 0x34000 ([(0, 1), (2, 5)] ++ if 128 < ntok then [(8, 1), (9, 0x80), (0xA, 5)] else []) ++
  cellsOf a [(0x28, 4), (0x2A, 4), (0x2C, 1)] ++ cellsOf (a + 64 * (1 + dsum)) [(0x20, 0x80), (0x28, 2), (0x2A, 2), (0x2C, 1)] ++ cellsOf 0x60000 [(4, 1), (5, 1), (8, 4), (0x10, 255)] ++ cellsOf 0x61000 [(4, 2)]
def bales : List Host.Cell := tableOf 4 0
/-- A latent bale table of one element a token, with one up-projection weight, 3.0, for keys and values at 0x9000; slot 0 holds 2.0. -/
def latent : List Host.Cell :=
  cellsOf 0x8000 [(1, 0x70), (2, 1), (8, 2), (0x10, 128), (0x14, 1), (0x18, 4), (0x1E, 0x80), (0x1F, 0x3F), (0x2C, 1), (0x31, 1)] ++
  cellsOf 0x8040 [(1, 0x78), (2, 1), (8, 2), (0x10, 128), (0x14, 1), (0x18, 4), (0x1E, 0x80), (0x1F, 0x3F), (0x2C, 1), (0x31, 1)] ++
  cellsOf 0x9000 [(0, 0x40), (1, 0x40)] ++
  cellsOf 0x20000 [(2, 3), (0x0C, 1), (0x0E, 0x04), (0x0F, 1), (0x14, 1), (0x16, 0x44), (0x1A, 0x80), (0x1B, 0x3F), (0x28, 10), (0x2A, 10)] ++
  cellsOf 0x20040 [(1, 0x90), (8, 64), (0x10, 1), (0x14, 1), (0x18, 4), (0x1E, 0x80), (0x1F, 0x3F), (0x2C, 1), (0x31, 1)] ++
  cellsOf 0x20080 [(1, 0x90), (8, 64), (0x10, 1), (0x14, 1), (0x18, 4), (0x1E, 0x80), (0x1F, 0x3F), (0x2C, 1), (0x31, 1)] ++
  cellsOf 0x30000 [(0, 1), (4, 1), (6, 1), (0x10, 1), (0x1000, 1), (0x1009, 0x20), (0x100A, 3)] ++
  cellsOf 0x32000 [(0, 1), (4, 1), (0x40, 1), (0x41, 0x40), (0x42, 3)] ++ cellsOf 0x34000 [(0, 1), (2, 5)] ++
  cellsOf 0x3E000 [(0x28, 1), (0x2A, 1), (0x2C, 1)] ++ cellsOf 0x50000 [(1, 0x40)]
def onBales (l : List Host.Cell) (r : MacroRec) : State := { ledger r with mem := l.filter fun c => c.2 ≠ 0 }
def truncated : MacroRec := started (word 0x0B [(0x1C, 4), (0x22, 2), (0x29, 0x10), (0x2A, 6), (0x30, 1), (0x18, 0xFF), (0x19, 0xFF), (0x1A, 0xFF), (0x1B, 0xFF)])
def committed : MacroRec := started (word 0x0A [(0x1A, 6), (0x22, 2), (0x28, 1), (0x2C, 1)])
def expanded : MacroRec := started (word 0x06 [(0x1A, 2), (0x2C, 1), (0x32, 1)])

theorem test_meets_MacroInstructionsRun_matmul : runsOne (ledger matmul) matmul 0x01 (plainTile (matmulTile 0)) = true := by decide +kernel
/-- The whole command waits where a read of its operands meets a window under HOLD. -/
theorem test_meets_MacroInstructionsRun_held : macroReady (underHold (ledger matmul)) 0 1 0x01 = some matmul ∧
    isOk (allTiles (underHold (ledger matmul)) 0 matmul (plainTile (matmulTile 0))) = false := by decide +kernel
theorem test_meets_MacroInstructionsRun_chain : runsScores (ledger chain) chain 0x02 (plainTile (chainTile 0)) = true ∧
    leadUnit chain = 0 := by decide +kernel
/-- The row unit owns the store. -/
theorem test_meets_MacroInstructionsRun_store :
    let s := { ledger chain with ecs := [(0, { (ledger chain).ecAt 0 with scoreOwner := some 2 })] }
    macroReady s 0 1 0x02 = some chain ∧ ¬((s.ecAt 0).scoreOwner = some 0 ∨ ((s.ecAt 0).scoreOwner = none ∧ (s.ecAt 0).scoreWaiters = [])) := by
  decide +kernel
theorem test_meets_MacroInstructionsRun_combine : runsOne (ledger combine) combine 0x03 (plainTile combineMacroTile) = true := by decide +kernel
theorem test_meets_MacroInstructionsRun_norm : runsOne (ledger norm) norm 0x04 (plainTile (rowMacroTile 0)) = true := by decide +kernel
theorem test_meets_MacroInstructionsRun_rowfn : (runsOne (ledger rowfn) rowfn 0x05 (plainTile (rowMacroTile 0)) = true ∧
    field rowfn.word 0x20 1 ≠ 0x10) ∧
    (runsScores (ledger softmax) softmax 0x05 (plainTile (rowMacroTile 0)) 2 = true ∧ field softmax.word 0x20 1 = 0x10) := by decide +kernel
theorem test_meets_MacroInstructionsRun_expand : runsOne (onBales latent expanded) expanded 0x06 (expandTile 0 0) = true := by decide +kernel
theorem test_meets_MacroInstructionsRun_attend :
    (let r := started (word 8 [])
     runsScores (ledger r) r 0x08 (attendTile 0 0 0) = true ∧ leadUnit r = 0 ∧ leadEc 0 r = 0 ∧ leadEngine r = 0 ∧ recParts (ledger r) r ≤ 1 ∧ recHalf (ledger r) r = 0) ∧
    (let r := started (word 8 [(0x24, 0x40), (0x27, 2)])
     coreClocks (ledger r) = true ∧ ¬(recParts (ledger r) r ≤ 1 ∧ recHalf (ledger r) r = 0) ∧ r.next = 0 ∧ r.drained = [] ∧
       macroReady (ledger r) 0 1 0x08 = some r ∧
       isOk (eachTile 0 1 (attendTile 0 (leadEc 0 r) (leadEngine r))
         (grantAll (asked (ledger r) (leadEc 0 r) (leadUnit r)) 0 r) (leftTiles r)) = true) ∧
    (let r := started (word 9 [])
     runsScores (ledger r) r 0x09 (attendTile 0 0 0) = true) := by decide +kernel
theorem test_meets_MacroInstructionsRun_commit : runsOne (onBales bales committed) committed 0x0A (commitTile 0) = true := by
  decide +kernel
theorem test_meets_MacroInstructionsRun_append :
    ([0, 1, 2, 3].all fun k => let r := started (word 0x0B [(0x1C, k)])
      field r.word 0x1C 1 == k && runsOne (ledger r) r 0x0B (appendTile 0)) = true ∧
    field truncated.word 0x1C 1 = 4 ∧ runsOne (onBales bales truncated) truncated 0x0B (appendTile 0) = true := by decide +kernel

/-- The bytes from `a` on after a command. -/
def bytesAfter (i : Instr) (s : State) (a n : Nat) : List Nat := (List.range n).map fun k => (cellGet (after i s).mem (a + k)).toNat

/-- (1, 2) × (3, 4) = 11.0 in binary32. -/
theorem test_matmul : bytesAfter (.matmul 0 1) (ledger matmul) 0x10200 4 = [0, 0, 0x30, 0x41] := by decide +kernel
/-- 1.0 + 2.5 = 3.5. -/
theorem test_combine : bytesAfter (.combine 0 1) (ledger combine) 0x10200 4 = [0, 0, 0x60, 0x40] := by decide +kernel
/-- Identity of a BF16 row, 1.0 and 2.0, to binary32. -/
theorem test_rowfn : bytesAfter (.rowfn 0 1) (ledger rowfn) 0x10500 8 = [0, 0, 0x80, 0x3F, 0, 0, 0, 0x40] := by decide +kernel
/-- The latent 2.0 times the weight 3.0, in BF16. -/
theorem test_expand : bytesAfter (.expand 0 1) (onBales latent expanded) 0x17000 2 = [0xC0, 0x40] := by decide +kernel
/-- A cut to 2 tokens sets both counts of the chain and of the bale. -/
theorem test_truncate : bytesAfter (.truncate 0 1) (onBales bales truncated) 0x32000 5 = [2, 0, 0, 0, 2] ∧
    bytesAfter (.truncate 0 1) (onBales bales truncated) 0x3D028 4 = [2, 0, 2, 0] := by decide +kernel
/-- One accepted candidate makes 4 committed tokens 5, and the record holds them with NCAND 0. -/
theorem test_gambit_commit : bytesAfter (.gambitCommit 0 1) (onBales bales committed) 0x32000 5 = [5, 0, 0, 0, 5] ∧
    bytesAfter (.gambitCommit 0 1) (onBales bales committed) 0x60004 5 = [0, 0, 0, 0, 5] := by decide +kernel

/-- The same word, whose record no sequencer has started, in the queue of EC 0. -/
def fresh (r : MacroRec) : MacroRec := { acc := 1, issuer := 0, ctx := some 0, word := r.word }
def waitingAt (r : MacroRec) : State :=
  { ledger (fresh r) with ecs := [(0, { bound := some 0, queue := [{ port := 0, acc := 1, started := false }] })] }

/-- A good MATMUL starts; one whose record is not aligned by 16 is refused. -/
theorem test_meets_CommandsStartAndTilesGoOut_start :
    (let s := waitingAt matmul
     let r := fresh matmul
     coreClocks s = true ∧ unitClocked s 0 = true ∧ canStart s 0 = some ({ port := 0, acc := 1, started := false }, r) ∧ r.armed = false ∧ r.finished = false ∧
       (startCode s (reqOf s r) 0 r).toOption = some 0 ∧ (viewAtStart s (reqOf s r) r.word).toOption = some none ∧ ((recWork s (reqOf s r) r.word).map fun w => w.tiles.length).toOption = some 1) ∧
    (let m := started (word 0x01 [(0x10, 1), (0x1A, 1), (0x1C, 2), (0x1E, 0xFF), (0x1F, 0xFF), (0x20, 1), (0x21, 1), (0x22, 1)])
     let s := waitingAt m
     canStart s 0 = some ({ port := 0, acc := 1, started := false }, fresh m) ∧
       (startCode s (reqOf s (fresh m)) 0 (fresh m)).toOption = some 0x2001) := by decide +kernel

/-- A MATMUL of 8 tiles with grants of 2, held by engine 0 of EC 0, and the windows `w` after `next` grants. -/
def shared (next : Nat) (w : Tab (Nat × Nat)) : MacroRec :=
  { started (word 0x01 [(0x1A, 1), (0x1C, 2), (0x1E, 0xFF), (0x1F, 0xFF), (0x20, 1), (0x21, 1), (0x22, 2)]) with total := 8, next, windows := w }
def held (r : MacroRec) : State :=
  { ledger r with ecs := [(0, { bound := some 0, engines := [(0, { holds := some 1 })], queue := [{ port := 0, acc := 1, started := true }] })] }
def nosteal (r : MacroRec) : MacroRec := { r with word := r.word.set 1 0x10 }

/-- A window of one tile, an empty window before the last grant, a steal from the largest window, and nothing to steal. -/
theorem test_meets_CommandsStartAndTilesGoOut_tiles :
    (let r := shared 2 [(0, (1, 1))]
     let s := held r
     coreClocks s = true ∧ macroAt s 0 1 = some r ∧ r.windows.Pairwise (fun a b => a.1 < b.1) ∧ mayAsk s 0 0 1 r (inLastPass s 0 0 r) = true ∧
       ledgerServes s 0 r 0 0 0 = true ∧ 0 < (windowOf r 0).2 ∧ mayTake s 0 r (tileNumber r (windowOf r 0).1) = true) ∧
    (let r := shared 7 [(0, (2, 0))]
     let s := held r
     mayAsk s 0 0 1 r (inLastPass s 0 0 r) = true ∧ ledgerServes s 0 r 1 0 0 = true ∧ ledgerServes s 0 r 0 0 0 = true ∧
       (windowOf r 0).2 = 0 ∧ r.next < r.total ∧ roundOpen s r = true ∧ 0 < grantSize s 0 r ∧
       r.paused = false ∧ (s.ecAt 0).tempoHold = false ∧ recHalf s r = 0) ∧
    (let r := shared 8 [(0, (2, 0)), (1, (3, 1)), (2, (5, 3)), (3, (9, 3))]
     let s := held r
     macroAt s 0 1 = some r ∧ r.windows.Pairwise (fun a b => a.1 < b.1) ∧ mayAsk s 0 0 1 r (inLastPass s 0 0 r) = true ∧ (windowOf r 0).2 = 0 ∧
       ledgerServes s 0 r 2 0 0 = true ∧ r.total ≤ r.next ∧ (2, (5, 3)) ∈ r.windows ∧
       (r.windows.all fun x => decide (x.2.2 < 3) || (x.2.2 == 3 && decide (2 ≤ x.1))) = true ∧ wNoSteal r.word = false) ∧
    (let r := shared 8 [(0, (2, 0)), (1, (3, 0))]
     mayAsk (held r) 0 0 1 r (inLastPass (held r) 0 0 r) = true ∧ (r.windows.all fun x => x.2.2 == 0) = true ∧
       sequenceCommand r.word = false) ∧
    (let r := nosteal (shared 8 [(0, (2, 0)), (1, (3, 1))])
     mayAsk (held r) 0 0 1 r (inLastPass (held r) 0 0 r) = true ∧ wNoSteal r.word = true) := by decide +kernel
/-- In a pause, with one K range of output tile 1 taken: the head, of tile 0, is not taken and the tail is. A request waits behind one that takes
from its window. -/
theorem test_meets_CommandsStartAndTilesGoOut_pause :
    (let r := { started (word 8 [(0x24, 0x40), (0x27, 2)]) with total := 4, next := 4, taken := [2], windows := [(0, (1, 3))], paused := true }
     let s := held r
     macroAt s 0 1 = some r ∧ mayAsk s 0 0 1 r (inLastPass s 0 0 r) = true ∧ ledgerServes s 0 r 0 0 0 = true ∧ 0 < (windowOf r 0).2 ∧
       mayTake s 0 r (tileNumber r (windowOf r 0).1) = false ∧ requiredTile s r (tileNumber r 3) = true) ∧
    (let r := shared 2 [(0, (1, 1))]
     ledgerServes (held r) 0 r 1 0 0 = false ∧ ledgerServes (held r) 0 r 2 0 0 = false) ∧
    (let r := shared 2 [(0, (1, 1))]
     let s := { ledger r with ecs := [(0, { bound := some 0, engines := [(0, { holds := some 1 }), (1, { holds := some 1 })],
                                            queue := [{ port := 0, acc := 1, started := true }] })] }
     mayAsk s 0 1 1 r (inLastPass s 0 1 r) = true ∧ ledgerServes s 0 r 0 0 1 = false) := by decide +kernel
/-- A steal takes the tail half, rounded down, of the largest window of the lowest EC: of 5, 6, 7 the tile 7. -/
theorem test_tile_steal : let t := after (.tileSteal 0 0 1) (held (shared 8 [(0, (2, 0)), (2, (5, 3)), (3, (9, 3))]))
    ((t.engineAt 0 0).current.map TileRun.tile) = some 7 ∧ (macroAt t 0 1).map (fun z => windowOf z 2) = some (5, 2) := by decide +kernel

/-- A finished record that signals pair 5 of EC 0. -/
def ended (signal : Nat) : MacroRec := { started (word 0x01 [(1, signal), (3, 5)]) with finished := true, tiles := 3 }
def paired5 (r : MacroRec) (fill : BitVec 16) : State :=
  { ledger r with ecs := [(0, { bound := some 0, pairs := [(5, (fill, 0))], queue := [{ port := 0, acc := 1, started := true }] })] }
theorem test_meets_MacroCompletes :
    (let r := ended 8
     let s := paired5 r 65534
     coreClocks s = true ∧ macroAt s 0 1 = some r ∧ recFinished s r = true ∧ wOpcode r.word < 0x20 ∧
       rangeFault s (reqOf s r).part (wCompl r.word % 2 ^ 48) 16 true = none ∧ wCompl r.word % 2 ^ 48 = 0x4000 ∧
       spanHeld s 0x4000 16 = false ∧ (∀ i, i < 16 → blockedEc s r.ctx (0x4000 + i) = none) ∧ s.bad = [] ∧ Memory.wf s.mem = true ∧ wSignal r.word = true ∧ r.issuer.val < 256 ∧
       (pairAt s 0 (wSem r.word)).1.toNat < 65535) ∧
    (let s := paired5 (ended 8) 65535
     macroAt s 0 1 = some (ended 8) ∧ recFinished s (ended 8) = true ∧ s.bad = [] ∧
       rangeFault s (reqOf s (ended 8)).part (wCompl (ended 8).word % 2 ^ 48) 16 true = none ∧
       wSignal (ended 8).word = true ∧ (pairAt s 0 (wSem (ended 8).word)).1.toNat = 65535) ∧
    (let s := paired5 (ended 0) 0
     recFinished s (ended 0) = true ∧ wSignal (ended 0).word = false) := by decide +kernel
/-- STATUS 0, AFLAGS 0, TILES 3, the time of completion. -/
theorem test_macro_record : let s := { paired5 (ended 8) 6 with time := 0x0102 }
    bytesAfter (.macroComplete 0 1) s 0x4000 16 = [0, 0, 0, 0, 3, 0, 0, 0, 2, 1, 0, 0, 0, 0, 0, 0] ∧
      pairAt (after (.macroComplete 0 1) s) 0 5 = (7, 0) := by decide +kernel

/-! ### Engines -/

/-- A MATMUL whose one tile is on engine 0 of EC 0, with the engine's state `x` and the EC's state `c`. -/
def oneRun : TileRun := { acc := 1, tile := 0, combine := false, pass := 0, column := 0, region := 0 }
def onEngine (r : MacroRec) (x : Engine) (c : Ec := {}) : State :=
  { ledger r with ecs := [(0, { c with bound := some 0, engines := [(0, { x with holds := some 1 })]
                                       queue := [{ port := 0, acc := 1, started := true }] })] }
/-- The geometry of the tile on the engine has the property. -/
def geoHas (s : State) (run : TileRun) (r : MacroRec) (p : Geo → Bool) : Bool :=
  coreClocks s && match engineRun s 0 0 with
  | some (a, b, .ok (some (geo, _))) => decide (a = run) && decide (b = r) && p geo
  | _ => false
def running : MacroRec := { matmul with taken := [0], next := 1 }
/-- The same MATMUL in output-resident mode. -/
def outRes : MacroRec := { running with word := running.word.set 2 2 }
def chunk (c : Nat) : Chunk := { pass := 0, column := c, elements := [0x3F80, 0x4000], scales := [] }
/-- Where the broadcast buffer, or the queue of lane 0, of engine 0 lacks a chunk: run, pass and column. -/
def seeks (s : State) (run : TileRun) (r : MacroRec) (lane : Bool) : Option (Option (Nat × Nat × Nat)) :=
  let x := s.engineAt 0 0
  match engineRun s 0 0 with
  | some (_, _, .ok (some (geo, subs))) =>
    ((seekPlace s 0 0 r (!lane) (if lane then nextResident x 0 else nextBroadcast x.broadcast) 9 0 (run, false) geo subs).map
      fun o => o.map fun p => (p.run, p.pass, p.column)).toOption
  | _ => none
theorem test_meets_EngineFillsAndVectors_fills :
    (let s := onEngine running { current := some oneRun }
     let x := s.engineAt 0 0
     geoHas s oneRun running (fun geo => !geo.outRes && decide (x.broadcast.length < 8) &&
       decide (nextBroadcast x.broadcast 0 oneRun geo = some (0, 0)) && decide (0 < geo.cols) && isOk (geo.colChunk 0 0) &&
       geo.active 0 && decide ((tabGet [] x.feeders 0).length < 8) && decide (nextResident x 0 0 oneRun geo = some (0, 0)) &&
       isOk (geo.laneChunk 0 0)) = true ∧ seeks s oneRun running false = some (some (0, 0, 0)) ∧
       seeks s oneRun running true = some (some (0, 0, 0))) ∧
    (let s := onEngine running { current := some oneRun, broadcast := [chunk 0] }
     geoHas s oneRun running (fun geo => decide (nextBroadcast (s.engineAt 0 0).broadcast 0 oneRun geo = some (0, 1)) &&
       decide (geo.cols ≤ 1)) = true) ∧
    (let s := onEngine running { current := some oneRun, broadcast := List.replicate 8 (chunk 0), feeders := [(0, [chunk 0])] }
     geoHas s oneRun running (fun geo => decide (8 ≤ (s.engineAt 0 0).broadcast.length) && !geo.active 255 && geo.active 0 && !geo.outRes &&
       decide (tabFind (s.engineAt 0 0).resident (bufferKey 0 true) = none)) = true ∧ oneRun.column = 0 ∧ ((chunk 0).run, (chunk 0).pass) = (0, 0) ∧
       ({ chunk 0 with pass := 1 } : Chunk).pass ≠ 0 ∧ seeks s oneRun running true = some none ∧ (s.engineAt 0 0).next = none) ∧
    (let next := { oneRun with tile := 1 }
     let r := { running with word := (running.word.set 2 0) }
     let s := onEngine r { current := some oneRun, next := some next, broadcast := [chunk 63], feeders := [(0, [chunk 0])] }
     geoHas s oneRun r (fun geo => !geo.outRes && decide (nextBroadcast (s.engineAt 0 0).broadcast 0 oneRun geo = none)) = true ∧
       seeks s oneRun r false = some (some (1, 0, 0)) ∧ seeks s oneRun r true = some (some (1, 0, 0))) ∧
    (let s := onEngine outRes { current := some oneRun }
     geoHas s oneRun outRes (fun geo => geo.outRes && geo.active 0 && decide (nextPair [] 0 0 oneRun geo = some (0, 0)) &&
       isOk (geo.laneChunk 0 0)) = true) ∧
    (let s := onEngine outRes { current := some oneRun, feeders := [(0, [{ chunk 0 with column := 0 }])] }
     geoHas s oneRun outRes (fun geo => geo.active 0 && decide (nextPair [chunk 0] 0 0 oneRun geo = some (0, 1)) &&
       isOk (geo.colChunk 0 0)) = true) := by decide +kernel
/-- While the row unit has phase 2 of a CHAIN, the broadcast queue lacks the first column of phase 3. -/
theorem test_meets_EngineFillsAndVectors_phase :
    let run := { oneRun with phase := 2 }
    let r := { chain with taken := [0], next := 1 }
    let s := onEngine r { current := some run }
    (match engineRun s 0 0 with | some (a, b, .ok none) => decide (a = run) && decide (b = r) | _ => false) = true ∧
      (match runGeo s (reqOf s r) 0 0 r.word { run with phase := 3 } with
       | .ok (some (geo, subs)) => (match seekPlace s 0 0 r true (nextBroadcast []) 9 0 ({ run with phase := 3 }, false) geo subs with
         | .ok (some p) => decide (p.column < p.geo.cols) && isOk (p.geo.colChunk p.column p.pass) | _ => false)
       | _ => false) = true := by decide +kernel

/-- Held by the supply; a region that drains; the score store of a CHAIN; a late broadcast; a lane without its chunk; a vector that goes
on to the next column, and the last one of its tile; the same in output-resident mode. -/
theorem test_meets_EngineFillsAndVectors_vectors :
    (let s := { onEngine running { current := some oneRun } with power := { clocked with warn := 1 } }
     geoHas s oneRun running (fun _ => true) = true ∧ supplyHold s (ecDie 0) = true ∧ (s.ecAt 0).dbg.halting = false ∧ (s.ecAt 0).dbg.halted = false) ∧
    (let s := onEngine running { current := some oneRun, drains := [(oneRun, 0)] }
     geoHas s oneRun running (fun _ => true) = true ∧ supplyHold s (ecDie 0) = false ∧ ((s.engineAt 0 0).drains.any fun q => regionsMeet q.1.region 0) = true) ∧
    (let run := { oneRun with phase := 1 }
     let r := { chain with taken := [0], next := 1 }
     let s := onEngine r { current := some run } { scoreOwner := some 1 }
     geoHas s run r (fun _ => true) = true ∧ supplyHold s (ecDie 0) = false ∧ (s.ecAt 0).scoreOwner = some 1) ∧
    (let s := onEngine running { current := some oneRun }
     geoHas s oneRun running (fun geo => !geo.outRes) = true ∧ (s.engineAt 0 0).broadcast = [] ∧
       lateCause s 0 running oneRun = some cntStallHbm ∧ stewardsWait s 0 = none) ∧
    (let s := { onEngine running { current := some oneRun } with mem := cellsWrite tables 0x8040 (natLe 6 sramBase) }
     geoHas s oneRun running (fun geo => !geo.outRes && decide (0 ∈ geo.lanes)) = true ∧ lateCause s 0 running oneRun = none ∧
       tabFind (s.engineAt 0 0).resident (bufferKey 0 true) = none) ∧
    (let s := onEngine running { current := some oneRun, broadcast := [chunk 0] }
     geoHas s oneRun running (fun geo => !geo.outRes && decide (0 ∈ geo.lanes)) = true ∧ tabFind (s.engineAt 0 0).resident (bufferKey 0 true) = none) ∧
    (let s := onEngine running { current := some oneRun, broadcast := [chunk 0], resident := [(1, chunk 0)] }
     geoHas s oneRun running (fun geo => !geo.outRes && decide (geo.lanes = [0]) && decide (1 < geo.width) && decide (0 < geo.cols)) = true ∧
       Memory.wf s.mem = true ∧ (tabFind (s.engineAt 0 0).resident (bufferKey 0 true)).map (fun k => (k.run, k.pass)) = some (0, 0) ∧
       (s.engineAt 0 0).accBad = [] ∧ (s.engineAt 0 0).residentBad = []) ∧
    (let run := { oneRun with column := 63 }
     let s := onEngine running { current := some run, broadcast := [{ chunk 63 with elements := [] }], resident := [(0, chunk 0)] }
     geoHas s run running (fun geo => decide (geo.width = 64) && decide (geo.passes = 1)) = true) ∧
    (let s := onEngine outRes { current := some oneRun }
     geoHas s oneRun outRes (fun geo => geo.outRes && decide (0 ∈ geo.lanes)) = true ∧ tabGet [] (s.engineAt 0 0).feeders 0 = []) ∧
    (let s := onEngine outRes { current := some oneRun, feeders := [(0, [chunk 0, chunk 1])] }
     geoHas s oneRun outRes (fun geo => geo.outRes && decide (geo.lanes = [0]) && decide (geo.passes ≤ 1)) = true ∧
       2 ≤ (tabGet [] (s.engineAt 0 0).feeders 0).length) := by decide +kernel
/-- The vector (1, 2) · (3, 4) enters as 11.0 in the accumulator of lane 0, and the lanes turn to the buffer just filled. -/
theorem test_vector_entry :
    let s := onEngine running { current := some oneRun, broadcast := [{ chunk 0 with elements := [0x4040, 0x4080] }], resident := [(1, chunk 0)] }
    let t := after (.vectorEntry 0 0) s
    readAccum t 0 0 0 0 false = .f32 0x41300000 ∧ (t.engineAt 0 0).current = some { oneRun with column := 1 } ∧
      (t.engineAt 0 0).buffer = true := by decide +kernel

/-! ### Drains, combine steps, row tiles and spans -/

/-- The work on the engine succeeds, and its record stands after it. -/
def works (d : Nat) (x : Got (State × BitVec 16)) : Bool := match x with | .ok (u, _) => (macroAt u d 1).isSome | .error _ => false

theorem test_meets_DrainsAndCombineSteps :
    (let s := onEngine running { drains := [(oneRun, 0)] }
     coreClocks s = true ∧ macroAt s 0 1 = some running ∧ (match runGeo s (reqOf s running) 0 0 running.word oneRun with
       | .ok (some (geo, _)) => works 0 (drainColumn s 0 0 oneRun 0 geo) | _ => false) = true) ∧
    (let r := { running with word := (running.word.set 0x1E 3).set 0x1F 0 }
     let s := onEngine r { combines := [oneRun] }
     ecIssues s 0 = true ∧ macroAt s 0 1 = some r ∧ (s.engineAt 0 0).current = none ∧ (s.engineAt 0 0).next = none ∧ (s.engineAt 0 0).drains = [] ∧
       works 0 (combineStepOf s 0 0 r 0) = true) ∧
    (let r := { running with word := (running.word.set 0x1E 3).set 0x1F 0 }
     let s := onEngine r { combines := [oneRun], current := some oneRun }
     ecIssues s 0 = true ∧ (s.engineAt 0 0).combines = [oneRun] ∧ (macroAt s 0 1).isSome = true ∧ (s.engineAt 0 0).current ≠ none) ∧
    (let r := { combine with taken := [0], next := 1 }
     let s := onEngine r { current := some oneRun }
     ecIssues s 0 = true ∧ (s.engineAt 0 0).combines = [] ∧ engineRec s 0 0 = some r ∧ wOpcode r.word = 3 ∧
       (match combineCmd s (reqOf s r) r.word, recWork s (reqOf s r) r.word with
        | .ok c, .ok w => works 0 (combineTile s (reqOf s r) c (w.tiles.getD 0 { batch := 0, i := 0, j := 0, k := 0 }))
        | _, _ => false) = true) := by decide +kernel
/-- The accumulator 11.0 of lane 0, column 0 is stored, and the tile has ended. -/
theorem test_accumulator_drain :
    let s := onEngine running { current := some { oneRun with column := 63 }, broadcast := [{ chunk 63 with elements := [] }], resident := [(0, chunk 0)] }
    let t := after (.accumulatorDrain 0 0) (after (.vectorEntry 0 0) s)
    (t.engineAt 0 0).drains = [] ∧ (macroAt t 0 1).map MacroRec.taken = some [] := by decide +kernel

/-- EC 0 with a row unit that has tile 0 of a ROWFN. -/
def onRowUnit (r : MacroRec) : State :=
  { ledger r with ecs := [(0, { bound := some 0, rowUnit := { holds := some 1, current := some oneRun } })] }

/-- One head of one element attends to the tokens of the sequence of `tableOf`, all bales of which are read. -/
def attending (ntok : Nat) : List Host.Cell :=
  cellsOf 0x8080 [(1, 0x02), (2, 1), (8, 64), (0x10, 1), (0x14, 1), (0x18, 5), (0x1E, 0x80), (0x1F, 0x3F), (0x2C, 1), (0x31, 1)] ++
  cellsOf 0x8140 [(2, 1), (8, 64), (0x10, 1), (0x14, 1), (0x18, 4), (0x1E, 0x80), (0x1F, 0x3F), (0x2C, 1), (0x31, 1)] ++
  cellsOf 0x81C0 [(2, 2)] ++ cellsOf 0x10000 [(0, 0x80), (1, 0x3F)] ++ tableOf ntok 1 ++ cellsOf 0x50000 [(0, 0x80), (1, 0x3F)] ++ cellsOf 0x50100 [(1, 0x40)]
def attend (l : Tab Nat) : MacroRec :=
  { started (word 8 ([(0x18, 5), (0x1A, 2), (0x1C, 0xFF), (0x1D, 0xFF), (0x1E, 7), (0x20, 1), (0x22, 1), (0x23, 1), (0x26, 4), (0x2A, 0x80), (0x2B, 0x3F),
      (0x32, 1), (0x34, 0x44)] ++ l)) with taken := [0], next := 1 }
def onSpan (r : MacroRec) (x : Engine) (c : Ec := {}) (ntok : Nat := 4) : State :=
  { onEngine r { x with current := some oneRun } c with mem := (attending ntok).filter fun c => c.2 ≠ 0 }
def span1 (stage : Nat) : SpanRun :=
  { acc := 1, tile := 0, span := 0, stage, rowMax := [0x3F800000], live := [4], factors := [(0x3F800000, 0)],
    triples := [(0xFF800000, 0, [0])], status := [0], floors := [0], flags := 0 }

/-- The span's command reads well; its row block, its tile and its spans have the property, with the state after the look-ups of the block in
which the engine has asked for the score store. -/
def spanHas (s : State) (run : TileRun) (r : MacroRec) (p : State → AttCmd → TileId → RecWork → BlockWork → Bool) : Bool :=
  ecIssues s 0 && match attendRun s 0 0 with
  | some (a, b, .ok (k, seqs, tile, wk)) => decide (a = run) && decide (b = r) && (match blockWork s (reqOf s r) 0 k seqs tile with
    | .ok w =>
      let u := labUseAll s (reqOf s r) 0 k.t (attLookups s (reqOf s r) k seqs tile)
      p (u.setEc 0 (scoreAsk (u.ecAt 0) 0).2) k tile wk w
    | .error _ => false)
  | _ => false
def whole : MacroRec := attend [(0x24, 4)]
/-- A split of one round each. -/
def split : MacroRec := attend [(0x24, 0x44), (0x27, 1)]

theorem test_meets_RowTilesAndSpans_row :
    (let s := { ledger rowfn with ecs := [(0, { scoreWaiters := [1, 0] })] }
     (s.ecAt 0).scoreWaiters = 1 :: [0] ∧ (s.ecAt 0).scoreOwner = none) ∧
    (let r := { rowfn with taken := [0], next := 1 }
     let s := onRowUnit r
     ecIssues s 0 = true ∧ macroAt s 0 1 = some r ∧ wOpcode r.word ≠ 2 ∧ (s.ecAt 0).rowUnit.current = some oneRun ∧
       (match rowCmd s (reqOf s r) r.word with
        | .ok k => works 0 (rowTileRun s (reqOf s r) (runningBank (s.ecAt 0).rowUnit).1 0 k
            ((rowTiles k).getD 0 { batch := 0, i := 0, j := 0, k := 0 })) && decide (k.func ≠ 0x10)
        | .error _ => false) = true) ∧
    (let run := { oneRun with phase := 2 }
     let r := { chain with taken := [0], next := 1 }
     let s := onEngine r { current := some run } { scoreOwner := some 0, rowUnit := { holds := some 1 } }
     ecIssues s 0 = true ∧ macroAt s 0 1 = some r ∧ chainWaiting s 0 1 = some 0 ∧
       (match chainCmd s (reqOf s r) r.word, recWork s (reqOf s r) r.word with
        | .ok k, .ok w => (let tile := w.tiles.getD 0 { batch := 0, i := 0, j := 0, k := 0 }
          match chainBatch s (reqOf s r) k tile.batch with
          | .ok b => works 0 (chainPhase2 s (reqOf s r) 0 0 k tile b.1)
          | .error _ => false)
        | _, _ => false) = true) := by decide +kernel
theorem test_meets_RowTilesAndSpans_one :
    (let s := onSpan whole {}
     spanHas s oneRun whole (fun s1 k tile _ w => decide (k.place ≠ 1) && !w.spans.isEmpty &&
       (match stageSpan s1 (reqOf s whole) 0 0 k w tile.j 0 true with
        | .ok v => isOk (passOne v (reqOf s whole) 0 0 k w tile.j (startSpan k oneRun w.rows.length) 0)
        | .error _ => false)) = true ∧
       (s.engineAt 0 0).span = none ∧ (scoreAsk (s.ecAt 0) 0).1 = true) ∧
    (let s := onSpan whole {} { scoreOwner := some 1 }
     spanHas s oneRun whole (fun _ _ _ _ _ => true) = true ∧ (scoreAsk (s.ecAt 0) 0).1 = false) ∧
    (let s := onSpan split {}
     spanHas s oneRun split (fun s1 k tile wk w => decide (k.place = 1) && decide (w.spans.length ≤ k.nsplit) && decide (0 < wk.half) &&
       (match (stageSpan s1 (reqOf s split) 0 0 k w tile.j 0 true).bind fun v =>
            passOne v (reqOf s split) 0 0 k w tile.j (startSpan k oneRun w.rows.length) 0 with
        | .ok (u, x) => isOk (foldGot (fun v (m : BitVec 32 × Nat) => uWriteNat v (reqOf s split)
            (splitMaxAddr k 0 (tile.j * k.q.rows + (w.rows.getD m.2 ⟨0, 0, 0, 0, 0⟩).row)) 4 m.1.toNat) u x.rowMax.zipIdx)
        | .error _ => false)) = true) := by decide +kernel
theorem test_meets_RowTilesAndSpans_two :
    (let s := onSpan whole { span := some (span1 3) } {} 130
     spanHas s oneRun whole (fun _ k _ _ w => decide (k.place ≠ 1) && decide (0 + 1 < w.spans.length)) = true) ∧
    (let s := onSpan whole { span := some (span1 3) }
     spanHas s oneRun whole (fun _ k tile _ w => decide (k.place ≠ 1) && decide (w.spans.length = 1) &&
       isOk (let p := passTwo s 0 0 k w (span1 3); resolveBlock p.1 (reqOf s whole) 0 0 k w tile.j p.2)) = true) ∧
    (let r := attend []
     let s := onSpan r {}
     spanHas s oneRun r (fun _ k tile _ w => decide (k.place ≠ 1) && w.spans.isEmpty &&
       isOk (resolveBlock (noteUse s 0 1 k.compat (s.ecAt 0).rowUnit.epoch) (reqOf s r) 0 0 k w tile.j (startSpan k oneRun w.rows.length))) = true) ∧
    (let run := { oneRun with tile := 1 }
     let r := { split with total := 2, next := 2, taken := [1] }
     let s := { onSpan r { span := some (span1 3) } with ecs := [(0, { bound := some 0, engines := [(0, { holds := some 1, current := some run, span := some (span1 3) })] })] }
     spanHas s run r (fun _ k tile _ w => decide (k.place = 1) && isOk (splitPassTwo s (reqOf s r) 0 0 k w tile.j (tile.sub % max k.nsplit 1) (span1 3))) = true) := by
  decide +kernel
theorem test_meets_RowTilesAndSpans_rowUnit :
    let s := onSpan whole { span := some (span1 2) } { scoreOwner := some 0 }
    (s.ecAt 0).scoreOwner = some 0 ∧ (s.engineAt 0 0).span = some (span1 2) ∧ (span1 2).stage = 2 ∧
      spanHas s oneRun whole (fun _ k tile _ w => isOk (rowUnitSpan s (reqOf s whole) 0 0 k w tile.j (span1 2) 0)) = true := by decide +kernel

/-! ### Queued orders and the dragoman -/

/-- An ordering word of steward 0 for EC 0, at the head of the queue of EC 0, whose pair 5 holds `fill`. -/
def order (op : Nat) (l : Tab Nat) : MacroRec := { acc := 1, issuer := 0, ctx := some 0, word := bytesOf 64 ([(0, op), (4, 1)] ++ l) }
def ordered (r : MacroRec) (fill : BitVec 16) (ctx : Nat := 4) (ahead : List Place := []) : State :=
  { ledger r with contexts := [(0, { state := ctx, footprint := [0] })]
                  ecs := [(0, { bound := some 0, pairs := [(5, (fill, 0))], queue := ahead ++ [{ port := 0, acc := 1, started := false }] })] }
theorem test_meets_QueuedOrders :
    (let r := order 0x20 [(2, 5), (8, 1)]
     let s := ordered r 65534
     coreClocks s = true ∧ orderAt s 0 1 0x20 = some r ∧ headsAll s 0 r = true ∧ orderValid 0x20 r = true ∧ orderAllowed s r = true ∧
       (pairAt s (namedPair r.issuer (oPair r.word)).1 (namedPair r.issuer (oPair r.word)).2).1.toNat + oArg r.word ≤ 65535 ∧
       headsAll (ordered r 0 4 [{ port := 1, acc := 7, started := true }]) 0 r = false) ∧
    (let r := order 0x21 [(2, 5)]
     orderAt (ordered r 1) 0 1 0x21 = some r ∧ headsWaiting (ordered r 1) 0 r = true ∧ orderValid 0x21 r = true ∧
       orderAllowed (ordered r 1) r = true ∧ pairAt (ordered r 1) 0 5 = (1, 0) ∧ pairAt (ordered r 0) 0 5 = (0, 0) ∧
       headsWaiting (ordered r 0 4 [{ port := 1, acc := 7, started := false }]) 0 r = false) ∧
    (let r := order 0x22 []
     orderAt (ordered r 0) 0 1 0x22 = some r ∧ headsWaiting (ordered r 0) 0 r = true ∧ yieldAsked (ordered r 0) r.ctx = false ∧
       orderAt (ordered r 0 5) 0 1 0x22 = some r ∧ yieldAsked (ordered r 0 5) r.ctx = true) ∧
    (let r := order 0x23 [(0x10, 9)]
     orderAt (ordered r 0) 0 1 0x23 = some r ∧ orderValid 0x23 r = true ∧ headsWaiting (ordered r 0) 0 r = true ∧
       (ordered r 0).time.toNat < oTime r.word ∧ oTime r.word ≤ ({ ordered r 0 with time := 9 } : State).time.toNat) := by decide +kernel
/-- A steward of the pair's EC, and a stream slot of it, that come before an ordering WAIT; and where neither does. -/
theorem test_meets_QueuedOrders_first :
    (let r := order 0x21 [(2, 3)]
     let s := { ordered r 1 with ecs := [(0, { bound := some 0, pairs := [(3, (1, 1))], queue := [{ port := 0, acc := 1, started := false }] })] }
     orderAt s 0 1 0x21 = some r ∧ ownStewardWaits s 0 3 (oFree r.word) = none ∧ slotWants s 0 3 (oFree r.word) = none ∧
       otherStewardWaits s 0 3 (oFree r.word) = false ∧
       otherStewardWaits { s with stewards := [(2, { atU with run := .waiting 0 3 false 5 0 7 })] } 0 3 (oFree r.word) = true ∧
       (ownStewardWaits { s with stewards := [(1, { atU with run := .waiting 0 3 false 5 0 7 })] } 0 3 (oFree r.word)).isSome = true ∧
       (slotWants { s with slots := [(0, { state := 2, desc := (List.replicate 64 0).set 0x14 1 |>.set 0x32 3 })] } 0 3 (oFree r.word)).isSome = true) := by
  decide +kernel
/-- A WAIT takes one from the count. -/
theorem test_order_wait : let t := after (.orderWait 0 1) (ordered (order 0x21 [(2, 5)]) 3)
    pairAt t 0 5 = (2, 0) ∧ (t.stewardAt 0).retired = 1 := by decide +kernel

/-- An index of two lists over vectors of one element, and one query, 1.0: list 0 has one entry, item 0x55 in vector slot 2, which holds
4.0; list 1 has 40. -/
def index : List Host.Cell :=
  cellsOf 0x8140 [(2, 1), (8, 64), (0x10, 1), (0x14, 1), (0x18, 4), (0x1E, 0x80), (0x1F, 0x3F), (0x2C, 1), (0x31, 1)] ++
  cellsOf 0x8180 [(2, 4), (0x11, 0x10), (0x12, 4)] ++ cellsOf 0x10000 [(0, 0x80), (1, 0x3F)] ++
  cellsOf 0x20000 [(0, 1), (2, 5), (3, 1), (8, 2), (0x0C, 64), (0x11, 0x50), (0x12, 4), (0x19, 0x70), (0x1A, 4), (0x21, 0x60), (0x22, 4),
    (0x41, 0x80), (0x42, 4), (0x48, 64), (0x50, 2), (0x54, 1), (0x58, 4), (0x5E, 0x80), (0x5F, 0x3F), (0x6C, 1), (0x71, 1),
    (0x80, 7), (0x89, 0x20), (0x8A, 4), (0x98, 4), (0xA4, 1)] ++
  cellsOf 0x42000 [(1, 0x30), (2, 4), (8, 1), (0x11, 0x40), (0x12, 4), (0x18, 40)] ++
  cellsOf 0x43000 [(0x400, 0x55), (0x500, 2)] ++ cellsOf 0x45000 [(0x82, 0x80), (0x83, 0x40)]
/-- A SEARCH for the nearest item with a probe of one list, in waves of one query; `flags` is byte 2E. -/
def search (flags : Nat) : MacroRec :=
  started (word 0x18 [(0x1A, 2), (0x20, 5), (0x22, 6), (0x24, 1), (0x26, 2), (0x28, 1), (0x2A, 1), (0x2C, 1), (0x2E, flags)])
/-- The die with the command, dragoman contexts and jobs. -/
def searching (r : MacroRec) (cx : Tab DrgCtx := []) (jobs : Tab ScanJob := []) : State :=
  { ledger r with mem := index.filter fun c => c.2 ≠ 0, dies := [(0, { macros := [r], accepted := 1, drgCommands := [1], drgCtxs := cx, drgJobs := jobs })] }
def bound (state : Nat) : DrgCtx :=
  { state, acc := 1, ctx := some 0, query := 0, wave := 1, slot := some 0x20080, slotWords := [0x42000, 0, 4, 7] }
/-- Its context has scanned list 0 and kept the item. -/
def scanned : DrgCtx := { bound 3 with probes := [0], formed := true, shortlist := [(0, 0x55, 2)], scanned := 1 }

/-- A SELECT_BALES over the bales of `tableOf`, for one block of one head. -/
def blocks : List Host.Cell :=
  cellsOf 0x8140 [(2, 1), (8, 64), (0x10, 1), (0x14, 1), (0x18, 4), (0x1E, 0x80), (0x1F, 0x3F), (0x2C, 1), (0x31, 1)] ++
  cellsOf 0x8180 [(2, 2), (0x19, 0x80), (0x1A, 4)] ++ cellsOf 0x10000 [(0, 0x80), (1, 0x3F)] ++ tableOf 130 1
def select (l : Tab Nat) : MacroRec :=
  started (word 0x19 ([(0x18, 5), (0x1A, 6), (0x1C, 1), (0x1E, 1), (0x1F, 1), (0x20, 1), (0x22, 1), (0x2C, 1)] ++ l))
def selecting (r : MacroRec) (cx : Tab DrgCtx := []) (jobs : Tab ScanJob := []) : State :=
  { searching r cx jobs with mem := blocks.filter fun c => c.2 ≠ 0 }
def inSelect (state : Nat) : DrgCtx := { state, acc := 1, ctx := some 0, select := true, query := 0, wave := 1 }

theorem test_meets_DragomanSteps_waves :
    (let r := search 0
     let s := searching r
     coreClocks s = true ∧ macroAt s 0 1 = some r ∧ waveDue s 0 r = some 1 ∧ wOpcode r.word = 0x18 ∧
       (match searchCmd s (reqOf s r) r.word with
        | .ok c => !c.oneEpoch && (match bindEpoch s (reqOf s r) c.root 1 with
          | .ok (u, some a) => isOk (slotWordsOf u (reqOf s r) a) | _ => false)
        | .error _ => false) = true) ∧
    (let r := { search 0 with armed := false }
     waveDue (searching r) 0 r = none) ∧
    (let r := search 0
     let s := { searching r with mem := (index.filter fun c => c.1 ≠ 0x200A4).filter fun c => c.2 ≠ 0 }
     waveDue s 0 r = some 1 ∧ (match searchCmd s (reqOf s r) r.word with
        | .ok c => (match bindEpoch s (reqOf s r) c.root 1 with | .ok (_, none) => true | _ => false)
        | .error _ => false) = true) ∧
    (let r := { search 2 with epochSlot := some 0x20080 }
     let s := searching r
     waveDue s 0 r = some 1 ∧ ((searchCmd s (reqOf s r) r.word).toOption.map SearchCmd.oneEpoch) = some true ∧
       isOk (slotWordsOf s (reqOf s r) 0x20080) = true) ∧
    (let r := select []
     let s := selecting r
     macroAt s 0 1 = some r ∧ waveDue s 0 r = some 1 ∧ wOpcode r.word = 0x19 ∧
       (match selectCmd s (reqOf s r) r.word with
        | .ok c => (match attSeqs s (reqOf s r) c.att with | .ok seqs => decide (r.nextQuery + 1 ≤ (selectBlocks c seqs).length) | .error _ => false)
        | .error _ => false) = true) := by decide +kernel
theorem test_meets_DragomanSteps_jobs :
    (let s := searching (search 0) [(3, bound 1)]
     (drgCtx s 0 3).acc = 1 ∧ (drgCtx s 0 3).state = 1 ∧ coarseReady s 0 (drgCtx s 0 3) = false) ∧
    (let r := { search 0 with drained := [(0, 1)], next := 1 }
     let s := searching r [(3, bound 1)]
     coarseReady s 0 (drgCtx s 0 3) = true ∧ isOk (probeSet s 0 (drgCtx s 0 3) r) = true) ∧
    (let r := { select [] with drained := [(0, 1)], next := 1 }
     let s := { selecting r [(3, inSelect 1)] with mem := (blocks.filter fun c => c.1 ≠ 0x31000).filter fun c => c.2 ≠ 0 }
     coarseReady s 0 (drgCtx s 0 3) = true ∧ (drgCtx s 0 3).select = true ∧
       (match probeSet (blockLookups s 0 (drgCtx s 0 3) r fun c => (sourceBundles c).map fun b => 64 * b) 0 (drgCtx s 0 3) r with | .error z => decide (z.1.cls = 7) | .ok _ => false) = true) ∧
    (let s := searching (search 0) [(3, { bound 3 with probes := [0] }), (4, { bound 7 with query := 1 })] [(2, { acc := 9, list := 0, ctxs := [], block := 0 })]
     (s.dieAt 0).drgCtxs.Pairwise (fun a b => a.1 < b.1) ∧ (s.dieAt 0).drgJobs.Pairwise (fun a b => a.1 < b.1) ∧ waveToForm s 0 1 = some 1) := by
  decide +kernel
theorem test_meets_DragomanSteps_scans :
    ([0, 1].all fun l =>
      let r := search 0
      let j : ScanJob := { acc := 1, list := l, ctxs := [3], block := 0 }
      let s := searching r [(3, { bound 3 with probes := [l], formed := true, jobs := 1 })] [(0, j)]
      decide ((s.dieAt 0).drgJobs[0]? = some (0, j)) && decide (macroAt s 0 1 = some r) && !supplyHold s 0 && decide j.ctxs.Nodup &&
        isOk (scanPosting s 0 0 j r) && (match listEntry s (reqOf s r) (drgCtx s 0 3).ldir l with
          | .ok e => decide (e.1 % 64 = 0) && decide (if l = 0 then e.2 ≤ 32 else 32 < e.2) | .error _ => false)) = true ∧
    (let r := select []
     let j : ScanJob := { acc := 1, list := 0, ctxs := [3], block := 0 }
     let s := selecting r [(3, { inSelect 3 with probes := [0], formed := true, jobs := 1 })] [(0, j)]
     macroAt s 0 1 = some r ∧ isOk (scanBundles s 0 0 j r) = true) := by decide +kernel
theorem test_meets_DragomanSteps_ends :
    (let r := search 0
     let s := searching r [(3, { bound 3 with probes := [0], formed := true })]
     let x := drgCtx s 0 3
     macroAt s 0 x.acc = some r ∧ x.state = 3 ∧ x.formed = true ∧ x.jobs = 0 ∧ x.select = false ∧
       (match searchCmd s (reqOf s r) r.word with
        | .ok c => decide (x.shortlist.length < c.topk) && decide (x.widened < c.widen) && decide (x.probes.length < c.nlist) &&
            isOk (SearchCmd.ranked s (reqOf s r) c x.query)
        | .error _ => false) = true) ∧
    ([[], [(0, 1, 9)]].all fun far =>
      let r := search 0
      let s := searching r [(3, { scanned with outOfRange := far })]
      let x := drgCtx s 0 3
      match searchCmd s (reqOf s r) r.word with
      | .ok c => !decide (x.shortlist.length < c.topk) && decide (outOfRangeFault c.rr x = !far.isEmpty) && isOk (writeShortlist s (reqOf s r) c x)
      | .error _ => false) = true ∧
    ([0, 1].all fun sel =>
      let r := select [(0x1F, sel), (0x24, 1)]
      let s := selecting { r with word := r.word.set 0x1F (BitVec.ofNat 8 sel) |>.set 0x24 1 } [(3, { inSelect 3 with probes := [0], formed := true })]
      let x := drgCtx s 0 3
      match macroAt s 0 1 with
      | some r => (match selectCmd s (reqOf s r) r.word with
        | .ok c => (match selectBlock s (reqOf s r) c x.query with
          | .ok b => (match candidates s (reqOf s r) 0 c b with
            | .ok cs => decide ((forcedBales c b cs).length ≤ c.sel) == decide (sel = 1)
            | .error _ => false)
          | .error _ => false)
        | .error _ => false)
      | none => false) = true := by decide +kernel
theorem test_meets_DragomanSteps_results :
    (let s := searching (search 0) [(3, { scanned with state := 5 })]
     (drgCtx s 0 3).state = 5) ∧
    (let r := search 0
     let s := searching r [(3, { scanned with state := 4 })]
     let x := drgCtx s 0 3
     x.state = 4 ∧ x.shortlist[x.dists.length]? = some (0, 0x55, 2) ∧ macroAt s 0 x.acc = some r ∧ isOk (nextDistance s 0 x r (0, 0x55, 2)) = true) ∧
    (let r := search 0
     let s := searching r [(3, { scanned with state := 6, dists := [0x41100000] })]
     let x := drgCtx s 0 3
     x.shortlist.length ≤ x.dists.length ∧ x.state = 6 ∧ macroAt s 0 x.acc = some r ∧ isOk (emitCtx s 0 3 x r) = true ∧
       ((s.dieAt 0).drgCtxs.all fun y => decide (y.1 < 2048)) = true) ∧
    (macroReady (searching (search 0)) 0 1 0x18 = some (search 0) ∧ macroReady (selecting (select [])) 0 1 0x19 = some (select [])) := by
  decide +kernel
/-- The coarse tiles of a SEARCH run, or wait where a read of them meets a window under HOLD. -/
theorem test_meets_DragomanSteps_held :
    isOk (allTiles (searching (search 0)) 0 (search 0) (plainTile (coarseTile 0))) = true ∧
    macroReady (underHold (searching (search 0))) 0 1 0x18 = some (search 0) ∧
    isOk (allTiles (underHold (searching (search 0))) 0 (search 0) (plainTile (coarseTile 0))) = false := by decide +kernel
/-- (1 − 4)² = 9.0, the distance of the item by metric 1. -/
theorem test_rerank : (drgCtx (after (.rerank 0 3 true) (searching (search 0) [(3, { scanned with state := 4 })])) 0 3).dists = [0x41100000] := by
  decide +kernel
/-- The result: one item, epoch 7; item 0x55 at distance 9.0. -/
theorem test_emit : let s := searching (search 0) [(3, { scanned with state := 6, dists := [0x41100000] })]
    bytesAfter (.emit 0 3) s 0x41000 16 = [1, 0, 0, 0, 0, 0, 0, 0, 7, 0, 0, 0, 0, 0, 0, 0] ∧
      bytesAfter (.emit 0 3) s 0x41040 12 = [0x55, 0, 0, 0, 0, 0, 0, 0, 0, 0, 0x10, 0x41] := by decide +kernel

/-! ### Streams -/

/-- A COPY record whose descriptors 0 to 2 are a good COPY, a GATHER and zeros; every slot of EC 0 but `free` is DONE or ARMED. -/
def copying (d slot : Nat) : MacroRec := { started (word 0x12 [(0x18, d), (0x1A, slot)]) with total := 0 }
def slotted (r : MacroRec) (all : BitVec 3) : State :=
  { ledger r with mem := (cellsOf 0x8000 descFields ++ cellsOf 0x8040 [(0x26, 1)]).filter fun c => c.2 ≠ 0
                  slots := (List.range 64).map fun i => (i, { state := all }) }
theorem test_meets_Streams_commands :
    (let r := copying 0 0xFF
     let s := slotted r 4
     let d := unitBytes s (some 0) 0x8000 64
     coreClocks s = true ∧ macroAt s 0 1 = some r ∧ wOpcode r.word = 0x12 ∧ r.armed = true ∧ r.finished = false ∧ r.slot = none ∧ r.joined ≠ [] ∧
       commandUnit 0 r = 0 ∧ commandSlot s 0 r.word = some 0 ∧ (uRead s (reqOf s r) 0x8000 64).toOption = some d ∧ dKind d = 0 ∧
       ownerCtx s (.task r.issuer) = r.ctx ∧ descriptorOk 0 d = true ∧ descriptorInside s (s.ctxAt 0).part.toNat d = true) ∧
    (commandSlot (slotted (copying 0 0xFF) 1) 0 (copying 0 0xFF).word = none ∧ commandSlot (slotted (copying 0 63) 5) 0 (copying 0 63).word = some 63 ∧
      commandSlot (slotted (copying 0 64) 5) 0 (copying 0 64).word = none) ∧
    (let s := slotted (copying 1 0xFF) 4
     (uRead s (reqOf s (copying 1 0xFF)) 0x8040 64).toOption.map dKind = some 1) ∧
    (let s := slotted (copying 2 0xFF) 4
     (uRead s (reqOf s (copying 2 0xFF)) 0x8080 64).toOption.map (fun d => (dKind d, descriptorOk 0 d)) = some (0, false)) := by decide +kernel
theorem test_copy_arms : let t := after (.copy 0 1) (slotted (copying 0 0xFF) 4)
    (t.slotAt 0 0).state = 1 ∧ (t.slotAt 0 0).desc = desc ∧ (t.slotAt 0 1).state = 4 := by decide +kernel

/-- Slot 0 of a unit, whose descriptor is that of `desc` with more fields, on a part with pair 3 (FILL 0, FREE 1) and pair 4 (FILL `w`). -/
def onSlot (u : Nat) (l : Tab Nat) (x : Slot) (w : BitVec 16 := 1) : State :=
  { mapped 0 atU with
    contexts := [(0, { state := 4, footprint := [0] })], ecs := [(0, { bound := some 0, pairs := [(3, (0, 1)), (4, (w, 0))] })]
    slots := [(64 * u, { x with desc := bytesOf 64 (l ++ descFields), owner := .task 0 })] }
/-- Four tiles with SEMA pair 3 and WSEM pair 4. -/
def withPairs : Tab Nat := [(0x14, 4), (0x30, 3), (0x31, 0), (0x32, 4), (0x33, 0)]
theorem test_meets_Streams_reads :
    (let s := onSlot 0 withPairs { state := 1 }
     unitClocked s 0 = true ∧ coreClocks s = true ∧ (s.slotAt 0 0).state = 1 ∧ reserved s 0 + 4 * dTileBytes (s.slotAt 0 0).desc ≤ 524288 ∧ firstInDeadline s 0 0 = true) ∧
    (let s := onSlot 0 withPairs { state := 2, issued := 3 }
     let x := s.slotAt 0 0
     dKind x.desc ≠ 5 ∧ unitHeld s 0 = false ∧ x.issued < dTiles x.desc ∧ x.issued < x.written + 4 ∧ heldRead s x = none ∧
       (semTake s 0 0 (dWsem x.desc) false).isSome = true ∧ semTake (onSlot 0 withPairs { state := 2, issued := 3 } 0) 0 0 (dWsem x.desc) false = none ∧
       (heldRead (underHold s) x).isSome = true) ∧
    (let x := (onSlot 0 [(0x14, 9)] { state := 2, issued := 4 }).slotAt 0 0
     x.issued < dTiles x.desc ∧ x.written + 4 ≤ x.issued) ∧
    (let s := onSlot 0 withPairs { state := 2, issued := 1 }
     let x := s.slotAt 0 0
     let q := slotReq s x
     hasLanded x 0 = false ∧ isOk ((tileSource s { q with waits := false } x.desc 0).bind fun a => uRead s { q with waits := false } a (dTileBytes x.desc)) = true ∧
       semNone (dWsem x.desc) = false ∧ (pairAt s (semEc (dWsem x.desc)) (semNum (dWsem x.desc))).2.toNat < 65535) ∧
    ([3, 6, 0].all fun k =>
      let s := onSlot 0 ((4, 0x18) :: withPairs) { state := k, issued := 1 }
      hasLanded (s.slotAt 0 0) 0 == false && !isOk (readTile s (s.slotAt 0 0) 0)) = true := by decide +kernel
theorem test_meets_Streams_writes :
    (let s := onSlot 0 withPairs { state := 2, issued := 1, landed := [(0, [1, 2])] }
     let x := s.slotAt 0 0
     dKind x.desc = 0 ∧ x.written < dTiles x.desc ∧ x.landed.find? (fun e => e.1 == x.written) = some (0, [1, 2]) ∧
       (match semTake s 0 0 (dSema x.desc) true with
        | some w => (match tileDest w { slotReq w x with noAllocate := dNoAlloc x.desc } x.desc 0 with
           | .ok a => isOk (uWrite w { slotReq w x with noAllocate := dNoAlloc x.desc } a [1, 2]) | .error _ => false)
        | none => false) = true ∧
       semTake { s with ecs := [] } 0 0 (dSema x.desc) true = none) ∧
    (let s := { onSlot 130 [(0x26, 3), (0x36, 0x19)] { state := 2, issued := 1, landed := [(0, [1, 2])] } with
                ports := [(16, { state := 3 })], groups := [(2, { credits := [(6, 512)] })] }
     let x := s.slotAt 130 0
     dKind x.desc = 3 ∧ slotGroup s 130 x = unitGroup 130 ∧ (semTake s 130 0 (dSema x.desc) true).isSome = true ∧
       canSend s 2 (slotVc s x) (1 + ceilDiv 2 256) (slotDeadline s x) 130 0 = true) ∧
    (let s := { onSlot 128 [(0x26, 4), (9, 0)] { state := 2, issued := 1, landed := [(0, [1, 2])] } with
                ports := [(0, { state := 3 }), (8, { state := 3 })], groups := [(0, { credits := [(2, 512)] }), (1, { credits := [(2, 512)] })]
                ring := { state := 2, members := [0, 1] } }
     let x := s.slotAt 128 0
     dKind x.desc = 4 ∧ dDst x.desc = 0 ∧ x.written + 1 = dTiles x.desc ∧ caravanDecl s = none ∧ othersForward s 128 0 = false ∧
       (match tileMessages s 128 x [1, 2] with
        | .ok (some l, w) => canSendAll w 128 0 x l && (semTake w 128 0 (dSema x.desc) true).isSome
        | _ => false) = true) ∧
    (let s := onSlot 0 withPairs { state := 3, issued := 1, written := 1 }
     let x := s.slotAt 0 0
     x.performed < x.written ∧ semNone (dSema x.desc) = false ∧ (pairAt s (semEc (dSema x.desc)) (semNum (dSema x.desc))).1.toNat < 65535) := by decide +kernel
theorem test_meets_Streams_ends :
    (let x := (onSlot 0 [] { state := 2, issued := 1, written := 1, performed := 1 }).slotAt 0 0
     x.pend = false ∧ x.command = none ∧ x.written = dTiles x.desc ∧ x.performed = x.written ∧ x.unacked = [] ∧ x.writeAcks = []) ∧
    (let x := (onSlot 0 withPairs { state := 3, issued := 2, written := 1, performed := 1, landed := [(1, [])] }).slotAt 0 0
     x.performed = x.written ∧ x.issued ≤ x.written + x.landed.length ∧ x.ending = none ∧ ({ x with ending := some 0x2001 } : Slot).ending = some 0x2001 ∧
       inTransmit (onSlot 0 withPairs { state := 3, issued := 2, written := 1, performed := 1, landed := [(1, [])] }) 0 0 = false) ∧
    (let s := { onSlot 0 [] { state := 2, issued := 1, written := 1, performed := 1, command := some (0, 1) } with
                dies := [(0, { macros := [copying 0 0xFF], accepted := 1 })] }
     (s.slotAt 0 0).command = some (0, 1) ∧ macroAt s 0 1 = some (copying 0 0xFF)) ∧
    (let x := (onSlot 0 [] { state := 2, issued := 1, written := 1, performed := 1, pend := true }).slotAt 0 0
     x.pend = true ∧ x.written = dTiles x.desc) := by decide +kernel
/-- The landed tile is written at its destination; one FREE of SEMA is taken. -/
theorem test_stream_tile_write : let t := after (.streamTileWrite 0 0) (onSlot 0 withPairs { state := 2, issued := 1, landed := [(0, [1, 2])] })
    (cellGet t.mem 0x8000, cellGet t.mem 0x8001) = (1, 2) ∧ pairAt t 0 3 = (0, 0) ∧ (t.slotAt 0 0).written = 1 := by decide +kernel

/-- The drain of a message succeeds. -/
def gives (x : Got (Option State)) : Bool := match x with | .ok (some _) => true | _ => false
/-- A drain stream of group `g` of the ring, and a whole message in its serai. -/
def inSerai (m : Message) : State :=
  { onSlot 128 [(0x14, 4), (0x26, 5)] { state := 2 } with groups := [(0, { serai := [m] })] }
theorem test_meets_Streams_serai :
    (let m := { sends 0x10 2 with head := [1, 5, 0, 7] }
     let s := inSerai m
     coreClocks s = true ∧ (s.groupAt 0).serai[0]? = some m ∧ drainSlot s 0 = some 0 ∧ m.vc.val = 2 ∧
       (s.slotAt 128 0).written + (baleEntries (m.head.drop 1)).length ≤ dTiles (s.slotAt 128 0).desc ∧
       gives (drainBales s 128 0 m.step.toNat (m.body.length / max 1 (baleEntries (m.head.drop 1)).length) (baleEntries (m.head.drop 1)) m.body) = true) ∧
    (let m := sends 0x12 3
     drainSlot (inSerai m) 0 = some 0 ∧ m.vc.val = 3 ∧ gives (drainSurvey (inSerai m) 128 0 m) = true) ∧
    (let m := { sends 0x13 4 with addr := 0x9000 }
     let s := inSerai m
     m.dst = ownLoc s ∧ (match drainTake s 128 0 with
       | some w => isOk (uWrite w (slotReq w (w.slotAt 128 0)) m.addr.toNat (m.body.take m.plen))
       | none => false) = true ∧
       (let m := { sends 0x13 4 with addr := 0x9000 }
        let s := { onSlot 128 (withPairs ++ [(0x26, 5)]) { state := 2 } 0 with groups := [(0, { serai := [m] })] }
        drainSlot s 0 = some 0 ∧ m.dst = ownLoc s ∧ drainTake s 128 0 = none)) ∧
    (let m := { sends 0x13 4 with dst := 3 }
     drainSlot (inSerai m) 0 = some 0 ∧ m.dst ≠ ownLoc (inSerai m)) := by decide +kernel

/-! ### Memory, arithmetic, whole steps -/

/-- A part whose die 0 caches line 32 in way 3. -/
def cached : State :=
  { mapped 0 atU with dies := [(0, { cache := [(32, { way := 3, dirty := true, used := 0 })] })]
                      power := { clocked with hbmTrained := true, lpdTrained := true } }
theorem test_meets_CachesAndMaintenance :
    (let s := cached
     coreClocks s = true ∧ accessCode s (some 0) 0x1000 = 0 ∧ windowAt 0x1000 = some (false, 0) ∧ windowHeld s 0x1000 = false ∧ windowHeld s 0x2000 = false ∧
       windowHeld (underHold s) 0x1000 = true ∧
       s.power.selfRefresh = false ∧ homeDie s 0x1000 = some 0 ∧ (cacheFind s 0 (some 0) 32).isSome = true ∧
       homeDie s 0x2000 = some 0 ∧ accessCode s (some 0) 0x2000 = 0 ∧ cacheFind s 0 (some 0) 64 = none ∧ tabGet 0 s.bad 128 = 0 ∧
       waysOf s 0 0 ≠ 0) ∧
    (let s := { cached with scrub := 2 ^ 32 - 1, bad := [(1, 3)] }
     s.power.hbmTrained = true ∧ s.power.lpdTrained = true ∧ s.power.selfRefresh = false ∧
       tabGet 0 s.bad (s.scrub % 0x300000000 * 64 / 64) = 0 ∧
       (let s := { s with scrub := 1 }
        2 ≤ tabGet 0 s.bad (s.scrub % 0x300000000 * 64 / 64) ∧ tabGet 0 s.bad (s.scrub % 0x300000000 * 64 / 64) ≤ 3)) ∧
    (let s := { cached with hbmWindows := [(0, { valid := true, trained := true, hold := true })] }
     coreClocks s = true ∧ (s.window false 0).hold = true ∧ (s.window false 0).drained = false ∧ windowOutstanding s false 0 = false ∧
       Memory.wf s.mem = true ∧ (s.dieAt 0).cache.Pairwise (fun a b => a.1 < b.1) ∧
       windowOutstanding { s with slots := [(0, { state := 2, issued := 1, desc := desc })] } false 0 = true) ∧
    (let s := { cached with dies := [(0, { wayPending := [(7, 0x00FF)] })] }
     (s.dieAt 0).wayPending.find? (fun y => y.1 == 7) = some (7, 0x00FF)) := by decide +kernel
theorem test_cache_hit : let t := after (.cacheAccess { lineRead with partition := some 0, addr := 0x1000 }) cached
    tabGet 0 (t.dieAt 0).cacheCounters 0 = 1 ∧ tabGet 0 (t.dieAt 0).cacheCounters 1 = 0 := by decide +kernel
/-- The drain of a window writes its lines back and leaves none of them. -/
theorem test_window_drains :
    let t := after (.windowDrainComplete false 0) { cached with hbmWindows := [(0, { valid := true, trained := true, hold := true })] }
    (t.window false 0).drained = true ∧ (t.dieAt 0).cache = [] ∧ t.mem = cached.mem := by decide +kernel

/-- 3 × −2 = −6 fits the window of anchor 10 and not that of anchor 2. -/
theorem test_meets_AnchoredSums_products :
    isFinite (.fin false 3 0) ∧ isFinite (.fin true 1 1) ∧
      |numVal (.fin false 3 0) * numVal (.fin true 1 1) * (2 : ℚ) ^ (((127 : Int) - 127) + ((127 : Int) - 127))| < (2 : ℚ) ^ (10 : Int) ∧
      (2 : ℚ) ^ (2 : Int) ≤ |numVal (.fin false 3 0) * numVal (.fin true 1 1) * (2 : ℚ) ^ (((127 : Int) - 127) + ((127 : Int) - 127))| := by
  refine ⟨⟨_, _, _, rfl⟩, ⟨_, _, _, rfl⟩, ?_, ?_⟩ <;> norm_num [numVal, abs_le, le_abs]
/-- The MATMUL of one pass, in FP8 E4M3 with one product, and two partial planes that read as windows. -/
def anchored : State :=
  { ledger matmul with mem := (cellsOf 0x8000 [(1, 0), (2, 1), (8, 64), (0x10, 1), (0x14, 1), (0x18, 1), (0x2C, 1), (0x31, 1)] ++
      cellsOf 0x8040 [(1, 1), (2, 1), (8, 64), (0x10, 1), (0x14, 1), (0x18, 1), (0x2C, 1), (0x31, 1)] ++
      cellsOf 0x8080 [(1, 2), (2, 1), (8, 64), (0x10, 1), (0x14, 1), (0x18, 5), (0x2C, 1), (0x31, 1)] ++
      cellsOf 0x80C0 [(1, 3), (2, 1), (8, 64), (0x10, 1), (0x14, 1), (0x18, 6), (0x2C, 2), (0x31, 1)] ++
      cellsOf 0x10000 [(0, 0x38)] ++ cellsOf 0x10100 [(0, 0x38)]).filter fun c => c.2 ≠ 0 }
theorem test_meets_AnchoredSums_sums :
    (match runGeo anchored (reqOf anchored matmul) 0 0 matmul.word oneRun with
     | .ok (some (geo, _)) => decide (0 < geo.passes) && (List.range geo.passes).all fun k =>
         match geo.dot 0 0 k with | .ok (.win _) => true | _ => false
     | _ => false) = true ∧
    (match descOf anchored (reqOf anchored matmul) matmul.word 3 with
     | .ok b => [0, 1].all fun k => match readPartial anchored (reqOf anchored matmul) b k 0 0 with | .ok (.win _) => true | _ => false
     | .error _ => false) = true := by decide +kernel

theorem f32_one : numVal (f32Num 0x3F800000) = 1 := by
  have h : f32Num 0x3F800000 = .fin false 8388608 (-23) := by decide +kernel
  rw [h]; norm_num [numVal]
/-- Under anchor 100 the sums 0, 1 and −464, with one scale of 1.0: zero, below the limit, and at the limit of E4M3. -/
theorem test_meets_OutputRounding :
    (∀ t ∈ [(0x3F800000 : BitVec 32)], isFinite (f32Num t)) ∧ (layoutE4m3, (464 : ℚ)) ∈
      [(layoutF32, ((2 : ℚ) ^ 25 - 1) * 2 ^ 103), (layoutBf16, (2 ^ 9 - 1) * 2 ^ 119), (layoutE5m2, 61440), (layoutE4m3, 464)] ∧
    (let V := fun w : Int => (w : ℚ) * (2 : ℚ) ^ ((100 : Int) - 100) * (([0x3F800000].map fun t => numVal (f32Num t)).prod)
     V 0 = 0 ∧ |V 1| < 464 ∧ V 1 ≠ 0 ∧ 464 ≤ |V (-464)|) ∧
    (0 : BitVec 4) &&& 0xE = 0 ∧ (1 : BitVec 4) &&& 0xE = 0 := by
  refine ⟨?_, by simp, ?_, by decide, by decide⟩
  · intro t h
    rw [List.mem_singleton] at h; subst h
    exact ⟨false, 8388608, -23, by decide +kernel⟩
  · norm_num [f32_one]
/-- R63's examples: an E4M3 output of 464 overflows to 448; 3.0 is the code 0x44. -/
theorem test_e4m3_overflow : winOut layoutE4m3 100 ⟨464, 0⟩ [f32One] = (0x7E, flagOvf) ∧ winOut layoutE4m3 100 ⟨3, 0⟩ [f32One] = (0x44, 0) := by
  decide +kernel
theorem test_int8_product : convertProduct 10 (numMul (formatNum 3 0x80) (formatNum 3 0x80)) = ⟨2 ^ 100 - 1, 1⟩ ∧
    convertProduct 20 (numMul (formatNum 3 0x80) (formatNum 3 0x7F)) = ⟨-16256 * 2 ^ 80, 0⟩ := by decide +kernel

theorem test_meets_StewardWordsDecode : (Instr.ld64 7 4 1 0xFFF8).wf = true ∧ encodeSteward (.ld64 7 4 1 0xFFF8) = some 0x4C81FFF8 := by
  decide
theorem test_meets_EveryStepKeepsMemoryAndLog : ∃ t, Kept State.reset ∧ step State.reset = .next t :=
  ⟨_, ⟨by decide +kernel, by decide +kernel, by decide +kernel⟩, rfl⟩

/-! ### Where orders, waits, traps and barriers complete -/

theorem test_meets_OrdersWaitsAndTrapsComplete_orders :
    (let r := order 0x20 [(2, 5), (8, 1)]
     let s := ordered r 65534
     coreClocks s = true ∧ orderAt s 0 1 0x20 = some r ∧ headsAll s 0 r = true ∧ orderValid 0x20 r = true ∧ orderAllowed s r = true ∧
       (pairAt s 0 5).1.toNat + oArg r.word ≤ 65535) ∧
    (let r := order 0x21 [(2, 5)]
     let s := ordered r 1
     orderAt s 0 1 0x21 = some r ∧ headsWaiting s 0 r = true ∧ orderValid 0x21 r = true ∧ orderAllowed s r = true ∧
       ownStewardWaits s 0 5 (oFree r.word) = none ∧ slotWants s 0 5 (oFree r.word) = none ∧
       otherStewardWaits s 0 5 (oFree r.word) = false ∧ (pairAt s 0 5).1 ≠ 0) ∧
    (let r := order 0x22 []
     orderAt (ordered r 0) 0 1 0x22 = some r ∧ headsWaiting (ordered r 0) 0 r = true ∧ yieldAsked (ordered r 0) r.ctx = false) ∧
    (let r := order 0x23 []
     orderAt (ordered r 0) 0 1 0x23 = some r ∧ headsWaiting (ordered r 0) 0 r = true ∧ oTime r.word ≤ (ordered r 0).time.toNat) := by
  decide +kernel
theorem test_meets_OrdersWaitsAndTrapsComplete_traps :
    (stewardReady (oneSteward 0 atS) 0 = true ∧ 1 ≤ atS.pl.toNat ∧ atS.tpc.toNat % 4 = 0) ∧
    (stewardReady (oneSteward 0 atU) 0 = true ∧ atU.stores = [] ∧ atU.inTrap = false ∧ atU.pl = 0 ∧ ((oneSteward 0 atU).ecAt 0).dbg.attach = false) ∧
    (stewardReady (oneSteward 263 atS) 263 = true ∧ atS.stores = [] ∧ atS.inTrap = false ∧ atS.pl = 1) ∧
    (let s := { oneSteward 0 atU with ecs := [(0, { dbg := { attach := true } })] }
     stewardReady s 0 = true ∧ (s.ecAt 0).dbg.attach = true) ∧
    decodeSteward 0 0xFC000000 = none := by decide +kernel
theorem test_meets_OrdersWaitsAndTrapsComplete_waits :
    (let s := paired atU
     stewardReady s 0 = true ∧ pairLegal 0 0x4003 = true ∧ pairAllowed s 0 0x4003 = true ∧ (pairAt s 0 3).1 ≠ 0 ∧ (pairAt s 0 3).2 ≠ 0 ∧
       ∀ j, j < 264 → j ≠ 0 → countWaiter (s.stewardAt j) 0 3 true = false ∧ countWaiter (s.stewardAt j) 0 3 false = false) ∧
    (let s := oneSteward 0 { atU with g := [(4, 1)] }
     let w := regOf s 0 4
     stewardReady s 0 = true ∧ w.toNat / 2 ^ 39 = 0 ∧ w.getLsbD 0 = true ∧ w.getLsbD 38 = false ∧ stewardCtx s 0 = some 0 ∧
       (∀ stw, stw < 2 → (barrierAt s (barrierKey 0 0 0 stw)).arrived = [])) ∧
    (let s := atRing hubS { state := 2, members := [0, 1] }
     stewardReady s 256 = true ∧ (s.stewardAt 256).stores = [] ∧ (s.stewardAt 256).pl = 1 ∧ (regOf s 256 1).toNat = 2 ^ 62 ∧ regOf s 256 2 = 0 ∧
       caravanCode s (s.partAt (256 - 256)).ring = 0 ∧ caravanCode { s with ring := {} } (s.partAt 0).ring ≠ 0) := by decide +kernel
theorem test_meets_OrdersWaitsAndTrapsComplete_data :
    let s := oneSteward 0 { atU with dataMemory := oneByte, g := [(1, 0xFFF8)] }
    stewardReady s 0 = true ∧ (s.stewardAt 0).stores = [] ∧ (regOf s 0 1 + BitVec.ofInt 64 (0#16).toInt).toNat % 8 = 0 ∧
      (regOf s 0 1 + BitVec.ofInt 64 (0#16).toInt).toNat < 65536 ∧ Memory.wf (s.stewardAt 0).dataMemory = true := by decide +kernel
/-- The rails, the temperature, the levels and the settings, and the PLLs. -/
theorem test_meets_OrdersWaitsAndTrapsComplete_supply :
    (serving.power.coreRails = true ∧ serving.power.warn.getLsbD 0 = false ∧ 704 < railWarn serving 0 ∧ 679 < railReset serving 0 ∧
      serving.power.state ≠ 4 ∧ 729 < railReset serving 5) ∧
    (dipping.power.warn.getLsbD 0 = true ∧ railWarn dipping 0 + 10 ≤ 715 ∧ dipping.power.sEmerg = false ∧ dipping.power.state ≠ 7 ∧
      (tabGet 0 dipping.power.warnSince 0).toNat + 1000000 ≤ dipping.time.toNat) ∧
    ((∃ r ∈ (hot 115).toList, 115 ≤ r) ∧ serving.power.state ≠ 7) ∧
    (isFirmware awake core = true ∧ Reaches awake core 0x80100 ∧ Reaches awake core 0x80200 ∧ Reaches awake core 0x100400 ∧
      ((0x00640050 : Reg32).extractLsb' 0 16).toNat + 20 ≤ ((0x00640050 : Reg32).extractLsb' 16 16).toNat ∧
      ((0x6E68 : Reg32).extractLsb' 0 8).toNat + 5 < ((0x6E68 : Reg32).extractLsb' 8 8).toNat ∧ ((0x6E68 : Reg32).extractLsb' 8 8).toNat ≤ 110 ∧
      ((0x408 : Reg32).extractLsb' 6 6).toNat + ((0x408 : Reg32).extractLsb' 0 6).toNat ≤ 24) ∧
    (let s := { serving with power := { serving.power with groupPll := 0x8000, diePll := 1, starting := [(3, 1), (16, 2)] } }
     s.power.state = 0 ∧ s.power.idleUs ≠ 0 ∧ s.power.groupPll.getLsbD 15 = true ∧ groupIdle s 15 = true ∧ s.power.diePll.getLsbD 0 = true ∧
       dieQuiet s 0 = true ∧ s.power.hubPll = true ∧ pllRuns s 1 = false ∧ (∃ e ∈ s.power.starting, e.1 = 16) ∧ s.posted = [] ∧
       s.power.starting.find? (fun e => e.1 == 3) = some (3, 1) ∧ s.power.starting.find? (fun e => e.1 == 16) = some (16, 2)) := by
  unfold Reaches; refine ⟨?_, ?_, ?_, ?_, ?_⟩ <;> decide +kernel
theorem test_meets_OrdersWaitsAndTrapsComplete_events :
    (let s := oneSteward 0 { atU with eie := true, mail := true, evmask := 8 }
     coreClocks s = true ∧ debugStopped s 0 = false ∧ (s.stewardAt 0).run = .running ∧ (s.stewardAt 0).pl = 0 ∧ (s.stewardAt 0).stores = [] ∧
       (s.stewardAt 0).inTrap = false ∧ (s.stewardAt 0).eie = true ∧ eventBits s (s.stewardAt 0) &&& (s.stewardAt 0).evmask ≠ 0) ∧
    (let s := oneSteward 0 { atU with run := .idle, timecmp := 0, evmask := 4 }
     debugStopped s 0 = false ∧ unitClocked s (0 / 2) = true ∧ (s.stewardAt 0).timecmp.toNat ≤ s.time.toNat ∧ (s.stewardAt 0).evmask.getLsbD 2 = true) ∧
    (let s := { paired { atU with run := .waiting 0 4 true 5 0 7 } with time := 7 }
     coreClocks s = true ∧ debugStopped s 0 = false ∧ (s.stewardAt 0).run = .waiting 0 4 true 5 0 7 ∧ (pairAt s 0 4).2 = 0 ∧
       (0 : CTime).toNat + (7 : Word64).toNat ≤ s.time.toNat) ∧
    (let s := paired { atU with run := .waiting 0 3 true 5 0 0 }
     debugStopped s 0 = false ∧ (s.stewardAt 0).run = .waiting 0 3 true 5 0 0 ∧ (pairAt s 0 3).2 ≠ 0 ∧ (0 : Fin 264).val = 2 * (0 : Fin 128).val) ∧
    (let b : DieBarrier := { word := 1, arrived := [(0, 9)] }
     let s := { oneSteward 0 { atU with run := .dieBarrier 0 0 5 } with dieBarriers := [(barrierKey 0 0 0 0, b)], time := 9 }
     coreClocks s = true ∧ barrierAt s (barrierKey 0 0 0 0) = b ∧ b.arrived ≠ [] ∧
       (b.arrived.map fun a => a.1.val).Nodup ∧ (∀ i, i < 32 → b.word.getLsbD i = true → ∃ a ∈ b.arrived, a.1.val = 2 * (32 * 0 + i) + 0) ∧
       (b.arrived.all fun a => decide (a.2.toNat ≤ s.time.toNat) && !debugStopped s a.1) = true ∧ (s.stewardAt 0).run = .dieBarrier 0 0 5) := by decide +kernel

end Sys2Proof.Tests
end

section
/-!
Caravan time (00_scope R9; 09_route R290, R292 to R296): one tick of the counter, the end of a caravan task that is over, the exchange of
TIME_REQ and TIME_RESP with the parent, and the loss of exchanges.
-/

namespace Sys2Proof.Machine

open Sys2Proof.Claims

/-! ### The rows of caravan time -/

theorem exec_timeExchange (s : State) : exec .timeExchange s = execTimeExchange s := rfl
theorem exec_timeReq (port : Fin 24) (m : Message) (t2 t3 : Nat) (s : State) :
    exec (.timeReq port m t2 t3) s = execTimeReq port m t2 t3 s := rfl
theorem exec_timeResp (port : Fin 24) (m : Message) (t4 : Nat) (s : State) :
    exec (.timeResp port m t4) s = execTimeResp port m t4 s := rfl
theorem exec_timeHold (s : State) : exec .timeHold s = execTimeHold s := rfl
theorem exec_syncLoss (s : State) : exec .syncLoss s = execSyncLoss s := rfl

/-- An empty queue lets caravan time pass (log 2). -/
theorem step_of_pending_nil {s : State} (h : s.pending = []) : step s = .next (passTime s) := by
  simp [step, h]

/-! ### One tick (R9, R294) -/

theorem slewDue_iff (s : State) : slewDue s = true ↔ s.sync.lastSlew.toNat + 65536 ≤ s.time.toNat ∧ s.sync.slew ≠ 0 := by
  simp [slewDue]

/-- A tick changes the counter and what TimeSync holds of it, and nothing else. -/
theorem tick_frame (s : State) : tick s = { s with time := (tick s).time, sync := (tick s).sync } := by
  unfold tick
  dsimp only
  split
  · rfl
  · split <;> rfl

theorem tick_of_stopped {s : State} (h : s.timeRuns = false) : tick s = s := by
  simp [tick, h]

theorem tick_of_not_slewDue {s : State} (hrun : s.timeRuns = true) (h : slewDue s = false) : tick s = { s with time := s.time + 1 } := by
  simp [tick, hrun, h]

theorem tick_of_slewDue {s : State} (hrun : s.timeRuns = true) (h : slewDue s = true) :
    tick s = { s with
      time := (tick s).time
      sync := { s.sync with
        slew := s.sync.slew - slewPart s.sync.slew, sub := (tick s).sync.sub, lastSlew := (tick s).time } } := by
  simp [tick, hrun, h]

theorem tick_sub_of_slewDue {s : State} (hrun : s.timeRuns = true) (h : slewDue s = true) :
    (tick s).sync.sub = (((s.sync.sub : Int) + slewPart s.sync.slew) % 16).toNat := by
  simp [tick, hrun, h]

theorem tick_time_of_slewDue {s : State} (hrun : s.timeRuns = true) (h : slewDue s = true) :
    (tick s).time = if 16 ≤ (s.sync.sub : Int) + slewPart s.sync.slew then s.time + 2
      else if (s.sync.sub : Int) + slewPart s.sync.slew < 0 then s.time else s.time + 1 := by
  simp [tick, hrun, h]

theorem slewPart_bounds (x : Int) : -16 ≤ slewPart x ∧ slewPart x ≤ 16 := by
  unfold slewPart
  omega

/-- The clock in 1/16 ct after a tick with a slew due: 1 ct and the part of the slew later. -/
theorem tick_clock_of_slewDue {s : State} (hrun : s.timeRuns = true) (h : slewDue s = true) (hsub : s.sync.sub < 16)
    (hmax : s.time.toNat + 2 < 2 ^ 64) :
    (tick s).sync.sub < 16 ∧
      (16 * (tick s).time.toNat + (tick s).sync.sub : Int) = (16 * s.time.toNat + s.sync.sub : Nat) + 16 + slewPart s.sync.slew := by
  obtain ⟨hlo, hhi⟩ := slewPart_bounds s.sync.slew
  have hone : (s.time + 1).toNat = s.time.toNat + 1 := by bv_omega
  have htwo : (s.time + 2).toNat = s.time.toNat + 2 := by bv_omega
  rw [tick_sub_of_slewDue hrun h, tick_time_of_slewDue hrun h]
  refine ⟨by omega, ?_⟩
  split
  · rw [htwo]; omega
  · split
    · omega
    · rw [hone]; omega

/-! ### The caravan task while time passes (R290) -/

theorem layersDone_tick (s : State) : layersDone (tick s) = layersDone s := by
  rw [tick_frame]; rfl

/-- Without a caravan task whose layers are done, the passing of time brings nothing to the caravan. -/
theorem settleCaravan_of_running {s : State} (h : s.ring.task = none ∨ layersDone s = false) : settleCaravan s = s := by
  unfold settleCaravan
  obtain h | h := h
  · simp [h]
  · split
    · rfl
    · simp [h]

theorem passTime_of_running {s : State} (h : s.ring.task = none ∨ layersDone s = false) : passTime s = tick s := by
  refine settleCaravan_of_running ?_
  rw [layersDone_tick, show (tick s).ring = s.ring by rw [tick_frame]]
  exact h

theorem raiseVector_frame (s : State) (v : Nat) : raiseVector s v = { s with pcie := (raiseVector s v).pcie } := by
  unfold raiseVector
  dsimp only
  split
  · rfl
  · split <;> rfl

theorem hubVector_ring (s : State) (v : Nat) : (hubVector s v).ring = s.ring := by
  unfold hubVector
  split
  · rfl
  · rw [raiseVector_frame]

theorem countDone_ring (s : State) (e : Nat) : (countDone s e).ring = s.ring := by
  unfold countDone
  split <;> rfl

theorem dropCaravan_task_self {s : State} {c : Fin 64} (h : s.ring.task = some c ∨ s.ring.task = none) :
    (dropCaravan s c).ring.task = none := by
  obtain h | h := h <;> simp [dropCaravan, h]

/-- The report of a task's end leaves the caravan task or ends it. -/
theorem reportEnd_task (s : State) (e k : Nat) : (reportEnd s e k).ring.task = s.ring.task ∨ (reportEnd s e k).ring.task = none := by
  unfold reportEnd
  extract_lets x t u q v
  have hv : v.ring = s.ring := by
    have hu : u.ring = s.ring := countDone_ring _ _
    unfold v
    split
    · rw [hubVector_ring, hu]
    · exact hu
  split
  next c hc =>
    split
    · exact .inr (dropCaravan_task_self (.inl hc))
    · exact .inl (by rw [hv])
  next hc => exact .inr hc

theorem foldl_reportEnd_task {c : Fin 64} (l : List (Nat × Nat)) (s : State) (h : s.ring.task = some c ∨ s.ring.task = none) :
    let t := l.foldl (fun u j => reportEnd u j.1 j.2) s
    t.ring.task = some c ∨ t.ring.task = none := by
  induction l generalizing s with
  | nil => exact h
  | cons j r ih =>
    refine ih _ ?_
    obtain hj | hj := reportEnd_task s j.1 j.2
    · rw [hj]; exact h
    · exact .inr hj

/-- An instant that a sum of natural numbers puts no later than now has come. -/
theorem reached_ctAdd {s : State} {r : CTime} {n : Nat} (h : r.toNat + n ≤ s.time.toNat) : reached s (ctAdd r n) = true := by
  have hlt := s.time.isLt
  refine decide_eq_true ?_
  rw [ctAdd, BitVec.toNat_add, BitVec.toNat_ofNat]
  omega

/-- The caravan task of a context that declares no layer ends once its layers are done, no end waits, and its last release is past by MARGIN. -/
theorem settleCaravan_of_over {s : State} {c : Fin 64} {rel : CTime} (htask : s.ring.task = some c) (hdone : layersDone s = true)
    (hrel : s.ring.finalRelease = some rel) (hends : (boundEcs s c).any (endWaits s) = false)
    (hpast : rel.toNat + s.ring.margin.toNat ≤ s.time.toNat) (hlayers : (s.ctxAt c.val).layers = []) :
    (settleCaravan s).ring.task = none := by
  have hreached := reached_ctAdd hpast
  simp only [settleCaravan, htask, hdone, hends, hrel, Option.any_some, hreached, hlayers]
  exact dropCaravan_task_self (foldl_reportEnd_task _ _ (.inl rfl))

/-! ### Sending on one port (R278, R280) -/

theorem elapsed_iff (s : State) (o : Option CTime) (n : Nat) : elapsed s o n = true ↔ Elapsed s o n := by
  cases o <;> simp [elapsed, Elapsed]

/-- An UP port is among the UP ports of its group. -/
theorem upPorts_ne_nil {s : State} {n : Nat} (h : (s.portAt n).state = 3) : upPorts s (portGroup n) ≠ [] := by
  have hmem : n ∈ upPorts s (portGroup n) := by
    simp only [upPorts, groupPorts, portGroup, List.mem_filter, List.mem_map, List.mem_range, h, beq_self_eq_true, and_true]
    exact ⟨n % 8, by omega, by omega⟩
  exact List.ne_nil_of_mem hmem

theorem mem_queueMessage (p : Port) (m : OutMessage) : m ∈ (queueMessage p m).transmit := by
  simp [queueMessage, placeMessage]

/-- The credits of the message's VC suffice on the group. -/
def CreditsFor (s : State) (g : Nat) (m : Message) : Prop := msgFlits m ≤ tabGet 0 (s.groupAt g).credits (creditVc m.vc.val)

/-- A message that an UP port sends with credits stands in its transmit queue under some SEQ. Only ports and groups change, and no group
forgets a message that it has taken. -/
theorem sendOnPort_of_credits {s : State} {n : Nat} {m : Message} (hup : (s.portAt n).state = 3) (hc : CreditsFor s (portGroup n) m) :
    ∃ t, sendOnPort s n m = some t ∧ t = { s with groups := t.groups, ports := t.ports } ∧
      (t.groupAt (portGroup n)).seen = (s.groupAt (portGroup n)).seen ∧
      ∃ x ∈ (t.portAt n).transmit, ∃ q, x.msg = { m with seq := q } := by
  have htake : ¬tabGet 0 (s.groupAt (portGroup n)).credits (creditVc m.vc.val) < msgFlits m := Nat.not_lt.mpr hc
  simp only [sendOnPort, if_neg (upPorts_ne_nil hup), takeMsgCredits, if_neg htake, Option.map_some, Option.some.injEq, exists_eq_left']
  refine ⟨rfl, ?_, _, by rw [portAt_setPort]; exact mem_queueMessage _ _, _, rfl⟩
  simp [State.groupAt, State.setGroup, State.setPort, numberMessage]

theorem sendOnPort_of_no_credits {s : State} {n : Nat} {m : Message} (hup : (s.portAt n).state = 3) (hc : ¬CreditsFor s (portGroup n) m) :
    sendOnPort s n m = none := by
  have htake : tabGet 0 (s.groupAt (portGroup n)).credits (creditVc m.vc.val) < msgFlits m := Nat.lt_of_not_le hc
  simp only [sendOnPort, if_neg (upPorts_ne_nil hup), takeMsgCredits, if_pos htake, Option.map_none]

/-- A message of one flit on VC 1 needs one credit of VC 1. -/
theorem creditsFor_newMessage (s u : State) (g type : Nat) (toPartner : Bool) (dst : BitVec 16) (step : Nat) (head : List Nat) :
    CreditsFor s g (newMessage u type 1 toPartner dst step head) ↔ 1 ≤ tabGet 0 (s.groupAt g).credits 1 := Iff.rfl

/-! ### Taking a message (R275, R277, R278, R280) -/

/-- A message that arrives is taken, and its flits are freed: of the state its group alone changes, whose credits stay. -/
theorem deliverFreed_of_arrives {s : State} {g type : Nat} {m : Message} (h : Arrives s g type m) :
    ∃ groups, deliverFreed s g type m = some { s with groups } ∧ Taken { s with groups } g m ∧
      (State.groupAt { s with groups } g).credits = (s.groupAt g).credits := by
  obtain ⟨-, htype, hgood, hring, hnew⟩ := h
  have hvc : ¬((decide (2 ≤ m.vc.val) && decide (m.vc.val ≤ 4)) = true ∧ (!ringCarries s) = true) := by
    simp only [Bool.and_eq_true, decide_eq_true_eq, Bool.not_eq_true', not_and, and_imp]
    intro h2 h4
    simp [ringCarries, hring h2 h4]
  have htake : ¬(m.type.toNat ≠ type ∨ isBadMessage g m = true ∨
      ((decide (2 ≤ m.vc.val) && decide (m.vc.val ≤ 4)) = true ∧ (!ringCarries s) = true) ∨
      (s.groupAt g).seen.contains (m.src, m.vc, m.seq) = true) := by
    rintro (h | h | h | h)
    · exact h htype
    · simp [hgood] at h
    · exact hvc h
    · exact hnew (by simpa using h)
  simp only [deliverFreed, deliver, if_neg htake, Option.map_some]
  refine ⟨_, rfl, ?_, ?_⟩
  · simp [Taken, State.groupAt, State.setGroup]
  · simp [State.groupAt, State.setGroup]

/-! ### TIME_EXCHANGE and TIME_REQ (R292, R293) -/

theorem timePort_of_up {s : State} (hn : s.sync.parent.toNat < 24) (hup : (s.portAt s.sync.parent.toNat).state = 3) :
    timePort s = some s.sync.parent.toNat := by
  simp [timePort, hup, Nat.not_le.mpr hn]

/-- The state with an exchange begun: no exchange is in the air before its TIME_REQ passes the serializer. -/
def exchangeBegun (s : State) : State :=
  { s with sync := { s.sync with pending := none, requestAt := some s.time, port := s.sync.parent } }

section exchange

variable {s : State} (hclk : coreClocks s = true) (hm : s.sync.master = false) (hn : s.sync.parent.toNat < 24)
  (hup : (s.portAt s.sync.parent.toNat).state = 3)
include hclk hn hup

theorem execTimeExchange_of_not_elapsed (he : ¬Elapsed s s.sync.requestAt 1048576) : execTimeExchange s = .next s := by
  rw [← elapsed_iff, Bool.not_eq_true] at he
  simp [execTimeExchange, whileClocked_of_clock hclk, timePort_of_up hn hup, he]

include hm

/-- Once its interval has passed, the exchange begins with a TIME_REQ; one that finds no credits is counted instead. -/
theorem execTimeExchange_of_elapsed (he : Elapsed s s.sync.requestAt 1048576) :
    execTimeExchange s = .next ((sendOnPort (exchangeBegun s) s.sync.parent.toNat
      (newMessage (exchangeBegun s) 0x08 1 true 0 0 [0, 0])).getD (bumpLink s (portGroup s.sync.parent.toNat))) := by
  rw [← elapsed_iff] at he
  have hgo : ¬(s.sync.master = true ∨ (!elapsed s s.sync.requestAt 1048576) = true) := by simp [hm, he]
  simp only [execTimeExchange, whileClocked_of_clock hclk, timePort_of_up hn hup, if_neg hgo, BitVec.ofNat_toNat, BitVec.setWidth_eq]
  rw [← exchangeBegun]
  cases sendOnPort (exchangeBegun s) s.sync.parent.toNat (newMessage (exchangeBegun s) 0x08 1 true 0 0 [0, 0]) <;> rfl

theorem timeExchange_sends (he : Elapsed s s.sync.requestAt 1048576)
    (hc : 1 ≤ tabGet 0 (s.groupAt (portGroup s.sync.parent.toNat)).credits 1) :
    ∃ t, Gives .timeExchange s t ∧ t.sync = (exchangeBegun s).sync ∧
      ∃ x ∈ (t.portAt s.sync.parent.toNat).transmit, x.msg.type = 0x08 ∧ x.msg.vc = 1 := by
  obtain ⟨t, hsend, hframe, -, x, hx, q, hq⟩ := sendOnPort_of_credits (s := exchangeBegun s)
    (m := newMessage (exchangeBegun s) 0x08 1 true 0 0 [0, 0]) hup ((creditsFor_newMessage ..).mpr hc)
  refine ⟨t, ?_, by rw [hframe], x, hx, by rw [hq]; rfl, by rw [hq]; rfl⟩
  rw [Gives, exec_timeExchange, execTimeExchange_of_elapsed hclk hm hn hup he, hsend, Option.getD_some]

theorem timeExchange_held_back (he : Elapsed s s.sync.requestAt 1048576)
    (hc : tabGet 0 (s.groupAt (portGroup s.sync.parent.toNat)).credits 1 = 0) :
    Gives .timeExchange s (bumpLink s (portGroup s.sync.parent.toNat)) := by
  have hno : ¬CreditsFor (exchangeBegun s) (portGroup s.sync.parent.toNat) (newMessage (exchangeBegun s) 0x08 1 true 0 0 [0, 0]) := by
    rw [creditsFor_newMessage]
    exact Nat.not_le.mpr (Nat.lt_one_iff.mpr hc)
  rw [Gives, exec_timeExchange, execTimeExchange_of_elapsed hclk hm hn hup he,
    sendOnPort_of_no_credits (s := exchangeBegun s) hup hno, Option.getD_none]

end exchange

/-- R293: a TIME_REQ takes its t1 as it passes the serializer. -/
theorem stampRequest_head {x : OutMessage} (h : x.msg.type = 0x08) (t1 : Nat) : (stampRequest t1 x).msg.head = [t1, 0] := by
  simp [stampRequest, h]

/-- A TIME_REQ that an UP port receives is answered on that port, with the credits for it (log 36). -/
theorem timeReq_answers {s : State} {port : Fin 24} {m : Message} (t2 t3 : Nat) (h : Arrives s (portGroup port.val) 0x08 m)
    (hup : (s.portAt port.val).state = 3) (hc : 1 ≤ tabGet 0 (s.groupAt (portGroup port.val)).credits 1) :
    ∃ t, Gives (.timeReq port m t2 t3) s t ∧ Taken t (portGroup port.val) m ∧
      ∃ x ∈ (t.portAt port.val).transmit, ∃ q, x.msg =
        { newMessage s 0x09 1 m.toPartner m.src 0 [m.head.getD 0 0, t2 - m.head.getD 1 0, t3, 0] with seq := q } := by
  obtain ⟨groups, hdeliver, htaken, hcredits⟩ := deliverFreed_of_arrives h
  obtain ⟨t, hsend, -, hseen, hx⟩ := sendOnPort_of_credits (s := { s with groups })
    (m := newMessage s 0x09 1 m.toPartner m.src 0 [m.head.getD 0 0, t2 - m.head.getD 1 0, t3, 0]) hup
    ((creditsFor_newMessage ..).mpr (by rw [hcredits]; exact hc))
  refine ⟨t, ?_, by rw [Taken, hseen]; exact htaken, hx⟩
  simp only [Gives, exec_timeReq, execTimeReq, whileClocked_of_clock h.1, hup, hdeliver, hsend, ne_eq, not_true_eq_false, if_false]

/-! ### TIME_RESP (R293, R294) -/

/-- What TimeSync holds after every offset: the exchange is over, HOLD ends, and OFFSET reads it. -/
def OffsetTaken (y z : TimeSync) (f : Int) : Prop :=
  z.pending = y.pending ∧ z.exchanges = y.exchanges ∧ z.hold = false ∧ z.offset = BitVec.ofInt 16 f

theorem logWrite_frame (s : State) (r : LogRec) :
    logWrite s r = { s with
      free := (logWrite s r).free, pcie := (logWrite s r).pcie, log := (logWrite s r).log, logHead := (logWrite s r).logHead } := by
  obtain ⟨-, hs⟩ := withDetail_spec s r
  unfold logWrite
  dsimp only
  rw [raiseVector_frame, hs]

theorem logLink_frame (s : State) (kind unit port : Nat) (code : Code) :
    logLink s kind unit port code = { s with
      free := (logLink s kind unit port code).free, pcie := (logLink s kind unit port code).pcie
      log := (logLink s kind unit port code).log, logHead := (logLink s kind unit port code).logHead } := by
  unfold logLink
  dsimp only
  rw [logWrite_frame]
  rfl

/-- A record whose DETAIL the manual gives, of six bytes, is written as it is. -/
theorem withDetail_of_six {s : State} {r : LogRec} (h : r.detail.length = 6) : withDetail s r = (r, s) := by
  have hne : r.detail ≠ [] := fun e => by simp [e] at h
  simp [withDetail, h, hne]

/-- The last record of the log after a write. -/
theorem logWrite_getLast? (s : State) (r : LogRec) :
    (logWrite s r).log.getLast? = some (withDetail s r).1 ∧ (logWrite s r).logHead = s.logHead + 1 := by
  unfold logWrite
  dsimp only
  rw [raiseVector_frame]
  refine ⟨?_, rfl⟩
  rw [List.getLast?_drop, if_neg (by simp), List.getLast?_concat]

theorem logLink_logs (s : State) (kind unit port : Nat) (code : Code) : Logs s (logLink s kind unit port code) code kind unit := by
  obtain ⟨hlast, hhead⟩ := logWrite_getLast? (drawFree s).2 _
  refine ⟨hhead, _, hlast, ?_⟩
  rw [withDetail_of_six (by simp)]
  exact ⟨rfl, rfl, rfl⟩

/-- TimeSync with an offset that diverges. -/
def offsetDiverged (s : State) (f : Int) : TimeSync :=
  { s.sync with
    hold := false, lastExchange := s.time, offset := BitVec.ofInt 16 f, diverged := true, synced := false, goodRun := 0, slew := 0 }

theorem applyOffset_of_divergence {s : State} {f : Int} (he : s.sync.everSynced = true) (hf : 16000 < f.natAbs) :
    applyOffset s f = logLink { s with sync := offsetDiverged s f } 0 0 (8 * portGroup s.sync.port.toNat) 0x3006 := by
  rw [applyOffset, if_pos ⟨he, hf⟩]
  rfl

/-- The exchanges in a row with an offset below 2 ct, with this one. -/
def goodRunWith (y : TimeSync) (f : Int) : Nat := if f.natAbs < 32 then y.goodRun + 1 else 0

/-- TimeSync with an offset that does not diverge: eight good exchanges in a row give SYNCED. -/
def offsetKept (s : State) (f : Int) : TimeSync :=
  let good := decide (8 ≤ goodRunWith s.sync f)
  { s.sync with
    hold := false, lastExchange := s.time, offset := BitVec.ofInt 16 f, goodRun := goodRunWith s.sync f
    synced := s.sync.synced || good, everSynced := s.sync.everSynced || good, diverged := s.sync.diverged && !good }

theorem applyOffset_of_everSynced {s : State} {f : Int} (he : s.sync.everSynced = true) (hf : f.natAbs ≤ 16000) :
    applyOffset s f = { s with sync := { offsetKept s f with slew := f } } := by
  rw [applyOffset, if_neg (fun h => Nat.not_lt.mpr hf h.2), if_pos he]
  rfl

theorem applyOffset_of_not_everSynced {s : State} {f : Int} (he : s.sync.everSynced = false) :
    applyOffset s f = stepClock { s with sync := offsetKept s f } ((ownClock s : Int) + f).toNat := by
  rw [applyOffset, if_neg (by simp [he]), if_neg (by simp [he])]
  rfl

theorem applyOffset_taken (s : State) (f : Int) : OffsetTaken s.sync (applyOffset s f).sync f := by
  cases he : s.sync.everSynced with
  | false => rw [applyOffset_of_not_everSynced he]; exact ⟨rfl, rfl, rfl, rfl⟩
  | true =>
    by_cases hf : 16000 < f.natAbs
    · rw [applyOffset_of_divergence he hf, logLink_frame]; exact ⟨rfl, rfl, rfl, rfl⟩
    · rw [applyOffset_of_everSynced he (Nat.not_lt.mp hf)]; exact ⟨rfl, rfl, rfl, rfl⟩

/-- R294, R296: an offset above 1,000 ct of a clock that has been SYNCED leaves the counter and the status DIVERGED, and is logged. -/
theorem applyOffset_diverges {s : State} {f : Int} (he : s.sync.everSynced = true) (hf : 16000 < f.natAbs) :
    let t := applyOffset s f
    t.sync.diverged = true ∧ t.sync.synced = false ∧ t.time = s.time ∧ Logs s t 0x3006 0 0 := by
  intro t
  have ht : t = _ := applyOffset_of_divergence he hf
  have hlog : Logs s t 0x3006 0 0 := by
    rw [ht]
    exact logLink_logs { s with sync := offsetDiverged s f } 0 0 _ 0x3006
  refine ⟨?_, ?_, ?_, hlog⟩ <;> rw [ht, logLink_frame] <;> rfl

/-- R294: a smaller offset of such a clock is slewed. -/
theorem applyOffset_slews {s : State} {f : Int} (he : s.sync.everSynced = true) (hf : f.natAbs ≤ 16000) :
    (applyOffset s f).sync.slew = f ∧ (applyOffset s f).time = s.time := by
  rw [applyOffset_of_everSynced he hf]
  exact ⟨rfl, rfl⟩

/-- R294: the counter of a clock that has not been SYNCED steps by the offset. -/
theorem applyOffset_steps {s : State} {f : Int} (he : s.sync.everSynced = false) (hpos : 0 ≤ (ownClock s : Int) + f) :
    let t := applyOffset s f
    t.time = BitVec.ofInt 64 (((ownClock s : Int) + f) / 16) ∧ (t.sync.sub : Int) = ((ownClock s : Int) + f) % 16 ∧
      (t.sync.synced = true ↔ s.sync.synced = true ∨ (7 ≤ s.sync.goodRun ∧ f.natAbs < 32)) := by
  intro t
  obtain ⟨v, hv⟩ := Int.eq_ofNat_of_zero_le hpos
  have ht : t = stepClock { s with sync := offsetKept s f } v := by
    rw [← Int.toNat_natCast v, ← hv]
    exact applyOffset_of_not_everSynced he
  have hsynced : t.sync.synced = (s.sync.synced || decide (8 ≤ goodRunWith s.sync f)) := by rw [ht]; rfl
  rw [hv]
  refine ⟨by rw [ht]; exact (BitVec.ofInt_natCast 64 (v / 16)).symm, by rw [ht]; rfl, ?_⟩
  rw [hsynced, Bool.or_eq_true, decide_eq_true_eq, goodRunWith]
  refine or_congr_right ?_
  split <;> omega

/-- The offset and the delay of an exchange, in 1/16 ct (R293). -/
def exchangeOf (m : Message) (t1 t4 : Nat) : Int × Int :=
  let up : Int := (m.head.getD 1 0 : Int) - t1
  let down : Int := (t4 : Int) - m.head.getD 2 0 - m.head.getD 3 0
  ((up - down) / 2, (up + down) / 2)

/-- The state with the exchange in the air over and the last exchanges `l`. -/
def exchangeEnded (s : State) (l : List (Int × Int)) : State := { s with sync := { s.sync with pending := none, exchanges := l } }

/-- The response to the exchange in the air applies the filtered offset of the last eight exchanges. -/
theorem timeResp_applies {s : State} {port : Fin 24} {m : Message} {t1 : Nat} (t4 : Nat) (h : Arrives s (portGroup port.val) 0x09 m)
    (hm : s.sync.master = false) (hp : s.sync.pending = some t1) (ht : m.head.getD 0 0 = t1) :
    let l := exchangeOf m t1 t4 :: s.sync.exchanges.take 7
    ∃ groups, Gives (.timeResp port m t4) s (applyOffset (exchangeEnded { s with groups } l) (filteredOffset l)) := by
  intro l
  obtain ⟨groups, hdeliver, -, -⟩ := deliverFreed_of_arrives h
  have hgo : ¬(s.sync.master = true ∨ m.head.getD 0 0 ≠ t1) := by rw [hm, ht]; simp
  refine ⟨groups, ?_⟩
  simp only [Gives, exec_timeResp, execTimeResp, whileClocked_of_clock h.1, hp, if_neg hgo, hdeliver, onMessage]
  rfl

/-! ### The loss of exchanges (R296) -/

theorem timeHold_holds {s : State} (hm : s.sync.master = false) (hh : s.sync.hold = false)
    (hlast : s.sync.lastExchange.toNat + 4 * 1048576 ≤ s.time.toNat) :
    Gives .timeHold s { s with sync := { s.sync with hold := true, holdSince := s.time } } := by
  have hgo : (!s.sync.master && !s.sync.hold && decide (s.sync.lastExchange.toNat + 4 * 1048576 ≤ s.time.toNat)) = true := by
    simp [hm, hh, hlast]
  rw [Gives, exec_timeHold, execTimeHold, hgo, whenEnabled_true]

theorem syncLoss_unsyncs {s : State} (hh : s.sync.hold = true) (hsince : s.sync.holdSince.toNat + 1000000000 ≤ s.time.toNat) :
    Gives .syncLoss s { s with sync := { s.sync with synced := false, goodRun := 0 } } := by
  have hgo : (s.sync.hold && decide (s.sync.holdSince.toNat + 1000000000 ≤ s.time.toNat)) = true := by simp [hh, hsince]
  rw [Gives, exec_syncLoss, execSyncLoss, hgo, whenEnabled_true]

/-- Settles O27: a tick of the clock in 1/16 ct, the end of a task that is over, and one lemma for each row of the exchange. -/
theorem caravanTime : Obligations.CaravanTime := by
  intro s port m t1 t2 t3 t4 y due clock part up down exchanges f n
  refine ⟨fun hnil hrun => ⟨fun hstop => ?stopped, fun hgo hidle => ?ticks, fun hgo hdue hslew hsub hmax => ?slews⟩,
    fun c rel hnil hstop htask hdone hrel hends hpast hlayers => ?ends,
    fun hclk hm hn hup => ⟨fun he => ?early, fun he hc => ?sends, fun he hc => ?held⟩,
    fun harr hup hc => ?answers, fun harr hm hp ht => ?offset, timeHold_holds, syncLoss_unsyncs⟩
  case stopped => rw [step_of_pending_nil hnil, passTime_of_running hrun, tick_of_stopped hstop]
  case ticks =>
    have hnot : slewDue s = false := by
      rw [← Bool.not_eq_true, slewDue_iff]
      exact fun h => hidle.elim (fun hd => hd h.1) h.2
    rw [step_of_pending_nil hnil, passTime_of_running hrun, tick_of_not_slewDue hgo hnot]
  case slews =>
    have hslewDue := (slewDue_iff s).mpr ⟨hdue, hslew⟩
    obtain ⟨hsub', hclock⟩ := tick_clock_of_slewDue hgo hslewDue hsub hmax
    exact ⟨tick s, by rw [step_of_pending_nil hnil, passTime_of_running hrun], tick_of_slewDue hgo hslewDue, hsub', hclock⟩
  case ends =>
    refine ⟨passTime s, step_of_pending_nil hnil, ?_⟩
    rw [passTime, tick_of_stopped hstop]
    exact settleCaravan_of_over htask hdone hrel hends hpast hlayers
  case early => rw [Gives, exec_timeExchange, execTimeExchange_of_not_elapsed hclk hn hup he]
  case sends =>
    obtain ⟨t, hgives, hsync, x, hx, htype, hvc⟩ := timeExchange_sends hclk hm hn hup he hc
    exact ⟨t, hgives, hsync, x, hx, htype, hvc, stampRequest_head htype clock⟩
  case held => exact timeExchange_held_back hclk hm hn hup he hc
  case answers =>
    obtain ⟨t, hgives, htaken, x, hx, q, hq⟩ := timeReq_answers t2 t3 harr hup hc
    exact ⟨t, hgives, htaken, x, hx, by rw [hq]; rfl, by rw [hq]; rfl, by rw [hq]; rfl, by rw [hq]; rfl⟩
  case offset =>
    obtain ⟨groups, hgives⟩ := timeResp_applies t4 harr hm hp ht
    let u := exchangeEnded { s with groups } exchanges
    obtain ⟨hpending, hexch, hhold, hoffset⟩ := applyOffset_taken u f
    exact ⟨_, hgives, hpending, hexch, hhold, hoffset, fun hever hf => applyOffset_diverges (s := u) hever hf,
      fun hever hf => applyOffset_slews (s := u) hever hf, fun hever hpos => applyOffset_steps (s := u) hever hpos⟩

end Sys2Proof.Machine
end

section
/-!
Who reaches a register, and where a write of the register space goes (02_package R47; 11_steward R336; 13_host R391, R396; 14_power R413,
R417).
-/

namespace Sys2Proof.Machine

open Sys2Proof.Claims

/-! ### A register row and its requester -/

/-- A row for a requester that reaches its register makes the full write of the map. -/
theorem rowWrite_of_reaches {s : State} {who : Agent} {off : Nat} (h : Reaches s who off) (v : Reg32) :
    rowWrite s who off v true = .next (fullRegWrite s who off v) := by
  obtain ⟨hcore, hclk, hoff, hreach, hhost⟩ := h
  exact rowWrite_reached s who off v hhost hcore hreach hclk hoff

theorem rowWrite_of_d3hot {s : State} {who : Agent} (h : hostInD3hot s who = true) (off : Nat) (v : Reg32) :
    rowWrite s who off v true = .next (unsupported s false) := by
  simp [rowWrite, agentWrite, h]

/-- R413: the row of a register whose clock stands does nothing yet. -/
theorem rowWrite_of_unclocked {s : State} {who : Agent} {off : Nat} (h : regClocked s off = false) (hd3 : hostInD3hot s who = false)
    (v : Reg32) : rowWrite s who off v true = .next s := by
  simp [rowWrite, agentWrite, h, hd3]

/-- R417: in Off the management core alone is served. -/
theorem rowWrite_of_off {s : State} {who : Agent} (h : s.power.state = 4) (hwho : who ≠ .management) (hd3 : hostInD3hot s who = false)
    (off : Nat) (v : Reg32) : rowWrite s who off v true = .next s := by
  simp [rowWrite, agentWrite, h, hd3, hwho]

/-- A row of the hub window, for a requester that reaches its register. -/
theorem rowWrite_hub_of_reaches {s : State} {who : Agent} {o : Nat} (h : Reaches s who o) (ho : o < 0xC00000) (v : Reg32) :
    rowWrite s who o v true = .next (hubRegWrite s who o v) := by
  rw [rowWrite_of_reaches h, fullRegWrite_map _ _ _ _ (dbgCtlAt_hub o (by omega)), regWrite_hub _ _ _ _ ho]

/-- A row of a die window outside the EC blocks and the slots, for a requester that reaches its register. -/
theorem rowWrite_die_of_reaches {s : State} {who : Agent} {d o : Nat} (h : Reaches s who (dieOffset d o)) (hd : d < 4) (hlo : 0x800000 ≤ o)
    (hhi : o < 0xA00000) (v : Reg32) : rowWrite s who (dieOffset d o) v true = .next (dieRegWrite s who d o v) := by
  rw [rowWrite_of_reaches h, fullRegWrite_map _ _ _ _ (dbgCtlAt_die d o (by omega) hlo), regWrite_die _ _ _ _ _ hd hlo (by omega) (.inl hhi)]

/-! ### REGISTER_WRITE -/

theorem exec_registerWrite {off : Nat} (h4 : off % 4 = 0) (hlt : off < 0x5000000) (s : State) (who : Agent) (v : Reg32) :
    exec (.registerWrite who off v) s = rowWrite s who off v true := by
  change rowWrite s who off v (off % 4 == 0 && decide (off < 0x5000000)) = _
  rw [h4, decide_eq_true hlt]
  rfl

/-- Below the windows, above the partitions' registers in their page, and past the links' counters, the hub window holds no register. -/
theorem hubRegWrite_unmapped (s : State) (who : Agent) {o : Nat} (v : Reg32)
    (h : o < 0x40000 ∨ (0x200 ≤ o % 0x10000 ∧ o / 0x10000 = 5) ∨ 0x300000 ≤ o) : hubRegWrite s who o v = s := by
  unfold hubRegWrite
  dsimp only
  obtain h | h | h := h
  · rw [if_pos h]
  · iterate 5 rw [if_neg (by omega)]
    rw [if_pos (by omega)]
  · repeat rw [if_neg (by omega)]

theorem regWrite_hub_unmapped (s : State) (who : Agent) {o : Nat} (v : Reg32)
    (h : o < 0x40000 ∨ (0x200 ≤ o % 0x10000 ∧ o / 0x10000 = 5) ∨ 0x300000 ≤ o ∧ o < 0x1000000) : regWrite s who o v = s := by
  by_cases ho : o < 0xC00000
  · rw [regWrite_hub _ _ _ _ ho, hubRegWrite_unmapped _ _ _ (by omega)]
  · unfold regWrite
    dsimp only
    rw [if_pos (by omega)]

/-- Past the walkers' counters no register of a die window takes a write. -/
theorem regWrite_die_unmapped (s : State) (who : Agent) {d o : Nat} (v : Reg32) (hd : d < 4) (hlo : 0xB00000 ≤ o) (hhi : o < 0x1000000) :
    regWrite s who (dieOffset d o) v = s := by
  by_cases ho : o < 0xC00000
  · rw [regWrite_die _ _ _ _ _ hd (by omega) ho (.inr (by omega))]
    unfold dieRegWrite
    repeat rw [if_neg (by omega)]
  · obtain ⟨-, hoff⟩ := dieOffset_window d o hhi
    unfold regWrite
    dsimp only
    rw [hoff, if_pos (.inr (by omega))]

/-- Settles O14: the requester's way to the register decides whether the row is the write of the map, and the map ignores an offset that
no register holds. -/
theorem registerWriteReaches : Obligations.RegisterWriteReaches := by
  intro s who off v h4 hlt
  unfold Gives
  rw [exec_registerWrite h4 hlt]
  refine ⟨fun hno hd3 => rowWrite_unreached s who off v true hno hd3, fun hd3 => rowWrite_of_d3hot hd3 off v,
    fun hclk hd3 => rowWrite_of_unclocked hclk hd3 v, fun hoff hwho hd3 => rowWrite_of_off hoff hwho hd3 off v,
    fun hr hun => ?hub, ?die, fun hr => rowWrite_of_reaches hr v⟩
  case hub =>
    rw [rowWrite_of_reaches hr, fullRegWrite_map _ _ _ _ (dbgCtlAt_hub off (by omega)), regWrite_hub_unmapped _ _ _ hun]
  case die =>
    rintro hr d o hd hlo hhi rfl
    rw [rowWrite_of_reaches hr, fullRegWrite_map _ _ _ _ (dbgCtlAt_die d o hhi (by omega)), regWrite_die_unmapped _ _ _ hd hlo hhi]

end Sys2Proof.Machine
end

section
/-!
The sparse tables as lists, and what lines that leave a die cache, or are written back, change of the state (02_package R49, R51).
-/

namespace Sys2Proof.Machine

/-! ### Tables as lists -/

section tables

variable {α : Type} {t : Tab α} {k : Nat} {v : α} {e : Nat × α}

theorem mem_tabErase : e ∈ tabErase t k ↔ e ∈ t ∧ e.1 ≠ k := by
  simp [tabErase]

theorem mem_tabSet_self (t : Tab α) (k : Nat) (v : α) : (k, v) ∈ tabSet t k v := by
  induction t with
  | nil => simp [tabSet]
  | cons x r ih =>
    simp only [tabSet]
    split
    · simp
    · split <;> simp [ih]

theorem mem_of_mem_tabSet (h : e ∈ tabSet t k v) : e = (k, v) ∨ e ∈ t := by
  induction t with
  | nil => simpa [tabSet] using h
  | cons x r ih =>
    simp only [tabSet] at h
    split at h
    · exact (List.mem_cons.mp h).imp id (List.mem_cons_of_mem _)
    · split at h
      · exact List.mem_cons.mp h
      · obtain rfl | h := List.mem_cons.mp h
        · exact .inr List.mem_cons_self
        · exact (ih h).imp id (List.mem_cons_of_mem _)

/-- A look-up by search finds the entry last written. -/
theorem find?_tabSet (t : Tab α) (k : Nat) (v : α) : (tabSet t k v).find? (fun e => e.1 == k) = some (k, v) := by
  induction t with
  | nil => simp [tabSet]
  | cons x r ih =>
    obtain ⟨j, w⟩ := x
    by_cases hj : j = k
    · simp [tabSet, hj]
    · by_cases hk : k < j
      · simp [tabSet, hj, hk]
      · simp [tabSet, hj, hk, ih]

/-- The entries of a table stand in rising order, one for each number. -/
def Rising (t : Tab α) : Prop := t.Pairwise fun a b => a.1 < b.1

theorem Rising.tabErase (h : Rising t) : Rising (tabErase t k) := h.filter _

theorem Rising.tabSet (h : Rising t) : Rising (tabSet t k v) := by
  induction t with
  | nil => exact List.pairwise_singleton _ _
  | cons x r ih =>
    obtain ⟨j, w⟩ := x
    obtain ⟨hfirst, hrest⟩ := List.pairwise_cons.mp h
    simp only [Machine.tabSet]
    split
    next hj => exact List.pairwise_cons.mpr ⟨by simpa [← hj] using hfirst, hrest⟩
    next hj =>
      split
      next hk =>
        refine List.pairwise_cons.mpr ⟨fun e he => ?_, h⟩
        obtain rfl | he := List.mem_cons.mp he
        · exact hk
        · exact Nat.lt_trans hk (hfirst e he)
      next hk =>
        refine List.pairwise_cons.mpr ⟨fun e he => ?_, ih hrest⟩
        obtain rfl | he := mem_of_mem_tabSet he
        · dsimp only; omega
        · exact hfirst e he

/-- A rising table has one entry for each number. -/
theorem Rising.eq_of_fst_eq {a b : Nat × α} (h : Rising t) (ha : a ∈ t) (hb : b ∈ t) (hab : a.1 = b.1) : a = b := by
  have hsymm : Std.Symm fun a b : Nat × α => a.1 ≠ b.1 := ⟨fun _ _ => Ne.symm⟩
  have hne : t.Pairwise fun a b => a.1 ≠ b.1 := h.imp Nat.ne_of_lt
  by_contra h
  exact hne.forall ha hb h hab

/-- In a rising table a written number holds the new value alone. -/
theorem Rising.eq_of_mem_tabSet (h : Rising t) (he : e ∈ Machine.tabSet t k v) (hk : e.1 = k) : e = (k, v) :=
  h.tabSet.eq_of_fst_eq he (mem_tabSet_self t k v) hk

end tables

/-! ### Folds of steps -/

/-- What a fold of steps establishes for each element: its own step brings it about, every step keeps it, under an invariant. -/
theorem foldl_establishes {σ ι : Type} {f : σ → ι → σ} {I : σ → Prop} {P : σ → ι → Prop} (hI : ∀ t i, I t → I (f t i))
    (hself : ∀ t i, I t → P (f t i) i) (hkeep : ∀ t i j, P t j → P (f t i) j) (l : List ι) :
    ∀ t, I t → ∀ j ∈ l, P (l.foldl f t) j := by
  induction l with
  | nil => simp
  | cons i r ih =>
    intro t ht j hj
    obtain rfl | hj := List.mem_cons.mp hj
    · exact r.foldlRecOn f (motive := fun u => P u j) (hself t j ht) fun u hu i _ => hkeep u i j hu
    · exact ih _ (hI t i ht) j hj

/-! ### Lines that leave a die cache or are written back -/

/-- Of the state only the dies and the stored errors of the tiers may have changed. -/
def OnlyCaches (s t : State) : Prop := ∃ dies bad, t = { s with dies, bad }

theorem OnlyCaches.refl (s : State) : OnlyCaches s s := ⟨_, _, rfl⟩

theorem OnlyCaches.trans {s t u : State} (h : OnlyCaches s t) (h' : OnlyCaches t u) : OnlyCaches s u := by
  obtain ⟨_, _, rfl⟩ := h
  obtain ⟨_, _, rfl⟩ := h'
  exact ⟨_, _, rfl⟩

theorem OnlyCaches.mem_eq {s t : State} (h : OnlyCaches s t) : t.mem = s.mem := by
  obtain ⟨_, _, rfl⟩ := h
  rfl

theorem OnlyCaches.log_eq {s t : State} (h : OnlyCaches s t) : t.log = s.log := by
  obtain ⟨_, _, rfl⟩ := h
  rfl

theorem OnlyCaches.modDie (s : State) (d : Nat) (f : Die → Die) : OnlyCaches s (s.modDie d f) := ⟨_, _, rfl⟩

theorem OnlyCaches.foldl {ι : Type} {f : State → ι → State} (hf : ∀ t i, OnlyCaches t (f t i)) (l : List ι) (s : State) :
    OnlyCaches s (l.foldl f s) :=
  l.foldlRecOn f (motive := OnlyCaches s) (.refl s) fun _ ht _ _ => ht.trans (hf _ _)

theorem dropLine_onlyCaches (s : State) (d : Nat) (x : Nat × CacheLine) : OnlyCaches s (dropLine s d x) := by
  unfold dropLine
  dsimp only
  split <;> exact ⟨_, _, rfl⟩

theorem cleanLine_onlyCaches (s : State) (d : Nat) (x : Nat × CacheLine) : OnlyCaches s (cleanLine s d x) := by
  unfold cleanLine
  split
  · exact ⟨_, _, rfl⟩
  · exact .refl s

theorem writeBack_dieAt (s : State) (d line : Nat) :
    (writeBack s d line).dieAt d = { s.dieAt d with cacheCounters := bumpBy (s.dieAt d).cacheCounters 2 1 } := by
  simp only [writeBack, bumpCache, dieAt_modDie]
  rfl

@[simp] theorem dropLine_cache (s : State) (d : Nat) (x : Nat × CacheLine) :
    ((dropLine s d x).dieAt d).cache = tabErase (s.dieAt d).cache x.1 := by
  unfold dropLine
  dsimp only
  split <;> simp [writeBack_dieAt]

/-- A line that leaves the cache of one die leaves every other die alone. -/
theorem dropLine_dieAt_ne (s : State) {d i : Nat} (x : Nat × CacheLine) (h : i ≠ d) : (dropLine s d x).dieAt i = s.dieAt i := by
  unfold dropLine
  dsimp only
  rw [dieAt_modDie_ne _ _ _ _ h]
  split
  · rw [writeBack, bumpCache, dieAt_modDie_ne _ _ _ _ h]
    rfl
  · rfl

theorem cleanLine_cache (s : State) (d : Nat) (x : Nat × CacheLine) :
    ((cleanLine s d x).dieAt d).cache =
      if x.2.dirty then tabSet (s.dieAt d).cache x.1 { x.2 with dirty := false } else (s.dieAt d).cache := by
  unfold cleanLine
  split <;> simp [writeBack_dieAt]

end Sys2Proof.Machine
end

section
/-!
The registers of the windows, the way masks, the partitions, the dragoman's limits and the BAR2 windows (02_package R37, R38, R40, R41, R51;
12_partitions R362 to R364; 08_dragoman R236; 13_host R397).
-/

namespace Sys2Proof.Machine

open Sys2Proof.Claims

/-! ### Windows (R37, R38, R40, R41) -/

theorem moveTier_frame (s : State) (old new : Tab Window) (base size limit : Nat) :
    ∃ mem bad, moveTier s old new base size limit = { s with mem, bad } := by
  unfold moveTier
  split <;> exact ⟨_, _, rfl⟩

theorem setWindow_frame_hbm (s : State) (w : Nat) (x : Window) :
    s.setWindow false w x = { s with
      hbmWindows := (s.setWindow false w x).hbmWindows, mem := (s.setWindow false w x).mem, bad := (s.setWindow false w x).bad } := by
  obtain ⟨mem, bad, h⟩ := moveTier_frame s s.hbmWindows (tabSet s.hbmWindows w x) 0 hbmWindowSize 0xC000000000
  simp only [State.setWindow, Bool.false_eq_true, if_false, h]

theorem setWindow_frame_lpd (s : State) (w : Nat) (x : Window) :
    s.setWindow true w x = { s with
      lpdWindows := (s.setWindow true w x).lpdWindows, mem := (s.setWindow true w x).mem, bad := (s.setWindow true w x).bad } := by
  obtain ⟨mem, bad, h⟩ := moveTier_frame s s.lpdWindows (tabSet s.lpdWindows w x) lpdBase lpdWindowSize 0x130000000000
  simp only [State.setWindow, if_true, h]

theorem window_setWindow (s : State) (lpd : Bool) (w i : Nat) (x : Window) :
    (s.setWindow lpd w x).window lpd i = if i = w then x else s.window lpd i := by
  cases lpd <;> exact tabGet_tabSet _ _ _ _ _

@[simp] theorem setWindow_dies (s : State) (lpd : Bool) (w : Nat) (x : Window) : (s.setWindow lpd w x).dies = s.dies := by
  cases lpd
  · rw [setWindow_frame_hbm]
  · rw [setWindow_frame_lpd]

theorem drainPosted_of_nil {s : State} (h : s.posted = []) : drainPosted s = s := by
  unfold drainPosted
  rw [h, List.foldl_nil, ← h]

/-- Where neither an access nor a dirty line holds the window, and no access waits, the register takes the window that its value describes. -/
theorem windowRegWrite_of_free {s : State} {lpd : Bool} {w : Nat} (hbusy : windowBusy s lpd w = false) (hposted : s.posted = []) (v : Reg32) :
    windowRegWrite s lpd w v = s.setWindow lpd w (windowOfValue lpd (s.window lpd w) v) := by
  have hwrite : windowWrite s lpd w v = s.setWindow lpd w (windowOfValue lpd (s.window lpd w) v) := by
    simp [windowWrite, hbusy]
  have hkept : (s.setWindow lpd w (windowOfValue lpd (s.window lpd w) v)).posted = [] := by
    cases lpd
    · rw [setWindow_frame_hbm]; exact hposted
    · rw [setWindow_frame_lpd]; exact hposted
  rw [windowRegWrite, hwrite, drainPosted_of_nil hkept]

/-- BASE of an LPDDR5X window has four bits. -/
theorem windowOfValue_lpd_setBase (old : Window) (v : Reg32) : (windowOfValue true old v).setBase.toNat = v.toNat % 16 := by
  have hmask : (v.extractLsb' 0 5 &&& 0x0F).toNat = (v.extractLsb' 0 5).toNat % 2 ^ 4 := by
    rw [BitVec.toNat_and, ← Nat.and_two_pow_sub_one_eq_mod]
    rfl
  rw [windowOfValue, if_pos rfl, hmask, BitVec.extractLsb'_toNat]
  omega

theorem hubRegWrite_hbmWindow {who : Agent} (h : isHubSide who = true) (s : State) {w : Nat} (hw : w < 32) (v : Reg32) :
    hubRegWrite s who (0x40000 + 4 * w) v = windowRegWrite s false w v := by
  unfold hubRegWrite
  dsimp only
  rw [if_neg (by omega), if_pos (by omega), if_pos h, show (0x40000 + 4 * w - 0x40000) / 4 = w by omega]

theorem hubRegWrite_lpdWindow {who : Agent} (h : isHubSide who = true) (s : State) {w : Nat} (hw : w < 16) (v : Reg32) :
    hubRegWrite s who (0x40080 + 4 * w) v = windowRegWrite s true w v := by
  unfold hubRegWrite
  dsimp only
  rw [if_neg (by omega), if_neg (by omega), if_pos (by omega), if_pos h, show (0x40080 + 4 * w - 0x40080) / 4 = w by omega]

/-! ### Way masks and limits (02_package R51; 08_dragoman R236) -/

theorem onlyDie_modDie (s : State) (d : Nat) (f : Die → Die) : OnlyDie s (s.modDie d f) d :=
  ⟨rfl, fun i hi => dieAt_modDie_ne s d i f hi⟩

theorem wayMask_of_dieAt {s : State} {d : Nat} {x : Die} (h : s.dieAt d = x) (p : Nat) : wayMask s d p = tabGet 0 x.wayMasks p := by
  rw [wayMask, h]

/-- A mask that only adds ways is taken at once. -/
theorem wayMaskWrite_of_adds {s : State} {d p : Nat} {v : Reg32} (h : wayMask s d p &&& ~~~v.extractLsb' 0 16 = 0) :
    wayMaskWrite s d p v = s.modDie d fun x =>
      { x with wayMasks := tabSet x.wayMasks p (v.extractLsb' 0 16), wayPending := tabErase x.wayPending p } := if_pos h

/-- A mask that removes ways waits. -/
theorem wayMaskWrite_of_removes {s : State} {d p : Nat} {v : Reg32} (h : wayMask s d p &&& ~~~v.extractLsb' 0 16 ≠ 0) :
    wayMaskWrite s d p v = s.modDie d fun x => { x with wayPending := tabSet x.wayPending p (v.extractLsb' 0 16) } := if_neg h

theorem dieRegWrite_wayMask {who : Agent} (h : isHubSide who = true) (s : State) (d : Nat) {p : Nat} (hp : p < 8) (v : Reg32) :
    dieRegWrite s who d (0x800000 + 4 * p) v = wayMaskWrite s d p v := by
  unfold dieRegWrite
  rw [if_pos (by omega), if_pos h, show (0x800000 + 4 * p - 0x800000) / 4 = p by omega]

theorem dieRegWrite_limit {who : Agent} (h : isHubSide who = true) (s : State) (d : Nat) {p : Nat} (hp : p < 8) (v : Reg32) :
    dieRegWrite s who d (0x900100 + 4 * p) v = limitWrite s d p v := by
  unfold dieRegWrite
  rw [if_neg (by omega), if_neg (by omega), if_pos (by omega), if_pos h, show (0x900100 + 4 * p - 0x900100) / 4 = p by omega]

/-- Hub firmware is on the hub's side. -/
theorem isHubSide_of_isFirmware {s : State} {who : Agent} (h : isFirmware s who = true) : isHubSide who = true := by
  cases who with
  | steward st => exact (Bool.and_eq_true_iff.mp h).1
  | management => rfl
  | loader => rfl
  | bar0 f => cases h

/-! ### Partitions (12_partitions R362 to R364) -/

theorem hubRegWrite_partCtl {s : State} {who : Agent} (h : isFirmware s who = true) {p : Nat} (hp : p < 8) (v : Reg32) :
    hubRegWrite s who (0x50000 + 0x40 * p) v = partCtlWrite s p v := by
  unfold hubRegWrite
  dsimp only
  iterate 4 rw [if_neg (by omega)]
  rw [if_pos (by omega), if_pos h, show (0x50000 + 0x40 * p - 0x50000) / 0x40 = p by omega, show (0x50000 + 0x40 * p) % 0x40 = 0 by omega]
  rfl

/-- ACTIVE := 1 of an inactive partition takes RING, and ACTIVE where R363 is met; else it is counted. -/
theorem partCtlWrite_of_inactive {s : State} {p : Nat} {v : Reg32} {x : Partition} (hx : s.partAt p = x) (hact : x.active = false)
    (hv : v.getLsbD 31 = true) :
    partCtlWrite s p v = if activationOk s p { x with ring := v.getLsbD 30 } then s.setPart p { x with ring := v.getLsbD 30, active := true }
      else bumpHub (s.setPart p { x with ring := v.getLsbD 30 }) cntPartCfgErr := by
  subst hx
  unfold partCtlWrite
  extract_lets x y
  rw [if_neg (show ¬x.active = true by rw [hact]; exact Bool.false_ne_true), if_neg (by rw [hv]; exact Bool.false_ne_true)]

/-- ACTIVE := 0 of an active partition without contexts, with its RING bit as it was. -/
theorem partCtlWrite_of_active {s : State} {p : Nat} {v : Reg32} {x : Partition} (hx : s.partAt p = x) (hact : x.active = true)
    (hv : v.getLsbD 31 = false) (hring : v.getLsbD 30 = x.ring) (hctx : partContexts s p = []) :
    partCtlWrite s p v = (clearPartition s p).setPart p { x with active := false } := by
  subst hx
  unfold partCtlWrite
  extract_lets x t
  have ht : t = s := if_neg (not_not.mpr hring)
  rw [if_pos hact, ht, if_pos ⟨by rw [hv]; rfl, hctx⟩]

theorem dropLab_onlyCaches (s : State) (p : Nat) : OnlyCaches s (dropLab s p) :=
  .foldl (fun t d => .modDie t d _) _ s

theorem clearPartition_onlyCaches (s : State) (p : Nat) : OnlyCaches s (clearPartition s p) := by
  refine OnlyCaches.trans (.foldl (fun t d => ?_) _ s) (dropLab_onlyCaches _ p)
  exact .foldl (fun u l => dropLine_onlyCaches u d l) _ t

/-- The look-aside buffer of a die holds no entry of the partition. -/
def NoLabOf (p : Nat) (t : State) (d : Nat) : Prop := ∀ l ∈ (t.dieAt d).lab, l.part ≠ p

theorem dropLab_noLabOf (s : State) (p : Nat) {d : Nat} (hd : d < 4) : NoLabOf p (dropLab s p) d := by
  have hself : ∀ (t : State) (i : Nat), NoLabOf p (t.modDie i fun x => { x with lab := x.lab.filter fun l => l.part != p }) i := by
    intro t i
    simp [NoLabOf]
  refine foldl_establishes (I := fun _ => True) (fun _ _ _ => trivial) (fun t i _ => hself t i) (fun t i j hj => ?_) _ s trivial d
    (List.mem_range.mpr hd)
  obtain rfl | hne := eq_or_ne j i
  · exact hself t j
  · simpa only [NoLabOf, dieAt_modDie_ne _ _ _ _ hne] using hj

theorem clearPartition_noLabOf (s : State) (p : Nat) {d : Nat} (hd : d < 4) : NoLabOf p (clearPartition s p) d := dropLab_noLabOf _ p hd

/-! ### BAR2 windows (13_host R397) -/

theorem hubRegWrite_bar2Window {s : State} {who : Agent} (h : isFirmware s who = true) {f : Nat} (hf : f < 9) (v : Reg32) :
    hubRegWrite s who (0x70100 + 4 * f) v = { s with pcie := { s.pcie with bar2 := tabSet s.pcie.bar2 f (v.extractLsb' 0 12) } } := by
  have hwin : bar2WinWrite s who f v = { s with pcie := { s.pcie with bar2 := tabSet s.pcie.bar2 f (v.extractLsb' 0 12) } } := by
    cases who with
    | bar0 g => cases h
    | steward st => simp [bar2WinWrite, h]
    | management => simp [bar2WinWrite, h]
    | loader => simp [bar2WinWrite, h]
  unfold hubRegWrite
  dsimp only
  iterate 8 rw [if_neg (by omega)]
  rw [if_pos (by omega), show (0x70100 + 4 * f - 0x70100) / 4 = f by omega, hwin]

/-! ### The rows -/

theorem exec_hbmWindowWrite (who : Agent) (w : Fin 32) (v : Reg32) (s : State) :
    exec (.hbmWindowWrite who w v) s = rowWrite s who (0x40000 + 4 * w.val) v true := rfl
theorem exec_lpdWindowWrite (who : Agent) (w : Fin 16) (v : Reg32) (s : State) :
    exec (.lpdWindowWrite who w v) s = rowWrite s who (0x40080 + 4 * w.val) v true := rfl
theorem exec_wayMaskWrite (who : Agent) (die : Fin 4) (p : Fin 8) (v : Reg32) (s : State) :
    exec (.wayMaskWrite who die p v) s = rowWrite s who (dieOffset die.val (0x800000 + 4 * p.val)) v true := rfl
theorem exec_contextLimitWrite (who : Agent) (die : Fin 4) (p : Fin 8) (v : Reg32) (s : State) :
    exec (.contextLimitWrite who die p v) s = rowWrite s who (dieOffset die.val (0x900100 + 4 * p.val)) v true := rfl
theorem exec_partitionActivate (who : Agent) (p : Fin 8) (v : Reg32) (s : State) :
    exec (.partitionActivate who p v) s = rowWrite s who (0x50000 + 0x40 * p.val) v (v.getLsbD 31) := rfl
theorem exec_partitionDeactivate (who : Agent) (p : Fin 8) (v : Reg32) (s : State) :
    exec (.partitionDeactivate who p v) s = rowWrite s who (0x50000 + 0x40 * p.val) v (!v.getLsbD 31) := rfl
theorem exec_bar2WindowWrite (who : Agent) (f : Fin 9) (v : Reg32) (s : State) :
    exec (.bar2WindowWrite who f v) s = rowWrite s who (0x70100 + 4 * f.val) v true := rfl

section rows

variable {s : State} {who : Agent}

theorem hbmWindowWrite_gives (hside : isHubSide who = true) (hposted : s.posted = []) {w : Fin 32} (hr : Reaches s who (0x40000 + 4 * w.val))
    (hbusy : windowBusy s false w.val = false) (v : Reg32) :
    Gives (.hbmWindowWrite who w v) s (s.setWindow false w.val (windowOfValue false (s.window false w.val) v)) := by
  rw [Gives, exec_hbmWindowWrite, rowWrite_hub_of_reaches hr (by omega), hubRegWrite_hbmWindow hside s w.isLt,
    windowRegWrite_of_free hbusy hposted]

theorem lpdWindowWrite_gives (hside : isHubSide who = true) (hposted : s.posted = []) {w : Fin 16} (hr : Reaches s who (0x40080 + 4 * w.val))
    (hbusy : windowBusy s true w.val = false) (v : Reg32) :
    Gives (.lpdWindowWrite who w v) s (s.setWindow true w.val (windowOfValue true (s.window true w.val) v)) := by
  rw [Gives, exec_lpdWindowWrite, rowWrite_hub_of_reaches hr (by omega), hubRegWrite_lpdWindow hside s w.isLt,
    windowRegWrite_of_free hbusy hposted]

theorem wayMaskWrite_gives (hside : isHubSide who = true) {die : Fin 4} {p : Fin 8}
    (hr : Reaches s who (dieOffset die.val (0x800000 + 4 * p.val))) (v : Reg32) :
    Gives (.wayMaskWrite who die p v) s (wayMaskWrite s die.val p.val v) := by
  rw [Gives, exec_wayMaskWrite, rowWrite_die_of_reaches hr die.isLt (by omega) (by omega), dieRegWrite_wayMask hside s _ p.isLt]

theorem contextLimitWrite_gives (hfw : isFirmware s who = true) {die : Fin 4} {p : Fin 8}
    (hr : Reaches s who (dieOffset die.val (0x900100 + 4 * p.val))) (v : Reg32) :
    Gives (.contextLimitWrite who die p v) s (limitWrite s die.val p.val v) := by
  rw [Gives, exec_contextLimitWrite, rowWrite_die_of_reaches hr die.isLt (by omega) (by omega),
    dieRegWrite_limit (isHubSide_of_isFirmware hfw) s _ p.isLt]

theorem partitionActivate_gives (hfw : isFirmware s who = true) {p : Fin 8} (hr : Reaches s who (0x50000 + 0x40 * p.val)) {v : Reg32}
    (hv : v.getLsbD 31 = true) : Gives (.partitionActivate who p v) s (partCtlWrite s p.val v) := by
  rw [Gives, exec_partitionActivate, hv, rowWrite_hub_of_reaches hr (by omega), hubRegWrite_partCtl hfw p.isLt]

theorem partitionDeactivate_gives (hfw : isFirmware s who = true) {p : Fin 8} (hr : Reaches s who (0x50000 + 0x40 * p.val)) {v : Reg32}
    (hv : v.getLsbD 31 = false) : Gives (.partitionDeactivate who p v) s (partCtlWrite s p.val v) := by
  rw [Gives, exec_partitionDeactivate, hv, Bool.not_false, rowWrite_hub_of_reaches hr (by omega), hubRegWrite_partCtl hfw p.isLt]

theorem bar2WindowWrite_gives (hfw : isFirmware s who = true) {f : Fin 9} (hr : Reaches s who (0x70100 + 4 * f.val)) (v : Reg32) :
    Gives (.bar2WindowWrite who f v) s { s with pcie := { s.pcie with bar2 := tabSet s.pcie.bar2 f.val (v.extractLsb' 0 12) } } := by
  rw [Gives, exec_bar2WindowWrite, rowWrite_hub_of_reaches hr (by omega), hubRegWrite_bar2Window hfw f.isLt]

end rows

/-! ### The two halves of the obligation -/

theorem windowAndWayRegisterWrites : WindowAndWayRegisterWrites := by
  intro s who h l die p v hside hposted
  refine ⟨fun hr hbusy hwf => ?hbm, fun hr hbusy hwf => ?lpd, fun hr => ?ways⟩
  case hbm =>
    refine ⟨_, hbmWindowWrite_gives hside hposted hr hbusy v, setWindow_wf s _ _ _ hwf, ?_, fun i hi => ?_, setWindow_frame_hbm _ _ _⟩
    · rw [window_setWindow, if_pos rfl]
      exact ⟨Bool.and_true _, rfl, rfl, rfl⟩
    · rw [window_setWindow, if_neg hi]
  case lpd =>
    refine ⟨_, lpdWindowWrite_gives hside hposted hr hbusy v, setWindow_wf s _ _ _ hwf, ?_, fun i hi => ?_, setWindow_frame_lpd _ _ _⟩
    · rw [window_setWindow, if_pos rfl]
      exact ⟨rfl, rfl, rfl, windowOfValue_lpd_setBase _ _⟩
    · rw [window_setWindow, if_neg hi]
  case ways =>
    intro new old
    refine ⟨_, wayMaskWrite_gives hside hr v, ?_⟩
    by_cases hadds : old &&& ~~~new = 0
    · rw [wayMaskWrite_of_adds hadds]
      have hmask := wayMask_of_dieAt (dieAt_modDie s die.val fun x =>
        { x with wayMasks := tabSet x.wayMasks p.val new, wayPending := tabErase x.wayPending p.val })
      refine ⟨onlyDie_modDie _ _ _, fun _ => ?_, fun hne => absurd hadds hne, fun q hq => ?_⟩
      · rw [hmask, tabGet_tabSet_same]
      · rw [hmask, tabGet_tabSet_ne _ _ _ _ _ hq, wayMask]
    · rw [wayMaskWrite_of_removes hadds]
      have hmask := wayMask_of_dieAt (dieAt_modDie s die.val fun x => { x with wayPending := tabSet x.wayPending p.val new })
      exact ⟨onlyDie_modDie _ _ _, fun h => absurd h hadds, fun _ => ⟨hmask _, by rw [dieAt_modDie, tabGet_tabSet_same]⟩,
        fun q _ => hmask q⟩

theorem partitionRegisterWrites : PartitionRegisterWrites := by
  intro s who p die f v x y hfw
  refine ⟨fun hr hv hact hok => ?activates, fun hr hv hact hok => ?refuses, fun hr hv hring hact hctx => ?deactivates,
    fun hr => ?limit, fun hr => ⟨_, bar2WindowWrite_gives hfw hr v, rfl, fun g => tabGet_tabSet _ _ _ _ _⟩⟩
  case activates =>
    have hwrite := partCtlWrite_of_inactive (x := x) rfl hact hv
    rw [if_pos hok] at hwrite
    rw [← hwrite]
    exact partitionActivate_gives hfw hr hv
  case refuses =>
    have hwrite := partCtlWrite_of_inactive (x := x) rfl hact hv
    rw [if_neg (by rw [hok]; exact Bool.false_ne_true)] at hwrite
    refine ⟨_, partitionActivate_gives hfw hr hv, ?_⟩
    rw [hwrite]
    refine ⟨?_, (tabGet_bumpBy _ _ _ _).trans (if_pos rfl)⟩
    exact (congrArg Partition.active (partAt_setPart s p.val y)).trans hact
  case deactivates =>
    refine ⟨_, partitionDeactivate_gives hfw hr hv, ?_⟩
    rw [partCtlWrite_of_active (x := x) rfl hact hv hring hctx]
    have hlab := fun d (hd : d < 4) => clearPartition_noLabOf s p.val hd
    obtain ⟨dies, bad, hclear⟩ := clearPartition_onlyCaches s p.val
    rw [hclear] at hlab ⊢
    exact ⟨partAt_setPart _ _ _, fun q hq => partAt_setPart_ne _ _ _ _ hq, hlab, rfl⟩
  case limit =>
    refine ⟨_, contextLimitWrite_gives hfw hr v, onlyDie_modDie _ _ _, ?_, fun q => ?_⟩
    · rw [limitWrite, dieAt_modDie]
    · rw [limitWrite, dieAt_modDie]
      exact tabGet_tabSet _ _ _ _ _

/-- Settles O58: each row is the write of its register, whose own lemma above says what it does. -/
theorem memoryAndPartitionRegisters : Obligations.MemoryAndPartitionRegisters := ⟨windowAndWayRegisterWrites, partitionRegisterWrites⟩

end Sys2Proof.Machine
end

section
/-!
The home caches and the maintenance of the tiers (02_package R38, R42 to R44, R49 to R51): a hit, a miss, refresh, patrol scrub, the drain of a
window under HOLD, and a way mask that removes ways.
-/

namespace Sys2Proof.Machine

open Sys2Proof.Claims

/-! ### The rows -/

theorem exec_cacheAccess (k : CacheAccess) (s : State) : exec (.cacheAccess k) s = execCacheAccess k s := rfl
theorem exec_refresh (channel : Fin 384) (s : State) : exec (.refresh channel) s = execRefresh channel s := rfl
theorem exec_timingTracking (channel : Fin 384) (s : State) : exec (.timingTracking channel) s = execTimingTracking channel s := rfl
theorem exec_patrolScrub (arisen : Nat) (s : State) : exec (.patrolScrub arisen) s = execPatrolScrub arisen s := rfl
theorem exec_windowDrainComplete (lpd : Bool) (w : Fin 32) (s : State) :
    exec (.windowDrainComplete lpd w) s = execWindowDrainComplete lpd w s := rfl
theorem exec_wayMaskApply (die : Fin 4) (p : Fin 8) (s : State) : exec (.wayMaskApply die p) s = execWayMaskApply die p s := rfl

/-! ### The home of a line (R36, R40, R49) -/

/-- The walk of a tier takes whole lines of 128 bytes to one channel. -/
theorem channelWalk_channel_congr (t : Tab Window) {size a b : Nat} (hsize : size % 256 = 0) (h : a / 128 = b / 128) :
    (channelWalk t size a).1 = (channelWalk t size b).1 := by
  obtain ⟨n, rfl⟩ : 256 ∣ size := Nat.dvd_of_mod_eq_zero hsize
  have hwin : a / (256 * n) = b / (256 * n) := by
    rw [← Nat.div_div_eq_div_mul, ← Nat.div_div_eq_div_mul, show a / 256 = b / 256 by omega]
  have hgran : ∀ m : Nat, (a - m * (256 * n)) / 256 = (b - m * (256 * n)) / 256 := by
    intro m
    rw [show m * (256 * n) = 256 * (m * n) by ring, Nat.sub_mul_div, Nat.sub_mul_div, show a / 256 = b / 256 by omega]
  simp only [channelWalk, hwin, hgran]

/-- The channel of an address, tier by tier. -/
theorem channelOf_eq (s : State) (a : Nat) : channelOf s a =
    if a < 0xC000000000 then some (false, (channelWalk s.hbmWindows hbmWindowSize a).1)
    else if lpdBase ≤ a ∧ a < 0x130000000000 then some (true, (channelWalk s.lpdWindows lpdWindowSize (a - lpdBase)).1)
    else none := by
  unfold channelOf regionOf
  split_ifs <;> rfl

/-- The bytes of a line have one home die. -/
theorem homeDie_congr (s : State) {a b : Nat} (h : a / 128 = b / 128) : homeDie s a = homeDie s b := by
  have hhbm := channelWalk_channel_congr s.hbmWindows (size := hbmWindowSize) (by decide) h
  have hlpd := channelWalk_channel_congr s.lpdWindows (size := lpdWindowSize) (a := a - lpdBase) (b := b - lpdBase) (by decide)
    (by simp only [lpdBase]; omega)
  have hin : (a < 0xC000000000 ↔ b < 0xC000000000) ∧
      (lpdBase ≤ a ∧ a < 0x130000000000 ↔ lpdBase ≤ b ∧ b < 0x130000000000) := by
    simp only [lpdBase]
    omega
  have hchannel : channelOf s a = channelOf s b := by
    simp only [channelOf_eq, hhbm, hlpd, hin.1, hin.2]
  rw [homeDie, homeDie, hchannel]

/-! ### One look-up of a line (R42, R49, R51) -/

section lookup

variable {s t : State} {p : Option Nat} {d line : Nat}

theorem waysOf_of_wayMasks (h : (t.dieAt d).wayMasks = (s.dieAt d).wayMasks) (q : Nat) : waysOf t d q = waysOf s d q := by
  simp only [waysOf, wayMask, h]

theorem bumpCache_dieAt (s : State) (d i : Nat) :
    (bumpCache s d i).dieAt d = { s.dieAt d with cacheCounters := bumpBy (s.dieAt d).cacheCounters i 1 } := dieAt_modDie _ _ _

/-- The die after a hit: the line is the last used and the hit is counted. -/
theorem hit_dieAt (s : State) (d line : Nat) (l : CacheLine) (wr : Bool) :
    (bumpCache (touchLine s d line l wr) d 0).dieAt d = { s.dieAt d with
      cache := tabSet (s.dieAt d).cache line { l with dirty := l.dirty || wr, used := (s.dieAt d).cacheClock + 1 }
      cacheClock := (s.dieAt d).cacheClock + 1
      cacheCounters := bumpBy (s.dieAt d).cacheCounters 0 1 } := by
  rw [bumpCache_dieAt, touchLine, dieAt_modDie]

/-- A partition finds a line in its own ways alone. -/
theorem way_of_cacheFind {l : CacheLine} {q : Nat} (h : cacheFind s d (some q) line = some l) : (waysOf s d q).getLsbD l.way = true := by
  unfold cacheFind at h
  split at h
  · cases h
  · dsimp only at h
    split at h
    · cases h; assumption
    · cases h

/-- The line that a look-up found is found again once it is touched. -/
theorem cacheFind_of_hit {l : CacheLine} (hl : cacheFind s d p line = some l) (wr : Bool) :
    (cacheFind (bumpCache (touchLine s d line l wr) d 0) d p line).isSome = true := by
  have hdie := hit_dieAt s d line l wr
  have hways : ∀ q, waysOf (bumpCache (touchLine s d line l wr) d 0) d q = waysOf s d q := waysOf_of_wayMasks (by rw [hdie])
  simp only [cacheFind, hdie, hways, find?_tabSet]
  cases p with
  | none => rfl
  | some q =>
    dsimp only
    rw [if_pos (way_of_cacheFind hl)]
    rfl

theorem lineUse_of_found {l : CacheLine} (hhome : homeDie s (line * 128) = some d) (hl : cacheFind s d p line = some l) (na : Bool) (a n : Nat)
    (wr : Bool) : lineUse s p na line a n wr = (none, bumpCache (touchLine s d line l wr) d 0) := by
  simp only [lineUse, hhome, hl]

/-- Bytes stored into a line that its home cache holds change no stored error of the tier. -/
theorem storeAs_of_cached (hhome : homeDie t (line * 128) = some d) (hl : (cacheFind t d p line).isSome = true) {o : Nat} {bs : List Byte}
    (h : o + bs.length ≤ 128) : storeAs t p (line * 128 + o) bs = { t with mem := cellsWrite t.mem (line * 128 + o) bs } := by
  have hkept : ∀ e ∈ t.bad, (!(decide (line * 128 + o ≤ e.1 * 64) && decide (e.1 * 64 + 64 ≤ line * 128 + o + bs.length)) ||
      lineCached t p (e.1 * 64)) = true := by
    intro e _
    by_cases hcov : line * 128 + o ≤ e.1 * 64 ∧ e.1 * 64 + 64 ≤ line * 128 + o + bs.length
    · have hline : e.1 * 64 / 128 = line := by omega
      have hcached : lineCached t p (e.1 * 64) = true := by
        rw [lineCached, homeDie_congr t (b := line * 128) (by omega), hhome, hline]
        exact hl
      rw [hcached, Bool.or_true]
    · simp only [← Bool.decide_and, hcov, decide_false, Bool.not_false, Bool.true_or]
  rw [storeAs, List.filter_eq_self.mpr hkept]

/-- What an access that finds its line stores. -/
theorem stored_of_cached (hhome : homeDie t (line * 128) = some d) (hl : (cacheFind t d p line).isSome = true)
    {write : Option (Nat × List Byte)} (h : ∀ o bs, write = some (o, bs) → o + bs.length ≤ 128) :
    (write.elim t fun w => storeAs t p (line * 128 + w.1) w.2) =
      { t with mem := write.elim t.mem fun w => cellsWrite t.mem (line * 128 + w.1) w.2 } := by
  cases write with
  | none => rfl
  | some w => exact storeAs_of_cached hhome hl (h w.1 w.2 rfl)

/-! ### A miss that reads sound halves -/

theorem tierRead_of_sound {a : Nat} (h : tabGet 0 s.bad (lineOf a) = 0) : tierRead s a = (false, s) := by
  simp [tierRead, h]

theorem readHalves_of_sound {l : List Nat} (h : ∀ a ∈ l, tabGet 0 s.bad (lineOf a) = 0) : readHalves s l = (none, s) := by
  induction l with
  | nil => rfl
  | cons a r ih =>
    simp only [readHalves, tierRead_of_sound (h a List.mem_cons_self), Bool.false_eq_true, if_false]
    exact ih fun b hb => h b (List.mem_cons_of_mem _ hb)

theorem sound_of_mem_halvesRead (hlo : tabGet 0 s.bad (2 * line) = 0) (hhi : tabGet 0 s.bad (2 * line + 1) = 0) {a n : Nat} {wr fills : Bool} :
    ∀ h ∈ halvesRead line a n wr fills, tabGet 0 s.bad (lineOf h) = 0 := by
  intro h hmem
  have hhalf : h = line * 128 ∨ h = line * 128 + 64 := by
    have := List.mem_of_mem_filter hmem
    simpa using this
  obtain rfl | rfl := hhalf
  · rw [lineOf, show line * 128 / 64 = 2 * line by omega, hlo]
  · rw [lineOf, show (line * 128 + 64) / 64 = 2 * line + 1 by omega, hhi]

theorem fillWay_bumpCache (s : State) (d i q line : Nat) : fillWay (bumpCache s d i) d q line = fillWay s d q line := by
  have hdie := bumpCache_dieAt s d i
  have hways : waysOf (bumpCache s d i) d q = waysOf s d q := waysOf_of_wayMasks (by rw [hdie]) q
  simp only [fillWay, hdie, hways]

theorem fillLine_of_no_way {q : Nat} (h : fillWay s d q line = none) (dirty : Bool) : fillLine s d q line dirty = s := by
  simp only [fillLine, h]

theorem fillLine_of_way {q w : Nat} {victim : Option (Nat × CacheLine)} (h : fillWay s d q line = some (w, victim)) (dirty : Bool) :
    fillLine s d q line dirty = (victim.elim s (dropLine s d)).modDie d fun x => { x with
      cache := tabSet x.cache line { way := w, dirty, used := x.cacheClock + 1 }, cacheClock := x.cacheClock + 1 } := by
  cases victim <;> simp only [fillLine, h, Option.elim]

/-- A read of a partition fills wherever there is a way. -/
theorem missFills_of_read (s : State) (q d line : Nat) (na : Bool) :
    missFills s (some q) na false d line = (fillWay s d q line).isSome := by
  simp [missFills]

/-- A read that misses counts as a miss and, for a partition, fills the line. -/
theorem lineUse_of_missed (hhome : homeDie s (line * 128) = some d) (hmiss : cacheFind s d p line = none)
    (hlo : tabGet 0 s.bad (2 * line) = 0) (hhi : tabGet 0 s.bad (2 * line + 1) = 0) (na : Bool) (a n : Nat) :
    lineUse s p na line a n false = (none, p.elim (bumpCache s d 1) fun q => fillLine (bumpCache s d 1) d q line false) := by
  have hread : ∀ fills, readHalves (bumpCache s d 1) (halvesRead line a n false fills) = (none, bumpCache s d 1) := fun _ =>
    readHalves_of_sound (sound_of_mem_halvesRead (s := bumpCache s d 1) hlo hhi)
  have hsound : lineSound s line = true := by simp [lineSound, hlo, hhi]
  cases p with
  | none => simp only [lineUse, hhome, hmiss, hread, Option.elim]
  | some q =>
    simp only [lineUse, hhome, hmiss, hread, hsound, Bool.and_true, Option.elim, missFills_of_read]
    cases hway : fillWay s d q line with
    | none => rw [fillLine_of_no_way ((fillWay_bumpCache s d 1 q line).trans hway)]; rfl
    | some w => rfl

/-- A partition with a way has one for a fill: a free one, or that of a line to replace. -/
theorem fillWay_of_waysOf {q : Nat} (h : waysOf s d q ≠ 0) (line : Nat) :
    ∃ w victim, fillWay s d q line = some (w, victim) ∧ (waysOf s d q).getLsbD w = true := by
  unfold fillWay
  extract_lets ways inSet
  split
  next w hw =>
    have hfree := List.find?_some hw
    rw [Bool.and_eq_true] at hfree
    exact ⟨w, none, rfl, hfree.1⟩
  next hnone =>
    have hway : ∀ v ∈ inSet, ways.getLsbD v.2.way = true := fun v hv => (Bool.and_eq_true_iff.mp (List.mem_filter.mp hv).2).2
    clear_value inSet
    cases inSet with
    | nil =>
      refine absurd (BitVec.eq_of_getLsbD_eq fun i hi => ?_) h
      have hfull := List.find?_eq_none.mp hnone i (List.mem_range.mpr hi)
      simpa using hfull
    | cons l r =>
      have hmem : r.foldl olderLine l ∈ l :: r :=
        r.foldlRecOn olderLine (motive := (· ∈ l :: r)) List.mem_cons_self fun b hb a ha => by
          unfold olderLine
          split
          · exact List.mem_cons_of_mem _ ha
          · exact hb
      exact ⟨_, _, rfl, hway _ hmem⟩

theorem fillLine_onlyCaches (s : State) (d q line : Nat) (dirty : Bool) : OnlyCaches s (fillLine s d q line dirty) := by
  cases hway : fillWay s d q line with
  | none => rw [fillLine_of_no_way hway]; exact .refl s
  | some w =>
    obtain ⟨w, victim⟩ := w
    rw [fillLine_of_way hway]
    cases victim with
    | none => exact .modDie ..
    | some v => exact (dropLine_onlyCaches s d v).trans (.modDie ..)

/-- A line that leaves the cache counts at most as a write-back. -/
theorem dropLine_counter (s : State) (d : Nat) (x : Nat × CacheLine) {i : Nat} (h : i ≠ 2) :
    tabGet 0 ((dropLine s d x).dieAt d).cacheCounters i = tabGet 0 (s.dieAt d).cacheCounters i := by
  unfold dropLine
  dsimp only
  rw [dieAt_modDie]
  split
  · rw [writeBack_dieAt]
    simp only [tabGet_bumpBy, if_neg h]
  · rfl

theorem fillLine_counter (s : State) (d q line : Nat) (dirty : Bool) {i : Nat} (h : i ≠ 2) :
    tabGet 0 ((fillLine s d q line dirty).dieAt d).cacheCounters i = tabGet 0 (s.dieAt d).cacheCounters i := by
  cases hway : fillWay s d q line with
  | none => rw [fillLine_of_no_way hway]
  | some w =>
    obtain ⟨w, victim⟩ := w
    rw [fillLine_of_way hway, dieAt_modDie]
    cases victim with
    | none => rfl
    | some v => exact dropLine_counter s d v h

/-- A fill of a partition that has a way brings the line into one of its ways. -/
theorem fillLine_mem {q : Nat} (h : waysOf s d q ≠ 0) (line : Nat) (dirty : Bool) :
    ∃ l, (line, l) ∈ ((fillLine s d q line dirty).dieAt d).cache ∧ l.dirty = dirty ∧ (waysOf s d q).getLsbD l.way = true := by
  obtain ⟨w, victim, hway, hbit⟩ := fillWay_of_waysOf h line
  rw [fillLine_of_way hway, dieAt_modDie]
  exact ⟨_, mem_tabSet_self _ _ _, rfl, hbit⟩

end lookup

/-! ### CACHE_ACCESS (R38, R43, R49) -/

theorem lineArises_zero (s : State) (a : Nat) : lineArises s a 0 = s := rfl

/-- An access without arising errors whose look-up meets none stores its bytes, if it has any. -/
theorem accessLine_of_lineUse {s t : State} {k : CacheAccess} (hlo : k.arisenLow = 0) (hhi : k.arisenHigh = 0)
    (h : lineUse s (k.partition.map Fin.val) k.noAllocate (k.addr / 128) (accessRange k).1 (accessRange k).2 k.write.isSome = (none, t)) :
    accessLine s k = k.write.elim t fun w => storeAs t (k.partition.map Fin.val) (k.addr / 128 * 128 + w.1) w.2 := by
  simp only [accessLine, hlo, hhi, lineArises_zero, h]
  cases hw : k.write with
  | none => rfl
  | some w => simp only [accessRange, hw, Option.elim]

section access

variable {s : State} {k : CacheAccess} (hclk : coreClocks s = true)
include hclk

/-- R38: an access to a window under HOLD waits; outside a task nothing counts it. -/
theorem cacheAccess_waits (hwin : windowAt k.addr ≠ none) (hheld : windowHeld s k.addr = true) (htask : k.task = none) :
    Gives (.cacheAccess k) s s := by
  rw [Gives, exec_cacheAccess, execCacheAccess, whileClocked_of_clock hclk]
  extract_lets code
  rw [if_pos (by rw [hheld, Bool.and_true]; exact Option.isSome_iff_ne_none.mpr hwin), htask]

variable {d : Nat} (hcode : accessCode s (k.partition.map Fin.val) k.addr = 0) (hheld : windowHeld s k.addr = false)
  (hhome : homeDie s (k.addr / 128 * 128) = some d)
include hcode hheld hhome

theorem cacheAccess_gives : Gives (.cacheAccess k) s (accessLine s k) := by
  have hsome : (homeDie s k.addr).isSome = true := by
    rw [homeDie_congr s (b := k.addr / 128 * 128) (by omega), hhome]
    rfl
  rw [Gives, exec_cacheAccess, execCacheAccess, whileClocked_of_clock hclk]
  extract_lets code
  rw [if_neg (by rw [hheld, Bool.and_false]; exact Bool.false_ne_true), if_neg (not_not.mpr hcode), if_pos hsome]

variable (hlo : k.arisenLow = 0) (hhi : k.arisenHigh = 0)
include hlo hhi

/-- A hit: the line is touched in its home cache, and a write stores its bytes there. -/
theorem cacheAccess_hits {l : CacheLine} (hl : cacheFind s d (k.partition.map Fin.val) (k.addr / 128) = some l)
    (hwrite : ∀ o bs, k.write = some (o, bs) → o + bs.length ≤ 128) :
    let t := bumpCache (touchLine s d (k.addr / 128) l k.write.isSome) d 0
    Gives (.cacheAccess k) s
      { t with mem := k.write.elim t.mem fun w => cellsWrite t.mem (k.addr / 128 * 128 + w.1) w.2 } := by
  intro t
  rw [← stored_of_cached (t := t) (p := k.partition.map Fin.val) hhome (cacheFind_of_hit hl _) hwrite,
    ← accessLine_of_lineUse hlo hhi (lineUse_of_found hhome hl _ _ _ _)]
  exact cacheAccess_gives hclk hcode hheld hhome

/-- A read that misses, of a line without stored errors: a partition's look-up fills the line. -/
theorem cacheAccess_misses (hmiss : cacheFind s d (k.partition.map Fin.val) (k.addr / 128) = none) (hread : k.write = none)
    (hlow : tabGet 0 s.bad (2 * (k.addr / 128)) = 0) (hhigh : tabGet 0 s.bad (2 * (k.addr / 128) + 1) = 0) :
    Gives (.cacheAccess k) s
      (k.partition.elim (bumpCache s d 1) fun q => fillLine (bumpCache s d 1) d q.val (k.addr / 128) false) := by
  have huse := lineUse_of_missed hhome hmiss hlow hhigh k.noAllocate (accessRange k).1 (accessRange k).2
  have hline := accessLine_of_lineUse hlo hhi (by rw [hread]; exact huse)
  have hgives := cacheAccess_gives hclk hcode hheld hhome
  rw [hline, hread] at hgives
  cases hp : k.partition with
  | none => rw [hp] at hgives; exact hgives
  | some q => rw [hp] at hgives; exact hgives

end access

/-! ### Maintenance (R44) -/

theorem refresh_gives {s : State} {channel : Fin 384}
    (h : (if channel.val < 256 then s.power.hbmTrained else s.power.lpdTrained) = true ∧ s.power.selfRefresh = false) :
    Gives (.refresh channel) s { s with refreshes := s.refreshes + 1 } := by
  rw [Gives, exec_refresh, execRefresh, h.1, h.2, Bool.not_false, Bool.and_true, whenEnabled_true]

theorem timingTracking_gives {s : State} {channel : Fin 384}
    (h : (if channel.val < 256 then s.power.hbmTrained else s.power.lpdTrained) = true ∧ s.power.selfRefresh = false) :
    Gives (.timingTracking channel) s s := by
  rw [Gives, exec_timingTracking, execTimingTracking, h.1, h.2, Bool.not_false, Bool.and_true, whenEnabled_true]

/-- The patrol scrub reads the next line of the HBM3E tier; one that is uncorrectable is logged. -/
theorem patrolScrub_gives {s : State} (htrained : s.power.hbmTrained = true) (hawake : s.power.selfRefresh = false) {r : Bool × State}
    (hr : tierRead { s with scrub := (s.scrub + 1) % 0x300000000 } (s.scrub % 0x300000000 * 64) = r) :
    Gives (.patrolScrub 0) s (if r.1 then logLine r.2 0x4007 (s.scrub % 0x300000000 * 64) else r.2) := by
  subst hr
  rw [Gives, exec_patrolScrub, execPatrolScrub, htrained, hawake]
  rfl

theorem tierRead_of_uncorrectable {s : State} {a : Nat} (hlo : 2 ≤ tabGet 0 s.bad (lineOf a)) (hhi : tabGet 0 s.bad (lineOf a) ≤ 3) :
    tierRead s a = (true, s) := by
  unfold tierRead
  dsimp only
  rw [if_neg (by omega), if_neg (by omega), if_pos (by omega)]

theorem logLine_frame (s : State) (code : Code) (a : Nat) :
    logLine s code a = { s with
      free := (logLine s code a).free, pcie := (logLine s code a).pcie, log := (logLine s code a).log
      logHead := (logLine s code a).logHead } := by
  unfold logLine
  dsimp only
  rw [logWrite_frame]
  rfl

/-- A line's error is the last record of the log. -/
theorem logLine_getLast? (s : State) (code : Code) (a : Nat) :
    (logLine s code a).logHead = s.logHead + 1 ∧ ∃ r, (logLine s code a).log.getLast? = some r ∧ r.code = code := by
  unfold logLine
  dsimp only
  exact ⟨(logWrite_getLast? _ _).2, _, (logWrite_getLast? _ _).1, (withDetail_spec _ _).1⟩

/-! ### The drain of a window under HOLD (R38) -/

/-- No line in the cache of the die answers to `q`. -/
def NoLineOf (q : Nat × CacheLine → Bool) (t : State) (d : Nat) : Prop := ∀ l ∈ (t.dieAt d).cache, q l = false

/-- The lines of a die that answer to `q` leave its cache. -/
def dropWhere (q : Nat × CacheLine → Bool) (t : State) (d : Nat) : State := ((t.dieAt d).cache.filter q).foldl (fun u l => dropLine u d l) t

theorem dropWhere_onlyCaches (q : Nat × CacheLine → Bool) (t : State) (d : Nat) : OnlyCaches t (dropWhere q t d) :=
  .foldl (fun u l => dropLine_onlyCaches u d l) _ t

/-- A line that leaves a cache brings none into any. -/
theorem mem_cache_of_dropLine {s : State} {d i : Nat} {x l : Nat × CacheLine} (h : l ∈ ((dropLine s d x).dieAt i).cache) :
    l ∈ (s.dieAt i).cache := by
  obtain rfl | hne := eq_or_ne i d
  · rw [dropLine_cache] at h
    exact (mem_tabErase.mp h).1
  · rwa [dropLine_dieAt_ne s x hne] at h

theorem mem_cache_of_dropWhere {q : Nat × CacheLine → Bool} {s : State} {d i : Nat} {l : Nat × CacheLine}
    (h : l ∈ ((dropWhere q s d).dieAt i).cache) : l ∈ (s.dieAt i).cache :=
  List.foldlRecOn _ (fun u l => dropLine u d l) (motive := fun u => l ∈ (u.dieAt i).cache → l ∈ (s.dieAt i).cache) id
    (fun _ hu _ _ hl => hu (mem_cache_of_dropLine hl)) h

theorem dropWhere_noLineOf (q : Nat × CacheLine → Bool) (s : State) (d : Nat) : NoLineOf q (dropWhere q s d) d := by
  intro l hl
  by_contra hq
  have hin : l ∈ (s.dieAt d).cache.filter q := List.mem_filter.mpr ⟨mem_cache_of_dropWhere hl, by simpa using hq⟩
  refine foldl_establishes (I := fun _ => True) (P := fun u x => x ∉ (u.dieAt d).cache) (fun _ _ _ => trivial) (fun u x _ hx => ?_)
    (fun u x y hy hmem => hy (mem_cache_of_dropLine hmem)) _ s trivial l hin hl
  rw [dropLine_cache] at hx
  exact (mem_tabErase.mp hx).2 rfl

/-- Once every die has dropped its lines, none of the four holds one. -/
theorem foldl_dropWhere_noLineOf (q : Nat × CacheLine → Bool) (s : State) {d : Nat} (hd : d < 4) :
    NoLineOf q ((List.range 4).foldl (dropWhere q) s) d :=
  foldl_establishes (I := fun _ => True) (fun _ _ _ => trivial) (fun t i _ => dropWhere_noLineOf q t i)
    (fun _ _ _ hj l hl => hj l (mem_cache_of_dropWhere hl)) _ s trivial d (List.mem_range.mpr hd)

/-- The state in which the four caches have dropped the lines of a window. -/
def windowDropped (s : State) (lpd : Bool) (w : Nat) : State := (List.range 4).foldl (dropWhere fun l => lineInWindow lpd w l.1) s

theorem windowDropped_onlyCaches (s : State) (lpd : Bool) (w : Nat) : OnlyCaches s (windowDropped s lpd w) :=
  .foldl (fun t d => dropWhere_onlyCaches _ t d) _ s

theorem windowDrainComplete_eq {s : State} (hclk : coreClocks s = true) (lpd : Bool) (w : Fin 32) :
    exec (.windowDrainComplete lpd w) s =
      whenEnabled ((s.window lpd w.val).hold && !(s.window lpd w.val).drained && !windowOutstanding s lpd w.val) s
        ((windowDropped s lpd w.val).setWindow lpd w.val { s.window lpd w.val with drained := true }) := by
  rw [exec_windowDrainComplete, execWindowDrainComplete, whileClocked_of_clock hclk]
  rfl

theorem windowDrainComplete_waits {s : State} (hclk : coreClocks s = true) {lpd : Bool} {w : Fin 32}
    (hout : windowOutstanding s lpd w.val = true) : Gives (.windowDrainComplete lpd w) s s := by
  rw [Gives, windowDrainComplete_eq hclk, hout, Bool.not_true, Bool.and_false, whenEnabled_false]

theorem windowDrainComplete_gives {s : State} (hclk : coreClocks s = true) {lpd : Bool} {w : Fin 32} (hhold : (s.window lpd w.val).hold = true)
    (hdrained : (s.window lpd w.val).drained = false) (hout : windowOutstanding s lpd w.val = false) :
    Gives (.windowDrainComplete lpd w) s
      ((windowDropped s lpd w.val).setWindow lpd w.val { s.window lpd w.val with drained := true }) := by
  rw [Gives, windowDrainComplete_eq hclk, hhold, hdrained, hout, Bool.not_false, Bool.and_true, Bool.and_true, whenEnabled_true]

theorem windowDropped_noLine (s : State) (lpd : Bool) (w : Nat) {d : Nat} (hd : d < 4) :
    ∀ l ∈ ((windowDropped s lpd w).dieAt d).cache, windowAt (l.1 * 128) ≠ some (lpd, w) := by
  intro l hl
  have hno := foldl_dropWhere_noLineOf (fun l => lineInWindow lpd w l.1) s hd l hl
  simpa [lineInWindow] using hno

/-! ### Way masks that remove ways (R51) -/

/-- One line in a way that the mask loses: it is dropped from a way that the partition had, and written back in one that a lower-numbered
partition names. -/
def loseLine (had : BitVec 16) (d : Nat) (u : State) (l : Nat × CacheLine) : State :=
  if had.getLsbD l.2.way then dropLine u d l else cleanLine u d l

/-- The state in which the lines of the ways that a mask loses have been dropped or written back. -/
def waysLost (s : State) (d p : Nat) (new : BitVec 16) : State :=
  ((s.dieAt d).cache.filter fun l => (wayMask s d p &&& ~~~new).getLsbD l.2.way).foldl (loseLine (waysOf s d p) d) s

theorem applyWays_eq (s : State) (d p : Nat) (new : BitVec 16) : applyWays s d p new =
    (waysLost s d p new).modDie d fun x => { x with wayMasks := tabSet x.wayMasks p new, wayPending := tabErase x.wayPending p } := rfl

theorem wayMaskApply_gives {s : State} (hclk : coreClocks s = true) {die : Fin 4} {p : Fin 8} {e : Nat × BitVec 16}
    (he : (s.dieAt die.val).wayPending.find? (fun y => y.1 == p.val) = some e) :
    Gives (.wayMaskApply die p) s (applyWays s die.val p.val e.2) := by
  rw [Gives, exec_wayMaskApply, execWayMaskApply, whileClocked_of_clock hclk, he]

theorem loseLine_onlyCaches (had : BitVec 16) (d : Nat) (u : State) (l : Nat × CacheLine) : OnlyCaches u (loseLine had d u l) := by
  unfold loseLine
  split
  · exact dropLine_onlyCaches u d l
  · exact cleanLine_onlyCaches u d l

theorem waysLost_onlyCaches (s : State) (d p : Nat) (new : BitVec 16) : OnlyCaches s (waysLost s d p new) :=
  .foldl (fun u l => loseLine_onlyCaches _ d u l) _ s

theorem loseLine_cache (had : BitVec 16) (d : Nat) (u : State) (x : Nat × CacheLine) : ((loseLine had d u x).dieAt d).cache =
    if had.getLsbD x.2.way then tabErase (u.dieAt d).cache x.1
    else if x.2.dirty then tabSet (u.dieAt d).cache x.1 { x.2 with dirty := false } else (u.dieAt d).cache := by
  unfold loseLine
  split
  · exact dropLine_cache u d x
  · exact cleanLine_cache u d x

/-- A line of the cache after `loseLine` stood there before, or it is clean and in a way that the partition did not have. -/
theorem mem_cache_of_loseLine {had : BitVec 16} {d : Nat} {u : State} {x l : Nat × CacheLine} (h : l ∈ ((loseLine had d u x).dieAt d).cache) :
    l ∈ (u.dieAt d).cache ∨ (l.2.dirty = false ∧ had.getLsbD l.2.way = false) := by
  rw [loseLine_cache] at h
  split at h
  · exact .inl (mem_tabErase.mp h).1
  next hway =>
    split at h
    · obtain rfl | h := mem_of_mem_tabSet h
      · exact .inr ⟨rfl, by simpa using hway⟩
      · exact .inl h
    · exact .inl h

theorem loseLine_rising {had : BitVec 16} {d : Nat} {u : State} (h : Rising (u.dieAt d).cache) (x : Nat × CacheLine) :
    Rising ((loseLine had d u x).dieAt d).cache := by
  rw [loseLine_cache]
  split
  · exact h.tabErase
  · split
    · exact h.tabSet
    · exact h

/-- A partition's ways are ways of its mask. -/
theorem wayMask_of_waysOf {s : State} {d p i : Nat} (h : (waysOf s d p).getLsbD i = true) : (wayMask s d p).getLsbD i = true := by
  refine List.foldlRecOn (List.range p) (fun m q => m &&& ~~~(wayMask s d q))
    (motive := fun m => m.getLsbD i = true → (wayMask s d p).getLsbD i = true) id (fun m hm q _ hi => hm ?_) h
  rw [BitVec.getLsbD_and, Bool.and_eq_true] at hi
  exact hi.1

/-- A kind of line that its own step takes out of the cache, and that is dirty or in a way that the partition had, so that no step brings it
in: in the lost ways none of the kind is left. -/
theorem not_mem_waysLost {s : State} {d p : Nat} {new : BitVec 16} {I : State → Prop} {bad : Nat × CacheLine → Prop}
    (hI : ∀ u x, I u → I (loseLine (waysOf s d p) d u x)) (hs : I s)
    (hself : ∀ u x, I u → bad x → x ∉ ((loseLine (waysOf s d p) d u x).dieAt d).cache)
    (hkeep : ∀ x : Nat × CacheLine, bad x → x.2.dirty = true ∨ (waysOf s d p).getLsbD x.2.way = true) {l : Nat × CacheLine} (hbad : bad l)
    (hlost : (wayMask s d p &&& ~~~new).getLsbD l.2.way = true) : l ∉ ((waysLost s d p new).dieAt d).cache := by
  have hstep : ∀ (u : State) (x y : Nat × CacheLine), (bad y → y ∉ (u.dieAt d).cache) →
      bad y → y ∉ ((loseLine (waysOf s d p) d u x).dieAt d).cache := by
    intro u x y hy hbady hmem
    obtain hmem | ⟨hclean, hnot⟩ := mem_cache_of_loseLine hmem
    · exact hy hbady hmem
    · obtain h | h := hkeep y hbady
      · rw [hclean] at h; cases h
      · rw [hnot] at h; cases h
  by_cases hin : l ∈ (s.dieAt d).cache
  · have hmem : l ∈ (s.dieAt d).cache.filter fun l => (wayMask s d p &&& ~~~new).getLsbD l.2.way := List.mem_filter.mpr ⟨hin, hlost⟩
    exact foldl_establishes (P := fun u x => bad x → x ∉ (u.dieAt d).cache) hI hself hstep _ s hs l hmem hbad
  · exact List.foldlRecOn _ (loseLine (waysOf s d p) d) (motive := fun u => bad l → l ∉ (u.dieAt d).cache) (fun _ => hin)
      (fun u hu x _ => hstep u x l hu) hbad

/-- No line is left in a way that the partition had and loses. -/
theorem waysLost_had (s : State) (d p : Nat) (new : BitVec 16) : ∀ l ∈ ((waysLost s d p new).dieAt d).cache,
    (waysOf s d p &&& ~~~new).getLsbD l.2.way = false := by
  intro l hl
  by_contra hway
  rw [Bool.not_eq_false, BitVec.getLsbD_and, Bool.and_eq_true] at hway
  obtain ⟨hhad, hnew⟩ := hway
  refine not_mem_waysLost (I := fun _ => True) (bad := fun x => (waysOf s d p).getLsbD x.2.way = true) (fun _ _ _ => trivial) trivial
    (fun u x _ hx hmem => ?_) (fun _ => .inr) hhad (by rw [BitVec.getLsbD_and, wayMask_of_waysOf hhad, hnew]; rfl) hl
  rw [loseLine_cache, if_pos hx] at hmem
  exact (mem_tabErase.mp hmem).2 rfl

/-- Every line that is left in a lost way has been written back. -/
theorem waysLost_clean {s : State} {d : Nat} (hrise : Rising (s.dieAt d).cache) (p : Nat) (new : BitVec 16) :
    ∀ l ∈ ((waysLost s d p new).dieAt d).cache, (wayMask s d p &&& ~~~new).getLsbD l.2.way = true → l.2.dirty = false := by
  intro l hl hlost
  by_contra hdirty
  refine not_mem_waysLost (I := fun u => Rising (u.dieAt d).cache) (bad := fun x => x.2.dirty = true) (fun u x hu => loseLine_rising hu x)
    hrise (fun u x hu hx hmem => ?_) (fun _ => .inl) (by simpa using hdirty) hlost hl
  rw [loseLine_cache, if_pos hx] at hmem
  split at hmem
  · exact (mem_tabErase.mp hmem).2 rfl
  · have hclean := congrArg (fun y => y.2.dirty) (hu.eq_of_mem_tabSet hmem rfl)
    exact Bool.false_ne_true (hclean.symm.trans hx)

/-- Settles O34: a look-up that finds its line and one that misses, the maintenance of the tiers, the drain of a window, and a way mask that
removes ways, each by the lemmas on the lines that it touches. -/
theorem cachesAndMaintenance : Obligations.CachesAndMaintenance := by
  intro s k channel arisen lpd w die p line base x trained scrubbed
  refine ⟨cacheAccess_waits, fun hclk hcode hlo hhi hwrite hheld d hhome => ⟨fun l hl => ?hit, fun hmiss hread hlow hhigh => ?miss⟩,
    fun htrained => ⟨refresh_gives htrained, timingTracking_gives htrained⟩,
    fun htrained hawake h0 => ?scrub, fun hclk hout => windowDrainComplete_waits hclk hout,
    fun hclk hhold hdrained hout hwf => ?drain, fun hclk e he => ?ways⟩
  case hit =>
    refine ⟨_, cacheAccess_hits hclk hcode hheld hhome hlo hhi hl hwrite, ?_⟩
    have hdie := hit_dieAt s d line l k.write.isSome
    refine ⟨(congrArg (fun y => tabGet 0 y.cacheCounters 0) hdie).trans ?_, rfl, rfl,
      (congrArg (fun y => tabGet { way := 0, dirty := false, used := 0 } y.cache line) hdie).trans (tabGet_tabSet_same _ _ _ _), ?_⟩
    · exact (tabGet_bumpBy _ _ _ _).trans (if_pos rfl)
    · cases k.write <;> rfl
  case miss =>
    refine ⟨_, cacheAccess_misses hclk hcode hheld hhome hlo hhi hmiss hread hlow hhigh, ?_⟩
    have hcount : tabGet 0 ((bumpCache s d 1).dieAt d).cacheCounters 1 = tabGet 0 (s.dieAt d).cacheCounters 1 + 1 := by
      rw [bumpCache_dieAt]
      exact (tabGet_bumpBy _ _ _ _).trans (if_pos rfl)
    cases k.partition with
    | none => exact ⟨rfl, rfl, hcount, fun q hq => by cases hq⟩
    | some q =>
      have hways : waysOf (bumpCache s d 1) d q.val = waysOf s d q.val := waysOf_of_wayMasks (by rw [bumpCache_dieAt]) _
      have hfilled := fillLine_counter (bumpCache s d 1) d q.val line false (i := 1) (by decide)
      have hframe := fillLine_onlyCaches (bumpCache s d 1) d q.val line false
      refine ⟨hframe.mem_eq, hframe.log_eq, hfilled.trans hcount, fun q' hq hne => ?_⟩
      cases hq
      rw [← hways] at hne ⊢
      exact fillLine_mem hne line false
  case scrub =>
    subst h0
    refine ⟨fun hsound => patrolScrub_gives htrained hawake (tierRead_of_sound hsound), fun htwo hthree => ?_⟩
    have hgives := patrolScrub_gives htrained hawake (tierRead_of_uncorrectable htwo hthree)
    rw [if_pos rfl] at hgives
    obtain ⟨hhead, hlast⟩ := logLine_getLast? { s with scrub := (s.scrub + 1) % 0x300000000 } 0x4007 scrubbed
    refine ⟨_, hgives, ?_, ?_, ?_, hhead, hlast⟩ <;> rw [logLine_frame]
  case drain =>
    have hdropped : Memory.wf (windowDropped s lpd w.val).mem = true := by rwa [(windowDropped_onlyCaches s lpd w.val).mem_eq]
    refine ⟨_, windowDrainComplete_gives hclk hhold hdrained hout, ?_, setWindow_wf _ _ _ _ hdropped, fun d hd l hl => ?_⟩
    · rw [window_setWindow, if_pos rfl]
    · rw [State.dieAt, setWindow_dies] at hl
      exact windowDropped_noLine s lpd w.val hd l hl
  case ways =>
    refine ⟨_, wayMaskApply_gives hclk he, ?_⟩
    rw [applyWays_eq]
    have hdie := dieAt_modDie (waysLost s die.val p.val e.2) die.val fun x =>
      { x with wayMasks := tabSet x.wayMasks p.val e.2, wayPending := tabErase x.wayPending p.val }
    refine ⟨?_, ?_, ?_, ?_, fun hrise => ?_⟩
    · rw [wayMask_of_dieAt hdie, tabGet_tabSet_same]
    · rw [modDie_mem, (waysLost_onlyCaches s die.val p.val e.2).mem_eq]
    · rw [hdie]
      exact fun y hy => (mem_tabErase.mp hy).2
    · rw [hdie]
      exact waysLost_had s die.val p.val e.2
    · rw [hdie]
      exact waysLost_clean hrise p.val e.2

end Sys2Proof.Machine
end

section
/-!
The values of numbers (03_arithmetic R54), and rounding to the nearest value of a format, ties to even (R63).
-/

namespace Sys2Proof.Machine

open Sys2Proof.Claims

/-! ### Values of numbers -/

theorem numVal_fin (n : Bool) (m : Nat) (e : Int) : numVal (.fin n m e) = (if n then -1 else 1) * (m : ℚ) * (2 : ℚ) ^ e := rfl

theorem isFinite_fin (n : Bool) (m : Nat) (e : Int) : isFinite (.fin n m e) := ⟨n, m, e, rfl⟩

theorem abs_numVal_fin (n : Bool) (m : Nat) (e : Int) : |numVal (.fin n m e)| = m * (2 : ℚ) ^ e := by
  cases n <;> simp [numVal_fin, abs_mul]

theorem numVal_fin_eq_zero {n : Bool} {m : Nat} {e : Int} : numVal (.fin n m e) = 0 ↔ m = 0 := by
  cases n <;> simp [numVal_fin, zpow_ne_zero]

/-- A nonzero number carries the sign of its value. -/
theorem numVal_fin_neg_iff {n : Bool} {m : Nat} {e : Int} (hm : m ≠ 0) : numVal (.fin n m e) < 0 ↔ n = true := by
  have hpos : (0 : ℚ) < m * (2 : ℚ) ^ e := by positivity
  cases n
  · simpa [numVal_fin] using hpos.le
  · simpa [numVal_fin] using hpos

theorem isFinite_numMul {x y : Num} (hx : isFinite x) (hy : isFinite y) : isFinite (numMul x y) := by
  obtain ⟨n, m, e, rfl⟩ := hx
  obtain ⟨n', m', e', rfl⟩ := hy
  exact isFinite_fin _ _ _

/-- The exact product has the product of the values. -/
theorem numVal_numMul {x y : Num} (hx : isFinite x) (hy : isFinite y) : numVal (numMul x y) = numVal x * numVal y := by
  obtain ⟨n, m, e, rfl⟩ := hx
  obtain ⟨n', m', e', rfl⟩ := hy
  have hpow : (2 : ℚ) ^ (e + e') = 2 ^ e * 2 ^ e' := zpow_add₀ two_ne_zero e e'
  cases n <;> cases n' <;> simp [numMul, numVal_fin, hpow] <;> ring

/-! ### An integer nearest to a rational, ties to even -/

/-- `r` is `y` rounded to an integer: nearest, ties to even. -/
def RoundsTo (y : ℚ) (r : Nat) : Prop := |y - r| ≤ 1 / 2 ∧ (|y - r| = 1 / 2 → r % 2 = 0)

theorem rneShift_rounds (m k : Nat) : RoundsTo (m / 2 ^ k) (rneShift m k) := by
  have hpos : (0 : ℚ) < 2 ^ k := by positivity
  obtain ⟨q, hq⟩ : ∃ q, m / 2 ^ k = q := ⟨_, rfl⟩
  obtain ⟨r, hr⟩ : ∃ r, m % 2 ^ k = r := ⟨_, rfl⟩
  have hm : m = 2 ^ k * q + r := by rw [← hq, ← hr, Nat.div_add_mod]
  have hlt : (r : ℚ) < 2 ^ k := by exact_mod_cast hr ▸ Nat.mod_lt m (Nat.two_pow_pos k)
  have hsplit : (m : ℚ) / 2 ^ k = q + r / 2 ^ k := by
    rw [hm]
    push_cast
    field_simp
  have hf0 : (0 : ℚ) ≤ r / 2 ^ k := by positivity
  have hf1 : (r : ℚ) / 2 ^ k < 1 := (div_lt_one hpos).mpr hlt
  have hup : 2 ^ k < 2 * r ↔ (1 : ℚ) / 2 < r / 2 ^ k := by
    rw [div_lt_div_iff₀ two_pos hpos, one_mul, mul_comm (r : ℚ)]
    exact_mod_cast Iff.rfl
  have htie : 2 * r = 2 ^ k ↔ (r : ℚ) / 2 ^ k = 1 / 2 := by
    rw [div_eq_div_iff hpos.ne' two_ne_zero, one_mul, mul_comm (r : ℚ)]
    exact_mod_cast Iff.rfl
  rw [hsplit, rneShift, hq, hr]
  generalize (r : ℚ) / 2 ^ k = f at hf0 hf1 hup htie
  by_cases hc : 2 * r > 2 ^ k ∨ (2 * r = 2 ^ k ∧ q % 2 = 1)
  · have hge : 1 / 2 ≤ f := hc.elim (fun h => (hup.mp h).le) fun h => (htie.mp h.1).ge
    have habs : |(q : ℚ) + f - (q + 1 : Nat)| = 1 - f := by
      rw [abs_of_nonpos] <;> push_cast <;> linarith
    rw [if_pos hc, RoundsTo, habs]
    refine ⟨by linarith, fun h => ?_⟩
    have hodd : q % 2 = 1 := hc.elim (fun h' => absurd (hup.mp h') (by linarith)) And.right
    omega
  · have habs : |(q : ℚ) + f - q| = f := by rw [add_sub_cancel_left, abs_of_nonneg hf0]
    rw [if_neg hc, RoundsTo, habs]
    rw [not_or, not_and, gt_iff_lt, hup, htie, not_lt, Nat.mod_two_not_eq_one] at hc
    exact hc

theorem roundsTo_self (n : Nat) : RoundsTo n n := by norm_num [RoundsTo]

/-- A number at place `q`: m × 2^e in units of 2^q. -/
theorem rneTo_rounds (m : Nat) (e q : Int) : RoundsTo (m * (2 : ℚ) ^ (e - q)) (rneTo m e q) := by
  rw [rneTo]
  split
  case isTrue h =>
    obtain ⟨n, hn⟩ := Int.eq_ofNat_of_zero_le (Int.sub_nonneg.mpr h)
    rw [hn, zpow_natCast, Int.toNat_natCast]
    exact_mod_cast roundsTo_self (m * 2 ^ n)
  case isFalse h =>
    obtain ⟨n, hn⟩ := Int.eq_ofNat_of_zero_le (show 0 ≤ q - e by omega)
    rw [← neg_sub q e, hn, zpow_neg, zpow_natCast, Int.toNat_natCast, ← div_eq_mul_inv]
    exact rneShift_rounds m n

section roundsTo

variable {y : ℚ} {r : Nat} (h : RoundsTo y r)
include h

theorem RoundsTo.sub_half_le : y - 1 / 2 ≤ r := by have := (abs_le.mp h.1).2; linarith
theorem RoundsTo.le_add_half : (r : ℚ) ≤ y + 1 / 2 := by have := (abs_le.mp h.1).1; linarith

theorem RoundsTo.le_of_lt_half {n : Nat} (hy : y < n + 1 / 2) : r ≤ n := by
  have : (r : ℚ) < n + 1 := by linarith [h.le_add_half]
  exact Nat.lt_succ_iff.mp (by exact_mod_cast this)

theorem RoundsTo.ge_of_le {n : Nat} (hy : n ≤ y) : n ≤ r := by
  have : (n : ℚ) < r + 1 := by linarith [h.sub_half_le]
  exact Nat.lt_succ_iff.mp (by exact_mod_cast this)

/-- A tie above an odd integer goes up. -/
theorem RoundsTo.gt_of_half_le {n : Nat} (hodd : n % 2 = 1) (hy : n + 1 / 2 ≤ y) : n < r := by
  refine lt_of_le_of_ne (h.ge_of_le (by linarith)) fun hn => ?_
  subst hn
  have habs : |y - n| = 1 / 2 := le_antisymm h.1 (le_trans (by linarith) (le_abs_self _))
  have := h.2 habs
  omega

/-- No integer is nearer; of two that are as near the rounded one is even. -/
theorem RoundsTo.nearest (n : Int) : |y - r| ≤ |y - n| ∧ (|y - r| = |y - n| → (n : ℚ) ≠ r → r % 2 = 0) := by
  by_cases hn : (n : ℚ) = r
  · rw [hn]
    exact ⟨le_rfl, fun _ h => absurd rfl h⟩
  have hone : (1 : ℚ) ≤ |(n : ℚ) - r| := by
    have : n ≠ r := fun h => hn (by exact_mod_cast h)
    exact_mod_cast Int.one_le_abs (sub_ne_zero.mpr this)
  have htri : |(n : ℚ) - r| ≤ |y - n| + |y - r| := by
    rw [abs_sub_comm y n]
    exact (abs_add_le _ _).trans_eq' (by ring_nf)
  have hhalf := h.1
  exact ⟨by linarith, fun heq _ => h.2 (by linarith)⟩

end roundsTo

end Sys2Proof.Machine
end

section
/-!
The formats of outputs (03_arithmetic R54, R63): the finite values of a format, a magnitude rounded to it with gradual underflow, and from
which magnitude on it overflows.
-/

namespace Sys2Proof.Machine

open Sys2Proof.Claims

/-! ### The finite values of a format -/

/-- The exponent of the last place of subnormal numbers, the least of a format. -/
def Layout.minPlace (l : Layout) : Int := 1 - l.bias - l.mant

/-- The exponent field of mantissa `r` at place `q`. -/
def Layout.expField (l : Layout) (r : Nat) (q : Int) : Int := if r < 2 ^ l.mant then 0 else q + l.mant + l.bias

/-- The code of the number ± r × 2^q. -/
def Layout.codeOf (l : Layout) (neg : Bool) (r : Nat) (q : Int) : Nat :=
  signBit l neg + (l.expField r q).toNat * 2 ^ l.mant + r % 2 ^ l.mant

/-- Mantissa `r` at place `q` is how the format holds a number, but for the range of its exponents: normal, or at the place of subnormals. -/
structure Layout.Holds (l : Layout) (r : Nat) (q : Int) : Prop where
  mant_lt : r < 2 ^ (l.mant + 1)
  place_le : l.minPlace ≤ q
  normal : q = l.minPlace ∨ 2 ^ l.mant ≤ r

/-- The exponent field and the mantissa make a finite number of the format. -/
def Layout.InRange (l : Layout) (r : Nat) (q : Int) : Prop :=
  l.expField r q < 2 ^ l.expo ∧ (l.top = 0 → l.expField r q ≠ 2 ^ l.expo - 1) ∧
    (l.top = 1 → l.expField r q = 2 ^ l.expo - 1 → r % 2 ^ l.mant ≠ 2 ^ l.mant - 1)

/-- A finite number that a code stands for has a mantissa of the format, at a place not below that of the subnormals. -/
theorem ofCode_finite {l : Layout} {c : Nat} (h : isFinite (ofCode l c)) :
    ∃ n k j, ofCode l c = .fin n k j ∧ k < 2 ^ (l.mant + 1) ∧ l.minPlace ≤ j := by
  have hman : c % 2 ^ l.mant < 2 ^ l.mant := Nat.mod_lt _ (Nat.two_pow_pos _)
  obtain ⟨n, k, j, h⟩ := h
  refine ⟨n, k, j, h, ?_⟩
  simp only [ofCode] at h
  rw [Layout.minPlace, Nat.pow_succ]
  split_ifs at h <;> simp only [Num.fin.injEq] at h <;> obtain ⟨-, rfl, rfl⟩ := h <;> omega

/-- The fields of a code. -/
theorem codeOf_fields {l : Layout} {man ex : Nat} (neg : Bool) (hman : man < 2 ^ l.mant) (hex : ex < 2 ^ l.expo) :
    let c := signBit l neg + ex * 2 ^ l.mant + man
    c % 2 ^ l.mant = man ∧ c / 2 ^ l.mant % 2 ^ l.expo = ex ∧ (c / 2 ^ (l.mant + l.expo) % 2 == 1) = neg := by
  have hsign : signBit l neg = 2 ^ l.mant * (2 ^ l.expo * neg.toNat) := by cases neg <;> simp [signBit, Nat.pow_add]
  have hc : signBit l neg + ex * 2 ^ l.mant + man = man + 2 ^ l.mant * (ex + 2 ^ l.expo * neg.toNat) := by rw [hsign]; ring
  have hneg : neg.toNat % 2 = neg.toNat := by cases neg <;> rfl
  intro c
  have hdiv : c / 2 ^ l.mant = ex + 2 ^ l.expo * neg.toNat := by
    rw [show c = _ from hc, Nat.add_mul_div_left _ _ (Nat.two_pow_pos _), Nat.div_eq_of_lt hman, Nat.zero_add]
  refine ⟨?_, ?_, ?_⟩
  · rw [show c = _ from hc, Nat.add_mul_mod_self_left, Nat.mod_eq_of_lt hman]
  · rw [hdiv, Nat.add_mul_mod_self_left, Nat.mod_eq_of_lt hex]
  · rw [Nat.pow_add, ← Nat.div_div_eq_div_mul, hdiv, Nat.add_mul_div_left _ _ (Nat.two_pow_pos _), Nat.div_eq_of_lt hex, Nat.zero_add, hneg]
    cases neg <;> rfl

/-- A number that the format holds reads back from its code. -/
theorem ofCode_codeOf {l : Layout} {r : Nat} {q : Int} (neg : Bool) (h : l.Holds r q) (hin : l.InRange r q) :
    ofCode l (l.codeOf neg r q) = .fin neg r q := by
  obtain ⟨hlt, hplace, hnormal⟩ := h
  obtain ⟨hfield, hieee, hnan⟩ := hin
  rw [Nat.pow_succ] at hlt
  rw [Layout.minPlace] at hplace hnormal
  have hnonneg : 0 ≤ l.expField r q := by rw [Layout.expField]; split <;> omega
  obtain ⟨ex, hex⟩ := Int.eq_ofNat_of_zero_le hnonneg
  rw [hex] at hfield hieee hnan
  have hexlt : ex < 2 ^ l.expo := by exact_mod_cast hfield
  obtain ⟨h1, h2, h3⟩ := codeOf_fields (l := l) neg (Nat.mod_lt r (Nat.two_pow_pos l.mant)) hexlt
  have hone : 1 ≤ 2 ^ l.expo := Nat.one_le_two_pow
  have hcast : ∀ n : Nat, n = 2 ^ l.expo - 1 ↔ (n : Int) = 2 ^ l.expo - 1 := fun n => by zify [hone]
  rw [Layout.codeOf, hex, Int.toNat_natCast]
  simp only [ofCode, h1, h2, h3]
  rw [if_neg fun hc => hieee hc.1 ((hcast _).mp hc.2), if_neg fun hc => hnan hc.1 ((hcast _).mp hc.2.1) hc.2.2]
  rw [Layout.expField] at hex
  by_cases hsub : r < 2 ^ l.mant
  · rw [if_pos hsub] at hex
    rw [if_pos (by omega), Nat.mod_eq_of_lt hsub, hnormal.resolve_right (by omega)]
  · rw [if_neg hsub] at hex
    have hmod : r % 2 ^ l.mant = r - 2 ^ l.mant := by
      rw [Nat.mod_eq_sub_mod (by omega), Nat.mod_eq_of_lt (by omega)]
    rw [if_neg (by omega), hmod]
    congr <;> omega

/-! ### Rounding a magnitude -/

section roundMag

variable {l : Layout} {m : Nat} (hm : m ≠ 0) (e : Int)

/-- The place to which a magnitude is rounded. -/
def Layout.place (l : Layout) (m : Nat) (e : Int) : Int := max (e + Nat.log2 m - l.mant) l.minPlace

include hm

theorem two_zpow_log2_le : (2 : ℚ) ^ (e + Nat.log2 m) ≤ m * (2 : ℚ) ^ e := by
  have h : ((2 ^ Nat.log2 m : Nat) : ℚ) ≤ m := by exact_mod_cast Nat.log2_self_le hm
  rw [zpow_add₀ two_ne_zero, mul_comm, zpow_natCast]
  push_cast at h
  gcongr

omit hm in
theorem lt_two_zpow_log2 : m * (2 : ℚ) ^ e < (2 : ℚ) ^ (e + Nat.log2 m + 1) := by
  have h : (m : ℚ) < ((2 ^ (Nat.log2 m + 1) : Nat) : ℚ) := by exact_mod_cast Nat.lt_log2_self
  rw [add_assoc, zpow_add₀ two_ne_zero, mul_comm]
  push_cast at h
  have hcast : (2 : ℚ) ^ ((Nat.log2 m : Int) + 1) = 2 ^ (Nat.log2 m + 1) := by exact_mod_cast zpow_natCast (2 : ℚ) _
  rw [hcast]
  gcongr

omit hm in
/-- At its place a magnitude has at most one bit more than the mantissa field. -/
theorem lt_at_place : m * (2 : ℚ) ^ (e - l.place m e) < 2 ^ (l.mant + 1) := by
  have hle : e + Nat.log2 m + 1 ≤ ((l.mant + 1 : Nat) : Int) + l.place m e := by rw [Layout.place]; omega
  have h := lt_of_lt_of_le (lt_two_zpow_log2 (m := m) e) (zpow_le_zpow_right₀ one_le_two hle)
  rw [zpow_add₀ two_ne_zero, zpow_natCast] at h
  rwa [zpow_sub₀ two_ne_zero, ← mul_div_assoc, div_lt_iff₀ (by positivity)]

/-- A magnitude of 2^k times the unit of its place. -/
theorem two_pow_le_at_place {k : Nat} {q : Int} (h : q + k ≤ e + Nat.log2 m) : 2 ^ k ≤ m * (2 : ℚ) ^ (e - q) := by
  have h := le_trans (zpow_le_zpow_right₀ one_le_two h) (two_zpow_log2_le hm e)
  rw [zpow_add₀ two_ne_zero, zpow_natCast, mul_comm] at h
  rwa [zpow_sub₀ two_ne_zero, ← mul_div_assoc, le_div_iff₀ (by positivity)]

/-- At its place a magnitude is normal, or the place is that of the subnormals. -/
theorem place_normal (h : l.minPlace < l.place m e) : 2 ^ l.mant ≤ m * (2 : ℚ) ^ (e - l.place m e) :=
  two_pow_le_at_place hm e (by rw [Layout.place] at h ⊢; omega)

omit hm in
theorem minPlace_le_place : l.minPlace ≤ l.place m e := le_max_right _ _

omit hm in
/-- The rounded magnitude: the integer nearest at its place, at one place more where it takes one bit more. -/
theorem roundMag_cases (l : Layout) (m : Nat) (e : Int) : ∃ r, RoundsTo (m * (2 : ℚ) ^ (e - l.place m e)) r ∧
    ((r ≠ 2 ^ (l.mant + 1) ∧ roundMag l m e = (r, l.place m e)) ∨
      (r = 2 ^ (l.mant + 1) ∧ roundMag l m e = (2 ^ l.mant, l.place m e + 1))) := by
  refine ⟨_, rneTo_rounds m e (l.place m e), ?_⟩
  by_cases h : rneTo m e (l.place m e) = 2 ^ (l.mant + 1)
  · exact .inr ⟨h, if_pos h⟩
  · exact .inl ⟨h, if_neg h⟩

theorem roundMag_holds : l.Holds (roundMag l m e).1 (roundMag l m e).2 := by
  have hplace := minPlace_le_place (l := l) (m := m) e
  obtain ⟨r, hr, ⟨hne, h⟩ | ⟨heq, h⟩⟩ := roundMag_cases l m e <;> rw [h]
  · have hle : r ≤ 2 ^ (l.mant + 1) := hr.le_of_lt_half (by push_cast; linarith [lt_at_place (l := l) (m := m) e])
    refine ⟨lt_of_le_of_ne hle hne, hplace, ?_⟩
    rcases hplace.eq_or_lt with heq | hlt
    · exact .inl heq.symm
    · exact .inr (hr.ge_of_le (by push_cast; exact place_normal hm e hlt))
  · exact ⟨Nat.pow_lt_pow_succ one_lt_two, by omega, .inr le_rfl⟩

omit hm in
/-- What a magnitude rounds to, in units of its place, and that a tie has given an even mantissa. -/
theorem roundMag_rounds (hmant : 1 ≤ l.mant) : ∃ r, RoundsTo (m * (2 : ℚ) ^ (e - l.place m e)) r ∧
    (roundMag l m e).1 * (2 : ℚ) ^ (roundMag l m e).2 = r * (2 : ℚ) ^ l.place m e ∧ (r % 2 = 0 → (roundMag l m e).1 % 2 = 0) := by
  obtain ⟨r, hr, ⟨-, h⟩ | ⟨rfl, h⟩⟩ := roundMag_cases l m e <;> refine ⟨_, hr, ?_, ?_⟩ <;> rw [h]
  · exact id
  · rw [zpow_add_one₀ two_ne_zero]
    push_cast
    ring
  · intro _
    exact Nat.even_iff.mp (Nat.even_pow.mpr ⟨even_two, by omega⟩)

/-- R63: no number that the format holds, whatever its exponent, is nearer to a magnitude than what it rounds to; of two that are as near the
rounded one is even. -/
theorem roundMag_nearest (hmant : 1 ≤ l.mant) {n : Bool} {k : Nat} {j : Int} (hk : k < 2 ^ (l.mant + 1)) (hj : l.minPlace ≤ j) :
    let x := m * (2 : ℚ) ^ e
    let v := (roundMag l m e).1 * (2 : ℚ) ^ (roundMag l m e).2
    let z := numVal (.fin n k j)
    |x - v| ≤ |x - z| ∧ (|x - v| = |x - z| → z ≠ v → (roundMag l m e).1 % 2 = 0) := by
  obtain ⟨r, hr, hv, heven⟩ := roundMag_rounds (m := m) e hmant
  intro x v z
  have hu : (0 : ℚ) < 2 ^ l.place m e := by positivity
  have hx : x = m * (2 : ℚ) ^ (e - l.place m e) * 2 ^ l.place m e := by
    rw [mul_assoc, ← zpow_add₀ two_ne_zero, sub_add_cancel]
  have hunit : ∀ y : ℚ, |x - y * 2 ^ l.place m e| = |m * (2 : ℚ) ^ (e - l.place m e) - y| * 2 ^ l.place m e := fun y => by
    rw [hx, ← sub_mul, abs_mul, abs_of_pos hu]
  obtain ⟨y, hy⟩ : ∃ y, z = y * 2 ^ l.place m e := ⟨z / 2 ^ l.place m e, (div_mul_cancel₀ _ hu.ne').symm⟩
  rw [show v = r * 2 ^ l.place m e from hv, hy, hunit, hunit, mul_le_mul_iff_left₀ hu, mul_left_inj' hu.ne', Ne, mul_left_inj' hu.ne']
  by_cases hge : l.place m e ≤ j
  case pos =>
    have hint : ∃ i : Int, y = i := by
      obtain ⟨d, hd⟩ := Int.eq_ofNat_of_zero_le (Int.sub_nonneg.mpr hge)
      refine ⟨(if n then -1 else 1) * k * 2 ^ d, mul_right_cancel₀ hu.ne' ?_⟩
      rw [← hy, show z = _ from numVal_fin n k j, show j = (d : Int) + l.place m e by omega, zpow_add₀ two_ne_zero, zpow_natCast]
      cases n <;> push_cast <;> simp <;> ring
    obtain ⟨i, rfl⟩ := hint
    obtain ⟨hle, htie⟩ := hr.nearest i
    exact ⟨hle, fun heq hne => heven (htie heq hne)⟩
  case neg =>
    have hnormal := place_normal (l := l) hm e (by omega)
    have hsmall : |y| < 2 ^ l.mant := by
      have hz : |z| < 2 ^ l.mant * 2 ^ l.place m e := by
        have hk' : (k : ℚ) < 2 ^ (l.mant + 1) := by exact_mod_cast hk
        calc |z| = k * (2 : ℚ) ^ j := abs_numVal_fin n k j
          _ < 2 ^ (l.mant + 1) * 2 ^ j := by gcongr
          _ = 2 ^ l.mant * 2 ^ (j + 1) := by rw [zpow_add_one₀ two_ne_zero]; ring
          _ ≤ 2 ^ l.mant * 2 ^ l.place m e := mul_le_mul_of_nonneg_left (zpow_le_zpow_right₀ one_le_two (by omega)) (by positivity)
      rw [hy, abs_mul, abs_of_pos hu] at hz
      exact lt_of_mul_lt_mul_right hz hu.le
    have hlt : |m * (2 : ℚ) ^ (e - l.place m e) - r| < |m * (2 : ℚ) ^ (e - l.place m e) - y| := by
      obtain ⟨hle, -⟩ := hr.nearest (2 ^ l.mant)
      push_cast at hle
      refine lt_of_le_of_lt hle ?_
      rw [abs_of_nonneg (by linarith)]
      exact lt_of_lt_of_le (by linarith [(abs_lt.mp hsmall).2]) (le_abs_self _)
    exact ⟨hlt.le, fun heq => absurd heq hlt.ne⟩

end roundMag

end Sys2Proof.Machine
end

section
/-!
Outputs (03_arithmetic R63, R64; log 65): from which magnitude on each format overflows, the code and the flags of a number, and window words
with their scales.
-/

namespace Sys2Proof.Machine

open Sys2Proof.Claims

/-! ### Magnitudes about the greatest of a format -/

section limits

variable {l : Layout} {m : Nat} (e : Int) {n : Nat} {q : Int} (hq : l.minPlace ≤ q)
include hq

/-- A magnitude nearer to n × 2^q than to the next number rounds to it or below. -/
theorem roundMag_le_of_lt (hn : 2 ^ l.mant ≤ n) (hlt : n < 2 ^ (l.mant + 1)) (h : m * (2 : ℚ) ^ e < (n + 1 / 2) * 2 ^ q) (hm : m ≠ 0) :
    (roundMag l m e).2 < q ∨ ((roundMag l m e).2 = q ∧ (roundMag l m e).1 ≤ n) := by
  have hn' : (n : ℚ) + 1 ≤ 2 ^ (l.mant + 1) := by exact_mod_cast hlt
  have hplace : l.place m e ≤ q := by
    have hpow : (2 : ℚ) ^ (e + Nat.log2 m) < 2 ^ ((l.mant + 1 : Nat) + q) := by
      calc (2 : ℚ) ^ (e + Nat.log2 m) ≤ m * 2 ^ e := two_zpow_log2_le hm e
        _ < (n + 1 / 2) * 2 ^ q := h
        _ ≤ 2 ^ (l.mant + 1) * 2 ^ q := by gcongr; linarith
        _ = 2 ^ ((l.mant + 1 : Nat) + q) := by rw [zpow_add₀ two_ne_zero, zpow_natCast]
    have := (zpow_lt_zpow_iff_right₀ one_lt_two).mp hpow
    rw [Layout.place]
    omega
  obtain ⟨r, hr, hcases⟩ := roundMag_cases l m e
  rcases hplace.lt_or_eq with hlow | heq
  · rcases hcases with ⟨-, h'⟩ | ⟨-, h'⟩ <;> rw [h'] <;> simp only <;> omega
  · have hle : r ≤ n := by
      refine hr.le_of_lt_half ?_
      rwa [heq, zpow_sub₀ two_ne_zero, ← mul_div_assoc, div_lt_iff₀ (by positivity)]
    rcases hcases with ⟨-, h'⟩ | ⟨h'', -⟩
    · rw [h']
      exact .inr ⟨heq, hle⟩
    · omega

/-- A magnitude as near to the number after the greatest at place `q`, or greater, is normal above that place. -/
theorem roundMag_gt_of_le (h : (2 ^ (l.mant + 1) - 1 / 2) * 2 ^ q ≤ m * (2 : ℚ) ^ e) (hm : m ≠ 0) :
    q < (roundMag l m e).2 ∧ 2 ^ l.mant ≤ (roundMag l m e).1 := by
  have hone : (1 : ℚ) ≤ 2 ^ l.mant := one_le_pow₀ one_le_two
  have hplace : q ≤ l.place m e := by
    have hpow : (2 : ℚ) ^ ((l.mant : Int) + q) < 2 ^ (e + Nat.log2 m + 1) := by
      calc (2 : ℚ) ^ ((l.mant : Int) + q) = 2 ^ l.mant * 2 ^ q := by rw [zpow_add₀ two_ne_zero, zpow_natCast]
        _ ≤ (2 ^ (l.mant + 1) - 1 / 2) * 2 ^ q := by gcongr; rw [pow_succ]; linarith
        _ ≤ m * 2 ^ e := h
        _ < 2 ^ (e + Nat.log2 m + 1) := lt_two_zpow_log2 e
    have := (zpow_lt_zpow_iff_right₀ one_lt_two).mp hpow
    rw [Layout.place]
    omega
  have hholds := roundMag_holds (l := l) hm e
  suffices hgt : q < (roundMag l m e).2 from ⟨hgt, hholds.normal.resolve_left (by omega)⟩
  obtain ⟨r, hr, hcases⟩ := roundMag_cases l m e
  rcases hplace.lt_or_eq with hlow | rfl
  · rcases hcases with ⟨-, h'⟩ | ⟨-, h'⟩ <;> rw [h'] <;> simp only <;> omega
  · have htwo : 1 ≤ 2 ^ (l.mant + 1) := Nat.one_le_two_pow
    have hgt : 2 ^ (l.mant + 1) - 1 < r := by
      refine hr.gt_of_half_le (by rw [Nat.pow_succ]; omega) ?_
      rw [zpow_sub₀ two_ne_zero, ← mul_div_assoc, le_div_iff₀ (by positivity)]
      push_cast [htwo]
      linarith
    rcases hcases with ⟨hne, h'⟩ | ⟨-, h'⟩
    · have hlt := hholds.mant_lt
      rw [h'] at hlt
      omega
    · rw [h']
      exact Int.lt_succ _

end limits

/-- What rounds to zero is less than the least number of the format. -/
theorem lt_of_roundMag_eq_zero {l : Layout} {m : Nat} {e : Int} (hm : m ≠ 0) (h : (roundMag l m e).1 = 0) :
    m * (2 : ℚ) ^ e < 2 ^ l.minPlace := by
  obtain ⟨r, hr, hcases⟩ := roundMag_cases l m e
  have hr0 : r = 0 := by
    rcases hcases with ⟨-, h'⟩ | ⟨-, h'⟩ <;> rw [h'] at h
    · exact h
    · exact absurd h (Nat.two_pow_pos _).ne'
  have hsmall : m * (2 : ℚ) ^ (e - l.place m e) < 1 := by
    have := hr.sub_half_le
    rw [hr0] at this
    push_cast at this
    linarith
  have hplace : l.place m e = l.minPlace := by
    by_contra hne
    have := place_normal hm e (lt_of_le_of_ne (minPlace_le_place (l := l) (m := m) e) (Ne.symm hne))
    linarith [one_le_pow₀ (n := l.mant) (one_le_two (α := ℚ))]
  rwa [hplace, zpow_sub₀ two_ne_zero, ← mul_div_assoc, div_lt_one (by positivity)] at hsmall

/-! ### Overflow -/

/-- The number ± m × 2^e overflows in a format. -/
def Layout.overflows (l : Layout) (m : Nat) (e : Int) : Bool :=
  let r := roundMag l m e
  if l.top = 0 then decide (l.expField r.1 r.2 ≥ 2 ^ l.expo - 1)
  else if l.top = 1 then reaches464 m e
  else decide (l.expField r.1 r.2 > 2 ^ l.expo - 1)

/-- The format overflows at the magnitude `limit` and above; below it a rounded magnitude is a finite number of the format. -/
structure Layout.OverflowsFrom (l : Layout) (limit : ℚ) : Prop where
  mant_pos : 1 ≤ l.mant
  limit_pos : 0 < limit
  overflows_iff : ∀ (m : Nat) (e : Int), m ≠ 0 → (l.overflows m e = true ↔ limit ≤ m * (2 : ℚ) ^ e)
  inRange : ∀ (m : Nat) (e : Int), m ≠ 0 → m * (2 : ℚ) ^ e < limit → l.InRange (roundMag l m e).1 (roundMag l m e).2
  rounds_ne_zero : ∀ (m : Nat) (e : Int), m ≠ 0 → limit ≤ m * (2 : ℚ) ^ e → (roundMag l m e).1 ≠ 0

/-- The place of the greatest numbers of an IEEE 754 format. -/
def Layout.maxPlace (l : Layout) : Int := 2 ^ l.expo - 2 - l.bias - l.mant

/-- The exponent field is the infinities' where a mantissa is normal above the greatest place. -/
theorem expField_ge_iff {l : Layout} (hexpo : 2 ≤ l.expo) {r : Nat} {q : Int} :
    2 ^ l.expo - 1 ≤ l.expField r q ↔ 2 ^ l.mant ≤ r ∧ l.maxPlace < q := by
  have hpow : (4 : Int) ≤ 2 ^ l.expo := by exact_mod_cast Nat.pow_le_pow_right two_pos hexpo
  rw [Layout.expField, Layout.maxPlace]
  split <;> omega

/-- R63: an IEEE 754 format overflows from the middle between its greatest number and the next power of two on. -/
theorem overflowsFrom_ieee {l : Layout} {limit : ℚ} (htop : l.top = 0) (hmant : 1 ≤ l.mant) (hexpo : 2 ≤ l.expo)
    (hlimit : limit = (2 ^ (l.mant + 1) - 1 / 2) * 2 ^ l.maxPlace) : l.OverflowsFrom limit := by
  subst hlimit
  have hpow : (4 : Int) ≤ 2 ^ l.expo := by exact_mod_cast Nat.pow_le_pow_right two_pos hexpo
  have hplace : l.minPlace ≤ l.maxPlace := by rw [Layout.minPlace, Layout.maxPlace]; omega
  have hone : (1 : ℚ) ≤ 2 ^ (l.mant + 1) := one_le_pow₀ one_le_two
  have hlim : (2 : ℚ) ^ (l.mant + 1) - 1 / 2 = (2 ^ (l.mant + 1) - 1 : Nat) + 1 / 2 := by
    push_cast [Nat.one_le_two_pow]
    ring
  have hlow : ∀ (m : Nat) (e : Int), m ≠ 0 → m * (2 : ℚ) ^ e < (2 ^ (l.mant + 1) - 1 / 2) * 2 ^ l.maxPlace →
      ¬2 ^ l.expo - 1 ≤ l.expField (roundMag l m e).1 (roundMag l m e).2 := by
    intro m e hm h
    have htwo : 2 ^ (l.mant + 1) = 2 * 2 ^ l.mant := by rw [Nat.pow_succ, Nat.mul_comm]
    have hpos := Nat.two_pow_pos l.mant
    have hle := roundMag_le_of_lt e hplace (n := 2 ^ (l.mant + 1) - 1) (by omega) (by omega)
      (by rwa [hlim] at h) hm
    rw [expField_ge_iff hexpo]
    omega
  have hhigh : ∀ (m : Nat) (e : Int), m ≠ 0 → (2 ^ (l.mant + 1) - 1 / 2) * 2 ^ l.maxPlace ≤ m * (2 : ℚ) ^ e →
      2 ^ l.expo - 1 ≤ l.expField (roundMag l m e).1 (roundMag l m e).2 := fun m e hm h =>
    (expField_ge_iff hexpo).mpr (roundMag_gt_of_le e hplace h hm).symm
  refine ⟨hmant, mul_pos (by linarith) (by positivity), fun m e hm => ?_, fun m e hm h => ?_, fun m e hm h => ?_⟩
  · rw [Layout.overflows, if_pos htop, decide_eq_true_eq]
    exact ⟨fun h => not_lt.mp fun hlt => hlow m e hm hlt h, hhigh m e hm⟩
  · have := hlow m e hm h
    exact ⟨by omega, fun _ => by omega, fun h1 => by omega⟩
  · have := ((expField_ge_iff hexpo).mp (hhigh m e hm h)).1
    exact (lt_of_lt_of_le (Nat.two_pow_pos _) this).ne'

theorem reaches464_iff (m : Nat) (e : Int) : reaches464 m e = true ↔ 464 ≤ m * (2 : ℚ) ^ e := by
  have h464 : (464 : ℚ) = 29 * 2 ^ (4 : Int) := by norm_num
  rw [reaches464, h464]
  split
  case isTrue h =>
    obtain ⟨d, hd⟩ := Int.eq_ofNat_of_zero_le (Int.sub_nonneg.mpr h)
    rw [hd, show e = (d : Int) + 4 by omega, zpow_add₀ two_ne_zero, ← mul_assoc, mul_le_mul_iff_left₀ (by positivity), decide_eq_true_eq,
      Int.toNat_natCast, zpow_natCast]
    exact_mod_cast Iff.rfl
  case isFalse h =>
    obtain ⟨d, hd⟩ := Int.eq_ofNat_of_zero_le (show 0 ≤ 4 - e by omega)
    rw [hd, show (4 : Int) = (d : Int) + e by omega, zpow_add₀ two_ne_zero, ← mul_assoc, mul_le_mul_iff_left₀ (by positivity),
      decide_eq_true_eq, Int.toNat_natCast, zpow_natCast]
    exact_mod_cast Iff.rfl

/-- Log 65: E4M3 overflows from 464 on. -/
theorem overflowsFrom_e4m3 : layoutE4m3.OverflowsFrom 464 := by
  refine ⟨by decide, by norm_num, fun m e _ => reaches464_iff m e, fun m e hm h => ?_, fun m e hm h hzero => ?_⟩
  · have hlim : (464 : ℚ) = ((14 : Nat) + 1 / 2) * 2 ^ (5 : Int) := by norm_num
    have hle := roundMag_le_of_lt (l := layoutE4m3) e (by decide) (by decide) (by decide) (hlim ▸ h) hm
    have hfield : ∀ r q, layoutE4m3.expField r q = if r < 8 then 0 else q + 3 + 7 := fun r q => rfl
    refine ⟨?_, fun h0 => absurd h0 (by decide), fun _ => ?_⟩ <;> rw [hfield] <;> simp only [layoutE4m3] at hle ⊢ <;> omega
  · have := lt_of_roundMag_eq_zero hm hzero
    have hmin : (2 : ℚ) ^ layoutE4m3.minPlace < 464 := by norm_num [Layout.minPlace, layoutE4m3]
    linarith

/-! ### Codes -/

section codes

variable {l : Layout} {limit : ℚ} (hl : l.OverflowsFrom limit) (neg : Bool) {m : Nat} (e : Int) (hm : m ≠ 0)
include hl hm

theorem toCode_of_lt (h : m * (2 : ℚ) ^ e < limit) : toCode l (.fin neg m e) =
    (l.codeOf neg (roundMag l m e).1 (roundMag l m e).2, if (roundMag l m e).1 = 0 then flagUnf else 0) := by
  have hov : l.overflows m e = false := Bool.eq_false_iff.mpr fun h' => absurd ((hl.overflows_iff m e hm).mp h') (not_le.mpr h)
  by_cases hzero : (roundMag l m e).1 = 0
  · simp [toCode, hm, hzero, Layout.codeOf, Layout.expField]
  · simp only [toCode, if_neg hm, if_neg hzero]
    exact if_neg (by rw [Bool.not_eq_true]; exact hov)

/-- R63: overflow gives an infinity, or the greatest number of E4M3. -/
theorem toCode_of_ge (h : limit ≤ m * (2 : ℚ) ^ e) : toCode l (.fin neg m e) =
    if l.top = 0 then (signBit l neg + (2 ^ l.expo - 1) * 2 ^ l.mant, flagOvf ||| flagInf)
    else (signBit l neg + (2 ^ l.expo - 1) * 2 ^ l.mant + (2 ^ l.mant - (if l.top = 1 then 2 else 1)), flagOvf) := by
  simp only [toCode, if_neg hm, if_neg (hl.rounds_ne_zero m e hm h)]
  exact if_pos ((hl.overflows_iff m e hm).mpr h)

end codes

end Sys2Proof.Machine
end

section
/-!
R63 as a statement about values: the code of a number is the nearest one of its format, and the output of a window word with its scales is that
of the exact product.
-/

namespace Sys2Proof.Machine

open Sys2Proof.Claims

/-! ### The nearest code -/

/-- The lowest bit of a code is that of its mantissa. -/
theorem codeOf_mod_two {l : Layout} (hmant : 1 ≤ l.mant) (neg : Bool) (r : Nat) (q : Int) : l.codeOf neg r q % 2 = r % 2 := by
  obtain ⟨k, hk⟩ := Nat.exists_eq_add_of_le' hmant
  have hsign : signBit l neg % 2 = 0 := by
    cases neg
    · rfl
    · rw [signBit, if_pos rfl, hk, show k + 1 + l.expo = k + l.expo + 1 by omega, Nat.pow_succ, Nat.mul_mod_left]
  have hmod : r % 2 ^ l.mant % 2 = r % 2 := Nat.mod_mod_of_dvd r (dvd_pow_self 2 (by omega))
  have hfield : (l.expField r q).toNat * 2 ^ l.mant % 2 = 0 := by rw [hk, Nat.pow_succ, ← Nat.mul_assoc, Nat.mul_mod_left]
  rw [Layout.codeOf]
  omega

/-- The sign of a number as a factor of its value. -/
theorem numVal_xor (neg n : Bool) (k : Nat) (j : Int) :
    numVal (.fin (xor neg n) k j) = (if neg then -1 else 1) * numVal (.fin n k j) := by
  cases neg <;> cases n <;> simp [numVal_fin]

theorem numVal_sign (neg : Bool) (k : Nat) (j : Int) : numVal (.fin neg k j) = (if neg then -1 else 1) * (k * (2 : ℚ) ^ j) := by
  rw [numVal_fin, mul_assoc]

section nearest

variable {l : Layout} {limit : ℚ} (hl : l.OverflowsFrom limit) (neg : Bool) {m : Nat} (e : Int) (hm : m ≠ 0)
  (h : m * (2 : ℚ) ^ e < limit)
include hl hm h

/-- The code of a number below the limit is that of its rounded magnitude. -/
theorem ofCode_toCode : ofCode l (toCode l (.fin neg m e)).1 = .fin neg (roundMag l m e).1 (roundMag l m e).2 := by
  rw [toCode_of_lt hl neg e hm h]
  exact ofCode_codeOf neg (roundMag_holds hm e) (hl.inRange m e hm h)

/-- R63: no finite code of the format is nearer; of two that are as near the chosen one is even. -/
theorem toCode_nearest {c : Nat} (hc : isFinite (ofCode l c)) :
    let x := numVal (.fin neg m e)
    let v := numVal (.fin neg (roundMag l m e).1 (roundMag l m e).2)
    let z := numVal (ofCode l c)
    |x - v| ≤ |x - z| ∧ (|x - v| = |x - z| → z ≠ v → (toCode l (.fin neg m e)).1 % 2 = 0) := by
  obtain ⟨n, k, j, hz, hk, hj⟩ := ofCode_finite hc
  have hnear := roundMag_nearest (l := l) hm e hl.mant_pos (n := xor neg n) hk hj
  rw [toCode_of_lt hl neg e hm h, codeOf_mod_two hl.mant_pos, hz]
  simp only [numVal_sign neg, numVal_xor] at hnear ⊢
  generalize numVal (.fin n k j) = z at hnear ⊢
  cases neg
  · simpa using hnear
  · have hflip : ∀ u w : ℚ, |-u - w| = |u - -w| := fun u w => by rw [← abs_neg, neg_sub', neg_neg]
    simpa only [if_true, neg_one_mul, hflip, neg_neg, Ne, neg_eq_iff_eq_neg] using hnear

end nearest

/-! ### Window words with their scales -/

/-- A window word without NaN and infinity flags is a finite number. -/
theorem winNum_finite {x : Win} (a : Int) (h : x.flags &&& 0xE = 0) : winNum a x = .fin (decide (x.w < 0)) x.w.natAbs (a - 100) := by
  have hbits : ∀ f : BitVec 4, f &&& 0xE = 0 → f.getLsbD 1 = false ∧ f.getLsbD 2 = false ∧ f.getLsbD 3 = false := by decide
  obtain ⟨h1, h2, h3⟩ := hbits x.flags h
  simp only [winNum, h1, h2, h3, Bool.false_and, Bool.or_false, Bool.false_eq_true, if_false]

theorem numVal_winNum {x : Win} (a : Int) (h : x.flags &&& 0xE = 0) : numVal (winNum a x) = x.w * (2 : ℚ) ^ (a - 100) := by
  rw [winNum_finite a h, numVal_fin]
  congr 1
  rcases lt_or_ge x.w 0 with hneg | hpos
  · simp [hneg, abs_of_neg hneg]
  · simp [not_lt.mpr hpos, abs_of_nonneg hpos]

/-- The exact product with the scales. -/
theorem numVal_foldl_scales : ∀ (scales : List (BitVec 32)) {x : Num}, isFinite x → (∀ t ∈ scales, isFinite (f32Num t)) →
    isFinite (scales.foldl (fun p t => numMul p (f32Num t)) x) ∧
      numVal (scales.foldl (fun p t => numMul p (f32Num t)) x) = numVal x * (scales.map fun t => numVal (f32Num t)).prod
  | [], x, hx, _ => ⟨hx, by simp⟩
  | t :: scales, x, hx, ht => by
    rw [List.forall_mem_cons] at ht
    obtain ⟨hfin, hval⟩ := numVal_foldl_scales scales (isFinite_numMul hx ht.1) ht.2
    exact ⟨hfin, by rw [List.foldl_cons, hval, numVal_numMul hx ht.1, List.map_cons, List.prod_cons, mul_assoc]⟩

/-- The SAT flag that an output takes from its window word. -/
def satFlag (x : Win) : BitVec 16 := if x.flags.getLsbD 0 then flagSat else 0

/-- Beside the flags of a finite code, SAT stands for the window word alone. -/
theorem flags_satFlag {f : BitVec 16} (hf : f ∈ [0, flagUnf, flagOvf, flagOvf ||| flagInf]) (x : Win) :
    ((f ||| satFlag x) &&& flagSat ≠ 0 ↔ x.flags[0] = true) ∧ (f ||| satFlag x) &&& flagOvf = f &&& flagOvf ∧
      (f ||| satFlag x) &&& flagUnf = f &&& flagUnf := by
  rw [satFlag, ← BitVec.getLsbD_eq_getElem]
  generalize x.flags.getLsbD 0 = b
  simp only [List.mem_cons, List.not_mem_nil, or_false] at hf
  cases b <;> rcases hf with rfl | rfl | rfl | rfl <;> decide

section winOut

variable (l : Layout) (a : Int) {x : Win} {scales : List (BitVec 32)} (hx : x.flags &&& 0xE = 0)
  (hs : ∀ t ∈ scales, isFinite (f32Num t))

/-- The exact value of an output (R63). -/
def outVal (a : Int) (x : Win) (scales : List (BitVec 32)) : ℚ := x.w * (2 : ℚ) ^ (a - 100) * (scales.map fun t => numVal (f32Num t)).prod

include hx hs

/-- An output is the code of its exact value, with +0 for zero. -/
theorem winOut_cases : (outVal a x scales = 0 ∧ winOut l a x scales = (0, 0 ||| satFlag x)) ∨
    ∃ n m e, m ≠ 0 ∧ outVal a x scales = numVal (.fin n m e) ∧
      winOut l a x scales = ((toCode l (.fin n m e)).1, (toCode l (.fin n m e)).2 ||| satFlag x) := by
  obtain ⟨⟨n, m, e, hfold⟩, hval⟩ := numVal_foldl_scales scales (x := winNum a x) (winNum_finite a hx ▸ isFinite_fin _ _ _) hs
  rw [numVal_winNum a hx, hfold] at hval
  by_cases hm : m = 0
  · subst hm
    refine .inl ⟨hval.symm.trans (numVal_fin_eq_zero.mpr rfl), ?_⟩
    rw [winOut, hfold]
    rfl
  · obtain ⟨k, rfl⟩ := Nat.exists_eq_succ_of_ne_zero hm
    refine .inr ⟨n, k + 1, e, hm, hval.symm, ?_⟩
    rw [winOut, hfold]
    rfl

end winOut

/-! ### The output formats -/

/-- The output formats with the magnitudes from which they overflow. -/
theorem overflowsFrom_of_mem {l : Layout} {limit : ℚ}
    (h : (l, limit) ∈ [(layoutF32, ((2 : ℚ) ^ 25 - 1) * 2 ^ 103), (layoutBf16, (2 ^ 9 - 1) * 2 ^ 119), (layoutE5m2, 61440), (layoutE4m3, 464)]) :
    l.OverflowsFrom limit ∧ (l.top = 0 ∨ l = layoutE4m3) := by
  simp only [List.mem_cons, List.not_mem_nil, or_false, Prod.mk.injEq] at h
  rcases h with ⟨rfl, rfl⟩ | ⟨rfl, rfl⟩ | ⟨rfl, rfl⟩ | ⟨rfl, rfl⟩
  · exact ⟨overflowsFrom_ieee rfl (by decide) (by decide) (by norm_num [layoutF32, Layout.maxPlace]), .inl rfl⟩
  · exact ⟨overflowsFrom_ieee rfl (by decide) (by decide) (by norm_num [layoutBf16, Layout.maxPlace]), .inl rfl⟩
  · exact ⟨overflowsFrom_ieee rfl (by decide) (by decide) (by norm_num [layoutE5m2, Layout.maxPlace]), .inl rfl⟩
  · exact ⟨overflowsFrom_e4m3, .inr rfl⟩

section flags

variable {l : Layout} {limit : ℚ} (hl : l.OverflowsFrom limit) (neg : Bool) {m : Nat} (e : Int) (hm : m ≠ 0)
include hl hm

theorem toCode_flags_of_lt (h : m * (2 : ℚ) ^ e < limit) :
    let f := (toCode l (.fin neg m e)).2
    f ∈ [0, flagUnf, flagOvf, flagOvf ||| flagInf] ∧ f &&& flagOvf = 0 ∧ (f &&& flagUnf ≠ 0 ↔ (roundMag l m e).1 = 0) := by
  simp only [toCode_of_lt hl neg e hm h]
  by_cases hz : (roundMag l m e).1 = 0
  · simp only [hz, if_true, iff_true]
    decide
  · simp only [hz, if_false, iff_false]
    decide

theorem toCode_flags_of_ge (h : limit ≤ m * (2 : ℚ) ^ e) :
    let f := (toCode l (.fin neg m e)).2
    f ∈ [0, flagUnf, flagOvf, flagOvf ||| flagInf] ∧ f &&& flagOvf ≠ 0 := by
  rw [toCode_of_ge hl neg e hm h]
  by_cases ht : l.top = 0
  · simp only [ht, if_true]
    decide
  · simp only [ht, if_false]
    decide

/-- R63: the code of an overflow is an infinity, or ±448 in E4M3. -/
theorem toCode_fst_of_ge (htop : l.top = 0 ∨ l = layoutE4m3) (h : limit ≤ m * (2 : ℚ) ^ e) : (toCode l (.fin neg m e)).1 =
    (if neg then 2 ^ (l.mant + l.expo) else 0) + if l = layoutE4m3 then 0x7E else (2 ^ l.expo - 1) * 2 ^ l.mant := by
  rw [toCode_of_ge hl neg e hm h]
  rcases htop with htop | rfl
  · have hne : l ≠ layoutE4m3 := fun h' => absurd htop (by rw [h']; decide)
    rw [if_pos htop, if_neg hne, signBit]
  · rfl

end flags

/-- Settles O49: the exact value of an output is a number whose magnitude lies below or from the limit of its format on. -/
theorem outputRounding : Obligations.OutputRounding := by
  intro l limit a x scales hmem hx hs V r
  obtain ⟨hl, htop⟩ := overflowsFrom_of_mem hmem
  rcases winOut_cases l a hx hs with ⟨hV, hr⟩ | ⟨n, m, e, hm, hV, hr⟩
  · replace hV : V = 0 := hV
    replace hr : r = (0, 0 ||| satFlag x) := hr
    obtain ⟨hsat, -⟩ := flags_satFlag (f := 0) (by decide) x
    rw [hr]
    refine ⟨fun _ => rfl, fun _ h => absurd hV h, fun h => ?_, hsat⟩
    rw [hV, abs_zero] at h
    exact absurd h (not_le.mpr hl.limit_pos)
  · replace hV : V = numVal (.fin n m e) := hV
    replace hr : r = ((toCode l (.fin n m e)).1, (toCode l (.fin n m e)).2 ||| satFlag x) := hr
    have hV0 : V ≠ 0 := by rw [hV, Ne, numVal_fin_eq_zero]; exact hm
    have hneg : V < 0 ↔ n = true := hV ▸ numVal_fin_neg_iff hm
    have habs : |V| = m * (2 : ℚ) ^ e := hV ▸ abs_numVal_fin n m e
    rw [hr]
    simp only [hneg, Bool.decide_eq_true]
    rcases lt_or_ge |V| limit with hlt | hge
    · have hbelow : m * (2 : ℚ) ^ e < limit := habs ▸ hlt
      have hnear := fun c => toCode_nearest hl n e hm hbelow (c := c)
      rw [← hV] at hnear
      obtain ⟨hmem, hovf, hunf⟩ := toCode_flags_of_lt hl n e hm hbelow
      obtain ⟨hsat, hovf', hunf'⟩ := flags_satFlag hmem x
      refine ⟨fun h => absurd h hV0, fun _ _ => ⟨hovf'.trans hovf, _, _, ofCode_toCode hl n e hm hbelow, ?_, hnear⟩,
        fun h => absurd h (not_le.mpr hlt), hsat⟩
      rw [hunf', hunf, numVal_fin_eq_zero]
    · have habove : limit ≤ m * (2 : ℚ) ^ e := habs ▸ hge
      obtain ⟨hmem, hovf⟩ := toCode_flags_of_ge hl n e hm habove
      obtain ⟨hsat, hovf', -⟩ := flags_satFlag hmem x
      exact ⟨fun h => absurd h hV0, fun h => absurd hge (not_le.mpr h),
        fun _ => ⟨hovf'.symm ▸ hovf, toCode_fst_of_ge hl n e hm htop habove⟩, hsat⟩

end Sys2Proof.Machine
end

section
/-!
Window words (03_arithmetic R60, R61, R64 to R66): what a product converts to, and sums of window words, whose flags join by OR.
-/

namespace Sys2Proof.Machine

open Sys2Proof.Claims

/-! ### A product in the window (R61) -/

/-- A block scale that is no NaN is a power of two. -/
theorem scaleNum_finite {e : Nat} (h : e < 255) : scaleNum e = .fin false 1 ((e : Int) - 127) := if_neg h.ne

/-- The exact product of two elements with their block scales. -/
theorem numVal_scaledProduct {x y : Num} {eA eB : Nat} (hx : isFinite x) (hy : isFinite y) (hA : eA < 255) (hB : eB < 255) :
    let p := numMul (numMul x (scaleNum eA)) (numMul y (scaleNum eB))
    isFinite p ∧ numVal p = numVal x * numVal y * (2 : ℚ) ^ (((eA : Int) - 127) + ((eB : Int) - 127)) := by
  rw [scaleNum_finite hA, scaleNum_finite hB]
  have hfin := fun e => isFinite_fin false 1 e
  have hxA := isFinite_numMul hx (hfin ((eA : Int) - 127))
  have hyB := isFinite_numMul hy (hfin ((eB : Int) - 127))
  refine ⟨isFinite_numMul hxA hyB, ?_⟩
  rw [numVal_numMul hxA hyB, numVal_numMul hx (hfin _), numVal_numMul hy (hfin _), zpow_add₀ two_ne_zero]
  simp only [numVal_fin, Bool.false_eq_true, if_false, Nat.cast_one]
  ring

theorem signedMag_eq (neg : Bool) (m : Nat) : signedMag neg m = (if neg then -1 else 1) * m := by cases neg <;> simp [signedMag]

/-- The sign that a nonzero number gives its converted product. -/
theorem sign_numVal {neg : Bool} {m : Nat} {e : Int} (hm : m ≠ 0) :
    (if numVal (.fin neg m e) < 0 then -1 else 1 : Int) = if neg then -1 else 1 := by
  simp only [numVal_fin_neg_iff hm]

/-- A product at or above the window saturates. -/
def saturates (a : Int) (m : Nat) (e : Int) : Bool := if e ≥ a then decide (m ≠ 0) else decide (2 ^ (a - e).toNat ≤ m)

theorem saturates_iff (a : Int) (m : Nat) (e : Int) : saturates a m e = true ↔ (2 : ℚ) ^ a ≤ m * 2 ^ e := by
  rw [saturates]
  split
  case isTrue h =>
    rw [decide_eq_true_eq]
    refine ⟨fun hm => ?_, fun hle hm => ?_⟩
    · have hone : (1 : ℚ) ≤ m := by exact_mod_cast Nat.one_le_iff_ne_zero.mpr hm
      exact (zpow_le_zpow_right₀ one_le_two h).trans (le_mul_of_one_le_left (by positivity) hone)
    · rw [hm, Nat.cast_zero, zero_mul] at hle
      exact absurd hle (not_le.mpr (by positivity))
  case isFalse h =>
    obtain ⟨d, hd⟩ := Int.eq_ofNat_of_zero_le (show 0 ≤ a - e by omega)
    rw [hd, show a = (d : Int) + e by omega, zpow_add₀ two_ne_zero, mul_le_mul_iff_left₀ (by positivity), decide_eq_true_eq,
      Int.toNat_natCast, zpow_natCast]
    exact_mod_cast Iff.rfl

/-- The magnitude of a product in units of the window, truncated. -/
def truncTo (m : Nat) (e q : Int) : Nat := if e ≥ q then m * 2 ^ (e - q).toNat else m / 2 ^ (q - e).toNat

theorem truncTo_eq_floor (m : Nat) (e q : Int) : (truncTo m e q : Int) = ⌊m * (2 : ℚ) ^ e / 2 ^ q⌋ := by
  rw [mul_div_assoc, ← zpow_sub₀ two_ne_zero, truncTo]
  split
  case isTrue h =>
    obtain ⟨d, hd⟩ := Int.eq_ofNat_of_zero_le (Int.sub_nonneg.mpr h)
    rw [hd, Int.toNat_natCast, zpow_natCast]
    exact_mod_cast (Int.floor_natCast (R := ℚ) (m * 2 ^ d)).symm
  case isFalse h =>
    obtain ⟨d, hd⟩ := Int.eq_ofNat_of_zero_le (show 0 ≤ q - e by omega)
    rw [hd, ← neg_sub q e, hd, Int.toNat_natCast, zpow_neg, zpow_natCast, ← div_eq_mul_inv]
    have hfloor := Rat.floor_natCast_div_natCast m (2 ^ d)
    push_cast at hfloor ⊢
    exact hfloor.symm

theorem convertProduct_fin (a : Int) (neg : Bool) (m : Nat) (e : Int) : convertProduct a (.fin neg m e) =
    if saturates a m e then ⟨signedMag neg (2 ^ 100 - 1), 1⟩ else ⟨signedMag neg (truncTo m e (a - 100)), 0⟩ := rfl

/-- R61: a product below 2^a in magnitude is truncated toward zero in units of 2^(a − 100). -/
theorem convertProduct_of_lt {a : Int} {p : Num} (hp : isFinite p) (h : |numVal p| < (2 : ℚ) ^ a) :
    convertProduct a p = ⟨(if numVal p < 0 then -1 else 1) * ⌊|numVal p| / (2 : ℚ) ^ (a - 100)⌋, 0⟩ := by
  obtain ⟨neg, m, e, rfl⟩ := hp
  rw [abs_numVal_fin] at h ⊢
  rw [convertProduct_fin, if_neg (by rw [saturates_iff]; exact not_le.mpr h), signedMag_eq, truncTo_eq_floor]
  by_cases hm : m = 0
  · simp [hm]
  · rw [sign_numVal hm]

/-- R61: one of 2^a or more saturates. -/
theorem convertProduct_of_ge {a : Int} {p : Num} (hp : isFinite p) (h : (2 : ℚ) ^ a ≤ |numVal p|) :
    convertProduct a p = ⟨(if numVal p < 0 then -1 else 1) * (2 ^ 100 - 1), 1⟩ := by
  obtain ⟨neg, m, e, rfl⟩ := hp
  rw [abs_numVal_fin] at h
  have hm : m ≠ 0 := by
    rintro rfl
    rw [Nat.cast_zero, zero_mul] at h
    exact absurd h (not_le.mpr (by positivity))
  rw [convertProduct_fin, if_pos ((saturates_iff a m e).mpr h), signedMag_eq, sign_numVal hm]
  rfl

/-! ### Sums of window words (R65) -/

theorem winAdd_comm (x y : Win) : winAdd x y = winAdd y x := by rw [winAdd, winAdd, Int.add_comm, BitVec.or_comm]

theorem winAdd_assoc (x y z : Win) : winAdd (winAdd x y) z = winAdd x (winAdd y z) := by
  simp only [winAdd, Int.add_assoc, BitVec.or_assoc]

theorem winAdd_zero (x : Win) : winAdd x {} = x := by simp [winAdd]

theorem zero_winAdd (x : Win) : winAdd {} x = x := by rw [winAdd_comm, winAdd_zero]

/-- A sum that starts at a window word. -/
theorem foldl_winAdd : ∀ (xs : List Win) (x : Win), xs.foldl winAdd x = winAdd x (xs.foldl winAdd {})
  | [], x => (winAdd_zero x).symm
  | y :: xs, x => by
    rw [List.foldl_cons, List.foldl_cons, zero_winAdd, foldl_winAdd xs (winAdd x y), foldl_winAdd xs y, winAdd_assoc]

theorem foldl_winAdd_perm {xs ys : List Win} (h : xs.Perm ys) : xs.foldl winAdd {} = ys.foldl winAdd {} :=
  h.foldl_eq' (f := winAdd) (fun x _ y _ z => by rw [winAdd_assoc, winAdd_comm x y, winAdd_assoc]) _

theorem foldl_winAdd_append (xs ys : List Win) :
    (xs ++ ys).foldl winAdd {} = winAdd (xs.foldl winAdd {}) (ys.foldl winAdd {}) := by
  rw [List.foldl_append, foldl_winAdd ys]

theorem foldl_winAdd_w (xs : List Win) : (xs.foldl winAdd {}).w = (xs.map Win.w).sum := by
  induction xs with
  | nil => rfl
  | cons x xs ih => rw [List.foldl_cons, zero_winAdd, foldl_winAdd, List.map_cons, List.sum_cons, ← ih, winAdd]

theorem foldl_winAdd_flags (xs : List Win) (i : Fin 4) : (xs.foldl winAdd {}).flags[i] = xs.any fun x => x.flags[i] := by
  induction xs with
  | nil => simp
  | cons x xs ih => rw [List.foldl_cons, zero_winAdd, foldl_winAdd, List.any_cons, ← ih, winAdd, Fin.getElem_fin, BitVec.getElem_or]; rfl

/-! ### Folds of accumulators -/

/-- Window words that are added one after another, the first of them written (R113). -/
theorem foldGot_accumAdd {f : Nat → Got Accum} {d : Nat → Win} : ∀ (l : List Nat) (w : Win), (∀ k ∈ l, f k = .ok (.win (d k))) →
    foldGot (fun o k => (f k).map fun x => some (accumAdd o x)) (some (.win w)) l = .ok (some (.win ((l.map d).foldl winAdd w)))
  | [], _, _ => rfl
  | k :: l, w, h => by
    rw [List.forall_mem_cons] at h
    rw [foldGot, h.1]
    exact foldGot_accumAdd l (winAdd w (d k)) h.2

/-- The sum of at least one window word. -/
theorem foldGot_accumAdd_range {f : Nat → Got Accum} {d : Nat → Win} {n : Nat} (hn : 0 < n) (h : ∀ k, k < n → f k = .ok (.win (d k))) :
    foldGot (fun o k => (f k).map fun x => some (accumAdd o x)) none (List.range n) =
      .ok (some (.win (((List.range n).map d).foldl winAdd {}))) := by
  obtain ⟨m, rfl⟩ := Nat.exists_eq_succ_of_ne_zero hn.ne'
  rw [List.range_succ_eq_map]
  have h0 := h 0 hn
  rw [foldGot, h0, List.map_cons, List.foldl_cons, zero_winAdd]
  refine foldGot_accumAdd _ (d 0) fun k hk => h k ?_
  obtain ⟨i, hi, rfl⟩ := List.mem_map.mp hk
  exact Nat.succ_lt_succ (List.mem_range.mp hi)

/-- Settles O48: products convert by their value, and the sums of window words are sums of integers and joins of flags. -/
theorem anchoredSums : Obligations.AnchoredSums := by
  refine ⟨fun a x y eA eB hx hy hA hB => ?_, fun a => ⟨rfl, rfl, rfl⟩, fun xs ys => foldl_winAdd_perm, foldl_winAdd_append,
    fun xs => ⟨foldl_winAdd_w xs, foldl_winAdd_flags xs⟩, fun g l x d hpos hdot => foldGot_accumAdd_range hpos hdot,
    fun s q b q0 n r c d hpos hread => foldGot_accumAdd_range hpos hread⟩
  obtain ⟨hp, hval⟩ := numVal_scaledProduct hx hy hA hB
  intro p c sign
  refine ⟨fun h => ?_, fun h => ?_⟩
  · have hc : c = _ := convertProduct_of_lt hp (hval ▸ h)
    rw [hc, hval]
    exact ⟨rfl, rfl⟩
  · have hc : c = _ := convertProduct_of_ge hp (hval ▸ h)
    rw [hc, hval]
    exact ⟨rfl, rfl⟩

end Sys2Proof.Machine
end

section
/-!
The records of commands and the state of engines: what their updates give back and leave alone (05_macro R121, R146, R150; 03_arithmetic R87).
-/

namespace Sys2Proof.Machine

/-! ### Updates of records -/

/-- `t` is `s` but for the records of commands. -/
def OnlyMacros (s t : State) : Prop := ∃ dies hubMacros, t = { s with dies, hubMacros }

theorem OnlyMacros.refl (s : State) : OnlyMacros s s := ⟨_, _, rfl⟩

theorem OnlyMacros.mem_eq {s t : State} (h : OnlyMacros s t) : t.mem = s.mem := by
  obtain ⟨_, _, rfl⟩ := h
  rfl

theorem OnlyMacros.ecAt_eq {s t : State} (h : OnlyMacros s t) (e : Nat) : t.ecAt e = s.ecAt e := by
  obtain ⟨_, _, rfl⟩ := h
  rfl

theorem OnlyMacros.engineAt_eq {s t : State} (h : OnlyMacros s t) (e g : Nat) : t.engineAt e g = s.engineAt e g := by
  rw [State.engineAt, h.ecAt_eq, State.engineAt]

theorem setMacro_onlyMacros (s : State) (port : Nat) (r : MacroRec) : OnlyMacros s (setMacro s port r) := by
  unfold setMacro setMacros
  split <;> exact ⟨_, _, rfl⟩

theorem noteUse_onlyMacros (s : State) (port acc : Nat) (compat : Bool) (ep : BitVec 16) : OnlyMacros s (noteUse s port acc compat ep) := by
  unfold noteUse noteEpoch
  split
  · exact .refl s
  · split
    · exact .refl s
    · exact setMacro_onlyMacros _ _ _

theorem addFlags_onlyMacros (s : State) (port acc : Nat) (fl : BitVec 16) : OnlyMacros s (addFlags s port acc fl) := by
  unfold addFlags
  split
  · exact .refl s
  · exact setMacro_onlyMacros _ _ _

theorem tileDrained_onlyMacros (s : State) (port acc tile : Nat) (fl : BitVec 16) : OnlyMacros s (tileDrained s port acc tile fl) := by
  unfold tileDrained
  split
  · exact .refl s
  · exact setMacro_onlyMacros _ _ _

theorem keepFloors_onlyMacros (s : State) (port acc : Nat) (c : AttCmd) (w : BlockWork) (plane : Nat) (sp : SpanRun) :
    OnlyMacros s (keepFloors s port acc c w plane sp) := by
  unfold keepFloors
  split
  · exact .refl s
  · exact setMacro_onlyMacros _ _ _

/-! ### Records read back -/

section records

variable {s : State} {port acc : Nat} {y : MacroRec}

theorem macrosOf_setMacros (s : State) (port : Nat) (l : List MacroRec) : macrosOf (setMacros s port l) port = l := by
  by_cases h : port < 4 <;> simp [macrosOf, setMacros, h]

/-- A record stands under its acceptance number. -/
theorem acc_of_macroAt (h : macroAt s port acc = some y) : y.acc = acc := by simpa using List.find?_some h

/-- A record that replaces one with its acceptance number is the one found under it. -/
theorem macroAt_setMacro (h : macroAt s port acc = some y) {r : MacroRec} (hr : r.acc = acc) : macroAt (setMacro s port r) port acc = some r := by
  subst hr
  rw [macroAt, setMacro, macrosOf_setMacros, List.find?_map]
  have hsame : ((fun x => x.acc == r.acc) ∘ fun x : MacroRec => if x.acc == r.acc then r else x) = fun x => x.acc == r.acc := by
    funext x
    by_cases hx : x.acc = r.acc <;> simp [hx]
  rw [hsame]
  have hfound : (macrosOf s port).find? (fun x => x.acc == r.acc) = some y := h
  rw [hfound]
  simp [acc_of_macroAt h]

theorem macroAt_noteUse (h : macroAt s port acc = some y) (compat : Bool) (ep : BitVec 16) : macroAt (noteUse s port acc compat ep) port acc =
    some { y with epochs := if compat then y.epochs else y.epochs ++ [ep] } := by
  cases compat
  · have hacc := acc_of_macroAt h
    simp only [noteUse, noteEpoch, Bool.false_eq_true, if_false, h]
    exact macroAt_setMacro h hacc
  · exact h

theorem macroAt_addFlags (h : macroAt s port acc = some y) (fl : BitVec 16) :
    macroAt (addFlags s port acc fl) port acc = some { y with aflags := y.aflags ||| fl } := by
  have hacc := acc_of_macroAt h
  simp only [addFlags, h]
  exact macroAt_setMacro h hacc

/-- A drained tile joins its flags and is no longer taken. -/
theorem macroAt_tileDrained (h : macroAt s port acc = some y) (tile : Nat) (fl : BitVec 16) :
    ∃ z, macroAt (tileDrained s port acc tile fl) port acc = some z ∧ z.aflags = y.aflags ||| fl ∧ z.epochs = y.epochs ∧ tile ∉ z.taken := by
  have hacc := acc_of_macroAt h
  simp only [tileDrained, h]
  exact ⟨_, macroAt_setMacro h hacc, rfl, rfl, by simp⟩

end records

/-! ### Engines -/

@[simp] theorem engineAt_setEngine (s : State) (e g : Nat) (x : Engine) : (s.setEngine e g x).engineAt e g = x := by
  rw [State.engineAt, State.setEngine, ecAt_modEc]
  exact tabGet_tabSet_same _ _ _ _

theorem engineAt_modEc (s : State) (e g : Nat) (f : Ec → Ec) : (s.modEc e f).engineAt e g = (f (s.ecAt e)).engineAt g := by
  rw [State.engineAt, ecAt_modEc]

theorem ecAt_setEngine (s : State) (e g : Nat) (x : Engine) : (s.setEngine e g x).ecAt e = (s.ecAt e).setEngine g x := ecAt_modEc _ _ _

/-- The end of a tile adds at most a combine step to its engine. -/
theorem finishTile_frame (s : State) (e g : Nat) (run : TileRun) (fl : BitVec 16) : (finishTile s e g run fl).mem = s.mem ∧
    ∃ l, (finishTile s e g run fl).engineAt e g = { s.engineAt e g with combines := l } := by
  have hdrained := tileDrained_onlyMacros s (ecDie e) run.acc run.tile fl
  have hsame : (tileDrained s (ecDie e) run.acc run.tile fl).engineAt e g = { s.engineAt e g with combines := (s.engineAt e g).combines } :=
    hdrained.engineAt_eq e g
  simp only [finishTile]
  split
  · exact ⟨hdrained.mem_eq, _, hsame⟩
  · split
    · exact ⟨hdrained.mem_eq, _, by rw [engineAt_setEngine, hdrained.engineAt_eq]⟩
    · exact ⟨hdrained.mem_eq, _, hsame⟩

/-- An engine that has done its row block goes on with its next tile. -/
theorem endBlock_frame (s : State) (e g : Nat) (run : TileRun) (fl : BitVec 16) : (endBlock s e g run fl).mem = s.mem ∧
    ((endBlock s e g run fl).engineAt e g).span = none ∧ ((endBlock s e g run fl).engineAt e g).current = (s.engineAt e g).next := by
  obtain ⟨hmem, l, hengine⟩ := finishTile_frame
    (s.setEngine e g { s.engineAt e g with span := none, current := (s.engineAt e g).next, next := none }) e g run fl
  rw [engineAt_setEngine] at hengine
  exact ⟨hmem, congrArg Engine.span hengine, congrArg Engine.current hengine⟩

/-! ### The score store (06_attend R168) -/

/-- A unit that does not get the score store waits for it and changes nothing else of its EC. -/
theorem scoreAsk_refused {c : Ec} {u : Fin 3} (h : (scoreAsk c u).1 = false) :
    u ∈ (scoreAsk c u).2.scoreWaiters ∧ ∃ l, (scoreAsk c u).2 = { c with scoreWaiters := l } := by
  unfold scoreAsk at h ⊢
  split_ifs at h ⊢ with hown hfree hmem
  · exact ⟨by simpa using hmem, _, rfl⟩
  · exact ⟨by simp, _, rfl⟩

end Sys2Proof.Machine
end

section
/-!
Steps of the row unit (03_arithmetic R87; 05_macro R153, R155; 06_attend R168): the grant of the score store, row tiles, and phase 2 of a CHAIN.
-/

namespace Sys2Proof.Machine

open Sys2Proof.Claims

/-! ### The rows -/

theorem exec_scoreStoreGrant (ec : Fin 128) (s : State) : exec (.scoreStoreGrant ec) s = execScoreStoreGrant ec s := rfl
theorem exec_rowTile (ec : Fin 128) (acc : Nat) (s : State) : exec (.rowTile ec acc) s = execRowTile ec acc s := rfl

/-- The EC whose engine `g` goes on from phase 2 of a CHAIN to phase 3, in the next region; the score store is free. -/
def phaseThree (k : ChainCmd) (g : Nat) (run : TileRun) (x : Ec) : Ec :=
  let m := takeRegion (anchoredFormat k.xfmt, 64 * k.tileB) (x.engineAt g).region
  { x.setEngine g { x.engineAt g with current := some { run with phase := 3, region := m.1 }, region := m.2 } with scoreOwner := none }

theorem phaseThree_engineAt (k : ChainCmd) (g : Nat) (run : TileRun) (x : Ec) : (phaseThree k g run x).engineAt g =
    let m := takeRegion (anchoredFormat k.xfmt, 64 * k.tileB) (x.engineAt g).region
    { x.engineAt g with current := some { run with phase := 3, region := m.1 }, region := m.2 } := tabGet_tabSet_same _ _ _ _

section rowUnit

variable {s : State} {ec : Fin 128} {acc : Nat} (hclk : coreClocks s = true)
include hclk

theorem scoreStoreGrant_gives {u : Fin 3} {rest : List (Fin 3)} (hwait : (s.ecAt ec.val).scoreWaiters = u :: rest)
    (hfree : (s.ecAt ec.val).scoreOwner = none) : Gives (.scoreStoreGrant ec) s
      (s.setEc ec.val { s.ecAt ec.val with scoreOwner := some u, scoreWaiters := rest }) := by
  simp only [Gives, exec_scoreStoreGrant, execScoreStoreGrant, whileClocked_of_clock hclk, hwait, hfree, Option.isNone_none, whenEnabled_true]

variable (hissue : ecIssues s ec.val = true) {r : MacroRec} (hr : macroAt s (ecDie ec.val) acc = some r)

/-- What is left when a row tile has written its rows: the row unit is free, the epoch noted, and the score store given back. -/
def rowTileEnd (u : State) (e : Nat) (acc : Nat) (compat : Bool) (ep : BitVec 16) : State :=
  (noteUse (rowUnitDone u e) (ecDie e) acc compat ep).modEc e fun x => if x.scoreOwner = some 2 then { x with scoreOwner := none } else x

omit hclk in
theorem rowTileEnd_spec (u : State) (e acc : Nat) (compat : Bool) (ep : BitVec 16) : (rowTileEnd u e acc compat ep).mem = u.mem ∧
    ((rowTileEnd u e acc compat ep).ecAt e).rowUnit.current = none ∧ ((rowTileEnd u e acc compat ep).ecAt e).scoreOwner ≠ some 2 := by
  have hnote := noteUse_onlyMacros (rowUnitDone u e) (ecDie e) acc compat ep
  rw [rowTileEnd, modEc_mem, ecAt_modEc, hnote.mem_eq, hnote.ecAt_eq, rowUnitDone, ecAt_modEc]
  refine ⟨rfl, ?_⟩
  split
  · exact ⟨rfl, nofun⟩
  · exact ⟨rfl, ‹_›⟩

include hissue hr

/-- R87, R155: a row tile of NORM or ROWFN. -/
theorem rowTile_gives {run : TileRun} {k : RowCmd} {u : State} {fl : BitVec 16} {y : MacroRec} (hop : wOpcode r.word ≠ 2)
    (hrun : (s.ecAt ec.val).rowUnit.current = some run) (hacc : run.acc = acc) (hk : rowCmd s (reqOf s r) r.word = .ok k)
    (hask : k.norm = false → k.func = 0x10 → (scoreAsk (s.ecAt ec.val) 2).1 = true)
    (hu : rowTileRun s (reqOf s r) (runningBank (s.ecAt ec.val).rowUnit).1 ec.val k
      ((rowTiles k).getD run.tile { batch := 0, i := 0, j := 0, k := 0 }) = .ok (u, fl))
    (hy : macroAt u (ecDie ec.val) acc = some y) :
    ∃ t, Gives (.rowTile ec acc) s t ∧ t.mem = u.mem ∧ (t.ecAt ec.val).rowUnit.current = none ∧ (t.ecAt ec.val).scoreOwner ≠ some 2 ∧
      ∃ z, macroAt t (ecDie ec.val) acc = some z ∧ z.aflags = y.aflags ||| fl ∧
        z.epochs = (if k.compat = true then y.epochs else y.epochs ++ [(runningBank (s.ecAt ec.val).rowUnit).2]) ∧ run.tile ∉ z.taken := by
  have hracc := acc_of_macroAt hr
  have hstore : (!k.norm && k.func == 0x10 && !(scoreAsk (s.ecAt ec.val) 2).1) = false := by
    by_contra h
    simp only [Bool.not_eq_false, Bool.and_eq_true, Bool.not_eq_true', beq_iff_eq] at h
    simp [hask h.1.1 h.1.2] at h
  have hgives : Gives (.rowTile ec acc) s (tileDrained (rowTileEnd u ec.val acc k.compat (runningBank (s.ecAt ec.val).rowUnit).2)
      (ecDie ec.val) acc run.tile fl) := by
    simp only [Gives, exec_rowTile, execRowTile, whileClocked_of_clock hclk, hr, hissue, hop, hrun, hacc, rowTileStep, hk, hstore, hu, hracc,
      rowTileEnd, beq_self_eq_true, whenEnabled_true, Bool.not_true, Bool.false_eq_true, if_false]
  obtain ⟨hmem, hunit, hscore⟩ := rowTileEnd_spec u ec.val acc k.compat (runningBank (s.ecAt ec.val).rowUnit).2
  have hdrained := tileDrained_onlyMacros (rowTileEnd u ec.val acc k.compat (runningBank (s.ecAt ec.val).rowUnit).2) (ecDie ec.val) acc run.tile fl
  have hnoted := macroAt_noteUse (s := rowUnitDone u ec.val) hy k.compat (runningBank (s.ecAt ec.val).rowUnit).2
  obtain ⟨z, hz, hflags, hepochs, htaken⟩ := macroAt_tileDrained
    (s := rowTileEnd u ec.val acc k.compat (runningBank (s.ecAt ec.val).rowUnit).2) hnoted run.tile fl
  refine ⟨_, hgives, hdrained.mem_eq.trans hmem, ?_, ?_, z, hz, hflags, hepochs, htaken⟩
  · rw [hdrained.ecAt_eq, hunit]
  · rw [hdrained.ecAt_eq]
    exact hscore

/-- R153: phase 2 of a row block of CHAIN gives the score store back, and its engine goes on with phase 3 in the next region. -/
theorem chainRow_gives {eng : Fin 2} {k : ChainCmd} {w : RecWork} {run : TileRun} {b : Nat × View × View} {u : State} {fl : BitVec 16}
    (hop : wOpcode r.word = 2) (hwait : chainWaiting s ec.val r.acc = some eng) (hk : chainCmd s (reqOf s r) r.word = .ok k)
    (hw : recWork s (reqOf s r) r.word = .ok w) (hrun : (s.engineAt ec.val eng.val).current = some run)
    (hb : chainBatch s (reqOf s r) k (w.tiles.getD run.tile { batch := 0, i := 0, j := 0, k := 0 }).batch = .ok b)
    (hu : chainPhase2 s (reqOf s r) ec.val eng.val k (w.tiles.getD run.tile { batch := 0, i := 0, j := 0, k := 0 }) b.1 = .ok (u, fl)) :
    ∃ t, Gives (.rowTile ec acc) s t ∧ t.mem = u.mem ∧ (t.ecAt ec.val).scoreOwner = none ∧
      let m := takeRegion (anchoredFormat k.xfmt, 64 * k.tileB) (u.engineAt ec.val eng.val).region
      (t.engineAt ec.val eng.val).current = some { run with phase := 3, region := m.1 } ∧ (t.engineAt ec.val eng.val).region = m.2 ∧
      ∀ y, macroAt u (ecDie ec.val) r.acc = some y → ∃ z, macroAt t (ecDie ec.val) r.acc = some z ∧ z.aflags = y.aflags ||| fl := by
  have hgives : Gives (.rowTile ec acc) s ((noteUse (addFlags u (ecDie ec.val) r.acc fl) (ecDie ec.val) r.acc k.compat
      (u.ecAt ec.val).rowUnit.epoch).modEc ec.val (phaseThree k eng.val run)) := by
    simp only [Gives, exec_rowTile, execRowTile, whileClocked_of_clock hclk, hr, hissue, hop, chainRowStep, hwait, hk, hw, hrun, hb, hu,
      Bool.not_true, Bool.false_eq_true, if_false, if_true]
    rfl
  have hadd := addFlags_onlyMacros u (ecDie ec.val) r.acc fl
  have hnote := noteUse_onlyMacros (addFlags u (ecDie ec.val) r.acc fl) (ecDie ec.val) r.acc k.compat (u.ecAt ec.val).rowUnit.epoch
  have hec := (hnote.ecAt_eq ec.val).trans (hadd.ecAt_eq ec.val)
  refine ⟨_, hgives, hnote.mem_eq.trans hadd.mem_eq, ?_, ?_⟩
  · rw [ecAt_modEc]
    rfl
  · rw [engineAt_modEc, phaseThree_engineAt, hec]
    exact ⟨rfl, rfl, fun y hy => ⟨_, macroAt_noteUse (macroAt_addFlags hy fl) _ _, rfl⟩⟩

end rowUnit

end Sys2Proof.Machine
end

section
/-!
The spans of ATTEND on an engine (06_attend R167 to R174, R180): what the passes and the row unit's work leave in memory, in the span and in
the units.
-/

namespace Sys2Proof.Machine

open Sys2Proof.Claims

/-! ### The rows -/

theorem exec_spanPassOne (ec : Fin 128) (eng : Fin 2) (s : State) : exec (.spanPassOne ec eng) s = execSpanPassOne ec eng s := rfl
theorem exec_spanPassTwo (ec : Fin 128) (eng : Fin 2) (s : State) : exec (.spanPassTwo ec eng) s = execSpanPassTwo ec eng s := rfl
theorem exec_spanRowUnit (ec : Fin 128) (s : State) : exec (.spanRowUnit ec) s = execSpanRowUnit ec s := rfl

/-! ### The row block of an engine -/

/-- An engine that may issue works on a row block of ATTEND: its tile and record, the command with its sequences, and the block's bales and rows. -/
structure Attends (s : State) (ec : Fin 128) (eng : Fin 2) (run : TileRun) (r : MacroRec) (k : AttCmd) (seqs : List SeqPart) (tile : TileId)
    (wk : RecWork) (w : BlockWork) : Prop where
  clocked : coreClocks s = true
  issues : ecIssues s ec.val = true
  runs : attendRun s ec.val eng.val = some (run, r, .ok (k, seqs, tile, wk))
  works : blockWork s (reqOf s r) (ecDie ec.val) k seqs tile = .ok w

/-- The span that an engine is at: the one that it holds, or the first of its row block. -/
abbrev spanAt (s : State) (e g : Nat) (k : AttCmd) (run : TileRun) (w : BlockWork) : SpanRun := (s.engineAt e g).span.getD (startSpan k run w.rows.length)

/-- The span whose keys a pass takes: a split has one of its own. -/
abbrev spanNo (k : AttCmd) (tile : TileId) (sp : SpanRun) : Nat := if k.place = 1 then tile.sub % max k.nsplit 1 else sp.span

/-- The state in which the bales of a row block have been looked up, at its first pass. -/
abbrev blockLookedUp (s : State) (e g : Nat) (r : MacroRec) (k : AttCmd) (seqs : List SeqPart) (tile : TileId) : State :=
  if (s.engineAt e g).span.isSome then s else labUseAll s (reqOf s r) (ecDie e) k.t (attLookups s (reqOf s r) k seqs tile)

/-- The state in which an engine that has looked up its bales has asked for the score store. -/
abbrev spanBegun (s : State) (e : Nat) (eng : Fin 2) (r : MacroRec) (k : AttCmd) (seqs : List SeqPart) (tile : TileId) : State :=
  (blockLookedUp s e eng.val r k seqs tile).setEc e (scoreAsk ((blockLookedUp s e eng.val r k seqs tile).ecAt e) (engineUnit eng)).2

/-- The step ends the row block of an engine, with the memory of `u`: no span is left, and the engine goes on with its next tile. -/
def EndsBlock (i : Instr) (s u : State) (e g : Nat) : Prop :=
  ∃ t, Gives i s t ∧ t.mem = u.mem ∧ (t.engineAt e g).span = none ∧ (t.engineAt e g).current = (u.engineAt e g).next

theorem EndsBlock.of_endBlock {i : Instr} {s u : State} {e g : Nat} {run : TileRun} {fl : BitVec 16} (h : Gives i s (endBlock u e g run fl)) :
    EndsBlock i s u e g := ⟨_, h, endBlock_frame u e g run fl⟩

/-- The state in which a split keeps how many scores of its rows were raised to the floor (R180). -/
def floorsKept (u : State) (e : Nat) (r : MacroRec) (k : AttCmd) (tile : TileId) (w : BlockWork) (sp : SpanRun) : State :=
  if k.place = 1 then keepFloors u (ecDie e) r.acc k w tile.j sp else u

theorem floorsKept_onlyMacros (u : State) (e : Nat) (r : MacroRec) (k : AttCmd) (tile : TileId) (w : BlockWork) (sp : SpanRun) :
    OnlyMacros u (floorsKept u e r k tile w sp) := by
  unfold floorsKept
  split
  · exact keepFloors_onlyMacros ..
  · exact .refl u

/-- The state in which the row unit has done its work on a span: the score store is free, and the epoch noted. -/
def rowUnitLeft (v : State) (e : Nat) (r : MacroRec) (k : AttCmd) : State :=
  noteUse (v.modEc e fun x => { x with scoreOwner := none }) (ecDie e) r.acc k.compat
    ((v.modEc e fun x => { x with scoreOwner := none }).ecAt e).rowUnit.epoch

/-- Pass two of a native span goes on to the next span, at its pass one. -/
theorem passTwo_next (s : State) (e g : Nat) (k : AttCmd) (w : BlockWork) (sp : SpanRun) :
    (passTwo s e g k w sp).2.span = sp.span + 1 ∧ (passTwo s e g k w sp).2.stage = 1 :=
  List.foldlRecOn (motive := fun st : State × SpanRun => st.2.span = sp.span + 1 ∧ st.2.stage = 1) _ _ ⟨rfl, rfl⟩ fun _ h _ _ => h

section attend

variable {s : State} {ec : Fin 128} {eng : Fin 2} {run : TileRun} {r : MacroRec} {k : AttCmd} {seqs : List SeqPart} {tile : TileId}
  {wk : RecWork} {w : BlockWork} (h : Attends s ec eng run r k seqs tile wk w)
include h

/-! ### Pass one (R167) -/

/-- A native row block without spans has no pass one. -/
theorem spanPassOne_stays (hsplit : k.place ≠ 1) (hspans : w.spans = []) : Gives (.spanPassOne ec eng) s s := by
  simp only [Gives, exec_spanPassOne, execSpanPassOne, whileClocked_of_clock h.clocked, h.issues, h.runs, h.works, hspans]
  simp [hsplit]

section due

variable (hstage : (spanAt s ec.val eng.val k run w).stage = 1) (hmany : k.place = 1 → w.spans.length ≤ k.nsplit)
  (hsome : k.place = 1 ∨ w.spans ≠ [])
include hstage hmany hsome

omit h in
/-- A span at its pass one is not turned away. -/
theorem passOne_due : ¬(k.place = 1 ∧ k.nsplit < w.spans.length) ∧
    ¬((spanAt s ec.val eng.val k run w).stage ≠ 1 ∨ ¬k.place = 1 ∧ w.spans = []) := by
  refine ⟨fun hc => absurd (hmany hc.1) (not_le.mpr hc.2), ?_⟩
  rintro (hc | ⟨hc, hnil⟩)
  · exact hc hstage
  · exact hsome.elim hc fun hne => hne hnil

/-- R168: pass one waits for the score store and counts the cycle. -/
theorem spanPassOne_waits (hask : (scoreAsk (s.ecAt ec.val) (engineUnit eng)).1 = false) :
    ∃ t, Gives (.spanPassOne ec eng) s t ∧ OnlyEc s t ec.val ∧ (t.ecAt ec.val).engines = (s.ecAt ec.val).engines ∧
      (t.ecAt ec.val).counters = bumpBy (s.ecAt ec.val).counters cntStallScore 1 ∧ engineUnit eng ∈ (t.ecAt ec.val).scoreWaiters := by
  obtain ⟨hfits, hdue⟩ := passOne_due hstage hmany hsome
  have hgives : Gives (.spanPassOne ec eng) s
      (bumpEc (s.setEc ec.val (scoreAsk (s.ecAt ec.val) (engineUnit eng)).2) ec.val cntStallScore) := by
    simp only [Gives, exec_spanPassOne, execSpanPassOne, whileClocked_of_clock h.clocked, h.issues, h.runs, h.works, hask,
      beq_iff_eq, Bool.not_true, Bool.not_false, Bool.not_eq_true', beq_eq_false_iff_ne, Bool.false_eq_true, if_false, if_true]
    rw [if_neg hfits, if_neg hdue]
  obtain ⟨hmem, l, hec⟩ := scoreAsk_refused hask
  refine ⟨_, hgives, ⟨rfl, fun i hi => ?_⟩, ?_, ?_, ?_⟩
  · rw [bumpEc, bumpEcBy, ecAt_modEc_ne _ _ _ _ hi, ecAt_setEc_ne _ _ _ _ hi]
  all_goals rw [bumpEc, bumpEcBy, ecAt_modEc, ecAt_setEc]
  · rw [hec]
  · rw [hec]
  · exact hmem

variable (hask : (scoreAsk (s.ecAt ec.val) (engineUnit eng)).1 = true) {v u : State} {sp : SpanRun}
  (hv : stageSpan (spanBegun s ec.val eng r k seqs tile) (reqOf s r) ec.val eng.val k w tile.j
    (spanNo k tile (spanAt s ec.val eng.val k run w)) (k.place == 1 || (spanAt s ec.val eng.val k run w).span == 0) = .ok v)
  (hu : passOne v (reqOf s r) ec.val eng.val k w tile.j (spanAt s ec.val eng.val k run w)
    (spanNo k tile (spanAt s ec.val eng.val k run w)) = .ok (u, sp))
include hask hv hu

/-- The scores of a span are in the score store, and its engine holds the span. -/
theorem spanPassOne_gives (hround : ¬(k.place = 1 ∧ run.tile < wk.half)) :
    ∃ t, Gives (.spanPassOne ec eng) s t ∧ t.mem = u.mem ∧ (t.engineAt ec.val eng.val).span = some sp := by
  obtain ⟨hfits, hdue⟩ := passOne_due hstage hmany hsome
  have hkept := floorsKept_onlyMacros u ec.val r k tile w sp
  have hgives : Gives (.spanPassOne ec eng) s ((floorsKept u ec.val r k tile w sp).setEngine ec.val eng.val
      { (floorsKept u ec.val r k tile w sp).engineAt ec.val eng.val with span := some sp }) := by
    simp only [Gives, exec_spanPassOne, execSpanPassOne, whileClocked_of_clock h.clocked, h.issues, h.runs, h.works, hask,
      beq_iff_eq, Bool.not_true, Bool.not_eq_true', beq_eq_false_iff_ne, Bool.false_eq_true, if_false]
    rw [if_neg hfits, if_neg hdue, hv]
    simp only [Except.bind, hu]
    rw [if_neg hround]
    rfl
  exact ⟨_, hgives, hkept.mem_eq, by rw [engineAt_setEngine]⟩

/-- R180: the first round of a split ends with the maxima of its rows. -/
theorem spanPassOne_endsRound (hsplit : k.place = 1) (hround : run.tile < wk.half) {x : State}
    (hx : foldGot (fun v (m : BitVec 32 × Nat) => uWriteNat v (reqOf s r)
      (splitMaxAddr k (spanNo k tile (spanAt s ec.val eng.val k run w)) (tile.j * k.q.rows + (w.rows.getD m.2 ⟨0, 0, 0, 0, 0⟩).row)) 4
      m.1.toNat) u sp.rowMax.zipIdx = .ok x) : EndsBlock (.spanPassOne ec eng) s x ec.val eng.val := by
  obtain ⟨hfits, hdue⟩ := passOne_due hstage hmany hsome
  have hgives : Gives (.spanPassOne ec eng) s (endBlock (x.modEc ec.val fun c => { c with scoreOwner := none }) ec.val eng.val run sp.flags) := by
    simp only [Gives, exec_spanPassOne, execSpanPassOne, whileClocked_of_clock h.clocked, h.issues, h.runs, h.works, hask,
      beq_iff_eq, Bool.not_true, Bool.not_eq_true', beq_eq_false_iff_ne, Bool.false_eq_true, if_false]
    rw [if_neg hfits, if_neg hdue, hv]
    simp only [Except.bind, hu]
    rw [if_pos ⟨hsplit, hround⟩, hx]
  obtain ⟨t, ht, hmem, hspan, hcurrent⟩ := EndsBlock.of_endBlock hgives
  exact ⟨t, ht, hmem, hspan, by rw [hcurrent, engineAt_modEc]; rfl⟩

end due

/-! ### Pass two (R170, R172, R173) -/

section native

variable (hsplit : k.place ≠ 1)
include hsplit

/-- A native span that is not the last of its block is followed by the next one. -/
theorem spanPassTwo_goesOn (hstage : (spanAt s ec.val eng.val k run w).stage = 3)
    (hmore : (spanAt s ec.val eng.val k run w).span + 1 < w.spans.length) :
    Gives (.spanPassTwo ec eng) s
      ((passTwo s ec.val eng.val k w (spanAt s ec.val eng.val k run w)).1.setEngine ec.val eng.val
        { (passTwo s ec.val eng.val k w (spanAt s ec.val eng.val k run w)).1.engineAt ec.val eng.val with
          span := some (passTwo s ec.val eng.val k w (spanAt s ec.val eng.val k run w)).2 }) := by
  have hsome : w.spans ≠ [] := by
    rintro hnil
    simp [hnil] at hmore
  simp only [Gives, exec_spanPassTwo, execSpanPassTwo, whileClocked_of_clock h.clocked, h.issues, h.runs, h.works, hstage, hsplit, hsome,
    Bool.not_true, Bool.false_eq_true, if_false, true_or, if_true]
  rw [if_pos (by rwa [(passTwo_next ..).1])]

/-- R173: the last native span of a block resolves its rows. -/
theorem spanPassTwo_resolves (hstage : (spanAt s ec.val eng.val k run w).stage = 3) (hsome : w.spans ≠ [])
    (hlast : w.spans.length ≤ (spanAt s ec.val eng.val k run w).span + 1) {u : State} {fl : BitVec 16}
    (hu : resolveBlock (passTwo s ec.val eng.val k w (spanAt s ec.val eng.val k run w)).1 (reqOf s r) ec.val eng.val k w tile.j
      (passTwo s ec.val eng.val k w (spanAt s ec.val eng.val k run w)).2 = .ok (u, fl)) : EndsBlock (.spanPassTwo ec eng) s u ec.val eng.val := by
  refine .of_endBlock (run := run) (fl := fl) ?_
  simp only [Gives, exec_spanPassTwo, execSpanPassTwo, whileClocked_of_clock h.clocked, h.issues, h.runs, h.works, hstage, hsplit, hsome,
    Bool.not_true, Bool.false_eq_true, if_false, true_or, if_true]
  rw [if_neg (by rw [(passTwo_next ..).1]; exact not_lt.mpr hlast), hu]

/-- A native block without spans resolves at once. -/
theorem spanPassTwo_resolvesEmpty (hnil : w.spans = []) {u : State} {fl : BitVec 16}
    (hu : resolveBlock (noteUse s (ecDie ec.val) r.acc k.compat (s.ecAt ec.val).rowUnit.epoch) (reqOf s r) ec.val eng.val k w tile.j
      (spanAt s ec.val eng.val k run w) = .ok (u, fl)) : EndsBlock (.spanPassTwo ec eng) s u ec.val eng.val := by
  refine .of_endBlock (run := run) (fl := fl) ?_
  simp only [Gives, exec_spanPassTwo, execSpanPassTwo, whileClocked_of_clock h.clocked, h.issues, h.runs, h.works, hsplit, hnil,
    Bool.not_true, Bool.false_eq_true, if_false, or_true, if_true, List.length_nil, Nat.not_lt_zero, hu]

end native

/-- R180, R181: the one span of a split writes its plane. -/
theorem spanPassTwo_writesSplit (hsplit : k.place = 1) (hstage : (spanAt s ec.val eng.val k run w).stage = 3) {u : State} {fl : BitVec 16}
    (hu : splitPassTwo s (reqOf s r) ec.val eng.val k w tile.j (tile.sub % max k.nsplit 1) (spanAt s ec.val eng.val k run w) = .ok (u, fl)) :
    EndsBlock (.spanPassTwo ec eng) s u ec.val eng.val := by
  refine .of_endBlock (run := run) (fl := fl) ?_
  simp only [Gives, exec_spanPassTwo, execSpanPassTwo, whileClocked_of_clock h.clocked, h.issues, h.runs, h.works, hsplit, hstage,
    Bool.not_true, Bool.false_eq_true, if_false, if_true, ne_eq, not_true_eq_false, hu]

/-! ### The row unit's work on a span (R169) -/

/-- The row unit's work on a span leaves the factors and triples in it, and the score store free. -/
theorem spanRowUnit_gives (hown : (s.ecAt ec.val).scoreOwner = some (engineUnit eng)) {sp : SpanRun}
    (hspan : (s.engineAt ec.val eng.val).span = some sp) (hstage : sp.stage = 2) {v : State} {sp' : SpanRun}
    (hv : rowUnitSpan s (reqOf s r) ec.val eng.val k w tile.j sp (spanNo k tile sp) = .ok (v, sp')) :
    ∃ t, Gives (.spanRowUnit ec) s t ∧ t.mem = v.mem ∧ (t.ecAt ec.val).scoreOwner = none ∧ (t.engineAt ec.val eng.val).span = some sp' := by
  have hgives : Gives (.spanRowUnit ec) s ((rowUnitLeft v ec.val r k).setEngine ec.val eng.val
      { (rowUnitLeft v ec.val r k).engineAt ec.val eng.val with span := some sp' }) := by
    have hunit : (engineUnit eng).val = eng.val := rfl
    simp only [Gives, exec_spanRowUnit, execSpanRowUnit, whileClocked_of_clock h.clocked, h.issues, hown, hunit, h.runs, hspan, hstage, h.works, hv,
      Bool.not_true, Bool.false_eq_true, if_false, ne_eq, not_true_eq_false]
    rfl
  have hleft := noteUse_onlyMacros (v.modEc ec.val fun x => { x with scoreOwner := none }) (ecDie ec.val) r.acc k.compat
    ((v.modEc ec.val fun x => { x with scoreOwner := none }).ecAt ec.val).rowUnit.epoch
  refine ⟨_, hgives, hleft.mem_eq, ?_, by rw [engineAt_setEngine]⟩
  rw [ecAt_setEngine, rowUnitLeft, hleft.ecAt_eq, ecAt_modEc]
  rfl

end attend

/-- Settles O40: the grant of the score store, row tiles, phase 2 of a CHAIN, and the passes of a span of ATTEND, each by its own lemma. -/
theorem rowTilesAndSpans : Obligations.RowTilesAndSpans := by
  intro s ec eng acc e g d c x one two BlockEnds hclk
  refine ⟨fun u rest hwait hfree => scoreStoreGrant_gives hclk hwait hfree, fun hissue => ⟨?row, ?chain, ?attend, ?rowUnit⟩⟩
  case row =>
    intro r run k u fl y hr hop hrun hacc hk hask hu hy
    exact rowTile_gives hclk hissue hr hop hrun hacc hk hask hu hy
  case chain =>
    intro r k w run b u fl hr hop hwait hk hw hrun tile hb hu
    exact chainRow_gives hclk hissue hr hop hwait hk hw hrun hb hu
  case attend =>
    intro run r k seqs tile wk w hrun hwork q sp split n ask looked s1
    have h : Attends s ec eng run r k seqs tile wk w := ⟨hclk, hissue, hrun, hwork⟩
    refine ⟨spanPassOne_stays h, fun hstage hmany hsome => ⟨spanPassOne_waits h hstage hmany hsome, fun hask v u sp' hv hu => ⟨?_, ?_⟩⟩,
      fun hstage hsplit hsome => ⟨fun hmore => ⟨spanPassTwo_goesOn h hsplit hstage hmore, passTwo_next ..⟩,
        fun hlast u fl hu => spanPassTwo_resolves h hsplit hstage hsome hlast hu⟩,
      fun hsplit hnil u fl hu => spanPassTwo_resolvesEmpty h hsplit hnil hu,
      fun hstage hsplit u fl hu => spanPassTwo_writesSplit h hsplit hstage hu⟩
    · exact spanPassOne_gives h hstage hmany hsome hask hv hu
    · exact fun hsplit hround v' hx => spanPassOne_endsRound h hstage hmany hsome hask hv hu hsplit hround hx
  case rowUnit =>
    intro run r k seqs tile wk w sp v sp' hown hrun hspan hstage hwork hv
    exact spanRowUnit_gives ⟨hclk, hissue, hrun, hwork⟩ hown hspan hstage hv

end Sys2Proof.Machine
end

section
/-!
Drains of accumulator regions and combine steps of an engine (04_matrix R114; 05_macro R122, R150 to R152).
-/

namespace Sys2Proof.Machine

open Sys2Proof.Claims

/-! ### The rows -/

theorem exec_accumulatorDrain (ec : Fin 128) (eng : Fin 2) (s : State) : exec (.accumulatorDrain ec eng) s = execAccumulatorDrain ec eng s := rfl
theorem exec_combineStep (ec : Fin 128) (eng : Fin 2) (s : State) : exec (.combineStep ec eng) s = execCombineStep ec eng s := rfl

/-! ### Records at the end of a tile or of a combine step -/

@[simp] theorem macroAt_setEngine (s : State) (e g : Nat) (x : Engine) (port acc : Nat) :
    macroAt (s.setEngine e g x) port acc = macroAt s port acc := rfl

theorem combineDone_onlyMacros (s : State) (port acc o : Nat) (fl : BitVec 16) : OnlyMacros s (combineDone s port acc o fl) := by
  unfold combineDone
  split
  · exact .refl s
  · exact setMacro_onlyMacros _ _ _

section records

variable {s : State} {y : MacroRec}

/-- A combine step that is done joins its flags and counts one tile. -/
theorem macroAt_combineDone {port acc : Nat} (h : macroAt s port acc = some y) (o : Nat) (fl : BitVec 16) :
    ∃ z, macroAt (combineDone s port acc o fl) port acc = some z ∧ z.aflags = y.aflags ||| fl ∧ z.tiles = y.tiles + 1 := by
  have hacc := acc_of_macroAt h
  simp only [combineDone, h]
  exact ⟨_, macroAt_setMacro h hacc, rfl, rfl⟩

/-- A tile that has ended joins its flags and is no longer taken. -/
theorem macroAt_finishTile {e : Nat} {run : TileRun} (h : macroAt s (ecDie e) run.acc = some y) (g : Nat) (fl : BitVec 16) :
    ∃ z, macroAt (finishTile s e g run fl) (ecDie e) run.acc = some z ∧ z.aflags = y.aflags ||| fl ∧ run.tile ∉ z.taken := by
  obtain ⟨z, hz, hflags, -, htaken⟩ := macroAt_tileDrained h run.tile fl
  refine ⟨z, ?_, hflags, htaken⟩
  simp only [finishTile, h]
  split
  · rw [macroAt_setEngine, hz]
  · exact hz

end records

section steps

variable {s : State} {ec : Fin 128} {eng : Fin 2} (hclk : coreClocks s = true)
include hclk

/-! ### Drains (R114) -/

/-- The state in which a column has drained: its flags are in the record, and `l` is left to drain. -/
def columnDrained (u : State) (e g : Nat) (run : TileRun) (fl : BitVec 16) (l : List (TileRun × Nat)) : State :=
  let t := addFlags u (ecDie e) run.acc fl
  t.setEngine e g { t.engineAt e g with drains := l }

omit hclk in
theorem columnDrained_spec {u : State} {e : Nat} {run : TileRun} {y : MacroRec} (hy : macroAt u (ecDie e) run.acc = some y) (g : Nat)
    (fl : BitVec 16) (l : List (TileRun × Nat)) : (columnDrained u e g run fl l).mem = u.mem ∧
    ((columnDrained u e g run fl l).engineAt e g).drains = l ∧
    macroAt (columnDrained u e g run fl l) (ecDie e) run.acc = some { y with aflags := y.aflags ||| fl } :=
  ⟨(addFlags_onlyMacros u (ecDie e) run.acc fl).mem_eq, by rw [columnDrained, engineAt_setEngine], macroAt_addFlags hy fl⟩

/-- One column of the oldest region has drained: its flags join the record, and with the last column the tile ends. -/
theorem accumulatorDrain_gives {run : TileRun} {col : Nat} {rest : List (TileRun × Nat)} {r : MacroRec} {geo : Geo} {subs : Nat} {u : State}
    {fl : BitVec 16} {y : MacroRec} (hdrains : (s.engineAt ec.val eng.val).drains = (run, col) :: rest)
    (hr : macroAt s (ecDie ec.val) run.acc = some r) (hgeo : runGeo s (reqOf s r) ec.val eng.val r.word run = .ok (some (geo, subs)))
    (hu : drainColumn s ec.val eng.val run col geo = .ok (u, fl)) (hy : macroAt u (ecDie ec.val) run.acc = some y) :
    ∃ t, Gives (.accumulatorDrain ec eng) s t ∧ t.mem = u.mem ∧
      (t.engineAt ec.val eng.val).drains = (if col + 1 < geo.cols then (run, col + 1) :: rest else rest) ∧
      ∃ z, macroAt t (ecDie ec.val) run.acc = some z ∧ z.aflags = y.aflags ||| fl ∧
        (geo.cols ≤ col + 1 → drainEndsTile run subs = true → run.tile ∉ z.taken) := by
  have hgives : Gives (.accumulatorDrain ec eng) s (if col + 1 < geo.cols then columnDrained u ec.val eng.val run fl ((run, col + 1) :: rest)
      else if drainEndsTile run subs = true then finishTile (columnDrained u ec.val eng.val run fl rest) ec.val eng.val run 0
      else columnDrained u ec.val eng.val run fl rest) := by
    simp only [Gives, exec_accumulatorDrain, execAccumulatorDrain, whileClocked_of_clock hclk, hdrains, hr, hgeo, hu]
    split <;> rfl
  refine ⟨_, hgives, ?_⟩
  split_ifs with hmore hend
  · obtain ⟨hmem, hleft, hz⟩ := columnDrained_spec hy eng.val fl ((run, col + 1) :: rest)
    exact ⟨hmem, hleft, _, hz, rfl, fun hlast => absurd hmore (not_lt.mpr hlast)⟩
  · obtain ⟨hmem, hleft, hz⟩ := columnDrained_spec hy eng.val fl rest
    obtain ⟨hmem', l, hengine⟩ := finishTile_frame (columnDrained u ec.val eng.val run fl rest) ec.val eng.val run 0
    obtain ⟨z, hz, hflags, htaken⟩ := macroAt_finishTile hz eng.val 0
    exact ⟨hmem'.trans hmem, (congrArg Engine.drains hengine).trans hleft, z, hz, by simpa using hflags, fun _ _ => htaken⟩
  · obtain ⟨hmem, hleft, hz⟩ := columnDrained_spec hy eng.val fl rest
    exact ⟨hmem, hleft, _, hz, rfl, fun _ h => absurd h hend⟩

/-! ### Combine steps (R150 to R152) -/

variable (hissue : ecIssues s ec.val = true)
include hissue

/-- A due combine step leaves its sums in memory and its flags in the record, and leaves the queue of its engine. -/
theorem combineStep_gives {run : TileRun} {rest : List TileRun} {r y : MacroRec} {u : State} {fl : BitVec 16}
    (hcombines : (s.engineAt ec.val eng.val).combines = run :: rest) (hr : macroAt s (ecDie ec.val) run.acc = some r)
    (hcurrent : (s.engineAt ec.val eng.val).current = none) (hnext : (s.engineAt ec.val eng.val).next = none)
    (hdrains : ∀ q ∈ (s.engineAt ec.val eng.val).drains,
      regionsMeet q.1.region (takeRegion (tileWidth s r 0) (s.engineAt ec.val eng.val).region).1 = false)
    (hu : combineStepOf s ec.val eng.val r run.tile = .ok (u, fl)) (hy : macroAt u (ecDie ec.val) run.acc = some y) :
    ∃ t, Gives (.combineStep ec eng) s t ∧ t.mem = u.mem ∧ (t.engineAt ec.val eng.val).combines = rest ∧
      ∃ z, macroAt t (ecDie ec.val) run.acc = some z ∧ z.aflags = y.aflags ||| fl ∧ z.tiles = y.tiles + 1 := by
  have hfree : ((s.engineAt ec.val eng.val).drains.any fun q =>
      regionsMeet q.1.region (takeRegion (tileWidth s r 0) (s.engineAt ec.val eng.val).region).1) = false := by simpa using hdrains
  have hdone := combineDone_onlyMacros (u.setEngine ec.val eng.val { u.engineAt ec.val eng.val with
    combines := rest, region := (takeRegion (tileWidth s r 0) (s.engineAt ec.val eng.val).region).2 }) (ecDie ec.val) run.acc run.tile fl
  refine ⟨_, by simp only [Gives, exec_combineStep, execCombineStep, whileClocked_of_clock hclk, hissue, hcombines, hr, hcurrent, hnext, hfree, hu,
    Option.isSome_none, Bool.false_eq_true, Bool.not_true, or_self, if_false], hdone.mem_eq, ?_,
    macroAt_combineDone (s := u.setEngine ec.val eng.val _) hy run.tile fl⟩
  rw [hdone.engineAt_eq, engineAt_setEngine]

/-- R150: a combine step waits behind the tile that its engine has taken. -/
theorem combineStep_waits (hcombines : (s.engineAt ec.val eng.val).combines ≠ [])
    (hr : ∀ run ∈ (s.engineAt ec.val eng.val).combines, (macroAt s (ecDie ec.val) run.acc).isSome = true)
    (htaken : (s.engineAt ec.val eng.val).current ≠ none ∨ (s.engineAt ec.val eng.val).next ≠ none) : Gives (.combineStep ec eng) s s := by
  obtain ⟨run, rest, hcons⟩ := List.exists_cons_of_ne_nil hcombines
  obtain ⟨r, hrec⟩ := Option.isSome_iff_exists.mp (hr run (by simp [hcons]))
  simp only [← Option.isSome_iff_ne_none] at htaken
  simp only [Gives, exec_combineStep, execCombineStep, whileClocked_of_clock hclk, hissue, hcons, hrec, htaken, Bool.not_true, Bool.false_eq_true,
    if_false, if_true]

/-- R151, R152: the tile of a COMBINE leaves its sums in memory and its flags in the record, and its engine goes on with its next tile. -/
theorem combineTile_gives {run : TileRun} {r y : MacroRec} {c : CombineCmd} {w : RecWork} {u : State} {fl : BitVec 16}
    (hcombines : (s.engineAt ec.val eng.val).combines = []) (hcurrent : (s.engineAt ec.val eng.val).current = some run)
    (hr : engineRec s ec.val eng.val = some r) (hop : wOpcode r.word = 3) (hc : combineCmd s (reqOf s r) r.word = .ok c)
    (hw : recWork s (reqOf s r) r.word = .ok w)
    (hu : combineTile s (reqOf s r) c (w.tiles.getD run.tile { batch := 0, i := 0, j := 0, k := 0 }) = .ok (u, fl))
    (hy : macroAt u (ecDie ec.val) run.acc = some y) :
    ∃ t, Gives (.combineStep ec eng) s t ∧ t.mem = u.mem ∧ (t.engineAt ec.val eng.val).current = (u.engineAt ec.val eng.val).next ∧
      ∃ z, macroAt t (ecDie ec.val) run.acc = some z ∧ z.aflags = y.aflags ||| fl ∧ run.tile ∉ z.taken := by
  obtain ⟨hmem, l, hengine⟩ := finishTile_frame (u.setEngine ec.val eng.val
    { u.engineAt ec.val eng.val with current := (u.engineAt ec.val eng.val).next, next := none }) ec.val eng.val run fl
  refine ⟨_, by simp only [Gives, exec_combineStep, execCombineStep, whileClocked_of_clock hclk, hissue, hcombines, hcurrent, hr, hop, hc, hw, hu,
    Bool.not_true, Bool.false_eq_true, if_false, if_true], hmem, ?_, macroAt_finishTile (s := u.setEngine ec.val eng.val _) hy eng.val fl⟩
  rw [hengine, engineAt_setEngine]

end steps

/-- Settles O39: drains, due combine steps, those that wait, and tiles of COMBINE, each by its own lemma. -/
theorem drainsAndCombineSteps : Obligations.DrainsAndCombineSteps := by
  intro s ec eng e g d x hclk
  refine ⟨?drain, ?step, fun hissue => combineStep_waits hclk hissue, ?tile⟩
  case drain =>
    intro run col rest r geo subs u fl y hdrains hr hgeo hu hy
    exact accumulatorDrain_gives hclk hdrains hr hgeo hu hy
  case step =>
    intro run rest r u fl y hissue hcombines hr hcurrent hnext hdrains hu hy
    exact combineStep_gives hclk hissue hcombines hr hcurrent hnext hdrains hu hy
  case tile =>
    intro run r c w u fl y hissue hcombines hcurrent hr hop _ hc hw hu hy
    exact combineTile_gives hclk hissue hcombines hcurrent hr hop hc hw hu hy

end Sys2Proof.Machine
end

section
/-!
What a fold of steps leaves of a part of the state that one element's step alone changes.
-/

namespace Sys2Proof.Machine

section folds

variable {σ ι β : Type} {f : σ → ι → σ} {I : σ → Prop} {v : σ → β} {j : ι} (hI : ∀ x k, I x → I (f x k))
  (hne : ∀ x k, I x → k ≠ j → v (f x k) = v x)
include hI

theorem foldl_keeps (l : List ι) {x : σ} (hx : I x) : I (l.foldl f x) := l.foldlRecOn f hx fun y hy k _ => hI y k hy

/-- Steps that answer under an invariant are a plain fold. -/
theorem foldGot_eq_foldl {h : σ → ι → Got σ} (hh : ∀ x k, I x → h x k = .ok (f x k)) (l : List ι) :
    ∀ {x : σ}, I x → foldGot h x l = .ok (l.foldl f x) := by
  induction l with
  | nil => exact fun _ => rfl
  | cons k l ih =>
    intro x hx
    simp only [foldGot, hh x k hx]
    exact ih (hI x k hx)

include hne

theorem foldl_view_of_not_mem {l : List ι} (hj : j ∉ l) {x : σ} (hx : I x) : v (l.foldl f x) = v x :=
  (l.foldlRecOn f (motive := fun y => I y ∧ v y = v x) ⟨hx, rfl⟩ fun y hy k hk =>
    ⟨hI y k hy.1, (hne y k hy.1 (ne_of_mem_of_not_mem hk hj)).trans hy.2⟩).2

/-- The element's own step leaves what it would leave alone. -/
theorem foldl_view_of_mem (hself : ∀ x y, I x → I y → v x = v y → v (f x j) = v (f y j)) {l : List ι} (hl : l.Nodup) (hj : j ∈ l) :
    ∀ {x : σ}, I x → v (l.foldl f x) = v (f x j) := by
  induction l with
  | nil => cases hj
  | cons k l ih =>
    intro x hx
    obtain ⟨hk, hl⟩ := List.nodup_cons.mp hl
    by_cases hjk : j = k
    · subst hjk
      exact foldl_view_of_not_mem hI hne hk (hI x j hx)
    · rw [List.foldl_cons, ih hl ((List.mem_cons.mp hj).resolve_left hjk) (hI x k hx)]
      exact hself _ _ (hI x k hx) hx (hne x k hx (Ne.symm hjk))

end folds

end Sys2Proof.Machine
end

section
/-!
Fills of the queues and loads of the resident buffers of an engine (04_matrix R102 to R104, R106).
-/

namespace Sys2Proof.Machine

open Sys2Proof.Claims

/-! ### The rows -/

theorem exec_feederFill (ec : Fin 128) (eng : Fin 2) (lane : Option (Fin 256)) (s : State) :
    exec (.feederFill ec eng lane) s = execFeederFill ec eng lane s := rfl
theorem exec_residentBufferLoad (ec : Fin 128) (eng : Fin 2) (lane : Fin 256) (s : State) :
    exec (.residentBufferLoad ec eng lane) s = execResidentBufferLoad ec eng lane s := rfl

theorem onlyEc_setEngine (s : State) (e g : Nat) (x : Engine) : OnlyEc s (s.setEngine e g x) e := ⟨rfl, fun _ hi => ecAt_modEc_ne _ _ _ _ hi⟩

/-! ### The place that a queue lacks (R102, R106) -/

section places

variable {s : State} {e g : Nat} {r : MacroRec} {d : Bool} {lacks : Nat → TileRun → Geo → Option (Nat × Nat)} {fuel k : Nat}
  {x : TileRun × Bool} {geo : Geo} {subs : Nat}

/-- A queue that lacks a place of the run itself takes that one. -/
theorem seekPlace_of_lacks {a b : Nat} (h : lacks k x.1 geo = some (a, b)) :
    seekPlace s e g r d lacks (fuel + 1) k x geo subs = .ok (some { run := k, geo, pass := a, column := b }) := by
  simp only [seekPlace, h]

/-- A queue that lacks no place of the last run known lacks none. -/
theorem seekPlace_of_last (h : lacks k x.1 geo = none) (hlast : followRun (s.engineAt e g).next d x subs = none) :
    seekPlace s e g r d lacks (fuel + 1) k x geo subs = .ok none := by
  simp only [seekPlace, h, hlast]

/-- A place found is one that the queue lacks of the run itself, or was found from the run after it on. -/
theorem seekPlace_cases {p : FillPlace} (h : seekPlace s e g r d lacks (fuel + 1) k x geo subs = .ok (some p)) :
    (p.run = k ∧ lacks k x.1 geo = some (p.pass, p.column)) ∨
    ∃ y, ∃ w : Geo × Nat, seekPlace s e g r d lacks fuel (k + 1) y w.1 w.2 = .ok (some p) := by
  rw [seekPlace] at h
  split at h
  case h_1 hplace =>
    cases h
    exact .inl ⟨rfl, hplace⟩
  case h_2 =>
    split at h
    case h_1 => cases h
    case h_2 y _ =>
      split at h
      case h_3 w _ => exact .inr ⟨y, w, h⟩
      all_goals cases h

theorem le_run_of_seekPlace {p : FillPlace} (h : seekPlace s e g r d lacks fuel k x geo subs = .ok (some p)) : k ≤ p.run := by
  induction fuel generalizing k x geo subs with
  | zero => cases h
  | succ fuel ih =>
    obtain ⟨hrun, -⟩ | ⟨y, w, hlater⟩ := seekPlace_cases h
    · exact hrun.ge
    · exact (Nat.le_succ k).trans (ih hlater)

/-- A place of the run itself is the one that the queue lacks of it. -/
theorem seekPlace_iff_lacks {step kind : Nat} : (∃ p, seekPlace s e g r d lacks (fuel + 1) k x geo subs = .ok (some p) ∧
    p.run = k ∧ p.pass = step ∧ p.column = kind) ↔ lacks k x.1 geo = some (step, kind) := by
  constructor
  · rintro ⟨p, hp, hrun, rfl, rfl⟩
    obtain ⟨-, hplace⟩ | ⟨y, w, hlater⟩ := seekPlace_cases hp
    · exact hplace
    · have := le_run_of_seekPlace hlater
      omega
  · exact fun h => ⟨_, seekPlace_of_lacks h, rfl, rfl, rfl⟩

end places

/-! ### Entries that several lanes take (R100) -/

section pairs

variable {seek : Nat → Got (Option FillPlace)} {c : Chunk}

/-- A lane's queue takes the entry: it has a free entry, and lacks that one next. -/
def TakesPair (seek : Nat → Got (Option FillPlace)) (x : Engine) (c : Chunk) (k : Nat) : Prop :=
  (tabGet [] x.feeders k).length < 8 ∧ ∃ p, seek k = .ok (some p) ∧ p.run = c.run ∧ p.pass = c.pass ∧ p.column = c.column

theorem pushPair_of_takes {x : Engine} {k : Nat} (h : TakesPair seek x c k) :
    pushPair seek x c k = { x with feeders := tabSet x.feeders k (tabGet [] x.feeders k ++ [c]) } := by
  obtain ⟨hfree, p, hp, hplace⟩ := h
  simp only [pushPair, hp]
  exact if_pos ⟨hfree, hplace⟩

theorem pushPair_of_not_takes {x : Engine} {k : Nat} (h : ¬TakesPair seek x c k) : pushPair seek x c k = x := by
  simp only [pushPair]
  split
  case h_1 p hp => exact if_neg fun hc => h ⟨hc.1, p, hp, hc.2⟩
  case h_2 => rfl

/-- Only the queue of the lane itself may take the entry. -/
theorem feeders_pushPair_ne {x : Engine} {k j : Nat} (hj : j ≠ k) :
    tabGet [] (pushPair seek x c k).feeders j = tabGet [] x.feeders j := by
  by_cases h : TakesPair seek x c k
  · rw [pushPair_of_takes h]
    exact tabGet_tabSet_ne _ _ _ _ _ hj
  · rw [pushPair_of_not_takes h]

theorem feeders_foldl_pushPair_of_not_mem {j : Nat} {l : List Nat} (hj : j ∉ l) (x : Engine) :
    tabGet [] (l.foldl (fun y k => pushPair seek y c k) x).feeders j = tabGet [] x.feeders j :=
  foldl_view_of_not_mem (I := fun _ => True) (v := fun y : Engine => tabGet [] y.feeders j) (fun _ _ _ => trivial)
    (fun _ _ _ hk => feeders_pushPair_ne hk.symm) hj trivial

/-- Of several lanes, each takes the entry as if it were alone. -/
theorem feeders_foldl_pushPair_of_mem {j : Nat} {l : List Nat} (hl : l.Nodup) (hj : j ∈ l) (x : Engine) :
    tabGet [] (l.foldl (fun y k => pushPair seek y c k) x).feeders j = tabGet [] (pushPair seek x c j).feeders j := by
  refine foldl_view_of_mem (I := fun _ => True) (v := fun y : Engine => tabGet [] y.feeders j) (fun _ _ _ => trivial)
    (fun _ _ _ hk => feeders_pushPair_ne hk.symm) (fun x y _ _ hxy => ?_) hl hj trivial
  have htakes : TakesPair seek x c j ↔ TakesPair seek y c j := by rw [TakesPair, TakesPair, hxy]
  by_cases h : TakesPair seek x c j
  · rw [pushPair_of_takes h, pushPair_of_takes (htakes.mp h), tabGet_tabSet_same, tabGet_tabSet_same, hxy]
  · rw [pushPair_of_not_takes h, pushPair_of_not_takes (htakes.not.mp h), hxy]

end pairs

/-! ### FEEDER_FILL (R102, R103, R106) -/

section fills

variable {s : State} {ec : Fin 128} {eng : Fin 2} {run : TileRun} {r : MacroRec} {geo : Geo} {subs : Nat} (hclk : coreClocks s = true)
include hclk

/-- While the row unit has phase 2 of a CHAIN, the broadcast queue takes a vector of phase 3. -/
theorem feederFill_phaseThree (hrun : engineRun s ec.val eng.val = some (run, r, .ok none)) (hphase : run.phase = 2)
    (hfree : (s.engineAt ec.val eng.val).broadcast.length < 8)
    (hgeo : runGeo s (reqOf s r) ec.val eng.val r.word { run with phase := 3 } = .ok (some (geo, subs))) {p : FillPlace} {c : Chunk}
    (hp : seekPlace s ec.val eng.val r true (nextBroadcast (s.engineAt ec.val eng.val).broadcast) 9 0 ({ run with phase := 3 }, false) geo subs =
      .ok (some p)) (hcol : p.column < p.geo.cols) (hc : p.geo.colChunk p.column p.pass = .ok c) :
    Gives (.feederFill ec eng none) s (readsUse (s.setEngine ec.val eng.val { s.engineAt ec.val eng.val with
      broadcast := (s.engineAt ec.val eng.val).broadcast ++ [{ c with pass := p.pass, column := p.column, run := p.run }] }) (reqOf s r)
      (p.geo.colSpans p.column p.pass)) := by
  simp only [Gives, exec_feederFill, execFeederFill, whileClocked_of_clock hclk, hrun, broadcastRun, hphase, hgeo, if_true, Except.map, Option.map,
    fillBroadcast, hp, hc, if_neg (not_le.mpr hfree), if_neg (not_le.mpr hcol), engineResult]

variable (hrun : engineRun s ec.val eng.val = some (run, r, .ok (some (geo, subs))))
include hrun

/-- A fill that meets no fault leaves what the fill of its queue leaves. -/
theorem feederFill_gives {lane : Option (Fin 256)} {t : State} (h : fillQueue s ec.val eng.val lane r run geo subs = .ok t) :
    Gives (.feederFill ec eng lane) s t := by
  simp only [Gives, exec_feederFill, execFeederFill, whileClocked_of_clock hclk, hrun, h, engineResult]

/-- The broadcast queue is full, or there is none in output-resident mode. -/
theorem feederFill_broadcast_stays (h : 8 ≤ (s.engineAt ec.val eng.val).broadcast.length ∨ geo.outRes = true) :
    Gives (.feederFill ec eng none) s s := by
  refine feederFill_gives hclk hrun ?_
  cases hout : geo.outRes
  · simp only [fillQueue, hout, Bool.false_eq_true, if_false, fillBroadcast, if_pos (h.resolve_right (by simp [hout]))]
  · simp only [fillQueue, hout, if_true]

/-- The broadcast queue takes the vector that it lacks next; beyond the edge of the matrix it takes one without elements. -/
theorem feederFill_broadcast (hout : geo.outRes = false) (hfree : (s.engineAt ec.val eng.val).broadcast.length < 8) {p : FillPlace}
    (hp : seekPlace s ec.val eng.val r true (nextBroadcast (s.engineAt ec.val eng.val).broadcast) 9 0 (run, false) geo subs = .ok (some p))
    {c : Chunk} (hc : (if p.geo.cols ≤ p.column then .ok { pass := p.pass, column := p.column, elements := [], scales := [] }
      else p.geo.colChunk p.column p.pass) = Except.ok c) :
    Gives (.feederFill ec eng none) s (readsUse (s.setEngine ec.val eng.val { s.engineAt ec.val eng.val with
      broadcast := (s.engineAt ec.val eng.val).broadcast ++ [{ c with pass := p.pass, column := p.column, run := p.run }] }) (reqOf s r)
      (if p.geo.cols ≤ p.column then [] else p.geo.colSpans p.column p.pass)) := by
  refine feederFill_gives hclk hrun ?_
  simp only [fillQueue, hout, Bool.false_eq_true, if_false, fillBroadcast, if_neg (not_le.mpr hfree), hp, hc, Except.map]

variable {lane : Fin 256}

/-- A lane's queue is full, or lacks nothing that is known. -/
theorem feederFill_lane_stays (h : 8 ≤ (tabGet [] (s.engineAt ec.val eng.val).feeders lane.val).length ∨
    seekPlace s ec.val eng.val r false (if geo.outRes = true then nextPair (tabGet [] (s.engineAt ec.val eng.val).feeders lane.val) lane.val
      else nextResident (s.engineAt ec.val eng.val) lane.val) 9 0 (run, false) geo subs = .ok none) :
    Gives (.feederFill ec eng (some lane)) s s := by
  refine feederFill_gives hclk hrun ?_
  by_cases hfull : 8 ≤ (tabGet [] (s.engineAt ec.val eng.val).feeders lane.val).length
  · simp only [fillQueue, fillLane, fillPairs, if_pos hfull, ite_self]
  · have hseek := h.resolve_left hfull
    rw [fillQueue]
    split_ifs at hseek ⊢
    · simp only [fillPairs, if_neg hfull, hseek]
    · simp only [fillLane, if_neg hfull, hseek]

/-- A lane that is not active lacks nothing of the last run known. -/
theorem feederFill_lane_inactive (hactive : geo.active lane.val = false) (hlast : subs ≤ run.sub + 1)
    (hnext : (s.engineAt ec.val eng.val).next = none) : Gives (.feederFill ec eng (some lane)) s s := by
  refine feederFill_lane_stays hclk hrun (.inr (seekPlace_of_last ?_ ?_))
  · cases geo.outRes <;> simp [nextPair, nextResident, hactive]
  · simp [followRun, not_lt.mpr hlast, hnext]

/-- A lane's queue takes the resident chunk that it lacks next. -/
theorem feederFill_lane (hout : geo.outRes = false) (hfree : (tabGet [] (s.engineAt ec.val eng.val).feeders lane.val).length < 8) {p : FillPlace}
    (hp : seekPlace s ec.val eng.val r false (nextResident (s.engineAt ec.val eng.val) lane.val) 9 0 (run, false) geo subs = .ok (some p))
    {c : Chunk} (hc : p.geo.laneChunk lane.val p.pass = .ok c) :
    Gives (.feederFill ec eng (some lane)) s (readsUse (s.setEngine ec.val eng.val { s.engineAt ec.val eng.val with
      feeders := tabSet (s.engineAt ec.val eng.val).feeders lane.val
        (tabGet [] (s.engineAt ec.val eng.val).feeders lane.val ++ [{ c with pass := p.pass, column := 0, run := p.run }]) }) (reqOf s r)
      (p.geo.laneSpans lane.val p.pass)) := by
  refine feederFill_gives hclk hrun ?_
  simp only [fillQueue, hout, Bool.false_eq_true, if_false, fillLane, if_neg (not_le.mpr hfree), hp, hc, Except.map]

/-- The first place that the queue of lane `k` lacks in output-resident mode. -/
abbrev pairSeek (s : State) (e g : Nat) (r : MacroRec) (run : TileRun) (geo : Geo) (subs k : Nat) : Got (Option FillPlace) :=
  seekPlace s e g r false (nextPair (tabGet [] (s.engineAt e g).feeders k) k) 9 0 (run, false) geo subs

/-- The engine whose lanes have taken entry `c` of A (`kind` 0) or B, as lane `l` does, where they lack it next. -/
def pairsPushed (s : State) (e g : Nat) (r : MacroRec) (run : TileRun) (geo : Geo) (subs kind l : Nat) (c : Chunk) : Engine :=
  (geo.lanes.filter (sharesChunk kind l)).foldl (fun y k => pushPair (pairSeek s e g r run geo subs) y c k) (s.engineAt e g)

omit hclk hrun in
theorem feeders_pairsPushed (e g kind l step : Nat) (c : Chunk) (k : Nat) :
    tabGet [] (pairsPushed s e g r run geo subs kind l { c with pass := step, column := kind, run := 0 }).feeders k =
      let old := tabGet [] (s.engineAt e g).feeders k
      if k < 256 ∧ geo.active k = true ∧ sharesChunk kind l k = true ∧ old.length < 8 ∧ nextPair old k 0 run geo = some (step, kind)
      then old ++ [{ c with pass := step, column := kind, run := 0 }] else old := by
  have htakes : TakesPair (pairSeek s e g r run geo subs) (s.engineAt e g) { c with pass := step, column := kind, run := 0 } k ↔
      (tabGet [] (s.engineAt e g).feeders k).length < 8 ∧ nextPair (tabGet [] (s.engineAt e g).feeders k) k 0 run geo = some (step, kind) := by
    rw [TakesPair, seekPlace_iff_lacks]
  have hmem : k ∈ geo.lanes.filter (sharesChunk kind l) ↔ (k < 256 ∧ geo.active k = true) ∧ sharesChunk kind l k = true := by
    simp only [Geo.lanes, List.mem_filter, List.mem_range]
  have hnodup : (geo.lanes.filter (sharesChunk kind l)).Nodup := (List.nodup_range.filter _).filter _
  dsimp only
  split_ifs with hdue
  · obtain ⟨hlane, hactive, hshares, hdue⟩ := hdue
    rw [pairsPushed, feeders_foldl_pushPair_of_mem hnodup (hmem.mpr ⟨⟨hlane, hactive⟩, hshares⟩), pushPair_of_takes (htakes.mpr hdue)]
    exact tabGet_tabSet_same _ _ _ _
  · by_cases hk : k ∈ geo.lanes.filter (sharesChunk kind l)
    · obtain ⟨⟨hlane, hactive⟩, hshares⟩ := hmem.mp hk
      rw [pairsPushed, feeders_foldl_pushPair_of_mem hnodup hk,
        pushPair_of_not_takes fun h => hdue ⟨hlane, hactive, hshares, htakes.mp h⟩]
    · exact feeders_foldl_pushPair_of_not_mem hk _

/-- In output-resident mode every lane that shares the chunk and lacks it next takes it. -/
theorem feederFill_pairs (hout : geo.outRes = true)
    (hfree : (tabGet [] (s.engineAt ec.val eng.val).feeders lane.val).length < 8) {step kind : Nat} {c : Chunk}
    (hlacks : nextPair (tabGet [] (s.engineAt ec.val eng.val).feeders lane.val) lane.val 0 run geo = some (step, kind))
    (hc : (if kind = 0 then geo.laneChunk lane.val step else geo.colChunk (lane.val % 16) step) = .ok c) :
    Gives (.feederFill ec eng (some lane)) s (readsUse (s.setEngine ec.val eng.val
      (pairsPushed s ec.val eng.val r run geo subs kind lane.val { c with pass := step, column := kind, run := 0 })) (reqOf s r)
      (if kind = 0 then geo.laneSpans lane.val step else geo.colSpans (lane.val % 16) step)) := by
  refine feederFill_gives hclk hrun ?_
  simp only [fillQueue, hout, if_true, fillPairs, if_neg (not_le.mpr hfree), seekPlace_of_lacks (x := (run, false)) hlacks, hc, Except.map]
  rfl

/-! ### RESIDENT_BUFFER_LOAD (R103, R104) -/

/-- A free resident buffer takes the head of its lane's queue, if that is the chunk of the next pass marker. -/
theorem residentBufferLoad_gives (hout : geo.outRes = false) {c : Chunk} {rest : List Chunk}
    (hq : tabGet [] (s.engineAt ec.val eng.val).feeders lane.val = c :: rest)
    (hfree : tabFind (s.engineAt ec.val eng.val).resident (bufferKey lane.val (!(s.engineAt ec.val eng.val).buffer)) = none)
    (hdue : (c.run, c.pass) = markerPlace run geo) :
    Gives (.residentBufferLoad ec eng lane) s (s.setEngine ec.val eng.val { s.engineAt ec.val eng.val with
      resident := tabSet (s.engineAt ec.val eng.val).resident (bufferKey lane.val (!(s.engineAt ec.val eng.val).buffer)) c
      residentBad := tabErase (s.engineAt ec.val eng.val).residentBad (bufferKey lane.val (!(s.engineAt ec.val eng.val).buffer))
      feeders := tabSet (s.engineAt ec.val eng.val).feeders lane.val rest }) := by
  simp only [Gives, exec_residentBufferLoad, execResidentBufferLoad, whileClocked_of_clock hclk, hrun, hq, hout, hfree, hdue, Option.isNone_none,
    Bool.not_false, beq_self_eq_true, Bool.and_self, whenEnabled_true]

/-- A buffer that is not free, or a queue whose head is due later, stays as it is. -/
theorem residentBufferLoad_stays {c : Chunk} {rest : List Chunk} (hq : tabGet [] (s.engineAt ec.val eng.val).feeders lane.val = c :: rest)
    (h : tabFind (s.engineAt ec.val eng.val).resident (bufferKey lane.val (!(s.engineAt ec.val eng.val).buffer)) ≠ none ∨
      (c.run, c.pass) ≠ markerPlace run geo) : Gives (.residentBufferLoad ec eng lane) s s := by
  have hnot : (!geo.outRes && (c.run, c.pass) == markerPlace run geo &&
      (tabFind (s.engineAt ec.val eng.val).resident (bufferKey lane.val (!(s.engineAt ec.val eng.val).buffer))).isNone) = false := by
    simp only [Bool.and_eq_false_iff, beq_eq_false_iff_ne, Option.isNone_eq_false_iff, Option.isSome_iff_ne_none]
    exact h.elim .inr fun hlater => .inl (.inr hlater)
  simp only [Gives, exec_residentBufferLoad, execResidentBufferLoad, whileClocked_of_clock hclk, hrun, hq, hnot, whenEnabled_false]

end fills

/-- The fills and loads of an engine, each by its own lemma. -/
theorem fillsAndBuffers : FillsAndBuffers := by
  intro s ec eng lane run r geo subs e g l x q key reads hclk
  refine ⟨?phase, fun hrun => ?_⟩
  case phase =>
    intro hrun hphase hfree third hgeo p c hp hcol hc
    exact feederFill_phaseThree hclk hrun hphase hfree hgeo hp hcol hc
  refine ⟨feederFill_broadcast_stays hclk hrun, feederFill_lane_stays hclk hrun, feederFill_lane_inactive hclk hrun, ?broadcast, ?lane, ?pairs,
    ?load⟩
  case broadcast =>
    intro hout hfree p hp
    refine ⟨fun pass col hlacks => ?_, fun hedge => ?_, fun hcol c hc => ?_⟩
    · rw [seekPlace_of_lacks (x := (run, false)) hlacks] at hp
      exact (Option.some.inj (Except.ok.inj hp)).symm
    · have hfill := feederFill_broadcast hclk hrun hout hfree hp (if_pos hedge)
      rwa [if_pos hedge] at hfill
    · have hfill := feederFill_broadcast hclk hrun hout hfree hp ((if_neg (not_le.mpr hcol)).trans hc)
      rwa [if_neg (not_le.mpr hcol)] at hfill
  case lane =>
    intro hout hfree p hp
    have hp' : seekPlace s e g r false (nextResident x l) 9 0 (run, false) geo subs = .ok (some p) := by simpa [hout] using hp
    refine ⟨fun pass col hlacks => ?_, fun c hc => feederFill_lane hclk hrun hout hfree hp' hc⟩
    rw [seekPlace_of_lacks (x := (run, false)) hlacks] at hp'
    exact (Option.some.inj (Except.ok.inj hp')).symm
  case pairs =>
    intro hout _ hfree step kind c hlacks hc
    exact ⟨_, feederFill_pairs hclk hrun hout hfree hlacks hc, onlyEc_setEngine .., fun k => by
      rw [engineAt_setEngine, feeders_pairsPushed]⟩
  case load =>
    intro due hout c rest hq
    exact ⟨residentBufferLoad_gives hclk hrun hout hq, residentBufferLoad_stays hclk hrun hq⟩

end Sys2Proof.Machine
end

section
/-!
Who owns and who waits for the score store of an EC bears on no access, and on no cause of a stall (06_attend R168; 10_streams R331).
-/

namespace Sys2Proof.Machine

/-! ### The owner that a request leaves (R168) -/

/-- A request changes at most the owner and the waiters. -/
theorem scoreAsk_same (c : Ec) (u : Fin 3) : ∃ o l, (scoreAsk c u).2 = { c with scoreOwner := o, scoreWaiters := l } := by
  unfold scoreAsk
  split_ifs
  all_goals exact ⟨_, _, rfl⟩

/-- A unit owns the score store after its request if it owned it before or found it free. -/
theorem scoreAsk_owner_iff (c : Ec) (u : Fin 3) :
    (scoreAsk c u).2.scoreOwner = some u ↔ c.scoreOwner = some u ∨ (c.scoreOwner = none ∧ c.scoreWaiters = []) := by
  unfold scoreAsk
  split_ifs with hown hfree hmem
  · simp [hown]
  · simpa using Or.inr hfree
  all_goals simpa [hown] using hfree

/-! ### What accesses see of an EC -/

/-- Two ECs alike in what an access and a stall cause depend on. -/
structure SeenAlike (c x : Ec) : Prop where
  bound : x.bound = c.bound
  dbg : x.dbg = c.dbg
  engines : x.engines = c.engines

theorem scoreAsk_seenAlike (c : Ec) (u : Fin 3) : SeenAlike c (scoreAsk c u).2 := by
  obtain ⟨o, l, h⟩ := scoreAsk_same c u
  rw [h]
  exact ⟨rfl, rfl, rfl⟩

section seen

variable {s : State} {e : Nat} {x : Ec} (h : SeenAlike (s.ecAt e) x)
include h

theorem seenAlike_setEc (i : Nat) : SeenAlike (s.ecAt i) ((s.setEc e x).ecAt i) := by
  by_cases hi : i = e
  · subst hi
    rwa [ecAt_setEc]
  · rw [ecAt_setEc_ne _ _ _ _ hi]
    exact ⟨rfl, rfl, rfl⟩

theorem engineAt_setEc (i g : Nat) : (s.setEc e x).engineAt i g = s.engineAt i g := by
  rw [State.engineAt, Ec.engineAt, (seenAlike_setEc h i).engines, State.engineAt, Ec.engineAt]

theorem blockedEc_setEc (c : Option (Fin 64)) (a : Nat) : blockedEc (s.setEc e x) c a = blockedEc s c a := by
  have hallowed : ∀ i, sramAllowed (s.setEc e x) c i = sramAllowed s c i := fun i => by
    simp only [sramAllowed, sramOpen, (seenAlike_setEc h _).bound, (seenAlike_setEc h _).dbg]
  simp only [blockedEc, hallowed]

theorem unitBytes_setEc (c : Option (Fin 64)) (n : Nat) : ∀ a, unitBytes (s.setEc e x) c a n = unitBytes s c a n := by
  induction n with
  | zero => exact fun _ => rfl
  | succ n ih => exact fun a => by simp only [unitBytes, unitByte, blockedEc_setEc h, ih, byteAt, setEc_mem, setEc_bad, setEc_free]; rfl

omit h in
theorem bytesAt_setEc (n : Nat) : ∀ a, bytesAt (s.setEc e x) a n = bytesAt s a n := by
  induction n with
  | zero => exact fun _ => rfl
  | succ n ih => exact fun a => by rw [bytesAt, bytesAt, ih]; rfl

theorem sramError_setEc (a b : Nat) : sramError (s.setEc e x) a b = sramError s a b := by
  simp only [sramError, engineAt_setEc h, setEc_bad]

theorem rangeFault_setEc (p : Option Nat) (a n : Nat) (wr noAlloc : Bool) :
    rangeFault (s.setEc e x) p a n wr noAlloc = rangeFault s p a n wr noAlloc := by
  simp only [rangeFault, sramError_setEc h]
  rfl

theorem uRead_setEc (q : Req) (a n : Nat) : uRead (s.setEc e x) q a n = uRead s q a n := by
  simp only [uRead, accessMeets, rangeFault_setEc h, unitBytes_setEc h, bytesAt_setEc]
  rfl

theorem tileSource_setEc (q : Req) (w : List Byte) (t : Nat) : tileSource (s.setEc e x) q w t = tileSource s q w t := by
  simp only [tileSource, rowIndex, uReadNat, uRead_setEc h]

/-! ### What an EC waits for (10_streams R331) -/

theorem streamCause_setEc (u : Nat) (y : Slot) : streamCause (s.setEc e x) u y = streamCause s u y := by
  simp only [streamCause, tileSource_setEc h]
  rfl

theorem pairCause_setEc (i n : Nat) (free : Bool) : pairCause (s.setEc e x) i n free = pairCause s i n free := by
  simp only [pairCause, streamCause_setEc h]
  rfl

theorem stewardsWait_setEc (i : Nat) : stewardsWait (s.setEc e x) i = stewardsWait s i := by
  simp only [stewardsWait, pairCause_setEc h]
  rfl

end seen

end Sys2Proof.Machine
end

section
/-!
The accumulator words of an engine, read back after a write to the same lane and to another (03_arithmetic R62; 04_matrix R98, R110).
-/

namespace Sys2Proof.Machine

open Sys2Proof.Claims

/-! ### Reads of sound memory -/

/-- Memory is canonical, and no line has four or more bad symbols, so that a read gets what is stored (02_package R42). -/
def SoundMemory (s : State) : Prop := Memory.wf s.mem = true ∧ ∀ q ∈ s.bad, q.2 < 4

theorem tabGet_lt {t : Tab Nat} {n : Nat} (hn : 0 < n) (h : ∀ q ∈ t, q.2 < n) (k : Nat) : tabGet 0 t k < n := by
  induction t with
  | nil => exact hn
  | cons q t ih =>
    rw [tabGet]
    split
    · exact h q List.mem_cons_self
    · exact ih fun p hp => h p (List.mem_cons_of_mem _ hp)

theorem byteAt_of_sound {s : State} (h : SoundMemory s) (a : Nat) : byteAt s a = cellGet s.mem a :=
  if_neg fun hbad => absurd hbad.1 (not_le.mpr (tabGet_lt (by decide) h.2 _))

theorem bytesAt_of_sound {s : State} (h : SoundMemory s) (n : Nat) : ∀ a, bytesAt s a n = cellsRead s.mem a n := by
  induction n with
  | zero => exact fun _ => rfl
  | succ n ih => exact fun a => by rw [bytesAt, cellsRead, ih, byteAt_of_sound h]

theorem cellsRead_congr {m m' : List Host.Cell} (n : Nat) : ∀ {a : Nat}, (∀ b, a ≤ b → b < a + n → cellGet m' b = cellGet m b) →
    cellsRead m' a n = cellsRead m a n := by
  induction n with
  | zero => exact fun _ => rfl
  | succ n ih =>
    intro a h
    rw [cellsRead, cellsRead, h a (le_refl a) (by omega), ih fun b hlo hhi => h b (by omega) (by omega)]

theorem length_cellsRead (m : List Host.Cell) (n : Nat) : ∀ a, (cellsRead m a n).length = n := by
  induction n with
  | zero => exact fun _ => rfl
  | succ n ih => exact fun a => by rw [cellsRead, List.length_cons, ih]

theorem getElem_cellsRead (m : List Host.Cell) (n : Nat) : ∀ (a i : Nat) (h : i < (cellsRead m a n).length),
    (cellsRead m a n)[i] = cellGet m (a + i) := by
  induction n with
  | zero => exact fun _ _ h => absurd h (Nat.not_lt_zero _)
  | succ n ih =>
    intro a i h
    cases i with
    | zero => rfl
    | succ i => exact (ih (a + 1) i _).trans (congrArg (cellGet m) (by omega))

/-- The bytes just written are read back. -/
theorem cellsRead_cellsWrite {m : List Host.Cell} (h : Memory.wf m = true) (a : Nat) (bs : List Byte) :
    cellsRead (cellsWrite m a bs) a bs.length = bs :=
  List.ext_getElem (length_cellsRead _ _ _) fun i _ hi => by rw [getElem_cellsRead, cellGet_cellsWrite_inside bs m a i h hi]

/-- The bytes of a word of `n` bytes spell it. -/
theorem ofNat_leNat_natLe {n : Nat} (v : BitVec (8 * n)) : BitVec.ofNat (8 * n) (leNat (natLe n v.toNat)) = v := by
  have hlt : v.toNat < 256 ^ n := (pow_mul 2 8 n ▸ v.isLt :)
  rw [leNat_natLe, Nat.mod_eq_of_lt hlt, BitVec.ofNat_toNat, BitVec.setWidth_eq]

/-! ### Words of a lane -/

/-- The accumulator is a window word. -/
def Accum.isWin : Accum → Bool
  | .win _ => true
  | .f32 _ => false

/-- What a word of 128 or 32 bits keeps of an accumulator (03_arithmetic R62). -/
def wrapAccum : Accum → Accum
  | .win v => .win ⟨(BitVec.ofInt 128 v.w).toInt, v.flags⟩
  | .f32 v => .f32 v

theorem wrapAccum_of_fits {v : Accum} (h : Fits v) : wrapAccum v = v := by
  cases v with
  | f32 v => rfl
  | win v => rw [wrapAccum, BitVec.toInt_ofInt_eq_self (by decide) h.1 h.2]

/-- How many bytes an accumulator word has. -/
abbrev accSize (anchored : Bool) : Nat := if anchored = true then 16 else 4

/-- How many words a lane has (R98, R110). -/
abbrev accWords (anchored : Bool) : Nat := if anchored = true then 512 else 2048

theorem length_accumBytes (v : Accum) : (accumBytes v).length = accSize v.isWin := by cases v <;> exact natLe_length _ _

/-- Word `w` of another lane lies apart. -/
theorem accAddr_disjoint (e g : Nat) {l j w : Nat} {anchored : Bool} (hw : w < accWords anchored) (hj : j ≠ l) :
    accAddr e g j w anchored + accSize anchored ≤ accAddr e g l w anchored ∨
      accAddr e g l w anchored + accSize anchored ≤ accAddr e g j w anchored := by
  cases anchored <;> simp only [accAddr, sramAddr, accSize, accWords, Bool.false_eq_true, if_false, if_true] at hw ⊢ <;> omega

section words

variable {s : State} {e g l w : Nat} {v : Accum}

theorem writeAccum_mem : (writeAccum s e g l w v).mem = cellsWrite s.mem (accAddr e g l w v.isWin) (accumBytes v) := by cases v <;> rfl

theorem writeAccum_sound (h : SoundMemory s) : SoundMemory (writeAccum s e g l w v) := by
  refine ⟨writeAccum_mem ▸ cellsWrite_wf _ _ h.1, ?_⟩
  cases v <;> exact fun q hq => h.2 q (List.mem_of_mem_filter hq)

/-- The side array takes the flags of a window word. -/
theorem writeAccum_engineAt : (writeAccum s e g l w v).engineAt e g = { s.engineAt e g with
    side := match v with | .win x => tabSet (s.engineAt e g).side (l * 512 + w) x.flags | .f32 _ => (s.engineAt e g).side
    accBad := accSound (s.engineAt e g).accBad (accKeys l w v.isWin) } := by
  cases v <;> exact engineAt_setEngine _ _ _ _

/-- A word reads alike where its bytes and its flags are alike. -/
theorem readAccum_congr {t : State} {anchored : Bool} (hs : SoundMemory s) (ht : SoundMemory t)
    (hmem : ∀ b, accAddr e g l w anchored ≤ b → b < accAddr e g l w anchored + accSize anchored → cellGet t.mem b = cellGet s.mem b)
    (hside : tabGet 0 (t.engineAt e g).side (l * 512 + w) = tabGet 0 (s.engineAt e g).side (l * 512 + w)) :
    readAccum t e g l w anchored = readAccum s e g l w anchored := by
  simp only [readAccum, natAt, bytesAt_of_sound hs, bytesAt_of_sound ht, cellsRead_congr _ hmem, hside]

/-- The word just written reads as what it keeps of the accumulator. -/
theorem readAccum_writeAccum_same (hs : SoundMemory s) : readAccum (writeAccum s e g l w v) e g l w v.isWin = wrapAccum v := by
  have hread : natAt (writeAccum s e g l w v) (accAddr e g l w v.isWin) (accSize v.isWin) = leNat (accumBytes v) := by
    rw [natAt, bytesAt_of_sound (writeAccum_sound hs), writeAccum_mem, ← length_accumBytes, cellsRead_cellsWrite hs.1]
  simp only [readAccum, hread, writeAccum_engineAt]
  cases v with
  | f32 v => exact congrArg Accum.f32 (ofNat_leNat_natLe (n := 4) v)
  | win v =>
    simp only [Accum.isWin, if_true, accumBytes, tabGet_tabSet_same, wrapAccum]
    rw [show BitVec.ofNat 128 _ = _ from ofNat_leNat_natLe (n := 16) (BitVec.ofInt 128 v.w)]

/-- The same word of another lane reads as before. -/
theorem readAccum_writeAccum_ne {j : Nat} {anchored : Bool} (hs : SoundMemory s) (hv : v.isWin = anchored) (hw : w < accWords anchored)
    (hj : j ≠ l) : readAccum (writeAccum s e g l w v) e g j w anchored = readAccum s e g j w anchored := by
  subst hv
  refine readAccum_congr hs (writeAccum_sound hs) (fun b hlo hhi => ?_) ?_
  · rw [writeAccum_mem, cellGet_cellsWrite_outside]
    have := accAddr_disjoint e g hw hj
    rw [length_accumBytes]
    omega
  · rw [writeAccum_engineAt]
    cases v with
    | f32 v => rfl
    | win v => exact tabGet_tabSet_ne _ _ _ _ _ (by omega)

end words

/-! ### Kinds of accumulators (R110, R113) -/

/-- A sum is of the kind of its dot product. -/
theorem isWin_accumAdd {old : Option Accum} {d : Accum} : (accumAdd old d).isWin = d.isWin := by
  cases d <;> rcases old with _ | _ | _ <;> rfl

theorem isWin_dotOf (fa fb : Nat) (anchor : Int) (a b : Chunk) : (dotOf fa fb anchor a b).isWin = anchoredFormat fa := by
  rw [dotOf]
  split <;> simp_all [Accum.isWin]

theorem isWin_regAccum (anchored : Bool) (v : Int × BitVec 4) : (regAccum anchored v).isWin = anchored := by cases anchored <;> rfl

/-- A register gives back the accumulator that it took. -/
theorem regAccum_accumReg (v : Accum) : regAccum v.isWin (accumReg v) = v := by
  cases v with
  | win v => rfl
  | f32 v => simp [Accum.isWin, accumReg, regAccum]

/-! ### One word of several lanes -/

section lanes

variable {f : State → Nat → State} {I : State → Prop} {val : State → Nat → Accum} {e g w : Nat} {anchored : Bool}

/-- Each step writes word `w` of its lane, and leaves the other words and the flags of other lanes alone. -/
structure WritesLanes (f : State → Nat → State) (I : State → Prop) (val : State → Nat → Accum) (e g w : Nat) (anchored : Bool) : Prop where
  keeps : ∀ u l, I u → I (f u l)
  sound : ∀ u, I u → SoundMemory u
  kind : ∀ u l, (val u l).isWin = anchored
  mem : ∀ u l, (f u l).mem = (writeAccum u e g l w (val u l)).mem
  side : ∀ u l, ((f u l).engineAt e g).side = ((writeAccum u e g l w (val u l)).engineAt e g).side
  /-- what a lane writes depends on the word alone -/
  alike : ∀ u t l, I u → I t → readAccum u e g l w anchored = readAccum t e g l w anchored → val u l = val t l

variable (h : WritesLanes f I val e g w anchored)
include h

theorem WritesLanes.readAccum_eq (u : State) (l j : Nat) (hu : I u) :
    readAccum (f u l) e g j w anchored = readAccum (writeAccum u e g l w (val u l)) e g j w anchored :=
  readAccum_congr (writeAccum_sound (h.sound u hu)) (h.sound _ (h.keeps u l hu)) (fun b _ _ => by rw [h.mem]) (by rw [h.side])

/-- Each lane's word holds what its own step alone would write. -/
theorem WritesLanes.readAccum_foldl (hw : w < accWords anchored) {ls : List Nat} (hls : ls.Nodup) {l : Nat} (hl : l ∈ ls) {s : State} (hs : I s) :
    readAccum (ls.foldl f s) e g l w anchored = wrapAccum (val s l) := by
  have hsame : ∀ u, I u → readAccum (f u l) e g l w anchored = wrapAccum (val u l) := fun u hu => by
    rw [h.readAccum_eq u l l hu]
    exact h.kind u l ▸ readAccum_writeAccum_same (h.sound u hu)
  rw [foldl_view_of_mem (v := fun u => readAccum u e g l w anchored) h.keeps
    (fun u k hu hk => (h.readAccum_eq u k l hu).trans (readAccum_writeAccum_ne (h.sound u hu) (h.kind u k) hw hk.symm))
    (fun u t hu ht hut => by rw [hsame u hu, hsame t ht, h.alike u t l hu ht hut]) hls hl hs, hsame s hs]

/-- No other byte of memory changes. -/
theorem WritesLanes.cellGet_foldl {ls : List Nat} {a : Nat}
    (ha : ∀ l ∈ ls, a < accAddr e g l w anchored ∨ accAddr e g l w anchored + accSize anchored ≤ a) (s : State) :
    cellGet (ls.foldl f s).mem a = cellGet s.mem a :=
  ls.foldlRecOn f (motive := fun u => cellGet u.mem a = cellGet s.mem a) rfl fun u hu l hl => by
    rw [h.mem, writeAccum_mem, cellGet_cellsWrite_outside, hu]
    rw [h.kind, length_accumBytes, h.kind]
    exact ha l hl

end lanes

end Sys2Proof.Machine
end

section
/-!
Vectors of an engine: what holds an entry back, what each lane adds, and where the entry goes on (04_matrix R95 to R107, R113, R116; 10_streams R331).
-/

namespace Sys2Proof.Machine

open Sys2Proof.Claims

theorem exec_vectorEntry (ec : Fin 128) (eng : Fin 2) (s : State) : exec (.vectorEntry ec eng) s = execVectorEntry ec eng s := rfl

/-! ### What holds an entry back (R105, R112, R116) -/

/-- The region of the run still drains. -/
def Draining (x : Engine) (run : TileRun) : Prop :=
  run.pass = 0 ∧ run.column = 0 ∧ ∃ q ∈ x.drains, regionsMeet q.1.region run.region = true

/-- Every lane's free buffer holds the chunk of the pass that begins. -/
def Loaded (x : Engine) (run : TileRun) (geo : Geo) : Prop :=
  ∀ l ∈ geo.lanes, ∃ k, tabFind x.resident (bufferKey l (!x.buffer)) = some k ∧ k.run = 0 ∧ k.pass = run.pass

/-- In output-resident mode every lane has its pair. -/
def Paired (x : Engine) (geo : Geo) : Prop := ∀ l ∈ geo.lanes, 2 ≤ (tabGet [] x.feeders l).length

/-- The free buffer of lane `l` holds the chunk of the pass that begins. -/
def holdsDue (x : Engine) (run : TileRun) (l : Nat) : Bool :=
  match tabFind x.resident (bufferKey l (!x.buffer)) with
  | some c => c.run == 0 && c.pass == run.pass
  | none => false

theorem holdsDue_iff {x : Engine} {run : TileRun} {l : Nat} : holdsDue x run l = true ↔
    ∃ k, tabFind x.resident (bufferKey l (!x.buffer)) = some k ∧ k.run = 0 ∧ k.pass = run.pass := by
  unfold holdsDue
  cases tabFind x.resident (bufferKey l (!x.buffer)) with
  | none => simp
  | some c => simp

/-- A pass begins, and the free buffer of a lane lacks its chunk. -/
def unloaded (x : Engine) (run : TileRun) (geo : Geo) : Bool := !geo.outRes && run.column == 0 && !geo.lanes.all (holdsDue x run)

theorem unloaded_iff {x : Engine} {run : TileRun} {geo : Geo} : unloaded x run geo = true ↔
    geo.outRes = false ∧ run.column = 0 ∧ ¬Loaded x run geo := by
  have hloaded : geo.lanes.all (holdsDue x run) = true ↔ Loaded x run geo := by simp only [List.all_eq_true, Loaded, holdsDue_iff]
  rw [← hloaded]
  simp [unloaded, and_assoc]

section stalls

variable {s : State} {e : Nat} {eng : Fin 2} {run : TileRun} {r : MacroRec} {geo : Geo}

/-- No supply warning holds the die, the run's region is free, and in phase 1 of a CHAIN the engine owns the score store. -/
structure Clear (s : State) (e : Nat) (eng : Fin 2) (run : TileRun) : Prop where
  supply : ¬supplyHold s (ecDie e) = true
  region : ¬Draining (s.engineAt e eng.val) run
  store : run.phase = 1 → (s.ecAt e).scoreOwner = some (engineUnit eng)

theorem entryStall_of_hold (h : supplyHold s (ecDie e) = true) : entryStall s e eng.val run r geo = some (some cntStallSupply) := if_pos h

theorem draining_iff {x : Engine} : (run.pass == 0 && run.column == 0 && x.drains.any fun d => regionsMeet d.1.region run.region) = true ↔
    Draining x run := by
  simp only [Bool.and_eq_true, beq_iff_eq, List.any_eq_true, Draining, and_assoc]

theorem entryStall_of_draining (hsupply : ¬supplyHold s (ecDie e) = true) (h : Draining (s.engineAt e eng.val) run) :
    entryStall s e eng.val run r geo = some (some cntStallAcc) := by
  unfold entryStall
  dsimp only
  rw [if_neg hsupply, if_pos (draining_iff.mpr h)]

/-- The engine as entry names it. -/
theorem engineUnit_eq (h : eng.val % 2 < 3) : (⟨eng.val % 2, h⟩ : Fin 3) = engineUnit eng := Fin.ext (Nat.mod_eq_of_lt eng.isLt)

theorem entryStall_of_score (hsupply : ¬supplyHold s (ecDie e) = true) (hregion : ¬Draining (s.engineAt e eng.val) run) (hphase : run.phase = 1)
    (howner : (s.ecAt e).scoreOwner ≠ some (engineUnit eng)) : entryStall s e eng.val run r geo = some (some cntStallScore) := by
  unfold entryStall
  dsimp only
  rw [if_neg hsupply, if_neg (draining_iff.not.mpr hregion), engineUnit_eq, if_pos ⟨hphase, howner⟩]

variable (h : Clear s e eng run)
include h

/-- What is left to hold a clear entry back. -/
theorem entryStall_of_clear : entryStall s e eng.val run r geo =
    if (!geo.outRes && (s.engineAt e eng.val).broadcast.isEmpty && ((lateCause s e r run).isSome || !unloaded (s.engineAt e eng.val) run geo)) = true
    then some (lateCause s e r run)
    else if unloaded (s.engineAt e eng.val) run geo = true then some (some (cntFeedStall + eng.val))
    else if (geo.outRes && !(geo.lanes.all fun l => decide (2 ≤ (tabGet [] (s.engineAt e eng.val).feeders l).length))) = true
    then some (some (cntFeedStall + eng.val)) else none := by
  unfold entryStall
  dsimp only
  rw [if_neg h.supply, if_neg (draining_iff.not.mpr h.region), engineUnit_eq, if_neg fun hc => hc.2 (h.store hc.1)]
  rfl

theorem entryStall_of_late (hout : geo.outRes = false) (hempty : (s.engineAt e eng.val).broadcast = []) {k : Nat}
    (hlate : lateCause s e r run = some k) : entryStall s e eng.val run r geo = some (some k) := by
  rw [entryStall_of_clear h, if_pos (by simp [hout, hempty, hlate]), hlate]

theorem entryStall_of_unloaded (hout : geo.outRes = false) (hbegins : run.column = 0) (hloaded : ¬Loaded (s.engineAt e eng.val) run geo)
    (hlate : (s.engineAt e eng.val).broadcast = [] → lateCause s e r run = none) :
    entryStall s e eng.val run r geo = some (some (cntFeedStall + eng.val)) := by
  have hun : unloaded (s.engineAt e eng.val) run geo = true := unloaded_iff.mpr ⟨hout, hbegins, hloaded⟩
  rw [entryStall_of_clear h, if_neg, if_pos hun]
  simp only [hun, Bool.and_eq_true, List.isEmpty_iff, Bool.not_true, Bool.or_false, Option.isSome_iff_ne_none]
  exact fun hc => hc.2 (hlate hc.1.2)

/-- Without a broadcast operand nothing enters. -/
theorem entryStall_of_empty (hout : geo.outRes = false) (hempty : (s.engineAt e eng.val).broadcast = []) :
    ∃ k, entryStall s e eng.val run r geo = some k := by
  rw [entryStall_of_clear h]
  by_cases hun : unloaded (s.engineAt e eng.val) run geo = true
  · rw [if_pos hun]
    split_ifs
    all_goals exact ⟨_, rfl⟩
  · exact ⟨_, if_pos (by simp [hout, hempty, hun])⟩

theorem entryStall_of_ready (hout : geo.outRes = false) (hsome : (s.engineAt e eng.val).broadcast ≠ [])
    (hloaded : run.column = 0 → Loaded (s.engineAt e eng.val) run geo) : entryStall s e eng.val run r geo = none := by
  have hun : ¬unloaded (s.engineAt e eng.val) run geo = true := fun hc => (unloaded_iff.mp hc).2.2 (hloaded (unloaded_iff.mp hc).2.1)
  rw [entryStall_of_clear h, if_neg (by simp [hsome]), if_neg hun, if_neg (by simp [hout])]

theorem entryStall_of_outRes (hout : geo.outRes = true) : (Paired (s.engineAt e eng.val) geo → entryStall s e eng.val run r geo = none) ∧
    (¬Paired (s.engineAt e eng.val) geo → entryStall s e eng.val run r geo = some (some (cntFeedStall + eng.val))) := by
  have hun : ¬unloaded (s.engineAt e eng.val) run geo = true := fun hc => absurd (unloaded_iff.mp hc).1 (by simp [hout])
  have hpaired : (geo.outRes && !(geo.lanes.all fun l => decide (2 ≤ (tabGet [] (s.engineAt e eng.val).feeders l).length))) = true ↔
      ¬Paired (s.engineAt e eng.val) geo := by
    simp only [hout, Bool.true_and, Bool.not_eq_true', ← Bool.not_eq_true, List.all_eq_true, decide_eq_true_eq, Paired]
  rw [entryStall_of_clear h, if_neg (by simp [hout]), if_neg hun]
  exact ⟨fun hp => if_neg fun hc => hpaired.mp hc hp, fun hp => if_pos (hpaired.mpr hp)⟩

end stalls

/-! ### Bubbles (R116; 10_streams R331) -/

theorem bubble_onlyEc (s : State) (e : Nat) (k : Option Nat) : OnlyEc s (bubble s e k) e ∧ ((bubble s e k).ecAt e).engines = (s.ecAt e).engines := by
  cases k with
  | none => exact ⟨⟨rfl, fun _ _ => rfl⟩, rfl⟩
  | some k => exact ⟨⟨rfl, fun _ hi => ecAt_modEc_ne _ _ _ _ hi⟩, by rw [bubble, bumpEc, bumpEcBy, ecAt_modEc]⟩

/-- The state in which an engine in phase 1 of a CHAIN has asked for the score store. -/
def scoreAsked (s : State) (e : Nat) (eng : Fin 2) (run : TileRun) : State :=
  if run.phase = 1 then s.setEc e (scoreAsk (s.ecAt e) (engineUnit eng)).2 else s

section asked

variable (s : State) (e : Nat) (eng : Fin 2) (run : TileRun)

theorem scoreAsked_onlyEc : OnlyEc s (scoreAsked s e eng run) e := by
  unfold scoreAsked
  split
  · exact ⟨rfl, fun _ hi => ecAt_setEc_ne _ _ _ _ hi⟩
  · exact ⟨rfl, fun _ _ => rfl⟩

theorem scoreAsked_ec : ((scoreAsked s e eng run).ecAt e).engines = (s.ecAt e).engines ∧
    ((scoreAsked s e eng run).ecAt e).counters = (s.ecAt e).counters := by
  unfold scoreAsked
  split
  · obtain ⟨o, l, h⟩ := scoreAsk_same (s.ecAt e) (engineUnit eng)
    rw [ecAt_setEc, h]
    exact ⟨rfl, rfl⟩
  · exact ⟨rfl, rfl⟩

theorem engineAt_scoreAsked (g : Nat) : (scoreAsked s e eng run).engineAt e g = s.engineAt e g := by
  rw [State.engineAt, Ec.engineAt, (scoreAsked_ec s e eng run).1, State.engineAt, Ec.engineAt]

theorem stewardsWait_scoreAsked (i : Nat) : stewardsWait (scoreAsked s e eng run) i = stewardsWait s i := by
  unfold scoreAsked
  split
  · exact stewardsWait_setEc (scoreAsk_seenAlike _ _) i
  · rfl

theorem supplyHold_scoreAsked (d : Nat) : supplyHold (scoreAsked s e eng run) d = supplyHold s d := by
  unfold scoreAsked
  split <;> rfl

theorem scoreAsked_mem : (scoreAsked s e eng run).mem = s.mem ∧ (scoreAsked s e eng run).bad = s.bad := by
  unfold scoreAsked
  split
  all_goals exact ⟨rfl, rfl⟩

theorem scoreAsked_owner_iff (hphase : run.phase = 1) : ((scoreAsked s e eng run).ecAt e).scoreOwner = some (engineUnit eng) ↔
    (s.ecAt e).scoreOwner = some (engineUnit eng) ∨ ((s.ecAt e).scoreOwner = none ∧ (s.ecAt e).scoreWaiters = []) := by
  rw [scoreAsked, if_pos hphase, ecAt_setEc, scoreAsk_owner_iff]

end asked

/-- The engine has the score store, or gets it, where it needs it (06_attend R168). -/
abbrev HasStore (s : State) (e : Nat) (eng : Fin 2) (run : TileRun) : Prop :=
  run.phase ≠ 1 ∨ (s.ecAt e).scoreOwner = some (engineUnit eng) ∨ ((s.ecAt e).scoreOwner = none ∧ (s.ecAt e).scoreWaiters = [])

theorem clear_scoreAsked {s : State} {e : Nat} {eng : Fin 2} {run : TileRun} (hsupply : ¬supplyHold s (ecDie e) = true)
    (hregion : ¬Draining (s.engineAt e eng.val) run) (hstore : HasStore s e eng run) : Clear (scoreAsked s e eng run) e eng run where
  supply := by rwa [supplyHold_scoreAsked]
  region := by rwa [engineAt_scoreAsked]
  store hphase := (scoreAsked_owner_iff s e eng run hphase).mpr (hstore.resolve_left fun h => h hphase)

/-- The cause under which a bubble of cause `k` counts: an earlier one for which a steward of the EC waits. -/
def bubbleCause (s : State) (e k : Nat) : Nat := match stewardsWait s e with | some n => min k n | none => k

theorem bubble_some (s : State) (e k : Nat) : bubble s e (some k) = bumpEc s e (bubbleCause s e k) := rfl

theorem bubbleCause_scoreAsked (s : State) (e : Nat) (eng : Fin 2) (run : TileRun) (k : Nat) :
    bubbleCause (scoreAsked s e eng run) e k = bubbleCause s e k := by
  rw [bubbleCause, stewardsWait_scoreAsked, bubbleCause]

/-- A bubble of an engine, counted once. -/
def Bubbles (i : Instr) (s : State) (e k : Nat) : Prop :=
  ∃ t, Gives i s t ∧ OnlyEc s t e ∧ (t.ecAt e).engines = (s.ecAt e).engines ∧
    (t.ecAt e).counters = bumpBy (s.ecAt e).counters (bubbleCause s e k) 1

/-! ### VECTOR_ENTRY -/

section entry

variable {s : State} {ec : Fin 128} {eng : Fin 2} {run : TileRun} {r : MacroRec} {geo : Geo} {subs : Nat}

/-- An EC that is neither halted nor about to halt has an engine with a run whose vectors enter. -/
structure Enters (s : State) (ec : Fin 128) (eng : Fin 2) (run : TileRun) (r : MacroRec) (geo : Geo) (subs : Nat) : Prop where
  clocked : coreClocks s = true
  halting : (s.ecAt ec.val).dbg.halting = false
  halted : (s.ecAt ec.val).dbg.halted = false
  runs : engineRun s ec.val eng.val = some (run, r, .ok (some (geo, subs)))

variable (h : Enters s ec eng run r geo subs)
include h

theorem vectorEntry_stalls {cause : Option Nat} (hstall : entryStall (scoreAsked s ec.val eng run) ec.val eng.val run r geo = some cause) :
    Gives (.vectorEntry ec eng) s (bubble (scoreAsked s ec.val eng run) ec.val cause) := by
  rw [scoreAsked] at hstall ⊢
  simp only [Gives, exec_vectorEntry, execVectorEntry, whileClocked_of_clock h.clocked, h.halting, h.halted, h.runs, hstall, Bool.false_eq_true,
    if_false]

theorem vectorEntry_enters (hstall : entryStall (scoreAsked s ec.val eng run) ec.val eng.val run r geo = none) :
    Gives (.vectorEntry ec eng) s (if geo.outRes = true then enterStep (scoreAsked s ec.val eng run) ec.val eng.val run geo subs (geo.anchored, geo.width)
      else engineResult (scoreAsked s ec.val eng run) ec.val r
        (enterVector (scoreAsked s ec.val eng run) ec.val eng.val run geo subs (geo.anchored, geo.width))) := by
  rw [scoreAsked] at hstall ⊢
  simp only [Gives, exec_vectorEntry, execVectorEntry, whileClocked_of_clock h.clocked, h.halting, h.halted, h.runs, hstall, Bool.false_eq_true,
    if_false]

/-- A held entry leaves the engines alone. -/
theorem vectorEntry_held {cause : Option Nat} (hstall : entryStall (scoreAsked s ec.val eng run) ec.val eng.val run r geo = some cause) :
    ∃ t, Gives (.vectorEntry ec eng) s t ∧ OnlyEc s t ec.val ∧ (t.ecAt ec.val).engines = (s.ecAt ec.val).engines := by
  obtain ⟨⟨hframe, hothers⟩, hengines⟩ := bubble_onlyEc (scoreAsked s ec.val eng run) ec.val cause
  obtain ⟨hframe', hothers'⟩ := scoreAsked_onlyEc s ec.val eng run
  refine ⟨_, vectorEntry_stalls h hstall, ⟨?_, fun i hi => (hothers i hi).trans (hothers' i hi)⟩, hengines.trans (scoreAsked_ec ..).1⟩
  rw [hframe, hframe']

theorem vectorEntry_bubbles {k : Nat} (hstall : entryStall (scoreAsked s ec.val eng run) ec.val eng.val run r geo = some (some k)) :
    Bubbles (.vectorEntry ec eng) s ec.val k := by
  obtain ⟨t, ht, honly, hengines⟩ := vectorEntry_held h hstall
  refine ⟨t, ht, honly, hengines, ?_⟩
  obtain rfl : bubble (scoreAsked s ec.val eng run) ec.val (some k) = t :=
    Host.Outcome.next.inj ((vectorEntry_stalls h hstall).symm.trans ht)
  rw [bubble_some, bumpEc, bumpEcBy, ecAt_modEc, bubbleCause_scoreAsked, (scoreAsked_ec ..).2]

end entry

end Sys2Proof.Machine
end

section
/-!
What a vector, or a step in output-resident mode, leaves in the accumulators of the lanes, and where the entry goes on (04_matrix R95, R99, R100,
R104, R107, R113).
-/

namespace Sys2Proof.Machine

open Sys2Proof.Claims

theorem Geo.nodup_lanes (geo : Geo) : geo.lanes.Nodup := List.nodup_range.filter _

/-! ### Where the entry goes on (R99, R104, R106, R113) -/

section advance

variable (x : Engine) (run : TileRun) (geo : Geo) (subs : Nat) (width : Bool × Nat)

theorem lastVector_spec : (lastVector x run subs width).drains = x.drains ++ [(run, 0)] ∧ (lastVector x run subs width).side = x.side ∧
    (lastVector x run subs width).registers = x.registers ∧
    (subs ≤ run.sub + 1 → run.phase ≠ 1 → (lastVector x run subs width).current = x.next ∧ (lastVector x run subs width).next = none) := by
  simp only [lastVector]
  split_ifs with hsub hphase
  · exact ⟨rfl, rfl, rfl, fun hlast => absurd hsub (not_lt.mpr hlast)⟩
  · exact ⟨rfl, rfl, rfl, fun _ hne => absurd hphase hne⟩
  · exact ⟨rfl, rfl, rfl, fun _ _ => ⟨rfl, rfl⟩⟩

variable {x run geo subs width}

theorem advanceRun_column (h : run.column + 1 < geo.width) :
    advanceRun x run geo subs width = { x with current := some { run with column := run.column + 1 } } := if_pos h

theorem advanceRun_pass (h : geo.width ≤ run.column + 1) (hpass : run.pass + 1 < geo.passes) :
    advanceRun x run geo subs width = { x with current := some { run with pass := run.pass + 1, column := 0 } } :=
  (if_neg (not_lt.mpr h)).trans (if_pos hpass)

theorem advanceRun_last (h : geo.width ≤ run.column + 1) (hpass : geo.passes ≤ run.pass + 1) :
    advanceRun x run geo subs width = lastVector x run subs width := (if_neg (not_lt.mpr h)).trans (if_neg (not_lt.mpr hpass))

/-- The lanes' accumulators and registers stay. -/
theorem advanceRun_lanes : (advanceRun x run geo subs width).side = x.side ∧ (advanceRun x run geo subs width).registers = x.registers := by
  obtain ⟨-, hside, hregisters, -⟩ := lastVector_spec x run subs width
  unfold advanceRun
  split_ifs
  · exact ⟨rfl, rfl⟩
  · exact ⟨rfl, rfl⟩
  · exact ⟨hside, hregisters⟩

end advance

/-- The state in which the entry has gone on, with its cycle counted. -/
def entryAdvanced (t : State) (e g : Nat) (run : TileRun) (geo : Geo) (subs : Nat) : State :=
  bumpEc (t.setEngine e g (advanceRun (t.engineAt e g) run geo subs (geo.anchored, geo.width))) e cntActive

theorem engineAt_bumpEc (s : State) (e g i : Nat) : (bumpEc s e i).engineAt e g = s.engineAt e g := by
  rw [bumpEc, bumpEcBy, engineAt_modEc]
  rfl

theorem engineAt_entryAdvanced (t : State) (e g : Nat) (run : TileRun) (geo : Geo) (subs : Nat) :
    (entryAdvanced t e g run geo subs).engineAt e g = advanceRun (t.engineAt e g) run geo subs (geo.anchored, geo.width) := by
  rw [entryAdvanced, engineAt_bumpEc, engineAt_setEngine]

/-- The accumulator words of an engine stay as they are. -/
theorem readAccum_entryAdvanced {t : State} (ht : SoundMemory t) (e g : Nat) (run : TileRun) (geo : Geo) (subs l w : Nat) (anchored : Bool) :
    readAccum (entryAdvanced t e g run geo subs) e g l w anchored = readAccum t e g l w anchored := by
  refine readAccum_congr ht ht (fun _ _ _ => rfl) ?_
  rw [engineAt_entryAdvanced, advanceRun_lanes.1]

/-! ### One vector (R95, R107, R113) -/

section vector

/-- One lane has added its dot product to its word; the first pass writes it. `x` holds what the lanes read. -/
def laneAdded (e g : Nat) (run : TileRun) (geo : Geo) (w : Nat) (b : Chunk) (x : Engine) (u : State) (l : Nat) : State :=
  countSat (writeAccum u e g l w (accumAdd (if run.pass = 0 then none else some (readAccum u e g l w geo.anchored))
    (dotOf geo.fl geo.fb geo.anchor (residentOf x l) b))) e (satCount geo.fl geo.fb geo.anchor (residentOf x l) b)

/-- Engine `g` is `x` but for the flags of its words, none of which is in error. -/
def SideOnly (x : Engine) (e g : Nat) (u : State) : Prop := ∃ m, u.engineAt e g = { x with side := m, accBad := [] }

theorem countSat_frame (s : State) (e n g : Nat) : (countSat s e n).mem = s.mem ∧ (countSat s e n).bad = s.bad ∧
    (countSat s e n).engineAt e g = s.engineAt e g := by
  unfold countSat
  split
  · exact ⟨rfl, rfl, rfl⟩
  · refine ⟨rfl, rfl, ?_⟩
    rw [bumpEcBy, engineAt_modEc]
    rfl

variable {e g : Nat} {run : TileRun} {geo : Geo} {w : Nat} {b : Chunk} {x : Engine}

theorem sideOnly_laneAdded {u : State} (h : SideOnly x e g u) (l : Nat) : SideOnly x e g (laneAdded e g run geo w b x u l) := by
  obtain ⟨m, hm⟩ := h
  rw [SideOnly, laneAdded, (countSat_frame _ _ _ g).2.2, writeAccum_engineAt, hm]
  exact ⟨_, rfl⟩

/-- A lane without errors adds its dot product. -/
theorem laneVector_of_sideOnly (hx : x.residentBad = []) {u : State} (h : SideOnly x e g u) (l : Nat) :
    laneVector u e g run geo w b l = .ok (laneAdded e g run geo w b x u l) := by
  obtain ⟨m, hm⟩ := h
  have hresident : checkResident u e g (bufferKey l (u.engineAt e g).buffer) = .ok u := by
    simp only [checkResident, hm, hx, tabGet_nil]
  have haccum : checkAccum u e g l w geo.anchored = .ok u := by simp only [checkAccum, hm, accWorst, List.foldl_nil]
  have hchunk : residentOf (u.engineAt e g) l = residentOf x l := by rw [hm]; rfl
  simp only [laneVector, hresident, bind, Except.bind, haccum, hchunk, pure, Except.pure, ite_self]
  rfl

/-- The vector is a write of word `w` of each lane. -/
theorem writesLanes_laneAdded : WritesLanes (laneAdded e g run geo w b x) SoundMemory
    (fun u l => accumAdd (if run.pass = 0 then none else some (readAccum u e g l w geo.anchored))
      (dotOf geo.fl geo.fb geo.anchor (residentOf x l) b)) e g w geo.anchored where
  keeps u l hu := by
    obtain ⟨hmem, hbad, -⟩ := countSat_frame (writeAccum u e g l w (accumAdd (if run.pass = 0 then none else
      some (readAccum u e g l w geo.anchored)) (dotOf geo.fl geo.fb geo.anchor (residentOf x l) b))) e
      (satCount geo.fl geo.fb geo.anchor (residentOf x l) b) g
    rw [laneAdded, SoundMemory, hmem, hbad]
    exact writeAccum_sound hu
  sound _ hu := hu
  kind _ _ := isWin_accumAdd.trans (isWin_dotOf ..)
  mem _ _ := (countSat_frame _ _ _ g).1
  side _ _ := congrArg Engine.side (countSat_frame _ _ _ g).2.2
  alike _ _ _ _ _ hread := by rw [hread]

end vector

section vectors

/-- An engine that has taken the vector at the head of its broadcast queue: a marked one has switched the resident buffers. -/
def vectorTaken (x : Engine) (run : TileRun) (rest : List Chunk) : Engine := { (if run.column = 0 then castle x else x) with broadcast := rest }

/-- The lanes that take a vector: none beyond the edge of the matrix. -/
abbrev vectorLanes (run : TileRun) (geo : Geo) : List Nat := if run.column < geo.cols then geo.lanes else []

/-- The accumulator word of a vector. -/
abbrev vectorWord (run : TileRun) (geo : Geo) : Nat := regionBase geo.anchored run.region + run.column

/-- The state in which vector `b` has entered, with `rest` behind it. -/
def vectorEntered (s : State) (e g : Nat) (run : TileRun) (geo : Geo) (b : Chunk) (rest : List Chunk) : State :=
  (vectorLanes run geo).foldl (laneAdded e g run geo (vectorWord run geo) b (vectorTaken (s.engineAt e g) run rest))
    (s.setEngine e g (vectorTaken (s.engineAt e g) run rest))

theorem vectorTaken_same (x : Engine) (run : TileRun) (rest : List Chunk) : (vectorTaken x run rest).drains = x.drains ∧
    (vectorTaken x run rest).next = x.next ∧ (vectorTaken x run rest).buffer = (if run.column = 0 then !x.buffer else x.buffer) ∧
    (vectorTaken x run rest).side = x.side ∧ (vectorTaken x run rest).accBad = x.accBad ∧
    (vectorTaken x run rest).residentBad = x.residentBad := by
  unfold vectorTaken
  split_ifs
  all_goals exact ⟨rfl, rfl, rfl, rfl, rfl, rfl⟩

/-- The lanes read the buffers to which the vector has switched. -/
theorem residentOf_vectorTaken (x : Engine) (run : TileRun) (rest : List Chunk) (l : Nat) :
    residentOf (vectorTaken x run rest) l = residentOf (if run.column = 0 then castle x else x) l := rfl

variable {s : State} {e g : Nat} {run : TileRun} {geo : Geo} {subs : Nat} {b : Chunk} {rest : List Chunk}

theorem sideOnly_vectorTaken (hacc : (s.engineAt e g).accBad = []) :
    SideOnly (vectorTaken (s.engineAt e g) run rest) e g (s.setEngine e g (vectorTaken (s.engineAt e g) run rest)) := by
  obtain ⟨-, -, -, -, hbad, -⟩ := vectorTaken_same (s.engineAt e g) run rest
  refine ⟨(vectorTaken (s.engineAt e g) run rest).side, ?_⟩
  rw [engineAt_setEngine, ← hacc, ← hbad]

/-- A vector that meets no error enters. -/
theorem enterVector_eq (hb : (s.engineAt e g).broadcast = b :: rest) (hacc : (s.engineAt e g).accBad = [])
    (hresident : (s.engineAt e g).residentBad = []) : enterVector s e g run geo subs (geo.anchored, geo.width) =
      .ok (entryAdvanced (vectorEntered s e g run geo b rest) e g run geo subs) := by
  obtain ⟨-, -, -, -, -, hsame⟩ := vectorTaken_same (s.engineAt e g) run rest
  have hbroadcast : (if run.column = 0 then castle (s.engineAt e g) else s.engineAt e g).broadcast = b :: rest := by
    rw [apply_ite Engine.broadcast]
    exact (ite_self _).trans hb
  have hfold : (if geo.cols ≤ run.column then Except.ok (s.setEngine e g (vectorTaken (s.engineAt e g) run rest))
      else foldGot (fun u l => laneVector u e g run geo (vectorWord run geo) b l) (s.setEngine e g (vectorTaken (s.engineAt e g) run rest))
        geo.lanes) = .ok (vectorEntered s e g run geo b rest) := by
    rw [vectorEntered, vectorLanes]
    by_cases hcol : run.column < geo.cols
    · rw [if_neg (not_le.mpr hcol), if_pos hcol]
      exact foldGot_eq_foldl (fun _ l hu => sideOnly_laneAdded hu l) (fun _ l hu => laneVector_of_sideOnly (hsame.trans hresident) hu l) _
        (sideOnly_vectorTaken hacc)
    · rw [if_pos (not_lt.mp hcol), if_neg hcol, List.foldl_nil]
  simp only [enterVector, hbroadcast]
  exact congrArg (Except.map fun t => entryAdvanced t e g run geo subs) hfold

/-- Of the engine only the flags of its words change while the vector passes the lanes. -/
theorem vectorEntered_engineAt (hacc : (s.engineAt e g).accBad = []) : ∃ m, (vectorEntered s e g run geo b rest).engineAt e g =
    { vectorTaken (s.engineAt e g) run rest with side := m, accBad := [] } :=
  foldl_keeps (I := SideOnly (vectorTaken (s.engineAt e g) run rest) e g) (fun _ l hu => sideOnly_laneAdded hu l) _ (sideOnly_vectorTaken hacc)

theorem vectorEntered_sound (hs : SoundMemory s) : SoundMemory (vectorEntered s e g run geo b rest) :=
  foldl_keeps writesLanes_laneAdded.keeps _ hs

/-- Every lane's word holds its sum. -/
theorem readAccum_vectorEntered (hs : SoundMemory s) (hw : vectorWord run geo < accWords geo.anchored) {l : Nat} (hl : l ∈ vectorLanes run geo) :
    readAccum (vectorEntered s e g run geo b rest) e g l (vectorWord run geo) geo.anchored =
      wrapAccum (accumAdd (if run.pass = 0 then none else some (readAccum s e g l (vectorWord run geo) geo.anchored))
        (dotOf geo.fl geo.fb geo.anchor (residentOf (vectorTaken (s.engineAt e g) run rest) l) b)) := by
  have hnodup : (vectorLanes run geo).Nodup := by
    rw [vectorLanes]
    split
    · exact geo.nodup_lanes
    · exact List.nodup_nil
  have hread : readAccum (s.setEngine e g (vectorTaken (s.engineAt e g) run rest)) e g l (vectorWord run geo) geo.anchored =
      readAccum s e g l (vectorWord run geo) geo.anchored := by
    refine readAccum_congr hs hs (fun _ _ _ => rfl) ?_
    obtain ⟨-, -, -, hside, -, -⟩ := vectorTaken_same (s.engineAt e g) run rest
    rw [engineAt_setEngine, hside]
  have hset : SoundMemory (s.setEngine e g (vectorTaken (s.engineAt e g) run rest)) := hs
  rw [vectorEntered, writesLanes_laneAdded.readAccum_foldl hw hnodup hl hset, hread]

/-- No byte outside the lanes' words changes. -/
theorem cellGet_vectorEntered {a : Nat} (ha : ∀ l ∈ vectorLanes run geo, a < accAddr e g l (vectorWord run geo) geo.anchored ∨
    accAddr e g l (vectorWord run geo) geo.anchored + accSize geo.anchored ≤ a) :
    cellGet (vectorEntered s e g run geo b rest).mem a = cellGet s.mem a := writesLanes_laneAdded.cellGet_foldl ha _

end vectors

/-! ### One step in output-resident mode (R100) -/

section step

/-- What a lane's queue and register become when the lane takes its pair. -/
def lanePair (run : TileRun) (geo : Geo) (q : List Chunk × Int × BitVec 4) : List Chunk × Int × BitVec 4 :=
  match q.1 with
  | a :: b :: rest => (rest, accumReg (accumAdd (if run.pass = 0 then none else some (regAccum geo.anchored q.2)) (dotOf geo.fl geo.fb geo.anchor a b)))
  | _ => q

theorem lanePair_of_cons {run : TileRun} {geo : Geo} {q : List Chunk × Int × BitVec 4} {a b : Chunk} {rest : List Chunk} (h : q.1 = a :: b :: rest) :
    lanePair run geo q = (rest, accumReg (accumAdd (if run.pass = 0 then none else some (regAccum geo.anchored q.2))
      (dotOf geo.fl geo.fb geo.anchor a b))) := by
  simp only [lanePair, h]

theorem lanePair_of_short {run : TileRun} {geo : Geo} {q : List Chunk × Int × BitVec 4} (h : ∀ a b rest, q.1 ≠ a :: b :: rest) :
    lanePair run geo q = q := by
  rw [lanePair]
  split
  case h_1 a b rest hq => exact absurd hq (h a b rest)
  case h_2 => rfl

/-- The queue and the register of a lane. -/
def laneView (e g j : Nat) (u : State) : List Chunk × Int × BitVec 4 :=
  (tabGet [] (u.engineAt e g).feeders j, tabGet (0, 0) (u.engineAt e g).registers j)

/-- One lane has taken its pair. -/
def stepAdded (e g : Nat) (run : TileRun) (geo : Geo) (u : State) (l : Nat) : State :=
  let x := u.engineAt e g
  match tabGet [] x.feeders l with
  | a :: b :: rest =>
    let d := dotOf geo.fl geo.fb geo.anchor a b
    let old := if run.pass = 0 then none else some (regAccum geo.anchored (tabGet (0, 0) x.registers l))
    let u := u.setEngine e g { x with feeders := tabSet x.feeders l rest, registers := tabSet x.registers l (accumReg (accumAdd old d)) }
    countSat u e (satCount geo.fl geo.fb geo.anchor a b)
  | _ => u

/-- One lane's register has gone to the first word of the region. -/
def laneStored (e g : Nat) (run : TileRun) (geo : Geo) (u : State) (l : Nat) : State :=
  writeAccum u e g l (regionBase geo.anchored run.region) (regAccum geo.anchored (tabGet (0, 0) (u.engineAt e g).registers l))

/-- The state in which every lane has taken its pair. -/
abbrev stepTaken (s : State) (e g : Nat) (run : TileRun) (geo : Geo) : State := geo.lanes.foldl (stepAdded e g run geo) s

/-- The state in which the lanes have taken their pairs and, after the last pass, stored their registers. -/
abbrev stepEntered (s : State) (e g : Nat) (run : TileRun) (geo : Geo) : State :=
  if run.pass + 1 < geo.passes then stepTaken s e g run geo else geo.lanes.foldl (laneStored e g run geo) (stepTaken s e g run geo)

theorem enterStep_eq (s : State) (e g : Nat) (run : TileRun) (geo : Geo) (subs : Nat) :
    enterStep s e g run geo subs (geo.anchored, geo.width) = entryAdvanced (stepEntered s e g run geo) e g run geo subs := rfl

variable {s : State} {e g : Nat} {run : TileRun} {geo : Geo}

/-- Lane `k` changes its own queue and register alone, and no memory. -/
theorem stepAdded_spec (u : State) (k : Nat) : (stepAdded e g run geo u k).mem = u.mem ∧ (stepAdded e g run geo u k).bad = u.bad ∧
    (∃ q r, (stepAdded e g run geo u k).engineAt e g = { u.engineAt e g with feeders := q, registers := r }) ∧
    ∀ j, laneView e g j (stepAdded e g run geo u k) = if j = k then lanePair run geo (laneView e g k u) else laneView e g j u := by
  unfold stepAdded
  dsimp only
  split
  case h_1 a b rest hq =>
    have hframe := countSat_frame (u.setEngine e g { u.engineAt e g with
      feeders := tabSet (u.engineAt e g).feeders k rest
      registers := tabSet (u.engineAt e g).registers k (accumReg (accumAdd (if run.pass = 0 then none else
        some (regAccum geo.anchored (tabGet (0, 0) (u.engineAt e g).registers k))) (dotOf geo.fl geo.fb geo.anchor a b))) }) e
      (satCount geo.fl geo.fb geo.anchor a b) g
    obtain ⟨hmem, hbad, hengine⟩ := hframe
    rw [engineAt_setEngine] at hengine
    refine ⟨hmem, hbad, ⟨_, _, hengine⟩, fun j => ?_⟩
    rw [laneView, hengine]
    by_cases hj : j = k
    · subst hj
      rw [if_pos rfl, lanePair_of_cons hq, tabGet_tabSet_same, tabGet_tabSet_same]
      rfl
    · rw [if_neg hj, tabGet_tabSet_ne _ _ _ _ _ hj, tabGet_tabSet_ne _ _ _ _ _ hj]
      rfl
  case h_2 hq =>
    refine ⟨rfl, rfl, ⟨_, _, rfl⟩, fun j => ?_⟩
    split_ifs with hj
    · rw [hj, lanePair_of_short (q := laneView e g k u) hq]
    · rfl

/-- No memory changes while the lanes take their pairs, and of the engine only their queues and registers. -/
theorem stepTaken_frame (s : State) (e g : Nat) (run : TileRun) (geo : Geo) : (stepTaken s e g run geo).mem = s.mem ∧
    (stepTaken s e g run geo).bad = s.bad ∧ ∃ q r, (stepTaken s e g run geo).engineAt e g = { s.engineAt e g with feeders := q, registers := r } := by
  refine foldl_keeps (I := fun u : State => u.mem = s.mem ∧ u.bad = s.bad ∧ ∃ q r, u.engineAt e g = { s.engineAt e g with feeders := q, registers := r })
    (fun u k hu => ?_) _ ⟨rfl, rfl, _, _, rfl⟩
  obtain ⟨hmem, hbad, q, r, hengine⟩ := hu
  obtain ⟨hmem', hbad', ⟨q', r', hengine'⟩, -⟩ := stepAdded_spec (e := e) (g := g) (run := run) (geo := geo) u k
  exact ⟨hmem'.trans hmem, hbad'.trans hbad, q', r', by rw [hengine', hengine]⟩

/-- Each lane takes its pair. -/
theorem laneView_stepTaken {l : Nat} (hl : l ∈ geo.lanes) (s : State) :
    laneView e g l (stepTaken s e g run geo) = lanePair run geo (laneView e g l s) := by
  have hview := fun u k => (stepAdded_spec (e := e) (g := g) (run := run) (geo := geo) u k).2.2.2 l
  rw [stepTaken, foldl_view_of_mem (I := fun _ => True) (v := laneView e g l) (fun _ _ _ => trivial)
    (fun u k _ hk => (hview u k).trans (if_neg hk.symm)) (fun u t _ _ hut => by rw [hview, hview, if_pos rfl, if_pos rfl, hut])
    geo.nodup_lanes hl trivial, hview, if_pos rfl]

/-- Engine `g` is `y` but for the flags and the errors of its words. -/
def WordsOnly (y : Engine) (e g : Nat) (u : State) : Prop := ∃ m k, u.engineAt e g = { y with side := m, accBad := k }

theorem wordsOnly_laneStored {y : Engine} {u : State} (h : WordsOnly y e g u) (l : Nat) : WordsOnly y e g (laneStored e g run geo u l) := by
  obtain ⟨m, k, hengine⟩ := h
  rw [WordsOnly, laneStored, writeAccum_engineAt, hengine]
  exact ⟨_, _, rfl⟩

/-- The store of the registers is a write of the region's first word of each lane. -/
theorem writesLanes_laneStored (y : Engine) : WritesLanes (laneStored e g run geo) (fun u => SoundMemory u ∧ WordsOnly y e g u)
    (fun u l => regAccum geo.anchored (tabGet (0, 0) (u.engineAt e g).registers l)) e g (regionBase geo.anchored run.region) geo.anchored where
  keeps _ l hu := ⟨writeAccum_sound hu.1, wordsOnly_laneStored hu.2 l⟩
  sound _ hu := hu.1
  kind _ _ := isWin_regAccum ..
  mem _ _ := rfl
  side _ _ := rfl
  alike u t l hu ht _ := by
    obtain ⟨-, m, k, hu⟩ := hu
    obtain ⟨-, m', k', ht⟩ := ht
    rw [hu, ht]

/-- The lanes' queues and registers are those that the pairs leave, and the rest of the engine but its words is as before. -/
theorem stepEntered_engineAt (s : State) (e g : Nat) (run : TileRun) (geo : Geo) :
    WordsOnly ((stepTaken s e g run geo).engineAt e g) e g (stepEntered s e g run geo) := by
  rw [stepEntered]
  split
  · exact ⟨_, _, rfl⟩
  · exact foldl_keeps (I := WordsOnly _ e g) (fun _ l hu => wordsOnly_laneStored hu l) _ ⟨_, _, rfl⟩

theorem stepTaken_sound (hs : SoundMemory s) : SoundMemory (stepTaken s e g run geo) := by
  obtain ⟨hmem, hbad, -⟩ := stepTaken_frame s e g run geo
  rwa [SoundMemory, hmem, hbad]

theorem stepEntered_sound (hs : SoundMemory s) : SoundMemory (stepEntered s e g run geo) := by
  rw [stepEntered]
  split
  · exact stepTaken_sound hs
  · exact foldl_keeps (fun _ _ hu => writeAccum_sound hu) _ (stepTaken_sound hs)

/-- After the last pass every lane's register is in its word. -/
theorem readAccum_stepEntered (hs : SoundMemory s) (hlast : geo.passes ≤ run.pass + 1) {l : Nat} (hl : l ∈ geo.lanes) :
    readAccum (stepEntered s e g run geo) e g l (regionBase geo.anchored run.region) geo.anchored =
      wrapAccum (regAccum geo.anchored (laneView e g l (stepTaken s e g run geo)).2) := by
  have hw : regionBase geo.anchored run.region < accWords geo.anchored := by
    cases geo.anchored <;> simp only [regionBase, accWords, Bool.false_eq_true, if_false, if_true] <;> omega
  rw [stepEntered, if_neg (not_lt.mpr hlast), (writesLanes_laneStored ((stepTaken s e g run geo).engineAt e g)).readAccum_foldl hw
    geo.nodup_lanes hl ⟨stepTaken_sound hs, _, _, rfl⟩]
  rfl

end step

end Sys2Proof.Machine
end

section
/-!
The vectors and steps of an engine as whole commands (04_matrix R95 to R118).
-/

namespace Sys2Proof.Machine

open Sys2Proof.Claims

section entry

variable {s : State} {ec : Fin 128} {eng : Fin 2} {run : TileRun} {r : MacroRec} {geo : Geo} {subs : Nat} (h : Enters s ec eng run r geo subs)
  (hclear : Clear (scoreAsked s ec.val eng run) ec.val eng run)
include h hclear

/-- A vector with its chunks in the lanes' buffers, and without errors to meet, enters. -/
theorem vectorEntry_vector (hout : geo.outRes = false) {b : Chunk} {rest : List Chunk} (hb : (s.engineAt ec.val eng.val).broadcast = b :: rest)
    (hloaded : run.column = 0 → Loaded (s.engineAt ec.val eng.val) run geo) (hacc : (s.engineAt ec.val eng.val).accBad = [])
    (hresident : (s.engineAt ec.val eng.val).residentBad = []) : Gives (.vectorEntry ec eng) s
      (entryAdvanced (vectorEntered (scoreAsked s ec.val eng run) ec.val eng.val run geo b rest) ec.val eng.val run geo subs) := by
  rw [← engineAt_scoreAsked s ec.val eng run] at hb hloaded hacc hresident
  have hgives := vectorEntry_enters h (entryStall_of_ready hclear hout (by simp [hb]) hloaded)
  rwa [hout, if_neg Bool.false_ne_true, enterVector_eq hb hacc hresident, engineResult] at hgives

/-- In output-resident mode a step enters once every lane has its pair. -/
theorem vectorEntry_step (hout : geo.outRes = true) (hpaired : Paired (s.engineAt ec.val eng.val) geo) : Gives (.vectorEntry ec eng) s
    (entryAdvanced (stepEntered (scoreAsked s ec.val eng run) ec.val eng.val run geo) ec.val eng.val run geo subs) := by
  rw [← engineAt_scoreAsked s ec.val eng run] at hpaired
  have hgives := vectorEntry_enters h ((entryStall_of_outRes hclear hout).1 hpaired)
  rwa [if_pos hout, enterStep_eq] at hgives

end entry

/-! ### Where an engine stands after a vector or a step -/

section stands

variable {s : State} {e g : Nat} {eng : Fin 2} {run : TileRun} {geo : Geo} {subs : Nat} {b : Chunk} {rest : List Chunk}

theorem sound_scoreAsked (hs : SoundMemory s) : SoundMemory (scoreAsked s e eng run) := by
  obtain ⟨hmem, hbad⟩ := scoreAsked_mem s e eng run
  rwa [SoundMemory, hmem, hbad]

theorem readAccum_scoreAsked (hs : SoundMemory s) (l w : Nat) (anchored : Bool) :
    readAccum (scoreAsked s e eng run) e g l w anchored = readAccum s e g l w anchored :=
  readAccum_congr hs (sound_scoreAsked hs) (fun _ _ _ => by rw [(scoreAsked_mem s e eng run).1]) (by rw [engineAt_scoreAsked])

/-- The sum of a lane, where it fits, is in the lane's word after a vector. -/
theorem readAccum_vector (hs : SoundMemory s) (hw : vectorWord run geo < accWords geo.anchored) {l : Nat} (hl : l ∈ vectorLanes run geo)
    (hfits : Fits (accumAdd (if run.pass = 0 then none else some (readAccum s e g l (vectorWord run geo) geo.anchored))
      (dotOf geo.fl geo.fb geo.anchor (residentOf (if run.column = 0 then castle (s.engineAt e g) else s.engineAt e g) l) b))) :
    readAccum (entryAdvanced (vectorEntered (scoreAsked s e eng run) e g run geo b rest) e g run geo subs) e g l (vectorWord run geo) geo.anchored =
      accumAdd (if run.pass = 0 then none else some (readAccum s e g l (vectorWord run geo) geo.anchored))
        (dotOf geo.fl geo.fb geo.anchor (residentOf (if run.column = 0 then castle (s.engineAt e g) else s.engineAt e g) l) b) := by
  rw [← residentOf_vectorTaken _ run rest l] at hfits ⊢
  rw [readAccum_entryAdvanced (vectorEntered_sound (sound_scoreAsked hs)), readAccum_vectorEntered (sound_scoreAsked hs) hw hl,
    readAccum_scoreAsked hs, engineAt_scoreAsked, wrapAccum_of_fits hfits]

/-- Every other byte of memory is as before. -/
theorem cellGet_vector {a : Nat} (ha : ∀ l ∈ vectorLanes run geo, a < accAddr e g l (vectorWord run geo) geo.anchored ∨
    accAddr e g l (vectorWord run geo) geo.anchored + accSize geo.anchored ≤ a) :
    cellGet (entryAdvanced (vectorEntered (scoreAsked s e eng run) e g run geo b rest) e g run geo subs).mem a = cellGet s.mem a :=
  (cellGet_vectorEntered ha).trans (congrArg (cellGet · a) (scoreAsked_mem s e eng run).1)

/-- The next column, the next pass, or the drain of the region follows a vector. -/
theorem advanceRun_vectorTaken (x : Engine) (run : TileRun) (geo : Geo) (subs : Nat) (width : Bool × Nat) (rest : List Chunk) (m : Tab (BitVec 4)) :
    let y := advanceRun { vectorTaken x run rest with side := m, accBad := [] } run geo subs width
    (run.column + 1 < geo.width → y.current = some { run with column := run.column + 1 } ∧ y.broadcast = rest ∧ y.drains = x.drains ∧
      y.buffer = if run.column = 0 then !x.buffer else x.buffer) ∧
    (geo.width ≤ run.column + 1 → run.pass + 1 < geo.passes →
      y.current = some { run with pass := run.pass + 1, column := 0 } ∧ y.broadcast = rest ∧ y.drains = x.drains) ∧
    (geo.width ≤ run.column + 1 → geo.passes ≤ run.pass + 1 → y.drains = x.drains ++ [(run, 0)] ∧
      (subs ≤ run.sub + 1 → run.phase ≠ 1 → y.current = x.next ∧ y.next = none)) := by
  obtain ⟨hdrains, hnext, hbuffer, -⟩ := vectorTaken_same x run rest
  refine ⟨fun hcol => ?_, fun hcol hpass => ?_, fun hcol hpass => ?_⟩
  · rw [advanceRun_column hcol]
    exact ⟨rfl, rfl, hdrains, hbuffer⟩
  · rw [advanceRun_pass hcol hpass]
    exact ⟨rfl, rfl, hdrains⟩
  · rw [advanceRun_last hcol hpass]
    obtain ⟨hlast, -, -, hcurrent⟩ := lastVector_spec { vectorTaken x run rest with side := m, accBad := [] } run subs width
    exact ⟨hlast.trans (congrArg (· ++ [(run, 0)]) hdrains), fun hsub hphase => hnext ▸ hcurrent hsub hphase⟩

/-- In output-resident mode the next pass, or the drain of the region, follows a step. -/
theorem advanceRun_step (x : Engine) (run : TileRun) {geo : Geo} (hout : geo.outRes = true) (subs : Nat) (width : Bool × Nat) :
    (run.pass + 1 < geo.passes → advanceRun x run geo subs width = { x with current := some { run with pass := run.pass + 1, column := 0 } }) ∧
    (geo.passes ≤ run.pass + 1 → (advanceRun x run geo subs width).drains = x.drains ++ [(run, 0)]) := by
  have hwidth : geo.width ≤ run.column + 1 := by simp [Geo.width, hout]
  exact ⟨advanceRun_pass hwidth, fun hpass => by rw [advanceRun_last hwidth hpass, (lastVector_spec ..).1]⟩

/-- The state after a step in output-resident mode. -/
abbrev stepDone (s : State) (e g : Nat) (eng : Fin 2) (run : TileRun) (geo : Geo) (subs : Nat) : State :=
  entryAdvanced (stepEntered (scoreAsked s e eng run) e g run geo) e g run geo subs

/-- A step that is not the last stores nothing, and the next pass follows. -/
theorem stepDone_pass (hout : geo.outRes = true) (hpass : run.pass + 1 < geo.passes) : (stepDone s e g eng run geo subs).mem = s.mem ∧
    (stepDone s e g eng run geo subs).engineAt e g = { (stepTaken (scoreAsked s e eng run) e g run geo).engineAt e g with
      current := some { run with pass := run.pass + 1, column := 0 } } := by
  obtain ⟨hmem, -, -⟩ := stepTaken_frame (scoreAsked s e eng run) e g run geo
  rw [stepDone, engineAt_entryAdvanced, (advanceRun_step _ run hout subs _).1 hpass, stepEntered, if_pos hpass]
  exact ⟨hmem.trans (scoreAsked_mem s e eng run).1, rfl⟩

/-- After the last step the region waits to drain. -/
theorem stepDone_drains (hout : geo.outRes = true) (hlast : geo.passes ≤ run.pass + 1) :
    ((stepDone s e g eng run geo subs).engineAt e g).drains = (s.engineAt e g).drains ++ [(run, 0)] := by
  obtain ⟨-, -, q, r, htaken⟩ := stepTaken_frame (scoreAsked s e eng run) e g run geo
  obtain ⟨m, k, hentered⟩ := stepEntered_engineAt (scoreAsked s e eng run) e g run geo
  rw [stepDone, engineAt_entryAdvanced, (advanceRun_step _ run hout subs _).2 hlast, hentered, htaken, engineAt_scoreAsked]

section pair

variable {l : Nat} (hl : l ∈ geo.lanes) {a b : Chunk} {rest : List Chunk} (hq : tabGet [] (s.engineAt e g).feeders l = a :: b :: rest)
include hl hq

/-- A lane has taken its pair from its queue, and its register holds the sum. -/
theorem laneView_stepTaken_scoreAsked : laneView e g l (stepTaken (scoreAsked s e eng run) e g run geo) = (rest, accumReg (accumAdd
    (if run.pass = 0 then none else some (regAccum geo.anchored (tabGet (0, 0) (s.engineAt e g).registers l)))
    (dotOf geo.fl geo.fb geo.anchor a b))) := by
  have hview : laneView e g l (scoreAsked s e eng run) = laneView e g l s := by rw [laneView, engineAt_scoreAsked, laneView]
  rw [laneView_stepTaken hl, hview, lanePair_of_cons hq]
  rfl

/-- The register of a lane holds the lane's sum after a step. -/
theorem registers_stepDone : tabGet (0, 0) ((stepDone s e g eng run geo subs).engineAt e g).registers l = accumReg (accumAdd
    (if run.pass = 0 then none else some (regAccum geo.anchored (tabGet (0, 0) (s.engineAt e g).registers l)))
    (dotOf geo.fl geo.fb geo.anchor a b)) := by
  obtain ⟨m, k, hentered⟩ := stepEntered_engineAt (scoreAsked s e eng run) e g run geo
  rw [stepDone, engineAt_entryAdvanced, advanceRun_lanes.2, hentered]
  exact congrArg Prod.snd (laneView_stepTaken_scoreAsked hl hq)

/-- The pair has left the queue of the lane. -/
theorem feeders_stepDone (hout : geo.outRes = true) (hpass : run.pass + 1 < geo.passes) :
    tabGet [] ((stepDone s e g eng run geo subs).engineAt e g).feeders l = rest := by
  rw [(stepDone_pass hout hpass).2]
  exact congrArg Prod.fst (laneView_stepTaken_scoreAsked hl hq)

/-- After the last step the sum of a lane, where it fits, is in the first word of the region. -/
theorem readAccum_stepDone (hs : SoundMemory s) (hlast : geo.passes ≤ run.pass + 1)
    (hfits : Fits (accumAdd (if run.pass = 0 then none else some (regAccum geo.anchored (tabGet (0, 0) (s.engineAt e g).registers l)))
      (dotOf geo.fl geo.fb geo.anchor a b))) :
    readAccum (stepDone s e g eng run geo subs) e g l (regionBase geo.anchored run.region) geo.anchored = accumAdd
      (if run.pass = 0 then none else some (regAccum geo.anchored (tabGet (0, 0) (s.engineAt e g).registers l)))
      (dotOf geo.fl geo.fb geo.anchor a b) := by
  have hkind : ∀ old, (accumAdd old (dotOf geo.fl geo.fb geo.anchor a b)).isWin = geo.anchored := fun _ => isWin_accumAdd.trans (isWin_dotOf ..)
  rw [stepDone, readAccum_entryAdvanced (stepEntered_sound (sound_scoreAsked hs)), readAccum_stepEntered (sound_scoreAsked hs) hlast hl,
    laneView_stepTaken_scoreAsked hl hq]
  have hreg := regAccum_accumReg (accumAdd (if run.pass = 0 then none else
    some (regAccum geo.anchored (tabGet (0, 0) (s.engineAt e g).registers l))) (dotOf geo.fl geo.fb geo.anchor a b))
  rw [hkind] at hreg
  rw [hreg, wrapAccum_of_fits hfits]

end pair

end stands

/-- R95 to R118: held entries, vectors, and steps in output-resident mode, each by its own lemma. -/
theorem vectorsEnter : VectorsEnter := by
  intro s ec eng run r geo subs e g i c x hold loaded draining store Bubble col size Adds hclk hhalting hhalted hrun
  have h : Enters s ec eng run r geo subs := ⟨hclk, hhalting, hhalted, hrun⟩
  have hengine := engineAt_scoreAsked s e eng run g
  refine ⟨?supply, ?region, ?score, ?vector, ?step⟩
  case supply => exact fun hhold => vectorEntry_bubbles h (entryStall_of_hold (by rwa [supplyHold_scoreAsked]))
  case region =>
    exact fun hhold hdraining => vectorEntry_bubbles h
      (entryStall_of_draining (by rwa [supplyHold_scoreAsked]) (by rwa [engineAt_scoreAsked]))
  case score =>
    intro hhold hdraining hstore
    have hphase : run.phase = 1 := not_not.mp fun hc => hstore (.inl hc)
    exact vectorEntry_bubbles h (entryStall_of_score (by rwa [supplyHold_scoreAsked]) (by rwa [engineAt_scoreAsked]) hphase
      ((scoreAsked_owner_iff s e eng run hphase).not.mpr fun hc => hstore (.inr hc)))
  case vector =>
    intro hhold hdraining hstore hout
    have hclear : Clear (scoreAsked s e eng run) e eng run := clear_scoreAsked hhold hdraining hstore
    refine ⟨fun hempty => ?empty, fun hempty hphase => ?late, fun hsome hbegins hloaded => ?unloaded, fun b rest hb hloaded hacc hresident => ?enters⟩
    case empty =>
      obtain ⟨cause, hstall⟩ := entryStall_of_empty (r := r) hclear hout (by rwa [hengine])
      exact vectorEntry_held h hstall
    case late =>
      have hasked : scoreAsked s e eng run = s := if_neg hphase
      rw [hasked] at hclear
      refine ⟨fun k hlate => vectorEntry_bubbles h ?_, fun hlate hbegins hloaded => vectorEntry_bubbles h ?_⟩
      · rw [hasked]
        exact entryStall_of_late hclear hout hempty hlate
      · rw [hasked]
        exact entryStall_of_unloaded hclear hout hbegins hloaded fun _ => hlate
    case unloaded =>
      refine vectorEntry_bubbles h (entryStall_of_unloaded hclear hout hbegins (by rwa [hengine]) fun hempty => absurd ?_ hsome)
      exact (congrArg Engine.broadcast hengine).symm.trans hempty
    case enters =>
      obtain ⟨m, hm⟩ := vectorEntered_engineAt (s := scoreAsked s e eng run) (e := e) (g := g) (run := run) (geo := geo) (b := b) (rest := rest)
        (by rwa [hengine])
      have hy := engineAt_entryAdvanced (vectorEntered (scoreAsked s e eng run) e g run geo b rest) e g run geo subs
      rw [hm, hengine] at hy
      refine ⟨_, vectorEntry_vector h hclear hout hb hloaded hacc hresident, ?_⟩
      obtain ⟨hcolumn, hpass, hlast⟩ := advanceRun_vectorTaken x run geo subs (geo.anchored, geo.width) rest m
      refine ⟨hy ▸ hcolumn, hy ▸ hpass, hy ▸ hlast, fun hwf hbad hcol => ?_⟩
      exact ⟨fun l hl => readAccum_vector ⟨hwf, hbad⟩ hcol hl, fun a ha => cellGet_vector ha⟩
  case step =>
    intro hhold hdraining hstore hout
    have hclear : Clear (scoreAsked s e eng run) e eng run := clear_scoreAsked hhold hdraining hstore
    refine ⟨fun hunpaired => vectorEntry_bubbles h ((entryStall_of_outRes hclear hout).2 (by rwa [hengine])), fun hpaired => ?_⟩
    refine ⟨_, vectorEntry_step h hclear hout hpaired, fun hpass => ?pass, stepDone_drains hout, fun l hl a b rest hq => ?lane⟩
    case pass =>
      obtain ⟨hmem, hstep⟩ := stepDone_pass (s := s) (e := e) (g := g) (eng := eng) (subs := subs) hout hpass
      exact ⟨hmem, congrArg Engine.current hstep⟩
    case lane =>
      exact ⟨registers_stepDone hl hq, feeders_stepDone hl hq hout, fun hlast hwf hbad _ => readAccum_stepDone hl hq ⟨hwf, hbad⟩ hlast⟩

/-- Settles O38: the fills and loads of an engine, and its vectors. -/
theorem engineFillsAndVectors : Obligations.EngineFillsAndVectors := ⟨fillsAndBuffers, vectorsEnter⟩

end Sys2Proof.Machine
end

section
/-!
Commands on the units of an EC (05_macro R121, R146): what holding and freeing them changes, and that changes of units and of other registers of
a die leave the records of commands alone.
-/

namespace Sys2Proof.Machine

/-! ### Changes of ECs alone -/

/-- `t` is `s` but for the ECs. -/
def OnlyEcs (s t : State) : Prop := ∃ ecs, t = { s with ecs }

theorem OnlyEcs.refl (s : State) : OnlyEcs s s := ⟨_, rfl⟩

theorem OnlyEcs.trans {s t u : State} (h : OnlyEcs s t) (h' : OnlyEcs t u) : OnlyEcs s u := by
  obtain ⟨_, rfl⟩ := h
  obtain ⟨_, rfl⟩ := h'
  exact ⟨_, rfl⟩

theorem OnlyEcs.mem_eq {s t : State} (h : OnlyEcs s t) : t.mem = s.mem := by
  obtain ⟨_, rfl⟩ := h
  rfl

theorem OnlyEcs.macroAt_eq {s t : State} (h : OnlyEcs s t) (port acc : Nat) : macroAt t port acc = macroAt s port acc := by
  obtain ⟨_, rfl⟩ := h
  rfl

theorem OnlyEcs.modEc (s : State) (e : Nat) (f : Ec → Ec) : OnlyEcs s (s.modEc e f) := ⟨_, rfl⟩

theorem OnlyEcs.foldl {ι : Type} {f : State → ι → State} (hf : ∀ t i, OnlyEcs t (f t i)) (l : List ι) (s : State) :
    OnlyEcs s (l.foldl f s) :=
  l.foldlRecOn f (motive := OnlyEcs s) (.refl s) fun _ ht _ _ => ht.trans (hf _ _)

/-- What a change of one EC keeps, it keeps of every EC. -/
theorem modEc_keeps {β : Type} {v : Ec → β} {f : Ec → Ec} (hf : ∀ c, v (f c) = v c) (s : State) (e i : Nat) :
    v ((s.modEc e f).ecAt i) = v (s.ecAt i) := by
  obtain rfl | hi := eq_or_ne i e
  · rw [ecAt_modEc, hf]
  · rw [ecAt_modEc_ne _ _ _ _ hi]

theorem dieAt_modDie_macros {f : Die → Die} (hf : ∀ x, (f x).macros = x.macros) (s : State) (d i : Nat) :
    ((s.modDie d f).dieAt i).macros = (s.dieAt i).macros := by
  obtain rfl | hi := eq_or_ne i d
  · rw [dieAt_modDie, hf]
  · rw [dieAt_modDie_ne _ _ _ _ hi]

/-- A change of a die that keeps its records keeps those of every port. -/
theorem macrosOf_modDie {f : Die → Die} (hf : ∀ x, (f x).macros = x.macros) (s : State) (d port : Nat) :
    macrosOf (s.modDie d f) port = macrosOf s port := by
  unfold macrosOf
  split
  · exact dieAt_modDie_macros hf s d port
  · rfl

theorem macroAt_modDie {f : Die → Die} (hf : ∀ x, (f x).macros = x.macros) (s : State) (d port acc : Nat) :
    macroAt (s.modDie d f) port acc = macroAt s port acc := by
  rw [macroAt, macrosOf_modDie hf, macroAt]

@[simp] theorem macroAt_servePart (s : State) (d : Nat) (r : MacroRec) (port acc : Nat) : macroAt (servePart s d r) port acc = macroAt s port acc :=
  macroAt_modDie (fun _ => by rfl) ..

@[simp] theorem macroAt_bumpLedger (s : State) (d i port acc : Nat) : macroAt (bumpLedger s d i) port acc = macroAt s port acc :=
  macroAt_modDie (fun _ => by rfl) ..

theorem countHeld_onlyEcs (s : State) (port : Nat) (r : MacroRec) (a : Nat) : OnlyEcs s (countHeld s port r a) := by
  unfold countHeld
  split
  · exact ⟨_, rfl⟩
  · exact ⟨_, rfl⟩
  · exact .refl s

/-! ### Engines of an EC -/

@[simp] theorem Ec.engineAt_setEngine (c : Ec) (g : Nat) (x : Engine) : (c.setEngine g x).engineAt g = x := tabGet_tabSet_same _ _ _ _

theorem Ec.engineAt_setEngine_ne (c : Ec) {g i : Nat} (x : Engine) (h : i ≠ g) : (c.setEngine g x).engineAt i = c.engineAt i :=
  tabGet_tabSet_ne _ _ _ _ _ h

/-! ### Units that are freed (R121) -/

/-- No engine and no row unit of the EC is held for the command. -/
def Unheld (acc : Nat) (c : Ec) : Prop := (∀ g, g < 2 → (c.engineAt g).holds ≠ some acc) ∧ c.rowUnit.holds ≠ some acc

/-- An EC whose engine `i` is free, if the command held it. -/
def freedEngine (acc : Nat) (c : Ec) (i : Nat) : Ec :=
  if (c.engineAt i).holds = some acc then c.setEngine i { c.engineAt i with holds := none } else c

/-- An EC whose row unit is free, if the command held it. -/
def freedRowUnit (acc : Nat) (c : Ec) : Ec :=
  if c.rowUnit.holds = some acc then { c with rowUnit := { c.rowUnit with holds := none } } else c

theorem freeUnits_eq (s : State) (e acc : Nat) :
    freeUnits s e acc = s.modEc e fun c => freedRowUnit acc (freedEngine acc (freedEngine acc c 0) 1) := rfl

theorem freeUnits_onlyEcs (s : State) (e acc : Nat) : OnlyEcs s (freeUnits s e acc) := .modEc ..

/-- A freed engine is held no more for the command, and every other engine is held as before. -/
theorem freedEngine_holds (acc : Nat) (c : Ec) (i g : Nat) : ((freedEngine acc c i).engineAt g).holds =
    if g = i ∧ (c.engineAt g).holds = some acc then none else (c.engineAt g).holds := by
  unfold freedEngine
  obtain rfl | hg := eq_or_ne g i
  · by_cases h : (c.engineAt g).holds = some acc <;> simp [h]
  · by_cases h : (c.engineAt i).holds = some acc <;> simp [h, hg, c.engineAt_setEngine_ne _ hg]

@[simp] theorem freedEngine_rowUnit (acc : Nat) (c : Ec) (i : Nat) : (freedEngine acc c i).rowUnit = c.rowUnit := by
  unfold freedEngine
  split <;> rfl

@[simp] theorem freedEngine_queue (acc : Nat) (c : Ec) (i : Nat) : (freedEngine acc c i).queue = c.queue := by
  unfold freedEngine
  split <;> rfl

@[simp] theorem freedEngine_pairs (acc : Nat) (c : Ec) (i : Nat) : (freedEngine acc c i).pairs = c.pairs := by
  unfold freedEngine
  split <;> rfl

@[simp] theorem freedRowUnit_engineAt (acc : Nat) (c : Ec) (g : Nat) : (freedRowUnit acc c).engineAt g = c.engineAt g := by
  unfold freedRowUnit
  split <;> rfl

@[simp] theorem freedRowUnit_queue (acc : Nat) (c : Ec) : (freedRowUnit acc c).queue = c.queue := by
  unfold freedRowUnit
  split <;> rfl

@[simp] theorem freedRowUnit_pairs (acc : Nat) (c : Ec) : (freedRowUnit acc c).pairs = c.pairs := by
  unfold freedRowUnit
  split <;> rfl

theorem freedRowUnit_holds (acc : Nat) (c : Ec) : (freedRowUnit acc c).rowUnit.holds =
    if c.rowUnit.holds = some acc then none else c.rowUnit.holds := by
  unfold freedRowUnit
  split <;> rfl

/-- The units of an EC that a command has freed are not held for it. -/
theorem freeUnits_unheld (s : State) (e acc : Nat) : Unheld acc ((freeUnits s e acc).ecAt e) := by
  rw [freeUnits_eq, ecAt_modEc]
  refine ⟨fun g hg => ?_, ?_⟩
  · rw [freedRowUnit_engineAt, freedEngine_holds, freedEngine_holds]
    by_cases hheld : ((s.ecAt e).engineAt g).holds = some acc
    · obtain rfl | rfl : g = 0 ∨ g = 1 := by omega
      all_goals simp [hheld]
    · simp [hheld]
  · rw [freedRowUnit_holds]
    split_ifs with h
    · exact nofun
    · exact h

/-- Units that another step frees stay free. -/
theorem Unheld.freeUnits {s : State} {acc i : Nat} (h : Unheld acc (s.ecAt i)) (e : Nat) : Unheld acc ((freeUnits s e acc).ecAt i) := by
  obtain rfl | hi := eq_or_ne i e
  · exact freeUnits_unheld s i acc
  · rwa [Machine.freeUnits, ecAt_modEc_ne _ _ _ _ hi]

/-- Once a crew has freed its units, none is held for the command. -/
theorem foldl_freeUnits_unheld (l : List Nat) (s : State) (acc : Nat) :
    ∀ e ∈ l, Unheld acc ((l.foldl (fun t e => freeUnits t e acc) s).ecAt e) :=
  foldl_establishes (I := fun _ => True) (P := fun t e => Unheld acc (t.ecAt e)) (fun _ _ _ => trivial) (fun t e _ => freeUnits_unheld t e acc)
    (fun _ e _ h => h.freeUnits e) l s trivial

end Sys2Proof.Machine
end

section
/-!
Instructions of the ledgers as whole commands (05_macro R122, R132 to R136, R146, R152, R153; 06_attend R160, R168, R180, R189; 07_kv R216 to
R225): all the tiles that are left, the end of the record, and the wait for the score store.
-/

namespace Sys2Proof.Machine

open Sys2Proof.Claims

/-! ### The rows -/

section rows

variable (die : Fin 4) (acc : Nat) (s : State)

theorem exec_matmul : exec (.matmul die acc) s = execMatmul die acc s := rfl
theorem exec_chain : exec (.chain die acc) s = execChain die acc s := rfl
theorem exec_combine : exec (.combine die acc) s = execCombine die acc s := rfl
theorem exec_norm : exec (.norm die acc) s = execNorm die acc s := rfl
theorem exec_rowfn : exec (.rowfn die acc) s = execRowfn die acc s := rfl
theorem exec_expand : exec (.expand die acc) s = execExpand die acc s := rfl
theorem exec_attend : exec (.attend die acc) s = execAttend die acc s := rfl
theorem exec_attendBwd : exec (.attendBwd die acc) s = execAttendBwd die acc s := rfl
theorem exec_gambitCommit : exec (.gambitCommit die acc) s = execGambitCommit die acc s := rfl
theorem exec_append : exec (.append die acc) s = whileClocked s (runAppend die acc 0 s) := rfl
theorem exec_appendTentative : exec (.appendTentative die acc) s = whileClocked s (runAppend die acc 1 s) := rfl
theorem exec_attachPrefix : exec (.attachPrefix die acc) s = whileClocked s (runAppend die acc 2 s) := rfl
theorem exec_publishPrefix : exec (.publishPrefix die acc) s = whileClocked s (runAppend die acc 3 s) := rfl
theorem exec_truncate : exec (.truncate die acc) s = whileClocked s (runAppend die acc 4 s) := rfl

end rows

/-! ### The record of a whole command -/

section records

variable {s s0 : State} {die : Fin 4} {acc op : Nat} {r : MacroRec}

theorem macroReady_spec (h : macroReady s die acc op = some r) :
    macroAt s die.val acc = some r ∧ wOpcode r.word = op ∧ r.finished = false := by
  unfold macroReady at h
  split at h
  · cases h
  next y hy =>
    split at h
    next hready =>
      obtain ⟨hop, -, hfinished, -⟩ := hready
      cases h
      exact ⟨hy, hop, by simpa using hfinished⟩
    · cases h

/-- The record once every tile that it has left is granted. -/
abbrev grantedRec (r : MacroRec) : MacroRec := { r with windows := [], next := r.total }

theorem macroAt_grantAll {d : Nat} (h : macroAt s d acc = some r) : macroAt (grantAll s d r) d acc = some (grantedRec r) := by
  have hacc : r.acc = acc := acc_of_macroAt h
  have hset : macroAt (setMacro s d (grantedRec r)) d acc = some (grantedRec r) := macroAt_setMacro h hacc
  unfold grantAll
  extract_lets n t
  split
  · exact hset
  · exact (macroAt_servePart ..).trans ((macroAt_modDie (fun _ => by rfl) ..).trans hset)

/-- With at most one part to an output tile no combine step is due. -/
theorem dueOutputs_of_one_part (h : recParts s r ≤ 1) : dueOutputs s r = [] := by
  simp only [dueOutputs, h, if_true]

theorem macroAt_tileDrained_counts {port : Nat} {y : MacroRec} (h : macroAt s port acc = some y) (hparts : recParts s y ≤ 1) (tile : Nat)
    (fl : BitVec 16) : ∃ z, macroAt (tileDrained s port acc tile fl) port acc = some z ∧ z.aflags = y.aflags ||| fl ∧ z.tiles = y.tiles + 1 := by
  have hacc := acc_of_macroAt h
  simp only [tileDrained, h]
  exact ⟨_, macroAt_setMacro h hacc, rfl, if_pos hparts⟩

/-- The one tile that is left, of an output of one part, is all the work that is left. -/
theorem allTiles_of_one_tile {f : TileWork} {n : Nat} {u : State} {fl : BitVec 16} (hr : macroAt s die.val acc = some r)
    (hfinished : r.finished = false) (hleft : leftTiles r = [n]) (hf : (f (grantAll s die.val r) (grantedRec r) n).2 = .ok (u, fl))
    (hparts : ∀ z, macroAt (tileDrained u die.val acc n fl) die.val acc = some z → recParts (tileDrained u die.val acc n fl) z ≤ 1) :
    allTiles s die r f = .ok (tileDrained u die.val acc n fl) := by
  obtain rfl : r.acc = acc := acc_of_macroAt hr
  have htile : eachTile die.val r.acc f (grantAll s die.val r) (leftTiles r) = .ok (tileDrained u die.val r.acc n fl) := by
    obtain ⟨v, hv⟩ : ∃ v, f (grantAll s die.val r) (grantedRec r) n = (v, .ok (u, fl)) := ⟨_, Prod.ext rfl hf⟩
    simp only [hleft, eachTile, macroAt_grantAll hr, hfinished, hv, Bool.false_eq_true, if_false]
  simp only [allTiles, htile, bind, Except.bind]
  cases hz : macroAt (tileDrained u die.val r.acc n fl) die.val r.acc with
  | none => rfl
  | some z =>
    dsimp only
    rw [dueOutputs_of_one_part (hparts z hz), eachCombine]

/-! ### The end of a record (R121, R122) -/

theorem endRecord_onlyEcs {d : Nat} {y : MacroRec} (h : macroAt s d acc = some y) :
    OnlyEcs (setMacro s d { y with finished := true }) (endRecord s d acc) := by
  simp only [endRecord, h]
  exact .foldl (fun t e => freeUnits_onlyEcs t e acc) _ _

theorem macroAt_endRecord {d : Nat} {y : MacroRec} (h : macroAt s d acc = some y) :
    macroAt (endRecord s d acc) d acc = some { y with finished := true } := by
  have hacc : y.acc = acc := acc_of_macroAt h
  rw [(endRecord_onlyEcs h).macroAt_eq]
  exact macroAt_setMacro h hacc

theorem endRecord_ended (s : State) (d acc : Nat) : Ended (endRecord s d acc) d acc := by
  intro z hz
  cases h : macroAt s d acc with
  | none =>
    rw [endRecord, h, h] at hz
    cases hz
  | some y =>
    rw [macroAt_endRecord h] at hz
    cases hz
    refine ⟨rfl, fun e he => ?_⟩
    rw [endRecord, h]
    exact foldl_freeUnits_unheld _ _ _ e he

end records

/-! ### Commands that run (02_package R38) -/

/-- `u` is `t` but for the score stores. -/
def OnlyScores (t u : State) : Prop :=
  OnlyEcs t u ∧ ∀ e, (u.ecAt e).engines = (t.ecAt e).engines ∧ (u.ecAt e).rowUnit = (t.ecAt e).rowUnit

theorem OnlyScores.refl (s : State) : OnlyScores s s := ⟨.refl s, fun _ => ⟨rfl, rfl⟩⟩

theorem ended_of_onlyScores {t u : State} {d acc : Nat} (h : Ended t d acc) (hu : OnlyScores t u) : Ended u d acc := by
  obtain ⟨hecs, hunits⟩ := hu
  intro z hz
  rw [hecs.macroAt_eq] at hz
  obtain ⟨hfinished, hfree⟩ := h z hz
  refine ⟨hfinished, fun e he => ?_⟩
  obtain ⟨hengines, hrow⟩ := hunits e
  simp only [State.engineAt, Ec.engineAt, hengines, hrow]
  exact hfree e he

/-- A command that does all its tiles from `s0` on, and then at most gives a score store back, runs to its end. -/
theorem runsFrom_of_exec {s s0 : State} {die : Fin 4} {acc op : Nat} {r : MacroRec} {i : Instr} {f : TileWork} {back : State → State}
    (h0 : OnlyEcs s s0) (hback : ∀ t, OnlyScores t (back t))
    (hexec : macroReady s die acc op = some r → exec i s = .next (back (runMacro s0 die r f))) : RunsFrom s s0 die acc r i op f := by
  intro hready
  obtain ⟨hr, -, hfinished⟩ := macroReady_spec hready
  obtain rfl : r.acc = acc := acc_of_macroAt hr
  have hgives : Gives i s (back (runMacro s0 die r f)) := hexec hready
  refine ⟨fun z hz => ⟨_, hgives, ?waits⟩, fun hok => ⟨_, hgives, ?ends⟩⟩
  case waits =>
    have hframe : OnlyEcs s (back (runMacro s0 die r f)) := by
      simp only [runMacro, hz]
      exact (h0.trans (countHeld_onlyEcs ..)).trans (hback _).1
    exact ⟨hframe.mem_eq, (hframe.macroAt_eq ..).trans hr⟩
  case ends =>
    obtain ⟨t, ht⟩ : ∃ t, allTiles s0 die r f = .ok t := by
      cases h : allTiles s0 die r f with
      | ok t => exact ⟨t, rfl⟩
      | error z => exact absurd h (hok z)
    simp only [runMacro, ht]
    refine ⟨ended_of_onlyScores (endRecord_ended t die.val r.acc) (hback _), fun n u fl y hleft hf hy hparts hdrained => ?_⟩
    rw [allTiles_of_one_tile ((h0.macroAt_eq ..).trans hr) hfinished hleft hf hdrained, Except.ok.injEq] at ht
    obtain ⟨z, hz, hflags, htiles⟩ := macroAt_tileDrained_counts hy hparts n fl
    rw [ht] at hz
    have hmem : (endRecord t die.val r.acc).mem = u.mem := by
      rw [(endRecord_onlyEcs hz).mem_eq, (setMacro_onlyMacros ..).mem_eq, ← ht, (tileDrained_onlyMacros ..).mem_eq]
    exact ⟨(hback _).1.mem_eq.trans hmem, _, ((hback _).1.macroAt_eq ..).trans (macroAt_endRecord hz), hflags, htiles⟩

/-! ### Commands that use the score store (06_attend R168) -/

/-- A unit gets the score store that it owns, or that is free with no unit before it. -/
theorem scoreAsk_fst_iff (c : Ec) (u : Fin 3) :
    (scoreAsk c u).1 = true ↔ c.scoreOwner = some u ∨ (c.scoreOwner = none ∧ c.scoreWaiters = []) := by
  unfold scoreAsk
  split_ifs with hown hfree
  · simp [hown]
  · simpa using Or.inr hfree
  · simpa [hown] using hfree

/-- What a whole command leaves of the score store: if it is its unit's, it is free. -/
def scoresBack (e : Nat) (u : Fin 3) (t : State) : State :=
  t.modEc e fun c => if c.scoreOwner = some u then { c with scoreOwner := none } else c

theorem scoresBack_onlyScores (e : Nat) (u : Fin 3) (t : State) : OnlyScores t (scoresBack e u t) :=
  ⟨.modEc .., fun i => ⟨modEc_keeps (fun c => by split <;> rfl) t e i, modEc_keeps (fun c => by split <;> rfl) t e i⟩⟩

theorem withScores_granted {s : State} {die : Fin 4} {r : MacroRec} {u : Fin 3} (h : (scoreAsk (s.ecAt (leadEc die.val r)) u).1 = true)
    (run : State → State) : withScores s die r u run = scoresBack (leadEc die.val r) u (run (asked s (leadEc die.val r) u)) := by
  simp only [withScores, h, if_true]
  rfl

theorem withScores_refused {s : State} {die : Fin 4} {r : MacroRec} {u : Fin 3} (h : (scoreAsk (s.ecAt (leadEc die.val r)) u).1 = false)
    (run : State → State) : withScores s die r u run = bumpEc (asked s (leadEc die.val r) u) (leadEc die.val r) cntStallScore := by
  simp only [withScores, h, Bool.false_eq_true, if_false]
  rfl

/-- A unit that waits for the score store counts the cycle and changes nothing but its own EC. -/
theorem asked_waits {s : State} {e : Nat} {u : Fin 3} (h : (scoreAsk (s.ecAt e) u).1 = false) :
    let t := bumpEc (asked s e u) e cntStallScore
    OnlyEc s t e ∧ u ∈ (t.ecAt e).scoreWaiters ∧ (t.ecAt e).counters = bumpBy (s.ecAt e).counters cntStallScore 1 ∧
      (t.ecAt e).scoreOwner = (s.ecAt e).scoreOwner := by
  obtain ⟨hwaits, l, hsame⟩ := scoreAsk_refused h
  simp only [bumpEc, bumpEcBy, asked, ecAt_modEc, ecAt_setEc]
  refine ⟨⟨rfl, fun i hi => ?_⟩, hwaits, ?_, ?_⟩
  · rw [ecAt_modEc_ne _ _ _ _ hi, ecAt_setEc_ne _ _ _ _ hi]
  · rw [hsame]
  · rw [hsame]

theorem runsWithStore_of_exec {s : State} {die : Fin 4} {acc op : Nat} {r : MacroRec} {u : Fin 3} {i : Instr} {f : TileWork}
    (hexec : macroReady s die acc op = some r →
      exec i s = .next (withScores s die r u fun t => runMacro t die r f)) : RunsWithStore s die acc r u i op f := by
  refine ⟨fun hmine => runsFrom_of_exec ⟨_, rfl⟩ (scoresBack_onlyScores (leadEc die.val r) u) fun hready => ?_,
    fun hready hmine => ⟨_, hexec hready, ?_⟩⟩
  · rw [hexec hready, withScores_granted ((scoreAsk_fst_iff ..).mpr hmine)]
  · have hrefused : (scoreAsk (s.ecAt (leadEc die.val r)) u).1 = false := by
      rw [← Bool.not_eq_true, scoreAsk_fst_iff]
      exact hmine
    rw [withScores_refused hrefused]
    exact asked_waits hrefused

/-! ### The instructions -/

section instructions

variable {s : State} {die : Fin 4} {acc op : Nat} {r : MacroRec}

/-- A whole command that does no more than all the tiles of its record runs to its end. -/
theorem runsToEnd_of_exec {i : Instr} {f : TileWork}
    (hexec : macroReady s die acc op = some r → exec i s = .next (runMacro s die r f)) : RunsToEnd s die acc r i op f :=
  runsFrom_of_exec (back := id) (.refl s) .refl hexec

theorem softMaxRow_iff (h : macroReady s die acc 0x05 = some r) : softMaxRow r.word = true ↔ field r.word 0x20 1 = 0x10 := by
  obtain ⟨-, hop, -⟩ := macroReady_spec h
  simp [softMaxRow, hop]

variable (hclk : coreClocks s = true)
include hclk

theorem matmul_exec (h : macroReady s die acc 0x01 = some r) : exec (.matmul die acc) s =
    .next (runMacro s die r (plainTile (matmulTile die.val))) := by
  simp only [exec_matmul, execMatmul, whileClocked_of_clock hclk, h]

theorem chain_exec (h : macroReady s die acc 0x02 = some r) : exec (.chain die acc) s =
    .next (withScores s die r (leadUnit r) fun t => runMacro t die r (plainTile (chainTile die.val))) := by
  simp only [exec_chain, execChain, whileClocked_of_clock hclk, h]

theorem combine_exec (h : macroReady s die acc 0x03 = some r) : exec (.combine die acc) s =
    .next (runMacro s die r (plainTile combineMacroTile)) := by
  simp only [exec_combine, execCombine, whileClocked_of_clock hclk, h]

theorem norm_exec (h : macroReady s die acc 0x04 = some r) : exec (.norm die acc) s =
    .next (runMacro s die r (plainTile (rowMacroTile die.val))) := by
  simp only [exec_norm, execNorm, whileClocked_of_clock hclk, h]

theorem expand_exec (h : macroReady s die acc 0x06 = some r) : exec (.expand die acc) s =
    .next (runMacro s die r (expandTile die.val (leadEc die.val r))) := by
  simp only [exec_expand, execExpand, whileClocked_of_clock hclk, h]

theorem attendBwd_exec (h : macroReady s die acc 0x09 = some r) : exec (.attendBwd die acc) s =
    .next (withScores s die r (leadUnit r) fun t => runMacro t die r (attendTile die.val (leadEc die.val r) (leadEngine r))) := by
  simp only [exec_attendBwd, execAttendBwd, whileClocked_of_clock hclk, h]

theorem gambitCommit_exec (h : macroReady s die acc 0x0A = some r) : exec (.gambitCommit die acc) s =
    .next (runMacro s die r (commitTile die.val)) := by
  simp only [exec_gambitCommit, execGambitCommit, whileClocked_of_clock hclk, h]

/-- An ATTEND of one part and one round is done tile by tile as any other command. -/
theorem attend_exec (hparts : recParts s r ≤ 1) (hhalf : recHalf s r = 0) (h : macroReady s die acc 0x08 = some r) : exec (.attend die acc) s =
    .next (withScores s die r (leadUnit r) fun t => runMacro t die r (attendTile die.val (leadEc die.val r) (leadEngine r))) := by
  simp only [exec_attend, execAttend, whileClocked_of_clock hclk, h, hparts, hhalf, and_self, if_true]

theorem rowfn_exec (h : macroReady s die acc 0x05 = some r) : exec (.rowfn die acc) s = .next
    (if softMaxRow r.word then withScores s die r 2 fun t => runMacro t die r (plainTile (rowMacroTile die.val))
      else runMacro s die r (plainTile (rowMacroTile die.val))) := by
  simp only [exec_rowfn, execRowfn, whileClocked_of_clock hclk, h]

/-- APPEND_KV with the operation that its word names (07_kv R217). -/
theorem runAppend_eq (hop : field r.word 0x1C 1 = op) (h : macroReady s die acc 0x0B = some r) :
    whileClocked s (runAppend die acc op s) = .next (runMacro s die r (appendTile die.val)) := by
  simp only [whileClocked_of_clock hclk, runAppend, h, hop, if_true]

/-- A whole ATTEND in split placement ends once none of its tiles waits (06_attend R180). -/
theorem attend_split_ends (hsplit : ¬(recParts s r ≤ 1 ∧ recHalf s r = 0)) (hnext : r.next = 0) (hdrained : r.drained = [])
    (hready : macroReady s die acc 0x08 = some r) (hmine : (scoreAsk (s.ecAt (leadEc die.val r)) (leadUnit r)).1 = true)
    (hok : ∀ z, eachTile die.val acc (attendTile die.val (leadEc die.val r) (leadEngine r))
      (grantAll (asked s (leadEc die.val r) (leadUnit r)) die.val r) (leftTiles r) ≠ .error z) :
    ∃ t, Gives (.attend die acc) s t ∧ Ended t die.val acc := by
  obtain rfl : r.acc = acc := acc_of_macroAt (macroReady_spec hready).1
  cases htiles : eachTile die.val r.acc (attendTile die.val (leadEc die.val r) (leadEngine r))
      (grantAll (asked s (leadEc die.val r) (leadUnit r)) die.val r) (leftTiles r) with
  | error z => exact absurd htiles (hok z)
  | ok t =>
    refine ⟨scoresBack (leadEc die.val r) (leadUnit r) (endRecord (splitDone t die r.acc) die.val r.acc), ?_,
      ended_of_onlyScores (endRecord_ended _ die.val r.acc) (scoresBack_onlyScores ..)⟩
    simp only [Gives, exec_attend, execAttend, whileClocked_of_clock hclk, hready, hsplit, hnext, hdrained, if_false, if_true, and_self,
      withScores_granted hmine, runSplit, htiles]

end instructions

/-- Settles O35: a command that answers what `runMacro` makes of its record runs to its end, and one that uses the score store waits for it;
what is left is which command answers what. -/
theorem macroInstructionsRun : Obligations.MacroInstructionsRun := by
  intro s die acc r hclk Runs d attends Scores c
  refine ⟨runsToEnd_of_exec (matmul_exec hclk), runsWithStore_of_exec (chain_exec hclk), runsToEnd_of_exec (combine_exec hclk),
    runsToEnd_of_exec (norm_exec hclk), fun hfunc => runsToEnd_of_exec fun h => ?rowfn, fun hfunc => runsWithStore_of_exec fun h => ?softmax,
    runsToEnd_of_exec (expand_exec hclk), fun hparts hhalf => runsWithStore_of_exec (attend_exec hclk hparts hhalf), ?split,
    runsWithStore_of_exec (attendBwd_exec hclk), runsToEnd_of_exec (gambitCommit_exec hclk), fun hop => runsToEnd_of_exec ?append,
    fun hop => runsToEnd_of_exec ?tentative,
    fun hop => runsToEnd_of_exec ?attach, fun hop => runsToEnd_of_exec ?publish, fun hop => runsToEnd_of_exec ?truncate⟩
  case rowfn => rw [rowfn_exec hclk h, if_neg (mt (softMaxRow_iff h).mp hfunc)]
  case softmax => rw [rowfn_exec hclk h, if_pos ((softMaxRow_iff h).mpr hfunc)]
  case split =>
    intro hsplit hnext hdrained hready hmine hok
    exact attend_split_ends hclk hsplit hnext hdrained hready ((scoreAsk_fst_iff ..).mpr hmine) hok
  case append => rw [exec_append]; exact runAppend_eq hclk hop
  case tentative => rw [exec_appendTentative]; exact runAppend_eq hclk hop
  case attach => rw [exec_attachPrefix]; exact runAppend_eq hclk hop
  case publish => rw [exec_publishPrefix]; exact runAppend_eq hclk hop
  case truncate => rw [exec_truncate]; exact runAppend_eq hclk hop

end Sys2Proof.Machine
end

section
/-!
What a write of a unit leaves (02_package R38, R42, R43, R48, R49, R51): where nothing impedes it, its bytes, the home caches and what the look-ups
correct.
-/

namespace Sys2Proof.Machine

open Sys2Proof.Claims

/-! ### Entries that a filter keeps -/

/-- A table of which a test of the numbers keeps some entries. -/
theorem tabGet_filter {α : Type} (d : α) (p : Nat → Bool) (t : Tab α) (i : Nat) :
    tabGet d (t.filter fun e => p e.1) i = if p i then tabGet d t i else d := by
  induction t with
  | nil => simp
  | cons e r ih =>
    obtain ⟨j, v⟩ := e
    by_cases hj : j = i
    · subst hj
      cases hp : p j <;> simp_all [tabGet]
    · cases hp : p j <;> simp [tabGet, hp, hj, ih]

/-- A table of numbers holds no more once entries have left it. -/
theorem tabGet_filter_le (p : Nat → Bool) (t : Tab Nat) (i : Nat) : tabGet 0 (t.filter fun e => p e.1) i ≤ tabGet 0 t i := by
  rw [tabGet_filter]
  split <;> omega

theorem tabGet_tabErase_le (t : Tab Nat) (k i : Nat) : tabGet 0 (tabErase t k) i ≤ tabGet 0 t i := tabGet_filter_le (fun j => j != k) t i

/-! ### What look-ups leave -/

/-- `t` is `s` after look-ups of lines: of the state only the caches and counters of the dies, stored errors, which do not grow, and what
corrections log may have changed; nothing is logged where the 64-byte lines of `P` hold no error. -/
structure LookedUp (P : Nat → Prop) (s t : State) : Prop where
  frame : t = { s with
    dies := t.dies, bad := t.bad, free := t.free, log := t.log, logHead := t.logHead, pcie := t.pcie, hubCounters := t.hubCounters }
  macros : ∀ d, (t.dieAt d).macros = (s.dieAt d).macros
  bad : ∀ h, tabGet 0 t.bad h ≤ tabGet 0 s.bad h
  quiet : (∀ h, P h → tabGet 0 s.bad h = 0) → t.log = s.log ∧ t.logHead = s.logHead

namespace LookedUp

variable {P : Nat → Prop} {s t u : State}

theorem refl (P : Nat → Prop) (s : State) : LookedUp P s s := ⟨rfl, fun _ => rfl, fun _ => le_rfl, fun _ => ⟨rfl, rfl⟩⟩

theorem trans (h : LookedUp P s t) (h' : LookedUp P t u) : LookedUp P s u where
  frame := by rw [h'.frame, h.frame]
  macros d := (h'.macros d).trans (h.macros d)
  bad i := (h'.bad i).trans (h.bad i)
  quiet hclean := by
    obtain ⟨hlog, hhead⟩ := h.quiet hclean
    obtain ⟨hlog', hhead'⟩ := h'.quiet fun i hi => Nat.eq_zero_of_le_zero ((h.bad i).trans (hclean i hi).le)
    exact ⟨hlog'.trans hlog, hhead'.trans hhead⟩

/-- Changes of the caches alone log nothing. -/
theorem of_onlyCaches (h : OnlyCaches s t) (hmacros : ∀ d, (t.dieAt d).macros = (s.dieAt d).macros)
    (hbad : ∀ i, tabGet 0 t.bad i ≤ tabGet 0 s.bad i) : LookedUp P s t := by
  obtain ⟨_, _, rfl⟩ := h
  exact ⟨rfl, hmacros, hbad, fun _ => ⟨rfl, rfl⟩⟩

/-- Bytes that are stored after the look-ups. -/
theorem store (h : LookedUp P s t) (p : Option Nat) (a : Nat) (bs : List Byte) :
    LookedUp P { s with mem := cellsWrite s.mem a bs } (storeAs t p a bs) where
  frame := by
    rw [storeAs, h.frame]
  macros := h.macros
  bad i := (tabGet_filter_le (fun j => !(decide (a ≤ j * 64) && decide (j * 64 + 64 ≤ a + bs.length)) || lineCached t p (j * 64)) t.bad i).trans
    (h.bad i)
  quiet := h.quiet

theorem mem_eq (h : LookedUp P s t) : t.mem = s.mem := by rw [h.frame]

theorem ecs_eq (h : LookedUp P s t) : t.ecs = s.ecs := by rw [h.frame]

theorem withMem (h : LookedUp P s t) (m : List Host.Cell) : LookedUp P { s with mem := m } { t with mem := m } where
  frame := by rw [h.frame]
  macros := h.macros
  bad := h.bad
  quiet := h.quiet

end LookedUp

section lookups

variable {P : Nat → Prop}

/-- A change of a die's cache or counters. -/
theorem lookedUp_modDie {f : Die → Die} (hf : ∀ x, (f x).macros = x.macros) (s : State) (d : Nat) : LookedUp P s (s.modDie d f) :=
  .of_onlyCaches (.modDie ..) (dieAt_modDie_macros hf s d) fun _ => le_rfl

theorem lookedUp_bumpCache (s : State) (d i : Nat) : LookedUp P s (bumpCache s d i) := lookedUp_modDie (fun _ => by rfl) ..

theorem lookedUp_touchLine (s : State) (d line : Nat) (l : CacheLine) (dirty : Bool) : LookedUp P s (touchLine s d line l dirty) :=
  lookedUp_modDie (fun _ => by rfl) ..

theorem lookedUp_writeBack (s : State) (d line : Nat) : LookedUp P s (writeBack s d line) := by
  have herased : LookedUp P s { s with bad := tabErase (tabErase s.bad (2 * line)) (2 * line + 1) } :=
    .of_onlyCaches ⟨_, _, rfl⟩ (fun _ => rfl) fun i => (tabGet_tabErase_le ..).trans (tabGet_tabErase_le ..)
  exact herased.trans (lookedUp_bumpCache ..)

theorem lookedUp_dropLine (s : State) (d : Nat) (l : Nat × CacheLine) : LookedUp P s (dropLine s d l) := by
  unfold dropLine
  extract_lets t
  have hback : LookedUp P s t := by
    unfold t
    split
    · exact lookedUp_writeBack ..
    · exact .refl P s
  exact hback.trans (lookedUp_modDie (fun _ => by rfl) ..)

theorem lookedUp_fillLine (s : State) (d q line : Nat) (dirty : Bool) : LookedUp P s (fillLine s d q line dirty) := by
  cases hway : fillWay s d q line with
  | none => rw [fillLine_of_no_way hway]; exact .refl P s
  | some w =>
    obtain ⟨w, victim⟩ := w
    rw [fillLine_of_way hway]
    have hdropped : LookedUp P s (victim.elim s (dropLine s d)) := by
      cases victim with
      | none => exact .refl P s
      | some v => exact lookedUp_dropLine s d v
    exact hdropped.trans (lookedUp_modDie (fun _ => by rfl) ..)

/-! ### Reads of a tier that can be corrected (R42, R43) -/

variable {s : State}

theorem lookedUp_countCorrected (s : State) (a : Nat) : LookedUp P s (countCorrected s a) := by
  unfold countCorrected
  split
  · exact lookedUp_modDie (fun _ => by rfl) ..
  · exact ⟨rfl, fun _ => rfl, fun _ => le_rfl, fun _ => ⟨rfl, rfl⟩⟩
  · exact .refl P s

/-- A record of a line's error, where the line holds one. -/
theorem lookedUp_logLine {h : Nat} (hP : P h) (hbad : tabGet 0 s.bad h ≠ 0) (t : State) (ht : LookedUp P s t) (code : Code) (a : Nat) :
    LookedUp P s (logLine t code a) where
  frame := by rw [logLine_frame, ht.frame]
  macros d := by rw [logLine_frame]; exact ht.macros d
  bad i := by rw [logLine_frame]; exact ht.bad i
  quiet hclean := absurd (hclean h hP) hbad

theorem lookedUp_correctLine {a : Nat} (hP : P (lineOf a)) (hbad : tabGet 0 s.bad (lineOf a) ≠ 0) : LookedUp P s (correctLine s a) := by
  have hcount := lookedUp_countCorrected (P := P) s a
  unfold correctLine
  split
  · refine lookedUp_logLine hP hbad _ (hcount.trans ?_) _ _
    exact .of_onlyCaches ⟨_, _, rfl⟩ (fun _ => rfl) fun i => tabGet_tabErase_le ..
  · exact lookedUp_logLine hP hbad _ hcount _ _

/-- A read of a line with at most one bad symbol meets no uncorrectable error. -/
theorem tierRead_of_correctable {a : Nat} (hP : P (lineOf a)) (hbad : tabGet 0 s.bad (lineOf a) < 2) :
    (tierRead s a).1 = false ∧ LookedUp P s (tierRead s a).2 := by
  unfold tierRead
  extract_lets b
  split
  · exact ⟨rfl, .refl P s⟩
  next hne =>
    rw [if_pos (by omega)]
    exact ⟨rfl, lookedUp_correctLine hP hne⟩

theorem readHalves_of_correctable {l : List Nat} (hl : ∀ a ∈ l, P (lineOf a)) : ∀ {s : State}, (∀ h, P h → tabGet 0 s.bad h < 2) →
    (readHalves s l).1 = none ∧ LookedUp P s (readHalves s l).2 := by
  induction l with
  | nil => exact fun _ => ⟨rfl, .refl P _⟩
  | cons a r ih =>
    intro s hbad
    obtain ⟨hok, hread⟩ := tierRead_of_correctable (hl a List.mem_cons_self) (hbad _ (hl a List.mem_cons_self))
    obtain ⟨hrest, hlooked⟩ := ih (fun b hb => hl b (List.mem_cons_of_mem _ hb)) fun h hP => (hread.bad h).trans_lt (hbad h hP)
    simp only [readHalves, hok, Bool.false_eq_true, if_false]
    exact ⟨hrest, hread.trans hlooked⟩

/-! ### Look-ups of a write (R49, R51) -/

variable {p : Option Nat} {na : Bool}

theorem lineOf_of_mem_halvesRead {line a n h : Nat} {wr fills : Bool} (hmem : h ∈ halvesRead line a n wr fills) : lineOf h / 2 = line := by
  have hhalf : h = line * 128 ∨ h = line * 128 + 64 := by simpa using List.mem_of_mem_filter hmem
  unfold lineOf
  omega

/-- A write's look-up of a line whose halves can be corrected meets no uncorrectable error. -/
theorem lineUse_of_write {line : Nat} (hP : ∀ h, h / 2 = line → P h) (hbad : ∀ h, P h → tabGet 0 s.bad h < 2) (a n : Nat) :
    (lineUse s p na line a n true).1 = none ∧ LookedUp P s (lineUse s p na line a n true).2 := by
  unfold lineUse
  split
  · exact ⟨rfl, .refl P s⟩
  next d hhome =>
    split
    · exact ⟨rfl, (lookedUp_touchLine ..).trans (lookedUp_bumpCache ..)⟩
    · extract_lets fills r
      have hcount := lookedUp_bumpCache (P := P) s d 1
      obtain ⟨hok, hread⟩ : r.1 = none ∧ LookedUp P (bumpCache s d 1) r.2 :=
        readHalves_of_correctable (fun h hmem => hP _ (lineOf_of_mem_halvesRead hmem)) hbad
      have hlooked := hcount.trans hread
      clear_value r
      obtain ⟨x, t⟩ := r
      subst hok
      cases p with
      | none => exact ⟨rfl, hlooked⟩
      | some q =>
        refine ⟨rfl, ?_⟩
        dsimp only
        split
        · exact hlooked.trans (lookedUp_fillLine ..)
        · exact hlooked

theorem linesUse_of_write {a n : Nat} (k : Nat) : ∀ {s : State} {line : Nat}, (∀ h, line ≤ h / 2 → h / 2 < line + k → P h) →
    (∀ h, P h → tabGet 0 s.bad h < 2) → (linesUse s p na a n true k line).1 = none ∧ LookedUp P s (linesUse s p na a n true k line).2 := by
  induction k with
  | zero => exact fun _ _ => ⟨rfl, .refl P _⟩
  | succ k ih =>
    intro s line hP hbad
    obtain ⟨hok, huse⟩ := lineUse_of_write (p := p) (na := na) (line := line) (fun h hh => hP h (by omega) (by omega)) hbad a n
    obtain ⟨hrest, hlooked⟩ := ih (line := line + 1) (fun h hlo hhi => hP h (by omega) (by omega)) fun h hh => (huse.bad h).trans_lt (hbad h hh)
    simp only [linesUse, hok]
    exact ⟨hrest, huse.trans hlooked⟩

theorem spanUse_of_write {a n : Nat} (hP : ∀ h, a / 128 ≤ h / 2 → h / 2 ≤ (a + n - 1) / 128 → P h)
    (hbad : ∀ h, P h → tabGet 0 s.bad h < 2) :
    (spanUse s p na a n true).1 = none ∧ LookedUp P s (spanUse s p na a n true).2 := by
  unfold spanUse
  split
  · exact ⟨rfl, .refl P s⟩
  next hn =>
    have hle : a / 128 ≤ (a + n - 1) / 128 := Nat.div_le_div_right (by omega)
    exact linesUse_of_write _ (fun h hlo hhi => hP h hlo (by omega)) hbad

/-! ### Writes (R43, R48) -/

theorem memWrite_of_correctable {a : Nat} {bs : List Byte} (hP : ∀ h, a / 128 ≤ h / 2 → h / 2 ≤ (a + bs.length - 1) / 128 → P h)
    (hbad : ∀ h, P h → tabGet 0 s.bad h < 2) :
    (memWrite s p na a bs).1 = none ∧ LookedUp P { s with mem := cellsWrite s.mem a bs } (memWrite s p na a bs).2 := by
  obtain ⟨hok, huse⟩ := spanUse_of_write (p := p) (na := na) hP hbad
  simp only [memWrite, hok, true_and]
  exact huse.store p a bs

theorem blockedEc_congr {t : State} (h : t.ecs = s.ecs) (c : Option (Fin 64)) (a : Nat) : blockedEc t c a = blockedEc s c a := by
  have hallowed : ∀ i, sramAllowed t c i = sramAllowed s c i := fun i => by simp only [sramAllowed, sramOpen, State.ecAt, h]
  simp only [blockedEc, hallowed]

theorem storeOpen_of_correctable {q : Req} {a : Nat} {bs : List Byte} (hopen : blockedEc s q.ctx a = none)
    (hP : ∀ h, a / 128 ≤ h / 2 → h / 2 ≤ (a + bs.length - 1) / 128 → P h) (hbad : ∀ h, P h → tabGet 0 s.bad h < 2) :
    (storeOpen s q a bs).1 = none ∧ LookedUp P { s with mem := cellsWrite s.mem a bs } (storeOpen s q a bs).2 := by
  simp only [storeOpen, hopen, Option.isSome_none, Bool.false_eq_true, if_false]
  exact memWrite_of_correctable hP hbad

/-- Bytes written one list after another. -/
theorem cellsWrite_append (xs ys : List Byte) : ∀ (m : List Host.Cell) (a : Nat),
    cellsWrite m a (xs ++ ys) = cellsWrite (cellsWrite m a xs) (a + xs.length) ys := by
  induction xs with
  | nil => exact fun _ _ => rfl
  | cons x xs ih =>
    intro m a
    simp only [List.cons_append, cellsWrite, ih, List.length_cons]
    rw [Nat.add_right_comm, Nat.add_assoc]

/-- A write that runs into the next SRAM window stores all its bytes. -/
theorem storeCut_of_correctable {q : Req} {a : Nat} {bs : List Byte} (hne : bs ≠ [])
    (hopen : ∀ i, i < bs.length → blockedEc s q.ctx (a + i) = none)
    (hP : ∀ h, a / 128 ≤ h / 2 → h / 2 ≤ (a + bs.length - 1) / 128 → P h) (hbad : ∀ h, P h → tabGet 0 s.bad h < 2) :
    (storeCut s q a bs).1 = none ∧ LookedUp P { s with mem := cellsWrite s.mem a bs } (storeCut s q a bs).2 := by
  have hlen : 0 < bs.length := List.length_pos_iff.mpr hne
  have hk : 0 < sramSize - a % sramSize := by simp only [sramSize]; omega
  unfold storeCut
  extract_lets k r
  obtain ⟨hok, hfirst⟩ : r.1 = none ∧ LookedUp P { s with mem := cellsWrite s.mem a (bs.take k) } r.2 :=
    storeOpen_of_correctable (hopen 0 hlen) (fun h hlo hhi => hP h hlo (hhi.trans (Nat.div_le_div_right (by simp; omega)))) hbad
  by_cases hcut : k < bs.length
  · have hbytes : cellsWrite s.mem a bs = cellsWrite (cellsWrite s.mem a (bs.take k)) (a + k) (bs.drop k) := by
      conv_lhs => rw [← List.take_append_drop k bs, cellsWrite_append, List.length_take_of_le hcut.le]
    obtain ⟨hok', hsecond⟩ : (storeOpen r.2 q (a + k) (bs.drop k)).1 = none ∧
        LookedUp P { r.2 with mem := cellsWrite r.2.mem (a + k) (bs.drop k) } (storeOpen r.2 q (a + k) (bs.drop k)).2 := by
      refine storeOpen_of_correctable ((blockedEc_congr hfirst.ecs_eq _ _).trans (hopen k hcut)) (fun h hlo hhi => hP h ?_ (hhi.trans ?_))
        fun h hh => (hfirst.bad h).trans_lt (hbad h hh)
      · exact (Nat.div_le_div_right (by omega)).trans hlo
      · exact Nat.div_le_div_right (by rw [List.length_drop]; omega)
    simp only [hok, hcut, Option.isNone_none, decide_true, Bool.and_self, if_true]
    refine ⟨hok', ?_⟩
    rw [hbytes]
    rw [hfirst.mem_eq] at hsecond
    exact (hfirst.withMem _).trans hsecond
  · rw [List.take_of_length_le (by omega)] at hfirst
    simp only [hok, hcut, Option.isNone_none, decide_false, Bool.and_false, Bool.false_eq_true, if_false, true_and]
    exact hfirst

theorem heldFault_of_spanHeld {a n : Nat} (h : spanHeld s a n = false) (q : Req) : heldFault s q a n = none := by
  have hnone : (List.range (lineCount a n)).find? (fun i => windowHeld s (lineStart a i)) = none := by
    simpa [spanHeld] using h
  simp [heldFault, hnone]

/-- A unit's write that nothing impedes stores its bytes; its look-ups are those of the lines that it touches. -/
theorem uWrite_of_unimpeded {q : Req} {a : Nat} {bs : List Byte} (hne : bs ≠ [])
    (hfault : rangeFault s q.part a bs.length true q.noAllocate = none)
    (hfree : Unimpeded s q.ctx a bs.length) : ∃ u, uWrite s q a bs = .ok u ∧
      LookedUp (fun h => a / 128 ≤ h / 2 ∧ h / 2 ≤ (a + bs.length - 1) / 128) { s with mem := cellsWrite s.mem a bs } u := by
  obtain ⟨hheld, hopen, hbad⟩ := hfree
  obtain ⟨hok, hlooked⟩ := storeCut_of_correctable (P := fun h => a / 128 ≤ h / 2 ∧ h / 2 ≤ (a + bs.length - 1) / 128) hne hopen
    (fun h hlo hhi => ⟨hlo, hhi⟩) fun h hh => hbad h hh.1 hh.2
  refine ⟨_, ?_, hlooked⟩
  simp only [uWrite, accessMeets, hfault, heldFault_of_spanHeld hheld, hok]

end lookups

/-- Memory after a write of bytes holds them, and is as before elsewhere. -/
theorem stores_of_mem_eq {s t : State} {a : Nat} {bs : List Byte} (hwf : Memory.wf s.mem = true) (h : t.mem = cellsWrite s.mem a bs) :
    Stores s t a bs := by
  rw [Stores, h]
  exact ⟨fun i hi => cellGet_cellsWrite_inside bs s.mem a i hwf hi, fun b hb => cellGet_cellsWrite_outside bs s.mem a b hb⟩

end Sys2Proof.Machine
end

section
/-!
The completion of a command (05_macro R121, R122, R125; 11_steward R346): its record, the queues and the ledger that it leaves, RETIRED, and SIGNAL.
-/

namespace Sys2Proof.Machine

open Sys2Proof.Claims

theorem exec_macroComplete (port : Fin 5) (acc : Nat) (s : State) : exec (.macroComplete port acc) s = execMacroComplete port acc s := rfl

/-! ### Queues of units (R121, R347) -/

theorem queueOf_setQueueOf (s : State) (u i : Nat) (q : List Place) : queueOf (setQueueOf s u q) i = if i = u then q else queueOf s i := by
  obtain rfl | hi := eq_or_ne i u
  · by_cases h : i < 128 <;> simp [queueOf, setQueueOf, h]
  · rw [if_neg hi]
    by_cases hu : u < 128
    · simp only [queueOf, setQueueOf, hu, if_true, ecAt_modEc_ne _ _ _ _ hi]
      rfl
    · by_cases h : i < 128
      · simp only [queueOf, setQueueOf, hu, h, if_true, if_false]
        rfl
      · simp only [queueOf, setQueueOf, hu, h, if_false]
        exact tabGet_tabSet_ne _ _ _ _ _ (by omega)

/-- A change of an EC that keeps its queue keeps every unit's. -/
theorem queueOf_modEc {f : Ec → Ec} (hf : ∀ c, (f c).queue = c.queue) (s : State) (e i : Nat) : queueOf (s.modEc e f) i = queueOf s i := by
  unfold queueOf
  split
  · exact modEc_keeps (v := Ec.queue) hf s e i
  · rfl

/-- `t` is `s` but for the queues of units. -/
def OnlyQueues (s t : State) : Prop := (∃ ecs unitQueues, t = { s with ecs, unitQueues }) ∧ ∀ e, (t.ecAt e).pairs = (s.ecAt e).pairs

theorem OnlyQueues.refl (s : State) : OnlyQueues s s := ⟨⟨_, _, rfl⟩, fun _ => rfl⟩

theorem OnlyQueues.trans {s t u : State} (h : OnlyQueues s t) (h' : OnlyQueues t u) : OnlyQueues s u := by
  obtain ⟨⟨_, _, rfl⟩, hpairs⟩ := h
  obtain ⟨⟨_, _, rfl⟩, hpairs'⟩ := h'
  exact ⟨⟨_, _, rfl⟩, fun e => (hpairs' e).trans (hpairs e)⟩

theorem setQueueOf_onlyQueues (s : State) (u : Nat) (q : List Place) : OnlyQueues s (setQueueOf s u q) := by
  unfold setQueueOf
  split
  · exact ⟨⟨_, _, rfl⟩, modEc_keeps (v := Ec.pairs) (fun _ => by rfl) s u⟩
  · exact ⟨⟨_, _, rfl⟩, fun _ => rfl⟩

theorem leaveQueues_onlyQueues (s : State) (port : Nat) (r : MacroRec) : OnlyQueues s (leaveQueues s port r) :=
  (crewUnits port r.word).foldlRecOn _ (motive := OnlyQueues s) (.refl s) fun _ ht _ _ => ht.trans (setQueueOf_onlyQueues ..)

/-- The command does not stand in the queue of the unit. -/
def NotQueued (port acc : Nat) (s : State) (u : Nat) : Prop := ∀ p ∈ queueOf s u, ¬(p.port.val = port ∧ p.acc = acc)

/-- A command that has left the queues of its crew stands in none of them. -/
theorem leaveQueues_notQueued (s : State) (port : Nat) (r : MacroRec) :
    ∀ u ∈ crewUnits port r.word, NotQueued port r.acc (leaveQueues s port r) u := by
  refine foldl_establishes (I := fun _ => True) (P := NotQueued port r.acc) (fun _ _ _ => trivial) (fun t u _ => ?_) (fun t u i h => ?_) _ s trivial
  · intro p hp
    rw [queueOf_setQueueOf, if_pos rfl, List.mem_filter] at hp
    simpa only [Bool.not_eq_true', Bool.and_eq_false_iff, beq_eq_false_iff_ne, ne_eq, not_and_or] using hp.2
  · intro p hp
    rw [queueOf_setQueueOf] at hp
    split at hp
    next hi =>
      subst hi
      exact h p (List.mem_filter.mp hp).1
    · exact h p hp

/-! ### A command that is taken out (R122) -/

/-- A die's next command of the dragoman leaves the records of commands alone. -/
theorem macrosOf_drgPlace (s : State) (d port : Nat) : macrosOf (drgPlace s d) port = macrosOf s port := macrosOf_modDie (fun _ => by rfl) ..

/-- `t` is `s` without the command: the rest of the ledgers, memory and the log stand. -/
structure Removed (s t : State) (port : Nat) (r : MacroRec) : Prop where
  mem : t.mem = s.mem
  log : t.log = s.log ∧ t.logHead = s.logHead
  macros : macrosOf t port = (macrosOf s port).filter fun x => x.acc != r.acc
  queues : ∀ u ∈ crewUnits port r.word, NotQueued port r.acc t u
  retired : (t.stewardAt r.issuer.val).retired = (s.stewardAt r.issuer.val).retired + 1
  pairs : ∀ e, (t.ecAt e).pairs = (s.ecAt e).pairs

/-- The ledger of a port becomes `l`, and a place of the dragoman goes to another command. -/
def withoutMacro (s : State) (port : Nat) (r : MacroRec) : State :=
  let t := setMacros s port ((macrosOf s port).filter fun x => x.acc != r.acc)
  if port < 4 then drgPlace (t.modDie port fun d => { d with drgCommands := d.drgCommands.filter fun a => a != r.acc }) port else t

theorem withoutMacro_onlyMacros (s : State) (port : Nat) (r : MacroRec) : OnlyMacros s (withoutMacro s port r) := by
  unfold withoutMacro setMacros
  split <;> exact ⟨_, _, rfl⟩

theorem macrosOf_withoutMacro (s : State) (port : Nat) (r : MacroRec) :
    macrosOf (withoutMacro s port r) port = (macrosOf s port).filter fun x => x.acc != r.acc := by
  unfold withoutMacro
  extract_lets t
  split
  · rw [macrosOf_drgPlace]
    exact (macrosOf_modDie (fun _ => by rfl) ..).trans (macrosOf_setMacros ..)
  · exact macrosOf_setMacros ..

theorem removeCommand_removed (s : State) (port : Nat) (r : MacroRec) : Removed s (removeCommand s port r) port r := by
  have hleft := leaveQueues_onlyQueues s port r
  have hnone := leaveQueues_notQueued s port r
  have heq : removeCommand s port r = withoutMacro (retire (leaveQueues s port r) r.issuer.val) port r := rfl
  have hmacros := macrosOf_withoutMacro (retire (leaveQueues s port r) r.issuer.val) port r
  obtain ⟨dies, hubMacros, hout⟩ := withoutMacro_onlyMacros (retire (leaveQueues s port r) r.issuer.val) port r
  rw [← heq] at hmacros hout
  obtain ⟨⟨ecs, unitQueues, hsame⟩, hpairs⟩ := hleft
  rw [hout]
  have hretired : ((retire (leaveQueues s port r) r.issuer.val).stewardAt r.issuer.val).retired =
      (s.stewardAt r.issuer.val).retired + 1 := by
    rw [retire, stewardAt_modSteward, hsame]
    rfl
  refine ⟨?_, ?_, ?_, hnone, hretired, hpairs⟩
  · simp only [retire, modSteward_mem, hsame]
  · simp only [retire, modSteward_log, modSteward_logHead, hsame, and_self]
  · rw [← hout, hmacros, hsame]
    rfl

/-! ### Units of the crew (R121) -/

/-- The units of a command's crew are freed. -/
def crewFreed (s : State) (port : Nat) (r : MacroRec) : State :=
  (crewUnits port r.word).foldl (fun u e => if e < 128 then freeUnits u e r.acc else u) s

/-- Freed units keep the queues and pairs of their ECs. -/
theorem freeUnits_keeps (s : State) (e acc : Nat) :
    (∀ u, queueOf (freeUnits s e acc) u = queueOf s u) ∧ ∀ i, ((freeUnits s e acc).ecAt i).pairs = (s.ecAt i).pairs := by
  rw [freeUnits_eq]
  exact ⟨queueOf_modEc (fun c => by simp) s e, modEc_keeps (v := Ec.pairs) (fun c => by simp) s e⟩

/-- `t` is `s` but for what the units of ECs hold. -/
def OnlyUnits (s t : State) : Prop :=
  OnlyEcs s t ∧ (∀ u, queueOf t u = queueOf s u) ∧ ∀ i, (t.ecAt i).pairs = (s.ecAt i).pairs

theorem crewFreed_onlyUnits (s : State) (port : Nat) (r : MacroRec) : OnlyUnits s (crewFreed s port r) := by
  refine (crewUnits port r.word).foldlRecOn _ (motive := OnlyUnits s) ⟨.refl s, fun _ => rfl, fun _ => rfl⟩ fun t ht e _ => ?_
  obtain ⟨hecs, hqueues, hpairs⟩ := ht
  split
  · obtain ⟨hqueues', hpairs'⟩ := freeUnits_keeps t e r.acc
    exact ⟨hecs.trans (freeUnits_onlyEcs ..), fun u => (hqueues' u).trans (hqueues u), fun i => (hpairs' i).trans (hpairs i)⟩
  · exact ⟨hecs, hqueues, hpairs⟩

theorem Removed.crewFreed {s t : State} {port : Nat} {r : MacroRec} (h : Removed s t port r) : Removed s (crewFreed t port r) port r := by
  obtain ⟨⟨ecs, hsame⟩, hqueues, hpairs⟩ := crewFreed_onlyUnits t port r
  refine ⟨?_, ?_, ?_, fun u hu p hp => h.queues u hu p (by rwa [← hqueues]), ?_, fun i => (hpairs i).trans (h.pairs i)⟩
  · rw [hsame]; exact h.mem
  · rw [hsame]; exact h.log
  · rw [hsame]; exact h.macros
  · rw [hsame]; exact h.retired

theorem Removed.macroAt_self {s t : State} {port : Nat} {r : MacroRec} (h : Removed s t port r) : macroAt t port r.acc = none := by
  rw [macroAt, h.macros, List.find?_eq_none]
  intro x hx
  simpa using (List.mem_filter.mp hx).2

theorem Removed.macroAt_ne {s t : State} {port b : Nat} {r : MacroRec} (h : Removed s t port r) (hb : b ≠ r.acc) :
    macroAt t port b = macroAt s port b := by
  rw [macroAt, h.macros, List.find?_filter, macroAt]
  congr 1
  funext x
  by_cases hx : x.acc = b <;> simp [hx, hb]

/-! ### SIGNAL (R122; 10_streams R311, R312) -/

/-- FILL counts one more below 65,535. -/
theorem satAdd_one {c : BitVec 16} (h : c.toNat < 65535) : satAdd c 1 = (c + 1, false) := by
  rw [satAdd, if_pos (by omega), Prod.mk.injEq]
  refine ⟨BitVec.eq_of_toNat_eq ?_, rfl⟩
  rw [BitVec.toNat_ofNat, BitVec.toNat_add]
  rfl

theorem satAdd_full {c : BitVec 16} (h : c.toNat = 65535) : (satAdd c 1).2 = true := by
  rw [satAdd, if_neg (by omega)]

theorem pairIncrease_fill_eq (s : State) (e n k : Nat) : (pairIncrease s e n false k).2 = (satAdd (pairAt s e n).1 k).2 := rfl

theorem pairAt_pairIncrease_fill (s : State) (e n k : Nat) :
    pairAt (pairIncrease s e n false k).1 e n = ((satAdd (pairAt s e n).1 k).1, (pairAt s e n).2) := by
  simp only [pairAt, pairIncrease, ecAt_modEc, Bool.false_eq_true, if_false, tabGet_tabSet_same]

/-- The command gives SIGNAL, to a pair of its issuer's EC. -/
abbrev Signals (r : MacroRec) : Prop := wSignal r.word = true ∧ r.issuer.val < 256

/-- SIGNAL of a command that has left: FILL of its pair, or the fault of an overflow. -/
def signalled (t : State) (r : MacroRec) : State :=
  if wSignal r.word && decide (r.issuer.val < 256) then
    let y := pairIncrease t (r.issuer.val / 2) (wSem r.word) false 1
    if y.2 then memoryFault y.1 (.task r.issuer) 0x4009 0 else y.1
  else t

section signal

variable {t : State} {r : MacroRec}

theorem signalled_of_silent (h : ¬Signals r) : signalled t r = t := by
  unfold signalled
  rw [if_neg (by simpa using h)]

variable (hsignal : Signals r)
include hsignal

theorem signalled_of_room (h : (pairAt t (r.issuer.val / 2) (wSem r.word)).1.toNat < 65535) :
    signalled t r = (pairIncrease t (r.issuer.val / 2) (wSem r.word) false 1).1 := by
  simp only [signalled, hsignal, decide_true, Bool.and_self, if_true, pairIncrease_fill_eq, satAdd_one h, Bool.false_eq_true, if_false]

theorem signalled_of_full (h : (pairAt t (r.issuer.val / 2) (wSem r.word)).1.toNat = 65535) :
    signalled t r = memoryFault (pairIncrease t (r.issuer.val / 2) (wSem r.word) false 1).1 (.task r.issuer) 0x4009 0 := by
  simp only [signalled, hsignal, decide_true, Bool.and_self, if_true, pairIncrease_fill_eq, satAdd_full h]

end signal

/-- SIGNAL with room in the pair changes the ECs alone, and FILL of the pair by one; without SIGNAL nothing changes. -/
theorem signalled_spec {t : State} {r : MacroRec} (h : Signals r → (pairAt t (r.issuer.val / 2) (wSem r.word)).1.toNat < 65535) :
    let pair := pairAt t (r.issuer.val / 2) (wSem r.word)
    OnlyEcs t (signalled t r) ∧ (∀ u, queueOf (signalled t r) u = queueOf t u) ∧
      (Signals r → pairAt (signalled t r) (r.issuer.val / 2) (wSem r.word) = (pair.1 + 1, pair.2)) ∧
      (¬Signals r → pairAt (signalled t r) (r.issuer.val / 2) (wSem r.word) = pair) := by
  by_cases hsig : Signals r
  · rw [signalled_of_room hsig (h hsig)]
    refine ⟨⟨_, rfl⟩, queueOf_modEc (fun _ => by rfl) _ _, fun _ => ?_, absurd hsig⟩
    rw [pairAt_pairIncrease_fill, satAdd_one (h hsig)]
  · rw [signalled_of_silent hsig]
    exact ⟨.refl t, fun _ => rfl, fun h => absurd h hsig, fun _ => rfl⟩

/-! ### MACRO_COMPLETE -/

/-- The record as it is written: with EPOCH_MIXED where its row tiles used several epochs (03_arithmetic R87). -/
abbrev finalRec (r : MacroRec) : MacroRec := { r with aflags := r.aflags ||| epochFlag r }

/-- The state in which the command has left `u`. -/
def commandLeft (u : State) (port : Nat) (r : MacroRec) : State := crewFreed (removeCommand u port (finalRec r)) port (finalRec r)

theorem commandLeft_removed (u : State) (port : Nat) (r : MacroRec) : Removed u (commandLeft u port r) port (finalRec r) :=
  (removeCommand_removed u port (finalRec r)).crewFreed

theorem completionBytes_length (s : State) (r : MacroRec) : (completionBytes s r).length = 16 := by
  simp [completionBytes]

theorem completeCommand_of_written {s u : State} {port : Nat} {r : MacroRec}
    (h : uWrite s (reqOf s r) (wCompl r.word % 2 ^ 48) (completionBytes s (finalRec r)) = .ok u) :
    completeCommand s port r = signalled (commandLeft u port r) r := by
  have hwritten : uWrite s (reqOf s (finalRec r)) (wCompl (finalRec r).word % 2 ^ 48) (completionBytes s (finalRec r)) = .ok u := h
  simp only [completeCommand, hwritten]
  rfl

theorem LookedUp.macrosOf_eq {P : Nat → Prop} {s t : State} (h : LookedUp P s t) (port : Nat) : macrosOf t port = macrosOf s port := by
  unfold macrosOf
  split
  · exact h.macros port
  · rw [h.frame]

section complete

variable {s : State} {port : Fin 5} {acc : Nat} {r : MacroRec} (hclk : coreClocks s = true) (hr : macroAt s port.val acc = some r)
  (hend : recFinished s r = true) (hop : wOpcode r.word < 0x20)
  (hfault : rangeFault s (reqOf s r).part (wCompl r.word % 2 ^ 48) 16 true = none) (hfree : Unimpeded s r.ctx (wCompl r.word % 2 ^ 48) 16)
include hclk hr hend hop hfault hfree

/-- A command whose record nothing impedes writes it, leaves, and gives SIGNAL. -/
theorem macroComplete_gives : ∃ u, Gives (.macroComplete port acc) s (signalled (commandLeft u port.val r) r) ∧
    LookedUp (fun h => wCompl r.word % 2 ^ 48 / 128 ≤ h / 2 ∧ h / 2 ≤ (wCompl r.word % 2 ^ 48 + 15) / 128)
      { s with mem := cellsWrite s.mem (wCompl r.word % 2 ^ 48) (completionBytes s (finalRec r)) } u := by
  have hlen := completionBytes_length s (finalRec r)
  obtain ⟨u, hu, hlooked⟩ := uWrite_of_unimpeded (q := reqOf s r) (bs := completionBytes s (finalRec r)) (fun h => by simp [h] at hlen)
    (by rw [hlen]; exact hfault) (by rw [hlen]; exact hfree)
  rw [hlen] at hlooked
  refine ⟨u, ?_, hlooked⟩
  rw [← completeCommand_of_written hu]
  simp only [Gives, exec_macroComplete, execMacroComplete, whileClocked_of_clock hclk, hr, hend, hop, decide_true, Bool.and_self, whenEnabled_true]

end complete

/-- Settles O37: what the write of the record leaves, then what the command's leaving changes, then SIGNAL. -/
theorem macroCompletes : Obligations.MacroCompletes := by
  intro s port acc r a fl e pair signals hclk hr hend hop hfault hfree hwf
  obtain rfl : r.acc = acc := acc_of_macroAt hr
  obtain ⟨u, hgives, hlooked⟩ := macroComplete_gives hclk hr hend hop hfault hfree
  have hleft := commandLeft_removed u port.val r
  have hpair : pairAt (commandLeft u port.val r) e (wSem r.word) = pair := by
    rw [pairAt, hleft.pairs, State.ecAt, hlooked.ecs_eq]
    rfl
  refine ⟨fun hroom => ⟨_, hgives, ?_⟩, fun hsig hfull hclean => ⟨_, hgives, ?_⟩⟩
  · obtain ⟨hecs, hqueues, hgiven, hsilent⟩ := signalled_spec (t := commandLeft u port.val r) (r := r)
      (by rw [hpair]; exact hroom)
    rw [hpair] at hgiven hsilent
    refine ⟨stores_of_mem_eq hwf ?_, ?_, fun b hb => ?_, fun v hv p hp hsame => ?_, ?_, hgiven, hsilent⟩
    · rw [hecs.mem_eq, hleft.mem, hlooked.mem_eq]
      rfl
    · rw [hecs.macroAt_eq]
      exact hleft.macroAt_self
    · rw [hecs.macroAt_eq, hleft.macroAt_ne hb, macroAt, hlooked.macrosOf_eq]
      rfl
    · rw [hqueues] at hp
      exact hleft.queues v hv p hp ⟨congrArg Fin.val hsame.1, hsame.2⟩
    · obtain ⟨_, hstewards⟩ := hecs
      rw [hstewards]
      refine hleft.retired.trans ?_
      rw [hlooked.frame]
      rfl
  · rw [signalled_of_full hsig (by rw [hpair]; exact hfull)]
    obtain ⟨-, x, l, hcode, hhead, hlog⟩ := memoryFault_spec (pairIncrease (commandLeft u port.val r) e (wSem r.word) false 1).1
      (.task r.issuer) 0x4009 0
    obtain ⟨hlog0, hhead0⟩ := hlooked.quiet fun h hh => hclean h hh.1 hh.2
    obtain ⟨hlog1, hhead1⟩ := hleft.log
    refine ⟨x, l, hcode, hhead.trans ?_, hlog.trans ?_⟩
    · exact congrArg (· + (x :: l).length) (hhead1.trans hhead0)
    · rw [joinLog, if_neg (by simp)]
      have hsame : (pairIncrease (commandLeft u port.val r) e (wSem r.word) false 1).1.log = s.log := hlog1.trans hlog0
      rw [hsame]

end Sys2Proof.Machine
end

section
/-!
COMMAND_START (05_macro R121, R157): the checks, the armed record, the queue of the unit, and the units that the command holds.
-/

namespace Sys2Proof.Machine

open Sys2Proof.Claims

theorem exec_commandStart (u : Fin 131) (s : State) : exec (.commandStart u) s = execCommandStart u s := rfl

/-! ### The place that starts -/

theorem canStart_spec {s : State} {u : Nat} {p : Place} {r : MacroRec} (h : canStart s u = some (p, r)) :
    macroAt s p.port.val p.acc = some r ∧ p ∈ queueOf s u ∧ p.started = false := by
  unfold canStart at h
  split at h
  · cases h
  next p' hp =>
    split at h
    · cases h
    next r' hr =>
      split at h
      · cases h
        have hfirst : (queueOf s u).find? (fun p => !p.started) = some p := hp
        exact ⟨hr, List.mem_of_find?_eq_some hfirst, by simpa using List.find?_some hfirst⟩
      · cases h

/-- The place of a command is marked as started; it does not wait in the queue any more. -/
def MarkedStarted (s : State) (u : Nat) (p : Place) : Prop := { p with started := true } ∈ queueOf s u ∧ p ∉ queueOf s u

theorem markStarted_marks {s : State} {u : Nat} {p : Place} (hmem : p ∈ queueOf s u) (hwaits : p.started = false) :
    MarkedStarted (markStarted s u p) u p := by
  rw [MarkedStarted, markStarted, queueOf_setQueueOf, if_pos rfl]
  refine ⟨List.mem_map.mpr ⟨p, hmem, if_pos rfl⟩, fun h => ?_⟩
  obtain ⟨x, -, hx⟩ := List.mem_map.mp h
  split at hx
  next hxp =>
    rw [← hx] at hwaits
    cases hwaits
  next hxp => exact hxp hx

theorem MarkedStarted.of_queueOf_eq {s t : State} {u : Nat} {p : Place} (h : MarkedStarted s u p) (ht : queueOf t u = queueOf s u) :
    MarkedStarted t u p := by
  rwa [MarkedStarted, ht]

/-! ### Units that are held (04_matrix R112) -/

/-- An EC whose engine `i` the command holds, from region 0 on. -/
def heldEngine (acc : Nat) (c : Ec) (i : Nat) : Ec :=
  c.setEngine i { c.engineAt i with holds := some acc, region := 0, broadcast := [], feeders := [], resident := [] }

/-- An EC whose row unit the command holds, if it uses it. -/
def heldRowUnit (acc : Nat) (w : List Byte) (c : Ec) : Ec :=
  if usesRowUnit w then { c with rowUnit := { c.rowUnit with holds := some acc } } else c

theorem holdUnits_eq (s : State) (e acc : Nat) (w : List Byte) :
    holdUnits s e acc w = s.modEc e fun c => heldRowUnit acc w ((enginesOf w).foldl (heldEngine acc) c) := rfl

@[simp] theorem heldRowUnit_engineAt (acc : Nat) (w : List Byte) (c : Ec) (g : Nat) : (heldRowUnit acc w c).engineAt g = c.engineAt g := by
  unfold heldRowUnit
  split <;> rfl

@[simp] theorem heldRowUnit_queue (acc : Nat) (w : List Byte) (c : Ec) : (heldRowUnit acc w c).queue = c.queue := by
  unfold heldRowUnit
  split <;> rfl

/-- The engine is held for the command and begins with region 0. -/
def HeldFresh (acc : Nat) (c : Ec) (g : Nat) : Prop := (c.engineAt g).holds = some acc ∧ (c.engineAt g).region = 0

theorem foldl_heldEngine_held (acc : Nat) (l : List Nat) (c : Ec) : ∀ g ∈ l, HeldFresh acc (l.foldl (heldEngine acc) c) g := by
  refine foldl_establishes (I := fun _ => True) (P := HeldFresh acc) (fun _ _ _ => trivial) (fun c i _ => ?_) (fun c i g h => ?_) l c trivial
  · rw [HeldFresh, heldEngine, Ec.engineAt_setEngine]
    exact ⟨rfl, rfl⟩
  · obtain rfl | hg := eq_or_ne g i
    · rw [HeldFresh, heldEngine, Ec.engineAt_setEngine]
      exact ⟨rfl, rfl⟩
    · rwa [HeldFresh, heldEngine, Ec.engineAt_setEngine_ne _ _ hg]

theorem holdUnits_holds (s : State) (e acc : Nat) (w : List Byte) :
    (∀ g ∈ enginesOf w, HeldFresh acc ((holdUnits s e acc w).ecAt e) g) ∧
      (usesRowUnit w = true → ((holdUnits s e acc w).ecAt e).rowUnit.holds = some acc) := by
  rw [holdUnits_eq, ecAt_modEc]
  refine ⟨fun g hg => ?_, fun h => by rw [heldRowUnit, if_pos h]⟩
  rw [HeldFresh, heldRowUnit_engineAt]
  exact foldl_heldEngine_held acc _ _ g hg

theorem queueOf_holdUnits (s : State) (e acc : Nat) (w : List Byte) (u : Nat) : queueOf (holdUnits s e acc w) u = queueOf s u := by
  rw [holdUnits_eq]
  refine queueOf_modEc (fun c => ?_) s e u
  rw [heldRowUnit_queue]
  exact (enginesOf w).foldlRecOn (heldEngine acc) (motive := fun x : Ec => x.queue = c.queue) rfl
    fun x h i _ => (rfl : (heldEngine acc x i).queue = x.queue).trans h

/-! ### The record that joins -/

theorem OnlyMacros.queueOf_eq {s t : State} (h : OnlyMacros s t) (u : Nat) : queueOf t u = queueOf s u := by
  obtain ⟨_, _, rfl⟩ := h
  rfl

theorem OnlyQueues.macroAt_eq {s t : State} (h : OnlyQueues s t) (port acc : Nat) : macroAt t port acc = macroAt s port acc := by
  obtain ⟨⟨_, _, rfl⟩, -⟩ := h
  rfl

/-- The state in which unit `u` has joined the command of record `y`, in the ledger and in its queue. -/
def unitJoined (t : State) (u : Nat) (p : Place) (y : MacroRec) : State :=
  setMacro (markStarted t u p) p.port.val { y with joined := y.joined ++ [u] }

/-- A started command needs no units of the EC: it has ended, it has no tile left for units to take, or the unit belongs to the hub. -/
abbrev NoUnits (u : Nat) (w : List Byte) (y : MacroRec) : Prop :=
  y.finished = true ∨ (nothingLeft y = true ∧ enginesOf w ++ (if usesRowUnit w then [2] else []) ≠ []) ∨ 128 ≤ u

theorem not_noUnits {u : Nat} {y : MacroRec} (hec : u < 128) (hopen : y.finished = false) (hleft : y.next < y.total) (w : List Byte) :
    ¬NoUnits u w y := by
  have hsome : nothingLeft y = false := by simp [nothingLeft, hleft]
  simp only [NoUnits, hopen, hsome, Bool.false_eq_true, false_and, false_or]
  omega

/-- What is the same whether the command holds units or not. -/
structure Joined (s t : State) (u : Nat) (p : Place) (y : MacroRec) : Prop where
  record : macroAt t p.port.val p.acc = some { y with joined := y.joined ++ [u] }
  marked : MarkedStarted t u p
  kept : t.mem = s.mem ∧ t.log = s.log ∧ t.logHead = s.logHead

section join

variable {s t : State} {u : Nat} {p : Place} {y : MacroRec} (hy : macroAt s p.port.val p.acc = some y) (hmem : p ∈ queueOf s u)
  (hwaits : p.started = false)
include hy hmem hwaits

theorem unitJoined_joined : Joined s (unitJoined s u p y) u p y := by
  have hacc : y.acc = p.acc := acc_of_macroAt hy
  have hqueues : OnlyQueues s (markStarted s u p) := setQueueOf_onlyQueues ..
  have hmacros : OnlyMacros (markStarted s u p) (unitJoined s u p y) := setMacro_onlyMacros ..
  refine ⟨macroAt_setMacro ((hqueues.macroAt_eq ..).trans hy) hacc, (markStarted_marks hmem hwaits).of_queueOf_eq (hmacros.queueOf_eq u), ?_⟩
  obtain ⟨⟨_, _, hmarked⟩, -⟩ := hqueues
  obtain ⟨_, _, hset⟩ := hmacros
  rw [hset, hmarked]
  exact ⟨rfl, rfl, rfl⟩

theorem holdUnits_joined (acc : Nat) (w : List Byte) : Joined s (holdUnits (unitJoined s u p y) u acc w) u p y := by
  obtain ⟨hrecord, hmarked, hkept⟩ := unitJoined_joined hy hmem hwaits
  exact ⟨hrecord, hmarked.of_queueOf_eq (queueOf_holdUnits ..), hkept⟩

end join

/-! ### The checks (R157) -/

theorem commandRec_spec (s : State) (port : Nat) (r : MacroRec) (code : Code) : (commandRec s port r code).code = code ∧
    (commandRec s port r code).kind = (if port < 4 then 2 else 0) ∧ (commandRec s port r code).unit = if port < 4 then port else 0 := by
  have htask : ∀ x : LogRec, (withTask s r.issuer x).code = x.code ∧ (withTask s r.issuer x).kind = x.kind ∧
      (withTask s r.issuer x).unit = x.unit := fun x => by
    unfold withTask
    extract_lets
    split <;> exact ⟨rfl, rfl, rfl⟩
  unfold commandRec
  cases r.ctx with
  | none => exact htask _
  | some c => exact htask _

theorem withDetail_kind_unit (s : State) (r : LogRec) : (withDetail s r).1.kind = r.kind ∧ (withDetail s r).1.unit = r.unit := by
  unfold withDetail
  dsimp only
  split
  · exact ⟨rfl, rfl⟩
  · split <;> exact ⟨rfl, rfl⟩

theorem logCommand_logs (s : State) (port : Nat) (r : MacroRec) (code : Code) :
    Logs s (logCommand s port r code) code (if port < 4 then 2 else 0) (if port < 4 then port else 0) := by
  obtain ⟨hlast, hhead⟩ := logWrite_getLast? s (commandRec s port r code)
  obtain ⟨hcode, hkind, hunit⟩ := commandRec_spec s port r code
  obtain ⟨hkind', hunit'⟩ := withDetail_kind_unit s (commandRec s port r code)
  exact ⟨hhead, _, hlast, (withDetail_spec ..).1.trans hcode, hkind'.trans hkind, hunit'.trans hunit⟩

section checks

variable {s : State} {port acc : Nat} {r : MacroRec}

theorem armCommand_refused {c : Code} (h : startCode s (reqOf s r) port r = .ok c) (hc : c ≠ 0) :
    armCommand s port r = rejectCommand s port r c := by
  simp only [armCommand, h, hc, ne_eq, not_false_eq_true, if_true]

/-- The record that a start arms: with the view that it reads, and the number of its tiles. -/
abbrev armedRec (r : MacroRec) (v : Option (Nat × List Byte)) (w : RecWork) : MacroRec :=
  { r with armed := true, view := v, total := match r.only with | none => w.tiles.length | some l => rangeCount l }

theorem armCommand_armed {v : Option (Nat × List Byte)} {w : RecWork} (h : startCode s (reqOf s r) port r = .ok 0)
    (hv : viewAtStart s (reqOf s r) r.word = .ok v) (hw : recWork s { reqOf s r with view := v } r.word = .ok w) :
    armCommand s port r = setMacro s port (armedRec r v w) := by
  have harmed : armedRecord s r = .ok (armedRec r v w) := by
    simp only [armedRecord, hv, hw, bind, Except.bind] <;> rfl
  simp only [armCommand, h, harmed, ne_eq, not_true_eq_false, if_false]

/-- A refused command: it holds the code, has ended, and the code is logged. -/
theorem rejectCommand_spec (hr : macroAt s port acc = some r) (code : Code) :
    macroAt (rejectCommand s port r code) port acc = some (rejected s r code) ∧ (rejectCommand s port r code).mem = s.mem ∧
      (∀ u, queueOf (rejectCommand s port r code) u = queueOf s u) ∧
      Logs s (rejectCommand s port r code) code (if port < 4 then 2 else 0) (if port < 4 then port else 0) := by
  have hacc : r.acc = acc := acc_of_macroAt hr
  have hlogs := logCommand_logs s port r code
  have hframe : logCommand s port r code = _ := logWrite_frame ..
  have hfound : macroAt (logCommand s port r code) port acc = some r := by rw [hframe]; exact hr
  have hset : OnlyMacros (logCommand s port r code) (rejectCommand s port r code) := setMacro_onlyMacros ..
  refine ⟨macroAt_setMacro hfound hacc, ?_, fun u => ?_, ?_⟩
  · rw [hset.mem_eq, hframe]
  · rw [hset.queueOf_eq, hframe]
    rfl
  · obtain ⟨_, _, hsame⟩ := hset
    rw [hsame]
    exact hlogs

end checks

/-! ### COMMAND_START -/

/-- A fresh command that its start arms or refuses joins the unit, which holds what the command uses if there is a tile to take. -/
theorem commandStart_gives {s : State} {u : Fin 131} {p : Place} {r y : MacroRec} (hclk : coreClocks s = true)
    (hunit : unitClocked s u.val = true) (hstart : canStart s u.val = some (p, r)) (hfresh : r.armed = false)
    (hy : macroAt (armCommand s p.port.val r) p.port.val p.acc = some y) (harmed : y.armed = true)
    (hqueue : queueOf (armCommand s p.port.val r) u.val = queueOf s u.val) :
    ∃ t, Gives (.commandStart u) s t ∧ Joined (armCommand s p.port.val r) t u.val p y ∧
      (u.val < 128 → y.finished = false → y.next < y.total →
        (∀ g ∈ enginesOf r.word, HeldFresh p.acc (t.ecAt u.val) g) ∧
          (usesRowUnit r.word = true → (t.ecAt u.val).rowUnit.holds = some p.acc)) := by
  obtain ⟨-, hmem, hwaits⟩ := canStart_spec hstart
  rw [← hqueue] at hmem
  have hexec : exec (.commandStart u) s = if NoUnits u.val r.word y
      then .next (unitJoined (armCommand s p.port.val r) u.val p y)
      else .next (holdUnits (unitJoined (armCommand s p.port.val r) u.val p y) u.val p.acc r.word) := by
    simp only [exec_commandStart, execCommandStart, whileClocked_of_clock hclk, hunit, hstart, hfresh, hy, harmed, unitJoined, if_true,
      Bool.not_true, Bool.false_eq_true, if_false]
  by_cases hnone : NoUnits u.val r.word y
  · rw [if_pos hnone] at hexec
    exact ⟨_, hexec, unitJoined_joined hy hmem hwaits, fun hec hopen hleft => absurd hnone (not_noUnits hec hopen hleft _)⟩
  · rw [if_neg hnone] at hexec
    exact ⟨_, hexec, holdUnits_joined hy hmem hwaits .., fun _ _ _ => holdUnits_holds ..⟩

/-- The first half of O36: a fresh command is refused with its code, or armed with the number of its tiles. -/
theorem commandStarts : CommandStarts := by
  intro s u p r d Started hclk hunit hstart hfresh hopen
  obtain ⟨hr, -, -⟩ := canStart_spec hstart
  refine ⟨fun c hcode hc => ?refused, fun v w hcode hv hw => ?armed⟩
  case refused =>
    obtain ⟨hrecord, hmem, hqueue, hlogs⟩ := rejectCommand_spec hr c
    rw [← armCommand_refused hcode hc] at hrecord hmem hqueue hlogs
    obtain ⟨t, hgives, hjoined, -⟩ := commandStart_gives hclk hunit hstart hfresh hrecord rfl (hqueue u.val)
    obtain ⟨hmem', hlog, hhead⟩ := hjoined.kept
    refine ⟨t, hgives, ?_, hjoined.record, hmem'.trans hmem, hjoined.marked⟩
    rw [Logs, hhead, hlog]
    exact hlogs
  case armed =>
    intro total
    have hset : OnlyMacros s (setMacro s d (armedRec r v w)) := setMacro_onlyMacros ..
    have hrecord : macroAt (setMacro s d (armedRec r v w)) d p.acc = some (armedRec r v w) := macroAt_setMacro hr (acc_of_macroAt hr :)
    have hqueue := hset.queueOf_eq u.val
    have hmem := hset.mem_eq
    rw [← armCommand_armed hcode hv hw] at hrecord hqueue hmem
    obtain ⟨t, hgives, hjoined, hheld⟩ := commandStart_gives hclk hunit hstart hfresh hrecord rfl hqueue
    exact ⟨t, hgives, ⟨hjoined.record, hjoined.kept.1.trans hmem, hjoined.marked⟩, fun hec hleft => hheld hec hopen hleft⟩

end Sys2Proof.Machine
end

section
/-!
Takes, grants and steals of tiles (05_macro R146 to R148; 12_partitions R365, R380): each tile that is left goes to one unit.
-/

namespace Sys2Proof.Machine

open Sys2Proof.Claims

/-! ### The rows -/

theorem exec_tileTake (ec : Fin 128) (eng : Fin 2) (acc : Nat) (s : State) : exec (.tileTake ec eng acc) s = execTileTake ec eng acc s := rfl
theorem exec_tileGrant (ec : Fin 128) (eng : Fin 2) (acc : Nat) (s : State) : exec (.tileGrant ec eng acc) s = execTileGrant ec eng acc s := rfl
theorem exec_tileSteal (ec : Fin 128) (eng : Fin 2) (acc : Nat) (s : State) : exec (.tileSteal ec eng acc) s = execTileSteal ec eng acc s := rfl

/-! ### Sorted lists and ranges -/

theorem insertBy_perm {α : Type} (lt : α → α → Bool) (x : α) (l : List α) : (insertBy lt x l).Perm (x :: l) := by
  induction l with
  | nil => exact .refl _
  | cons y r ih =>
    unfold insertBy
    split
    · exact .refl _
    · exact (ih.cons y).trans (.swap x y r)

/-- A sorted list holds the same elements. -/
theorem sortBy_perm {α : Type} (lt : α → α → Bool) (l : List α) : (sortBy lt l).Perm l := by
  have hfold : ∀ (l a : List α), (l.foldl (fun a x => insertBy lt x a) a).Perm (l ++ a) := by
    intro l
    induction l with
    | nil => exact fun a => .refl a
    | cons x r ih => exact fun a => (ih _).trans (((insertBy_perm lt x a).append_left r).trans List.perm_middle)
  exact (hfold l []).trans (by rw [List.append_nil])

theorem between_eq_range' (a b : Nat) : between a b = List.range' a (b - a) := by
  rw [between, List.range'_eq_map_range]

theorem between_self_add (a : Nat) : between a (a + 0) = [] := by simp [between]

/-- The first places of a range, and the rest. -/
theorem between_append {a b c : Nat} (hab : a ≤ b) (hbc : b ≤ c) : between a c = between a b ++ between b c := by
  rw [between_eq_range', between_eq_range', between_eq_range', show c - a = (b - a) + (c - b) by omega, ← List.range'_append_1]
  congr 2
  omega

theorem between_cons {a b : Nat} (h : a < b) : between a b = a :: between (a + 1) b := by
  rw [between_eq_range', between_eq_range', show b - a = (b - (a + 1)) + 1 by omega, List.range'_succ]

theorem between_concat {a b : Nat} (h : a < b) : between a b = between a (b - 1) ++ [b - 1] := by
  rw [between_append (b := b - 1) (by omega) (by omega), between_cons (a := b - 1) (by omega), between_eq_range' (b - 1 + 1),
    show b - (b - 1 + 1) = 0 by omega, List.range'_zero]

/-! ### Entries of rising tables -/

section tables

variable {α : Type} {t : Tab α}

theorem tabGet_of_not_mem {d : α} {k : Nat} (h : ∀ e ∈ t, e.1 ≠ k) : tabGet d t k = d := by
  induction t with
  | nil => rfl
  | cons e r ih =>
    rw [tabGet, if_neg (h e List.mem_cons_self)]
    exact ih fun x hx => h x (List.mem_cons_of_mem _ hx)

theorem Rising.tabGet_of_mem (h : Rising t) (d : α) {e : Nat × α} (he : e ∈ t) : tabGet d t e.1 = e.2 := by
  induction t with
  | nil => cases he
  | cons x r ih =>
    obtain ⟨hfirst, hrest⟩ := List.pairwise_cons.mp h
    obtain rfl | he := List.mem_cons.mp he
    · rw [tabGet, if_pos rfl]
    · rw [tabGet, if_neg (hfirst e he).ne]
      exact ih hrest he

/-- What a written entry brings in and what it takes out, over all the entries of a rising table. -/
theorem Rising.flatMap_tabSet_perm {β : Type} (h : Rising t) (f : α → List β) {d : α} (hd : f d = []) (k : Nat) (v : α) :
    (f (tabGet d t k) ++ (Machine.tabSet t k v).flatMap fun e => f e.2).Perm (f v ++ t.flatMap fun e => f e.2) := by
  induction t with
  | nil => simp [Machine.tabSet, hd]
  | cons e r ih =>
    obtain ⟨j, w⟩ := e
    obtain ⟨hfirst, hrest⟩ := List.pairwise_cons.mp h
    by_cases hj : j = k
    · simp only [Machine.tabSet, tabGet, hj, if_true, List.flatMap_cons]
      exact List.perm_append_comm_assoc ..
    · by_cases hk : k < j
      · have hnone : tabGet d ((j, w) :: r) k = d := tabGet_of_not_mem fun x hx => by
          obtain rfl | hx := List.mem_cons.mp hx
          · exact hj
          · have := hfirst x hx
            dsimp only at this
            omega
        simp only [hnone, hd, Machine.tabSet, hj, hk, if_true, if_false, List.flatMap_cons, List.nil_append]
        exact .refl _
      · simp only [Machine.tabSet, tabGet, hj, hk, if_false, List.flatMap_cons]
        exact (List.perm_append_comm_assoc ..).trans (((ih hrest).append_left _).trans (List.perm_append_comm_assoc ..))

end tables

/-! ### The places that are left (R146) -/

/-- The places of a window. -/
def windowPlaces (w : Nat × Nat) : List Nat := between w.1 (w.1 + w.2)

theorem windowPlaces_of_empty {w : Nat × Nat} (h : w.2 = 0) : windowPlaces w = [] := by
  rw [windowPlaces, h, between_self_add]

/-- The places that a record has not given out. -/
def placesLeft (r : MacroRec) : List Nat := (r.windows.flatMap fun w => windowPlaces w.2) ++ between r.next r.total

theorem leftTiles_perm (r : MacroRec) : (leftTiles r).Perm (r.taken ++ (placesLeft r).map (tileNumber r)) := sortBy_perm _ _

/-- A tile that leaves its place for the unit that takes it is neither lost nor given twice. -/
theorem leftTiles_perm_of_taken {r z : MacroRec} {i : Nat} (honly : z.only = r.only) (htaken : z.taken = r.taken ++ [tileNumber r i])
    (hplaces : (i :: placesLeft z).Perm (placesLeft r)) : (leftTiles z).Perm (leftTiles r) := by
  have hnumber : tileNumber z = tileNumber r := by
    funext k
    rw [tileNumber, honly, tileNumber]
  refine (leftTiles_perm z).trans (.trans ?_ (leftTiles_perm r).symm)
  rw [htaken, hnumber, List.append_assoc]
  exact (hplaces.map (tileNumber r)).append_left r.taken

section places

variable {r : MacroRec} {e : Nat} {w : Nat × Nat} (hrise : Rising r.windows)
include hrise

/-- A window that changes brings its places in and takes the old ones out. -/
theorem placesLeft_setWindow : (windowPlaces (windowOf r e) ++ placesLeft { r with windows := tabSet r.windows e w }).Perm
    (windowPlaces w ++ placesLeft r) := by
  have hflat := hrise.flatMap_tabSet_perm windowPlaces (d := (0, 0)) rfl e w
  simp only [placesLeft, ← List.append_assoc]
  exact hflat.append_right _

/-- R146: a take of place `i` of the window, which becomes `w`. -/
theorem placesLeft_take {i : Nat} (h : (windowPlaces (windowOf r e)).Perm (i :: windowPlaces w)) :
    (i :: placesLeft (takePlace r e w i)).Perm (placesLeft r) := by
  have hset := placesLeft_setWindow (e := e) (w := w) hrise
  have hcons : (windowPlaces w ++ i :: placesLeft { r with windows := tabSet r.windows e w }).Perm (windowPlaces w ++ placesLeft r) :=
    (List.perm_middle.trans (h.symm.append_right _)).trans hset
  exact (List.perm_append_left_iff _).mp hcons

/-- R146: the first tile of a grant of `n` goes to the engine, the rest to the window, which was empty. -/
theorem placesLeft_grant {n : Nat} (hempty : (windowOf r e).2 = 0) (hn : 0 < n) (hle : r.next + n ≤ r.total) :
    (r.next :: placesLeft (takePlace { r with next := r.next + n } e (r.next + 1, n - 1) r.next)).Perm (placesLeft r) := by
  have hset := placesLeft_setWindow (r := { r with next := r.next + n }) (e := e) (w := (r.next + 1, n - 1)) hrise
  have hsplit : between r.next r.total = r.next :: windowPlaces (r.next + 1, n - 1) ++ between (r.next + n) r.total := by
    rw [between_append (b := r.next + n) (by omega) hle, between_cons (by omega), windowPlaces, show r.next + 1 + (n - 1) = r.next + n by omega]
  rw [windowPlaces_of_empty (show (windowOf { r with next := r.next + n } e).2 = 0 from hempty), List.nil_append] at hset
  refine (hset.cons r.next).trans ?_
  simp only [placesLeft, hsplit]
  exact List.perm_append_comm_assoc (r.next :: windowPlaces (r.next + 1, n - 1)) ..

/-- The tail half of a window, which a steal takes. -/
abbrev stolenSize (v : Nat × Nat × Nat) : Nat := max 1 (v.2.2 / 2)

/-- The first place of the tail half. -/
abbrev stolenFirst (v : Nat × Nat × Nat) : Nat := v.2.1 + (v.2.2 - stolenSize v)

/-- The record in which the victim has lost its tail half. -/
abbrev robbedRec (r : MacroRec) (v : Nat × Nat × Nat) : MacroRec :=
  { r with windows := tabSet r.windows v.1 (v.2.1, v.2.2 - stolenSize v) }

/-- An EC whose window is empty is not the victim. -/
theorem victim_ne {v : Nat × Nat × Nat} (hempty : (windowOf r e).2 = 0) (hv : v ∈ r.windows) (hpos : 0 < v.2.2) : v.1 ≠ e := by
  rintro rfl
  rw [windowOf, hrise.tabGet_of_mem _ hv] at hempty
  omega

/-- R146: the first tile of the stolen half goes to the engine, the rest to its window, which was empty. -/
theorem placesLeft_steal {v : Nat × Nat × Nat} (hempty : (windowOf r e).2 = 0) (hv : v ∈ r.windows) (hpos : 0 < v.2.2) :
    (stolenFirst v :: placesLeft (takePlace (robbedRec r v) e (stolenFirst v + 1, stolenSize v - 1) (stolenFirst v))).Perm (placesLeft r) := by
  have hne : e ≠ v.1 := (victim_ne hrise hempty hv hpos).symm
  have hfirst : stolenFirst v = v.2.1 + (v.2.2 - stolenSize v) := rfl
  have hsize : 1 ≤ stolenSize v ∧ stolenSize v ≤ v.2.2 := by
    simp only [stolenSize]
    omega
  have hwindow : windowOf r v.1 = v.2 := hrise.tabGet_of_mem _ hv
  have hrobbed := placesLeft_setWindow (e := v.1) (w := (v.2.1, v.2.2 - stolenSize v)) hrise
  have hset := placesLeft_setWindow (r := robbedRec r v) (e := e) (w := (stolenFirst v + 1, stolenSize v - 1)) hrise.tabSet
  have hsplit : windowPlaces v.2 =
      windowPlaces (v.2.1, v.2.2 - stolenSize v) ++ stolenFirst v :: windowPlaces (stolenFirst v + 1, stolenSize v - 1) := by
    simp only [windowPlaces]
    rw [between_append (a := v.2.1) (b := stolenFirst v) (by omega) (by omega), between_cons (a := stolenFirst v) (by omega)]
    congr 3
    omega
  have hwas : (windowOf (robbedRec r v) e).2 = 0 := by
    rw [windowOf, tabGet_tabSet_ne _ _ _ _ _ hne]
    exact hempty
  rw [windowPlaces_of_empty hwas, List.nil_append] at hset
  rw [hwindow, hsplit, List.append_assoc] at hrobbed
  exact (hset.cons _).trans ((List.perm_append_left_iff _).mp hrobbed)

end places

/-! ### Grants (R146; 06_attend R180) -/

theorem grantSize_le (s : State) (e : Nat) (r : MacroRec) : grantSize s e r ≤ r.total - r.next := by
  refine ((List.takeWhile_sublist _).length_le).trans ?_
  rw [List.length_range]
  exact Nat.min_le_right ..

/-- The units of an EC take any tile while neither the command nor the EC is at a pause. -/
theorem mayTake_of_free {s : State} {e : Nat} {r : MacroRec} (hpaused : r.paused = false) (hhold : (s.ecAt e).tempoHold = false) (t : Nat) :
    mayTake s e r t = true := by
  simp [mayTake, hpaused, hhold]

/-- With one round and no pause a grant gives GRANT tiles, or what is left. -/
theorem grantSize_of_free {s : State} {e : Nat} {r : MacroRec} (hpaused : r.paused = false) (hhold : (s.ecAt e).tempoHold = false)
    (hhalf : recHalf s r = 0) : grantSize s e r = min (grantOf r.word) (r.total - r.next) := by
  have hall : ∀ i ∈ List.range (min (grantOf r.word) (r.total - r.next)),
      (mayTake s e r (tileNumber r (r.next + i)) && (!decide (tileNumber r r.next < 0) || decide (tileNumber r (r.next + i) < 0))) = true := by
    intro i _
    simp [mayTake_of_free hpaused hhold]
  rw [grantSize, hhalf, List.takeWhile_eq_self_iff.mpr hall, List.length_range]

/-! ### The victim of a steal (R146) -/

/-- The larger of the windows seen so far and the next, the earlier of equals. -/
def largerWindow (v : Option (Nat × Nat × Nat)) (w : Nat × Nat × Nat) : Option (Nat × Nat × Nat) :=
  match v with
  | none => if 0 < w.2.2 then some w else none
  | some x => if x.2.2 < w.2.2 then some w else some x

theorem victimOf_eq (r : MacroRec) : victimOf r = r.windows.foldl largerWindow none := rfl

theorem victimOf_of_empty {r : MacroRec} (h : ∀ x ∈ r.windows, x.2.2 = 0) : victimOf r = none := by
  rw [victimOf_eq]
  refine r.windows.foldlRecOn largerWindow (motive := (· = none)) rfl fun v hv w hw => ?_
  rw [hv, largerWindow, if_neg (by rw [h w hw]; omega)]

/-- The windows before a larger one leave a smaller candidate. -/
theorem foldl_largerWindow_lt {n : Nat} {l : List (Nat × Nat × Nat)} (h : ∀ x ∈ l, x.2.2 < n) :
    ∀ y ∈ l.foldl largerWindow none, y.2.2 < n := by
  have hnone : ∀ y ∈ (none : Option (Nat × Nat × Nat)), y.2.2 < n := by simp
  refine l.foldlRecOn largerWindow (motive := fun o => ∀ y ∈ o, y.2.2 < n) hnone fun o ho w hw y hy => ?_
  cases o with
  | none =>
    rw [largerWindow] at hy
    split at hy
    · obtain rfl := Option.some.inj hy
      exact h _ hw
    · exact hnone y hy
  | some x =>
    rw [largerWindow] at hy
    split at hy
    · obtain rfl := Option.some.inj hy
      exact h _ hw
    · exact ho y hy

/-- The windows after one that none exceeds leave it the candidate. -/
theorem foldl_largerWindow_le {v : Nat × Nat × Nat} {l : List (Nat × Nat × Nat)} (h : ∀ x ∈ l, x.2.2 ≤ v.2.2) :
    l.foldl largerWindow (some v) = some v := by
  refine l.foldlRecOn largerWindow (motive := (· = some v)) rfl fun o ho w hw => ?_
  rw [ho, largerWindow, if_neg (by have := h w hw; omega)]

/-- The victim is the largest window, that of the lowest EC among equals. -/
theorem victimOf_of_largest {r : MacroRec} (hrise : Rising r.windows) {v : Nat × Nat × Nat} (hv : v ∈ r.windows) (hpos : 0 < v.2.2)
    (hmax : ∀ x ∈ r.windows, x.2.2 < v.2.2 ∨ (x.2.2 = v.2.2 ∧ v.1 ≤ x.1)) : victimOf r = some v := by
  obtain ⟨before, after, hsplit⟩ := List.append_of_mem hv
  rw [victimOf_eq, hsplit, List.foldl_append, List.foldl_cons]
  rw [hsplit] at hmax hrise
  have hbefore : ∀ x ∈ before, x.2.2 < v.2.2 := by
    intro x hx
    have hlt : x.1 < v.1 := (List.pairwise_append.mp hrise).2.2 x hx v List.mem_cons_self
    have := hmax x (List.mem_append_left _ hx)
    omega
  have hcandidate := foldl_largerWindow_lt hbefore
  have hpick : largerWindow (before.foldl largerWindow none) v = some v := by
    generalize before.foldl largerWindow none = o at hcandidate
    cases o with
    | none => rw [largerWindow, if_pos hpos]
    | some x => rw [largerWindow, if_pos (hcandidate x rfl)]
  rw [hpick]
  refine foldl_largerWindow_le fun x hx => ?_
  have := hmax x (List.mem_append_right _ (List.mem_cons_of_mem _ hx))
  omega

/-! ### What an engine asks, and whom the ledger serves (R146, R147) -/

section ledger

variable {s : State} {ec : Fin 128} {eng : Fin 2} {r : MacroRec} (hr : macroAt s (ecDie ec.val) r.acc = some r)

include hr in
theorem ledgerTurn_of_served {k : Nat} (hasks : ledgerAsks s ec.val eng.val r = some k)
    (hserves : ledgerServes s (ecDie ec.val) r k ec.val eng.val = true) : ledgerTurn s ec eng r.acc k = some r := by
  simp only [ledgerTurn, hr, hasks, hserves, and_self, if_true]

include hr in
theorem ledgerTurn_of_not_served {k : Nat} (hserves : ledgerServes s (ecDie ec.val) r k ec.val eng.val = false) :
    ledgerTurn s ec eng r.acc k = none := by
  simp only [ledgerTurn, hr, hserves, Bool.false_eq_true, and_false, if_false]

variable (hask : mayAsk s ec.val eng.val r.acc r (inLastPass s ec.val eng.val r) = true)
include hask

theorem ledgerAsks_take (hwindow : 0 < (windowOf r ec.val).2) {p : Nat × (Nat × Nat)} (hp : takeAt s ec.val r = some p) :
    ledgerAsks s ec.val eng.val r = some 0 := by
  simp only [ledgerAsks, hask, hwindow.ne', hp, Bool.not_true, Bool.false_eq_true, if_false, ne_eq, not_false_eq_true, if_true, Option.map_some]

variable (hempty : (windowOf r ec.val).2 = 0)
include hempty

theorem ledgerAsks_grant (hleft : r.next < r.total) (hopen : roundOpen s r = true) (hsize : 0 < grantSize s ec.val r) :
    ledgerAsks s ec.val eng.val r = some 1 := by
  simp only [ledgerAsks, hask, hempty, hleft, hopen, hsize, Bool.not_true, Bool.false_eq_true, if_false, ne_eq, not_true_eq_false, if_true,
    decide_true, Bool.and_self]

theorem ledgerAsks_steal (hnone : r.total ≤ r.next) (hpaused : r.paused = false) (hhold : (s.ecAt ec.val).tempoHold = false)
    (hfinds : sequenceCommand r.word = false ∨ stealFinds r = true) : ledgerAsks s ec.val eng.val r = some 2 := by
  have hgives : (!sequenceCommand r.word || stealFinds r) = true := by
    obtain h | h := hfinds <;> simp [h]
  simp only [ledgerAsks, hask, hempty, hnone.not_gt, hpaused, hhold, hgives, Bool.not_true, Bool.false_eq_true, if_false, ne_eq,
    not_true_eq_false, Bool.not_false, Bool.and_self, Bool.or_true, Bool.true_or, if_true]

end ledger

/-! ### The tile that goes (R146) -/

/-- The tile has gone to the unit that asked, and the ledger notes the partition that it served (12_partitions R365). -/
def TileGone (s t : State) (e g : Nat) (r : MacroRec) (tile : Nat) : Prop :=
  t.mem = s.mem ∧ (t.dieAt (ecDie e)).lastPartition = (reqOf s r).partOr0 ∧
  if sequenceCommand r.word = true then t.ecs = s.ecs
  else if rowCommand r.word = true then ((t.ecAt e).rowUnit.current.map fun x => x.tile) = some tile
  else if (s.engineAt e g).current = none then ((t.engineAt e g).current.map fun x => x.tile) = some tile
  else ((t.engineAt e g).next.map fun x => x.tile) = some tile

theorem giveTile_onlyEcs (s : State) (e g : Nat) (r : MacroRec) (tile : Nat) : OnlyEcs s (giveTile s e g r tile) := by
  unfold giveTile
  split
  · exact .refl s
  · exact .modEc ..

theorem giveTile_gives (s : State) (e g : Nat) (r : MacroRec) (tile : Nat) :
    if sequenceCommand r.word = true then (giveTile s e g r tile).ecs = s.ecs
    else if rowCommand r.word = true then (((giveTile s e g r tile).ecAt e).rowUnit.current.map fun x => x.tile) = some tile
    else if (s.engineAt e g).current = none then (((giveTile s e g r tile).engineAt e g).current.map fun x => x.tile) = some tile
    else (((giveTile s e g r tile).engineAt e g).next.map fun x => x.tile) = some tile := by
  by_cases hseq : sequenceCommand r.word = true
  · simp [giveTile, hseq]
  by_cases hrow : rowCommand r.word = true
  · simp [giveTile, hseq, hrow]
  by_cases hidle : ((s.ecAt e).engineAt g).current = none
  · simp [giveTile, hseq, hrow, State.engineAt, hidle]
  · simp [giveTile, hseq, hrow, State.engineAt, hidle]

/-- A tile that goes leaves its place in the record. -/
theorem takeTile_gone {s : State} {e g : Nat} {r : MacroRec} {y : MacroRec} (hr : macroAt s (ecDie e) r.acc = some y) (p : Nat) (w : Nat × Nat) :
    macroAt (takeTile s e g r p w) (ecDie e) r.acc = some (takePlace r e w p) ∧ TileGone s (takeTile s e g r p w) e g r (tileNumber r p) := by
  have hset : OnlyMacros s (setMacro s (ecDie e) (takePlace r e w p)) := setMacro_onlyMacros ..
  have hgive := giveTile_onlyEcs (setMacro s (ecDie e) (takePlace r e w p)) e g r (tileNumber r p)
  have hgiven := giveTile_gives (setMacro s (ecDie e) (takePlace r e w p)) e g r (tileNumber r p)
  have hrecord := macroAt_setMacro (r := takePlace r e w p) hr rfl
  unfold takeTile
  extract_lets d
  refine ⟨(macroAt_servePart ..).trans ((hgive.macroAt_eq ..).trans hrecord), hgive.mem_eq.trans hset.mem_eq, ?_, ?_⟩
  · rw [servePart, dieAt_modDie]
    obtain ⟨_, _, hset⟩ := hset
    obtain ⟨_, hgive⟩ := hgive
    rw [hgive, hset]
    rfl
  · rw [hset.engineAt_eq] at hgiven
    obtain ⟨_, _, hset⟩ := hset
    rw [hset] at hgiven ⊢
    exact hgiven

theorem TileGone.bumpLedger {s t : State} {e g : Nat} {r : MacroRec} {tile : Nat} (h : TileGone s t e g r tile) (i : Nat) :
    TileGone s (bumpLedger t (ecDie e) i) e g r tile := by
  obtain ⟨hmem, hpart, hunit⟩ := h
  refine ⟨hmem, ?_, hunit⟩
  rw [Machine.bumpLedger, dieAt_modDie]
  exact hpart

/-! ### An engine that leaves (R148) -/

theorem freeRowUnit_onlyEcs (s : State) (e acc : Nat) : OnlyEcs s (freeRowUnit s e acc) := .modEc ..

theorem freeRowUnit_engineAt (s : State) (e acc g : Nat) : (freeRowUnit s e acc).engineAt e g = s.engineAt e g := by
  rw [freeRowUnit, engineAt_modEc]
  split <;> rfl

theorem leaveEngine_onlyEcs (s : State) (e g : Nat) (r : MacroRec) : OnlyEcs s (leaveEngine s e g r) := by
  unfold leaveEngine
  split
  · exact freeUnits_onlyEcs ..
  · exact (OnlyEcs.modEc ..).trans (freeRowUnit_onlyEcs ..)

/-- The unit that leaves is held no more. -/
theorem leaveEngine_leaves {s : State} {e g : Nat} {r : MacroRec}
    (hrow : rowCommand r.word = true → (s.ecAt e).rowUnit.holds = some r.acc) :
    if rowCommand r.word = true then ((leaveEngine s e g r).ecAt e).rowUnit.holds = none
    else ((leaveEngine s e g r).engineAt e g).holds = none := by
  unfold leaveEngine
  split
  next h => rw [freeUnits_eq, ecAt_modEc, freedRowUnit_holds, freedEngine_rowUnit, freedEngine_rowUnit, if_pos (hrow h)]
  next => rw [freeRowUnit_engineAt, engineAt_setEngine]

/-- A row unit that asks is held for its command. -/
theorem rowUnit_holds_of_mayAsk {s : State} {e g acc : Nat} {r : MacroRec} {lastPass : TileRun → Bool} (h : mayAsk s e g acc r lastPass = true)
    (hrow : rowCommand r.word = true) : (s.ecAt e).rowUnit.holds = some acc := by
  simp only [mayAsk, hrow, if_true, Bool.and_eq_true, beq_iff_eq] at h
  exact h.2.1.2

/-! ### TILE_TAKE, TILE_GRANT, TILE_STEAL -/

section rows

variable {s : State} {ec : Fin 128} {eng : Fin 2} {r : MacroRec} (hclk : coreClocks s = true)
  (hr : macroAt s (ecDie ec.val) r.acc = some r)
include hclk hr

/-- A request that another one comes before waits (12_partitions R365). -/
theorem tileTake_waits (h : ledgerServes s (ecDie ec.val) r 0 ec.val eng.val = false) : Gives (.tileTake ec eng r.acc) s s := by
  simp only [Gives, exec_tileTake, execTileTake, whileClocked_of_clock hclk, ledgerTurn_of_not_served hr h]

theorem tileGrant_waits (h : ledgerServes s (ecDie ec.val) r 1 ec.val eng.val = false) : Gives (.tileGrant ec eng r.acc) s s := by
  simp only [Gives, exec_tileGrant, execTileGrant, whileClocked_of_clock hclk, ledgerTurn_of_not_served hr h]

theorem tileSteal_waits (h : ledgerServes s (ecDie ec.val) r 2 ec.val eng.val = false) : Gives (.tileSteal ec eng r.acc) s s := by
  simp only [Gives, exec_tileSteal, execTileSteal, whileClocked_of_clock hclk, ledgerTurn_of_not_served hr h]

variable (hrise : Rising r.windows) (hask : mayAsk s ec.val eng.val r.acc r (inLastPass s ec.val eng.val r) = true)
include hask

/-- A steal finds no victim, or is refused by NOSTEAL: the engine leaves the instruction. -/
theorem tileSteal_leaves (hserves : ledgerServes s (ecDie ec.val) r 2 ec.val eng.val = true) (hempty : (windowOf r ec.val).2 = 0)
    (hnone : r.total ≤ r.next) (hpaused : r.paused = false) (hhold : (s.ecAt ec.val).tempoHold = false)
    (hseq : sequenceCommand r.word = false) (h : (∀ x ∈ r.windows, x.2.2 = 0) ∨ wNoSteal r.word = true) :
    Gives (.tileSteal ec eng r.acc) s (leaveEngine s ec.val eng.val r) := by
  have hturn := ledgerTurn_of_served hr (ledgerAsks_steal hask hempty hnone hpaused hhold (.inl hseq)) hserves
  simp only [Gives, exec_tileSteal, execTileSteal, whileClocked_of_clock hclk, hturn]
  obtain hzero | hrefused := h
  · rw [victimOf_of_empty hzero]
  · cases victimOf r with
    | none => rfl
    | some v => dsimp only; rw [if_pos hrefused]

include hrise

/-- R146: a take gives place `p` and leaves the window `w`. -/
theorem tileTake_gives {p : Nat} {w : Nat × Nat} (hserves : ledgerServes s (ecDie ec.val) r 0 ec.val eng.val = true)
    (hwindow : 0 < (windowOf r ec.val).2) (htake : takeAt s ec.val r = some (p, w))
    (hplaces : (windowPlaces (windowOf r ec.val)).Perm (p :: windowPlaces w)) :
    Gives (.tileTake ec eng r.acc) s (takeTile s ec.val eng.val r p w) ∧
      (leftTiles (takePlace r ec.val w p)).Perm (leftTiles r) := by
  have hturn := ledgerTurn_of_served hr (ledgerAsks_take hask hwindow htake) hserves
  refine ⟨?_, leftTiles_perm_of_taken rfl rfl (placesLeft_take hrise hplaces)⟩
  simp only [Gives, exec_tileTake, execTileTake, whileClocked_of_clock hclk, hturn, htake]

variable (hempty : (windowOf r ec.val).2 = 0)
include hempty

/-- R146: a grant gives tiles from NEXT on. -/
theorem tileGrant_gives (hserves : ledgerServes s (ecDie ec.val) r 1 ec.val eng.val = true) (hleft : r.next < r.total)
    (hopen : roundOpen s r = true) (hsize : 0 < grantSize s ec.val r) :
    let n := grantSize s ec.val r
    Gives (.tileGrant ec eng r.acc) s (grantTiles s ec.val eng.val r n) ∧
      (leftTiles (takePlace { r with next := r.next + n } ec.val (r.next + 1, n - 1) r.next)).Perm (leftTiles r) := by
  intro n
  have hturn := ledgerTurn_of_served hr (ledgerAsks_grant hask hempty hleft hopen hsize) hserves
  have hle := grantSize_le s ec.val r
  refine ⟨?_, leftTiles_perm_of_taken rfl rfl (placesLeft_grant hrise hempty hsize (by omega))⟩
  simp only [Gives, exec_tileGrant, execTileGrant, whileClocked_of_clock hclk, hturn]
  rfl

/-- R146: a steal gives the tail half of the victim's window. -/
theorem tileSteal_gives (hserves : ledgerServes s (ecDie ec.val) r 2 ec.val eng.val = true) (hnone : r.total ≤ r.next)
    (hpaused : r.paused = false) (hhold : (s.ecAt ec.val).tempoHold = false) {v : Nat × Nat × Nat} (hv : v ∈ r.windows) (hpos : 0 < v.2.2)
    (hmax : ∀ x ∈ r.windows, x.2.2 < v.2.2 ∨ (x.2.2 = v.2.2 ∧ v.1 ≤ x.1)) (hallowed : wNoSteal r.word = false) :
    Gives (.tileSteal ec eng r.acc) s (stealTiles s ec.val eng.val r v) ∧
      (leftTiles (takePlace (robbedRec r v) ec.val (stolenFirst v + 1, stolenSize v - 1) (stolenFirst v))).Perm (leftTiles r) := by
  have hvictim := victimOf_of_largest hrise hv hpos hmax
  have hfinds : stealFinds r = true := by simp [stealFinds, hvictim, hallowed]
  have hturn := ledgerTurn_of_served hr (ledgerAsks_steal hask hempty hnone hpaused hhold (.inr hfinds)) hserves
  refine ⟨?_, leftTiles_perm_of_taken rfl rfl (placesLeft_steal hrise hempty hv hpos)⟩
  simp only [Gives, exec_tileSteal, execTileSteal, whileClocked_of_clock hclk, hturn, hvictim, hallowed, Bool.false_eq_true, if_false]

end rows

/-! ### The place that a take gives (R146; 12_partitions R380) -/

theorem windowPlaces_head {w : Nat × Nat} (h : 0 < w.2) : windowPlaces w = w.1 :: windowPlaces (w.1 + 1, w.2 - 1) := by
  rw [windowPlaces, between_cons (by omega), windowPlaces, show w.1 + 1 + (w.2 - 1) = w.1 + w.2 by omega]

theorem windowPlaces_tail {w : Nat × Nat} (h : 0 < w.2) : windowPlaces w = windowPlaces (w.1, w.2 - 1) ++ [w.1 + w.2 - 1] := by
  rw [windowPlaces, between_concat (by omega), windowPlaces, show w.1 + (w.2 - 1) = w.1 + w.2 - 1 by omega]

section takes

variable {s : State} {e : Nat} {r : MacroRec} (hwindow : 0 < (windowOf r e).2)
include hwindow

theorem takeAt_head (h : mayTake s e r (tileNumber r (windowOf r e).1) = true) :
    takeAt s e r = some ((windowOf r e).1, ((windowOf r e).1 + 1, (windowOf r e).2 - 1)) := by
  simp only [takeAt, hwindow.ne', h, if_false, if_true]

theorem takeAt_tail (h : mayTake s e r (tileNumber r (windowOf r e).1) = false)
    (htail : requiredTile s r (tileNumber r ((windowOf r e).1 + (windowOf r e).2 - 1)) = true) :
    takeAt s e r = some ((windowOf r e).1 + (windowOf r e).2 - 1, ((windowOf r e).1, (windowOf r e).2 - 1)) := by
  simp only [takeAt, hwindow.ne', h, htail, Bool.false_eq_true, if_false, if_true]

end takes

theorem windowOf_takePlace (r : MacroRec) (e : Nat) (w : Nat × Nat) (i : Nat) : windowOf (takePlace r e w i) e = w := tabGet_tabSet_same ..

/-- The second half of O36: each request by its own lemma; a tile that goes by `takeTile_gone`. -/
theorem tilesGoOutOnce : TilesGoOutOnce := by
  intro s ec eng acc r e g d w n free Goes Leaves hclk hr hrise hask
  obtain rfl : r.acc = acc := acc_of_macroAt hr
  have hgoes : ∀ t z tile, macroAt t d r.acc = some z → TileGone s t e g r tile → z.taken = r.taken ++ [tile] →
      (leftTiles z).Perm (leftTiles r) → Goes t z tile := by
    intro t z tile hz hgone htaken hperm
    obtain ⟨hmem, hpart, hunit⟩ := hgone
    exact ⟨hz, hmem, htaken, hperm, hpart, hunit⟩
  refine ⟨tileTake_waits hclk hr, tileGrant_waits hclk hr, tileSteal_waits hclk hr,
    fun hserves hwindow => ⟨fun hhead => ?head, fun hhead htail => ?tail⟩,
    fun hserves hempty hleft hopen hsize => ?grant, fun hfree hhalf => grantSize_of_free hfree.1 hfree.2 hhalf,
    fun hserves hempty hnone hfree => ⟨fun v hv hpos hmax hallowed => ?steal, fun hseq hstay => ?leave⟩⟩
  case head =>
    obtain ⟨hgives, hperm⟩ := tileTake_gives hclk hr hrise hask hserves hwindow (takeAt_head hwindow hhead)
      (.of_eq (windowPlaces_head hwindow))
    obtain ⟨hz, hgone⟩ := takeTile_gone (g := g) hr w.1 (w.1 + 1, w.2 - 1)
    exact ⟨_, _, hgives, hgoes _ _ _ hz hgone rfl hperm, rfl, windowOf_takePlace ..⟩
  case tail =>
    obtain ⟨hgives, hperm⟩ := tileTake_gives hclk hr hrise hask hserves hwindow (takeAt_tail hwindow hhead htail)
      ((List.Perm.of_eq (windowPlaces_tail hwindow)).trans (List.perm_append_singleton ..))
    obtain ⟨hz, hgone⟩ := takeTile_gone (g := g) hr (w.1 + w.2 - 1) (w.1, w.2 - 1)
    exact ⟨_, _, hgives, hgoes _ _ _ hz hgone rfl hperm, rfl, windowOf_takePlace ..⟩
  case grant =>
    obtain ⟨hgives, hperm⟩ := tileGrant_gives hclk hr hrise hask hempty hserves hleft hopen hsize
    obtain ⟨hz, hgone⟩ := takeTile_gone (g := g) (r := { r with next := r.next + n }) hr r.next (r.next + 1, n - 1)
    exact ⟨_, _, hgives, hgoes _ _ _ ((macroAt_bumpLedger ..).trans hz) (hgone.bumpLedger 0) rfl hperm, rfl, windowOf_takePlace ..⟩
  case steal =>
    intro m first
    have hother : v.1 ≠ e := victim_ne hrise hempty hv hpos
    obtain ⟨hgives, hperm⟩ := tileSteal_gives hclk hr hrise hask hempty hserves hnone hfree.1 hfree.2 hv hpos hmax hallowed
    obtain ⟨hz, hgone⟩ := takeTile_gone (g := g) (r := robbedRec r v) hr first (first + 1, m - 1)
    refine ⟨_, _, hgives, hgoes _ _ _ ((macroAt_bumpLedger ..).trans hz) (hgone.bumpLedger 1) rfl hperm, rfl, ?_, windowOf_takePlace ..⟩
    exact (tabGet_tabSet_ne _ _ _ _ _ hother).trans (tabGet_tabSet_same ..)
  case leave =>
    refine ⟨_, tileSteal_leaves hclk hr hask hserves hempty hnone hfree.1 hfree.2 hseq hstay, ?_, ?_⟩
    · exact ((leaveEngine_onlyEcs ..).macroAt_eq ..).trans hr
    · exact leaveEngine_leaves fun hrow => rowUnit_holds_of_mayAsk hask hrow

/-- Settles O36: how commands start, and how their tiles go out. -/
theorem commandsStartAndTilesGoOut : Obligations.CommandsStartAndTilesGoOut := ⟨commandStarts, tilesGoOutOnce⟩

end Sys2Proof.Machine
end

section
/-!
What look-ups at the home caches leave (02_package R42, R43, R48, R49, R51), of reads as of writes: the frame `OnlyLookups`, with what becomes of
the stored errors and of the free values, and when the look-ups of a 64-byte line meet no uncorrectable error.
-/

namespace Sys2Proof.Machine

open Sys2Proof.Claims

/-! ### The frame of look-ups -/

/-- `u` is `s` after look-ups: a stored error stands as it was or has gone, and free values may have been drawn. -/
structure AfterLookups (s u : State) : Prop where
  only : OnlyLookups s u
  bad : ∀ h, tabGet 0 u.bad h = tabGet 0 s.bad h ∨ tabGet 0 u.bad h = 0
  free : s.free ≤ u.free

theorem onlyLookups_refl (s : State) : OnlyLookups s s := ⟨rfl, fun _ => rfl, fun _ => rfl⟩

theorem onlyLookups_trans {s t u : State} (h : OnlyLookups s t) (h' : OnlyLookups t u) : OnlyLookups s u := by
  obtain ⟨hframe, hdies, hecs⟩ := h
  obtain ⟨hframe', hdies', hecs'⟩ := h'
  exact ⟨by rw [hframe', hframe], fun d => (hdies' d).trans (by rw [hdies d]), fun e => (hecs' e).trans (by rw [hecs e])⟩

namespace AfterLookups

variable {s t u : State}

theorem refl (s : State) : AfterLookups s s := ⟨onlyLookups_refl s, fun _ => .inl rfl, le_rfl⟩

theorem trans (h : AfterLookups s t) (h' : AfterLookups t u) : AfterLookups s u where
  only := onlyLookups_trans h.only h'.only
  bad i := by
    obtain hb' | hb' := h'.bad i
    · rw [hb']; exact h.bad i
    · exact .inr hb'
  free := h.free.trans h'.free

/-- The tables of the units stand. -/
theorem of_units_eq (hframe : t = { s with
      hubCounters := t.hubCounters, bad := t.bad, log := t.log, logHead := t.logHead, pcie := t.pcie, free := t.free })
    (hbad : ∀ h, tabGet 0 t.bad h = tabGet 0 s.bad h ∨ tabGet 0 t.bad h = 0) (hfree : s.free ≤ t.free) : AfterLookups s t := by
  refine ⟨⟨?_, fun d => ?_, fun e => ?_⟩, hbad, hfree⟩ <;> rw [hframe]
  · rfl
  · rfl

theorem modDie {f : Die → Die} (hf : ∀ x, f x = { x with
      cache := (f x).cache, cacheClock := (f x).cacheClock, cacheCounters := (f x).cacheCounters, hbmCounters := (f x).hbmCounters })
    (s : State) (d : Nat) : AfterLookups s (s.modDie d f) := by
  refine ⟨⟨rfl, fun i => ?_, fun _ => rfl⟩, fun _ => .inl rfl, le_rfl⟩
  obtain rfl | hi := eq_or_ne i d
  · rw [dieAt_modDie]; exact hf _
  · rw [dieAt_modDie_ne _ _ _ _ hi]

theorem modEc {f : Ec → Ec} (hf : ∀ x, f x = { x with counters := (f x).counters, engines := (f x).engines }) (s : State) (e : Nat) :
    AfterLookups s (s.modEc e f) := by
  refine ⟨⟨rfl, fun _ => rfl, fun i => ?_⟩, fun _ => .inl rfl, le_rfl⟩
  obtain rfl | hi := eq_or_ne i e
  · rw [ecAt_modEc]; exact hf _
  · rw [ecAt_modEc_ne _ _ _ _ hi]

theorem mem_eq (h : AfterLookups s t) : t.mem = s.mem := by rw [h.only.1]

theorem slots_eq (h : AfterLookups s t) : t.slots = s.slots := by rw [h.only.1]

/-- What an SRAM window blocks. -/
theorem blockedEc_eq (h : AfterLookups s t) (c : Option (Fin 64)) (a : Nat) : blockedEc t c a = blockedEc s c a := by
  have hallowed : ∀ e, sramAllowed t c e = sramAllowed s c e := fun e => by
    have he := h.only.2.2 e
    simp only [sramAllowed, sramOpen, congrArg Ec.bound he, congrArg Ec.dbg he]
  simp only [blockedEc, hallowed]

end AfterLookups

/-- Entries that leave a table read as zero. -/
theorem tabGet_tabErase (t : Tab Nat) (k i : Nat) : tabGet 0 (tabErase t k) i = tabGet 0 t i ∨ tabGet 0 (tabErase t k) i = 0 := by
  have h := tabGet_filter 0 (fun j => j != k) t i
  rw [tabErase, h]
  split
  · exact .inl rfl
  · exact .inr rfl

/-! ### Lines of the die caches -/

theorem bumpCache_afterLookups (s : State) (d i : Nat) : AfterLookups s (bumpCache s d i) := .modDie (fun _ => by rfl) ..

theorem touchLine_afterLookups (s : State) (d line : Nat) (l : CacheLine) (dirty : Bool) : AfterLookups s (touchLine s d line l dirty) :=
  .modDie (fun _ => by rfl) ..

theorem writeBack_afterLookups (s : State) (d line : Nat) : AfterLookups s (writeBack s d line) := by
  refine AfterLookups.trans (t := { s with bad := tabErase (tabErase s.bad (2 * line)) (2 * line + 1) })
    (.of_units_eq rfl (fun i => ?_) le_rfl) (bumpCache_afterLookups ..)
  obtain h | h := tabGet_tabErase (tabErase s.bad (2 * line)) (2 * line + 1) i
  · dsimp only
    rw [h]
    exact tabGet_tabErase ..
  · exact .inr h

theorem dropLine_afterLookups (s : State) (d : Nat) (l : Nat × CacheLine) : AfterLookups s (dropLine s d l) := by
  unfold dropLine
  extract_lets t
  have hback : AfterLookups s t := by
    unfold t
    split
    · exact writeBack_afterLookups ..
    · exact .refl s
  exact hback.trans (.modDie (fun _ => by rfl) ..)

theorem fillLine_afterLookups (s : State) (d q line : Nat) (dirty : Bool) : AfterLookups s (fillLine s d q line dirty) := by
  cases hway : fillWay s d q line with
  | none => rw [fillLine_of_no_way hway]; exact .refl s
  | some w =>
    obtain ⟨w, victim⟩ := w
    rw [fillLine_of_way hway]
    have hdropped : AfterLookups s (victim.elim s (dropLine s d)) := by
      cases victim with
      | none => exact .refl s
      | some v => exact dropLine_afterLookups s d v
    exact hdropped.trans (.modDie (fun _ => by rfl) ..)

/-! ### Reads of the tiers and of the SRAM windows -/

theorem countCorrected_afterLookups (s : State) (a : Nat) : AfterLookups s (countCorrected s a) := by
  unfold countCorrected
  split
  · exact .modDie (fun _ => by rfl) ..
  · exact .of_units_eq rfl (fun _ => .inl rfl) le_rfl
  · exact .refl s

theorem withDetail_free_le (s : State) (r : LogRec) : s.free ≤ (withDetail s r).2.free := by
  unfold withDetail
  split
  · exact Nat.le_succ _
  · split
    · exact Nat.le_add_right _ 3
    · exact le_rfl

theorem logWrite_free (s : State) (r : LogRec) : (logWrite s r).free = (withDetail s r).2.free := by
  unfold logWrite
  dsimp only
  rw [raiseVector_frame]

theorem logWrite_afterLookups (s : State) (r : LogRec) : AfterLookups s (logWrite s r) := by
  refine .of_units_eq ?_ (fun i => .inl ?_) ?_
  · rw [logWrite_frame]
  · rw [logWrite_frame]
  · rw [logWrite_free]
    exact withDetail_free_le ..

theorem logLine_afterLookups (s : State) (code : Code) (a : Nat) : AfterLookups s (logLine s code a) :=
  AfterLookups.trans (.of_units_eq (t := (drawFree s).2) rfl (fun _ => .inl rfl) (Nat.le_succ _)) (logWrite_afterLookups ..)

theorem correctLine_afterLookups (s : State) (a : Nat) : AfterLookups s (correctLine s a) := by
  have hcount := countCorrected_afterLookups s a
  unfold correctLine
  split
  · refine (hcount.trans ?_).trans (logLine_afterLookups ..)
    exact .of_units_eq rfl (fun _ => tabGet_tabErase ..) le_rfl
  · exact hcount.trans (logLine_afterLookups ..)

theorem tierRead_afterLookups (s : State) (a : Nat) : AfterLookups s (tierRead s a).2 := by
  unfold tierRead
  dsimp only
  split
  · exact .refl s
  · split
    · exact correctLine_afterLookups s a
    · split
      · exact .refl s
      · split <;> exact .refl s

theorem readHalves_afterLookups (l : List Nat) : ∀ s, AfterLookups s (readHalves s l).2 := by
  induction l with
  | nil => exact fun s => .refl s
  | cons a r ih =>
    intro s
    unfold readHalves
    dsimp only
    split
    · exact tierRead_afterLookups s a
    · exact (tierRead_afterLookups s a).trans (ih _)

theorem bumpEc_afterLookups (s : State) (e i : Nat) : AfterLookups s (bumpEc s e i) :=
  .modEc (f := fun c => { c with counters := bumpBy c.counters i 1 }) (fun _ => rfl) ..

theorem setEngine_afterLookups (s : State) (e g : Nat) (x : Engine) : AfterLookups s (s.setEngine e g x) :=
  .modEc (f := fun c => c.setEngine g x) (fun _ => rfl) ..

theorem sramCorrect_afterLookups (s : State) (x y : Nat) : AfterLookups s (sramCorrect s x y) := by
  unfold sramCorrect
  split
  · split
    · exact .refl s
    · exact (setEngine_afterLookups ..).trans (bumpEc_afterLookups ..)
  · exact .refl s

/-- One half of a line that a read meets in an SRAM window. -/
def sramHalf (a n : Nat) (r : Option Nat × State) (h : Nat) : Option Nat × State :=
  if r.1.isSome || !halfTouched a n h then r
  else if 1 < sramError r.2 (partOf a n h).1 (partOf a n h).2 then (some h, r.2)
  else (none, sramCorrect r.2 (partOf a n h).1 (partOf a n h).2)

theorem sramRead_eq (s : State) (a n line : Nat) :
    sramRead s a n line = sramHalf a n (sramHalf a n (none, s) (line * 128)) (line * 128 + 64) := rfl

theorem sramHalf_afterLookups (a n : Nat) (r : Option Nat × State) (h : Nat) : AfterLookups r.2 (sramHalf a n r h).2 := by
  unfold sramHalf
  split
  · exact .refl _
  · split
    · exact .refl _
    · exact sramCorrect_afterLookups ..

theorem sramRead_afterLookups (s : State) (a n line : Nat) : AfterLookups s (sramRead s a n line).2 := by
  rw [sramRead_eq]
  exact (sramHalf_afterLookups a n (none, s) _).trans (sramHalf_afterLookups ..)

/-! ### Whole accesses -/

theorem lineUse_afterLookups (s : State) (p : Option Nat) (na : Bool) (line a n : Nat) (wr : Bool) :
    AfterLookups s (lineUse s p na line a n wr).2 := by
  unfold lineUse
  split
  · split
    · exact .refl s
    · exact sramRead_afterLookups ..
  · split
    · exact (touchLine_afterLookups ..).trans (bumpCache_afterLookups ..)
    · extract_lets fills r
      have hread : AfterLookups s r.2 := (bumpCache_afterLookups ..).trans (readHalves_afterLookups ..)
      split
      · split
        · exact hread.trans (fillLine_afterLookups ..)
        · exact hread
      · exact hread

theorem linesUse_afterLookups (p : Option Nat) (na : Bool) (a n : Nat) (wr : Bool) (k : Nat) :
    ∀ s line, AfterLookups s (linesUse s p na a n wr k line).2 := by
  induction k with
  | zero => exact fun s _ => .refl s
  | succ k ih =>
    intro s line
    unfold linesUse
    dsimp only
    split
    · exact lineUse_afterLookups ..
    · exact (lineUse_afterLookups ..).trans (ih ..)

theorem spanUse_afterLookups (s : State) (p : Option Nat) (na : Bool) (a n : Nat) (wr : Bool) : AfterLookups s (spanUse s p na a n wr).2 := by
  unfold spanUse
  split
  · exact .refl s
  · exact linesUse_afterLookups ..

theorem countBlocked_afterLookups (s : State) (c : Option (Fin 64)) (a : Nat) : AfterLookups s (countBlocked s c a) := by
  unfold countBlocked
  split
  · exact bumpEc_afterLookups ..
  · exact .refl s

theorem countReads_afterLookups (s : State) (q : Req) (a n : Nat) : AfterLookups s (countReads s q a n) := by
  unfold countReads
  split
  · exact .refl s
  · extract_lets t
    have ht : AfterLookups s t := countBlocked_afterLookups ..
    split
    · exact ht
    · exact ht.trans (countBlocked_afterLookups ..)

end Sys2Proof.Machine
end

section
/-!
Accesses of one aligned 64-byte line by a unit (02_package R38, R42, R43, R48): where `rangeFault` finds nothing, a write of the line stores its
bytes, and a read of it gives them if what its tier makes of the errors there lasts from one free value to the next.
-/

namespace Sys2Proof.Machine

open Sys2Proof.Claims

variable {s t : State} {p : Option Nat} {a : Nat}

/-! ### What `rangeFault` has seen -/

theorem halvesRead_cases {line n h : Nat} {wr fills : Bool} (hmem : h ∈ halvesRead line a n wr fills) : h = line * 128 ∨ h = line * 128 + 64 := by
  simpa using List.mem_of_mem_filter hmem

theorem mem_tierHalves_cases {line n h : Nat} {na wr : Bool} (hmem : h ∈ tierHalves s p na line a n wr) :
    h = line * 128 ∨ h = line * 128 + 64 := by
  unfold tierHalves at hmem
  split at hmem
  · cases hmem
  · split at hmem
    · cases hmem
    · exact halvesRead_cases hmem

/-- Of the halves of its 128-byte line an aligned access of 64 bytes touches its own alone. -/
theorem eq_or_not_halfTouched (h64 : a % 64 = 0) {h : Nat} (hh : h = a / 128 * 128 ∨ h = a / 128 * 128 + 64) :
    h = a ∨ halfTouched a 64 h = false := by
  obtain hlt | rfl | hgt := Nat.lt_trichotomy h a
  · exact .inr (by simp only [halfTouched, Bool.and_eq_false_iff, decide_eq_false_iff_not]; omega)
  · exact .inl rfl
  · exact .inr (by simp only [halfTouched, Bool.and_eq_false_iff, decide_eq_false_iff_not]; omega)

theorem partOf_self (a : Nat) : partOf a 64 a = (a, a + 64) := by simp [partOf]

/-- An aligned access of 64 bytes without a fault meets no error of an SRAM window that a read cannot correct, and none of the halves that it
reads in the tier. -/
theorem halves_of_rangeFault (h64 : a % 64 = 0) {wr na : Bool} (h : rangeFault s p a 64 wr na = none) :
    (wr = false → sramError s a (a + 64) ≤ 1) ∧ ∀ x ∈ tierHalves s p na (a / 128) a 64 wr, lineUncorrectable s p x = false := by
  have hcount : lineCount a 64 = 1 := by simp only [lineCount, if_neg (show ¬64 = 0 by omega)]; omega
  have hself : a / 64 * 64 = a := by omega
  simp only [rangeFault, hcount, List.range_one, List.findSome?_singleton, lineStart, if_true, hself, partOf_self] at h
  split at h
  · cases h
  split at h
  · cases h
  next hsram =>
    refine ⟨fun hwr => by simpa [hwr] using hsram, fun x hx => ?_⟩
    split at h
    next hempty =>
      have hnil : s.bad = [] := by simpa using hempty
      simp [lineUncorrectable, hnil]
    next =>
      simp only [Option.map_eq_none_iff, badHalf, hself, List.find?_eq_none, List.mem_filter, Bool.or_eq_true, beq_iff_eq,
        Bool.not_eq_true'] at h
      simpa using h x ⟨hx, eq_or_not_halfTouched h64 (mem_tierHalves_cases hx)⟩

/-! ### Reads of halves in a tier -/

theorem tierRead_fst_iff (s : State) (a : Nat) :
    (tierRead s a).1 = false ↔ tabGet 0 s.bad (lineOf a) < 2 ∨ (4 ≤ tabGet 0 s.bad (lineOf a) ∧ openVerdict s (lineOf a) ≠ 0) := by
  unfold tierRead
  extract_lets b
  split
  · exact ⟨fun _ => .inl (by omega), fun _ => rfl⟩
  · split
    · exact ⟨fun _ => .inl (by omega), fun _ => rfl⟩
    · split
      · exact ⟨nofun, fun h => by omega⟩
      · split
        next h0 => exact ⟨nofun, fun h => by omega⟩
        next h0 => exact ⟨fun _ => .inr ⟨by omega, h0⟩, fun _ => rfl⟩

/-- A half that no home cache holds for the access, and that `rangeFault` has passed. -/
theorem verdict_of_lineUncorrectable (h : lineUncorrectable s p a = false) (hcached : lineCached s p a = false) :
    tabGet 0 s.bad (lineOf a) < 2 ∨ (4 ≤ tabGet 0 s.bad (lineOf a) ∧ openVerdict s (lineOf a) ≠ 0) := by
  simp only [lineUncorrectable, hcached, Bool.not_false, Bool.and_true, Bool.or_eq_false_iff, beq_eq_false_iff_ne, Bool.and_eq_false_iff,
    decide_eq_false_iff_not] at h
  omega

/-- The error at 64-byte line `h` is one that no read meets, whatever free values are drawn before it. -/
def NeverReported (s : State) (h : Nat) : Prop :=
  tabGet 0 s.bad h < 2 ∨ (4 ≤ tabGet 0 s.bad h ∧ ∀ n, s.free ≤ n → (Config.freeValue (n + h)).toNat % 3 ≠ 0)

theorem NeverReported.after {h : Nat} (hh : NeverReported s h) (ht : AfterLookups s t) : NeverReported t h := by
  obtain hbad | hbad := ht.bad h
  · unfold NeverReported
    rw [hbad]
    exact hh.imp id fun ⟨h4, hn⟩ => ⟨h4, fun n hle => hn n (ht.free.trans hle)⟩
  · exact .inl (by omega)

theorem readHalves_of_neverReported (l : List Nat) : ∀ {s : State}, (∀ x ∈ l, NeverReported s (lineOf x)) → (readHalves s l).1 = none := by
  induction l with
  | nil => exact fun _ => rfl
  | cons x r ih =>
    intro s h
    have hx : (tierRead s x).1 = false := (tierRead_fst_iff s x).mpr <| (h x List.mem_cons_self).imp id fun ⟨h4, hn⟩ => ⟨h4, hn _ le_rfl⟩
    simp only [readHalves, hx, Bool.false_eq_true, if_false]
    exact ih fun y hy => (h y (List.mem_cons_of_mem _ hy)).after (tierRead_afterLookups s x)

/-- One half at most is read at the present free value. -/
theorem readHalves_of_length_le_one {l : List Nat} (hl : l.length ≤ 1) (h : ∀ x ∈ l, (tierRead s x).1 = false) : (readHalves s l).1 = none := by
  match l, hl with
  | [], _ => rfl
  | [x], _ => simp [readHalves, h x List.mem_cons_self]

/-- A write that covers its half whole reads the other one at most. -/
theorem halvesRead_of_whole (h64 : a % 64 = 0) (fills : Bool) : (halvesRead (a / 128) a 64 true fills).length ≤ 1 := by
  have hsome : halfWhole a 64 (a / 128 * 128) = true ∨ halfWhole a 64 (a / 128 * 128 + 64) = true := by
    simp only [halfWhole, Bool.and_eq_true, decide_eq_true_eq]
    omega
  obtain h | h := hsome
  · rw [halvesRead, List.filter_cons_of_neg (by simp [h])]
    exact List.length_filter_le ..
  · rw [halvesRead, List.filter_cons, List.filter_cons_of_neg (by simp [h])]
    split <;> simp

/-! ### The look-up of the line -/

theorem lineCached_half {d line x : Nat} (hhome : homeDie s (line * 128) = some d) (hmiss : cacheFind s d p line = none)
    (hx : x = line * 128 ∨ x = line * 128 + 64) : lineCached s p x = false := by
  have hline : x / 128 = line := by omega
  rw [lineCached, homeDie_congr s (b := line * 128) (by omega), hhome, hline]
  simp [hmiss]

/-- The look-up of a line meets no uncorrectable error where the read of its halves, or of its SRAM window, meets none. -/
theorem lineUse_fst {line n : Nat} {na wr : Bool}
    (htier : ∀ d, homeDie s (line * 128) = some d → cacheFind s d p line = none →
      (readHalves (bumpCache s d 1) (tierHalves s p na line a n wr)).1 = none)
    (hsram : wr = false → (sramRead s a n line).1 = none) : (lineUse s p na line a n wr).1 = none := by
  unfold lineUse
  split
  · split
    · rfl
    next hwr => exact hsram (by simpa using hwr)
  next d hhome =>
    split
    · rfl
    next hmiss =>
      have hread := htier d hhome hmiss
      simp only [tierHalves, hhome, hmiss, Option.isSome_none, Bool.false_eq_true, if_false] at hread
      extract_lets fills r
      split
      · rfl
      next hnot => exact hread

/-- An aligned access of 64 bytes looks up one line. -/
theorem spanUse_aligned (h64 : a % 64 = 0) (na wr : Bool) : spanUse s p na a 64 wr = lineUse s p na (a / 128) a 64 wr := by
  have hone : (a + 64 - 1) / 128 - a / 128 + 1 = 1 := by omega
  rw [spanUse, if_neg (by omega), hone, linesUse]
  dsimp only [linesUse]
  split
  next x hx => rw [← hx]
  next hx => rw [← hx]

theorem spanUse_of_write_aligned (h64 : a % 64 = 0) {na : Bool} (h : rangeFault s p a 64 true na = none) :
    (spanUse s p na a 64 true).1 = none := by
  obtain ⟨-, hhalves⟩ := halves_of_rangeFault h64 h
  rw [spanUse_aligned h64]
  refine lineUse_fst (fun d hhome hmiss => readHalves_of_length_le_one ?_ fun x hx => ?_) nofun
  · simp only [tierHalves, hhome, hmiss]
    exact halvesRead_of_whole h64 _
  · have hverdict := verdict_of_lineUncorrectable (hhalves x hx) (lineCached_half hhome hmiss (mem_tierHalves_cases hx))
    exact (tierRead_fst_iff (bumpCache s d 1) x).mpr hverdict

/-- What reads make of the errors at the 128-byte line of `a` lasts: a line of four or more bad symbols there is judged alike whatever free
values are drawn, and is not corrected to wrong data. -/
def SteadyErrors (s : State) (a : Nat) : Prop :=
  ∀ h, h / 2 = a / 128 → 4 ≤ tabGet 0 s.bad h →
    openVerdict s h ≠ 1 ∧ ∀ n, s.free ≤ n → (Config.freeValue (n + h)).toNat % 3 = openVerdict s h

theorem sramHalf_of_untouched {n x : Nat} (h : halfTouched a n x = false) (r : Option Nat × State) : sramHalf a n r x = r := by
  simp [sramHalf, h]

theorem sramHalf_self (h : sramError s a (a + 64) ≤ 1) : (sramHalf a 64 (none, s) a).1 = none := by
  have hle : ¬1 < sramError s a (a + 64) := Nat.not_lt.mpr h
  simp [sramHalf, halfTouched, partOf_self, hle]

theorem sramRead_of_correctable (h64 : a % 64 = 0) (h : sramError s a (a + 64) ≤ 1) : (sramRead s a 64 (a / 128)).1 = none := by
  rw [sramRead_eq]
  obtain hfirst | hsecond : a / 128 * 128 = a ∨ a / 128 * 128 + 64 = a := by omega
  · have hother := (eq_or_not_halfTouched h64 (.inr rfl)).resolve_left (by omega)
    rw [sramHalf_of_untouched hother, hfirst]
    exact sramHalf_self h
  · have hother := (eq_or_not_halfTouched h64 (.inl rfl)).resolve_left (by omega)
    rw [sramHalf_of_untouched hother, hsecond]
    exact sramHalf_self h

theorem neverReported_of_steady {h : Nat} (hsteady : SteadyErrors s a) (hline : h / 2 = a / 128)
    (hverdict : tabGet 0 s.bad h < 2 ∨ (4 ≤ tabGet 0 s.bad h ∧ openVerdict s h ≠ 0)) : NeverReported s h :=
  hverdict.imp id fun ⟨h4, hne⟩ => ⟨h4, fun n hn => by rw [(hsteady h hline h4).2 n hn]; exact hne⟩

theorem spanUse_of_read_aligned (h64 : a % 64 = 0) {na : Bool} (h : rangeFault s p a 64 false na = none) (hsteady : SteadyErrors s a) :
    (spanUse s p na a 64 false).1 = none := by
  obtain ⟨hsram, hhalves⟩ := halves_of_rangeFault h64 h
  rw [spanUse_aligned h64]
  refine lineUse_fst (fun d hhome hmiss => readHalves_of_neverReported _ fun x hx => ?_) fun _ => sramRead_of_correctable h64 (hsram rfl)
  have hcases := mem_tierHalves_cases hx
  have hverdict := verdict_of_lineUncorrectable (hhalves x hx) (lineCached_half hhome hmiss hcases)
  exact (neverReported_of_steady hsteady (by unfold lineOf; omega) hverdict).after (bumpCache_afterLookups ..)

/-! ### The bytes that a read gives -/

/-- Look-ups leave the bytes of a line whose errors are steady. -/
theorem byteAt_of_afterLookups (ht : AfterLookups s t) {b : Nat} (hline : b / 128 = a / 128) (hsteady : SteadyErrors s a) :
    byteAt t b = byteAt s b := by
  have hcell : ∀ u, AfterLookups s u → byteAt u b = cellGet u.mem b := by
    intro u hu
    refine if_neg fun ⟨h4, hverdict, _⟩ => ?_
    have hbad : tabGet 0 u.bad (lineOf b) = tabGet 0 s.bad (lineOf b) := (hu.bad _).resolve_right (by omega)
    rw [hbad] at h4
    obtain ⟨hne, hlasts⟩ := hsteady _ (by unfold lineOf; omega) h4
    exact hne ((hlasts _ hu.free).symm.trans hverdict)
  rw [hcell t ht, hcell s (.refl s), ht.mem_eq]

theorem unitBytes_congr {c : Option (Fin 64)} (n : Nat) : ∀ {a : Nat}, (∀ b, a ≤ b → b < a + n → unitByte t c b = unitByte s c b) →
    unitBytes t c a n = unitBytes s c a n := by
  induction n with
  | zero => exact fun _ => rfl
  | succ n ih =>
    intro a h
    rw [unitBytes, unitBytes, h a le_rfl (by omega), ih fun b hlo hhi => h b (by omega) (by omega)]

theorem unitBytes_of_afterLookups (h64 : a % 64 = 0) (ht : AfterLookups s t) (hsteady : SteadyErrors s a) (c : Option (Fin 64)) :
    unitBytes t c a 64 = unitBytes s c a 64 := by
  refine unitBytes_congr 64 fun b hlo hhi => ?_
  rw [unitByte, ht.blockedEc_eq, byteAt_of_afterLookups ht (by omega) hsteady, unitByte]

/-! ### The accesses -/

theorem heldFault_of_windowHeld {q : Req} (h64 : a % 64 = 0) (h : windowHeld s a = false) : heldFault s q a 64 = none := by
  refine heldFault_of_spanHeld ?_ q
  have hcount : lineCount a 64 = 1 := by simp only [lineCount, if_neg (show ¬64 = 0 by omega)]; omega
  simp [spanHeld, hcount, lineStart, h]

/-- A read of an aligned line that does not wait gives its bytes. -/
theorem uReadUse_of_line {q : Req} (h64 : a % 64 = 0) (hfault : rangeFault s q.part a 64 false q.noAllocate = none) (hwaits : q.waits = false)
    (hloader : q.loader = false) (hsteady : SteadyErrors s a) :
    ∃ r, AfterLookups s r ∧ uReadUse s q a 64 = .ok (unitBytes s q.ctx a 64, r) := by
  have huse := spanUse_of_read_aligned h64 hfault hsteady
  have hlooked := spanUse_afterLookups s q.part q.noAllocate a 64 false
  refine ⟨_, hlooked.trans (countReads_afterLookups _ q a 64), ?_⟩
  simp only [uReadUse, accessMeets, hfault, heldFault, hwaits, hloader, Bool.false_and, Bool.false_eq_true, if_false, huse,
    unitBytes_of_afterLookups h64 hlooked hsteady]

/-- A write of an aligned line that neither waits nor is blocked stores its bytes. -/
theorem uWrite_of_line {q : Req} {bs : List Byte} (h64 : a % 64 = 0) (hlen : bs.length = 64)
    (hfault : rangeFault s q.part a 64 true q.noAllocate = none) (hheld : windowHeld s a = false) (hopen : blockedEc s q.ctx a = none) :
    ∃ r, AfterLookups s r ∧ uWrite s q a bs = .ok (storeAs r q.part a bs) := by
  have huse := spanUse_of_write_aligned h64 hfault
  have hone : ¬sramSize - a % sramSize < 64 := by simp only [sramSize]; omega
  refine ⟨_, spanUse_afterLookups s q.part q.noAllocate a 64 true, ?_⟩
  have hcut : storeCut s q a bs = memWrite s q.part q.noAllocate a bs := by
    rw [storeCut, List.take_of_length_le (by omega)]
    simp only [hlen, hone, decide_false, Bool.and_false, Bool.false_eq_true, if_false, storeOpen, hopen, Option.isSome_none]
  simp only [uWrite, accessMeets, hlen, hfault, heldFault_of_windowHeld h64 hheld, hcut, memWrite, huse]

end Sys2Proof.Machine
end

section
/-!
The registers of the bale table walker and of an EC's tasks and yields (07_kv R210, R211; 09_route R290, R296; 12_partitions R371, R374, R375,
R379).
-/

namespace Sys2Proof.Machine

open Sys2Proof.Claims

/-! ### The rows -/

theorem exec_tlbInvalidate (who : Agent) (die : Fin 4) (v : Reg32) (s : State) :
    exec (.tlbInvalidate who die v) s = rowWrite s who (dieOffset die.val 0x980000) v (v.getLsbD 0) := rfl
theorem exec_tlbInvalidateDone (die : Fin 4) (s : State) : exec (.tlbInvalidateDone die) s = execTlbInvalidateDone die s := rfl
theorem exec_taskStart (who : Agent) (e : Fin 128) (k : Fin 2) (v : Reg32) (s : State) :
    exec (.taskStart who e k v) s = rowWrite s who (ecOffset e.val (0x5000 + 0x10 * k.val)) v (v.getLsbD 31) := rfl
theorem exec_taskEnd (who : Agent) (e : Fin 128) (k : Fin 2) (v : Reg32) (s : State) :
    exec (.taskEnd who e k v) s = rowWrite s who (ecOffset e.val (0x5000 + 0x10 * k.val)) v (v.getLsbD 30) := rfl
theorem exec_yieldGo (who : Agent) (e : Fin 128) (k : Fin 2) (v : Reg32) (s : State) :
    exec (.yieldGo who e k v) s = rowWrite s who (ecOffset e.val (0x500C + 0x10 * k.val)) v (v.getLsbD 31) := rfl

/-- A row of an EC's block, STEP of EC_DBG_CTL apart, for a requester that reaches its register. -/
theorem rowWrite_ec_of_reaches {s : State} {who : Agent} {e r : Nat} (h : Reaches s who (ecOffset e r)) (he : e < 128) (hr : r < 0x40000)
    (hdbg : r ≠ 0x7000) (v : Reg32) : rowWrite s who (ecOffset e r) v true = .next (ecRegWrite s who e r v) := by
  rw [rowWrite_of_reaches h, fullRegWrite_map _ _ _ _ (by rw [dbgCtlAt_ec e r he hr, if_neg hdbg]), regWrite_ec _ _ _ _ _ he hr]

/-! ### The look-aside buffer (07_kv R210, R211) -/

/-- The partition whose entries a steward of an EC invalidates; every other writer names it. -/
def walkerOwn (s : State) (who : Agent) : Option Nat :=
  match who with
  | .steward st => if isHub st then none else some (s.stewardAt st.val).part.toNat
  | _ => none

theorem dieRegWrite_tlbInv {who : Agent} (h : isHost who = false) (s : State) (d : Nat) (v : Reg32) :
    dieRegWrite s who d 0x980000 v = tlbInvWrite s d (walkerOwn s who) v := by
  unfold dieRegWrite
  rw [if_neg (by omega), if_neg (by omega), if_neg (by omega), if_pos (by omega)]
  cases who with
  | bar0 f => cases h
  | steward st => rfl
  | management => rfl
  | loader => rfl

theorem tlbInvalidate_gives {s : State} {who : Agent} {die : Fin 4} {v : Reg32} (hhost : isHost who = false)
    (hr : Reaches s who (dieOffset die.val 0x980000)) (hv : v.getLsbD 0 = true) :
    Gives (.tlbInvalidate who die v) s (tlbInvWrite s die.val (walkerOwn s who) v) := by
  rw [Gives, exec_tlbInvalidate, hv, rowWrite_die_of_reaches hr die.isLt (by omega) (by omega), dieRegWrite_tlbInv hhost]

/-- A die with PART and SCOPE as the value names them. -/
def invNamed (x : Die) (v : Reg32) : Die := { x with invPart := v.extractLsb' 16 3, invScope := v.extractLsb' 2 2 }

theorem tlbInvWrite_of_busy {s : State} {d : Nat} {v : Reg32} (hv : v.getLsbD 0 = true) (hbusy : (s.dieAt d).invBusy = true)
    (own : Option Nat) : tlbInvWrite s d own v = bumpWalker (s.setDie d (invNamed (s.dieAt d) v)) d 2 := by
  unfold tlbInvWrite
  extract_lets x y
  rw [hv, if_neg (by decide), if_pos hbusy]
  rfl

/-- A die whose invalidation has begun, for the entries of partition `p`. -/
def invBegun (x : Die) (v : Reg32) (p : BitVec 3) : Die :=
  let z := { invNamed x v with invBusy := true, invFor := p }
  { z with lab := z.lab.filter fun l => !inScope z l }

theorem tlbInvWrite_of_idle {s : State} {d : Nat} {v : Reg32} (hv : v.getLsbD 0 = true) (hbusy : (s.dieAt d).invBusy = false)
    (own : Option Nat) :
    tlbInvWrite s d own v = s.setDie d (invBegun (s.dieAt d) v (own.elim (v.extractLsb' 16 3) (BitVec.ofNat 3))) := by
  simp only [tlbInvWrite, hv, hbusy, Bool.not_true, Bool.false_eq_true, if_false]
  cases own <;> rfl

theorem mem_invBegun_lab {x : Die} {v : Reg32} {p : BitVec 3} {l : LabEntry} :
    l ∈ (invBegun x v p).lab ↔ l ∈ x.lab ∧ ¬(l.part = p.toNat ∧ ((v.extractLsb' 2 2).toNat = 0 ∨ (l.dir = invDir x ∧
      ((v.extractLsb' 2 2).toNat = 1 ∨ (l.seq = x.invSeq.toNat ∧
        ((v.extractLsb' 2 2).toNat = 2 ∨ (l.chain = x.invChain.toNat ∧ l.seg = x.invSeg.toNat))))))) := by
  simp only [invBegun, List.mem_filter, Bool.not_eq_true', ← Bool.not_eq_true, inScope, Bool.and_eq_true, Bool.or_eq_true, beq_iff_eq]
  rfl

theorem onlyDie_setDie (s : State) (d : Nat) (x : Die) : OnlyDie s (s.setDie d x) d := ⟨rfl, fun i hi => dieAt_setDie_ne s d i x hi⟩

theorem onlyDie_trans {s t u : State} {d : Nat} (h : OnlyDie s t d) (h' : OnlyDie t u d) : OnlyDie s u d := by
  obtain ⟨hframe, hothers⟩ := h
  obtain ⟨hframe', hothers'⟩ := h'
  exact ⟨by rw [hframe', hframe], fun i hi => (hothers' i hi).trans (hothers i hi)⟩

theorem tlbInvalidateDone_gives {s : State} {die : Fin 4} (hclk : coreClocks s = true) (hbusy : (s.dieAt die.val).invBusy = true) :
    Gives (.tlbInvalidateDone die) s (s.modDie die.val fun x => { x with invBusy := false }) := by
  rw [Gives, exec_tlbInvalidateDone, execTlbInvalidateDone, whileClocked_of_clock hclk, hbusy, whenEnabled_true]

/-- The partition that an invalidation is for: that of an EC's steward, and the one that the value names for every other writer. -/
theorem walkerOwn_part (s : State) (who : Agent) (v : Reg32) :
    ((walkerOwn s who).elim (v.extractLsb' 16 3) (BitVec.ofNat 3)).toNat =
      match who with
      | .steward st => if 256 ≤ st.val then (v.extractLsb' 16 3).toNat else (s.stewardAt st.val).part.toNat
      | _ => (v.extractLsb' 16 3).toNat := by
  cases who with
  | steward st =>
    by_cases hhub : 256 ≤ st.val
    · simp [walkerOwn, isHub, hhub]
    · simp [walkerOwn, isHub, hhub]
  | management => rfl
  | loader => rfl
  | bar0 f => rfl

/-- The look-aside half of the obligation. -/
theorem tlbInvalidations (s : State) (who : Agent) (die : Fin 4) (v : Reg32) :
    let x := s.dieAt die.val
    let p := (walkerOwn s who).elim (v.extractLsb' 16 3) (BitVec.ofNat 3)
    isHost who = false → Reaches s who (dieOffset die.val 0x980000) → v.getLsbD 0 = true →
    (x.invBusy = false → ∃ t, Gives (.tlbInvalidate who die v) s t ∧ OnlyDie s t die.val ∧ t.dieAt die.val = invBegun x v p) ∧
    (x.invBusy = true → ∃ t, Gives (.tlbInvalidate who die v) s t ∧ OnlyDie s t die.val ∧ (t.dieAt die.val).lab = x.lab ∧
      tabGet 0 (t.dieAt die.val).walkerCounters 2 = tabGet 0 x.walkerCounters 2 + 1) := by
  intro x p hhost hr hv
  have hgives := tlbInvalidate_gives hhost hr hv
  refine ⟨fun hidle => ?_, fun hbusy => ?_⟩
  · rw [tlbInvWrite_of_idle hv hidle] at hgives
    exact ⟨_, hgives, onlyDie_setDie .., dieAt_setDie ..⟩
  · rw [tlbInvWrite_of_busy hv hbusy] at hgives
    refine ⟨_, hgives, onlyDie_trans (onlyDie_setDie ..) (onlyDie_modDie ..), ?_, ?_⟩
    · rw [bumpWalker, dieAt_modDie, dieAt_setDie]
      rfl
    · rw [bumpWalker, dieAt_modDie, dieAt_setDie]
      exact (tabGet_bumpBy ..).trans (if_pos rfl)

/-! ### The task registers (12_partitions R374, R375) -/

/-- The registers of task `k` of an EC become `y`. -/
def setTask (s : State) (e k : Nat) (y : TaskRegs) : State := s.modEc e fun c => { c with tasks := tabSet c.tasks k y }

/-- The registers of task `k` of EC `e`. -/
abbrev taskAt (s : State) (e k : Nat) : TaskRegs := tabGet {} (s.ecAt e).tasks k

theorem taskAt_setTask (s : State) (e k : Nat) (y : TaskRegs) (i j : Nat) :
    taskAt (setTask s e k y) i j = if i = e ∧ j = k then y else taskAt s i j := by
  by_cases hi : i = e
  · subst hi
    simp only [taskAt, setTask, ecAt_modEc, tabGet_tabSet, true_and]
  · simp only [taskAt, setTask, ecAt_modEc_ne _ _ _ _ hi, hi, false_and, if_false]

/-- Only the tasks of EC `e` have changed, and of them task `k` to `y`. -/
def SetsTask (s t : State) (e k : Nat) (y : TaskRegs) : Prop :=
  t.ecAt e = { s.ecAt e with tasks := (t.ecAt e).tasks } ∧ (∀ i, i ≠ e → t.ecAt i = s.ecAt i) ∧
    ∀ j, taskAt t e j = if j = k then y else taskAt s e j

theorem setTask_setsTask (s : State) (e k : Nat) (y : TaskRegs) : SetsTask s (setTask s e k y) e k y := by
  refine ⟨?_, fun i hi => ecAt_modEc_ne _ _ _ _ hi, fun j => ?_⟩
  · rw [setTask, ecAt_modEc]
  · simp [taskAt_setTask]

theorem setTask_bound (s : State) (e k : Nat) (y : TaskRegs) (i : Nat) : ((setTask s e k y).ecAt i).bound = (s.ecAt i).bound :=
  modEc_keeps (v := Ec.bound) (f := fun c => { c with tasks := tabSet c.tasks k y }) (fun _ => rfl) s e i

/-- EC_TASK_CTL of task `k`, EC_YIELD and the registers between them. -/
theorem ecRegWrite_taskCtl (s : State) (who : Agent) (e : Nat) {k : Nat} (hk : k < 2) (v : Reg32) :
    ecRegWrite s who e (0x5000 + 0x10 * k) v = taskCtlWrite s who e k v := by
  unfold ecRegWrite
  rw [if_neg (by omega), if_neg (by omega), if_neg (by omega), if_pos (by omega), show (0x5000 + 0x10 * k) % 0x20 / 0x10 = k by omega,
    show (0x5000 + 0x10 * k) % 0x10 = 0 by omega]
  rfl

theorem ecRegWrite_yield (s : State) (who : Agent) (e : Nat) {k : Nat} (hk : k < 2) (v : Reg32) :
    ecRegWrite s who e (0x500C + 0x10 * k) v = yieldWrite s who e k v := by
  unfold ecRegWrite
  rw [if_neg (by omega), if_neg (by omega), if_neg (by omega), if_pos (by omega), show (0x500C + 0x10 * k) % 0x20 / 0x10 = k by omega,
    show (0x500C + 0x10 * k) % 0x10 = 12 by omega]
  rfl

section tasks

variable {s : State} {who : Agent} {e : Fin 128} {k : Fin 2} {v : Reg32} (huser : atUser s who = false)
  (hr : Reaches s who (ecOffset e.val (0x5000 + 0x10 * k.val)))
include huser hr

theorem taskStart_gives (hstart : v.getLsbD 31 = true) (hend : v.getLsbD 30 = false) :
    Gives (.taskStart who e k v) s (taskStartStep s e.val k.val (v.extractLsb' 0 20)) := by
  rw [Gives, exec_taskStart, hstart, rowWrite_ec_of_reaches hr e.isLt (by omega) (by omega), ecRegWrite_taskCtl _ _ _ k.isLt]
  simp only [taskCtlWrite, huser, hstart, hend, Bool.false_eq_true, if_false, if_true]

theorem taskEnd_gives (hend : v.getLsbD 30 = true) (hstart : v.getLsbD 31 = false) :
    Gives (.taskEnd who e k v) s (setTask (taskEndStep s e.val k.val) e.val k.val
      { taskAt (taskEndStep s e.val k.val) e.val k.val with queue := v.extractLsb' 0 20 }) := by
  rw [Gives, exec_taskEnd, hend, rowWrite_ec_of_reaches hr e.isLt (by omega) (by omega), ecRegWrite_taskCtl _ _ _ k.isLt]
  simp only [taskCtlWrite, huser, hstart, hend, Bool.false_eq_true, if_false, if_true]
  rfl

end tasks

/-! ### START (R371, R374; 09_route R290, R296; log 34) -/

theorem taskStartStep_of_active {s : State} {e k : Nat} (h : (taskAt s e k).active = true) (queue : BitVec 20) :
    taskStartStep s e k queue = bumpEc s e cntTaskIgn := if_pos h

/-- The registers of a task that a START makes active. -/
abbrev startedTask (s : State) (e k : Nat) (queue : BitVec 20) : TaskRegs := { taskAt s e k with active := true, queue }

theorem taskStartStep_of_plain {s : State} {e k : Nat} (h : (taskAt s e k).active = false)
    (hplain : ∀ c : Fin 64, ¬((s.ecAt e).bound = some c ∧ (s.ctxAt c.val).layers ≠ [])) (queue : BitVec 20) :
    taskStartStep s e k queue = setTask s e k (startedTask s e k queue) := by
  unfold taskStartStep
  extract_lets x t
  rw [if_neg (by rw [h]; exact Bool.false_ne_true)]
  split
  · rfl
  next c hc =>
    have hlayers : (s.ctxAt c.val).layers = [] := by_contra fun hne => hplain c ⟨hc, hne⟩
    rw [if_pos hlayers]
    rfl

theorem taskStartStep_of_layered {s : State} {e k : Nat} {c : Fin 64} (h : (taskAt s e k).active = false) (hc : (s.ecAt e).bound = some c)
    (hlayers : (s.ctxAt c.val).layers ≠ []) (queue : BitVec 20) :
    let code := caravanCode s (s.partAt (s.ctxAt c.val).part.toNat).ring
    taskStartStep s e k queue = if code ≠ 0 ∧ s.ring.task ≠ some c then refuseTask s e k queue code
      else beginCaravan (setTask s e k (startedTask s e k queue)) c := by
  intro code
  unfold taskStartStep
  extract_lets x t
  rw [if_neg (by rw [h]; exact Bool.false_ne_true), hc]
  exact if_neg hlayers

theorem beginCaravan_setTask (s : State) (e k : Nat) (y : TaskRegs) (c : Fin 64) :
    beginCaravan (setTask s e k y) c = { setTask s e k y with
      ring := if caravanRuns s then s.ring else { s.ring with task := some c, layer := 0, step := 0, finalRelease := none } } := by
  have hruns : caravanRuns (setTask s e k y) = caravanRuns s := rfl
  unfold beginCaravan
  rw [hruns]
  split <;> rfl

/-! ### What a record of the log, a store of the hub and a vector leave of the tasks -/

/-- The tasks, the contexts and the ring stand. -/
def KeepsTasks (s t : State) : Prop :=
  (∀ e, (t.ecAt e).tasks = (s.ecAt e).tasks ∧ (t.ecAt e).bound = (s.ecAt e).bound) ∧ t.contexts = s.contexts ∧ t.ring = s.ring

namespace KeepsTasks

variable {s t u : State}

theorem refl (s : State) : KeepsTasks s s := ⟨fun _ => ⟨rfl, rfl⟩, rfl, rfl⟩

theorem trans (h : KeepsTasks s t) (h' : KeepsTasks t u) : KeepsTasks s u := by
  obtain ⟨hecs, hctx, hring⟩ := h
  obtain ⟨hecs', hctx', hring'⟩ := h'
  exact ⟨fun e => ⟨(hecs' e).1.trans (hecs e).1, (hecs' e).2.trans (hecs e).2⟩, hctx'.trans hctx, hring'.trans hring⟩

theorem of_eq (hecs : t.ecs = s.ecs) (hctx : t.contexts = s.contexts) (hring : t.ring = s.ring) : KeepsTasks s t := by
  refine ⟨fun e => ?_, hctx, hring⟩
  simp only [State.ecAt, hecs, and_self]

theorem of_afterLookups (h : AfterLookups s t) : KeepsTasks s t := by
  obtain ⟨hframe, -, hecs⟩ := h.only
  refine ⟨fun e => ?_, by rw [hframe], by rw [hframe]⟩
  rw [hecs e]
  exact ⟨rfl, rfl⟩

theorem taskAt_eq (h : KeepsTasks s t) (i j : Nat) : taskAt t i j = taskAt s i j := by
  rw [taskAt, (h.1 i).1]

end KeepsTasks

theorem memWrite_keepsTasks (s : State) (p : Option Nat) (na : Bool) (a : Nat) (bs : List Byte) : KeepsTasks s (memWrite s p na a bs).2 := by
  have hlooked := KeepsTasks.of_afterLookups (spanUse_afterLookups s p na a bs.length true)
  unfold memWrite
  dsimp only
  split
  · exact hlooked
  · exact hlooked.trans (.of_eq rfl rfl rfl)

theorem storeOpen_keepsTasks (s : State) (q : Req) (a : Nat) (bs : List Byte) : KeepsTasks s (storeOpen s q a bs).2 := by
  unfold storeOpen
  split
  · exact .of_afterLookups (countBlocked_afterLookups ..)
  · exact memWrite_keepsTasks ..

theorem storeCut_keepsTasks (s : State) (q : Req) (a : Nat) (bs : List Byte) : KeepsTasks s (storeCut s q a bs).2 := by
  unfold storeCut
  dsimp only
  split
  · exact (storeOpen_keepsTasks ..).trans (storeOpen_keepsTasks ..)
  · exact storeOpen_keepsTasks ..

theorem hubStore_keepsTasks (s : State) (q : Req) (a : Nat) (bs : List Byte) : KeepsTasks s (hubStore s q a bs) := by
  unfold hubStore storeNow
  split
  · exact .of_eq rfl rfl rfl
  · split
    · exact .of_afterLookups (logWrite_afterLookups ..)
    · dsimp only
      split
      · exact (storeCut_keepsTasks ..).trans (.of_afterLookups (logWrite_afterLookups ..))
      · exact storeCut_keepsTasks ..

theorem writeTaskRecord_keepsTasks (s : State) (c : Option (Fin 64)) (x : TaskRegs) (code : Code) :
    KeepsTasks s (writeTaskRecord s c x code) := (hubStore_keepsTasks ..).trans (hubStore_keepsTasks ..)

theorem logCaravan_keepsTasks (s : State) (code : Code) : KeepsTasks s (logCaravan s code) := by
  unfold logCaravan
  split
  · rw [logLink_frame]
    exact .of_eq rfl rfl rfl
  · exact .of_afterLookups (logWrite_afterLookups ..)

theorem hubVector_keepsTasks (s : State) (v : Nat) : KeepsTasks s (hubVector s v) := by
  unfold hubVector
  split
  · exact .of_eq rfl rfl rfl
  · rw [raiseVector_frame]
    exact .of_eq rfl rfl rfl

/-! ### The report of an end (R374, R375) -/

theorem ctxAt_countDone (s : State) (e c : Nat) : (countDone s e).ctxAt c =
    if (s.ecAt e).bound.map Fin.val = some c then { s.ctxAt c with done := (s.ctxAt c).done + 1 } else s.ctxAt c := by
  unfold countDone
  split
  next b hb =>
    rw [hb, Option.map_some]
    by_cases hc : c = b.val
    · subst hc
      rw [ctxAt_modCtx, if_pos rfl]
    · rw [ctxAt_modCtx_ne _ _ _ _ hc, if_neg (by simpa using Ne.symm hc)]
  next hb => simp [hb]

theorem countDone_frame (s : State) (e : Nat) : countDone s e = { s with contexts := (countDone s e).contexts } := by
  unfold countDone
  split <;> rfl

/-- The task is no longer active, and the context counts one END. -/
def endCounted (s : State) (e k : Nat) : State := countDone (setTask s e k { taskAt s e k with active := false }) e

theorem endCounted_frame (s : State) (e k : Nat) :
    endCounted s e k = { setTask s e k { taskAt s e k with active := false } with contexts := (endCounted s e k).contexts } :=
  countDone_frame ..

theorem ctxAt_endCounted (s : State) (e k c : Nat) : (endCounted s e k).ctxAt c =
    if (s.ecAt e).bound.map Fin.val = some c then { s.ctxAt c with done := (s.ctxAt c).done + 1 } else s.ctxAt c := by
  have h := ctxAt_countDone (setTask s e k { taskAt s e k with active := false }) e c
  rw [setTask_bound] at h
  exact h

/-- The vector of a task's queue follows. -/
def endNotified (s : State) (e k : Nat) : State :=
  let q := s.queueAt (taskAt s e k).queue.toNat
  if q.irq then hubVector (endCounted s e k) q.vector.toNat else endCounted s e k

theorem reportEnd_eq (s : State) (e k : Nat) : reportEnd s e k =
    match (endNotified s e k).ring.task with
    | some c => if ((endNotified s e k).ecAt e).bound == some c && !hasTask (endNotified s e k) c then dropCaravan (endNotified s e k) c
        else endNotified s e k
    | none => endNotified s e k := by
  have hqueue : ∀ n, (endCounted s e k).queueAt n = s.queueAt n := fun n => by rw [endCounted_frame]; rfl
  unfold reportEnd endNotified
  simp only [← hqueue]
  rfl

theorem endNotified_keepsTasks (s : State) (e k : Nat) : KeepsTasks (endCounted s e k) (endNotified s e k) := by
  unfold endNotified
  dsimp only
  split
  · exact hubVector_keepsTasks ..
  · exact .refl _

theorem endNotified_ring (s : State) (e k : Nat) : (endNotified s e k).ring = s.ring := by
  rw [(endNotified_keepsTasks s e k).2.2, endCounted_frame]
  rfl

theorem endNotified_bound (s : State) (e k : Nat) : ((endNotified s e k).ecAt e).bound = (s.ecAt e).bound := by
  rw [((endNotified_keepsTasks s e k).1 e).2, endCounted_frame]
  exact setTask_bound ..

/-- The end of a task of a context that has not the caravan task. -/
theorem reportEnd_of_other {s : State} {e : Nat} (h : ∀ c, s.ring.task = some c → (s.ecAt e).bound ≠ some c) (k : Nat) :
    reportEnd s e k = endNotified s e k := by
  rw [reportEnd_eq]
  split
  next c hc =>
    rw [endNotified_ring] at hc
    rw [endNotified_bound, if_neg (by simp [h c hc])]
  · rfl

theorem raiseVector_pcie_congr {s t : State} (hpcie : t.pcie = s.pcie) (htrust : t.trust = s.trust) (v : Nat) :
    (raiseVector t v).pcie = (raiseVector s v).pcie := by
  have hentry : vectorEntry t v = vectorEntry s v := by simp only [vectorEntry, hpcie]
  have hfun : ∀ f, t.functionAt f = s.functionAt f := fun f => by simp only [State.functionAt, hpcie]
  have hopen : ∀ f i, msixOpen t f i = msixOpen s f i := fun f i => by simp only [msixOpen, hfun, htrust]
  simp only [raiseVector, hentry, hopen, hfun]
  split
  · rw [hpcie]
  · split
    · exact hpcie
    · simp only [State.setFunction, hpcie]

/-- Beside what `endNotified` changes, the report of an end can end the caravan task. -/
theorem reportEnd_ring (s : State) (e k : Nat) :
    ∃ ring, reportEnd s e k = { endNotified s e k with ring } ∧ (s.ring.task = none → ring = s.ring) := by
  have hring := endNotified_ring s e k
  rw [reportEnd_eq]
  split
  next c hc =>
    have hne : s.ring.task ≠ none := by rw [← hring, hc]; exact nofun
    split
    · unfold dropCaravan
      split
      · exact ⟨_, rfl, fun hnone => absurd hnone hne⟩
      · exact ⟨_, rfl, fun _ => hring⟩
    · exact ⟨_, rfl, fun _ => hring⟩
  next => exact ⟨_, rfl, fun _ => hring⟩

/-- Where no store of the hub waits, the vector of a task's queue is raised at once. -/
theorem endNotified_of_posted {s : State} (hposted : postedWaits s 9 = false) (e k : Nat) :
    let q := s.queueAt (taskAt s e k).queue.toNat
    endNotified s e k = { endCounted s e k with pcie := if q.irq then (raiseVector s q.vector.toNat).pcie else s.pcie } := by
  intro q
  have hsame := endCounted_frame s e k
  have hwaits : postedWaits (endCounted s e k) 9 = false := by rw [hsame]; exact hposted
  have hpcie : (endCounted s e k).pcie = s.pcie := by rw [hsame]; rfl
  have htrust : (endCounted s e k).trust = s.trust := by rw [hsame]; rfl
  unfold endNotified
  dsimp only
  by_cases hirq : q.irq = true
  · rw [if_pos hirq, if_pos hirq, hubVector, hwaits, if_neg Bool.false_ne_true, raiseVector_frame, raiseVector_pcie_congr hpcie htrust]
  · rw [if_neg hirq, if_neg hirq, ← hpcie]

/-- The registers of a task that take QUEUE alone. -/
abbrev queuedTask (s : State) (e k : Nat) (queue : BitVec 20) : TaskRegs := { taskAt s e k with queue }

/-- The state in which a refused task's code is logged and its record written. -/
def refusalWritten (s : State) (e k : Nat) (queue : BitVec 20) (code : Code) : State :=
  writeTaskRecord (logCaravan s code) (s.ecAt e).bound (queuedTask s e k queue) code

theorem refusalWritten_keepsTasks (s : State) (e k : Nat) (queue : BitVec 20) (code : Code) :
    KeepsTasks s (refusalWritten s e k queue code) := (logCaravan_keepsTasks s code).trans (writeTaskRecord_keepsTasks ..)

theorem refuseTask_eq (s : State) (e k : Nat) (queue : BitVec 20) (code : Code) :
    refuseTask s e k queue code = reportEnd (setTask (refusalWritten s e k queue code) e k (queuedTask s e k queue)) e k := rfl

theorem ctxAt_of_keepsTasks {s t : State} (h : KeepsTasks s t) (c : Nat) : t.ctxAt c = s.ctxAt c := by
  simp only [State.ctxAt, h.2.1]

/-- A task that is not active ends with the registers `x`, and DONE of its context counts one more. -/
theorem reportEnd_of_inactive {s : State} {e k : Nat} {c : Fin 64} {x : TaskRegs} (hx : taskAt s e k = x) (hactive : x.active = false)
    (hc : (s.ecAt e).bound = some c) (hother : s.ring.task ≠ some c) :
    (∀ i j, taskAt (reportEnd s e k) i j = taskAt s i j) ∧ ((reportEnd s e k).ctxAt c.val).done = (s.ctxAt c.val).done + 1 := by
  have hkept := endNotified_keepsTasks s e k
  have hstopped : ({ x with active := false } : TaskRegs) = x := by rw [← hactive]
  rw [reportEnd_of_other (fun b hb hbound => hother (by rw [hb, ← hbound, hc])) k]
  refine ⟨fun i j => ?_, ?_⟩
  · rw [hkept.taskAt_eq, endCounted_frame, hx, hstopped]
    refine (taskAt_setTask s e k x i j).trans ?_
    split
    next h => rw [h.1, h.2, hx]
    next => rfl
  · rw [ctxAt_of_keepsTasks hkept, ctxAt_endCounted, hc, Option.map_some, if_pos rfl]

/-- The report of a refused task's end, once its code and its record are written. -/
theorem refusal_reported {s u : State} {e k : Nat} {c : Fin 64} (hkept : KeepsTasks s u) (hactive : (taskAt s e k).active = false)
    (hc : (s.ecAt e).bound = some c) (hother : s.ring.task ≠ some c) (queue : BitVec 20) :
    let t := reportEnd (setTask u e k (queuedTask s e k queue)) e k
    (∀ i j, taskAt t i j = if i = e ∧ j = k then queuedTask s e k queue else taskAt s i j) ∧
      (t.ctxAt c.val).done = (s.ctxAt c.val).done + 1 := by
  intro t
  have hx : taskAt (setTask u e k (queuedTask s e k queue)) e k = queuedTask s e k queue := by simp [taskAt_setTask]
  have hbound : ((setTask u e k (queuedTask s e k queue)).ecAt e).bound = some c := by rw [setTask_bound, (hkept.1 e).2, hc]
  have hring : (setTask u e k (queuedTask s e k queue)).ring = s.ring := hkept.2.2
  have hctx : (setTask u e k (queuedTask s e k queue)).ctxAt c.val = s.ctxAt c.val := ctxAt_of_keepsTasks hkept c.val
  obtain ⟨htasks, hdone⟩ := reportEnd_of_inactive hx hactive hbound (by rw [hring]; exact hother)
  exact ⟨fun i j => by rw [htasks, taskAt_setTask, hkept.taskAt_eq], by rw [hdone, hctx]⟩

/-- A caravan task that may not run: its registers take QUEUE, and DONE of its context counts one more. -/
theorem refuseTask_spec {s : State} {e k : Nat} {c : Fin 64} (hactive : (taskAt s e k).active = false) (hc : (s.ecAt e).bound = some c)
    (hother : s.ring.task ≠ some c) (queue : BitVec 20) (code : Code) :
    (∀ i j, taskAt (refuseTask s e k queue code) i j = if i = e ∧ j = k then queuedTask s e k queue else taskAt s i j) ∧
      ((refuseTask s e k queue code).ctxAt c.val).done = (s.ctxAt c.val).done + 1 := by
  rw [refuseTask_eq]
  exact refusal_reported (refusalWritten_keepsTasks s e k queue code) hactive hc hother queue

end Sys2Proof.Machine
end

section
/-!
The task and yield registers (12_partitions R374, R375, R379): the END of a task, GO of EC_YIELD, and `WalkerAndTaskRegisterWrites`, the first of
the two parts of O59.
-/

namespace Sys2Proof.Machine

open Sys2Proof.Claims

/-! ### END (R371, R374) -/

theorem taskEndStep_of_waits {s : State} {e k : Nat} (h : (taskAt s e k).active = true) (hheld : (e, k) ∉ s.ring.heldEnds)
    (hwaits : endWaits s e = true) : taskEndStep s e k = { s with ring := { s.ring with heldEnds := s.ring.heldEnds ++ [(e, k)] } } := by
  have hcontains : s.ring.heldEnds.contains (e, k) = false := by simpa using hheld
  unfold taskEndStep
  rw [if_neg (by rw [h, hcontains]; exact Bool.false_ne_true), if_pos hwaits]

theorem taskEndStep_of_ends {s : State} {e k : Nat} (h : (taskAt s e k).active = true) (hheld : (e, k) ∉ s.ring.heldEnds)
    (hwaits : endWaits s e = false) : taskEndStep s e k = reportEnd s e k := by
  have hcontains : s.ring.heldEnds.contains (e, k) = false := by simpa using hheld
  unfold taskEndStep
  rw [if_neg (by rw [h, hcontains]; exact Bool.false_ne_true), if_neg (by rw [hwaits]; exact Bool.false_ne_true)]

theorem setTask_setTask (s : State) (e k : Nat) (y z : TaskRegs) : setTask (setTask s e k y) e k z = setTask s e k z := by
  simp only [setTask, State.modEc, State.setEc, State.ecAt, tabGet_tabSet_same, tabSet_tabSet]

theorem SetsTask.of_ecs {s t u : State} {e k : Nat} {y : TaskRegs} (h : SetsTask s t e k y) (hecs : u.ecs = t.ecs) : SetsTask s u e k y := by
  have hec : ∀ i, u.ecAt i = t.ecAt i := fun i => by simp only [State.ecAt, hecs]
  simpa only [SetsTask, taskAt, hec] using h

/-- What the END of a task with no wait leaves, before its registers take QUEUE. -/
theorem reportEnd_gives {s : State} (hposted : postedWaits s 9 = false) (e k : Nat) :
    let q := s.queueAt (taskAt s e k).queue.toNat
    ∃ ring, (s.ring.task = none → ring = s.ring) ∧
      reportEnd s e k = { setTask s e k { taskAt s e k with active := false } with
        contexts := (endCounted s e k).contexts, ring, pcie := if q.irq then (raiseVector s q.vector.toNat).pcie else s.pcie } := by
  intro q
  obtain ⟨ring, hreport, hring⟩ := reportEnd_ring s e k
  refine ⟨ring, hring, ?_⟩
  rw [hreport, endNotified_of_posted hposted, endCounted_frame]

/-- The registers of a task become `y` where they stand in the way of nothing else: `f` changes other parts of the state. -/
theorem setsTask_setTask_of_ecs {s t : State} {e k : Nat} {x : TaskRegs} (h : t.ecs = (setTask s e k x).ecs) (y : TaskRegs) :
    SetsTask s (setTask t e k y) e k y := by
  have hecs : (setTask t e k y).ecs = (setTask (setTask s e k x) e k y).ecs := by
    simp only [setTask, State.modEc, State.setEc, State.ecAt] at h ⊢
    rw [h]
  rw [setTask_setTask] at hecs
  exact (setTask_setsTask s e k y).of_ecs hecs

theorem setTask_frame (s : State) (e k : Nat) (y : TaskRegs) : setTask s e k y = { s with ecs := (setTask s e k y).ecs } := rfl

section ends

variable {s : State} {who : Agent} {e : Fin 128} {k : Fin 2} {v : Reg32} (huser : atUser s who = false)
  (hr : Reaches s who (ecOffset e.val (0x5000 + 0x10 * k.val))) (hend : v.getLsbD 30 = true) (hstart : v.getLsbD 31 = false)
  (hactive : (taskAt s e.val k.val).active = true) (hheld : (e.val, k.val) ∉ s.ring.heldEnds)
include huser hr hend hstart hactive hheld

theorem taskEnd_waits (hwaits : endWaits s e.val = true) :
    ∃ t, Gives (.taskEnd who e k v) s t ∧ SetsTask s t e.val k.val { taskAt s e.val k.val with queue := v.extractLsb' 0 20 } ∧
      t = { s with ecs := t.ecs, ring := { s.ring with heldEnds := s.ring.heldEnds ++ [(e.val, k.val)] } } := by
  have hgives := taskEnd_gives huser hr hend hstart
  rw [taskEndStep_of_waits hactive hheld hwaits] at hgives
  exact ⟨_, hgives, (setTask_setsTask s e.val k.val _).of_ecs rfl, rfl⟩

theorem taskEnd_ends (hwaits : endWaits s e.val = false) (hposted : postedWaits s 9 = false) :
    ∃ t, Gives (.taskEnd who e k v) s t ∧ (s.ring.task = none → t.ring = s.ring) ∧
      t = { s with ecs := t.ecs, contexts := t.contexts, pcie := t.pcie, ring := t.ring } ∧
      SetsTask s t e.val k.val { taskAt s e.val k.val with active := false, queue := v.extractLsb' 0 20 } ∧
      (∀ c, t.ctxAt c =
        if (s.ecAt e.val).bound.map Fin.val = some c then { s.ctxAt c with done := (s.ctxAt c).done + 1 } else s.ctxAt c) ∧
      (let q := s.queueAt (taskAt s e.val k.val).queue.toNat
       t.pcie = if q.irq then (raiseVector s q.vector.toNat).pcie else s.pcie) := by
  have hgives := taskEnd_gives huser hr hend hstart
  rw [taskEndStep_of_ends hactive hheld hwaits] at hgives
  obtain ⟨ring, hring, hreport⟩ := reportEnd_gives hposted e.val k.val
  have hecs : (reportEnd s e.val k.val).ecs = (setTask s e.val k.val { taskAt s e.val k.val with active := false }).ecs := by rw [hreport]
  have htask : taskAt (reportEnd s e.val k.val) e.val k.val = { taskAt s e.val k.val with active := false } := by
    simp only [taskAt, State.ecAt, hecs]
    exact (taskAt_setTask s e.val k.val _ e.val k.val).trans (if_pos ⟨rfl, rfl⟩)
  rw [htask] at hgives
  refine ⟨_, hgives, fun hnone => ?_, ?_, setsTask_setTask_of_ecs hecs _, fun c => ?_, ?_⟩
  · rw [setTask_frame, hreport]
    exact hring hnone
  · rw [setTask_frame, hreport]
    rfl
  · rw [← ctxAt_endCounted, setTask_frame, hreport]
    rfl
  · rw [setTask_frame, hreport]

end ends

/-- EC_TASK_CTL: the second part of `WalkerAndTaskRegisterWrites`. -/
theorem taskControls (s : State) (who : Agent) (e : Fin 128) (k : Fin 2) (v : Reg32) (huser : atUser s who = false)
    (hr : Reaches s who (ecOffset e.val (0x5000 + 0x10 * k.val))) :
    let x := taskAt s e.val k.val
    let queue := v.extractLsb' 0 20
    let layered := fun c : Fin 64 => (s.ecAt e.val).bound = some c ∧ (s.ctxAt c.val).layers ≠ []
    let refused := fun c : Fin 64 => caravanCode s (s.partAt (s.ctxAt c.val).part.toNat).ring ≠ 0 ∧ s.ring.task ≠ some c
    (v.getLsbD 31 = true → v.getLsbD 30 = false → x.active = false → (∀ c, ¬layered c) →
      ∃ t, Gives (.taskStart who e k v) s t ∧ t = { s with ecs := t.ecs } ∧ SetsTask s t e.val k.val { x with active := true, queue }) ∧
    (v.getLsbD 31 = true → v.getLsbD 30 = false → x.active = false → ∀ c, layered c →
      (¬refused c → ∃ t, Gives (.taskStart who e k v) s t ∧ t = { s with ecs := t.ecs, ring := t.ring } ∧
        SetsTask s t e.val k.val { x with active := true, queue } ∧
        t.ring = if caravanRuns s then s.ring else { s.ring with task := some c, layer := 0, step := 0, finalRelease := none }) ∧
      (refused c → ∃ t, Gives (.taskStart who e k v) s t ∧
        (∀ i j, taskAt t i j = if i = e.val ∧ j = k.val then { x with queue } else taskAt s i j) ∧
        (t.ctxAt c.val).done = (s.ctxAt c.val).done + 1)) ∧
    (v.getLsbD 31 = true → x.active = true → v.getLsbD 30 = false → ∃ t, Gives (.taskStart who e k v) s t ∧ OnlyEc s t e.val ∧
      (t.ecAt e.val).tasks = (s.ecAt e.val).tasks ∧
      tabGet 0 (t.ecAt e.val).counters cntTaskIgn = tabGet 0 (s.ecAt e.val).counters cntTaskIgn + 1) := by
  intro x queue layered refused
  refine ⟨fun hstart hend hactive hplain => ?plain, fun hstart hend hactive c hc => ⟨fun hruns => ?begins, fun hrefused => ?refused⟩,
    fun hstart hactive hend => ?ignored⟩
  case plain =>
    refine ⟨_, taskStart_gives huser hr hstart hend, ?_⟩
    rw [taskStartStep_of_plain hactive hplain]
    exact ⟨rfl, setTask_setsTask ..⟩
  case begins =>
    refine ⟨_, taskStart_gives huser hr hstart hend, ?_⟩
    rw [taskStartStep_of_layered hactive hc.1 hc.2, if_neg hruns, beginCaravan_setTask]
    exact ⟨rfl, (setTask_setsTask s e.val k.val _).of_ecs rfl, rfl⟩
  case refused =>
    refine ⟨_, taskStart_gives huser hr hstart hend, ?_⟩
    rw [taskStartStep_of_layered hactive hc.1 hc.2, if_pos hrefused]
    exact refuseTask_spec hactive hc.1 hrefused.2 _ _
  case ignored =>
    refine ⟨_, taskStart_gives huser hr hstart hend, ?_⟩
    rw [taskStartStep_of_active hactive, bumpEc, bumpEcBy]
    refine ⟨⟨rfl, fun i hi => ecAt_modEc_ne _ _ _ _ hi⟩, ?_⟩
    rw [ecAt_modEc]
    exact ⟨rfl, (tabGet_bumpBy ..).trans (if_pos rfl)⟩

/-! ### GO of EC_YIELD (R379) -/

/-- The record that a yielding steward writes in the save area. -/
def yieldRecord (s : State) (c : Fin 64) (st : Nat) (idle : Bool) (pc : Word64) : List Byte :=
  let x := s.stewardAt st
  natLe 8 pc.toNat ++ natLe 8 (if idle then 0 else mapOf s c x) ++ natLe 8 x.issued.toNat ++ natLe 8 x.retired.toNat ++ natLe 8 x.tvec.toNat ++
    natLe 8 x.sscratch.toNat ++ natLe 8 x.timecmp.toNat ++ natLe 4 x.evmask.toNat ++ natLe 2 x.tpoint.toNat ++ natLe 2 (if idle then 1 else 0)

/-- Where that record stands. -/
def recordAddr (s : State) (c : Fin 64) (e k : Nat) : Nat := stewardRecord (blockBase (s.ctxAt c.val) (placeOf s c e)) k

theorem writeStewardRecord_eq (s : State) (c : Fin 64) (e : Nat) {k : Nat} (hk : k < 2) (idle : Bool) (pc : Word64) :
    writeStewardRecord s c (2 * e + k) idle pc =
      uWrite s (saveReq s c) (recordAddr s c e k) (yieldRecord s c (2 * e + k) idle pc) := by
  unfold writeStewardRecord
  rw [show (2 * e + k) / 2 = e by omega, show (2 * e + k) % 2 = k by omega]
  rfl

theorem recordAddr_mod (s : State) (c : Fin 64) (e k : Nat) : recordAddr s c e k % 64 = 0 := by
  simp only [recordAddr, stewardRecord, blockBase, saveBase, ← Nat.mul_assoc]
  omega

theorem yieldRecord_length (s : State) (c : Fin 64) (st : Nat) (idle : Bool) (pc : Word64) : (yieldRecord s c st idle pc).length = 64 := by
  simp [yieldRecord]

theorem getElem_natLe {n v i : Nat} (h : i < (natLe n v).length) : (natLe n v)[i] = BitVec.ofNat 8 (v / 256 ^ i) := by
  induction n generalizing v i with
  | zero => exact absurd h (Nat.not_lt_zero i)
  | succ n ih =>
    cases i with
    | zero => simp [natLe]
    | succ i =>
      simp only [natLe, List.getElem_cons_succ]
      rw [ih, Nat.div_div_eq_div_mul, ← Nat.pow_succ']

/-- Byte `i` of a word. -/
theorem getElem_natLe_toNat {n i : Nat} (w : Word64) (h : i < (natLe n w.toNat).length) :
    (natLe n w.toNat)[i] = w.extractLsb' (8 * i) 8 := by
  rw [getElem_natLe, BitVec.extractLsb', Nat.shiftRight_eq_div_pow, show 2 ^ (8 * i) = 256 ^ i by rw [Nat.pow_mul]]

/-- The three words of the record that R379 names: the pc and the two counts. -/
theorem yieldRecord_words (s : State) (c : Fin 64) (st : Nat) (idle : Bool) (pc : Word64) {i : Nat} (h : i < 8) :
    (yieldRecord s c st idle pc)[i]? = some (pc.extractLsb' (8 * i) 8) ∧
      (yieldRecord s c st idle pc)[0x10 + i]? = some ((s.stewardAt st).issued.extractLsb' (8 * i) 8) ∧
      (yieldRecord s c st idle pc)[0x18 + i]? = some ((s.stewardAt st).retired.extractLsb' (8 * i) 8) := by
  have hword : ∀ w : Word64, (natLe 8 w.toNat)[i]? = some (w.extractLsb' (8 * i) 8) := fun w => by
    rw [List.getElem?_eq_getElem (by simpa using h), getElem_natLe_toNat]
  simp only [yieldRecord, List.append_assoc]
  refine ⟨?_, ?_, ?_⟩
  · rw [List.getElem?_append_left (by simpa using h), hword]
  · rw [List.getElem?_append_right (by simp; omega), natLe_length, List.getElem?_append_right (by simp; omega), natLe_length,
      List.getElem?_append_left (by simp; omega), show 0x10 + i - 8 - 8 = i by omega, hword]
  · rw [List.getElem?_append_right (by simp; omega), natLe_length, List.getElem?_append_right (by simp; omega), natLe_length,
      List.getElem?_append_right (by simp; omega), natLe_length, List.getElem?_append_left (by simp; omega),
      show 0x18 + i - 8 - 8 - 8 = i by omega, hword]

theorem rangeFault_modSteward (s : State) (st : Nat) (f : Steward → Steward) (p : Option Nat) (a n : Nat) (wr na : Bool) :
    rangeFault (s.modSteward st f) p a n wr na = rangeFault s p a n wr na := rfl

theorem blockedEc_modSteward (s : State) (st : Nat) (f : Steward → Steward) (c : Option (Fin 64)) (a : Nat) :
    blockedEc (s.modSteward st f) c a = blockedEc s c a := rfl

theorem windowHeld_modSteward (s : State) (st : Nat) (f : Steward → Steward) (a : Nat) :
    windowHeld (s.modSteward st f) a = windowHeld s a := rfl

/-- The state in which a steward has yielded. -/
def yieldedState (s : State) (st : Nat) (idle : Bool) : State := s.modSteward st fun y => { y with run := .yielded idle }

/-- A look-up does not ask the stewards: what it leaves beside them stands with the stewards of another state. -/
theorem onlyLookups_modSteward {s u : State} {st : Nat} {f : Steward → Steward} (h : OnlyLookups (s.modSteward st f) u) :
    OnlyLookups s { u with stewards := s.stewards } := by
  obtain ⟨hframe, hdies, hecs⟩ := h
  exact ⟨by rw [hframe]; rfl, hdies, hecs⟩

section yield

variable {s : State} {c : Fin 64} {e k : Nat} (hk : k < 2)
  (hfault : rangeFault s (some (s.ctxAt c.val).part.toNat) (recordAddr s c e k) 64 true = none)
  (hopen : blockedEc s (some c) (recordAddr s c e k) = none) (hheld : windowHeld s (recordAddr s c e k) = false)
include hk hfault hopen hheld

/-- The record of a yielding steward is stored. -/
theorem writeStewardRecord_yielded (idle : Bool) (pc : Word64) :
    ∃ r, AfterLookups (yieldedState s (2 * e + k) idle) r ∧
      writeStewardRecord (yieldedState s (2 * e + k) idle) c (2 * e + k) idle pc =
        .ok (storeAs r (some (s.ctxAt c.val).part.toNat) (recordAddr s c e k)
          (yieldRecord (yieldedState s (2 * e + k) idle) c (2 * e + k) idle pc)) := by
  have haddr : recordAddr (yieldedState s (2 * e + k) idle) c e k = recordAddr s c e k := rfl
  rw [writeStewardRecord_eq _ _ _ hk, haddr]
  refine uWrite_of_line (q := saveReq s c) (recordAddr_mod s c e k) (yieldRecord_length ..) ?_ ?_ ?_
  · exact (rangeFault_modSteward ..).trans hfault
  · exact (windowHeld_modSteward ..).trans hheld
  · exact (blockedEc_modSteward ..).trans hopen

end yield

/-- The pc that the record of a yield holds. -/
def yieldPc (s : State) (who : Agent) (st : Nat) (idle : Bool) : Word64 :=
  let x := s.stewardAt st
  if idle then (if (match who with | .steward w => w.val == st | _ => false) then x.pc + 4 else x.pc) else x.tpc

theorem yieldPc_eq (s : State) (who : Agent) {st : Nat} (hst : st < 264) (idle : Bool) :
    yieldPc s who st idle = if idle then (if who = .steward ⟨st, hst⟩ then (s.stewardAt st).pc + 4 else (s.stewardAt st).pc)
      else (s.stewardAt st).tpc := by
  have hown : (match who with | .steward w => w.val == st | _ => false) = decide (who = .steward ⟨st, hst⟩) := by
    cases who with
    | steward w => simpa only [Agent.steward.injEq, Fin.ext_iff] using beq_eq_decide w.val st
    | management => rfl
    | loader => rfl
    | bar0 f => rfl
  simp only [yieldPc, hown, decide_eq_true_eq]

theorem yieldWrite_eq {s : State} {who : Agent} {e k : Nat} {v : Reg32} {c : Fin 64} (huser : atUser s who = false) (hgo : v.getLsbD 31 = true)
    (hreq : (s.stewardAt (2 * e + k)).tempoReq = true) (hc : (s.ecAt e).bound = some c) {u : State}
    (hwrite : writeStewardRecord (yieldedState s (2 * e + k) (v.getLsbD 30)) c (2 * e + k) (v.getLsbD 30)
      (yieldPc s who (2 * e + k) (v.getLsbD 30)) = .ok u) :
    yieldWrite s who e k v = u.modCtx c.val fun y => { y with lastGo := s.time } := by
  unfold yieldWrite
  -- The write is a variable from here, so that the kernel does not evaluate it to compare two `match`es on what it gives.
  obtain ⟨write, hname⟩ : ∃ write, write = writeStewardRecord := ⟨_, rfl⟩
  rw [← hname] at hwrite ⊢
  extract_lets st x idle own pc t
  rw [if_neg (by rw [huser]; exact Bool.false_ne_true), if_neg (by rw [hgo]; exact Bool.false_ne_true),
    if_neg (by rw [hreq]; exact Bool.false_ne_true), hc]
  dsimp only
  have hstored : write t c st idle pc = .ok u := hwrite
  rw [hstored]

/-- The stewards once one of them has yielded. -/
theorem stewardAt_yieldedState (s : State) (st : Nat) (idle : Bool) (i : Nat) :
    (yieldedState s st idle).stewardAt i = if i = st then { s.stewardAt st with run := .yielded idle } else s.stewardAt i := by
  rw [yieldedState]
  split
  next h => rw [h, stewardAt_modSteward]
  next h => exact stewardAt_modSteward_ne s _ _ _ h

/-- The three words of a stored yield record. -/
theorem stores_yieldRecord {s t w : State} {c : Fin 64} {st a : Nat} {idle : Bool} {pc : Word64} (h : Stores s t a (yieldRecord w c st idle pc)) :
    (∀ i, i < 8 → cellGet t.mem (a + i) = pc.extractLsb' (8 * i) 8) ∧
      (∀ i, i < 8 → cellGet t.mem (a + 0x10 + i) = (w.stewardAt st).issued.extractLsb' (8 * i) 8) ∧
      (∀ i, i < 8 → cellGet t.mem (a + 0x18 + i) = (w.stewardAt st).retired.extractLsb' (8 * i) 8) ∧
      ∀ b, b < a ∨ a + 64 ≤ b → cellGet t.mem b = cellGet s.mem b := by
  obtain ⟨hin, hout⟩ := h
  rw [yieldRecord_length] at hout
  have hbyte : ∀ i, i < 64 → ∀ x, (yieldRecord w c st idle pc)[i]? = some x → cellGet t.mem (a + i) = x := fun i hi x hx => by
    rw [hin i (by rw [yieldRecord_length]; exact hi)]
    exact (List.getElem?_eq_some_iff.mp hx).2
  refine ⟨fun i hi => ?_, fun i hi => ?_, fun i hi => ?_, hout⟩
  · exact hbyte i (by omega) _ (yieldRecord_words w c st idle pc hi).1
  · rw [Nat.add_assoc]
    exact hbyte (0x10 + i) (by omega) _ (yieldRecord_words w c st idle pc hi).2.1
  · rw [Nat.add_assoc]
    exact hbyte (0x18 + i) (by omega) _ (yieldRecord_words w c st idle pc hi).2.2

theorem stewardAt_congr {s t : State} (h : t.stewards = s.stewards) (i : Nat) : t.stewardAt i = s.stewardAt i := by
  simp only [State.stewardAt, h]

theorem ctxAt_congr {s t : State} (h : t.contexts = s.contexts) (i : Nat) : t.ctxAt i = s.ctxAt i := by
  simp only [State.ctxAt, h]

/-- A store, and GO's time in the context. -/
def storedWithGo (r : State) (p : Option Nat) (a : Nat) (bs : List Byte) (c : Nat) (time : CTime) : State :=
  (storeAs r p a bs).modCtx c fun y => { y with lastGo := time }

theorem stores_storedWithGo {s r : State} (hwf : Memory.wf s.mem = true) (hmem : r.mem = s.mem) (p : Option Nat) (a : Nat) (bs : List Byte)
    (c : Nat) (time : CTime) : Stores s (storedWithGo r p a bs c time) a bs := stores_of_mem_eq hwf (congrArg (cellsWrite · a bs) hmem)

theorem storedWithGo_frame (r : State) (st : Tab Steward) (p : Option Nat) (a : Nat) (bs : List Byte) (c : Nat) (time : CTime) :
    let t := storedWithGo r p a bs c time
    t = { ({ r with stewards := st } : State) with stewards := t.stewards, contexts := t.contexts, mem := t.mem, bad := t.bad } := rfl

theorem stewardAt_storedWithGo (r : State) (p : Option Nat) (a : Nat) (bs : List Byte) (c : Nat) (time : CTime) (i : Nat) :
    (storedWithGo r p a bs c time).stewardAt i = r.stewardAt i := rfl

theorem ctxAt_storedWithGo (r : State) (p : Option Nat) (a : Nat) (bs : List Byte) (c : Nat) (time : CTime) (i : Nat) :
    (storedWithGo r p a bs c time).ctxAt i = if i = c then { r.ctxAt i with lastGo := time } else r.ctxAt i := by
  split
  next h => rw [h]; exact ctxAt_modCtx ..
  next h => exact ctxAt_modCtx_ne _ _ _ _ h

/-- What look-ups by a yielding steward leave of the state before it yielded. -/
theorem yielded_lookups {s r : State} {st : Nat} {idle : Bool} (h : OnlyLookups (yieldedState s st idle) r) :
    r.stewards = (yieldedState s st idle).stewards ∧ r.contexts = s.contexts ∧ r.mem = s.mem ∧
      OnlyLookups s { r with stewards := s.stewards } := by
  have hframe := h.1
  refine ⟨?_, ?_, ?_, onlyLookups_modSteward h⟩ <;> rw [hframe]
  · rfl
  · rfl

theorem yieldGo_gives {s : State} {who : Agent} {e : Fin 128} {k : Fin 2} {v : Reg32} (hgo : v.getLsbD 31 = true)
    (hr : Reaches s who (ecOffset e.val (0x500C + 0x10 * k.val))) : Gives (.yieldGo who e k v) s (yieldWrite s who e.val k.val v) := by
  rw [Gives, exec_yieldGo, hgo, rowWrite_ec_of_reaches hr e.isLt (by omega) (by omega), ecRegWrite_yield _ _ _ k.isLt]

/-- GO of EC_YIELD stores the record and stamps the context. -/
theorem yieldGo_stores {s : State} {who : Agent} {e : Fin 128} {k : Fin 2} {v : Reg32} {c : Fin 64} (huser : atUser s who = false)
    (hr : Reaches s who (ecOffset e.val (0x500C + 0x10 * k.val))) (hgo : v.getLsbD 31 = true)
    (hreq : (s.stewardAt (2 * e.val + k.val)).tempoReq = true) (hc : (s.ecAt e.val).bound = some c)
    (hfault : rangeFault s (some (s.ctxAt c.val).part.toNat) (recordAddr s c e.val k.val) 64 true = none)
    (hopen : blockedEc s (some c) (recordAddr s c e.val k.val) = none) (hheld : windowHeld s (recordAddr s c e.val k.val) = false) :
    ∃ r, OnlyLookups (yieldedState s (2 * e.val + k.val) (v.getLsbD 30)) r ∧
      Gives (.yieldGo who e k v) s (storedWithGo r (some (s.ctxAt c.val).part.toNat) (recordAddr s c e.val k.val)
        (yieldRecord (yieldedState s (2 * e.val + k.val) (v.getLsbD 30)) c (2 * e.val + k.val) (v.getLsbD 30)
          (yieldPc s who (2 * e.val + k.val) (v.getLsbD 30))) c.val s.time) := by
  obtain ⟨r, hlooked, hwrite⟩ :=
    writeStewardRecord_yielded k.isLt hfault hopen hheld (v.getLsbD 30) (yieldPc s who (2 * e.val + k.val) (v.getLsbD 30))
  have hgives := yieldGo_gives (e := e) (k := k) hgo hr
  rw [yieldWrite_eq huser hgo hreq hc hwrite] at hgives
  exact ⟨r, hlooked.only, hgives⟩

/-- What the stored record and the stamp leave, for any look-ups `r` of a yielding steward. -/
theorem storedWithGo_yielded {s r : State} {st : Nat} {idle : Bool} (hwf : Memory.wf s.mem = true) (hlooked : OnlyLookups (yieldedState s st idle) r)
    (p : Option Nat) (a : Nat) (c : Fin 64) (pc : Word64) :
    let x := s.stewardAt st
    let t := storedWithGo r p a (yieldRecord (yieldedState s st idle) c st idle pc) c.val s.time
    OnlyLookups s { r with stewards := s.stewards } ∧
      (∀ i, t.stewardAt i = if i = st then { x with run := .yielded idle } else s.stewardAt i) ∧
      (∀ i, t.ctxAt i = if i = c.val then { s.ctxAt i with lastGo := s.time } else s.ctxAt i) ∧
      (∀ i, i < 8 → cellGet t.mem (a + i) = pc.extractLsb' (8 * i) 8) ∧
      (∀ i, i < 8 → cellGet t.mem (a + 0x10 + i) = x.issued.extractLsb' (8 * i) 8) ∧
      (∀ i, i < 8 → cellGet t.mem (a + 0x18 + i) = x.retired.extractLsb' (8 * i) 8) ∧
      ∀ b, b < a ∨ a + 64 ≤ b → cellGet t.mem b = cellGet s.mem b := by
  intro x t
  have hyielded := stewardAt_yieldedState s st idle
  obtain ⟨hstewards, hcontexts, hmem, hlooks⟩ := yielded_lookups hlooked
  have hstores := stores_yieldRecord (stores_storedWithGo hwf hmem p a (yieldRecord (yieldedState s st idle) c st idle pc) c.val s.time)
  rw [hyielded, if_pos rfl] at hstores
  refine ⟨hlooks, fun i => ?_, fun i => ?_, hstores⟩
  · exact (stewardAt_storedWithGo ..).trans ((stewardAt_congr hstewards i).trans (hyielded i))
  · exact (ctxAt_storedWithGo ..).trans (by rw [ctxAt_congr hcontexts])

/-- EC_YIELD: the third part of `WalkerAndTaskRegisterWrites`. -/
theorem yieldControls (s : State) (who : Agent) (e : Fin 128) (k : Fin 2) (v : Reg32) (c : Fin 64) (hst : 2 * e.val + k.val < 264) :
    let st := 2 * e.val + k.val
    let x := s.stewardAt st
    let a := recordAddr s c e.val k.val
    let pc := if v.getLsbD 30 then (if who = .steward ⟨st, hst⟩ then x.pc + 4 else x.pc) else x.tpc
    atUser s who = false → Reaches s who (ecOffset e.val (0x500C + 0x10 * k.val)) → v.getLsbD 31 = true → x.tempoReq = true →
    (s.ecAt e.val).bound = some c → rangeFault s (some (s.ctxAt c.val).part.toNat) a 64 true = none → blockedEc s (some c) a = none →
    windowHeld s a = false → Memory.wf s.mem = true →
    ∃ u t, Gives (.yieldGo who e k v) s t ∧ OnlyLookups s u ∧
      t = { u with stewards := t.stewards, contexts := t.contexts, mem := t.mem, bad := t.bad } ∧
      (∀ i, t.stewardAt i = if i = st then { x with run := .yielded (v.getLsbD 30) } else s.stewardAt i) ∧
      (∀ i, t.ctxAt i = if i = c.val then { s.ctxAt i with lastGo := s.time } else s.ctxAt i) ∧
      (∀ i, i < 8 → cellGet t.mem (a + i) = pc.extractLsb' (8 * i) 8) ∧
      (∀ i, i < 8 → cellGet t.mem (a + 0x10 + i) = x.issued.extractLsb' (8 * i) 8) ∧
      (∀ i, i < 8 → cellGet t.mem (a + 0x18 + i) = x.retired.extractLsb' (8 * i) 8) ∧
      ∀ b, b < a ∨ a + 64 ≤ b → cellGet t.mem b = cellGet s.mem b := by
  intro st x a pc huser hr hgo hreq hc hfault hopen hheld hwf
  obtain ⟨r, hlooked, hgives⟩ := yieldGo_stores huser hr hgo hreq hc hfault hopen hheld
  obtain ⟨hlooks, hstewards, hcontexts, hpc, hrest⟩ := storedWithGo_yielded hwf hlooked (some (s.ctxAt c.val).part.toNat)
    (recordAddr s c e.val k.val) c (yieldPc s who (2 * e.val + k.val) (v.getLsbD 30))
  have hword : yieldPc s who (2 * e.val + k.val) (v.getLsbD 30) = pc := yieldPc_eq s who hst _
  exact ⟨_, _, hgives, hlooks, storedWithGo_frame .., hstewards, hcontexts, fun i hi => (hpc i hi).trans (by rw [hword]), hrest⟩

/-- The first of the two parts of O59. -/
theorem walkerAndTaskRegisterWrites : WalkerAndTaskRegisterWrites := by
  refine ⟨fun s who die v => ?walker, fun s who e k v => ?tasks, fun s who e k v c => yieldControls s who e k v c (by omega)⟩
  case walker =>
    intro x named part dir scope leaves hhost hr hv
    obtain ⟨hidle, hbusy⟩ := tlbInvalidations s who die v hhost hr hv
    refine ⟨fun hfree => ?_, hbusy, fun hclk hinv => ?_⟩
    · obtain ⟨t, hgives, honly, hdie⟩ := hidle hfree
      refine ⟨t, hgives, honly, ?_, fun l => ?_⟩
      · rw [hdie]
        rfl
      · rw [hdie, mem_invBegun_lab, walkerOwn_part]
        exact Iff.rfl
    · exact ⟨_, tlbInvalidateDone_gives hclk hinv, onlyDie_modDie .., dieAt_modDie ..⟩
  case tasks =>
    intro x queue SetsTask huser hr layered refused
    obtain ⟨hplain, hlayered, hignored⟩ := taskControls s who e k v huser hr
    exact ⟨hplain, hlayered, fun hend hstart hactive hheld => taskEnd_waits huser hr hend hstart hactive hheld,
      fun hend hstart hactive hheld => taskEnd_ends huser hr hend hstart hactive hheld, hignored⟩

end Sys2Proof.Machine
end

section
/-!
ARM and CANCEL of stream slots (10_streams R305, R319 to R323): what each gives, and what ARM of a free slot gives where the stored errors of the
descriptor's line are steady (`SteadyErrors`).
-/

namespace Sys2Proof.Machine

open Sys2Proof.Claims

/-! ### The rows -/

theorem dbgCtlAt_slot {u i r : Nat} (hu : u < 131) (hi : i < 64) (hr : r < 16) : dbgCtlAt (slotOffset u i r) = none := by
  unfold slotOffset
  split
  · exact dbgCtlAt_die _ _ (by omega) (by omega)
  · exact dbgCtlAt_hub _ (by omega)

theorem regWrite_slot (s : State) (who : Agent) {u i r : Nat} (v : Reg32) (hu : u < 131) (hi : i < 64) (hr : r < 16) :
    regWrite s who (slotOffset u i r) v = slotRegWrite s who u i r v := by
  by_cases h : u < 128
  · exact regWrite_slot_ec s who u i r v h hi hr
  · exact regWrite_slot_link s who u i r v (by omega) hu hi hr

/-- ST_CTL of a slot, for an agent other than the host that reaches it. -/
theorem rowWrite_slotCtl {s : State} {who : Agent} {u : Fin 131} {i : Fin 64} (hhost : isHost who = false)
    (hr : Reaches s who (slotOffset u.val i.val 0x8)) (v : Reg32) :
    rowWrite s who (slotOffset u.val i.val 0x8) v true = .next (stCtlWrite s u.val i.val (agentOwner s who) v) := by
  rw [rowWrite_of_reaches hr, fullRegWrite_map _ _ _ _ (dbgCtlAt_slot u.isLt i.isLt (by omega)),
    regWrite_slot s who v u.isLt i.isLt (by omega), slotRegWrite, hhost, if_neg Bool.false_ne_true]

section rows

variable {s : State} {who : Agent} {u : Fin 131} {i : Fin 64} (hhost : isHost who = false) (hr : Reaches s who (slotOffset u.val i.val 0x8))
include hhost hr

theorem streamArm_gives : Gives (.streamArm who u i false) s (slotArm s u.val i.val (agentOwner s who)) :=
  rowWrite_slotCtl hhost hr 0x80000000

theorem streamCancel_gives : Gives (.streamCancel who u i) s (slotCancel s u.val i.val) :=
  rowWrite_slotCtl hhost hr 0x40000000

end rows

/-! ### The slots -/

theorem slotFree_iff (x : Slot) : slotFree x = true ↔ x.state = 0 ∨ x.state = 4 ∨ x.state = 5 ∨ x.state = 6 := by
  simp only [slotFree, Bool.or_eq_true, beq_iff_eq, or_assoc]

theorem slotFree_of_occupied {x : Slot} (h : x.state = 1 ∨ x.state = 2 ∨ x.state = 3) : slotFree x = false := by
  obtain h | h | h := h <;> simp [slotFree, h]

/-- The other slots stand. -/
def OthersStand (s t : State) (u i : Nat) : Prop := ∀ n, n ≠ u * 64 + i → tabGet {} t.slots n = tabGet {} s.slots n

theorem setSlot_othersStand (s : State) (u i : Nat) (x : Slot) : OthersStand s (s.setSlot u i x) u i :=
  fun _ hn => tabGet_tabSet_ne _ _ _ _ _ hn

theorem OthersStand.of_slots {s t r : State} {u i : Nat} (h : OthersStand s t u i) (hr : r.slots = t.slots) : OthersStand s r u i := by
  simpa only [OthersStand, hr] using h

theorem setSlot_setSlot (s : State) (u i : Nat) (x y : Slot) : (s.setSlot u i x).setSlot u i y = s.setSlot u i y := by
  simp only [State.setSlot, tabSet_tabSet]

theorem logsFirst_logWrite (s : State) (r : LogRec) : LogsFirst s (logWrite s r) r.code := by
  obtain ⟨-, x, hcode, hhead, hlog⟩ := logWrite_spec s r
  exact ⟨x, [], hcode, hhead, hlog.trans (if_neg (List.cons_ne_nil _ _))⟩

/-! ### ARM of an occupied slot, and CANCEL (R305, R320, R322) -/

section occupied

variable {s : State} {u i : Nat}

theorem slotArm_of_pending (hocc : slotFree (s.slotAt u i) = false) (hpend : (s.slotAt u i).pend = false) (owner : Owner) :
    slotArm s u i owner = s.setSlot u i { s.slotAt u i with pend := true, pendOwner := owner } := by
  unfold slotArm
  extract_lets x
  rw [if_neg (by rw [hocc]; exact Bool.false_ne_true), if_pos (by rw [hpend]; rfl)]

theorem slotArm_of_second (hocc : slotFree (s.slotAt u i) = false) (hpend : (s.slotAt u i).pend = true) (owner : Owner) :
    slotArm s u i owner = logWrite (s.setSlot u i { s.slotAt u i with code := 0x4008 })
      (faultRec s owner 0x4008 (slotAddr (s.slotAt u i))) := by
  unfold slotArm
  extract_lets x
  rw [if_neg (by rw [hocc]; exact Bool.false_ne_true), if_neg (by rw [hpend]; exact Bool.false_ne_true)]

theorem slotCancel_of_armed (hstate : (s.slotAt u i).state = 1) (hcmd : (s.slotAt u i).command = none) :
    slotCancel s u i = s.setSlot u i { s.slotAt u i with
      state := 5, pend := false, landed := (s.slotAt u i).landed.map fun l => (l.1, []) } := by
  simp only [slotCancel, hstate, if_true, endSlot, slotAt_setSlot, hcmd, endCommand, setSlot_setSlot, dropData]
  rfl

theorem slotCancel_of_running (hstate : (s.slotAt u i).state = 2) :
    ((slotCancel s u i).slotAt u i).state = 3 ∧ ((slotCancel s u i).slotAt u i).pend = false := by
  unfold slotCancel
  extract_lets x gone w kept
  rw [if_neg (by rw [hstate]; decide), if_pos hstate, slotAt_setSlot]
  exact ⟨rfl, rfl⟩

theorem slotCancel_of_free (h : slotFree (s.slotAt u i) = true) : slotCancel s u i = s := by
  unfold slotCancel
  extract_lets x gone w kept
  obtain h | h | h | h := (slotFree_iff _).mp h <;> rw [if_neg (by rw [h]; decide), if_neg (by rw [h]; decide), if_neg (by rw [h]; decide)]

end occupied

/-! ### ARM of a free slot (R319 to R321) -/

theorem slotArm_of_free {s : State} {u i : Nat} (h : slotFree (s.slotAt u i) = true) (owner : Owner) :
    slotArm s u i owner = applyArm s u i owner none (slotAddr (s.slotAt u i)) := if_pos h

/-- A slot that `owner` arms at `now`, before its descriptor is read. -/
def slotArmed (x : Slot) (owner : Owner) (now : CTime) : Slot :=
  { x with
    pend := false, owner, pendOwner := .nobody, command := none, code := 0, ending := none, issued := 0, landed := [], written := 0
    performed := 0, armedAt := now, sent := [], unacked := [], writeAcks := [] }

/-- The request of the descriptor's read: an arm does not wait for a window that is held. -/
def armReq (s : State) (owner : Owner) : Req := { slotReq s { owner } with waits := false }

/-- A fault of the descriptor's checks is logged, and the slot ends in FAULT. -/
def armFault (s : State) (u i : Nat) (x : Slot) (owner : Owner) (code : Code) (a : Nat) : State :=
  endSlot (logWrite (s.setSlot u i x) (faultRec s owner code a)) u i 6 code

section arm

variable {s r : State} {u i a : Nat} {owner : Owner} {w : List Byte} (hread : uReadUse s (armReq s owner) a 64 = .ok (w, r))
include hread

theorem applyArm_of_bad (hbad : descriptorOk u w = false) :
    applyArm s u i owner none a = armFault r u i (slotArmed (s.slotAt u i) owner s.time) owner 0x4006 a := by
  unfold applyArm
  extract_lets before x q fault
  have hq : ({ q with waits := false } : Req) = armReq s owner := rfl
  rw [hq, hread]
  exact if_pos (by rw [hbad]; rfl)

theorem applyArm_of_good (hok : descriptorOk u w = true) (hinside : ∀ p, (armReq s owner).part = some p → descriptorInside r p w = true) :
    applyArm s u i owner none a = r.setSlot u i { slotArmed (s.slotAt u i) owner s.time with
      state := 1, desc := w, releasedBefore := tabGet 0 (r.ecAt (semEc (dSema w))).released (semNum (dSema w)) } := by
  unfold applyArm
  extract_lets before x q fault
  have hq : ({ q with waits := false } : Req) = armReq s owner := rfl
  rw [hq, hread]
  have hin : ¬(match q.part with | some p => !descriptorInside r p w | none => false) = true := by
    have hpart : q.part = (armReq s owner).part := rfl
    rw [hpart]
    split
    next p hp => rw [hinside p hp]; exact Bool.false_ne_true
    next => exact Bool.false_ne_true
  exact (if_neg (by rw [hok]; exact Bool.false_ne_true)).trans (if_neg hin)

end arm

/-! ### The records of ARM -/

/-- The codes of ARM that are logged bring no detail of their own, so their record draws no free value. -/
theorem withDetail_of_armCode {s : State} {r : LogRec} (h : r.code = 0x4006 ∨ r.code = 0x4008) : withDetail s r = (r, s) := by
  unfold withDetail
  obtain h | h := h <;> rw [h, if_neg fun hd => absurd hd.2 (by decide), if_neg fun hd => absurd hd.2 (by decide)]

theorem logWrite_frame_of_armCode {s : State} {r : LogRec} (h : r.code = 0x4006 ∨ r.code = 0x4008) :
    logWrite s r = { s with log := (logWrite s r).log, logHead := (logWrite s r).logHead, pcie := (logWrite s r).pcie } := by
  have hfree : (logWrite s r).free = s.free := by rw [logWrite_free, withDetail_of_armCode h]
  have hframe := logWrite_frame s r
  rw [hfree] at hframe
  exact hframe

/-- A record of ARM, in a state in which the slot has become `x`. -/
theorem logged_arm {s t : State} {u i : Nat} {x : Slot} {r : LogRec} (h : r.code = 0x4006 ∨ r.code = 0x4008)
    (ht : t = logWrite (s.setSlot u i x) r) :
    t = { s with slots := t.slots, log := t.log, logHead := t.logHead, pcie := t.pcie } ∧ OthersStand s t u i ∧ LogsFirst s t r.code ∧
      t.slotAt u i = x := by
  have hframe := logWrite_frame_of_armCode (s := s.setSlot u i x) h
  have hslots : (logWrite (s.setSlot u i x) r).slots = (s.setSlot u i x).slots := by rw [hframe]
  subst ht
  refine ⟨?_, (setSlot_othersStand s u i x).of_slots hslots, logsFirst_logWrite (s.setSlot u i x) r, ?_⟩
  · rw [hslots]
    exact hframe
  · rw [State.slotAt, hslots]
    exact slotAt_setSlot ..

/-- The fault of an arm, of a slot that no command runs. -/
theorem armFault_spec {s : State} {u i : Nat} {x : Slot} (hcmd : x.command = none) (owner : Owner) (a : Nat) :
    let t := armFault s u i x owner 0x4006 a
    t = { s with slots := t.slots, log := t.log, logHead := t.logHead, pcie := t.pcie } ∧ OthersStand s t u i ∧ LogsFirst s t 0x4006 ∧
      (t.slotAt u i).state = 6 ∧ (t.slotAt u i).code = 0x4006 := by
  have hcode := faultRec_code s owner 0x4006 a
  obtain ⟨hframe, hothers, hlogs, hslot⟩ := logged_arm (s := s) (u := u) (i := i) (x := x) (.inl hcode) rfl
  rw [hcode] at hlogs
  generalize hl : logWrite (s.setSlot u i x) (faultRec s owner 0x4006 a) = l at hframe hothers hlogs hslot
  have hend : armFault s u i x owner 0x4006 a = l.setSlot u i { dropData x with state := 6, code := 0x4006, command := none } := by
    rw [armFault, hl, endSlot, hslot, endCommand, hcmd]
    rfl
  intro t
  have ht : t = l.setSlot u i { dropData x with state := 6, code := 0x4006, command := none } := hend
  rw [ht]
  refine ⟨?_, fun n hn => ((setSlot_othersStand l u i _) n hn).trans (hothers n hn), hlogs, ?_, ?_⟩
  · rw [setSlot_log, setSlot_logHead, setSlot_pcie]
    conv_lhs => rw [hframe]
    rfl
  · rw [slotAt_setSlot]
  · rw [slotAt_setSlot]

/-! ### ARM where the errors of the descriptor's line are steady -/

theorem slotAddr_mod (x : Slot) : slotAddr x % 64 = 0 := by
  unfold slotAddr
  omega

theorem descriptorInside_of_onlyLookups {s r : State} (h : OnlyLookups s r) (p : Nat) (w : List Byte) :
    descriptorInside r p w = descriptorInside s p w := by
  rw [h.1]
  rfl

theorem released_of_onlyLookups {s r : State} (h : OnlyLookups s r) (e : Nat) : (r.ecAt e).released = (s.ecAt e).released := by rw [h.2.2 e]

section free

variable {s : State} {u i a : Nat} {owner : Owner}
  (hfault : rangeFault s ((ownerCtx s owner).map fun c => (s.ctxAt c.val).part.toNat) a 64 false = none) (h64 : a % 64 = 0)
  (hsteady : SteadyErrors s a)
include hfault h64 hsteady

/-- The read of the descriptor. -/
theorem descriptorRead : ∃ r, AfterLookups s r ∧ uReadUse s (armReq s owner) a 64 = .ok (unitBytes s (ownerCtx s owner) a 64, r) :=
  uReadUse_of_line (q := armReq s owner) h64 hfault rfl rfl hsteady

theorem applyArm_armed (hok : descriptorOk u (unitBytes s (ownerCtx s owner) a 64) = true)
    (hinside : ∀ p, (ownerCtx s owner).map (fun c => (s.ctxAt c.val).part.toNat) = some p →
      descriptorInside s p (unitBytes s (ownerCtx s owner) a 64) = true) :
    let w := unitBytes s (ownerCtx s owner) a 64
    ∃ r, OnlyLookups s r ∧ applyArm s u i owner none a = r.setSlot u i { slotArmed (s.slotAt u i) owner s.time with
      state := 1, desc := w, releasedBefore := tabGet 0 (s.ecAt (semEc (dSema w))).released (semNum (dSema w)) } := by
  intro w
  obtain ⟨r, hlooked, hread⟩ := descriptorRead hfault h64 hsteady
  refine ⟨r, hlooked.only, ?_⟩
  rw [applyArm_of_good hread hok fun p hp => by rw [descriptorInside_of_onlyLookups hlooked.only]; exact hinside p hp,
    released_of_onlyLookups hlooked.only]

theorem applyArm_fault (hbad : descriptorOk u (unitBytes s (ownerCtx s owner) a 64) = false) :
    ∃ r, OnlyLookups s r ∧ r.slots = s.slots ∧
      applyArm s u i owner none a = armFault r u i (slotArmed (s.slotAt u i) owner s.time) owner 0x4006 a := by
  obtain ⟨r, hlooked, hread⟩ := descriptorRead hfault h64 hsteady
  exact ⟨r, hlooked.only, hlooked.slots_eq, applyArm_of_bad hread hbad⟩

end free

end Sys2Proof.Machine
end

section
/-!
What O59 asks of the values that the model leaves open. ARM of a free slot reads the 128-byte line of its descriptor, and a correction in the other
half of that line draws a free value before the descriptor's half is judged. So `StreamRegisterWrites` holds where every line of four or more
bad symbols is reported (`taskAndStreamRegisters_of_allReported`), and where it holds, a line judged "not reported" for one free value is not reported
for the next (`nextOpen_of_taskAndStreamRegisters`). `Config.freeValue` is opaque, so neither O59 nor its negation follows.
-/

namespace Sys2Proof.Machine

open Sys2Proof.Claims

/-! ### Where every open error is reported -/

/-- Every line of four or more bad symbols is judged uncorrectable, whatever the free value that judges it. -/
def AllReported : Prop := ∀ n, (Config.freeValue n).toNat % 3 = 0

theorem steadyErrors_of_allReported (h : AllReported) (s : State) (a : Nat) : SteadyErrors s a := by
  intro l _ _
  have hverdict : openVerdict s l = 0 := h _
  exact ⟨by rw [hverdict]; exact Nat.zero_ne_one, fun n _ => (h _).trans hverdict.symm⟩

/-- ARM and CANCEL, with the errors of every descriptor's line steady. -/
theorem streamRegisterWrites_of_steadyErrors (hsteady : ∀ s a, SteadyErrors s a) : StreamRegisterWrites := by
  intro s who u i x owner part a w inside Others Only isFree occupied hhost hr
  have harm := streamArm_gives hhost hr
  have hcancel := streamCancel_gives hhost hr
  refine ⟨fun hfree hfault => ?free, fun hocc hpend => ?rearm, fun hocc hpend => ?second, fun hstate hcmd => ?cancelArmed,
    fun hstate => ?cancelRunning, fun hfree => ?cancelFree⟩
  case free =>
    have hslotFree : slotFree (s.slotAt u.val i.val) = true := (slotFree_iff _).mpr hfree
    have happly : slotArm s u.val i.val owner = applyArm s u.val i.val owner none a := slotArm_of_free hslotFree owner
    rw [happly] at harm
    refine ⟨fun hok hinside => ?_, fun hbad => ?_⟩
    · obtain ⟨r, hlooked, harmed⟩ := applyArm_armed (i := i.val) hfault (slotAddr_mod x) (hsteady s a) hok hinside
      have hslots : r.slots = s.slots := by rw [hlooked.1]
      rw [harmed] at harm
      refine ⟨r, _, harm, hlooked, rfl, fun n hn => ?_, slotAt_setSlot ..⟩
      rw [setSlot_othersStand r u.val i.val _ n hn, hslots]
    · obtain ⟨r, hlooked, hslots, hended⟩ := applyArm_fault (i := i.val) hfault (slotAddr_mod x) (hsteady s a) hbad
      obtain ⟨hframe, hothers, hlogs, hstate, hcode⟩ :=
        armFault_spec (s := r) (u := u.val) (i := i.val) (x := slotArmed (s.slotAt u.val i.val) owner s.time) rfl owner a
      rw [hended] at harm
      exact ⟨r, _, harm, hlooked, hframe, fun n hn => by rw [hothers n hn, hslots], hlogs, hstate, hcode⟩
  case rearm =>
    rw [slotArm_of_pending (slotFree_of_occupied hocc) hpend] at harm
    exact ⟨_, harm, ⟨rfl, setSlot_othersStand _ _ _ _⟩, slotAt_setSlot ..⟩
  case second =>
    rw [slotArm_of_second (slotFree_of_occupied hocc) hpend] at harm
    have hlogged := logged_arm (s := s) (u := u.val) (i := i.val) (x := { x with code := 0x4008 })
      (.inr (faultRec_code s owner 0x4008 (slotAddr x))) rfl
    rw [faultRec_code] at hlogged
    exact ⟨_, harm, hlogged⟩
  case cancelArmed =>
    rw [slotCancel_of_armed hstate hcmd] at hcancel
    exact ⟨_, hcancel, ⟨rfl, setSlot_othersStand _ _ _ _⟩, slotAt_setSlot ..⟩
  case cancelRunning => exact ⟨_, hcancel, slotCancel_of_running hstate⟩
  case cancelFree =>
    rw [slotCancel_of_free ((slotFree_iff _).mpr hfree)] at hcancel
    exact hcancel

/-- O59 under a condition on the open values, which the model does not give: this does not settle it. -/
theorem taskAndStreamRegisters_of_allReported (h : AllReported) : Obligations.TaskAndStreamRegisters :=
  ⟨walkerAndTaskRegisterWrites, streamRegisterWrites_of_steadyErrors fun s a => steadyErrors_of_allReported h s a⟩

/-! ### A line that is judged anew -/

/-- The bytes of a descriptor that its checks pass, apart from zeros: TILE_BYTES 64, one tile, an absolute deadline, and no semaphores. -/
def plainDescriptor : List Host.Cell :=
  [(0x3041, 0x10), (0x3049, 0x80), (0x3050, 64), (0x3054, 1), (0x3067, 1), (0x3071, 0x80), (0x3073, 0x80)]

/-- Slot 0 of EC 0 names the descriptor in the upper half of a line of HBM. That half has four bad symbols, and the lower half one. The context
that arms is FAULTED, so that a fault of the read changes nothing but its code. -/
def drifting : State :=
  { State.reset with
    power := { groupPll := 0xFFFF, diePll := 0xF, hubPll := true }
    hbmWindows := [(0, { valid := true, trained := true })]
    partitions := [(0, { active := true, hbm := 1, ecs := [(0, 1)] })]
    contexts := [(0, { state := 6 })]
    stewards := [(0, { run := .running, pl := 0, bound := true })]
    mem := plainDescriptor
    bad := [(0xC0, 1), (0xC1, 4)]
    slots := [(0, { addrLo := 0xC1 })] }

/-- The state in which the descriptor's half is judged: its line is looked up, and the lower half corrected. -/
def driftingCorrected : State := (tierRead (bumpCache drifting 0 1) 0x3000).2

theorem driftingCorrected_spec : (tierRead (bumpCache drifting 0 1) 0x3000).1 = false ∧ tabGet 0 driftingCorrected.bad 0xC1 = 4 ∧
    driftingCorrected.free = 1 := by
  decide +kernel

theorem rangeFault_drifting (h : (Config.freeValue 0xC1).toNat % 3 ≠ 0) : rangeFault drifting (some 0) 0x3040 64 false = none := by
  have hlower : lineUncorrectable drifting (some 0) 0x3000 = false := by decide +kernel
  have hupper : lineUncorrectable drifting (some 0) 0x3040 = false := by
    have hverdict : openVerdict drifting (lineOf 0x3040) ≠ 0 := h
    have hbad : tabGet 0 drifting.bad (lineOf 0x3040) = 4 := by decide
    simp [lineUncorrectable, hbad, hverdict]
  have hhalves : tierHalves drifting (some 0) false (0x3040 / 128) 0x3040 64 false = [0x3000, 0x3040] := by decide +kernel
  have hcode : accessCode drifting (some 0) 0x3040 = 0 := by decide +kernel
  have hsram : sramError drifting 0x3040 (partOf 0x3040 64 (0x3040 / 64 * 64)).2 = 0 := by decide +kernel
  have hbad : badHalf drifting (some 0) false 0x3040 64 false 0x3040 = none := by simp [badHalf, hhalves, hlower, hupper]
  simp [rangeFault, lineCount, List.range_succ, lineStart, hcode, hsram, hbad]

/-- The descriptor is read from memory where its half is not corrected to wrong data. -/
theorem unitBytes_drifting (h : (Config.freeValue 0xC1).toNat % 3 ≠ 1) :
    unitBytes drifting (some 0) 0x3040 64 = unitBytes { drifting with bad := [] } (some 0) 0x3040 64 := by
  refine unitBytes_congr 64 fun b hlo hhi => ?_
  have hline : lineOf b = 0xC1 := by unfold lineOf; omega
  have hbyte : byteAt drifting b = cellGet drifting.mem b := if_neg fun ⟨_, hverdict, _⟩ => h (by rw [hline] at hverdict; exact hverdict)
  have hplain : byteAt { drifting with bad := [] } b = cellGet drifting.mem b := if_neg fun ⟨h4, _, _⟩ => absurd h4 (by simp [tabGet])
  rw [unitByte, unitByte, hbyte, hplain]
  rfl

/-- The look-up of the descriptor's line meets its half as uncorrectable once the lower half is corrected. -/
theorem spanUse_drifting (h : (Config.freeValue 0xC2).toNat % 3 = 0) : (spanUse drifting (some 0) false 0x3040 64 false).1 = some 0x3040 := by
  obtain ⟨hlower, hbad, hfree⟩ := driftingCorrected_spec
  have hverdict : openVerdict driftingCorrected 0xC1 = 0 := by rw [openVerdict, hfree]; exact h
  have hupper : (tierRead driftingCorrected 0x3040).1 = true := by
    have hiff := tierRead_fst_iff driftingCorrected 0x3040
    rw [show lineOf 0x3040 = 0xC1 from rfl, hbad, hverdict] at hiff
    simpa using hiff
  have hhome : homeDie drifting (0x3040 / 128 * 128) = some 0 := by decide +kernel
  have hmiss : cacheFind drifting 0 (some 0) (0x3040 / 128) = none := by decide +kernel
  have hhalves : halvesRead (0x3040 / 128) 0x3040 64 false (missFills drifting (some 0) false false 0 (0x3040 / 128)) = [0x3000, 0x3040] := by
    decide +kernel
  have hread : (readHalves (bumpCache drifting 0 1) [0x3000, 0x3040]).1 = some 0x3040 := by
    have hlast : (readHalves driftingCorrected [0x3040]).1 = some 0x3040 := by simp only [readHalves, hupper, if_true]
    rw [readHalves, hlower]
    exact hlast
  rw [spanUse_aligned rfl, lineUse, hhome]
  simp only [hmiss, hhalves, hread]

theorem uReadUse_drifting (hopen : (Config.freeValue 0xC1).toNat % 3 ≠ 0) (hreported : (Config.freeValue 0xC2).toNat % 3 = 0) :
    uReadUse drifting (armReq drifting (.context 0)) 0x3040 64 = .error (0x4001, 0x3040) := by
  have hfault : rangeFault drifting (armReq drifting (.context 0)).part 0x3040 64 false false = none := rangeFault_drifting hopen
  have hspan : (spanUse drifting (armReq drifting (.context 0)).part false 0x3040 64 false).1 = some 0x3040 := spanUse_drifting hreported
  have hmeets : accessMeets drifting (armReq drifting (.context 0)) 0x3040 64 false = none := by
    rw [accessMeets, show (armReq drifting (.context 0)).noAllocate = false from rfl, hfault]
    rfl
  simp only [uReadUse, hmeets, show (armReq drifting (.context 0)).noAllocate = false from rfl, hspan]
  rfl

/-- A fault of the descriptor's read in the tier is the fault of a stream. -/
theorem applyArm_of_tierError {s : State} {u i a x : Nat} {owner : Owner} (hread : uReadUse s (armReq s owner) a 64 = .error (0x4001, x)) :
    applyArm s u i owner none a = slotFault (s.setSlot u i { slotArmed (s.slotAt u i) owner s.time with state := 1 }) u i (0x4001, x) := by
  unfold applyArm
  extract_lets before y q fault
  have hq : ({ q with waits := false } : Req) = armReq s owner := rfl
  rw [hq, hread]
  exact if_neg (show ¬((0x4001 : Code) = 0x4004 ∨ (0x4001 : Code) = 0x4005) by decide)

/-- The fault of a stream of a context that is FAULTED already leaves the slots. -/
theorem slotFault_slots_of_faulted {s : State} {u i : Nat} {c : Fin 64} (howner : (s.slotAt u i).owner = .context c)
    (hstate : (s.ctxAt c.val).state = 6) (a : Nat) : (slotFault s u i (0x4001, a)).slots = s.slots := by
  have hctx : ownerCtx s (.context c) = some c := rfl
  have hlogged := logWrite_frame s (faultRec s (.context c) 0x4001 a)
  rw [slotFault, if_neg (show (0x4001 : Code) ≠ codeHeld by decide)]
  simp only [howner, hctx, Option.isSome_some, if_true, memoryFault]
  generalize logWrite s (faultRec s (.context c) 0x4001 a) = l at hlogged
  have hslots : l.slots = s.slots := by rw [hlogged]
  have hfaulted : (l.ctxAt c.val).state = 6 := by rw [hlogged]; exact hstate
  unfold teardown
  dsimp only
  rw [if_pos hfaulted]
  split
  · exact hslots
  · exact hslots

/-- The conditions of ARM's first clause, apart from those on free values. -/
theorem drifting_spec : Reaches drifting (.steward 0) (slotOffset 0 0 0x8) ∧ agentOwner drifting (.steward 0) = .context 0 ∧
    descriptorOk 0 (unitBytes { drifting with bad := [] } (some 0) 0x3040 64) = true ∧
    descriptorInside drifting 0 (unitBytes { drifting with bad := [] } (some 0) 0x3040 64) = true ∧
    unitBytes { drifting with bad := [] } (some 0) 0x3040 64 ≠ [] := by
  unfold Reaches
  decide +kernel

theorem slotAddr_drifting : slotAddr (drifting.slotAt 0 0) = 0x3040 := by decide

/-- ARM gives a slot that keeps the descriptor it had, none. -/
theorem streamArm_drifting (hopen : (Config.freeValue 0xC1).toNat % 3 ≠ 0) (hreported : (Config.freeValue 0xC2).toNat % 3 = 0) {t : State}
    (hgives : Gives (.streamArm (.steward 0) 0 0 false) drifting t) : (t.slotAt 0 0).desc = [] := by
  obtain ⟨hreach, howner, -⟩ := drifting_spec
  have hslot : (drifting.setSlot 0 0 { slotArmed (drifting.slotAt 0 0) (.context 0) drifting.time with state := 1 }).slotAt 0 0 =
      { slotArmed (drifting.slotAt 0 0) (.context 0) drifting.time with state := 1 } := slotAt_setSlot ..
  have harm : slotArm drifting 0 0 (.context 0) = applyArm drifting 0 0 (.context 0) none 0x3040 := by
    rw [slotArm_of_free (by decide), slotAddr_drifting]
  have ht : t = slotArm drifting 0 0 (agentOwner drifting (.steward 0)) := by
    simpa using hgives.symm.trans (streamArm_gives (u := 0) (i := 0) rfl hreach)
  rw [ht, howner, harm, applyArm_of_tierError (uReadUse_drifting hopen hreported), State.slotAt,
    slotFault_slots_of_faulted (c := 0) (by rw [hslot]; rfl) rfl, ← State.slotAt, hslot]
  rfl

/-- The first clause of `StreamRegisterWrites`, for the descriptor that the slot gets. -/
theorem descriptor_of_streamRegisterWrites (h : StreamRegisterWrites) {s : State} {who : Agent} {u : Fin 131} {i c : Fin 64}
    (hhost : isHost who = false) (hr : Reaches s who (slotOffset u.val i.val 0x8)) (howner : agentOwner s who = .context c)
    (hfree : (s.slotAt u.val i.val).state = 0)
    {a : Nat} (ha : slotAddr (s.slotAt u.val i.val) = a) (hfault : rangeFault s (some (s.ctxAt c.val).part.toNat) a 64 false = none)
    (hok : descriptorOk u.val (unitBytes s (some c) a 64) = true)
    (hinside : descriptorInside s (s.ctxAt c.val).part.toNat (unitBytes s (some c) a 64) = true) :
    ∃ t, Gives (.streamArm who u i false) s t ∧ (t.slotAt u.val i.val).desc = unitBytes s (some c) a 64 := by
  subst ha
  have hctx : ownerCtx s (agentOwner s who) = some c := by rw [howner]; rfl
  have harm := (h s who u i hhost hr).1 (.inl hfree)
  rw [hctx] at harm
  obtain ⟨r, t, hgives, -, -, -, hslot⟩ := (harm hfault).1 hok fun p hp => by
    obtain rfl : _ = p := Option.some.inj hp
    exact hinside
  exact ⟨t, hgives, by rw [hslot]; rfl⟩

/-- What O59 would say of the values that the model leaves open: a line that is not reported, and not corrected to wrong data, is not reported
once one free value more is drawn. -/
theorem nextOpen_of_taskAndStreamRegisters (h : Obligations.TaskAndStreamRegisters) (hopen : (Config.freeValue 0xC1).toNat % 3 = 2) :
    (Config.freeValue 0xC2).toNat % 3 ≠ 0 := by
  intro hreported
  obtain ⟨hreach, howner, hok, hinside, hne⟩ := drifting_spec
  have hbytes := unitBytes_drifting (by omega)
  obtain ⟨t, hgives, hdesc⟩ := descriptor_of_streamRegisterWrites h.2 (u := 0) (i := 0) rfl hreach howner (by decide) slotAddr_drifting
    (rangeFault_drifting (by omega)) (by rw [hbytes]; exact hok) (by rw [hbytes]; exact hinside)
  have hnone : (t.slotAt 0 0).desc = [] := streamArm_drifting (by omega) hreported hgives
  exact hne (hbytes.symm.trans (hdesc.symm.trans hnone))

end Sys2Proof.Machine
end

section
/-!
What look-ups, stores and log records leave of the commands and of the dragomans (02_package R38, R43, R48, R49; 07_kv R210).
-/

namespace Sys2Proof.Machine

open Sys2Proof.Claims

/-! ### Values and faults -/

theorem got_bind_eq_ok {α β : Type} {x : Got α} {f : α → Got β} {b : β} : (x >>= f) = .ok b ↔ ∃ a, x = .ok a ∧ f a = .ok b := by
  cases x <;> simp [bind, Except.bind]

theorem got_map_eq_ok {α β : Type} {x : Got α} {f : α → β} {b : β} : x.map f = .ok b ↔ ∃ a, x = .ok a ∧ f a = b := by
  cases x <;> simp [Except.map]

/-- What every step of a fold keeps, the fold keeps. -/
theorem foldGot_keeps {β ι : Type} {P : β → Prop} {f : β → ι → Got β} (hf : ∀ b i b', P b → f b i = .ok b' → P b') (l : List ι) :
    ∀ {b b' : β}, P b → foldGot f b l = .ok b' → P b' := by
  induction l with
  | nil => exact fun hb h => by cases h; exact hb
  | cons i r ih =>
    intro b b' hb h
    rw [foldGot] at h
    split at h
    · cases h
    next b1 h1 => exact ih (hf b i b1 hb h1) h

/-! ### The frame -/

/-- What a die's dragoman holds: its contexts, its scan jobs and the number of its waves. -/
def Die.dragoman (x : Die) : Tab DrgCtx × Tab ScanJob × Nat := (x.drgCtxs, x.drgJobs, x.drgWaves)

theorem drgCtx_of_dragoman {s t : State} {d : Nat} (h : (t.dieAt d).dragoman = (s.dieAt d).dragoman) (cx : Nat) : drgCtx t d cx = drgCtx s d cx := by
  rw [drgCtx, show (t.dieAt d).drgCtxs = (s.dieAt d).drgCtxs from congrArg Prod.fst h, drgCtx]

/-- The contexts, the records of commands and the dragomans stand. -/
structure KeepsCommands (s t : State) : Prop where
  contexts : t.contexts = s.contexts
  hubMacros : t.hubMacros = s.hubMacros
  macros : ∀ d, (t.dieAt d).macros = (s.dieAt d).macros
  dragoman : ∀ d, (t.dieAt d).dragoman = (s.dieAt d).dragoman

namespace KeepsCommands

variable {s t u : State}

theorem refl (s : State) : KeepsCommands s s := ⟨rfl, rfl, fun _ => rfl, fun _ => rfl⟩

theorem trans (h : KeepsCommands s t) (h' : KeepsCommands t u) : KeepsCommands s u where
  contexts := h'.contexts.trans h.contexts
  hubMacros := h'.hubMacros.trans h.hubMacros
  macros d := (h'.macros d).trans (h.macros d)
  dragoman d := (h'.dragoman d).trans (h.dragoman d)

theorem of_dies_eq (hctx : t.contexts = s.contexts) (hhub : t.hubMacros = s.hubMacros) (hdies : t.dies = s.dies) : KeepsCommands s t := by
  have hdie : ∀ d, t.dieAt d = s.dieAt d := fun d => by rw [State.dieAt, State.dieAt, hdies]
  exact ⟨hctx, hhub, fun d => by rw [hdie], fun d => by rw [hdie]⟩

theorem of_afterLookups (h : AfterLookups s t) : KeepsCommands s t := by
  obtain ⟨hframe, hdies, -⟩ := h.only
  exact ⟨by rw [hframe], by rw [hframe], fun d => by rw [hdies d], fun d => by rw [hdies d]; rfl⟩

theorem modDie {f : Die → Die} (hmacros : ∀ x, (f x).macros = x.macros) (hdrg : ∀ x, (f x).dragoman = x.dragoman) (s : State) (d : Nat) :
    KeepsCommands s (s.modDie d f) := by
  refine ⟨rfl, rfl, dieAt_modDie_macros hmacros s d, fun i => ?_⟩
  obtain rfl | hi := eq_or_ne i d
  · rw [dieAt_modDie, hdrg]
  · rw [dieAt_modDie_ne _ _ _ _ hi]

theorem foldl {ι : Type} {f : State → ι → State} (hf : ∀ t i, KeepsCommands t (f t i)) (l : List ι) (s : State) :
    KeepsCommands s (l.foldl f s) :=
  l.foldlRecOn f (motive := KeepsCommands s) (.refl s) fun _ ht _ _ => ht.trans (hf _ _)

theorem foldGot {ι : Type} {f : State → ι → Got State} (hf : ∀ t i u, f t i = .ok u → KeepsCommands t u) {l : List ι}
    (h : Machine.foldGot f s l = .ok t) : KeepsCommands s t :=
  foldGot_keeps (P := KeepsCommands s) (fun u i v hu hv => hu.trans (hf u i v hv)) l (.refl s) h

theorem macrosOf_eq (h : KeepsCommands s t) (port : Nat) : macrosOf t port = macrosOf s port := by
  unfold macrosOf
  rw [h.macros, h.hubMacros]

theorem macroAt_eq (h : KeepsCommands s t) (port acc : Nat) : macroAt t port acc = macroAt s port acc := by
  rw [macroAt, h.macrosOf_eq, macroAt]

theorem drgCtxs_eq (h : KeepsCommands s t) (d : Nat) : (t.dieAt d).drgCtxs = (s.dieAt d).drgCtxs := congrArg Prod.fst (h.dragoman d)

theorem drgJobs_eq (h : KeepsCommands s t) (d : Nat) : (t.dieAt d).drgJobs = (s.dieAt d).drgJobs :=
  congrArg (fun p => p.2.1) (h.dragoman d)

theorem drgCtx_eq (h : KeepsCommands s t) (d cx : Nat) : drgCtx t d cx = drgCtx s d cx := drgCtx_of_dragoman (h.dragoman d) cx

theorem reqOf_eq (h : KeepsCommands s t) (r : MacroRec) : reqOf t r = reqOf s r := by
  simp only [reqOf, State.ctxAt, h.contexts]

end KeepsCommands

/-! ### Stores and log records -/

theorem logWrite_keepsCommands (s : State) (r : LogRec) : KeepsCommands s (logWrite s r) := .of_afterLookups (logWrite_afterLookups ..)

theorem logWrite_mem (s : State) (r : LogRec) : (logWrite s r).mem = s.mem := (logWrite_afterLookups ..).mem_eq

theorem memWrite_keepsCommands (s : State) (p : Option Nat) (na : Bool) (a : Nat) (bs : List Byte) : KeepsCommands s (memWrite s p na a bs).2 := by
  have hlooked := KeepsCommands.of_afterLookups (spanUse_afterLookups s p na a bs.length true)
  unfold memWrite
  dsimp only
  split
  · exact hlooked
  · exact hlooked.trans (.of_dies_eq rfl rfl rfl)

theorem storeOpen_keepsCommands (s : State) (q : Req) (a : Nat) (bs : List Byte) : KeepsCommands s (storeOpen s q a bs).2 := by
  unfold storeOpen
  split
  · exact .of_afterLookups (countBlocked_afterLookups ..)
  · exact memWrite_keepsCommands ..

theorem storeCut_keepsCommands (s : State) (q : Req) (a : Nat) (bs : List Byte) : KeepsCommands s (storeCut s q a bs).2 := by
  unfold storeCut
  dsimp only
  split
  · exact (storeOpen_keepsCommands ..).trans (storeOpen_keepsCommands ..)
  · exact storeOpen_keepsCommands ..

theorem uWrite_keepsCommands {s t : State} {q : Req} {a : Nat} {bs : List Byte} (h : uWrite s q a bs = .ok t) : KeepsCommands s t := by
  unfold uWrite at h
  dsimp only at h
  split at h
  · cases h
  · split at h
    · cases h
    · cases h
      exact storeCut_keepsCommands ..

theorem uWriteNat_keepsCommands {s t : State} {q : Req} {a n v : Nat} (h : uWriteNat s q a n v = .ok t) : KeepsCommands s t :=
  uWrite_keepsCommands h

theorem hubStore_keepsCommands (s : State) (q : Req) (a : Nat) (bs : List Byte) : KeepsCommands s (hubStore s q a bs) := by
  unfold hubStore storeNow logFault
  split
  · exact .of_dies_eq rfl rfl rfl
  · split
    · exact logWrite_keepsCommands ..
    · dsimp only
      split
      · exact (storeCut_keepsCommands ..).trans (logWrite_keepsCommands ..)
      · exact storeCut_keepsCommands ..

/-! ### Reads -/

theorem readUse_afterLookups (s : State) (q : Req) (a n : Nat) : AfterLookups s (readUse s q a n) := by
  unfold readUse
  split
  · exact .refl s
  · exact (spanUse_afterLookups ..).trans (countReads_afterLookups ..)

theorem readsUse_afterLookups (s : State) (q : Req) (l : List (Nat × Nat)) : AfterLookups s (readsUse s q l) :=
  l.foldlRecOn _ (motive := AfterLookups s) (.refl s) fun _ ht _ _ => ht.trans (readUse_afterLookups ..)

/-- One look-up of the walker leaves memory, the commands and the dragomans. -/
theorem labUse_keeps (s : State) (q : Req) (die : Nat) (v : KvTable) (p c k : Nat) :
    KeepsCommands s (labUse s q die v p c k) ∧ (labUse s q die v p c k).mem = s.mem := by
  have hdie : ∀ (t : State) (n : Nat) (l : List LabEntry),
      KeepsCommands t (t.setDie die { t.dieAt die with labClock := n, lab := l }) := fun t n l =>
    .modDie (f := fun x => { x with labClock := n, lab := l }) (fun _ => rfl) (fun _ => rfl) t die
  have hbump : ∀ (t : State) (i : Nat), KeepsCommands t (bumpWalker t die i) := fun t i => .modDie (fun _ => by rfl) (fun _ => by rfl) t die
  unfold labUse
  dsimp only
  split
  · exact ⟨(hdie ..).trans (hbump ..), rfl⟩
  · split
    · exact ⟨hbump .., rfl⟩
    · exact ⟨(hbump ..).trans ((KeepsCommands.of_afterLookups (readsUse_afterLookups ..)).trans (hdie ..)), (readsUse_afterLookups ..).mem_eq⟩

theorem labUseAll_keeps (s : State) (q : Req) (die : Nat) (v : KvTable) (ns : List (Nat × Nat × Nat)) :
    KeepsCommands s (labUseAll s q die v ns) ∧ (labUseAll s q die v ns).mem = s.mem :=
  ns.foldlRecOn _ (motive := fun t => KeepsCommands s t ∧ t.mem = s.mem) ⟨.refl s, rfl⟩ fun t ht n _ =>
    have hn := labUse_keeps t q die v n.1 n.2.1 (n.2.2 / 4096)
    ⟨ht.1.trans hn.1, hn.2.trans ht.2⟩

/-- The look-ups of a block of SELECT_BALES. -/
theorem blockLookups_keeps (s : State) (die : Nat) (x : DrgCtx) (r : MacroRec) (ns : SelectCmd → List Nat) :
    KeepsCommands s (blockLookups s die x r ns) ∧ (blockLookups s die x r ns).mem = s.mem := by
  unfold blockLookups
  dsimp only
  split
  · exact ⟨.refl s, rfl⟩
  · split
    · exact ⟨.refl s, rfl⟩
    · split
      · exact ⟨.refl s, rfl⟩
      · exact labUseAll_keeps ..

/-- A query of SEARCH has no bundles to look up. -/
theorem blockLookups_of_search {x : DrgCtx} (h : x.select = false) (s : State) (die : Nat) (r : MacroRec) (ns : SelectCmd → List Nat) :
    blockLookups s die x r ns = s := by
  simp [blockLookups, h]

end Sys2Proof.Machine
end

section
/-!
The contexts and the scan jobs of a dragoman (08_dragoman R236, R237, R253, R268): what their updates give back and leave alone.
-/

namespace Sys2Proof.Machine

open Sys2Proof.Claims

/-! ### Records of commands beside the dragoman -/

/-- The records of commands stand. -/
structure SameRecords (s t : State) : Prop where
  macrosOf_eq : ∀ port, macrosOf t port = macrosOf s port

theorem SameRecords.refl (s : State) : SameRecords s s := ⟨fun _ => rfl⟩

theorem SameRecords.trans {s t u : State} (h : SameRecords s t) (h' : SameRecords t u) : SameRecords s u :=
  ⟨fun port => (h'.macrosOf_eq port).trans (h.macrosOf_eq port)⟩

theorem SameRecords.foldl {ι : Type} {f : State → ι → State} (hf : ∀ t i, SameRecords t (f t i)) (l : List ι) (s : State) :
    SameRecords s (l.foldl f s) :=
  l.foldlRecOn f (motive := SameRecords s) (.refl s) fun _ ht _ _ => ht.trans (hf _ _)

theorem SameRecords.modDie {f : Die → Die} (hf : ∀ x, (f x).macros = x.macros) (s : State) (d : Nat) : SameRecords s (s.modDie d f) :=
  ⟨macrosOf_modDie hf s d⟩

theorem SameRecords.macroAt_eq {s t : State} (h : SameRecords s t) (port acc : Nat) : macroAt t port acc = macroAt s port acc := by
  rw [macroAt, h.macrosOf_eq, macroAt]

theorem KeepsCommands.sameRecords {s t : State} (h : KeepsCommands s t) : SameRecords s t := ⟨h.macrosOf_eq⟩

/-- A record that is written leaves the dragomans. -/
theorem setMacro_dragoman (s : State) (port : Nat) (r : MacroRec) (d : Nat) : ((setMacro s port r).dieAt d).dragoman = (s.dieAt d).dragoman := by
  unfold setMacro setMacros
  split
  · obtain rfl | hd := eq_or_ne d port
    · rw [dieAt_modDie]; rfl
    · rw [dieAt_modDie_ne _ _ _ _ hd]
  · rfl

theorem setMacro_drgCtx (s : State) (port : Nat) (r : MacroRec) (d cx : Nat) : drgCtx (setMacro s port r) d cx = drgCtx s d cx :=
  drgCtx_of_dragoman (setMacro_dragoman s port r d) cx

/-- A record that is written leaves those under other acceptance numbers. -/
theorem macroAt_setMacro_ne (s : State) (port : Nat) {r : MacroRec} {b : Nat} (h : b ≠ r.acc) :
    macroAt (setMacro s port r) port b = macroAt s port b := by
  rw [macroAt, setMacro, macrosOf_setMacros, List.find?_map, macroAt]
  have hsame : ((fun x => x.acc == b) ∘ fun x : MacroRec => if x.acc == r.acc then r else x) = fun x => x.acc == b := by
    funext x
    by_cases hx : x.acc = r.acc <;> simp [hx]
  rw [hsame]
  cases hfound : (macrosOf s port).find? fun x => x.acc == b with
  | none => rfl
  | some x =>
    have hx : x.acc = b := acc_of_macroAt hfound
    simp [hx, h]

/-! ### Contexts -/

section contexts

variable (s : State) (d : Nat)

@[simp] theorem setDrgCtx_mem (cx : Nat) (x : DrgCtx) : (setDrgCtx s d cx x).mem = s.mem := rfl

@[simp] theorem setDrgCtx_drgCtxs (cx : Nat) (x : DrgCtx) : ((setDrgCtx s d cx x).dieAt d).drgCtxs = tabSet (s.dieAt d).drgCtxs cx x := by
  rw [setDrgCtx, dieAt_modDie]

@[simp] theorem setDrgCtx_drgJobs (cx : Nat) (x : DrgCtx) : ((setDrgCtx s d cx x).dieAt d).drgJobs = (s.dieAt d).drgJobs := by
  rw [setDrgCtx, dieAt_modDie]

@[simp] theorem setDrgCtx_drgWaves (cx : Nat) (x : DrgCtx) : ((setDrgCtx s d cx x).dieAt d).drgWaves = (s.dieAt d).drgWaves := by
  rw [setDrgCtx, dieAt_modDie]

@[simp] theorem drgCtx_setDrgCtx (cx : Nat) (x : DrgCtx) : drgCtx (setDrgCtx s d cx x) d cx = x := by
  rw [drgCtx, setDrgCtx_drgCtxs, tabGet_tabSet_same]

theorem drgCtx_setDrgCtx_ne {cx i : Nat} (x : DrgCtx) (h : i ≠ cx) : drgCtx (setDrgCtx s d cx x) d i = drgCtx s d i := by
  rw [drgCtx, setDrgCtx_drgCtxs, tabGet_tabSet_ne _ _ _ _ _ h, drgCtx]

theorem setDrgCtx_sameRecords (cx : Nat) (x : DrgCtx) : SameRecords s (setDrgCtx s d cx x) := .modDie (fun _ => by rfl) ..

/-- A context that is not as a FREE one stands in the table. -/
theorem mem_drgCtxs_of_state {cx : Nat} (h : (drgCtx s d cx).state ≠ 0) : (cx, drgCtx s d cx) ∈ (s.dieAt d).drgCtxs := by
  unfold drgCtx at h ⊢
  revert h
  induction (s.dieAt d).drgCtxs with
  | nil => exact fun h => absurd rfl h
  | cons e t ih =>
    obtain ⟨j, v⟩ := e
    intro h
    by_cases hj : j = cx
    · simp [tabGet, hj]
    · simp only [tabGet, hj, if_false] at h ⊢
      exact List.mem_cons_of_mem _ (ih h)

end contexts

/-- An entry of a table stays where another number is written. -/
theorem mem_tabSet_of_ne {α : Type} {t : Tab α} {k : Nat} {v : α} {e : Nat × α} (he : e ∈ t) (hk : e.1 ≠ k) : e ∈ tabSet t k v := by
  induction t with
  | nil => cases he
  | cons x r ih =>
    obtain ⟨j, w⟩ := x
    simp only [tabSet]
    split
    next hj =>
      obtain rfl | he := List.mem_cons.mp he
      · exact absurd hj hk
      · exact List.mem_cons_of_mem _ he
    next hj =>
      split
      · exact List.mem_cons_of_mem _ he
      · obtain rfl | he := List.mem_cons.mp he
        · exact List.mem_cons_self
        · exact List.mem_cons_of_mem _ (ih he)

/-- Contexts become what the list says, one after another. -/
def setDrgCtxs (s : State) (d : Nat) (l : List (Nat × DrgCtx)) : State := l.foldl (fun t e => setDrgCtx t d e.1 e.2) s

section lists

variable (s : State) (d : Nat) (l : List (Nat × DrgCtx))

theorem setDrgCtxs_frame : (setDrgCtxs s d l).mem = s.mem ∧ ((setDrgCtxs s d l).dieAt d).drgJobs = (s.dieAt d).drgJobs ∧
    ((setDrgCtxs s d l).dieAt d).drgWaves = (s.dieAt d).drgWaves :=
  l.foldlRecOn _ (motive := fun t : State => t.mem = s.mem ∧ (t.dieAt d).drgJobs = (s.dieAt d).drgJobs ∧
    (t.dieAt d).drgWaves = (s.dieAt d).drgWaves) ⟨rfl, rfl, rfl⟩ fun t ht e _ => by simpa using ht

theorem setDrgCtxs_sameRecords : SameRecords s (setDrgCtxs s d l) := .foldl (fun _ _ => setDrgCtx_sameRecords ..) l s

variable {l}

/-- With each number once in the list, each of its contexts is as the list says, and stands in the table so. -/
theorem setDrgCtxs_of_mem (hl : (l.map Prod.fst).Nodup) {e : Nat × DrgCtx} (he : e ∈ l) :
    drgCtx (setDrgCtxs s d l) d e.1 = e.2 ∧ e ∈ ((setDrgCtxs s d l).dieAt d).drgCtxs := by
  induction l generalizing s with
  | nil => cases he
  | cons x l ih =>
    rw [List.map_cons, List.nodup_cons] at hl
    obtain rfl | he := List.mem_cons.mp he
    · have hkeep : ∀ t : State, drgCtx t d e.1 = e.2 ∧ e ∈ (t.dieAt d).drgCtxs → ∀ y ∈ l,
          drgCtx (setDrgCtx t d y.1 y.2) d e.1 = e.2 ∧ e ∈ ((setDrgCtx t d y.1 y.2).dieAt d).drgCtxs := by
        intro t ⟨hctx, hmem⟩ y hy
        have hne : e.1 ≠ y.1 := fun h => hl.1 (h ▸ List.mem_map_of_mem hy)
        rw [drgCtx_setDrgCtx_ne _ _ _ hne, setDrgCtx_drgCtxs]
        exact ⟨hctx, mem_tabSet_of_ne hmem hne⟩
      exact l.foldlRecOn _ (motive := fun t => drgCtx t d e.1 = e.2 ∧ e ∈ (t.dieAt d).drgCtxs)
        ⟨drgCtx_setDrgCtx .., by rw [setDrgCtx_drgCtxs]; exact mem_tabSet_self ..⟩ fun t ht y hy => hkeep t ht y hy
    · exact ih _ hl.2 he

end lists

/-! ### Contexts in HALT and freed contexts (R237, R268) -/

section halts

variable (s : State) (d cx : Nat) (code : Code)

/-- The context in HALT and out of its jobs, before the command holds the code. -/
def haltedOnly : State :=
  (setDrgCtx s d cx { drgCtx s d cx with state := 7, fault := code, jobs := 0 }).modDie d fun x => { x with
    drgJobs := (x.drgJobs.map fun j => (j.1, { j.2 with ctxs := j.2.ctxs.filter fun y => y.val != cx })).filter fun j => j.2.ctxs != [] }

/-- The command, if its record stands, holds the code, which is logged. -/
def commandHolds (t : State) (acc : Nat) : State :=
  match macroAt t d acc with
  | some r => setMacro (logCommand t d r code) d (macroFault t r code)
  | none => t

theorem haltCtx_eq : haltCtx s d cx code = commandHolds d code (haltedOnly s d cx code) (drgCtx s d cx).acc := rfl

theorem commandHolds_frame (t : State) (acc : Nat) : (commandHolds d code t acc).mem = t.mem ∧
    ((commandHolds d code t acc).dieAt d).dragoman = (t.dieAt d).dragoman := by
  unfold commandHolds
  split
  · exact ⟨(setMacro_onlyMacros ..).mem_eq.trans (logWrite_mem ..), (setMacro_dragoman ..).trans ((logWrite_keepsCommands ..).dragoman d)⟩
  · exact ⟨rfl, rfl⟩

/-- Of the records only a fault may have changed. -/
theorem macroAt_commandHolds {t : State} {b : Nat} {y : MacroRec} (h : macroAt t d b = some y) (acc : Nat) :
    ∃ f, macroAt (commandHolds d code t acc) d b = some { y with fault := f } := by
  unfold commandHolds
  split
  next r hr =>
    have hlog : macroAt (logCommand t d r code) d b = some y := ((logWrite_keepsCommands ..).macroAt_eq ..).trans h
    by_cases hb : b = r.acc
    · obtain rfl : y = r := by
        rw [hb, acc_of_macroAt hr, hr] at h
        exact (Option.some.inj h).symm
      exact ⟨_, macroAt_setMacro hlog hb.symm⟩
    · exact ⟨y.fault, (macroAt_setMacro_ne (r := macroFault t r code) _ _ hb).trans hlog⟩
  · exact ⟨y.fault, h⟩

theorem haltCtx_mem : (haltCtx s d cx code).mem = s.mem := (commandHolds_frame ..).1

theorem haltCtx_drgWaves : ((haltCtx s d cx code).dieAt d).drgWaves = (s.dieAt d).drgWaves := by
  have h : ((haltCtx s d cx code).dieAt d).drgWaves = ((haltedOnly s d cx code).dieAt d).drgWaves :=
    congrArg (fun p => p.2.2) (commandHolds_frame d code (haltedOnly s d cx code) _).2
  rw [h, haltedOnly, dieAt_modDie]
  exact setDrgCtx_drgWaves ..

theorem drgCtx_haltCtx (i : Nat) : drgCtx (haltCtx s d cx code) d i =
    if i = cx then { drgCtx s d cx with state := 7, fault := code, jobs := 0 } else drgCtx s d i := by
  have h : drgCtx (haltCtx s d cx code) d i = drgCtx (haltedOnly s d cx code) d i :=
    drgCtx_of_dragoman (commandHolds_frame d code (haltedOnly s d cx code) _).2 i
  rw [h, drgCtx, haltedOnly, dieAt_modDie, setDrgCtx_drgCtxs, tabGet_tabSet]
  rfl

theorem haltCtx_halts : Halts (haltCtx s d cx code) d cx code := by
  simp only [Halts, drgCtx_haltCtx, if_true, and_self]

theorem macroAt_haltCtx {acc : Nat} {y : MacroRec} (h : macroAt s d acc = some y) :
    ∃ f, macroAt (haltCtx s d cx code) d acc = some { y with fault := f } := by
  have hrec : SameRecords s (haltedOnly s d cx code) := (setDrgCtx_sameRecords ..).trans (.modDie (fun _ => by rfl) ..)
  exact macroAt_commandHolds d code ((hrec.macroAt_eq ..).trans h) _

theorem drgCtxs_freeDrgCtx (y : Fin 2048) : ((freeDrgCtx s d y).dieAt d).drgCtxs = tabErase (s.dieAt d).drgCtxs y.val := by
  rw [freeDrgCtx, dieAt_modDie]

theorem freeDrgCtx_sameRecords (y : Fin 2048) : SameRecords s (freeDrgCtx s d y) := .modDie (fun _ => by rfl) ..

theorem drgCtx_freeDrgCtx (y : Fin 2048) : drgCtx (freeDrgCtx s d y) d y.val = {} := by
  rw [drgCtx, drgCtxs_freeDrgCtx]
  exact tabGet_of_not_mem fun e he => (mem_tabErase.mp he).2

end halts

/-! ### Scan jobs (R253, R254) -/

/-- A number above all of a table is written at its end. -/
theorem tabSet_of_above {α : Type} {t : Tab α} {k : Nat} (h : ∀ e ∈ t, e.1 < k) (v : α) : tabSet t k v = t ++ [(k, v)] := by
  induction t with
  | nil => rfl
  | cons e r ih =>
    have he : e.1 < k := h e List.mem_cons_self
    rw [tabSet, if_neg he.ne, if_neg (by omega), ih fun x hx => h x (List.mem_cons_of_mem _ hx), List.cons_append]

section jobs

variable {s : State} {d : Nat}

theorem addJob_sameRecords (s : State) (d : Nat) (j : ScanJob) : SameRecords s (addJob s d j) := .modDie (fun _ => by rfl) ..

theorem addJob_drgCtxs (s : State) (d : Nat) (j : ScanJob) : ((addJob s d j).dieAt d).drgCtxs = (s.dieAt d).drgCtxs := by
  rw [addJob, dieAt_modDie]

theorem drgCtx_addJob (s : State) (d : Nat) (j : ScanJob) (cx : Nat) : drgCtx (addJob s d j) d cx = drgCtx s d cx := by
  rw [drgCtx, addJob_drgCtxs, drgCtx]

theorem exists_mem_addJob (s : State) (d : Nat) (j : ScanJob) : ∃ e ∈ ((addJob s d j).dieAt d).drgJobs, e.2 = j := by
  rw [addJob, dieAt_modDie]
  exact ⟨_, mem_tabSet_self .., rfl⟩

/-- A job joins a rising table at its end. -/
theorem drgJobs_addJob (h : Rising (s.dieAt d).drgJobs) (j : ScanJob) :
    Rising ((addJob s d j).dieAt d).drgJobs ∧ ∃ n, ((addJob s d j).dieAt d).drgJobs = (s.dieAt d).drgJobs ++ [(n, j)] := by
  rw [addJob, dieAt_modDie]
  refine ⟨h.tabSet, _, tabSet_of_above (fun e he => ?_) j⟩
  cases hlast : (s.dieAt d).drgJobs.getLast? with
  | none => rw [List.getLast?_eq_none_iff.mp hlast] at he; cases he
  | some x =>
    obtain ⟨l, hl⟩ := List.getLast?_eq_some_iff.mp hlast
    rw [hl] at he
    have hbelow := (List.pairwise_append.mp (hl ▸ h)).2.2
    obtain he | he := List.mem_append.mp he
    · exact Nat.lt_succ_of_lt (hbelow e he x (List.mem_singleton_self x))
    · rw [List.mem_singleton.mp he]
      exact Nat.lt_succ_self _

/-- Jobs join a rising table one after another. -/
theorem drgJobs_foldl_addJob (js : List ScanJob) (h : Rising (s.dieAt d).drgJobs) :
    ∃ l, ((js.foldl (fun t j => addJob t d j) s).dieAt d).drgJobs = (s.dieAt d).drgJobs ++ l ∧ l.map Prod.snd = js := by
  induction js generalizing s with
  | nil => exact ⟨[], (List.append_nil _).symm, rfl⟩
  | cons j js ih =>
    obtain ⟨hrise, n, hn⟩ := drgJobs_addJob h j
    obtain ⟨l, hl, hjs⟩ := ih hrise
    exact ⟨(n, j) :: l, by rw [List.foldl_cons, hl, hn, List.append_assoc]; rfl, by rw [List.map_cons, hjs]⟩

theorem foldl_addJob_frame (s : State) (d : Nat) (js : List ScanJob) : (js.foldl (fun t j => addJob t d j) s).mem = s.mem ∧
    ((js.foldl (fun t j => addJob t d j) s).dieAt d).drgCtxs = (s.dieAt d).drgCtxs :=
  js.foldlRecOn _ (motive := fun t : State => t.mem = s.mem ∧ (t.dieAt d).drgCtxs = (s.dieAt d).drgCtxs) ⟨rfl, rfl⟩ fun _ ht _ _ =>
    ⟨ht.1, (addJob_drgCtxs ..).trans ht.2⟩

/-- A context with one job fewer. -/
def oneJobLess (d : Nat) (s : State) (y : Fin 2048) : State := setDrgCtx s d y.val { drgCtx s d y.val with jobs := (drgCtx s d y.val).jobs - 1 }

theorem endJob_eq (s : State) (d key : Nat) (j : ScanJob) : endJob s d key j =
    j.ctxs.foldl (oneJobLess d) (s.modDie d fun x => { x with drgJobs := tabErase x.drgJobs key }) := rfl

theorem endJob_sameRecords (s : State) (d key : Nat) (j : ScanJob) : SameRecords s (endJob s d key j) := by
  rw [endJob_eq]
  exact SameRecords.trans (.modDie (fun _ => by rfl) ..) (.foldl (fun _ _ => setDrgCtx_sameRecords ..) _ _)

theorem endJob_frame (s : State) (d key : Nat) (j : ScanJob) : (endJob s d key j).mem = s.mem ∧
    ((endJob s d key j).dieAt d).drgJobs = tabErase (s.dieAt d).drgJobs key := by
  rw [endJob_eq]
  exact j.ctxs.foldlRecOn _ (motive := fun t : State => t.mem = s.mem ∧ (t.dieAt d).drgJobs = tabErase (s.dieAt d).drgJobs key)
    ⟨rfl, by rw [dieAt_modDie]⟩ fun t ht y _ => ⟨ht.1, (setDrgCtx_drgJobs ..).trans ht.2⟩

theorem not_mem_endJob (s : State) (d key : Nat) (j : ScanJob) : ∀ y ∈ ((endJob s d key j).dieAt d).drgJobs, y.1 ≠ key := by
  rw [(endJob_frame ..).2]
  exact fun y hy => (mem_tabErase.mp hy).2

/-- Each context of a job that ends has one job fewer. -/
theorem jobs_endJob {j : ScanJob} (hj : j.ctxs.Nodup) {y : Fin 2048} (hy : y ∈ j.ctxs) (s : State) (d key : Nat) :
    (drgCtx (endJob s d key j) d y.val).jobs = (drgCtx s d y.val).jobs - 1 := by
  rw [endJob_eq]
  have hne : ∀ t (k : Fin 2048), True → k ≠ y → (drgCtx (oneJobLess d t k) d y.val).jobs = (drgCtx t d y.val).jobs := fun t k _ hk => by
    rw [oneJobLess, drgCtx_setDrgCtx_ne _ _ _ fun h => hk (Fin.ext h.symm)]
  have hself : ∀ t, (drgCtx (oneJobLess d t y) d y.val).jobs = (drgCtx t d y.val).jobs - 1 := fun t => by
    rw [oneJobLess, drgCtx_setDrgCtx]
  have herased : drgCtx (s.modDie d fun x => { x with drgJobs := tabErase x.drgJobs key }) d y.val = drgCtx s d y.val := by
    rw [drgCtx, dieAt_modDie, drgCtx]
  rw [foldl_view_of_mem (I := fun _ => True) (v := fun t => (drgCtx t d y.val).jobs) (fun _ _ _ => trivial) hne
    (fun t u _ _ h => by rw [hself, hself, h]) hj hy trivial, hself, herased]

end jobs

end Sys2Proof.Machine
end

section
/-!
Waves and probe sets of a dragoman (07_kv R210; 08_dragoman R236, R237, R245, R252, R263, R268).
-/

namespace Sys2Proof.Machine

open Sys2Proof.Claims

/-! ### The rows -/

theorem exec_waveAdmit (die : Fin 4) (acc : Nat) (s : State) : exec (.waveAdmit die acc) s = execWaveAdmit die acc s := rfl
theorem exec_probeSelect (die : Fin 4) (cx : Fin 2048) (s : State) : exec (.probeSelect die cx) s = execProbeSelect die cx s := rfl
theorem exec_scanJobsForm (die : Fin 4) (acc : Nat) (s : State) : exec (.scanJobsForm die acc) s = execScanJobsForm die acc s := rfl

/-! ### The contexts of a wave (R237) -/

section admitted

variable (s : State) (d : Nat) (r : MacroRec) (qs : List Nat) (slot : Option Nat) (ws : List Nat)

/-- The context of a query of a wave. -/
def admittedCtx (part : BitVec 3) (wave query : Nat) : DrgCtx :=
  { state := 1, acc := r.acc, part, ctx := r.ctx, select := wOpcode r.word == 0x19, query, wave, slot, slotWords := ws }

/-- The contexts that a wave takes, with their numbers: the lowest free ones. -/
def admittedCtxs : List (Nat × DrgCtx) := (qs.zip (drgFreeList s d)).map fun qc =>
  (qc.2, admittedCtx r slot ws (BitVec.ofNat 3 (reqOf s r).partOr0) ((s.dieAt d).drgWaves + 1) qc.1)

theorem admitCtxs_eq : admitCtxs s d r qs slot ws =
    setDrgCtxs (s.modDie d fun x => { x with drgWaves := (s.dieAt d).drgWaves + 1 }) d (admittedCtxs s d r qs slot ws) := by
  rw [setDrgCtxs, admittedCtxs, List.foldl_map]
  rfl

theorem admittedCtxs_nodup : ((admittedCtxs s d r qs slot ws).map Prod.fst).Nodup := by
  have hfree : (drgFreeList s d).Nodup := List.nodup_range.filter _
  have hnumbers : (admittedCtxs s d r qs slot ws).map Prod.fst = (qs.zip (drgFreeList s d)).map Prod.snd := by
    rw [admittedCtxs, List.map_map]
    rfl
  rw [hnumbers]
  exact hfree.sublist (by
    rw [List.zip_eq_zip_take_min, List.map_snd_zip (by simp)]
    exact List.take_sublist ..)

theorem admitCtxs_frame : (admitCtxs s d r qs slot ws).mem = s.mem ∧ SameRecords s (admitCtxs s d r qs slot ws) ∧
    ((admitCtxs s d r qs slot ws).dieAt d).drgWaves = (s.dieAt d).drgWaves + 1 := by
  rw [admitCtxs_eq]
  obtain ⟨hmem, -, hwaves⟩ := setDrgCtxs_frame (s.modDie d fun x => { x with drgWaves := (s.dieAt d).drgWaves + 1 }) d
    (admittedCtxs s d r qs slot ws)
  refine ⟨hmem, SameRecords.trans (.modDie (fun _ => by rfl) ..) (setDrgCtxs_sameRecords ..), ?_⟩
  rw [hwaves, dieAt_modDie]

variable {qs}

/-- The `k`th query of a wave has the `k`th free context. -/
theorem admitCtxs_ctx (hfree : qs.length ≤ (drgFreeList s d).length) {k q : Nat} (hq : qs[k]? = some q) :
    ∃ y, (drgFreeList s d)[k]? = some y ∧ ∃ part, let x := admittedCtx r slot ws part ((s.dieAt d).drgWaves + 1) q
      drgCtx (admitCtxs s d r qs slot ws) d y = x ∧ (y, x) ∈ ((admitCtxs s d r qs slot ws).dieAt d).drgCtxs := by
  obtain ⟨hk, -⟩ := List.getElem?_eq_some_iff.mp hq
  obtain ⟨y, hy⟩ : ∃ y, (drgFreeList s d)[k]? = some y := ⟨_, List.getElem?_eq_getElem (hk.trans_le hfree)⟩
  refine ⟨y, hy, BitVec.ofNat 3 (reqOf s r).partOr0, ?_⟩
  rw [admitCtxs_eq]
  refine setDrgCtxs_of_mem _ d (admittedCtxs_nodup s d r qs slot ws) (List.mem_map_of_mem (a := (q, y)) ?_)
  exact List.mem_of_getElem? (i := k) (List.getElem?_zip_eq_some.mpr ⟨hq, hy⟩)

end admitted

/-- What a wave of `n` contexts leaves: NEXT of the command, the wave's number, and each context that it takes. -/
def WaveAdmitted (s t : State) (d : Nat) (r : MacroRec) (n : Nat) (P : Nat → DrgCtx → Prop) : Prop :=
  (∃ z, macroAt t d r.acc = some z ∧ z.nextQuery = r.nextQuery + n) ∧ (t.dieAt d).drgWaves = (s.dieAt d).drgWaves + 1 ∧
    ∀ k, k < n → ∃ y, (drgFreeList s d)[k]? = some y ∧ P k (drgCtx t d y)

theorem WaveAdmitted.imp {s t : State} {d : Nat} {r : MacroRec} {n : Nat} {P Q : Nat → DrgCtx → Prop} (h : WaveAdmitted s t d r n P)
    (hPQ : ∀ k x, k < n → P k x → Q k x) : WaveAdmitted s t d r n Q := by
  obtain ⟨hrec, hwaves, hctx⟩ := h
  refine ⟨hrec, hwaves, fun k hk => ?_⟩
  obtain ⟨y, hy, hP⟩ := hctx k hk
  exact ⟨y, hy, hPQ k _ hk hP⟩

section wave

variable {s u : State} {d : Nat} {r z : MacroRec} {n : Nat} {qs : List Nat}

/-- The contexts of a wave after the record has its new NEXT. -/
theorem waveAdmitted_admitCtxs (hr : macroAt s d r.acc = some r) (hu : KeepsCommands s u) (hacc : z.acc = r.acc)
    (hnext : z.nextQuery = r.nextQuery + n) (hlen : qs.length = n) (hfree : n ≤ (drgFreeList s d).length) (slot : Option Nat) (ws : List Nat) :
    let t := admitCtxs (setMacro u d z) d r qs slot ws
    t.mem = u.mem ∧ WaveAdmitted s t d r n fun k x => ∃ q, qs[k]? = some q ∧
      (∃ part, x = admittedCtx r slot ws part ((s.dieAt d).drgWaves + 1) q) ∧
      ∃ y, (drgFreeList s d)[k]? = some y ∧ (y, x) ∈ (t.dieAt d).drgCtxs := by
  intro t
  obtain ⟨hmem, hrec, hwaves⟩ := admitCtxs_frame (setMacro u d z) d r qs slot ws
  have hdrg : ((setMacro u d z).dieAt d).dragoman = (s.dieAt d).dragoman := (setMacro_dragoman ..).trans (hu.dragoman d)
  have hw : ((setMacro u d z).dieAt d).drgWaves = (s.dieAt d).drgWaves := congrArg (fun p => p.2.2) hdrg
  have hctxs : ((setMacro u d z).dieAt d).drgCtxs = (s.dieAt d).drgCtxs := congrArg Prod.fst hdrg
  have hlist : drgFreeList (setMacro u d z) d = drgFreeList s d := by simp only [drgFreeList, hctxs]
  rw [hw] at hwaves
  refine ⟨hmem.trans (setMacro_onlyMacros ..).mem_eq, ⟨z, ?_, hnext⟩, hwaves, fun k hk => ?_⟩
  · rw [hrec.macroAt_eq]
    exact macroAt_setMacro ((hu.macroAt_eq ..).trans hr) hacc
  · have hq : qs[k]? = some (qs[k]'(hlen ▸ hk)) := List.getElem?_eq_getElem _
    obtain ⟨y, hy, part, hctx, hin⟩ := admitCtxs_ctx (setMacro u d z) d r slot ws (by rw [hlist, hlen]; exact hfree) hq
    rw [hlist] at hy
    rw [hw] at hctx hin
    exact ⟨y, hy, _, hq, ⟨part, hctx⟩, y, hy, hctx ▸ hin⟩

end wave

/-! ### A wave of SEARCH (R245) -/

section search

variable (s : State) (d : Nat) (r : MacroRec) (c : SearchCmd) (n : Nat)

/-- The binding of a wave's queries: with ONE_EPOCH the first one holds for the command. -/
def waveBinding : Got (State × Option Nat) :=
  if c.oneEpoch then
    match r.epochSlot with
    | none => bindEpoch s (reqOf s r) c.root c.nq
    | some a => .ok (s, if a = 0 then none else some a)
  else bindEpoch s (reqOf s r) c.root n

/-- The words of the bound slot; none where the binding failed. -/
def boundWords (b : State × Option Nat) : Got (List Nat) :=
  match b.2 with
  | some a => slotWordsOf b.1 (reqOf s r) a
  | none => .ok []

/-- The contexts whose queries are bound, or that have no slot. -/
def waveTaken (b : State × Option Nat) (ws : List Nat) : State :=
  admitCtxs (setMacro b.1 d { r with
    nextQuery := r.nextQuery + n
    epochSlot := if c.oneEpoch then some (b.2.getD 0) else none }) d r (between r.nextQuery (r.nextQuery + n)) b.2 ws

/-- The last wave of the command is in HALT. -/
def waveHalted (u : State) : State :=
  ((drgOf u d r.acc).filter fun e => e.2.wave == (u.dieAt d).drgWaves).foldl (fun v e => haltCtx v d e.1 0x7002) u

theorem admitSearch_eq : admitSearch s d r c n = (waveBinding s r c n).bind fun b => (boundWords s r b).bind fun ws =>
    .ok (if b.2.isSome then waveTaken d r c n b ws else waveHalted d r (waveTaken d r c n b ws)) := by
  unfold admitSearch
  extract_lets q qs bound
  have hbound : ∀ b, bound b = (boundWords s r b).bind fun ws =>
      .ok (if b.2.isSome then waveTaken d r c n b ws else waveHalted d r (waveTaken d r c n b ws)) := by
    rintro ⟨t, _ | a⟩ <;> rfl
  rw [← funext hbound, waveBinding]
  by_cases hone : c.oneEpoch = true
  · rw [if_neg (by simp [hone]), if_pos hone]
    cases r.epochSlot <;> rfl
  · rw [if_pos (by simp [hone]), if_neg hone]
    rfl

theorem waveBinding_fresh {c : SearchCmd} (h : c.oneEpoch = true → r.epochSlot = none) :
    waveBinding s r c n = bindEpoch s (reqOf s r) c.root (if c.oneEpoch = true then c.nq else n) := by
  unfold waveBinding
  by_cases hone : c.oneEpoch = true
  · simp only [hone, if_true, h hone]
  · simp only [hone, Bool.false_eq_true, if_false]

theorem waveBinding_held {c : SearchCmd} {a : Nat} (hone : c.oneEpoch = true) (ha : a ≠ 0) (hslot : r.epochSlot = some a) :
    waveBinding s r c n = .ok (s, some a) := by
  simp only [waveBinding, hone, if_true, hslot, if_neg ha]

end search

section bound

variable {s u : State} {d : Nat} {r : MacroRec} {c : SearchCmd} {n : Nat}

theorem admitSearch_of_bound {a : Nat} {ws : List Nat} (hb : waveBinding s r c n = .ok (u, some a))
    (hws : slotWordsOf u (reqOf s r) a = .ok ws) : admitSearch s d r c n = .ok (waveTaken d r c n (u, some a) ws) := by
  have hwords : boundWords s r (u, some a) = .ok ws := hws
  rw [admitSearch_eq, hb, Except.bind, hwords]
  rfl

theorem admitSearch_of_unbound (hb : waveBinding s r c n = .ok (u, none)) :
    admitSearch s d r c n = .ok (waveHalted d r (waveTaken d r c n (u, none) [])) := by
  rw [admitSearch_eq, hb]
  rfl

/-- ACTIVE is all that a binding changes at an epoch slot. -/
theorem addActive_keepsCommands {q : Req} {slot : Nat} {up : Bool} (h : addActive s q slot up n = .ok u) : KeepsCommands s u := by
  obtain ⟨a, -, h⟩ := got_bind_eq_ok.mp h
  exact uWriteNat_keepsCommands h

theorem bindEpoch_keepsCommands {q : Req} {root : Nat} {b : Option Nat} (h : bindEpoch s q root n = .ok (u, b)) : KeepsCommands s u := by
  obtain ⟨cur, -, h⟩ := got_bind_eq_ok.mp h
  obtain ⟨st, -, h⟩ := got_bind_eq_ok.mp h
  split at h
  · cases h
    exact .refl _
  · obtain ⟨t, ht, h⟩ := got_bind_eq_ok.mp h
    cases h
    exact addActive_keepsCommands ht

theorem waveBinding_keepsCommands {b : State × Option Nat} (h : waveBinding s r c n = .ok b) : KeepsCommands s b.1 := by
  unfold waveBinding at h
  split at h
  · split at h
    · exact bindEpoch_keepsCommands h
    · cases h
      exact .refl _
  · exact bindEpoch_keepsCommands h

theorem between_length (a n : Nat) : (between a (a + n)).length = n := by
  rw [between_eq_range', List.length_range']
  omega

theorem between_getElem? {a n k q : Nat} (h : (between a (a + n))[k]? = some q) : q = a + k := by
  rw [between_eq_range'] at h
  obtain ⟨hk, rfl⟩ := List.getElem?_eq_some_iff.mp h
  rw [List.getElem_range', Nat.one_mul]

/-- The wave of a SEARCH takes its contexts, each with its query and the slot. -/
theorem waveTaken_admits {b : State × Option Nat} (hr : macroAt s d r.acc = some r) (hu : KeepsCommands s b.1)
    (hop : wOpcode r.word = 0x18) (hfree : n ≤ (drgFreeList s d).length) (ws : List Nat) :
    let t := waveTaken d r c n b ws
    t.mem = b.1.mem ∧ WaveAdmitted s t d r n fun k x => (x.state = 1 ∧ x.acc = r.acc ∧ x.ctx = r.ctx ∧ x.select = false ∧
      x.query = r.nextQuery + k ∧ x.wave = (s.dieAt d).drgWaves + 1 ∧ x.slot = b.2 ∧ x.slotWords = ws) ∧
      ∃ y, (drgFreeList s d)[k]? = some y ∧ (y, x) ∈ (t.dieAt d).drgCtxs := by
  obtain ⟨hmem, hadmitted⟩ := waveAdmitted_admitCtxs (z := { r with
    nextQuery := r.nextQuery + n
    epochSlot := if c.oneEpoch then some (b.2.getD 0) else none }) hr hu rfl rfl (between_length ..) hfree b.2 ws
  refine ⟨hmem, hadmitted.imp ?_⟩
  rintro k x - ⟨q, hq, ⟨part, rfl⟩, hin⟩
  refine ⟨⟨rfl, rfl, rfl, ?_, between_getElem? hq, rfl, rfl, rfl⟩, hin⟩
  simp [admittedCtx, hop]

/-- The halt of a wave changes nothing of the command but its fault, and reaches each context of the wave. -/
theorem waveHalted_spec (u : State) (d : Nat) (r : MacroRec) : (waveHalted d r u).mem = u.mem ∧
    ((waveHalted d r u).dieAt d).drgWaves = (u.dieAt d).drgWaves ∧
    (∀ {y}, macroAt u d r.acc = some y → ∃ f, macroAt (waveHalted d r u) d r.acc = some { y with fault := f }) ∧
    ∀ e ∈ (u.dieAt d).drgCtxs, e.2.state ≠ 0 → e.2.acc = r.acc → e.2.wave = (u.dieAt d).drgWaves →
      Halts (waveHalted d r u) d e.1 0x7002 := by
  unfold waveHalted
  generalize hl : ((drgOf u d r.acc).filter fun e => e.2.wave == (u.dieAt d).drgWaves) = l
  refine ⟨?_, ?_, fun {y} hy => ?_, fun e he hstate hacc hwave => ?_⟩
  · exact l.foldlRecOn _ (motive := fun t : State => t.mem = u.mem) rfl fun t ht e _ => (haltCtx_mem ..).trans ht
  · exact l.foldlRecOn _ (motive := fun t : State => (t.dieAt d).drgWaves = (u.dieAt d).drgWaves) rfl
      fun t ht e _ => (haltCtx_drgWaves ..).trans ht
  · refine l.foldlRecOn _ (motive := fun t : State => ∃ f, macroAt t d r.acc = some { y with fault := f }) ⟨_, hy⟩ fun t ht e _ => ?_
    obtain ⟨f, hf⟩ := ht
    obtain ⟨f', hf'⟩ := macroAt_haltCtx t d e.1 0x7002 hf
    exact ⟨f', hf'⟩
  · have hmem : e ∈ l := by simp [← hl, drgOf, he, hstate, hacc, hwave]
    refine foldl_establishes (I := fun _ => True) (P := fun t e => Halts t d e.1 0x7002) (fun _ _ _ => trivial)
      (fun t i _ => haltCtx_halts ..) (fun t i j hj => ?_) l u trivial e hmem
    by_cases hij : j.1 = i.1
    · rw [hij]; exact haltCtx_halts ..
    · simp only [Halts, drgCtx_haltCtx, if_neg hij]
      exact hj

end bound

/-! ### WAVE_ADMIT -/

/-- A wave finds a free context for each of its queries. -/
theorem waveDue_free {s : State} {d n : Nat} {r : MacroRec} (hdue : waveDue s d r = some n) : n ≤ (drgFreeList s d).length := by
  unfold waveDue at hdue
  dsimp only at hdue
  split at hdue
  next h => cases hdue; exact h.2.2.2.2.1
  · cases hdue

section waveAdmit

variable {s : State} {die : Fin 4} {acc n : Nat} {r : MacroRec} (hclk : coreClocks s = true) (hr : macroAt s die.val acc = some r)
include hclk hr

theorem waveAdmit_gives : Gives (.waveAdmit die acc) s (admitWave s die.val r) := by
  unfold Gives
  rw [exec_waveAdmit, execWaveAdmit, whileClocked_of_clock hclk, hr]

theorem waveAdmit_stays (hdue : waveDue s die.val r = none) : Gives (.waveAdmit die acc) s s := by
  have h := waveAdmit_gives hclk hr
  rwa [admitWave, hdue] at h

theorem waveAdmit_search {c : SearchCmd} {t : State} (hdue : waveDue s die.val r = some n) (hop : wOpcode r.word = 0x18)
    (hc : searchCmd s (reqOf s r) r.word = .ok c) (ht : admitSearch s die.val r c n = .ok t) : Gives (.waveAdmit die acc) s t := by
  have h := waveAdmit_gives hclk hr
  simp only [admitWave, hdue, hop, if_true, hc, Except.bind, ht, drgResult] at h
  exact h

theorem waveAdmit_select {c : SelectCmd} {t : State} (hdue : waveDue s die.val r = some n) (hop : wOpcode r.word = 0x19)
    (hc : selectCmd s (reqOf s r) r.word = .ok c) (ht : admitSelect s die.val r c n = .ok t) : Gives (.waveAdmit die acc) s t := by
  have h := waveAdmit_gives hclk hr
  simp only [admitWave, hdue, hop, if_false, hc, Except.bind, ht, drgResult, Nat.reduceEqDiff] at h
  exact h

/-- R245: the queries of a wave are bound. -/
theorem waveAdmit_binds {c : SearchCmd} {u : State} {a : Nat} {ws : List Nat} (hdue : waveDue s die.val r = some n) (hop : wOpcode r.word = 0x18)
    (hc : searchCmd s (reqOf s r) r.word = .ok c) (hb : waveBinding s r c n = .ok (u, some a)) (hws : slotWordsOf u (reqOf s r) a = .ok ws) :
    ∃ t, Gives (.waveAdmit die acc) s t ∧ t.mem = u.mem ∧ WaveAdmitted s t die.val r n fun k y =>
      y.state = 1 ∧ y.acc = r.acc ∧ y.ctx = r.ctx ∧
      y.select = false ∧ y.query = r.nextQuery + k ∧ y.wave = (s.dieAt die.val).drgWaves + 1 ∧ y.slot = some a ∧ y.slotWords = ws := by
  obtain rfl : r.acc = acc := acc_of_macroAt hr
  obtain ⟨hmem, hadmits⟩ := waveTaken_admits (c := c) hr (waveBinding_keepsCommands hb) hop (waveDue_free hdue) ws
  exact ⟨_, waveAdmit_search hclk hr hdue hop hc (admitSearch_of_bound hb hws), hmem, hadmits.imp fun _ _ _ h => h.1⟩

/-- R245: the queries of a wave find no current slot. -/
theorem waveAdmit_halts {c : SearchCmd} {u : State} (hdue : waveDue s die.val r = some n) (hop : wOpcode r.word = 0x18)
    (hc : searchCmd s (reqOf s r) r.word = .ok c) (hb : waveBinding s r c n = .ok (u, none)) :
    ∃ t, Gives (.waveAdmit die acc) s t ∧ t.mem = u.mem ∧ WaveAdmitted s t die.val r n fun _ y => y.state = 7 ∧ y.fault = 0x7002 := by
  obtain rfl : r.acc = acc := acc_of_macroAt hr
  obtain ⟨hmem, ⟨z, hz, hnext⟩, hwaves, hctx⟩ := waveTaken_admits (c := c) hr (waveBinding_keepsCommands hb) hop (waveDue_free hdue) []
  obtain ⟨hmem', hwaves', hrec, hhalts⟩ := waveHalted_spec (waveTaken die.val r c n (u, none) []) die.val r
  obtain ⟨f, hf⟩ := hrec hz
  refine ⟨_, waveAdmit_search hclk hr hdue hop hc (admitSearch_of_unbound hb), hmem'.trans hmem, ⟨_, hf, hnext⟩, hwaves'.trans hwaves,
    fun k hk => ?_⟩
  obtain ⟨y, hy, ⟨hstate, hacc, -, -, -, hwave, -⟩, y', hy', hin⟩ := hctx k hk
  obtain rfl : y = y' := Option.some.inj (hy.symm.trans hy')
  exact ⟨y, hy, hhalts _ hin (by rw [hstate]; exact Nat.one_ne_zero) hacc (hwave.trans hwaves.symm)⟩

/-- R262: a wave of SELECT_BALES takes the blocks at the next positions. -/
theorem waveAdmit_blocks {c : SelectCmd} {seqs : List SeqPart} (hdue : waveDue s die.val r = some n) (hop : wOpcode r.word = 0x19)
    (hc : selectCmd s (reqOf s r) r.word = .ok c) (hseqs : attSeqs s (reqOf s r) c.att = .ok seqs)
    (hblocks : r.nextQuery + n ≤ (selectBlocks c seqs).length) :
    ∃ t, Gives (.waveAdmit die acc) s t ∧ t.mem = s.mem ∧ WaveAdmitted s t die.val r n fun k y =>
      y.state = 1 ∧ y.acc = r.acc ∧ y.select = true ∧
      y.wave = (s.dieAt die.val).drgWaves + 1 ∧ y.slot = none ∧ ∃ b, (selectBlocks c seqs)[r.nextQuery + k]? = some b ∧ y.query = b.2 := by
  obtain rfl : r.acc = acc := acc_of_macroAt hr
  have hlen : ((((selectBlocks c seqs).drop r.nextQuery).take n).map Prod.snd).length = n := by
    rw [List.length_map, List.length_take, List.length_drop]
    omega
  obtain ⟨hmem, hadmits⟩ := waveAdmitted_admitCtxs (z := { r with nextQuery := r.nextQuery + n }) hr (.refl s) rfl rfl hlen
    (waveDue_free hdue) none []
  have hadmit : admitSelect s die.val r c n = .ok (admitCtxs (setMacro s die.val { r with nextQuery := r.nextQuery + n }) die.val r
      ((((selectBlocks c seqs).drop r.nextQuery).take n).map Prod.snd) none []) := by
    rw [admitSelect, hseqs]
    rfl
  refine ⟨_, waveAdmit_select hclk hr hdue hop hc hadmit, hmem, hadmits.imp ?_⟩
  rintro k x hk ⟨q, hq, ⟨part, rfl⟩, -⟩
  rw [List.getElem?_map, List.getElem?_take_of_lt hk, List.getElem?_drop] at hq
  obtain ⟨b, hb, rfl⟩ := Option.map_eq_some_iff.mp hq
  exact ⟨rfl, rfl, by simp [admittedCtx, hop], rfl, rfl, b, hb, rfl⟩

end waveAdmit

/-! ### PROBE_SELECT -/

section probe

variable {s : State} {die : Fin 4} {cx : Fin 2048} {acc : Nat} {r : MacroRec} {x : DrgCtx}

theorem probeSelect_gives (hclk : coreClocks s = true) : Gives (.probeSelect die cx) s (probeStep s die.val cx.val) := by
  unfold Gives
  rw [exec_probeSelect, execProbeSelect, whileClocked_of_clock hclk]

/-- A context whose scores are not all written waits. -/
theorem probeSelect_waits (hclk : coreClocks s = true) (hx : drgCtx s die.val cx.val = x) (hready : coarseReady s die.val x = false) :
    Gives (.probeSelect die cx) s s := by
  have h := probeSelect_gives (die := die) (cx := cx) hclk
  rwa [probeStep, hx, hready, if_neg (fun h => Bool.false_ne_true h.2)] at h

/-- The look-ups of a source's bundles (log 110). -/
def sourceLooked (s : State) (d : Nat) (x : DrgCtx) (r : MacroRec) : State := blockLookups s d x r fun c => (sourceBundles c).map fun b => 64 * b

variable (hr : macroAt s die.val acc = some r) (hx : drgCtx s die.val cx.val = x) (hacc : x.acc = acc) (hstate : x.state = 1)
  (hready : coarseReady s die.val x = true)
include hr hx hacc hstate hready

theorem probeStep_of_ready : probeStep s die.val cx.val =
    match probeSet (sourceLooked s die.val x r) die.val x r with
    | .ok l => setDrgCtx (sourceLooked s die.val x r) die.val cx.val { x with state := 3, probes := l }
    | .error z => if z.1.cls = 7 then haltCtx (sourceLooked s die.val x r) die.val cx.val z.1
      else commandError (sourceLooked s die.val x r) die.val r z := by
  simp only [probeStep, hx, hstate, hready, and_self, if_true, hacc, hr]
  rfl

theorem probeSelect_chooses (hclk : coreClocks s = true) {l : List Nat}
    (hl : probeSet (sourceLooked s die.val x r) die.val x r = .ok l) :
    Gives (.probeSelect die cx) s (setDrgCtx (sourceLooked s die.val x r) die.val cx.val { x with state := 3, probes := l }) := by
  have h := probeSelect_gives (die := die) (cx := cx) hclk
  rwa [probeStep_of_ready hr hx hacc hstate hready, hl] at h

theorem probeSelect_halts (hclk : coreClocks s = true) {z : MemErr}
    (hz : probeSet (sourceLooked s die.val x r) die.val x r = .error z) (hcls : z.1.cls = 7) :
    ∃ t, Gives (.probeSelect die cx) s t ∧ Halts t die.val cx.val z.1 := by
  have h := probeSelect_gives (die := die) (cx := cx) hclk
  rw [probeStep_of_ready hr hx hacc hstate hready, hz] at h
  simp only [hcls, if_true] at h
  exact ⟨_, h, haltCtx_halts ..⟩

end probe

end Sys2Proof.Machine
end

section
/-!
The scan jobs of a wave (08_dragoman R253), and the rows of waves, probe sets and jobs together.
-/

namespace Sys2Proof.Machine

open Sys2Proof.Claims

/-! ### Jobs of up to 32 contexts -/

/-- Cut into runs, a list keeps each element in some run. -/
theorem exists_chunk {α : Type} {n : Nat} (hn : 0 < n) {a : α} : ∀ {fuel : Nat} {l : List α}, l.length < fuel → a ∈ l →
    ∃ c ∈ chunksOf n fuel l, a ∈ c ∧ c.length ≤ n
  | 0, _, hfuel, _ => absurd hfuel (Nat.not_lt_zero _)
  | fuel + 1, l, hfuel, ha => by
    have hne : l ≠ [] := List.ne_nil_of_mem ha
    have hpos : 0 < l.length := List.length_pos_iff.mpr hne
    rw [chunksOf, if_neg hne]
    rw [← List.take_append_drop n l] at ha
    obtain ha | ha := List.mem_append.mp ha
    · exact ⟨_, List.mem_cons_self, ha, List.length_take_le ..⟩
    · obtain ⟨c, hc, hac, hlen⟩ := exists_chunk hn (fuel := fuel) (by rw [List.length_drop]; omega) ha
      exact ⟨c, List.mem_cons_of_mem _ hc, hac, hlen⟩

/-- The jobs of a wave hold every context with every list that it probes. -/
theorem exists_job_of_pair (acc : Nat) {pairs : List (Nat × Nat × Nat)} {p : Nat × Nat × Nat} (hp : p ∈ pairs) :
    ∃ j ∈ cutJobs acc pairs, j.acc = acc ∧ j.list = p.1 ∧ j.block = 0 ∧ j.ctxs.length ≤ 32 ∧ cxOf p.2.2 ∈ j.ctxs := by
  have hlist : p.1 ∈ (pairs.map Prod.fst).dedup := List.mem_dedup.mpr (List.mem_map_of_mem hp)
  have hctx : cxOf p.2.2 ∈ (pairs.filter fun e => e.1 == p.1).map fun e => cxOf e.2.2 :=
    List.mem_map_of_mem (f := fun e : Nat × Nat × Nat => cxOf e.2.2) (List.mem_filter.mpr ⟨hp, beq_self_eq_true _⟩)
  obtain ⟨c, hc, hmem, hlen⟩ := exists_chunk (n := 32) (by omega) (Nat.lt_succ_self _) hctx
  exact ⟨_, List.mem_flatMap.mpr ⟨p.1, hlist, List.mem_map_of_mem hc⟩, rfl, rfl, rfl, hlen, hmem⟩

/-! ### SCAN_JOBS_FORM -/

/-- A context whose jobs are formed. -/
def formedCtx (e : Nat × DrgCtx) : Nat × DrgCtx := (e.1, { e.2 with formed := true, jobs := e.2.probes.length })

/-- The contexts of a wave that have a probe set. -/
def probedCtxs (s : State) (d acc w : Nat) : List (Nat × DrgCtx) := (drgOf s d acc).filter fun e => e.2.wave == w && e.2.state == 3

/-- Each list of each probe set, with its query and context, in the order of the jobs. -/
def probePairs (cs : List (Nat × DrgCtx)) : List (Nat × Nat × Nat) :=
  sortBy (fun (a b : Nat × Nat × Nat) => keyLt (a.1, a.2.1, 0) (b.1, b.2.1, 0)) (cs.flatMap fun e => e.2.probes.map fun l => (l, e.2.query, e.1))

section form

variable {s : State} {d acc w : Nat}

theorem formJobs_of_wave (hw : waveToForm s d acc = some w) : formJobs s d acc =
    (cutJobs acc (probePairs (probedCtxs s d acc w))).foldl (fun u j => addJob u d j)
      (setDrgCtxs s d ((probedCtxs s d acc w).map formedCtx)) := by
  rw [formJobs, hw, setDrgCtxs, List.foldl_map]
  rfl

theorem mem_probePairs {cs : List (Nat × DrgCtx)} {y : Nat × DrgCtx} (hy : y ∈ cs) {l : Nat} (hl : l ∈ y.2.probes) :
    (l, y.2.query, y.1) ∈ probePairs cs :=
  (sortBy_perm ..).mem_iff.mpr (List.mem_flatMap.mpr ⟨y, hy, List.mem_map_of_mem hl⟩)

theorem formedCtxs_nodup (hrise : Rising (s.dieAt d).drgCtxs) : (((probedCtxs s d acc w).map formedCtx).map Prod.fst).Nodup := by
  rw [List.map_map, List.Nodup, List.pairwise_map]
  exact ((hrise.filter _).filter _).imp Nat.ne_of_lt

/-- R253: the jobs of a wave. -/
theorem formJobs_forms (hctxs : Rising (s.dieAt d).drgCtxs) (hjobs : Rising (s.dieAt d).drgJobs) (hw : waveToForm s d acc = some w) :
    (formJobs s d acc).mem = s.mem ∧ (∀ j ∈ (s.dieAt d).drgJobs, j ∈ ((formJobs s d acc).dieAt d).drgJobs) ∧
    ∀ y ∈ drgOf s d acc, y.2.wave = w → y.2.state = 3 →
      drgCtx (formJobs s d acc) d y.1 = { y.2 with formed := true, jobs := y.2.probes.length } ∧
      ∀ l ∈ y.2.probes, ∃ j ∈ ((formJobs s d acc).dieAt d).drgJobs, j.2.acc = acc ∧ j.2.list = l ∧ j.2.block = 0 ∧ j.2.ctxs.length ≤ 32 ∧
        cxOf y.1 ∈ j.2.ctxs := by
  rw [formJobs_of_wave hw]
  generalize hjs : cutJobs acc (probePairs (probedCtxs s d acc w)) = js
  obtain ⟨hmem, hsame, -⟩ := setDrgCtxs_frame s d ((probedCtxs s d acc w).map formedCtx)
  obtain ⟨hmem', hctxs'⟩ := foldl_addJob_frame (setDrgCtxs s d ((probedCtxs s d acc w).map formedCtx)) d js
  obtain ⟨l', hl', hsnd⟩ := drgJobs_foldl_addJob (s := setDrgCtxs s d ((probedCtxs s d acc w).map formedCtx)) (d := d) js (hsame ▸ hjobs)
  rw [hsame] at hl'
  refine ⟨hmem'.trans hmem, fun j hj => by rw [hl']; exact List.mem_append_left _ hj, fun y hy hwave hstate => ⟨?_, fun l hl => ?_⟩⟩
  · have hy' : formedCtx y ∈ (probedCtxs s d acc w).map formedCtx :=
      List.mem_map_of_mem (List.mem_filter.mpr ⟨hy, by simp [hwave, hstate]⟩)
    rw [drgCtx, hctxs']
    exact (setDrgCtxs_of_mem s d (formedCtxs_nodup hctxs) hy').1
  · have hpair := mem_probePairs (cs := probedCtxs s d acc w) (List.mem_filter.mpr ⟨hy, by simp [hwave, hstate]⟩) hl
    obtain ⟨j, hj, hspec⟩ := exists_job_of_pair acc hpair
    rw [hjs, ← hsnd] at hj
    obtain ⟨e, he, rfl⟩ := List.mem_map.mp hj
    exact ⟨e, by rw [hl']; exact List.mem_append_right _ he, hspec⟩

theorem scanJobsForm_gives {die : Fin 4} (hclk : coreClocks s = true) : Gives (.scanJobsForm die acc) s (formJobs s die.val acc) := by
  unfold Gives
  rw [exec_scanJobsForm, execScanJobsForm, whileClocked_of_clock hclk]

end form

/-! ### Waves, probe sets and jobs -/

theorem wavesAndJobs : WavesAndJobs := by
  intro s die acc r n w cx
  dsimp only
  intro hclk hr
  obtain rfl : r.acc = acc := acc_of_macroAt hr
  refine ⟨waveAdmit_stays hclk hr, fun hdue hop c u hc hone => ⟨fun a ws hb hws => ?_, fun hb => ?_⟩,
    fun hdue hop c a ws hc hone ha hslot hws => ?_, fun hdue hop c seqs hc hseqs hblocks => ?_,
    fun _ _ hready => probeSelect_waits hclk rfl hready, fun hacc hstate hready => ⟨fun hsel => ?_, ?_, fun l hl => ?_, fun z hz hcls => ?_⟩,
    fun hctxs hjobs hw => ?_⟩
  · exact waveAdmit_binds hclk hr hdue hop hc ((waveBinding_fresh s r n hone).trans hb) hws
  · exact waveAdmit_halts hclk hr hdue hop hc ((waveBinding_fresh s r n hone).trans hb)
  · obtain ⟨t, hgives, hmem, hnext, hwaves, hctx⟩ := waveAdmit_binds hclk hr hdue hop hc (waveBinding_held s r n hone ha hslot) hws
    refine ⟨t, hgives, hmem, hnext, hwaves, fun k hk => ?_⟩
    obtain ⟨y, hy, hst, hacc, -, -, hquery, -, hsl, hwords⟩ := hctx k hk
    exact ⟨y, hy, hst, hacc, hquery, hsl, hwords⟩
  · exact waveAdmit_blocks hclk hr hdue hop hc hseqs hblocks
  · exact blockLookups_of_search hsel ..
  · exact (blockLookups_keeps ..).2
  · exact probeSelect_chooses hr rfl hacc hstate hready hclk hl
  · exact probeSelect_halts hr rfl hacc hstate hready hclk hz hcls
  · exact ⟨_, scanJobsForm_gives hclk, formJobs_forms hctxs hjobs hw⟩

end Sys2Proof.Machine
end

section
/-!
Blocks of scan jobs and the ends of scans (08_dragoman R237, R243, R254, R258, R264, R265).
-/

namespace Sys2Proof.Machine

open Sys2Proof.Claims

/-! ### SCAN_BLOCK -/

theorem exec_scanBlock (die : Fin 4) (job : Fin 64) (s : State) : exec (.scanBlock die job) s = execScanBlock die job s := rfl
theorem exec_scanJobEnd (die : Fin 4) (cx : Fin 2048) (s : State) : exec (.scanJobEnd die cx) s = execScanJobEnd die cx s := rfl

/-- Memory, the jobs and the number of jobs that serve each context stand. -/
structure ScanKeeps (s : State) (d : Nat) (t : State) : Prop where
  mem_eq : t.mem = s.mem
  drgJobs_eq : (t.dieAt d).drgJobs = (s.dieAt d).drgJobs
  jobs_eq : ∀ i, (drgCtx t d i).jobs = (drgCtx s d i).jobs

section scan

variable {s t u : State} {d key : Nat} {j : ScanJob} {r : MacroRec}

theorem ScanKeeps.of_afterLookups (h : AfterLookups s t) : ScanKeeps s d t where
  mem_eq := h.mem_eq
  drgJobs_eq := (KeepsCommands.of_afterLookups h).drgJobs_eq d
  jobs_eq i := by rw [(KeepsCommands.of_afterLookups h).drgCtx_eq]

theorem ScanKeeps.setDrgCtx (h : ScanKeeps s d t) {cx : Nat} {x : DrgCtx} (hx : x.jobs = (drgCtx t d cx).jobs) :
    ScanKeeps s d (setDrgCtx t d cx x) where
  mem_eq := h.mem_eq
  drgJobs_eq := (setDrgCtx_drgJobs ..).trans h.drgJobs_eq
  jobs_eq i := by
    obtain rfl | hi := eq_or_ne i cx
    · rw [drgCtx_setDrgCtx, hx, h.jobs_eq]
    · rw [drgCtx_setDrgCtx_ne _ _ _ hi, h.jobs_eq]

/-- An entry of a posting block leaves the number of a query's jobs. -/
theorem scanEntry_jobs {q : Req} {c : SearchCmd} {sk : List Bool} {blk e : Nat} {x y : DrgCtx} (h : scanEntry s q c sk blk e x = .ok y) :
    y.jobs = x.jobs := by
  obtain ⟨b, -, h⟩ := got_bind_eq_ok.mp h
  split at h
  · cases h
    rfl
  · obtain ⟨item, -, h⟩ := got_bind_eq_ok.mp h
    obtain ⟨vref, -, h⟩ := got_bind_eq_ok.mp h
    dsimp only at h
    split at h
    · cases h
      rfl
    · split at h
      all_goals
        obtain ⟨allowed, -, h⟩ := got_bind_eq_ok.mp h
        split at h
        all_goals
          obtain ⟨dead, -, h⟩ := got_bind_eq_ok.mp h
          cases h
          split <;> rfl

/-- The job goes on to its next block. -/
def nextBlock (s : State) (d key : Nat) (j : ScanJob) : State :=
  s.modDie d fun x => { x with drgJobs := tabSet x.drgJobs key { j with block := j.block + 1 } }

/-- The list that the first query of a job sees. -/
def jobList (s : State) (d : Nat) (j : ScanJob) (r : MacroRec) : Got (Nat × Nat) :=
  listEntry s (reqOf s r) (drgCtx s d (match j.ctxs.head? with | some y => y.val | none => 0)).ldir j.list

/-- R254: a block is scanned for the job's queries; the job ends behind its list's last entry. -/
theorem scanPosting_scans {l : Nat × Nat} (hu : scanPosting s d key j r = .ok u) (hl : jobList s d j r = .ok l) (haligned : l.1 % 64 = 0) :
    ∃ t, ScanKeeps s d t ∧ u = if l.2 ≤ 32 * (j.block + 1) then endJob t d key j else nextBlock t d key j := by
  obtain ⟨c, -, hu⟩ := got_bind_eq_ok.mp hu
  obtain ⟨l', hl', hu⟩ := got_bind_eq_ok.mp hu
  obtain rfl : l = l' := Except.ok.inj (hl.symm.trans hl')
  rw [if_neg (not_not.mpr haligned)] at hu
  split at hu
  next hend =>
    cases hu
    exact ⟨s, ⟨rfl, rfl, fun _ => rfl⟩, by rw [if_pos (by omega)]⟩
  · obtain ⟨t, ht, hu⟩ := got_bind_eq_ok.mp hu
    refine ⟨t, ?_, (Except.ok.inj hu).symm⟩
    refine foldGot_keeps (P := ScanKeeps s d) (fun v cx v' hv hstep => ?_) j.ctxs (.of_afterLookups (readUse_afterLookups ..)) ht
    obtain ⟨sk, -, hstep⟩ := got_bind_eq_ok.mp hstep
    obtain ⟨x, hx, hstep⟩ := got_bind_eq_ok.mp hstep
    cases hstep
    exact hv.setDrgCtx (foldGot_keeps (P := fun y : DrgCtx => y.jobs = (drgCtx v d cx.val).jobs)
      (fun _ _ _ hy he => (scanEntry_jobs he).trans hy) _ rfl hx)

theorem scanPosting_spec {l : Nat × Nat} (hu : scanPosting s d key j r = .ok u) (hnodup : j.ctxs.Nodup) (hl : jobList s d j r = .ok l)
    (haligned : l.1 % 64 = 0) : u.mem = s.mem ∧
    (32 * (j.block + 1) < l.2 → tabGet j (u.dieAt d).drgJobs key = { j with block := j.block + 1 }) ∧
    (l.2 ≤ 32 * (j.block + 1) → (∀ y ∈ (u.dieAt d).drgJobs, y.1 ≠ key) ∧
      ∀ y ∈ j.ctxs, (drgCtx u d y.val).jobs = (drgCtx s d y.val).jobs - 1) := by
  obtain ⟨t, ⟨hmem, -, hjobs⟩, rfl⟩ := scanPosting_scans hu hl haligned
  by_cases hend : l.2 ≤ 32 * (j.block + 1)
  · rw [if_pos hend]
    refine ⟨(endJob_frame ..).1.trans hmem, fun h => absurd h (by omega), fun _ => ⟨not_mem_endJob _ _ _ _, fun y hy => ?_⟩⟩
    rw [jobs_endJob hnodup hy, hjobs]
  · rw [if_neg hend]
    refine ⟨hmem, fun _ => ?_, fun h => absurd h hend⟩
    rw [nextBlock, dieAt_modDie, tabGet_tabSet_same]

/-- A bundle ends its job. -/
theorem not_mem_scanBundles (hu : scanBundles s d key j r = .ok u) : ∀ y ∈ (u.dieAt d).drgJobs, y.1 ≠ key := by
  obtain ⟨c, -, hu⟩ := got_bind_eq_ok.mp hu
  obtain ⟨t, -, hu⟩ := got_bind_eq_ok.mp hu
  cases hu
  exact not_mem_endJob _ _ _ _

/-- The job at a place of the table has its step. -/
theorem scanBlock_gives {die : Fin 4} {job : Fin 64} (hclk : coreClocks s = true) (hjob : (s.dieAt die.val).drgJobs[job.val]? = some (key, j))
    (hsupply : supplyHold s die.val = false) (hr : macroAt s die.val j.acc = some r)
    (hu : (if wOpcode r.word = 0x18 then scanPosting s die.val key j r else scanBundles s die.val key j r) = .ok u) :
    Gives (.scanBlock die job) s u := by
  unfold Gives
  rw [exec_scanBlock, execScanBlock, whileClocked_of_clock hclk, hjob]
  simp only [hsupply, Bool.not_false, whenEnabled_true, scanStep, hr, hu, drgResult]

end scan

/-! ### SCAN_JOB_END -/

section ends

variable {s : State} {die : Fin 4} {cx : Fin 2048} {r : MacroRec} {x : DrgCtx}

theorem cxOf_val (cx : Fin 2048) : cxOf cx.val = cx := Fin.ext (Nat.mod_eq_of_lt cx.isLt)

/-- A query's scan ends: it widens by list `n`. -/
def widenedBy (s : State) (d cx : Nat) (x : DrgCtx) (n : Nat) : State :=
  addJob (setDrgCtx s d cx { x with probes := x.probes ++ [n], widened := x.widened + 1, jobs := 1 }) d
    { acc := x.acc, list := n, ctxs := [cxOf cx], block := 0 }

section search

variable {c : SearchCmd} (hc : searchCmd s (reqOf s r) r.word = .ok c)
include hc

theorem endScanSearch_of_widens (d cx : Nat) (hwidens : x.shortlist.length < c.topk ∧ x.widened < c.widen ∧ x.probes.length < c.nlist)
    {l : List Nat} (hl : SearchCmd.ranked s (reqOf s r) c x.query = .ok l) :
    endScanSearch s d cx x r = .ok (widenedBy s d cx x (l.getD x.probes.length 0)) := by
  rw [endScanSearch, hc]
  simp only [bind, Except.bind, if_pos hwidens, hl]
  rfl

variable (hstays : ¬(x.shortlist.length < c.topk ∧ x.widened < c.widen ∧ x.probes.length < c.nlist))
include hstays

theorem endScanSearch_of_outOfRange (d cx : Nat) (hout : outOfRangeFault c.rr x = true) :
    endScanSearch s d cx x r = .ok (haltCtx s d cx 0x7009) := by
  rw [endScanSearch, hc]
  simp only [bind, Except.bind, if_neg hstays, hout]
  rfl

theorem endScanSearch_of_passes (d cx : Nat) (hout : outOfRangeFault c.rr x = false) {u : State}
    (hu : writeShortlist s (reqOf s r) c x = .ok u) : endScanSearch s d cx x r = .ok (setDrgCtx u d cx { x with state := 4 }) := by
  rw [endScanSearch, hc]
  simp only [bind, Except.bind, if_neg hstays, hout, hu]
  rfl

end search

/-- R264: a block whose forced bales exceed SEL is in HALT. -/
theorem endScanSelect_eq {c : SelectCmd} {b : SelectBlock} {cs : List Candidate} (hc : selectCmd s (reqOf s r) r.word = .ok c) (d cx : Nat)
    (hb : selectBlock s (reqOf s r) c x.query = .ok b) (hcs : candidates s (reqOf s r) d c b = .ok cs) : endScanSelect s d cx x r =
      .ok (if c.sel < (forcedBales c b cs).length then haltCtx s d cx 0x7008 else setDrgCtx s d cx { x with state := 4 }) := by
  rw [endScanSelect, hc]
  simp only [bind, Except.bind, hb, hcs]
  rfl

section gives

variable {t : State} (hclk : coreClocks s = true) (hx : drgCtx s die.val cx.val = x) (hr : macroAt s die.val x.acc = some r)
  (hstate : x.state = 3) (hformed : x.formed = true) (hjobs : x.jobs = 0)
include hclk hx hr hstate hformed hjobs

/-- The end of a query's scan. -/
theorem scanJobEnd_search (hsel : x.select = false) (ht : endScanSearch s die.val cx.val x r = .ok t) : Gives (.scanJobEnd die cx) s t := by
  unfold Gives
  rw [exec_scanJobEnd, execScanJobEnd, whileClocked_of_clock hclk]
  simp only [endScan, hx, hstate, hformed, hjobs, and_self, if_true, hr, hsel, Bool.false_eq_true, if_false, ht]

/-- The end of a block's scan. -/
theorem scanJobEnd_select (hsel : x.select = true) (ht : endScanSelect s die.val cx.val x r = .ok t) : Gives (.scanJobEnd die cx) s t := by
  unfold Gives
  rw [exec_scanJobEnd, execScanJobEnd, whileClocked_of_clock hclk]
  simp only [endScan, hx, hstate, hformed, hjobs, and_self, if_true, hr, hsel, ht]

end gives

theorem widenedBy_spec (s : State) (d : Nat) (cx : Fin 2048) (x : DrgCtx) (n : Nat) : (widenedBy s d cx.val x n).mem = s.mem ∧
    drgCtx (widenedBy s d cx.val x n) d cx.val = { x with probes := x.probes ++ [n], widened := x.widened + 1, jobs := 1 } ∧
    ∃ j ∈ ((widenedBy s d cx.val x n).dieAt d).drgJobs, j.2 = { acc := x.acc, list := n, ctxs := [cx], block := 0 } := by
  refine ⟨rfl, ?_, ?_⟩
  · rw [widenedBy, drgCtx_addJob, drgCtx_setDrgCtx]
  · rw [widenedBy, cxOf_val]
    exact exists_mem_addJob ..

end ends

end Sys2Proof.Machine
end

section
/-!
Arrival, re-rank, results and teardown of the contexts of a dragoman (08_dragoman R237, R239, R255, R256, R265, R266, R269).
-/

namespace Sys2Proof.Machine

open Sys2Proof.Claims

theorem exec_fetchArrive (die : Fin 4) (cx : Fin 2048) (s : State) : exec (.fetchArrive die cx) s = execFetchArrive die cx s := rfl
theorem exec_rerank (die : Fin 4) (cx : Fin 2048) (arrived : Bool) (s : State) : exec (.rerank die cx arrived) s = execRerank die cx arrived s := rfl
theorem exec_emit (die : Fin 4) (cx : Fin 2048) (s : State) : exec (.emit die cx) s = execEmit die cx s := rfl
theorem exec_dragomanTeardownFree (die : Fin 4) (ctx : Fin 64) (s : State) :
    exec (.dragomanTeardownFree die ctx) s = execDragomanTeardownFree die ctx s := rfl

/-! ### FETCH_ARRIVE and RERANK -/

section rerank

variable {s : State} {die : Fin 4} {cx : Fin 2048} {arrived : Bool} {x : DrgCtx} {k : Nat × Nat × Nat}
  (hclk : coreClocks s = true) (hx : drgCtx s die.val cx.val = x)
include hclk hx

theorem fetchArrive_gives (hstate : x.state = 5) : Gives (.fetchArrive die cx) s (setDrgCtx s die.val cx.val { x with state := 4 }) := by
  unfold Gives
  rw [exec_fetchArrive, execFetchArrive, whileClocked_of_clock hclk]
  simp only [hx, hstate, beq_self_eq_true, whenEnabled_true]

variable (hstate : x.state = 4)
include hstate

theorem rerank_gives : Gives (.rerank die cx arrived) s (rerankStep s die.val cx.val arrived) := by
  have hne : (drgCtx s die.val cx.val).state ≠ 0 := by rw [hx, hstate]; decide
  have hmem := mem_drgCtxs_of_state s die.val hne
  have hany : ((s.dieAt die.val).drgCtxs.any fun e => e.2.state == 4) = true :=
    List.any_eq_true.mpr ⟨_, hmem, by rw [hx, hstate]; rfl⟩
  unfold Gives
  rw [exec_rerank, execRerank, whileClocked_of_clock hclk, if_pos hany]

theorem rerank_ends (hend : x.shortlist.length ≤ x.dists.length) :
    Gives (.rerank die cx arrived) s (setDrgCtx s die.val cx.val { x with state := 6 }) := by
  have h := rerank_gives (arrived := arrived) hclk hx hstate
  simpa only [rerankStep, hx, hstate, ne_eq, not_true, if_false, List.getElem?_eq_none hend] using h

variable (hk : x.shortlist[x.dists.length]? = some k)
include hk

theorem rerank_waits : Gives (.rerank die cx false) s (setDrgCtx s die.val cx.val { x with state := 5 }) := by
  have h := rerank_gives (arrived := false) hclk hx hstate
  simpa only [rerankStep, hx, hstate, ne_eq, not_true, if_false, hk, Bool.not_false, if_true] using h

/-- One distance of re-rank, after the look-up of its bale and the reads of its data. -/
theorem rerank_measures {r : MacroRec} (hr : macroAt s die.val x.acc = some r) {v : BitVec 32} :
    let t := blockLookups s die.val x r fun _ => [k.2.1]
    let u := readsUse t (reqOf s r) (rerankSpans t die.val x r k)
    nextDistance u die.val x r k = .ok v → Gives (.rerank die cx true) s (setDrgCtx u die.val cx.val
      { x with dists := x.dists ++ [v], state := if x.shortlist.length ≤ x.dists.length + 1 then 6 else 4 }) := by
  intro t u hv
  have hreq : reqOf t r = reqOf s r := (blockLookups_keeps ..).1.reqOf_eq r
  have h := rerank_gives (arrived := true) hclk hx hstate
  simp only [rerankStep, hx, hstate, ne_eq, not_true, if_false, hk, Bool.not_true, Bool.false_eq_true, hr] at h
  rw [show reqOf (blockLookups s die.val x r fun _ => [k.2.1]) r = reqOf s r from hreq] at h
  rw [show nextDistance (readsUse (blockLookups s die.val x r fun _ => [k.2.1]) (reqOf s r)
    (rerankSpans (blockLookups s die.val x r fun _ => [k.2.1]) die.val x r k)) die.val x r k = .ok v from hv] at h
  exact h

end rerank

/-! ### EMIT -/

section emit

/-- The result of a context is written. -/
def ctxResult (s : State) (d : Nat) (x : DrgCtx) (r : MacroRec) : Got State :=
  if x.select then (selectCmd s (reqOf s r) r.word).bind fun c => selectResult s (reqOf s r) d c x
  else (searchCmd s (reqOf s r) r.word).bind fun c => searchResult s (reqOf s r) c x

/-- The epoch slot of a context counts one query less (R245). -/
def slotLess (s : State) (q : Req) (x : DrgCtx) : Got State :=
  match x.slot with
  | some a => addActive s q a false 1
  | none => .ok s

/-- The record of a context's command counts one more that has ended. -/
def countEnded (s : State) (d acc : Nat) : State :=
  match macroAt s d acc with
  | some y => setMacro s d { y with ended := y.ended + 1 }
  | none => s

variable {s u : State} {x : DrgCtx} {r : MacroRec}

theorem emitCtx_eq (s : State) (d : Nat) (cx : Fin 2048) (x : DrgCtx) (r : MacroRec) : emitCtx s d cx x r =
    (ctxResult s d x r).bind fun t => (slotLess t (reqOf s r) x).bind fun t => .ok (countEnded (freeDrgCtx t d cx) d x.acc) := by
  unfold emitCtx
  extract_lets q ended release
  have hrelease : ∀ t, release t = (slotLess t q x).bind fun t => .ok (countEnded (freeDrgCtx t d cx) d x.acc) := by
    intro t
    simp only [release, ended, slotLess]
    cases x.slot <;> rfl
  rw [← funext hrelease, ctxResult]
  cases x.select
  · cases searchCmd s q r.word <;> rfl
  · cases selectCmd s q r.word <;> rfl

/-- A context whose result is written is FREE. -/
theorem emitCtx_frees {d : Nat} {cx : Fin 2048} (hu : emitCtx s d cx x r = .ok u) : (drgCtx u d cx.val).state = 0 := by
  rw [emitCtx_eq] at hu
  obtain ⟨t, -, hu⟩ := got_bind_eq_ok.mp hu
  obtain ⟨v, -, hu⟩ := got_bind_eq_ok.mp hu
  cases hu
  unfold countEnded
  split
  · rw [setMacro_drgCtx, drgCtx_freeDrgCtx]
  · rw [drgCtx_freeDrgCtx]

theorem emit_gives {die : Fin 4} {cx : Fin 2048} (hclk : coreClocks s = true) (hx : drgCtx s die.val cx.val = x) (hstate : x.state = 6 ∨ x.state = 7)
    (hr : macroAt s die.val x.acc = some r) (hu : emitCtx s die.val cx x r = .ok u) : Gives (.emit die cx) s u := by
  unfold Gives
  rw [exec_emit, execEmit, whileClocked_of_clock hclk]
  simp only [emitStep, hx, if_pos hstate, hr, hu, drgResult]

end emit

/-! ### DRAGOMAN_TEARDOWN_FREE -/

section teardown

/-- The slot of a context that is torn down counts one query less, or the fault of that is logged. -/
def slotTorn (s : State) (e : Nat × DrgCtx) : State :=
  match e.2.slot with
  | some a =>
    match addActive s { owner := .nobody, part := some e.2.part.toNat, ctx := e.2.ctx } a false 1 with
    | .ok u => u
    | .error f => logWrite s (faultRec s .nobody f.1 f.2)
  | none => s

theorem tearDrgCtx_eq (s : State) (d : Nat) (e : Nat × DrgCtx) : tearDrgCtx s d e = freeDrgCtx (slotTorn s e) d (cxOf e.1) := rfl

theorem slotTorn_keepsCommands (s : State) (e : Nat × DrgCtx) : KeepsCommands s (slotTorn s e) := by
  unfold slotTorn
  split
  · split
    next h => exact addActive_keepsCommands h
    · exact logWrite_keepsCommands ..
  · exact .refl s

variable (s : State) (d : Nat)

theorem tearDrgCtx_sameRecords (e : Nat × DrgCtx) : SameRecords s (tearDrgCtx s d e) :=
  (slotTorn_keepsCommands s e).sameRecords.trans (freeDrgCtx_sameRecords ..)

theorem drgCtxs_tearDrgCtx (e : Nat × DrgCtx) : ((tearDrgCtx s d e).dieAt d).drgCtxs = tabErase (s.dieAt d).drgCtxs (cxOf e.1).val := by
  rw [tearDrgCtx_eq, drgCtxs_freeDrgCtx, (slotTorn_keepsCommands s e).drgCtxs_eq]

/-- The contexts of a torn context whose command is gone. -/
def tornCtxs (ctx : Fin 64) : List (Nat × DrgCtx) :=
  (s.dieAt d).drgCtxs.filter fun e => e.2.state != 0 && e.2.ctx == some ctx && (macroAt s d e.2.acc).isNone

variable {s d}

/-- R239: after a teardown each context of the torn one has its command still. -/
theorem teardown_leaves {ctx : Fin 64} (hbound : ∀ y ∈ (s.dieAt d).drgCtxs, y.1 < 2048) {t : State}
    (ht : (tornCtxs s d ctx).foldl (fun u e => tearDrgCtx u d e) s = t) :
    ∀ y ∈ (t.dieAt d).drgCtxs, y.2.state ≠ 0 → y.2.ctx = some ctx → macroAt t d y.2.acc ≠ none := by
  intro y hy hstate hctx
  have hrec : SameRecords s t := ht ▸ .foldl (fun u e => tearDrgCtx_sameRecords u d e) _ s
  have hsub : ∀ u e, ∀ x ∈ ((tearDrgCtx u d e).dieAt d).drgCtxs, x ∈ (u.dieAt d).drgCtxs ∧ x.1 ≠ (cxOf e.1).val := fun u e x hx =>
    mem_tabErase.mp (drgCtxs_tearDrgCtx u d e ▸ hx)
  have hold : y ∈ (s.dieAt d).drgCtxs := by
    have hsubset : ∀ x ∈ (t.dieAt d).drgCtxs, x ∈ (s.dieAt d).drgCtxs := by
      rw [← ht]
      exact (tornCtxs s d ctx).foldlRecOn _ (motive := fun u : State => ∀ x ∈ (u.dieAt d).drgCtxs, x ∈ (s.dieAt d).drgCtxs)
        (fun _ hx => hx) fun u hu e _ x hx => hu x (hsub u e x hx).1
    exact hsubset y hy
  have hleft : ∀ e ∈ tornCtxs s d ctx, y.1 ≠ (cxOf e.1).val := by
    have hestablished := foldl_establishes (I := fun _ : State => True) (f := fun u e => tearDrgCtx u d e)
      (P := fun u e => ∀ x ∈ (u.dieAt d).drgCtxs, x.1 ≠ (cxOf e.1).val) (fun _ _ _ => trivial) (fun u e _ x hx => (hsub u e x hx).2)
      (fun u e _ hP x hx => hP x (hsub u e x hx).1) (tornCtxs s d ctx) s trivial
    rw [ht] at hestablished
    exact fun e he => hestablished e he y hy
  intro hnone
  rw [hrec.macroAt_eq] at hnone
  have hy' : y ∈ tornCtxs s d ctx := List.mem_filter.mpr ⟨hold, by simp [hstate, hctx, hnone]⟩
  exact hleft y hy' (Nat.mod_eq_of_lt (hbound y hold)).symm

theorem teardownFree_gives {die : Fin 4} {ctx : Fin 64} (hclk : coreClocks s = true) :
    Gives (.dragomanTeardownFree die ctx) s ((tornCtxs s die.val ctx).foldl (fun u e => tearDrgCtx u die.val e) s) := by
  unfold Gives
  rw [exec_dragomanTeardownFree, execDragomanTeardownFree, whileClocked_of_clock hclk]
  rfl

end teardown

end Sys2Proof.Machine
end

section
/-!
The place of a command in its ledger (05_macro R121, R146): number, word, NEXT and windows. Faults, teardowns and writes of results give no place
to a command that it did not have.
-/

namespace Sys2Proof.Machine

open Sys2Proof.Claims

/-! ### Records that stand -/

theorem SameRecords.of_eq {s t : State} (hdies : t.dies = s.dies) (hhub : t.hubMacros = s.hubMacros) : SameRecords s t :=
  ⟨fun _ => by rw [macrosOf, macrosOf, State.dieAt, State.dieAt, hdies, hhub]⟩

theorem OnlyEcs.sameRecords {s t : State} (h : OnlyEcs s t) : SameRecords s t := by
  obtain ⟨_, rfl⟩ := h
  exact .of_eq rfl rfl

theorem hubStore_sameRecords (s : State) (q : Req) (a : Nat) (bs : List Byte) : SameRecords s (hubStore s q a bs) :=
  (hubStore_keepsCommands ..).sameRecords

theorem logWrite_sameRecords (s : State) (r : LogRec) : SameRecords s (logWrite s r) := (logWrite_keepsCommands ..).sameRecords

section teardown

variable (s : State) (c : Fin 64) (code : Code)

theorem modSteward_sameRecords (k : Nat) (f : Steward → Steward) : SameRecords s (s.modSteward k f) := .of_eq rfl rfl
theorem setCtx_sameRecords (k : Nat) (x : Context) : SameRecords s (s.setCtx k x) := .of_eq rfl rfl
theorem setPort_sameRecords (n : Nat) (p : Port) : SameRecords s (s.setPort n p) := .of_eq rfl rfl
theorem setGroup_sameRecords (g : Nat) (x : Group) : SameRecords s (s.setGroup g x) := .of_eq rfl rfl
theorem setSlot_sameRecords (u i : Nat) (x : Slot) : SameRecords s (s.setSlot u i x) := .of_eq rfl rfl
theorem modEc_sameRecords (e : Nat) (f : Ec → Ec) : SameRecords s (s.modEc e f) := .of_eq rfl rfl
theorem giveCredits_sameRecords (g vc n : Nat) : SameRecords s (giveCredits s g vc n) := setGroup_sameRecords ..
theorem pairIncrease_sameRecords (e n : Nat) (free : Bool) (k : Nat) : SameRecords s (pairIncrease s e n free k).1 := .of_eq rfl rfl

theorem hubVector_sameRecords (v : Nat) : SameRecords s (hubVector s v) := by
  unfold hubVector
  split
  · exact .of_eq rfl rfl
  · rw [raiseVector_frame]
    exact .of_eq rfl rfl

theorem withdrawYields_sameRecords : SameRecords s (withdrawYields s c) := by
  refine SameRecords.foldl (fun t h => ?_) _ s
  dsimp only
  split
  · exact SameRecords.trans (SameRecords.foldl (fun u e => (modSteward_sameRecords ..).trans (modSteward_sameRecords ..)) _ t)
      (setCtx_sameRecords ..)
  · exact .refl t

theorem leaveReady_sameRecords : SameRecords s (leaveReady s c) := by
  refine (withdrawYields_sameRecords s c).trans (SameRecords.foldl (fun t e => ?_) _ _)
  split
  · exact modEc_sameRecords ..
  · exact .refl t

theorem recallPort_sameRecords (u i n : Nat) : SameRecords s (recallPort s u i n) :=
  (setPort_sameRecords s n { s.portAt n with transmit := (s.portAt n).transmit.filter fun m => !(unbegun (s.portAt n) u i).contains m }).trans
    (SameRecords.foldl (fun t _ => giveCredits_sameRecords t _ _ _) _ _)

theorem recallMessages_sameRecords (u i : Nat) : SameRecords s (recallMessages s u i) :=
  SameRecords.foldl (fun t g => (SameRecords.foldl (fun v n => recallPort_sameRecords v u i n) (groupPorts g) t).trans
    (setGroup_sameRecords ..)) _ s

theorem signalWritten_sameRecords (x : Slot) : SameRecords s (signalWritten s x) := by
  unfold signalWritten
  split
  · exact .refl s
  · dsimp only
    split
    · exact (pairIncrease_sameRecords ..).trans (logWrite_sameRecords ..)
    · exact pairIncrease_sameRecords ..

theorem abortSlot_sameRecords (u i : Nat) : SameRecords s (abortSlot s u i code) := by
  unfold abortSlot
  dsimp only
  exact ((recallMessages_sameRecords s u i).trans (signalWritten_sameRecords ..)).trans (setSlot_sameRecords ..)

theorem abortStreams_sameRecords : SameRecords s (abortStreams s c code) := by
  unfold abortStreams
  dsimp only
  refine SameRecords.trans (SameRecords.foldl (fun t _ => ?_) s.slots s) (.of_eq rfl rfl)
  split
  · exact abortSlot_sameRecords ..
  · exact .refl t

theorem writeTaskRecord_sameRecords (c : Option (Fin 64)) (x : TaskRegs) : SameRecords s (writeTaskRecord s c x code) :=
  (hubStore_sameRecords ..).trans (hubStore_sameRecords ..)

theorem endVector_sameRecords (c : Fin 64) (x : TaskRegs) :
    SameRecords s ((if (s.queueAt x.queue.toNat).irq then hubVector s (s.queueAt x.queue.toNat).vector.toNat else s).modCtx c.val
      fun y => { y with torn := y.torn + 1 }) := by
  split
  · exact (hubVector_sameRecords ..).trans (setCtx_sameRecords ..)
  · exact setCtx_sameRecords ..

theorem endTorn_sameRecords (x : TaskRegs) : SameRecords s (endTorn s c code x) := by
  unfold endTorn
  split
  · exact .refl s
  · exact (writeTaskRecord_sameRecords s code (some c) x).trans (endVector_sameRecords ..)

theorem tearTask_sameRecords (e i : Nat) : SameRecords s (tearTask s c code e i) := (endTorn_sameRecords ..).trans (.of_eq rfl rfl)

theorem tearSaved_sameRecords : SameRecords s (tearSaved s c code) :=
  (SameRecords.foldl (f := fun (t : State) (x : Nat × TaskRegs) => endTorn t c code x.2) (fun t x => endTorn_sameRecords t c code x.2) _ s).trans
    (setCtx_sameRecords ..)

theorem releaseEc_sameRecords (e : Nat) : SameRecords s (releaseEc s e) := .of_eq rfl rfl

theorem dropCaravan_sameRecords : SameRecords s (dropCaravan s c) := by
  unfold dropCaravan
  split
  · exact .of_eq rfl rfl
  · exact .refl s

theorem dropLab_sameRecords (p : Nat) : SameRecords s (dropLab s p) :=
  SameRecords.foldl (f := fun (u : State) (d : Nat) => u.modDie d fun y => { y with lab := y.lab.filter fun l => l.part != p })
    (fun _ _ => .modDie (fun _ => by rfl) ..) _ s

theorem putRecord_sameRecords (n off : Nat) (bs : List Byte) : SameRecords s (putRecord s n off bs) := by
  unfold putRecord
  split
  · exact .refl s
  · exact hubStore_sameRecords ..

theorem changeQueues_sameRecords (f : Nat × Queue → Queue) : SameRecords s (changeQueues s f) := by
  unfold changeQueues
  have hqueues : SameRecords s { s with queues := s.queues.map fun e => (e.1, f e) } := .of_eq rfl rfl
  refine hqueues.trans (SameRecords.foldl ?_ _ _)
  exact fun t e => putRecord_sameRecords ..

theorem stopQueues_sameRecords : SameRecords s (stopQueues s c) := changeQueues_sameRecords ..

end teardown

/-! ### Places -/

/-- The place of a command in its ledger. -/
def MacroRec.place (r : MacroRec) : Nat × List Byte × Nat × Tab (Nat × Nat) := (r.acc, r.word, r.next, r.windows)

/-- The record has a place of the ledger. -/
def HasPlace (s : State) (port : Nat) (r : MacroRec) : Prop := ∃ y ∈ macrosOf s port, r.place = y.place

/-- Every record has the place that it, or one with its number, had. -/
structure PlacesKept (s t : State) : Prop where
  hasPlace : ∀ port, ∀ x ∈ macrosOf t port, HasPlace s port x

theorem HasPlace.of_macroAt {s : State} {port acc : Nat} {r : MacroRec} (h : macroAt s port acc = some r) : HasPlace s port r :=
  ⟨r, List.mem_of_find?_eq_some h, rfl⟩

namespace PlacesKept

variable {s t u : State}

theorem of_sameRecords (h : SameRecords s t) : PlacesKept s t := ⟨fun port x hx => ⟨x, h.macrosOf_eq port ▸ hx, rfl⟩⟩

theorem refl (s : State) : PlacesKept s s := of_sameRecords (.refl s)

theorem trans (h : PlacesKept s t) (h' : PlacesKept t u) : PlacesKept s u := by
  refine ⟨fun port x hx => ?_⟩
  obtain ⟨y, hy, hxy⟩ := h'.hasPlace port x hx
  obtain ⟨z, hz, hyz⟩ := h.hasPlace port y hy
  exact ⟨z, hz, hxy.trans hyz⟩

theorem foldl {ι : Type} {f : State → ι → State} (hf : ∀ t i, PlacesKept t (f t i)) (l : List ι) (s : State) : PlacesKept s (l.foldl f s) :=
  l.foldlRecOn f (motive := PlacesKept s) (.refl s) fun _ ht _ _ => ht.trans (hf _ _)

theorem foldGot {ι : Type} {f : State → ι → Got State} (hf : ∀ t i u, f t i = .ok u → PlacesKept t u) {l : List ι}
    (h : Machine.foldGot f s l = .ok t) : PlacesKept s t :=
  foldGot_keeps (P := PlacesKept s) (fun u i v hu hv => hu.trans (hf u i v hv)) l (.refl s) h

end PlacesKept

/-- The records of another port stand, or the two ports are of one ledger. -/
theorem macrosOf_setMacros_cases (s : State) (port p : Nat) (l : List MacroRec) :
    macrosOf (setMacros s port l) p = macrosOf s p ∨ (macrosOf (setMacros s port l) p = l ∧ macrosOf s p = macrosOf s port) := by
  by_cases hp : p = port
  · subst hp
    exact .inr ⟨macrosOf_setMacros .., rfl⟩
  · unfold setMacros macrosOf
    by_cases h : port < 4
    · simp only [if_pos h, dieAt_modDie_ne _ _ _ _ hp]
      exact .inl rfl
    · by_cases h' : p < 4
      · simp only [if_neg h, if_pos h']
        exact .inl rfl
      · simp only [if_neg h, if_neg h', and_self, or_true]

theorem setMacros_placesKept {s : State} {port : Nat} {l : List MacroRec} (hl : ∀ x ∈ l, HasPlace s port x) :
    PlacesKept s (setMacros s port l) := by
  refine ⟨fun p x hx => ?_⟩
  obtain hsame | ⟨hnew, hport⟩ := macrosOf_setMacros_cases s port p l
  · exact ⟨x, hsame ▸ hx, rfl⟩
  · rw [hnew] at hx
    rw [HasPlace, hport]
    exact hl x hx

/-- A record that is written with a place of the ledger. -/
theorem setMacro_placesKept {s : State} {port : Nat} {r : MacroRec} (hr : HasPlace s port r) : PlacesKept s (setMacro s port r) := by
  refine setMacros_placesKept fun x hx => ?_
  obtain ⟨y, hy, rfl⟩ := List.mem_map.mp hx
  split
  · exact hr
  · exact ⟨y, hy, rfl⟩

theorem HasPlace.of_same {s : State} {port : Nat} {r z : MacroRec} (h : HasPlace s port r) (hz : z.place = r.place) : HasPlace s port z := by
  obtain ⟨y, hy, hry⟩ := h
  exact ⟨y, hy, hz.trans hry⟩

theorem SameRecords.hasPlace {s t : State} (h : SameRecords s t) {port : Nat} {r : MacroRec} (hr : HasPlace s port r) : HasPlace t port r := by
  rwa [HasPlace, h.macrosOf_eq]

/-! ### Faults -/

theorem removeCommand_placesKept (s : State) (port : Nat) (r : MacroRec) : PlacesKept s (removeCommand s port r) := by
  have hleft : SameRecords s (retire (leaveQueues s port r) r.issuer.val) := by
    refine SameRecords.trans (.foldl (fun t u => ?_) _ s) (.of_eq rfl rfl)
    unfold setQueueOf
    split
    · exact .of_eq rfl rfl
    · exact .of_eq rfl rfl
  have hplace : ∀ t : State, PlacesKept t (withoutMacro t port r) := fun t => by
    have hfilter : PlacesKept t (setMacros t port ((macrosOf t port).filter fun x => x.acc != r.acc)) :=
      setMacros_placesKept fun x hx => ⟨x, (List.mem_filter.mp hx).1, rfl⟩
    unfold withoutMacro
    dsimp only
    split
    · exact hfilter.trans (.of_sameRecords ((SameRecords.modDie (fun _ => by rfl) ..).trans (.modDie (fun _ => by rfl) ..)))
    · exact hfilter
  exact (PlacesKept.of_sameRecords hleft).trans (hplace _)

theorem abortCommands_placesKept (s : State) (c : Fin 64) (code : Code) (port : Nat) : PlacesKept s (abortCommands s c code port) := by
  refine .foldl (fun t r => ?_) _ s
  unfold abortCommand
  dsimp only
  split
  · exact (PlacesKept.of_sameRecords (hubStore_sameRecords ..)).trans (removeCommand_placesKept ..)
  · exact removeCommand_placesKept ..

theorem teardown_placesKept (s : State) (c : Fin 64) (code : Code) : PlacesKept s (teardown s c code) := by
  unfold teardown
  extract_lets x t0 t1 t2 t3 ecs t4 t5 t6 t7 t8 t9
  split
  · split
    · exact .of_sameRecords (.of_eq rfl rfl)
    · exact .refl s
  · have h1 : SameRecords s t1 := by
      unfold t1
      split
      · exact SameRecords.trans (t := t0) (.of_eq rfl rfl) (leaveReady_sameRecords ..)
      · exact .of_eq rfl rfl
    have h3 : PlacesKept t2 t3 := .foldl (fun _ _ => abortCommands_placesKept ..) _ _
    have h4 : SameRecords t3 t4 :=
      (tearSaved_sameRecords ..).trans (.foldl (fun _ _ => (tearTask_sameRecords ..).trans (tearTask_sameRecords ..)) _ _)
    have h5 : SameRecords t4 t5 := SameRecords.foldl (fun u e => releaseEc_sameRecords u e) _ _
    clear_value t5
    have h6 : SameRecords t5 t6 := .of_eq rfl rfl
    have h9 : SameRecords t6 t9 :=
      ((dropCaravan_sameRecords ..).trans (dropLab_sameRecords ..)).trans (stopQueues_sameRecords ..)
    have hall : PlacesKept s t9 :=
      ((PlacesKept.of_sameRecords (h1.trans (abortStreams_sameRecords ..))).trans h3).trans (.of_sameRecords (((h4.trans h5).trans h6).trans h9))
    split
    · exact hall
    · exact hall.trans (.of_sameRecords (hubStore_sameRecords ..))

theorem memoryFault_placesKept (s : State) (o : Owner) (code : Code) (a : Nat) : PlacesKept s (memoryFault s o code a) := by
  have hlog := PlacesKept.of_sameRecords (logWrite_sameRecords s (faultRec s o code a))
  unfold memoryFault
  dsimp only
  split
  · exact hlog.trans (teardown_placesKept ..)
  · exact hlog

theorem commandError_placesKept {s : State} {port : Nat} {r : MacroRec} (hr : HasPlace s port r) (e : MemErr) :
    PlacesKept s (commandError s port r e) := by
  unfold commandError
  split
  · exact .of_sameRecords (countHeld_onlyEcs ..).sameRecords
  · split
    · have hfault := memoryFault_placesKept s (.task r.issuer) e.1 e.2
      dsimp only
      split
      · exact hfault
      next x hx => exact hfault.trans (setMacro_placesKept ((HasPlace.of_macroAt hx).of_same rfl))
    · have hlog : SameRecords s (logCommand s port r e.1) := logWrite_sameRecords ..
      exact (PlacesKept.of_sameRecords hlog).trans (setMacro_placesKept ((hlog.hasPlace hr).of_same rfl))

end Sys2Proof.Machine
end

section
/-!
SEARCH and SELECT_BALES as whole commands (08_dragoman R249, R260): once the ledger has given out what is left of such a command (05_macro R146), its
record has no windows and no tile after NEXT, and its coarse tiles, its contexts and their results leave it so.
-/

namespace Sys2Proof.Machine

open Sys2Proof.Claims

/-! ### Coarse tiles -/

section tiles

variable {s t : State} {q : Req}

theorem readsUse_sameRecords (s : State) (q : Req) (l : List (Nat × Nat)) : SameRecords s (readsUse s q l) :=
  (KeepsCommands.of_afterLookups (readsUse_afterLookups ..)).sameRecords

theorem readUse_sameRecords (s : State) (q : Req) (a n : Nat) : SameRecords s (readUse s q a n) :=
  (KeepsCommands.of_afterLookups (readUse_afterLookups ..)).sameRecords

theorem uWrite_sameRecords {a : Nat} {bs : List Byte} (h : uWrite s q a bs = .ok t) : SameRecords s t := (uWrite_keepsCommands h).sameRecords

theorem uWriteNat_sameRecords {a n v : Nat} (h : uWriteNat s q a n v = .ok t) : SameRecords s t := uWrite_sameRecords h

theorem drainOut_sameRecords {d : Desc} {v : View} {r c : Nat} {scales : List (BitVec 32)} {x : Accum} {y : State × BitVec 16}
    (h : drainOut q d v r c scales s x = .ok y) : SameRecords s y.1 := by
  obtain ⟨t, ht, rfl⟩ := got_map_eq_ok.mp h
  exact uWriteNat_sameRecords ht

theorem writePartial_sameRecords {d : Desc} {plane r c : Nat} {x : Accum} (h : writePartial s q d plane r c x = .ok t) : SameRecords s t := by
  unfold writePartial at h
  dsimp only at h
  split at h
  · exact uWriteNat_sameRecords h
  · split at h
    · cases h
    next u hu => exact (uWriteNat_sameRecords hu).trans (uWriteNat_sameRecords h)

/-- What a geometry drains leaves the records of commands. -/
def Geo.DrainsAside (g : Geo) : Prop := ∀ u l x a v, g.drain u l x a = .ok v → SameRecords u v.1

theorem searchGeo_drainsAside (s : State) (q : Req) (c : SearchCmd) (n : TileId) : (searchGeo s q c n).DrainsAside := by
  intro u l x a v h
  simp only [searchGeo, matGeo] at h
  split at h
  · split at h
    · split at h
      · cases h
      · exact drainOut_sameRecords h
    · obtain ⟨t, ht, rfl⟩ := got_map_eq_ok.mp h
      exact writePartial_sameRecords ht
  · split at h
    · cases h
    · exact drainOut_sameRecords h

theorem selectGeo_drainsAside (s : State) (q : Req) (die e g : Nat) (c : SelectCmd) (blocks : List (QueryBlock × Nat)) (n : TileId) (sub : Nat) :
    (selectGeo s q die e g c blocks n sub).DrainsAside := fun u l x a v h => by
  cases h
  exact .of_eq rfl rfl

theorem runCounted_sameRecords {e : Nat} {g : Geo} {y : State × BitVec 16} (hg : g.DrainsAside) (h : runCounted s q e g = .ok y) :
    SameRecords s y.1 := by
  obtain ⟨x, hx, rfl⟩ := got_map_eq_ok.mp h
  have hrun : SameRecords s x.1 := by
    refine foldGot_keeps (P := fun st : State × BitVec 16 => SameRecords s st.1) (fun st lx st' hst hstep => ?_) _
      (readsUse_sameRecords ..) hx
    split at hstep
    · cases hstep
    · cases hstep
      exact hst
    · obtain ⟨v, hv, rfl⟩ := got_map_eq_ok.mp hstep
      have hdrain := hg _ _ _ _ _ hv
      exact hst.trans hdrain
  dsimp only
  split
  · exact hrun
  · exact hrun.trans (modEc_sameRecords ..)

theorem coarseTile_sameRecords {d : Nat} {r : MacroRec} {n : Nat} {y : State × BitVec 16} (h : coarseTile d s r n = .ok y) :
    SameRecords s y.1 := by
  obtain ⟨w, -, h⟩ := got_bind_eq_ok.mp h
  split at h
  · obtain ⟨c, -, h⟩ := got_bind_eq_ok.mp h
    exact runCounted_sameRecords (searchGeo_drainsAside _ _ _ _) h
  · obtain ⟨c, -, h⟩ := got_bind_eq_ok.mp h
    obtain ⟨seqs, -, h⟩ := got_bind_eq_ok.mp h
    refine foldGot_keeps (P := fun st : State × BitVec 16 => SameRecords s st.1) (fun st sub st' hst hstep => ?_) _ (.refl s) h
    obtain ⟨v, hv, rfl⟩ := got_map_eq_ok.mp hstep
    have hrun := runCounted_sameRecords (selectGeo_drainsAside _ _ _ _ _ _ _ _ _) hv
    exact hst.trans hrun

theorem matCombine_sameRecords {c : MatCmd} {b : MatBatch} {d : Desc} {n : TileId} {y : State × BitVec 16}
    (h : matCombine s q c b d n = .ok y) : SameRecords s y.1 := by
  refine foldGot_keeps (P := fun st : State × BitVec 16 => SameRecords s st.1) (fun st rc st' hst hstep => ?_) _ (readsUse_sameRecords ..) h
  split at hstep
  · obtain ⟨v, hv, rfl⟩ := got_map_eq_ok.mp hstep
    have hdrain := drainOut_sameRecords hv
    exact hst.trans hdrain
  · cases hstep
    exact hst
  · cases hstep
  · cases hstep

/-- The combine step of a command of the dragoman. -/
theorem combineStepOf_sameRecords {e g : Nat} {r : MacroRec} {o : Nat} {y : State × BitVec 16}
    (hop : wOpcode r.word = 0x18 ∨ wOpcode r.word = 0x19)
    (h : combineStepOf s e g r o = .ok y) : SameRecords s y.1 := by
  obtain ⟨w, -, h⟩ := got_bind_eq_ok.mp h
  obtain hop | hop := hop
  · simp only [hop] at h
    obtain ⟨c, -, h⟩ := got_bind_eq_ok.mp h
    split at h
    · exact matCombine_sameRecords h
    · cases h
      exact .refl s
  · simp only [hop] at h
    cases h
    exact .refl s

theorem tileDrained_placesKept (s : State) (port acc tile : Nat) (fl : BitVec 16) : PlacesKept s (tileDrained s port acc tile fl) := by
  unfold tileDrained
  split
  · exact .refl s
  next r hr => exact setMacro_placesKept ((HasPlace.of_macroAt hr).of_same rfl)

theorem combineDone_placesKept (s : State) (port acc o : Nat) (fl : BitVec 16) : PlacesKept s (combineDone s port acc o fl) := by
  unfold combineDone
  split
  · exact .refl s
  next r hr => exact setMacro_placesKept ((HasPlace.of_macroAt hr).of_same rfl)

theorem eachTile_placesKept {port acc d : Nat} (l : List Nat) : ∀ {s t : State},
    eachTile port acc (plainTile (coarseTile d)) s l = .ok t → PlacesKept s t := by
  induction l with
  | nil => exact fun h => by cases h; exact .refl _
  | cons n l ih =>
    intro s t h
    rw [eachTile] at h
    split at h
    · cases h
      exact .refl s
    next r hr =>
      split at h
      · cases h
        exact .refl s
      · split at h
        next u fl hstep =>
          have hu := coarseTile_sameRecords (congrArg Prod.snd hstep)
          exact ((PlacesKept.of_sameRecords hu).trans (tileDrained_placesKept ..)).trans (ih h)
        next u z hstep =>
          obtain rfl : s = u := congrArg Prod.fst hstep
          split at h
          · cases h
          · exact (commandError_placesKept (HasPlace.of_macroAt hr) z).trans (ih h)

end tiles

/-! ### A command whose tiles are given out -/

/-- Nothing is left in the ledger of what the record asks for: no window, and no tile after NEXT. -/
structure GaveAll (t : State) (d : Nat) (r : MacroRec) : Prop where
  given : ∀ x ∈ macrosOf t d, x.acc = r.acc → x.word = r.word ∧ x.next = r.total ∧ x.windows = []

section given

variable {s t : State} {d : Nat} {r : MacroRec}

theorem GaveAll.of_placesKept (h : GaveAll s d r) (h' : PlacesKept s t) : GaveAll t d r := by
  refine ⟨fun x hx hacc => ?_⟩
  obtain ⟨y, hy, hxy⟩ := h'.hasPlace d x hx
  simp only [MacroRec.place, Prod.mk.injEq] at hxy
  obtain ⟨hacc', hword, hnext, hwindows⟩ := hxy
  rw [hword, hnext, hwindows]
  exact h.given y hy (hacc'.symm.trans hacc)

theorem GaveAll.of_macroAt (h : GaveAll s d r) {x : MacroRec} (hx : macroAt s d r.acc = some x) :
    x.word = r.word ∧ x.next = r.total ∧ x.windows = [] := h.given x (List.mem_of_find?_eq_some hx) (acc_of_macroAt hx)

/-- R146: the ledger grants every tile that is left. -/
theorem grantAll_gaveAll (s : State) (d : Nat) (r : MacroRec) : GaveAll (grantAll s d r) d r := by
  have hset : GaveAll (setMacro s d { r with windows := [], next := r.total }) d r := by
    refine ⟨fun x hx hacc => ?_⟩
    rw [setMacro, macrosOf_setMacros] at hx
    obtain ⟨y, -, rfl⟩ := List.mem_map.mp hx
    by_cases hy : y.acc = r.acc
    · simp only [hy, beq_self_eq_true, if_true, and_self]
    · rw [if_neg (by simpa using hy)] at hacc
      exact absurd hacc hy
  unfold grantAll
  dsimp only
  split
  · exact hset
  · exact hset.of_placesKept (.of_sameRecords (SameRecords.trans (.modDie (fun _ => by rfl) ..) (.modDie (fun _ => by rfl) ..)))

theorem eachCombine_gaveAll {e g : Nat} (hop : wOpcode r.word = 0x18 ∨ wOpcode r.word = 0x19) (l : List Nat) : ∀ {s t : State}, GaveAll s d r →
    eachCombine d r.acc e g s l = .ok t → GaveAll t d r := by
  induction l with
  | nil => exact fun hs h => by cases h; exact hs
  | cons o l ih =>
    intro s t hs h
    rw [eachCombine] at h
    split at h
    · cases h
      exact hs
    next x hx =>
      obtain ⟨hword, -⟩ := hs.of_macroAt hx
      split at h
      · cases h
        exact hs
      · split at h
        next u fl hstep =>
          have hu := combineStepOf_sameRecords (hword ▸ hop) hstep
          exact ih (hs.of_placesKept ((PlacesKept.of_sameRecords hu).trans (combineDone_placesKept ..))) h
        next z hstep =>
          split at h
          · cases h
          · exact ih (hs.of_placesKept (commandError_placesKept (HasPlace.of_macroAt hx) z)) h

theorem allTiles_gaveAll {die : Fin 4} (hop : wOpcode r.word = 0x18 ∨ wOpcode r.word = 0x19)
    (h : allTiles s die r (plainTile (coarseTile die.val)) = .ok t) : GaveAll t die.val r := by
  obtain ⟨u, hu, h⟩ := got_bind_eq_ok.mp h
  have hgave := (grantAll_gaveAll s die.val r).of_placesKept (eachTile_placesKept _ hu)
  split at h
  · exact eachCombine_gaveAll hop _ hgave h
  · cases h
    exact hgave

end given

end Sys2Proof.Machine
end

section
/-!
The contexts of SEARCH and SELECT_BALES from their waves to their results (08_dragoman R236, R237, R249, R260, R269): every step leaves the places of the
commands.
-/

namespace Sys2Proof.Machine

open Sys2Proof.Claims

theorem exec_search (die : Fin 4) (acc : Nat) (s : State) : exec (.search die acc) s = execSearch die acc s := rfl
theorem exec_selectBales (die : Fin 4) (acc : Nat) (s : State) : exec (.selectBales die acc) s = execSelectBales die acc s := rfl

/-! ### Halts and faults -/

section steps

variable (s : State) (d : Nat)

theorem haltCtx_placesKept (cx : Nat) (code : Code) : PlacesKept s (haltCtx s d cx code) := by
  have hhalted : PlacesKept s (haltedOnly s d cx code) :=
    .of_sameRecords ((setDrgCtx_sameRecords ..).trans (.modDie (fun _ => by rfl) ..))
  rw [haltCtx_eq]
  refine hhalted.trans ?_
  unfold commandHolds
  split
  next r hr =>
    have hlog : SameRecords (haltedOnly s d cx code) (logCommand (haltedOnly s d cx code) d r code) := logWrite_sameRecords ..
    exact (PlacesKept.of_sameRecords hlog).trans (setMacro_placesKept ((hlog.hasPlace (HasPlace.of_macroAt hr)).of_same rfl))
  · exact .refl _

theorem setDrgCtx_placesKept (cx : Nat) (x : DrgCtx) : PlacesKept s (setDrgCtx s d cx x) := .of_sameRecords (setDrgCtx_sameRecords ..)

/-- A table fault halts the context; any other is its command's. -/
theorem haltOrError_placesKept {r : MacroRec} (hr : HasPlace s d r) (cx : Nat) (z : MemErr) :
    PlacesKept s (if z.1.cls = 7 then haltCtx s d cx z.1 else commandError s d r z) := by
  split
  · exact haltCtx_placesKept ..
  · exact commandError_placesKept hr z

variable {s d}

theorem drgResult_placesKept {acc : Nat} {x : Got State} (h : ∀ u, x = .ok u → PlacesKept s u) : PlacesKept s (drgResult s d acc x) := by
  unfold drgResult
  split
  next u => exact h u rfl
  next z =>
    split
    next r hr => exact commandError_placesKept (HasPlace.of_macroAt hr) z
    · exact .refl s

/-! ### Waves, probe sets and jobs -/

theorem admitCtxs_placesKept {u : State} {z r : MacroRec} {qs : List Nat} {slot : Option Nat} {ws : List Nat} (hz : HasPlace u d z) :
    PlacesKept u (admitCtxs (setMacro u d z) d r qs slot ws) :=
  (setMacro_placesKept hz).trans (.of_sameRecords (admitCtxs_frame ..).2.1)

theorem admitSearch_placesKept {r : MacroRec} {c : SearchCmd} {n : Nat} {u : State} (hr : HasPlace s d r) (hu : admitSearch s d r c n = .ok u) :
    PlacesKept s u := by
  rw [admitSearch_eq] at hu
  obtain ⟨b, hb, hu⟩ := got_bind_eq_ok.mp hu
  obtain ⟨ws, -, hu⟩ := got_bind_eq_ok.mp hu
  have hbound := (waveBinding_keepsCommands hb).sameRecords
  have htaken : PlacesKept s (waveTaken d r c n b ws) :=
    (PlacesKept.of_sameRecords hbound).trans (admitCtxs_placesKept ((hbound.hasPlace hr).of_same rfl))
  cases hu
  split
  · exact htaken
  · exact htaken.trans (.foldl (fun t e => haltCtx_placesKept ..) _ _)

theorem admitSelect_placesKept {r : MacroRec} {c : SelectCmd} {n : Nat} {u : State} (hr : HasPlace s d r) (hu : admitSelect s d r c n = .ok u) :
    PlacesKept s u := by
  obtain ⟨seqs, -, hu⟩ := got_bind_eq_ok.mp hu
  cases hu
  exact admitCtxs_placesKept (hr.of_same rfl)

theorem admitWave_placesKept {r : MacroRec} (hr : HasPlace s d r) : PlacesKept s (admitWave s d r) := by
  unfold admitWave
  split
  · exact .refl s
  · refine drgResult_placesKept fun u hu => ?_
    split at hu
    · obtain ⟨c, -, hu⟩ := got_bind_eq_ok.mp hu
      exact admitSearch_placesKept hr hu
    · obtain ⟨c, -, hu⟩ := got_bind_eq_ok.mp hu
      exact admitSelect_placesKept hr hu

theorem probeStep_placesKept (cx : Nat) : PlacesKept s (probeStep s d cx) := by
  unfold probeStep
  dsimp only
  split
  · split
    · exact .refl s
    next r hr =>
      have hlooked := (blockLookups_keeps s d (drgCtx s d cx) r fun c => (sourceBundles c).map fun u => 64 * u).1.sameRecords
      refine (PlacesKept.of_sameRecords hlooked).trans ?_
      split
      · exact setDrgCtx_placesKept ..
      · exact haltOrError_placesKept _ _ (hlooked.hasPlace (HasPlace.of_macroAt hr)) ..
  · exact .refl s

theorem formJobs_placesKept (acc : Nat) : PlacesKept s (formJobs s d acc) := by
  cases hw : waveToForm s d acc with
  | none =>
    rw [formJobs, hw]
    exact .refl s
  | some w =>
    rw [formJobs_of_wave hw]
    exact .of_sameRecords ((setDrgCtxs_sameRecords ..).trans (SameRecords.foldl (fun t j => addJob_sameRecords t d j) _ _))

/-! ### Scans -/

theorem scanPosting_placesKept {key : Nat} {j : ScanJob} {r : MacroRec} {u : State} (hu : scanPosting s d key j r = .ok u) : PlacesKept s u := by
  obtain ⟨c, -, hu⟩ := got_bind_eq_ok.mp hu
  obtain ⟨l, -, hu⟩ := got_bind_eq_ok.mp hu
  split at hu
  · cases hu
    exact .foldl (fun t y => haltCtx_placesKept ..) _ _
  · split at hu
    · cases hu
      exact .of_sameRecords (endJob_sameRecords ..)
    · obtain ⟨t, ht, hu⟩ := got_bind_eq_ok.mp hu
      have hscan : SameRecords s t := by
        refine foldGot_keeps (P := SameRecords s) (fun v y v' hv hstep => ?_) j.ctxs (readUse_sameRecords ..) ht
        obtain ⟨sk, -, hstep⟩ := got_bind_eq_ok.mp hstep
        obtain ⟨x, -, hstep⟩ := got_bind_eq_ok.mp hstep
        cases hstep
        exact hv.trans (setDrgCtx_sameRecords ..)
      cases hu
      split
      · exact .of_sameRecords (hscan.trans (endJob_sameRecords ..))
      · exact .of_sameRecords (hscan.trans (.modDie (fun _ => by rfl) ..))

theorem scanBundles_placesKept {key : Nat} {j : ScanJob} {r : MacroRec} {u : State} (hu : scanBundles s d key j r = .ok u) : PlacesKept s u := by
  obtain ⟨c, -, hu⟩ := got_bind_eq_ok.mp hu
  obtain ⟨t, ht, hu⟩ := got_bind_eq_ok.mp hu
  cases hu
  refine PlacesKept.trans (t := t) (.foldGot (fun v y v' hstep => ?_) ht) (.of_sameRecords (endJob_sameRecords ..))
  have hlooked := (blockLookups_keeps v d (drgCtx v d y.val) r fun c => bundleBales c (j.list % 2 ^ 32)).1.sameRecords
  refine (PlacesKept.of_sameRecords hlooked).trans ?_
  dsimp only at hstep
  split at hstep
  · cases hstep
    exact (PlacesKept.of_sameRecords (readsUse_sameRecords ..)).trans (setDrgCtx_placesKept ..)
  · split at hstep
    · cases hstep
      exact haltCtx_placesKept ..
    · cases hstep

theorem scanStep_placesKept (key : Nat) (j : ScanJob) : PlacesKept s (scanStep s d key j) := by
  unfold scanStep
  split
  · exact .refl s
  · refine drgResult_placesKept fun u hu => ?_
    split at hu
    · exact scanPosting_placesKept hu
    · exact scanBundles_placesKept hu

theorem scanAll_placesKept (acc : Nat) : PlacesKept s (scanAll s d acc) := by
  unfold scanAll
  refine .foldl (fun t j => ?_) _ s
  refine .foldl (fun u _ => ?_) _ t
  split
  · exact scanStep_placesKept ..
  · exact .refl u

theorem endScanSearch_placesKept {cx : Nat} {x : DrgCtx} {r : MacroRec} {u : State} (hu : endScanSearch s d cx x r = .ok u) : PlacesKept s u := by
  obtain ⟨c, -, hu⟩ := got_bind_eq_ok.mp hu
  split at hu
  · obtain ⟨l, -, hu⟩ := got_bind_eq_ok.mp hu
    cases hu
    exact .of_sameRecords ((setDrgCtx_sameRecords ..).trans (addJob_sameRecords ..))
  · split at hu
    · cases hu
      exact haltCtx_placesKept ..
    · obtain ⟨t, ht, hu⟩ := got_bind_eq_ok.mp hu
      cases hu
      exact (PlacesKept.of_sameRecords (uWrite_sameRecords ht)).trans (setDrgCtx_placesKept ..)

theorem endScanSelect_placesKept {cx : Nat} {x : DrgCtx} {r : MacroRec} {u : State} (hu : endScanSelect s d cx x r = .ok u) : PlacesKept s u := by
  obtain ⟨c, -, hu⟩ := got_bind_eq_ok.mp hu
  obtain ⟨b, -, hu⟩ := got_bind_eq_ok.mp hu
  obtain ⟨cs, -, hu⟩ := got_bind_eq_ok.mp hu
  cases hu
  split
  · exact haltCtx_placesKept ..
  · exact setDrgCtx_placesKept ..

theorem endScan_placesKept (cx : Nat) : PlacesKept s (endScan s d cx) := by
  unfold endScan
  dsimp only
  split
  · split
    · exact .refl s
    next r hr =>
      split
      next u hu =>
        split at hu
        · exact endScanSelect_placesKept hu
        · exact endScanSearch_placesKept hu
      · exact haltOrError_placesKept _ _ (HasPlace.of_macroAt hr) ..
  · exact .refl s

/-! ### Re-rank and results -/

theorem rerankStep_placesKept (cx : Nat) (arrived : Bool) : PlacesKept s (rerankStep s d cx arrived) := by
  unfold rerankStep
  dsimp only
  split
  · exact .refl s
  · split
    · exact setDrgCtx_placesKept ..
    next k _ =>
      split
      · exact setDrgCtx_placesKept ..
      · split
        · exact .refl s
        next r hr =>
          have hlooked := (blockLookups_keeps s d (drgCtx s d cx) r fun _ => [k.2.1]).1.sameRecords
          have hread := hlooked.trans (readsUse_sameRecords _ (reqOf (blockLookups s d (drgCtx s d cx) r fun _ => [k.2.1]) r)
            (rerankSpans (blockLookups s d (drgCtx s d cx) r fun _ => [k.2.1]) d (drgCtx s d cx) r k))
          refine (PlacesKept.of_sameRecords hread).trans ?_
          split
          · exact haltOrError_placesKept _ _ (hread.hasPlace (HasPlace.of_macroAt hr)) ..
          · exact setDrgCtx_placesKept ..

theorem searchResult_sameRecords {q : Req} {c : SearchCmd} {x : DrgCtx} {u : State} (hu : searchResult s q c x = .ok u) : SameRecords s u := by
  unfold searchResult at hu
  extract_lets base sentinel one at hu
  split at hu
  · exact uWrite_sameRecords hu
  · obtain ⟨qv, -, hu⟩ := got_bind_eq_ok.mp hu
    exact uWrite_sameRecords hu

theorem writeWants_sameRecords {q : Req} {c : SelectCmd} {p g : Nat} {ns : List Nat} {u : State} (hu : writeWants s q c p g ns = .ok u) :
    SameRecords s u := by
  refine foldGot_keeps (P := SameRecords s) (fun v n v' hv hstep => ?_) ns (.refl s) hu
  obtain ⟨old, -, hstep⟩ := got_bind_eq_ok.mp hstep
  exact hv.trans (uWriteNat_sameRecords hstep)

theorem selectResult_sameRecords {q : Req} {c : SelectCmd} {x : DrgCtx} {u : State} (hu : selectResult s q d c x = .ok u) : SameRecords s u := by
  unfold selectResult at hu
  split at hu
  · exact uWriteNat_sameRecords hu
  · obtain ⟨b, -, hu⟩ := got_bind_eq_ok.mp hu
    obtain ⟨cs, -, hu⟩ := got_bind_eq_ok.mp hu
    obtain ⟨v, hv, hu⟩ := got_bind_eq_ok.mp hu
    obtain ⟨w, hw, hu⟩ := got_bind_eq_ok.mp hu
    have hlist := (uWriteNat_sameRecords hv).trans (uWrite_sameRecords hw)
    split at hu
    · exact hlist.trans (writeWants_sameRecords hu)
    · cases hu
      exact hlist

theorem ctxResult_sameRecords {x : DrgCtx} {r : MacroRec} {u : State} (hu : ctxResult s d x r = .ok u) : SameRecords s u := by
  unfold ctxResult at hu
  split at hu
  · obtain ⟨c, -, hu⟩ := got_bind_eq_ok.mp hu
    exact selectResult_sameRecords hu
  · obtain ⟨c, -, hu⟩ := got_bind_eq_ok.mp hu
    exact searchResult_sameRecords hu

theorem slotLess_sameRecords {q : Req} {x : DrgCtx} {u : State} (hu : slotLess s q x = .ok u) : SameRecords s u := by
  unfold slotLess at hu
  split at hu
  · exact (addActive_keepsCommands hu).sameRecords
  · cases hu
    exact .refl s

theorem emitCtx_placesKept {cx : Fin 2048} {x : DrgCtx} {r : MacroRec} {u : State} (hu : emitCtx s d cx x r = .ok u) : PlacesKept s u := by
  rw [emitCtx_eq] at hu
  obtain ⟨t, ht, hu⟩ := got_bind_eq_ok.mp hu
  obtain ⟨v, hv, hu⟩ := got_bind_eq_ok.mp hu
  cases hu
  have hfreed : SameRecords s (freeDrgCtx v d cx) := ((ctxResult_sameRecords ht).trans (slotLess_sameRecords hv)).trans (freeDrgCtx_sameRecords ..)
  refine (PlacesKept.of_sameRecords hfreed).trans ?_
  unfold countEnded
  split
  next y hy => exact setMacro_placesKept ((HasPlace.of_macroAt hy).of_same rfl)
  · exact .refl _

theorem emitStep_placesKept (cx : Fin 2048) : PlacesKept s (emitStep s d cx) := by
  unfold emitStep
  dsimp only
  split
  · split
    · exact .refl s
    · exact drgResult_placesKept fun u hu => emitCtx_placesKept hu
  · exact .refl s

/-! ### Whole commands -/

/-- A context whose data has arrived is re-ranked to its last entry. -/
def rerankAll (s : State) (d cx : Nat) : State :=
  let x := drgCtx s d cx
  let u := if x.state = 5 then setDrgCtx s d cx { x with state := 4 } else s
  (List.range (x.shortlist.length + 1)).foldl (fun v _ => rerankStep v d cx true) u

theorem rerankAll_placesKept (cx : Nat) : PlacesKept s (rerankAll s d cx) := by
  unfold rerankAll
  extract_lets x u
  have harrived : PlacesKept s u := by
    unfold u
    split
    · exact setDrgCtx_placesKept ..
    · exact .refl s
  exact harrived.trans (.foldl (fun v _ => rerankStep_placesKept cx true) _ u)

theorem drainCtxs_placesKept (acc widen : Nat) : PlacesKept s (drainCtxs s d acc widen) := by
  unfold drainCtxs
  extract_lets each t1 t2 t3 t4
  have heach : ∀ (f : State → Nat → State) (t : State), (∀ u cx, PlacesKept u (f u cx)) → PlacesKept t (each f t) := fun f t hf =>
    .foldl (f := fun u (e : Nat × DrgCtx) => f u e.1) (fun u e => hf u e.1) _ t
  have h1 : PlacesKept s t1 := heach _ s fun u cx => probeStep_placesKept cx
  have h2 : PlacesKept t1 t2 := (formJobs_placesKept acc).trans (scanAll_placesKept acc)
  have h3 : PlacesKept t2 t3 := .foldl (fun u _ => (heach _ u fun v cx => endScan_placesKept cx).trans (scanAll_placesKept acc)) _ t2
  have h4 : PlacesKept t3 t4 := heach (fun u cx => rerankAll u d cx) t3 fun u cx => rerankAll_placesKept cx
  exact (((h1.trans h2).trans h3).trans h4).trans (heach _ t4 fun u cx => emitStep_placesKept (cxOf cx))

end steps

section whole

variable {s : State} {die : Fin 4} {r : MacroRec}

theorem runDragoman_gaveAll (hop : wOpcode r.word = 0x18 ∨ wOpcode r.word = 0x19)
    (hok : ∀ z, allTiles s die r (plainTile (coarseTile die.val)) ≠ .error z) : GaveAll (runDragoman s die r) die.val r := by
  unfold runDragoman
  cases htiles : allTiles s die r (plainTile (coarseTile die.val)) with
  | error z => exact absurd htiles (hok z)
  | ok t =>
    refine ((allTiles_gaveAll hop htiles).of_placesKept (drainCtxs_placesKept ..)).of_placesKept (.foldl (fun u _ => ?_) _ _)
    split
    · exact .refl u
    next x hx =>
      split
      · exact (admitWave_placesKept (HasPlace.of_macroAt hx)).trans (drainCtxs_placesKept ..)
      · exact .refl u

theorem runDragoman_held {z : MemErr} (hz : allTiles s die r (plainTile (coarseTile die.val)) = .error z) :
    OnlyEcs s (runDragoman s die r) := by
  unfold runDragoman
  rw [hz]
  exact countHeld_onlyEcs ..

end whole

end Sys2Proof.Machine
end

section
/-!
SEARCH, SELECT_BALES and the steps of the dragoman together (08_dragoman R236 to R269).
-/

namespace Sys2Proof.Machine

open Sys2Proof.Claims

section whole

variable {s : State} {die : Fin 4} {acc : Nat} {r : MacroRec} {op : Nat} {i : Instr}

/-- The whole command has its step. -/
theorem wholeSearch_gives (hclk : coreClocks s = true) (hi : (op, i) ∈ [(0x18, Instr.search die acc), (0x19, .selectBales die acc)])
    (hr : macroReady s die acc op = some r) : Gives i s (runDragoman s die r) := by
  unfold Gives
  simp only [List.mem_cons, Prod.mk.injEq, List.not_mem_nil, or_false] at hi
  obtain ⟨rfl, rfl⟩ | ⟨rfl, rfl⟩ := hi
  · rw [exec_search, execSearch, whileClocked_of_clock hclk, hr]
  · rw [exec_selectBales, execSelectBales, whileClocked_of_clock hclk, hr]

theorem macroReady_opcode (hi : (op, i) ∈ [(0x18, Instr.search die acc), (0x19, .selectBales die acc)])
    (hr : macroReady s die acc op = some r) : wOpcode r.word = 0x18 ∨ wOpcode r.word = 0x19 := by
  have hop := (macroReady_spec hr).2.1
  simp only [List.mem_cons, Prod.mk.injEq, List.not_mem_nil, or_false] at hi
  exact hi.imp (fun h => hop.trans h.1) fun h => hop.trans h.1

end whole

theorem scansAndResults : ScansAndResults := by
  intro s die acc r cx job ctx arrived
  dsimp only
  intro hclk
  refine ⟨fun key j hjob hr hsupply => ⟨fun hop u l hu hnodup hl haligned => ?_, fun hop u hu => ?_⟩,
    fun hr hstate hformed hjobs => ⟨fun hsel c hc => ⟨fun hwidens l hl => ?_, fun hstays hout => ?_, fun hstays hout u hu => ?_⟩,
      fun hsel c b cs hc hb hcs => ?_⟩,
    fetchArrive_gives hclk rfl,
    fun hstate => ⟨rerank_ends hclk rfl hstate, fun k hk => ⟨rerank_waits hclk rfl hstate hk, fun hr => ⟨fun hsel => ?_, ?_, fun v hv => ?_⟩⟩⟩,
    fun hstate hr u hu => ⟨emit_gives hclk rfl hstate hr hu, emitCtx_frees hu⟩,
    fun hbound => ⟨_, teardownFree_gives hclk, teardown_leaves hbound rfl⟩,
    fun op i hi hr => ⟨fun z hz => ?_, fun hok => ?_⟩⟩
  · exact ⟨scanBlock_gives hclk hjob hsupply hr (by rw [if_pos hop]; exact hu), scanPosting_spec hu hnodup hl haligned⟩
  · exact ⟨scanBlock_gives hclk hjob hsupply hr (by rw [if_neg (by rw [hop]; decide)]; exact hu), not_mem_scanBundles hu⟩
  · exact ⟨_, scanJobEnd_search hclk rfl hr hstate hformed hjobs hsel (endScanSearch_of_widens hc _ _ hwidens hl), widenedBy_spec ..⟩
  · exact ⟨_, scanJobEnd_search hclk rfl hr hstate hformed hjobs hsel (endScanSearch_of_outOfRange hc hstays _ _ hout), haltCtx_halts ..⟩
  · exact ⟨_, scanJobEnd_search hclk rfl hr hstate hformed hjobs hsel (endScanSearch_of_passes hc hstays _ _ hout hu), rfl,
      drgCtx_setDrgCtx ..⟩
  · have hgives := scanJobEnd_select hclk rfl hr hstate hformed hjobs hsel (endScanSelect_eq hc _ _ hb hcs)
    refine ⟨fun hforced => ⟨_, hgives, ?_⟩, fun hfits => ?_⟩
    · rw [if_pos hforced]
      exact haltCtx_halts ..
    · rwa [if_neg hfits.not_gt] at hgives
  · exact blockLookups_of_search hsel ..
  · exact (readsUse_afterLookups ..).mem_eq.trans (blockLookups_keeps ..).2
  · exact rerank_measures hclk rfl hstate hk hr hv
  · have hheld := runDragoman_held hz
    have hrec := (macroReady_spec hr).1
    exact ⟨_, wholeSearch_gives hclk hi hr, hheld.mem_eq, (hheld.macroAt_eq ..).trans hrec⟩
  · have hgave := runDragoman_gaveAll (macroReady_opcode hi hr) hok
    obtain rfl : r.acc = acc := acc_of_macroAt (macroReady_spec hr).1
    exact ⟨_, wholeSearch_gives hclk hi hr, fun z hz => (hgave.of_macroAt hz).2⟩

/-- Settles O42. Waves, probe sets and jobs (`wavesAndJobs`) are read off the model step by step. For the rest (`scansAndResults`) the one invariant is
`GaveAll`: once a SEARCH or SELECT_BALES has all its tiles, no tile, context, fault or teardown gives its record another place in the ledger. -/
theorem dragomanSteps : Obligations.DragomanSteps := ⟨wavesAndJobs, scansAndResults⟩

end Sys2Proof.Machine
end

section
/-!
Sending on the Route links (09_route R274, R277, R278, R280): what messages that wait, start or join a port leave of the ports, of the groups and of
the rest of the state.
-/

namespace Sys2Proof.Machine

open Sys2Proof.Claims

/-! ### What sending leaves -/

/-- Ports whose transmit queues alone may have changed. -/
structure SamePorts (s t : State) : Prop where
  port : ∀ n, ∃ l, t.portAt n = { s.portAt n with transmit := l }

namespace SamePorts

variable {s t u : State}

theorem of_eq (h : t.ports = s.ports) : SamePorts s t := ⟨fun n => ⟨(s.portAt n).transmit, by simp only [State.portAt, h]⟩⟩

theorem refl (s : State) : SamePorts s s := of_eq rfl

theorem trans (h : SamePorts s t) (h' : SamePorts t u) : SamePorts s u := by
  refine ⟨fun n => ?_⟩
  obtain ⟨l, hl⟩ := h.port n
  obtain ⟨l', hl'⟩ := h'.port n
  exact ⟨l', by rw [hl', hl]⟩

theorem state_eq (h : SamePorts s t) (n : Nat) : (t.portAt n).state = (s.portAt n).state := by
  obtain ⟨l, hl⟩ := h.port n
  rw [hl]

end SamePorts

/-- Of the state only the ports and the groups may have changed. -/
def OnlyLinks (s t : State) : Prop := t = { s with groups := t.groups, ports := t.ports }

namespace OnlyLinks

variable {s t u : State}

theorem trans (h : OnlyLinks s t) (h' : OnlyLinks t u) : OnlyLinks s u := by
  unfold OnlyLinks at h'
  rw [OnlyLinks, h', h]

theorem foldl {ι : Type} {f : State → ι → State} (hf : ∀ t i, OnlyLinks t (f t i)) (l : List ι) (s : State) : OnlyLinks s (l.foldl f s) :=
  l.foldlRecOn f (motive := OnlyLinks s) rfl fun _ ht _ _ => ht.trans (hf _ _)

theorem ring_eq (h : OnlyLinks s t) : t.ring = s.ring := by rw [h]

theorem mem_eq (h : OnlyLinks s t) : t.mem = s.mem := by rw [h]

end OnlyLinks

/-- `t` is `s` after messages have started or have been held back: of the ports the transmit queues, and of the groups what waits and the credits
may have changed, and of a port that is not UP nothing. -/
structure Queued (s t : State) : Prop where
  frame : OnlyLinks s t
  ports : SamePorts s t
  down : ∀ n, (s.portAt n).state ≠ 3 → t.portAt n = s.portAt n
  group : ∀ g, ∃ credits waiting, t.groupAt g = { s.groupAt g with credits, waiting }

namespace Queued

variable {s t u : State}

theorem refl (s : State) : Queued s s := ⟨rfl, .refl s, fun _ _ => rfl, fun _ => ⟨_, _, rfl⟩⟩

theorem trans (h : Queued s t) (h' : Queued t u) : Queued s u where
  frame := h.frame.trans h'.frame
  ports := h.ports.trans h'.ports
  down n hn := (h'.down n (by rwa [h.ports.state_eq])).trans (h.down n hn)
  group g := by
    obtain ⟨_, _, hg⟩ := h.group g
    obtain ⟨_, _, hg'⟩ := h'.group g
    exact ⟨_, _, by rw [hg', hg]⟩

theorem foldl {ι : Type} {f : State → ι → State} (hf : ∀ t i, Queued t (f t i)) (l : List ι) (s : State) : Queued s (l.foldl f s) :=
  l.foldlRecOn f (motive := Queued s) (.refl s) fun _ ht _ _ => ht.trans (hf _ _)

theorem seen_eq (h : Queued s t) (g : Nat) : (t.groupAt g).seen = (s.groupAt g).seen := by
  obtain ⟨_, _, hg⟩ := h.group g
  rw [hg]

theorem serai_eq (h : Queued s t) (g : Nat) : (t.groupAt g).serai = (s.groupAt g).serai := by
  obtain ⟨_, _, hg⟩ := h.group g
  rw [hg]

theorem freed_eq (h : Queued s t) (g : Nat) : (t.groupAt g).freed = (s.groupAt g).freed := by
  obtain ⟨_, _, hg⟩ := h.group g
  rw [hg]

theorem nextSeq_eq (h : Queued s t) (g : Nat) : (t.groupAt g).nextSeq = (s.groupAt g).nextSeq := by
  obtain ⟨_, _, hg⟩ := h.group g
  rw [hg]

/-- A group that changes what waits and its credits. -/
theorem setGroup (g : Nat) (credits : Tab Nat) (waiting : List OutMessage) :
    Queued s (s.setGroup g { s.groupAt g with credits, waiting }) where
  frame := rfl
  ports := .of_eq rfl
  down _ _ := rfl
  group i := by
    obtain rfl | hi := eq_or_ne i g
    · exact ⟨_, _, groupAt_setGroup ..⟩
    · exact ⟨_, _, groupAt_setGroup_ne _ _ _ _ hi⟩

/-- An UP port that changes its transmit queue. -/
theorem setPort {n : Nat} (h : (s.portAt n).state = 3) (l : List OutMessage) : Queued s (s.setPort n { s.portAt n with transmit := l }) where
  frame := rfl
  ports := by
    refine ⟨fun i => ?_⟩
    obtain rfl | hi := eq_or_ne i n
    · exact ⟨_, portAt_setPort ..⟩
    · exact ⟨_, portAt_setPort_ne _ _ _ _ hi⟩
  down i hi := portAt_setPort_ne _ _ _ _ fun he => hi (he ▸ h)
  group _ := ⟨_, _, rfl⟩

end Queued

/-! ### The port that a message takes (R280) -/

theorem up_of_mem_upPorts {s : State} {g n : Nat} (h : n ∈ upPorts s g) : (s.portAt n).state = 3 := by
  simpa using (List.mem_filter.mp h).2

theorem choosePort_up {s : State} {g n : Nat} (h : choosePort s g = some n) : (s.portAt n).state = 3 := by
  unfold choosePort at h
  refine (upPorts s g).foldlRecOn _ (motive := fun o => ∀ k, o = some k → (s.portAt k).state = 3) (b := none) nofun ?_ n h
  intro o ho i hi k hk
  cases o with
  | none =>
    obtain rfl : i = k := by simpa using hk
    exact up_of_mem_upPorts hi
  | some j =>
    dsimp only at hk
    split at hk
    · obtain rfl : i = k := by simpa using hk
      exact up_of_mem_upPorts hi
    · exact ho k hk

/-! ### Messages that wait and start -/

theorem giveCredits_queued (s : State) (g vc n : Nat) : Queued s (giveCredits s g vc n) := .setGroup ..

theorem takeMsgCredits_queued {s t : State} {g : Nat} {m : Message} (h : takeMsgCredits s g m = some t) : Queued s t := by
  unfold takeMsgCredits at h
  dsimp only at h
  split at h
  · cases h
  · cases h
    exact .setGroup ..

theorem queueOn_queued {s : State} {n : Nat} (h : (s.portAt n).state = 3) (m : OutMessage) :
    Queued s (s.setPort n (queueMessage (s.portAt n) m)) := .setPort h _

theorem startMessage_queued (g : Nat) (st : State × List Nat) (m : OutMessage) : Queued st.1 (startMessage g st m).1 := by
  unfold startMessage
  extract_lets s vc x stay
  have hstay : Queued s stay.1 := .setGroup ..
  split
  · exact hstay
  next n hn =>
    split
    · exact hstay
    · split
      · exact hstay
      next t ht =>
        have htake := takeMsgCredits_queued ht
        exact htake.trans (queueOn_queued (by rw [htake.ports.state_eq]; exact choosePort_up hn) m)

theorem startMessages_queued (g : Nat) (l : List OutMessage) (st : State × List Nat) : Queued st.1 (l.foldl (startMessage g) st).1 :=
  l.foldlRecOn (startMessage g) (motive := fun st' => Queued st.1 st'.1) (.refl _) fun _ h _ _ => h.trans (startMessage_queued ..)

theorem pump_queued (s : State) (g : Nat) : Queued s (pump s g) :=
  Queued.trans (.setGroup g (s.groupAt g).credits []) (startMessages_queued g _ (_, []))

theorem passMessage_queued (s : State) (g : Nat) (m : OutMessage) : Queued s (passMessage s g m) :=
  Queued.trans (.setGroup ..) (pump_queued ..)

/-! ### Messages that are sent (R274) -/

/-- A message that is sent takes a number, and then waits or starts. -/
theorem send_queued (s : State) (g : Nat) (m : Message) : Queued (numberMessage s g m).2 (send s g m) := passMessage_queued ..

theorem send_onlyLinks (s : State) (g : Nat) (m : Message) : OnlyLinks s (send s g m) :=
  OnlyLinks.trans (t := (numberMessage s g m).2) rfl (send_queued s g m).frame

theorem send_ports (s : State) (g : Nat) (m : Message) : SamePorts s (send s g m) :=
  SamePorts.trans (t := (numberMessage s g m).2) (.of_eq rfl) (send_queued s g m).ports

theorem numberMessage_groupAt (s : State) (g : Nat) (m : Message) (i : Nat) :
    ∃ nextSeq, (numberMessage s g m).2.groupAt i = { s.groupAt i with nextSeq } := by
  obtain rfl | hi := eq_or_ne i g
  · exact ⟨_, groupAt_setGroup ..⟩
  · exact ⟨_, groupAt_setGroup_ne _ _ _ _ hi⟩

theorem send_seen (s : State) (g : Nat) (m : Message) (i : Nat) : ((send s g m).groupAt i).seen = (s.groupAt i).seen := by
  obtain ⟨_, h⟩ := numberMessage_groupAt s g m i
  rw [(send_queued s g m).seen_eq, h]

theorem send_serai (s : State) (g : Nat) (m : Message) (i : Nat) : ((send s g m).groupAt i).serai = (s.groupAt i).serai := by
  obtain ⟨_, h⟩ := numberMessage_groupAt s g m i
  rw [(send_queued s g m).serai_eq, h]

theorem send_nextSeq (s : State) (g : Nat) (m : Message) :
    ((send s g m).groupAt g).nextSeq = tabSet (s.groupAt g).nextSeq m.vc.val (tabGet 0 (s.groupAt g).nextSeq m.vc.val + 1) := by
  rw [(send_queued s g m).nextSeq_eq, numberMessage, groupAt_setGroup]

/-! ### Messages that go straight onto a port (R278, R284) -/

theorem takeMsgCredits_of_credits {s : State} {g : Nat} {m : Message} (h : CreditsFor s g m) :
    ∃ credits, takeMsgCredits s g m = some (s.setGroup g { s.groupAt g with credits }) := ⟨_, if_neg (Nat.not_lt.mpr h)⟩

/-- A message on a port with the next number of its group and VC, and the deadline of its time of issue. -/
def numberedFor (s : State) (n : Nat) (m : Message) : OutMessage :=
  { msg := { m with seq := tabGet 0 (s.groupAt (portGroup n)).nextSeq m.vc.val }, deadline := s.time.toNat + 2000 }

/-- Without an UP port of the group no credits are needed. -/
theorem sendOnPort_queues {s : State} {n : Nat} {m : Message} (h : upPorts s (portGroup n) ≠ [] → CreditsFor s (portGroup n) m) :
    ∃ t, sendOnPort s n m = some t ∧ OnlyLinks s t ∧ (∀ i, i ≠ n → t.portAt i = s.portAt i) ∧
      t.portAt n = queueMessage (s.portAt n) (numberedFor s n m) := by
  obtain ⟨x, htake, hframe, hports, hnumber⟩ : ∃ x, (if upPorts s (portGroup n) = [] then some s else takeMsgCredits s (portGroup n) m) = some x ∧
      OnlyLinks s x ∧ x.ports = s.ports ∧ numberedFor x n m = numberedFor s n m := by
    by_cases hup : upPorts s (portGroup n) = []
    · exact ⟨s, if_pos hup, rfl, rfl, rfl⟩
    · obtain ⟨credits, htake⟩ := takeMsgCredits_of_credits (h hup)
      refine ⟨_, (if_neg hup).trans htake, rfl, rfl, ?_⟩
      simp only [numberedFor, groupAt_setGroup, setGroup_time]
  simp only [sendOnPort, htake, Option.map_some, Option.some.injEq, exists_eq_left']
  refine ⟨hframe.trans rfl, fun i hi => ?_, ?_⟩
  · rw [portAt_setPort_ne _ _ _ _ hi]
    simp only [State.portAt, numberMessage, setGroup_ports, hports]
  · rw [portAt_setPort, ← hnumber]
    simp only [State.portAt, numberMessage, setGroup_ports, hports]
    rfl

theorem sendOnPort_without_credits {s : State} {n : Nat} {m : Message} (hup : upPorts s (portGroup n) ≠ [])
    (h : ¬CreditsFor s (portGroup n) m) : sendOnPort s n m = none := by
  have htake : takeMsgCredits s (portGroup n) m = none := if_pos (Nat.lt_of_not_le h)
  simp only [sendOnPort, if_neg hup, htake, Option.map_none]

end Sys2Proof.Machine
end

section
/-!
The states of a Route link port (09_route R282, R285, R286, R289): probes, training, time-outs, what a port that leaves traffic keeps, and the writes
of its register.
-/

namespace Sys2Proof.Machine

open Sys2Proof.Claims

/-! ### The rows of the port states -/

theorem exec_probe (port : Fin 24) (s : State) : exec (.probe port) s = execProbe port s := rfl
theorem exec_trainingComplete (port : Fin 24) (s : State) : exec (.trainingComplete port) s = execTrainingComplete port s := rfl
theorem exec_trainTimeout (port : Fin 24) (s : State) : exec (.trainTimeout port) s = execTrainTimeout port s := rfl
theorem exec_identTimeout (port : Fin 24) (s : State) : exec (.identTimeout port) s = execIdentTimeout port s := rfl
theorem exec_goodFrameTimeout (port : Fin 24) (s : State) : exec (.goodFrameTimeout port) s = execGoodFrameTimeout port s := rfl
theorem exec_lossOfReceiverLock (port : Fin 24) (s : State) : exec (.lossOfReceiverLock port) s = execLossOfReceiverLock port s := rfl
theorem exec_portEnableWrite (who : Agent) (port : Fin 24) (v : Reg32) (s : State) :
    exec (.portEnableWrite who port v) s = rowWrite s who (0x100000 + 16 * port.val) v true := rfl

/-! ### One port that changes -/

theorem gives_unique {c : Instr} {s t u : State} (h : Gives c s t) (h' : Gives c s u) : t = u := Host.Outcome.next.inj (h.symm.trans h')

/-- The command changes port `n` alone, which becomes `q`. -/
def PortBecomes (c : Instr) (s : State) (n : Nat) (q : Port) : Prop := ∃ t, Gives c s t ∧ OnlyPort s t n ∧ t.portAt n = q

theorem portBecomes_of_gives {c : Instr} {s : State} {n : Nat} {q : Port} (h : Gives c s (s.setPort n q)) : PortBecomes c s n q :=
  ⟨_, h, ⟨rfl, fun _ hi => portAt_setPort_ne _ _ _ _ hi⟩, portAt_setPort ..⟩

/-! ### Probes and training -/

section training

variable {s : State} {port : Fin 24} (hclk : coreClocks s = true)
include hclk

theorem probe_early (he : ¬Elapsed s (s.portAt port.val).probeAt 1000000) : Gives (.probe port) s s := by
  rw [← elapsed_iff, Bool.not_eq_true] at he
  simp [Gives, exec_probe, execProbe, whileClocked_of_clock hclk, he]

theorem probe_trains (he : Elapsed s (s.portAt port.val).probeAt 1000000) (hst : (s.portAt port.val).state = 0 ∨ (s.portAt port.val).state = 5)
    (hen : (s.portAt port.val).en = true) (hrails : s.power.coreRails = true) :
    PortBecomes (.probe port) s port.val { s.portAt port.val with
      state := 1, since := s.time, inForce := settings (s.portAt port.val), probeAt := some s.time } := by
  rw [← elapsed_iff] at he
  refine portBecomes_of_gives ?_
  simp only [Gives, exec_probe, execProbe, whileClocked_of_clock hclk, he, hst, hen, hrails, Bool.not_true, Bool.false_eq_true, if_false,
    and_self, if_true]
  rfl

/-- A MISWIRED port is probed again. -/
theorem probe_of_miswired (he : Elapsed s (s.portAt port.val).probeAt 1000000) (hst : (s.portAt port.val).state = 7) :
    PortBecomes (.probe port) s port.val { s.portAt port.val with state := 2, since := s.time, probeAt := some s.time } := by
  rw [← elapsed_iff] at he
  refine portBecomes_of_gives ?_
  have hoff : ¬(((s.portAt port.val).state = 0 ∨ (s.portAt port.val).state = 5) ∧ (s.portAt port.val).en = true ∧ s.power.coreRails = true) := by
    omega
  simp only [Gives, exec_probe, execProbe, whileClocked_of_clock hclk, he, Bool.not_true, Bool.false_eq_true, if_false, if_neg hoff, if_pos hst]
  rfl

theorem trainingComplete_trains (hst : (s.portAt port.val).state = 1) :
    PortBecomes (.trainingComplete port) s port.val { s.portAt port.val with state := 2, since := s.time } := by
  refine portBecomes_of_gives ?_
  rw [Gives, exec_trainingComplete, execTrainingComplete, whileClocked_of_clock hclk]
  exact if_pos hst

/-- A retrained port resends its replay buffer. -/
theorem trainingComplete_retrains (hst : (s.portAt port.val).state = 4) :
    PortBecomes (.trainingComplete port) s port.val { s.portAt port.val with
      state := 2, since := s.time, resend := (s.portAt port.val).replay.length, nakRun := 0 } := by
  refine portBecomes_of_gives ?_
  simp [Gives, exec_trainingComplete, execTrainingComplete, whileClocked_of_clock hclk, hst, enterState]

theorem trainTimeout_of_training (hst : (s.portAt port.val).state = 1) (hlate : (s.portAt port.val).since.toNat + 2000000 ≤ s.time.toNat) :
    PortBecomes (.trainTimeout port) s port.val { s.portAt port.val with state := 5, since := s.time } := by
  refine portBecomes_of_gives ?_
  simp [Gives, exec_trainTimeout, execTrainTimeout, whileClocked_of_clock hclk, hst, sinceState, hlate, enterState]

end training

/-! ### What a port that leaves traffic keeps (R282, R285, R289) -/

/-- A port whose messages have gone to the others. -/
def emptied (p : Port) : Port :=
  { p with replay := [], replaySlots := [], transmit := [], sentFlits := 0, resend := 0, fseq := 0, expect := 0, ackValid := false, nak := false,
           nakRun := 0, onLink := none }

/-- The messages of a port that is not UP wait, or go to UP ports. -/
theorem moveMessages_queued (s : State) (n : Nat) : Queued (s.setPort n (emptied (s.portAt n))) (moveMessages s n) := by
  unfold moveMessages
  refine .foldl (fun u m => ?_) _ _
  dsimp only
  split
  next k hk =>
    refine queueOn_queued ?_ m
    split at hk
    · exact choosePort_up hk
    · cases hk
  · exact (giveCredits_queued ..).trans (.setGroup ..)

theorem noteLost_frame (s : State) (g : Nat) : noteLost s g = { s with groups := (noteLost s g).groups } := by
  unfold noteLost
  dsimp only
  split
  · rfl
  · split <;> rfl

theorem noteDegraded_frame (s : State) (g : Nat) :
    noteDegraded s g = { s with groups := (noteDegraded s g).groups, routeCounters := (noteDegraded s g).routeCounters } := by
  unfold noteDegraded
  dsimp only
  split <;> rfl

/-- A group that becomes degraded counts in its own counter. -/
theorem noteDegraded_counter (s : State) {g i : Nat} (h : i ≠ 72 + g) :
    tabGet 0 (noteDegraded s g).routeCounters i = tabGet 0 s.routeCounters i := by
  unfold noteDegraded
  dsimp only
  split
  · exact (tabGet_bumpBy ..).trans (if_neg h)
  · rfl

/-- The loss of a port that is noted in its group leaves the ports. -/
theorem noteDegraded_noteLost_portAt (s : State) (g i : Nat) : (noteDegraded (noteLost s g) g).portAt i = s.portAt i := by
  rw [noteDegraded_frame, noteLost_frame]
  rfl

/-- The state in which a port has left traffic, before its group notes it. -/
theorem portLeaves_portAt (s : State) (n : Nat) {st : Nat} (h : st ≠ 3) (count : Bool) :
    (portLeaves s n st count).portAt n = emptied { s.portAt n with state := st, since := s.time, wasDown := true } := by
  unfold portLeaves
  extract_lets p q t u v
  have hu : u.portAt n = emptied { s.portAt n with state := st, since := s.time, wasDown := true } := by
    refine ((moveMessages_queued t n).down n ?_).trans ?_
    · rw [portAt_setPort]
      simpa [t, q, emptied, enterState] using h
    · simp only [portAt_setPort, t, q, enterState, p]
  have hv : v.portAt n = u.portAt n := by
    unfold v
    split <;> rfl
  rw [noteDegraded_noteLost_portAt, hv, hu]

/-- R285 counts a port that goes DOWN from traffic. -/
theorem portLeaves_counter (s : State) {n : Nat} (hn : n < 24) (st : Nat) :
    tabGet 0 (portLeaves s n st true).routeCounters (48 + n) = tabGet 0 s.routeCounters (48 + n) + 1 := by
  unfold portLeaves
  extract_lets p q t u v
  have hu : u.routeCounters = s.routeCounters := by
    have h := (moveMessages_queued t n).frame
    rw [show u = _ from h]
    rfl
  rw [noteDegraded_counter _ (by omega), noteLost_frame]
  exact (tabGet_bumpBy ..).trans (by rw [if_pos rfl, hu]; rfl)

/-- The command takes port `n` out of traffic to state `st`, with nothing left to send. -/
def PortLeaves (c : Instr) (s : State) (n st : Nat) : Prop :=
  ∃ t, Gives c s t ∧ (t.portAt n).state = st ∧ (t.portAt n).replay = [] ∧ (t.portAt n).transmit = []

theorem portLeaves_of_gives_ports {c : Instr} {s t u : State} {n st : Nat} {count : Bool} (hst : st ≠ 3) (h : Gives c s t)
    (hports : t.ports = (portLeaves u n st count).ports) : PortLeaves c s n st := by
  refine ⟨t, h, ?_⟩
  rw [State.portAt, hports, ← State.portAt, portLeaves_portAt u n hst]
  exact ⟨rfl, rfl, rfl⟩

theorem portLeaves_of_gives {c : Instr} {s u : State} {n st : Nat} {count : Bool} (hst : st ≠ 3) (h : Gives c s (portLeaves u n st count)) :
    PortLeaves c s n st := portLeaves_of_gives_ports hst h rfl

section leaving

variable {s : State} {port : Fin 24} (hclk : coreClocks s = true)
include hclk

theorem trainTimeout_of_retraining (hst : (s.portAt port.val).state = 4) (hlate : (s.portAt port.val).since.toNat + 100000 ≤ s.time.toNat) :
    Gives (.trainTimeout port) s (portLeaves s port.val 5 true) := by
  simp [Gives, exec_trainTimeout, execTrainTimeout, whileClocked_of_clock hclk, hst, sinceState, hlate]

theorem identTimeout_gives (hst : (s.portAt port.val).state = 2) (hlate : (s.portAt port.val).since.toNat + 1000000 ≤ s.time.toNat) :
    Gives (.identTimeout port) s (portLeaves s port.val 5 false) := by
  simp [Gives, exec_identTimeout, execIdentTimeout, whileClocked_of_clock hclk, hst, sinceState, hlate]

theorem goodFrameTimeout_gives (hst : (s.portAt port.val).state = 3)
    (hlate : (s.portAt port.val).lastGoodAt.toNat + 10000 ≤ s.time.toNat) :
    Gives (.goodFrameTimeout port) s (portLeaves s port.val 5 true) := by
  simp [Gives, exec_goodFrameTimeout, execGoodFrameTimeout, whileClocked_of_clock hclk, hst, hlate]

/-- A port that loses lock retrains, and its group notes it. -/
theorem lossOfReceiverLock_retrains (hst : (s.portAt port.val).state = 3) :
    ∃ t, Gives (.lossOfReceiverLock port) s t ∧ (∀ i, i ≠ port.val → t.portAt i = s.portAt i) ∧ t.portAt port.val =
      { s.portAt port.val with state := 4, since := s.time, inForce := settings (s.portAt port.val) } := by
  have hgives := exec_lossOfReceiverLock port s
  rw [execLossOfReceiverLock, whileClocked_of_clock hclk] at hgives
  simp only [hst, beq_self_eq_true, whenEnabled_true] at hgives
  refine ⟨_, hgives, fun i hi => ?_, ?_⟩
  · rw [noteDegraded_noteLost_portAt, portAt_setPort_ne _ _ _ _ hi]
  · rw [noteDegraded_noteLost_portAt, portAt_setPort]
    rfl

end leaving

/-! ### RL_PORT_STATn -/

/-- The page of the Route links' registers. -/
theorem hubRegWrite_route (s : State) (who : Agent) {o : Nat} (hlo : 0x100000 ≤ o) (hhi : o < 0x110000) (v : Reg32) :
    hubRegWrite s who o v = routeRegWrite s who o v := by
  unfold hubRegWrite
  dsimp only
  iterate 17 rw [if_neg (by omega)]
  rw [if_pos hhi]

theorem routeRegWrite_portStat (s : State) (who : Agent) (port : Fin 24) (v : Reg32) :
    routeRegWrite s who (0x100000 + 16 * port.val) v = portStatWrite s port.val v := by
  have hport : (0x100000 + 16 * port.val - 0x100000) / 16 = port.val := by omega
  rw [routeRegWrite, if_pos (by omega), if_pos (by omega), hport]

theorem setPort_setPort (s : State) (n : Nat) (p q : Port) : (s.setPort n p).setPort n q = s.setPort n q := by
  simp [State.setPort]

/-- EN and the W1C bits as a write of RL_PORT_STATn leaves them. -/
def portWritten (p : Port) (v : Reg32) : Port :=
  { p with en := v.getLsbD 31, replaced := p.replaced && !v.getLsbD 27, returned := p.returned && !v.getLsbD 26 }

theorem portStatWrite_eq (s : State) (n : Nat) (v : Reg32) : portStatWrite s n v =
    if !v.getLsbD 31 then
      if (s.portAt n).state = 6 then s.setPort n (portWritten (s.portAt n) v) else portLeaves (s.setPort n (portWritten (s.portAt n) v)) n 6 false
    else if (s.portAt n).state = 6 then s.setPort n (enterState s (portWritten (s.portAt n) v) 5)
    else s.setPort n (portWritten (s.portAt n) v) := by
  have henter : (s.setPort n (portWritten (s.portAt n) v)).setPort n
        (enterState (s.setPort n (portWritten (s.portAt n) v)) ((s.setPort n (portWritten (s.portAt n) v)).portAt n) 5) =
      s.setPort n (enterState s (portWritten (s.portAt n) v) 5) := by
    rw [setPort_setPort, portAt_setPort]
    rfl
  rw [← henter]
  rfl

section register

variable {s : State} {who : Agent} {port : Fin 24} {v : Reg32} (hr : Reaches s who (0x100000 + 16 * port.val))
include hr

theorem portEnableWrite_gives : Gives (.portEnableWrite who port v) s (portStatWrite s port.val v) := by
  rw [Gives, exec_portEnableWrite, rowWrite_hub_of_reaches hr (by omega), hubRegWrite_route _ _ (by omega) (by omega), routeRegWrite_portStat]

/-- A port that is disabled leaves traffic. -/
theorem portEnableWrite_disables (hv : v.getLsbD 31 = false) (hst : (s.portAt port.val).state ≠ 6) :
    PortLeaves (.portEnableWrite who port v) s port.val 6 ∧
      ∀ t, Gives (.portEnableWrite who port v) s t → (t.portAt port.val).en = false := by
  have hgives := portEnableWrite_gives hr (v := v)
  rw [portStatWrite_eq, hv, Bool.not_false, if_pos rfl, if_neg hst] at hgives
  refine ⟨portLeaves_of_gives (by decide) hgives, fun t ht => ?_⟩
  rw [gives_unique ht hgives, portLeaves_portAt _ _ (by decide), portAt_setPort]
  exact hv

/-- A DISABLED port that is enabled goes DOWN. -/
theorem portEnableWrite_enables (hv : v.getLsbD 31 = true) (hst : (s.portAt port.val).state = 6) :
    PortBecomes (.portEnableWrite who port v) s port.val { s.portAt port.val with
      state := 5, since := s.time, en := true, replaced := (s.portAt port.val).replaced && !v.getLsbD 27,
      returned := (s.portAt port.val).returned && !v.getLsbD 26 } := by
  refine portBecomes_of_gives ?_
  have hgives := portEnableWrite_gives hr (v := v)
  rw [portStatWrite_eq, hv, Bool.not_true, if_neg Bool.false_ne_true, if_pos hst, portWritten, hv] at hgives
  exact hgives

end register

end Sys2Proof.Machine
end

section
/-!
The ring's registers (09_route R287 to R289): a ring that becomes FORMED or FAILED, and the RING_CHECK that may go out when a port comes UP.
-/

namespace Sys2Proof.Machine

open Sys2Proof.Claims

variable (s : State)

theorem setRing_frame (r : Ring) : setRing s r = { s with ring := r, pcie := (setRing s r).pcie } := by
  unfold setRing
  extract_lets t
  split
  · rfl
  · rw [raiseVector_frame]

theorem setRing_ring (r : Ring) : (setRing s r).ring = r := by rw [setRing_frame]

theorem logGroup_frame (g : Nat) (code : Code) :
    logGroup s g code = { s with
      free := (logGroup s g code).free, pcie := (logGroup s g code).pcie, log := (logGroup s g code).log, logHead := (logGroup s g code).logHead } :=
  logLink_frame ..

theorem notePartners_frame : notePartners s = { s with groups := (notePartners s).groups } := rfl

/-- The registers of a ring that forms now. -/
def formedRing : Ring :=
  { s.ring with
    state := 2, code := 0, formedId := s.ring.ringId, barrier := 0, arrivals := [], arrived := false, detection := none, step := 0, layer := 0,
    finalRelease := none, released := s.time }

theorem becomeFormed_frame :
    becomeFormed s = { s with ring := formedRing s, groups := (becomeFormed s).groups, pcie := (becomeFormed s).pcie } := by
  unfold becomeFormed
  dsimp only
  rw [setRing_frame, notePartners_frame]
  rfl

theorem becomeFailed_frame (code : Code) :
    becomeFailed s code = { s with
      ring := { s.ring with state := 4, code }, free := (becomeFailed s code).free, pcie := (becomeFailed s code).pcie
      log := (becomeFailed s code).log, logHead := (becomeFailed s code).logHead } := by
  unfold becomeFailed
  dsimp only
  rw [setRing_frame, logGroup_frame]

theorem becomeFormed_ring : (becomeFormed s).ring = formedRing s := by rw [becomeFormed_frame]

theorem becomeFailed_ring (code : Code) : (becomeFailed s code).ring = { s.ring with state := 4, code } := by rw [becomeFailed_frame]

theorem decideCheck_ports (h : Nat) : (decideCheck s h).ports = s.ports := by
  unfold decideCheck
  split
  · rw [becomeFormed_frame]
  · rw [becomeFailed_frame]

/-- The directions are known, with group `g` downstream. -/
def directed (g : Nat) : State := { s with ring := { s.ring with downGroup := g == 1, checkSent := true, formingSince := s.time } }

/-- RING_CHECK has gone out downstream, on group `g`. -/
def checkSentOn (g : Nat) : State :=
  send (directed s g) g
    { newMessage (directed s g) 0x02 0 true 0 0 [(ringHash s.ring.ringId s.ring.members).toNat] with ring := s.ring.ringId }

theorem checkSentOn_ring (g : Nat) :
    (checkSentOn s g).ring = { s.ring with downGroup := g == 1, checkSent := true, formingSince := s.time } :=
  (send_onlyLinks (directed s g) g _).ring_eq

theorem tryCheck_eq : tryCheck s =
    if s.ring.state ≠ 1 ∨ s.ring.checkSent then s
    else match findDirections s with
      | none => s
      | some g => match (checkSentOn s g).ring.checkGot.find? fun e => e.1 == 1 - g with
        | some e => decideCheck (checkSentOn s g) e.2
        | none => checkSentOn s g := rfl

theorem tryCheck_ports : SamePorts s (tryCheck s) := by
  rw [tryCheck_eq]
  split
  · exact .refl s
  · split
    · exact .refl s
    next g _ =>
      have hsent : SamePorts s (checkSentOn s g) := SamePorts.trans (t := directed s g) (.of_eq rfl) (send_ports ..)
      split
      · exact hsent.trans (.of_eq (decideCheck_ports ..))
      · exact hsent

end Sys2Proof.Machine
end

section
/-!
The identity exchange (09_route R284, R286, R289): an IDENT that arrives in IDENT and in UP, and the one that goes out.
-/

namespace Sys2Proof.Machine

open Sys2Proof.Claims

theorem exec_ident (port : Fin 24) (r : IdentRec) (s : State) : exec (.ident port r) s = execIdent port r s := rfl
theorem exec_identSend (port : Fin 24) (s : State) : exec (.identSend port) s = execIdentSend port s := rfl

/-! ### A port that comes UP -/

/-- The neighbour entry of a port is that of the record. -/
def HoldsIdent (q : Port) (r : IdentRec) : Prop :=
  q.loc = r.loc ∧ q.digest = r.digest ∧ q.role = r.isSwitch ∧ q.partnerPort.toNat = r.port.val ∧ q.pgroup.toNat = r.group.val

theorem neighbour_holdsIdent (p : Port) (r : IdentRec) : HoldsIdent (neighbour p r) r := by
  refine ⟨rfl, rfl, rfl, ?_, ?_⟩ <;> simp only [neighbour, BitVec.toNat_ofNat] <;> omega

theorem noteDegraded_noteLost_ports (s : State) (g : Nat) : SamePorts s (noteDegraded (noteLost s g) g) :=
  ⟨fun i => ⟨(s.portAt i).transmit, noteDegraded_noteLost_portAt s g i⟩⟩

theorem portUp_portAt (s : State) (n : Nat) (r : IdentRec) :
    ((portUp s n r).portAt n).state = 3 ∧ HoldsIdent ((portUp s n r).portAt n) r := by
  unfold portUp
  extract_lets p g first q replaced returned changed t u v
  have hu : u.ports = t.ports := by
    unfold u
    split
    · rw [raiseVector_frame]
    · rfl
  have hv : v.ports = t.ports := by
    refine Eq.trans ?_ hu
    unfold v
    split <;> rfl
  have hport : v.portAt n = t.portAt n := by simp only [State.portAt, hv]
  have hends : ∀ x : Group, SamePorts v (tryCheck (noteDegraded (noteLost (pump (v.setGroup g x) g) g) g)) := fun x =>
    ((SamePorts.of_eq (s := v) (t := v.setGroup g x) rfl).trans (pump_queued _ g).ports).trans
      ((noteDegraded_noteLost_ports _ g).trans (tryCheck_ports _))
  obtain ⟨l, hl⟩ := (hends { v.groupAt g with miswired := false, changed := (v.groupAt g).changed || changed }).port n
  rw [hl, hport, portAt_setPort]
  exact ⟨rfl, neighbour_holdsIdent p r⟩

/-! ### IDENT that arrives -/

/-- A group with an UP port frees the flit of an IDENT. -/
def identFreed (s : State) (n : Nat) : State := if upPorts s (portGroup n) = [] then s else freeFlits s (portGroup n) 0 1

theorem identFreed_ports (s : State) (n : Nat) : (identFreed s n).ports = s.ports := by
  unfold identFreed
  split <;> rfl

theorem identFreed_portAt (s : State) (n i : Nat) : (identFreed s n).portAt i = s.portAt i := by
  simp only [State.portAt, identFreed_ports]

theorem upPorts_identFreed (s : State) (n g : Nat) : upPorts (identFreed s n) g = upPorts s g := by
  simp only [upPorts, identFreed_portAt]

theorem execIdent_of_ident {s : State} {port : Fin 24} (hclk : coreClocks s = true) (hst : (s.portAt port.val).state = 2) (r : IdentRec) :
    execIdent port r s = if miswired (identFreed s port.val) port.val r then
      .next (noteMiswired ((identFreed s port.val).setPort port.val
        (neighbour (enterState (identFreed s port.val) (s.portAt port.val) 7) r)) (portGroup port.val))
      else .next (portUp (identFreed s port.val) port.val r) := by
  rw [execIdent, whileClocked_of_clock hclk]
  exact if_pos hst

/-- R286: the record agrees with what the group's UP ports face; on group T it is a switch's. -/
def Agrees (s : State) (g : Nat) (r : IdentRec) : Prop :=
  if g = 2 then r.isSwitch = true else ∀ k ∈ upPorts s g, (s.portAt k).loc = r.loc ∧ (s.portAt k).pgroup.toNat = r.group.val

theorem not_miswired_of_agrees {s : State} {n : Nat} {r : IdentRec} (h : Agrees s (portGroup n) r) :
    miswired (identFreed s n) n r = false := by
  unfold miswired
  extract_lets g
  unfold Agrees at h
  split
  next hT => rw [if_pos hT] at h; simp [h]
  next hT =>
    rw [if_neg hT] at h
    rw [upPorts_identFreed]
    split
    · rfl
    next k l hk =>
      obtain ⟨hloc, hgroup⟩ := h k (List.mem_of_mem_filter (hk ▸ List.mem_cons_self))
      simp [identFreed_portAt, hloc, hgroup]

/-- The last record that an UP port receives forms its entry. -/
def identHeard (s : State) (n : Nat) (r : IdentRec) : State :=
  freeFlits (s.setPort n (neighbour (s.portAt n) r)) (portGroup n) 0 1

section ident

variable {s : State} {port : Fin 24} {r : IdentRec} (hclk : coreClocks s = true)
include hclk

theorem ident_up (hst : (s.portAt port.val).state = 2) (h : Agrees s (portGroup port.val) r) :
    ∃ t, Gives (.ident port r) s t ∧ (t.portAt port.val).state = 3 ∧ HoldsIdent (t.portAt port.val) r := by
  refine ⟨_, ?_, portUp_portAt (identFreed s port.val) port.val r⟩
  rw [Gives, exec_ident, execIdent_of_ident hclk hst, not_miswired_of_agrees h, if_neg Bool.false_ne_true]

/-- On group T a partner that is no switch makes its port MISWIRED. -/
theorem ident_miswires (hst : (s.portAt port.val).state = 2) (hT : portGroup port.val = 2) (hsw : r.isSwitch = false) :
    ∃ t, Gives (.ident port r) s t ∧ (t.portAt port.val).state = 7 := by
  have hmis : miswired (identFreed s port.val) port.val r = true := by simp [miswired, hT, hsw]
  have hports : ∀ u g, (noteMiswired u g).ports = u.ports := fun u g => by
    unfold noteMiswired
    dsimp only
    split
    · rw [logLink_frame]; rfl
    · rfl
  refine ⟨_, by rw [Gives, exec_ident, execIdent_of_ident hclk hst, hmis, if_pos rfl], ?_⟩
  rw [State.portAt, hports, ← State.portAt, portAt_setPort]
  rfl

/-- R289: an UP port whose partner has changed goes DOWN. -/
theorem ident_leaves (hst : (s.portAt port.val).state = 3) (hne : (s.portAt port.val).loc ≠ r.loc ∨ (s.portAt port.val).digest ≠ r.digest) :
    PortLeaves (.ident port r) s port.val 5 := by
  have htwo : (s.portAt port.val).state ≠ 2 := by omega
  have hgives := exec_ident port r s
  rw [execIdent, whileClocked_of_clock hclk] at hgives
  dsimp only at hgives
  rw [if_neg htwo, if_pos hst, if_pos hne] at hgives
  exact portLeaves_of_gives_ports (u := identHeard s port.val r) (count := false) (by decide) hgives (setGroup_ports ..)

end ident

/-! ### IDENT that goes out -/

/-- The interval between two IDENTs of a port. -/
def identInterval (p : Port) : Nat := if p.state = 2 then 10000 else 1000000

/-- The record of R284 that a port sends. -/
def ownIdent (s : State) (n : Nat) : Message :=
  newMessage s 0x01 0 true 0 0
    [(ownLoc s).toNat, n, portGroup n, 0, (ownDigest s).toNat, stepCode s 4, if ringCarries s then s.ring.formedId.toNat else 0xFFFF,
     if ringCarries s then s.ring.position.toNat else 0xFFFF, if isSynced s then 1 else 0]

theorem newMessage_fields (s : State) (type vc : Nat) (toPartner : Bool) (dst : BitVec 16) (step a b c d e : Nat) (l : List Nat) :
    let m := newMessage s type vc toPartner dst step (a :: b :: c :: d :: e :: l)
    m.head.take 3 = [a, b, c] ∧ m.head.getD 4 0 = e := ⟨rfl, rfl⟩

/-- The fields of an IDENT that tell where it comes from. -/
theorem ownIdent_head (s : State) (n : Nat) : (ownIdent s n).head.take 3 = [(ownLoc s).toNat, n, portGroup n] ∧
    (ownIdent s n).head.getD 4 0 = (ownDigest s).toNat := by
  rw [ownIdent]
  exact newMessage_fields ..

/-- The port with its last IDENT noted. -/
def identNoted (s : State) (n : Nat) : State := s.setPort n { s.portAt n with identAt := some s.time }

theorem upPorts_identNoted (s : State) (n g : Nat) : upPorts (identNoted s n) g = upPorts s g := by
  have hstate : ∀ i, ((identNoted s n).portAt i).state = (s.portAt i).state := fun i => by
    obtain rfl | hi := eq_or_ne i n
    · rw [identNoted, portAt_setPort]
    · rw [identNoted, portAt_setPort_ne _ _ _ _ hi]
  simp only [upPorts, hstate]

section identSend

variable {s : State} {port : Fin 24} (hclk : coreClocks s = true)
  (hst : (s.portAt port.val).state = 2 ∨ (s.portAt port.val).state = 3)
  (he : Elapsed s (s.portAt port.val).identAt (identInterval (s.portAt port.val)))
include hclk hst he

theorem execIdentSend_of_elapsed : execIdentSend port s =
    .next ((sendOnPort (identNoted s port.val) port.val (ownIdent s port.val)).getD (bumpLink s (portGroup port.val))) := by
  rw [← elapsed_iff] at he
  rw [execIdentSend, whileClocked_of_clock hclk]
  dsimp only
  rw [if_pos ⟨hst, he⟩, ← ownIdent]
  unfold identNoted
  cases sendOnPort (s.setPort port.val { s.portAt port.val with identAt := some s.time }) port.val (ownIdent s port.val) <;> rfl

/-- An IDENT goes out with the next number of VC 0; the group needs a credit for it once one of its ports is UP. -/
theorem identSend_sends (hc : upPorts s (portGroup port.val) ≠ [] → 1 ≤ tabGet 0 (s.groupAt (portGroup port.val)).credits 0) :
    ∃ t, Gives (.identSend port) s t ∧ OnlyLinks s t ∧ (∀ i, i ≠ port.val → t.portAt i = s.portAt i) ∧
      (t.portAt port.val).identAt = some s.time ∧ numberedFor s port.val (ownIdent s port.val) ∈ (t.portAt port.val).transmit := by
  obtain ⟨t, hsend, hframe, hothers, hport⟩ := sendOnPort_queues (s := identNoted s port.val) (m := ownIdent s port.val)
    (by rw [upPorts_identNoted]; exact hc)
  refine ⟨t, ?_, OnlyLinks.trans (t := identNoted s port.val) rfl hframe, fun i hi => ?_, ?_, ?_⟩
  · rw [Gives, exec_identSend, execIdentSend_of_elapsed hclk hst he, hsend, Option.getD_some]
  · rw [hothers i hi, identNoted, portAt_setPort_ne _ _ _ _ hi]
  · rw [hport, identNoted, portAt_setPort]
    rfl
  · rw [hport]
    exact mem_queueMessage ..

theorem identSend_held_back (hup : upPorts s (portGroup port.val) ≠ []) (hc : tabGet 0 (s.groupAt (portGroup port.val)).credits 0 = 0) :
    Gives (.identSend port) s (bumpLink s (portGroup port.val)) := by
  have hno : ¬CreditsFor (identNoted s port.val) (portGroup port.val) (ownIdent s port.val) :=
    Nat.not_le.mpr (Nat.lt_one_iff.mpr hc)
  rw [Gives, exec_identSend, execIdentSend_of_elapsed hclk hst he,
    sendOnPort_without_credits (by rwa [upPorts_identNoted]) hno, Option.getD_none]

end identSend

end Sys2Proof.Machine
end

section
/-!
Frames that a port sends (09_route R273, R281, R282, R293): the flits that they take from the messages, a resend, an idle frame and a new frame, each
with its trailer.
-/

namespace Sys2Proof.Machine

open Sys2Proof.Claims

theorem exec_frameSend (port : Fin 24) (s : State) : exec (.frameSend port) s = execFrameSend port s := rfl

/-! ### The flits of a frame (R273, R274) -/

/-- A frame completes the first messages and keeps the order of the others. -/
theorem packFrame_append (l : List OutMessage) : ∀ room sent, (packFrame room sent l).1 ++ (packFrame room sent l).2.1 = l := by
  induction l with
  | nil => exact fun _ _ => rfl
  | cons m r ih =>
    intro room sent
    rw [packFrame]
    split
    · exact congrArg (m :: ·) (ih ..)
    · rfl

/-- The flits that a frame takes are no more than its room. -/
theorem packFrame_flits (l : List OutMessage) : ∀ room sent,
    ((packFrame room sent l).1.map fun o => msgFlits o.msg).sum + (packFrame room sent l).2.2 ≤ sent + room := by
  induction l with
  | nil => exact fun room sent => by simp [packFrame]
  | cons m r ih =>
    intro room sent
    rw [packFrame]
    split
    next hfits =>
      have hrest := ih (room - (msgFlits m.msg - sent)) 0
      simp only [List.map_cons, List.sum_cons]
      omega
    · simp

theorem length_slotsOf (sent : Nat) (l : List OutMessage) : (slotsOf sent l).length = 64 := by
  simp only [slotsOf, List.length_append, List.length_take, List.length_replicate]
  omega

theorem slotsOf_nil : slotsOf 0 [] = List.replicate 64 (List.replicate 256 0) := rfl

theorem stampRequest_type (c : Nat) (o : OutMessage) : (stampRequest c o).msg.type = o.msg.type := by
  unfold stampRequest
  split <;> rfl

theorem any_stampRequest (c : Nat) (ms : List OutMessage) :
    ((ms.map (stampRequest c)).any fun m => m.msg.type == 0x08) = true ↔ ∃ o ∈ ms, o.msg.type = 0x08 := by
  simp [stampRequest_type]

/-! ### The state in which a port sends -/

/-- Before an UP port sends, the messages that may start do so. -/
def readyToSend (s : State) (n : Nat) : State :=
  if (s.portAt n).state = 3 then countHubHeld (pump s (portGroup n)) (portGroup n) else s

theorem countHubHeld_frame (s : State) (g : Nat) : countHubHeld s g = { s with linkCounters := (countHubHeld s g).linkCounters } := by
  unfold countHubHeld
  dsimp only
  split <;> rfl

theorem readyToSend_frame (s : State) (n : Nat) : readyToSend s n = { s with
    groups := (readyToSend s n).groups, ports := (readyToSend s n).ports, linkCounters := (readyToSend s n).linkCounters } := by
  unfold readyToSend
  split
  · rw [countHubHeld_frame, (pump_queued s (portGroup n)).frame]
  · rfl

theorem readyToSend_sync (s : State) (n : Nat) : (readyToSend s n).sync = s.sync := by rw [readyToSend_frame]

theorem ownClock_readyToSend (s : State) (n : Nat) : ownClock (readyToSend s n) = ownClock s := by
  rw [readyToSend_frame]
  rfl

theorem readyToSend_freed (s : State) (n g : Nat) : ((readyToSend s n).groupAt g).freed = (s.groupAt g).freed := by
  unfold readyToSend
  split
  · rw [countHubHeld_frame]
    exact (pump_queued s (portGroup n)).freed_eq g
  · rfl

/-! ### A new frame -/

section newFrame

variable (x : State) (n : Nat)

/-- The messages that a new frame completes, those that stay, and the flits of the next one that frames have carried. -/
def packed : List OutMessage × List OutMessage × Nat := packFrame 64 (x.portAt n).sentFlits (sendable x n).1

/-- The messages that a new frame completes, as they pass the serializer. -/
def framed : List OutMessage := (packed x n).1.map (stampRequest (ownClock x))

def newFill : Nat := min 64 (((sendable x n).1.map fun o => msgFlits o.msg).sum - (x.portAt n).sentFlits)

def newSlots : List (List Byte) := slotsOf (x.portAt n).sentFlits (framed x n ++ (packed x n).2.1)

/-- The frame on the link. -/
def linkFrame (fseq : BitVec 16) (fill : Nat) (ms : List OutMessage) (slots : List (List Byte)) : Option OutFrame :=
  some (trailerOf x n fseq fill (ms.map OutMessage.msg) slots)

/-- The port with a new frame on the link, which its replay buffer keeps. -/
def newFramePort : Port :=
  { x.portAt n with
    nak := false, transmit := (packed x n).2.1 ++ (sendable x n).2, sentFlits := (packed x n).2.2
    replay := (x.portAt n).replay ++ [((x.portAt n).fseq, newFill x n, framed x n)]
    replaySlots := (x.portAt n).replaySlots ++ [((x.portAt n).fseq, newSlots x n)], fseq := (x.portAt n).fseq + 1
    onLink := linkFrame x n (x.portAt n).fseq (newFill x n) (framed x n) (newSlots x n) }

/-- A TIME_REQ in a new frame begins its exchange. -/
def requestNoted : State :=
  if (framed x n).any fun m => m.msg.type == 0x08 then { x with sync := { x.sync with pending := some (ownClock x) } } else x

theorem requestNoted_frame : requestNoted x n = { x with sync := (requestNoted x n).sync } := by
  unfold requestNoted
  split <;> rfl

theorem requestNoted_sync : (requestNoted x n).sync =
    if ∃ o ∈ (packed x n).1, o.msg.type = 0x08 then { x.sync with pending := some (ownClock x) } else x.sync := by
  simp only [requestNoted, framed, any_stampRequest]
  split <;> rfl

end newFrame

/-- The port with a frame of its replay buffer on the link again. -/
def resentPort (x : State) (n : Nat) : Port :=
  let q := x.portAt n
  let r := q.replay.getD (q.replay.length - q.resend) (q.fseq, 0, [])
  { q with
    nak := false, resend := q.resend - 1
    onLink := linkFrame x n r.1 r.2.1 r.2.2 (((q.replaySlots.find? fun e => e.1 == r.1).map Prod.snd).getD []) }

/-- The port with an idle frame on the link. -/
def idlePort (x : State) (n : Nat) : Port :=
  { x.portAt n with nak := false, onLink := linkFrame x n ((x.portAt n).fseq - 1) 0 [] (slotsOf 0 []) }

theorem execFrameSend_eq {s : State} {port : Fin 24} (hclk : coreClocks s = true)
    (hst : (s.portAt port.val).state = 2 ∨ (s.portAt port.val).state = 3) :
    let x := readyToSend s port.val
    execFrameSend port s =
      if 0 < (x.portAt port.val).resend then .next (x.setPort port.val (resentPort x port.val))
      else if 32 ≤ (x.portAt port.val).replay.length ∨ (sendable x port.val).1 = [] then .next (x.setPort port.val (idlePort x port.val))
      else .next ((requestNoted x port.val).setPort port.val (newFramePort x port.val)) := by
  have hgo : ¬((s.portAt port.val).state ≠ 2 ∧ (s.portAt port.val).state ≠ 3) := by omega
  rw [execFrameSend, whileClocked_of_clock hclk]
  exact if_neg hgo

/-! ### The three kinds of frames -/

/-- A frame on the link carries what it is given, with the credits that the group has freed. -/
theorem linkFrame_carries {x : State} {g : Group} {n : Nat} (hfreed : (x.groupAt (portGroup n)).freed = g.freed) (fseq : BitVec 16)
    (fill : Nat) (ms : List OutMessage) (slots : List (List Byte)) :
    CarriesFrame g (x.portAt n) (linkFrame x n fseq fill ms slots) fseq fill ms := by
  refine ⟨_, rfl, rfl, rfl, rfl, rfl, rfl, rfl, fun vc hvc => ?_, rfl⟩
  simp only [trailerOf, hfreed, List.getElem?_map, List.getElem?_range hvc, Option.map_some]

/-- The port sends a frame: beside it TimeSync alone may have changed since it was ready to send. -/
structure SendsFrame (s : State) (port : Fin 24) (t : State) : Prop where
  gives : Gives (.frameSend port) s t
  frame : t = { readyToSend s port.val with ports := t.ports, sync := t.sync }
  others : ∀ i, i ≠ port.val → t.portAt i = (readyToSend s port.val).portAt i

theorem sendsFrame_of_setPort {s x : State} {port : Fin 24} {q : Port} (hgives : Gives (.frameSend port) s (x.setPort port.val q))
    (hx : x = { readyToSend s port.val with sync := x.sync }) : SendsFrame s port (x.setPort port.val q) where
  gives := hgives
  frame := by
    rw [hx]
    rfl
  others i hi := by
    rw [portAt_setPort_ne _ _ _ _ hi, hx]
    rfl

section kinds

variable {s : State} {port : Fin 24} (hclk : coreClocks s = true)
  (hst : (s.portAt port.val).state = 2 ∨ (s.portAt port.val).state = 3)
include hclk hst

theorem frameSend_resends (h : 0 < ((readyToSend s port.val).portAt port.val).resend) :
    let q := (readyToSend s port.val).portAt port.val
    ∃ t, SendsFrame s port t ∧ t.sync = s.sync ∧
      t.portAt port.val = { q with nak := false, resend := q.resend - 1, onLink := (t.portAt port.val).onLink } ∧
      ∀ r, q.replay[q.replay.length - q.resend]? = some r →
        CarriesFrame (s.groupAt (portGroup port.val)) q (t.portAt port.val).onLink r.1 r.2.1 r.2.2 := by
  intro q
  have hgives := exec_frameSend port s
  rw [execFrameSend_eq hclk hst, if_pos h] at hgives
  refine ⟨_, sendsFrame_of_setPort hgives rfl, readyToSend_sync .., ?_, fun r hr => ?_⟩
  · rw [portAt_setPort]
    rfl
  · rw [portAt_setPort, resentPort]
    dsimp only
    rw [List.getD_eq_getElem?_getD, hr, Option.getD_some]
    exact linkFrame_carries (readyToSend_freed ..) ..

theorem frameSend_idles (h : ((readyToSend s port.val).portAt port.val).resend = 0)
    (hidle : 32 ≤ ((readyToSend s port.val).portAt port.val).replay.length ∨ (sendable (readyToSend s port.val) port.val).1 = []) :
    let q := (readyToSend s port.val).portAt port.val
    ∃ t, SendsFrame s port t ∧ t.sync = s.sync ∧
      t.portAt port.val = { q with nak := false, onLink := (t.portAt port.val).onLink } ∧
      CarriesFrame (s.groupAt (portGroup port.val)) q (t.portAt port.val).onLink (q.fseq - 1) 0 [] ∧
      (t.portAt port.val).onLink.map OutFrame.slots = some (List.replicate 64 (List.replicate 256 0)) := by
  intro q
  have hgives := exec_frameSend port s
  rw [execFrameSend_eq hclk hst, if_neg (by omega), if_pos hidle] at hgives
  refine ⟨_, sendsFrame_of_setPort hgives rfl, readyToSend_sync .., ?_, ?_, ?_⟩ <;> rw [portAt_setPort]
  · rfl
  · exact linkFrame_carries (readyToSend_freed ..) ..
  · exact congrArg some slotsOf_nil

theorem frameSend_sends (h : ((readyToSend s port.val).portAt port.val).resend = 0)
    (hroom : ((readyToSend s port.val).portAt port.val).replay.length < 32)
    (hsome : (sendable (readyToSend s port.val) port.val).1 ≠ []) :
    let x := readyToSend s port.val
    let q := x.portAt port.val
    let l := sendable x port.val
    ∃ t, SendsFrame s port t ∧ ∃ ms rest k fill slots,
      let stamped := ms.map (stampRequest (ownClock s))
      t.portAt port.val = { q with
        nak := false, transmit := rest ++ l.2, sentFlits := k, replay := q.replay ++ [(q.fseq, fill, stamped)]
        replaySlots := q.replaySlots ++ [(q.fseq, slots)], fseq := q.fseq + 1, onLink := (t.portAt port.val).onLink } ∧
      CarriesFrame (s.groupAt (portGroup port.val)) q (t.portAt port.val).onLink q.fseq fill stamped ∧
      (t.portAt port.val).onLink.map OutFrame.slots = some slots ∧ slots.length = 64 ∧ ms ++ rest = l.1 ∧
      fill = min 64 ((l.1.map fun o => msgFlits o.msg).sum - q.sentFlits) ∧
      (ms.map fun o => msgFlits o.msg).sum + k ≤ q.sentFlits + 64 ∧
      t.sync = if ∃ o ∈ ms, o.msg.type = 0x08 then { s.sync with pending := some (ownClock s) } else s.sync := by
  intro x q l
  have hgives := exec_frameSend port s
  rw [execFrameSend_eq hclk hst, if_neg (by omega), if_neg (by rw [not_or]; exact ⟨Nat.not_le.mpr hroom, hsome⟩)] at hgives
  have hframed : framed x port.val = (packed x port.val).1.map (stampRequest (ownClock s)) := by rw [framed, ownClock_readyToSend]
  refine ⟨_, sendsFrame_of_setPort hgives (requestNoted_frame ..), (packed x port.val).1, (packed x port.val).2.1, (packed x port.val).2.2,
    newFill x port.val, newSlots x port.val, ?_, ?_, ?_, length_slotsOf .., packFrame_append .., rfl, packFrame_flits .., ?_⟩
  · rw [portAt_setPort, ← hframed]
    rfl
  · rw [portAt_setPort, ← hframed]
    exact linkFrame_carries (readyToSend_freed ..) ..
  · rw [portAt_setPort]
    rfl
  · rw [setPort_sync, requestNoted_sync, readyToSend_sync, ownClock_readyToSend]

end kinds

end Sys2Proof.Machine
end

section
/-!
Frames that a port receives (09_route R273, R278, R281, R282): one with a bad CRC, one out of order, and an accepted one with the
acknowledgements of its trailer; and messages that are discarded (R275, R277).
-/

namespace Sys2Proof.Machine

open Sys2Proof.Claims

theorem exec_frameReceive (port : Fin 24) (f : Frame) (s : State) : exec (.frameReceive port f) s = execFrameReceive port f s := rfl
theorem exec_badMsg (group : Fin 3) (m : Message) (s : State) : exec (.badMsg group m) s = execBadMsg group m s := rfl

/-! ### The trailer (R281) -/

theorem ackMessage_ports (s : State) (g : Nat) (m : OutMessage) : (ackMessage s g m).ports = s.ports := by
  unfold ackMessage
  split <;> rfl

theorem foldl_ackMessage_ports (g : Nat) (l : List OutMessage) (s : State) : (l.foldl (fun t m => ackMessage t g m) s).ports = s.ports :=
  l.foldlRecOn _ (motive := fun t : State => t.ports = s.ports) rfl fun _ h _ _ => (ackMessage_ports ..).trans h

/-- The port without the frames up to ACKSEQ. -/
def acked (p : Port) (f : Frame) : Port :=
  if f.ackValid ∧ (p.replay.any fun r => r.1 == f.ackSeq) then
    let left := p.replay.drop ((p.replay.findIdx fun r => r.1 == f.ackSeq) + 1)
    { p with replay := left, replaySlots := p.replaySlots.filter fun e => left.any fun r => r.1 == e.1, resend := min p.resend left.length }
  else p

theorem takeAck_portAt (s : State) (n : Nat) (f : Frame) : (takeAck s n f).portAt n = acked (s.portAt n) f := by
  unfold takeAck acked
  extract_lets p k done left
  split
  · rw [State.portAt, foldl_ackMessage_ports]
    exact portAt_setPort ..
  · rfl

theorem acked_of_invalid {f : Frame} (h : f.ackValid = false) (p : Port) : acked p f = p := if_neg (by simp [h])

/-- The frames up to the first with FSEQ ACKSEQ leave the replay buffer. -/
theorem acked_replay {p : Port} {f : Frame} {a b : List (BitVec 16)} (h : f.ackValid = true)
    (hreplay : p.replay.map Prod.fst = a ++ f.ackSeq :: b) (ha : f.ackSeq ∉ a) : (acked p f).replay = p.replay.drop (a.length + 1) := by
  have hany : (p.replay.any fun r => r.1 == f.ackSeq) = true := by
    have hmem : f.ackSeq ∈ p.replay.map Prod.fst := by simp [hreplay]
    obtain ⟨r, hr, hseq⟩ := List.mem_map.mp hmem
    exact List.any_eq_true.mpr ⟨r, hr, by simp [hseq]⟩
  have hidx : (p.replay.findIdx fun r => r.1 == f.ackSeq) = a.length := by
    have hmap : (p.replay.findIdx fun r => r.1 == f.ackSeq) = (p.replay.map Prod.fst).idxOf f.ackSeq := by
      rw [List.idxOf, List.findIdx_map]
      rfl
    rw [hmap, hreplay, List.idxOf_append_of_notMem ha, List.idxOf_cons_self, Nat.add_zero]
  rw [acked, if_pos ⟨h, hany⟩, hidx]

/-- Beside what acknowledges, the other fields of a port stand. -/
theorem acked_eq (p : Port) (f : Frame) : ∃ replay replaySlots resend, acked p f = { p with replay, replaySlots, resend } := by
  unfold acked
  split
  · exact ⟨_, _, _, rfl⟩
  · exact ⟨_, _, _, rfl⟩

/-- NAK: every frame of the replay buffer is resent. -/
theorem takeNak_portAt (s : State) (n : Nat) (f : Frame) : ∃ nakFseq nakRun state since inForce, (takeNak s n f).portAt n =
    { s.portAt n with
      nakFseq, nakRun, state, since, inForce, resend := if f.nak then (s.portAt n).replay.length else (s.portAt n).resend } := by
  unfold takeNak
  extract_lets p run t u
  cases hnak : f.nak with
  | false => exact ⟨_, _, _, _, _, portAt_setPort ..⟩
  | true =>
    have ht : t.portAt n = { p with nakFseq := f.ackSeq, nakRun := run, resend := p.replay.length } := portAt_setPort ..
    rw [Bool.not_true, if_neg Bool.false_ne_true]
    split
    · refine ⟨f.ackSeq, run, 4, t.time, settings p, ?_⟩
      rw [noteDegraded_noteLost_portAt]
      refine (portAt_setPort ..).trans ?_
      simp only [u, enterState, ht, if_true]
      rfl
    · exact ⟨_, _, _, _, _, ht⟩

theorem takeCredits_ports (s : State) (g : Nat) (f : Frame) : SamePorts s (takeCredits s g f) := by
  unfold takeCredits
  extract_lets x y
  exact (SamePorts.of_eq (s := s) (t := s.setGroup g y) rfl).trans (pump_queued ..).ports

/-- The receiver of a port as an accepted frame leaves it. -/
def received (s : State) (p : Port) (f : Frame) : Port :=
  { p with lastGoodAt := s.time, expect := p.expect + 1, lastGood := f.fseq, ackValid := true, nak := false }

/-! ### Frames that arrive -/

section frames

variable {s : State} {port : Fin 24} {f : Frame} (hclk : coreClocks s = true)
  (hst : (s.portAt port.val).state = 2 ∨ (s.portAt port.val).state = 3)
include hclk hst

theorem execFrameReceive_eq : execFrameReceive port f s =
    if !f.crcOk then .next (bumpRoute (s.setPort port.val { s.portAt port.val with nak := true }) port.val)
    else if f.fill = 0 then .next (takeTrailer (s.setPort port.val { s.portAt port.val with lastGoodAt := s.time }) port.val f)
    else if f.fseq = (s.portAt port.val).expect then
      .next (takeTrailer (s.setPort port.val (received s (s.portAt port.val) f)) port.val f)
    else .next (s.setPort port.val { s.portAt port.val with lastGoodAt := s.time }) := by
  have hgo : ¬((s.portAt port.val).state ≠ 2 ∧ (s.portAt port.val).state ≠ 3) := by omega
  rw [execFrameReceive, whileClocked_of_clock hclk]
  exact if_neg hgo

/-- A frame with a bad CRC is counted, and the next trailer asks for a resend. -/
theorem frameReceive_of_bad_crc (hcrc : f.crcOk = false) :
    Gives (.frameReceive port f) s (bumpRoute (s.setPort port.val { s.portAt port.val with nak := true }) port.val) := by
  rw [Gives, exec_frameReceive, execFrameReceive_eq hclk hst, hcrc, Bool.not_false, if_pos rfl]

theorem frameReceive_out_of_order (hcrc : f.crcOk = true) (hfill : f.fill ≠ 0) (hseq : f.fseq ≠ (s.portAt port.val).expect) :
    PortBecomes (.frameReceive port f) s port.val { s.portAt port.val with lastGoodAt := s.time } := by
  refine portBecomes_of_gives ?_
  rw [Gives, exec_frameReceive, execFrameReceive_eq hclk hst, hcrc, Bool.not_true, if_neg Bool.false_ne_true, if_neg hfill, if_neg hseq]

theorem frameReceive_accepts (hcrc : f.crcOk = true) (hfill : f.fill ≠ 0) (hseq : f.fseq = (s.portAt port.val).expect) :
    let p := s.portAt port.val
    ∃ t, Gives (.frameReceive port f) s t ∧
      let q := t.portAt port.val
      q.expect = p.expect + 1 ∧ q.lastGood = f.fseq ∧ q.ackValid = true ∧ q.nak = false ∧ q.lastGoodAt = s.time ∧
      q.replay = (acked (received s p f) f).replay ∧ (f.nak = true → q.resend = q.replay.length) := by
  intro p
  have hgives := exec_frameReceive port f s
  rw [execFrameReceive_eq hclk hst, hcrc, Bool.not_true, if_neg Bool.false_ne_true, if_neg hfill, if_pos hseq] at hgives
  refine ⟨_, hgives, ?_⟩
  let u := s.setPort port.val (received s p f)
  obtain ⟨l, hl⟩ := (takeCredits_ports (takeNak (takeAck u port.val f) port.val f) (portGroup port.val) f).port port.val
  obtain ⟨nakFseq, nakRun, state, since, inForce, hnak⟩ := takeNak_portAt (takeAck u port.val f) port.val f
  obtain ⟨replay, replaySlots, resend, hack⟩ := acked_eq (received s p f) f
  have hu : (takeAck u port.val f).portAt port.val = acked (received s p f) f := by rw [takeAck_portAt, portAt_setPort]
  rw [hu] at hnak
  rw [takeTrailer, hl, hnak]
  refine ⟨?_, ?_, ?_, ?_, ?_, rfl, fun h => if_pos h⟩ <;> rw [hack] <;> rfl

end frames

/-! ### Messages that are discarded (R275, R277) -/

theorem badMsg_counts {s : State} {group : Fin 3} {m : Message} (hclk : coreClocks s = true) (h : isBadMessage group.val m = true) :
    Gives (.badMsg group m) s (freeFlits (bumpRoute s (75 + group.val)) group.val m.vc.val (msgFlits m)) := by
  rw [Gives, exec_badMsg, execBadMsg, whileClocked_of_clock hclk, h, whenEnabled_true]

theorem bumpRoute_counter (s : State) (i : Nat) : tabGet 0 (bumpRoute s i).routeCounters i = tabGet 0 s.routeCounters i + 1 :=
  (tabGet_bumpBy ..).trans (if_pos rfl)

theorem freeFlits_groupAt (s : State) (g vc n : Nat) :
    (freeFlits s g vc n).groupAt g = { s.groupAt g with freed := ((freeFlits s g vc n).groupAt g).freed } := by
  rw [freeFlits, groupAt_setGroup]

end Sys2Proof.Machine
end

section
/-!
The ports of the Route links as a whole (09_route R273, R281 to R286).
-/

namespace Sys2Proof.Machine

open Sys2Proof.Claims

/-- A port in traffic sends a resend, an idle frame or a new frame. -/
theorem frameSend_kinds {s : State} {port : Fin 24} (hclk : coreClocks s = true)
    (hst : (s.portAt port.val).state = 2 ∨ (s.portAt port.val).state = 3) :
    let x := readyToSend s port.val
    let q := x.portAt port.val
    let l := sendable x port.val
    ∃ t, SendsFrame s port t ∧
      let link := (t.portAt port.val).onLink
      let Carries := CarriesFrame (s.groupAt (portGroup port.val)) q link
      (0 < q.resend → t.sync = s.sync ∧ t.portAt port.val = { q with nak := false, resend := q.resend - 1, onLink := link } ∧
        ∀ r, q.replay[q.replay.length - q.resend]? = some r → Carries r.1 r.2.1 r.2.2) ∧
      (q.resend = 0 → 32 ≤ q.replay.length ∨ l.1 = [] → t.sync = s.sync ∧ t.portAt port.val = { q with nak := false, onLink := link } ∧
        Carries (q.fseq - 1) 0 [] ∧ link.map OutFrame.slots = some (List.replicate 64 (List.replicate 256 0))) ∧
      (q.resend = 0 → q.replay.length < 32 → l.1 ≠ [] → ∃ ms rest k fill slots,
        let stamped := ms.map (stampRequest (ownClock s))
        t.portAt port.val = { q with
          nak := false, transmit := rest ++ l.2, sentFlits := k, replay := q.replay ++ [(q.fseq, fill, stamped)],
          replaySlots := q.replaySlots ++ [(q.fseq, slots)], fseq := q.fseq + 1, onLink := link } ∧
        Carries q.fseq fill stamped ∧ link.map OutFrame.slots = some slots ∧ slots.length = 64 ∧ ms ++ rest = l.1 ∧
        fill = min 64 ((l.1.map fun o => msgFlits o.msg).sum - q.sentFlits) ∧
        (ms.map fun o => msgFlits o.msg).sum + k ≤ q.sentFlits + 64 ∧
        t.sync = if ∃ o ∈ ms, o.msg.type = 0x08 then { s.sync with pending := some (ownClock s) } else s.sync) := by
  intro x q l
  by_cases hres : 0 < q.resend
  · obtain ⟨t, hsends, hresent⟩ := frameSend_resends hclk hst hres
    exact ⟨t, hsends, fun _ => hresent, fun h => absurd hres (by omega), fun h => absurd hres (by omega)⟩
  · have hzero : q.resend = 0 := by omega
    by_cases hidle : 32 ≤ q.replay.length ∨ l.1 = []
    · obtain ⟨t, hsends, hidles⟩ := frameSend_idles hclk hst hzero hidle
      exact ⟨t, hsends, fun h => absurd h hres, fun _ _ => hidles,
        fun _ hroom hsome => absurd hidle (by rw [not_or]; exact ⟨Nat.not_le.mpr hroom, hsome⟩)⟩
    · rw [not_or, Nat.not_le] at hidle
      obtain ⟨t, hsends, hnew⟩ := frameSend_sends hclk hst hzero hidle.1 hidle.2
      exact ⟨t, hsends, fun h => absurd h hres, fun _ h => absurd h (by rw [not_or, Nat.not_le]; exact hidle), fun _ _ _ => hnew⟩

/-- Settles O23: a lemma for each row of the port states, of the identity exchange and of the frames, put together. A port that leaves traffic is not
UP, so that none of its messages comes back to it (`portLeaves_portAt`); what sending changes of a port is its transmit queue (`SamePorts`). -/
theorem portStatesAndFrames : Obligations.PortStatesAndFrames := by
  intro s who port v r f group m n g p entered Becomes Leaves late frame hclk
  refine ⟨fun he => ⟨fun hst hen hrails => probe_trains hclk he hst hen hrails, fun hst => probe_of_miswired hclk he hst⟩,
    fun he => probe_early hclk he,
    fun hst => ⟨trainingComplete_trains hclk hst, fun hlate => trainTimeout_of_training hclk hst hlate⟩,
    fun hst => ⟨trainingComplete_retrains hclk hst, fun hlate => portLeaves_of_gives (by decide) (trainTimeout_of_retraining hclk hst hlate)⟩,
    fun hst hlate => portLeaves_of_gives (by decide) (identTimeout_gives hclk hst hlate),
    fun hst => ⟨fun hlate => ?goodFrame, lossOfReceiverLock_retrains hclk hst⟩,
    fun hst hagrees => ident_up hclk hst hagrees, fun hst hT hsw => ident_miswires hclk hst hT hsw,
    fun hst hne => ident_leaves hclk hst hne, fun hst he hc => ?identSends, fun hst he hup hc => identSend_held_back hclk hst he hup hc,
    fun hr => ⟨portEnableWrite_disables hr, portEnableWrite_enables hr⟩, fun hst => ?sends, fun hst => ⟨fun hcrc => ?badCrc,
      fun hcrc hfill hseq => frameReceive_out_of_order hclk hst hcrc hfill hseq, fun hcrc hfill hseq => ?accepts⟩, fun hbad => ?badMsg⟩
  case goodFrame =>
    have hgives := goodFrameTimeout_gives hclk hst hlate
    refine ⟨portLeaves_of_gives (by decide) hgives, fun t ht => ?_⟩
    rw [gives_unique ht hgives]
    exact portLeaves_counter s port.isLt 5
  case identSends =>
    obtain ⟨t, hgives, hframe, hothers, hat, hmem⟩ := identSend_sends hclk hst he hc
    obtain ⟨hplace, hdigest⟩ := ownIdent_head s port.val
    exact ⟨t, hgives, hframe, hothers, hat, _, hmem, rfl, rfl, rfl, hplace, hdigest⟩
  case sends =>
    obtain ⟨t, hsends, hkinds⟩ := frameSend_kinds hclk hst
    exact ⟨t, hsends.gives, hsends.frame, hsends.others, hkinds⟩
  case badCrc =>
    refine ⟨_, frameReceive_of_bad_crc hclk hst hcrc, rfl, portAt_setPort .., fun i hi => portAt_setPort_ne _ _ _ _ hi, ?_⟩
    exact bumpRoute_counter ..
  case accepts =>
    obtain ⟨t, hgives, hexpect, hgood, hvalid, hnak, hat, hreplay, hresend⟩ := frameReceive_accepts hclk hst hcrc hfill hseq
    refine ⟨t, hgives, hexpect, hgood, hvalid, hnak, hat, fun a b hack hfseqs ha => ?_, fun hno => ?_, hresend⟩
    · rw [hreplay]
      exact acked_replay hack hfseqs ha
    · rw [hreplay, acked_of_invalid hno]
      rfl
  case badMsg =>
    refine ⟨_, badMsg_counts hclk hbad, rfl, ?_, ?_, fun i hi => groupAt_setGroup_ne _ _ _ _ hi⟩
    · exact bumpRoute_counter ..
    · exact freeFlits_groupAt ..

end Sys2Proof.Machine
end

section
/-!
Messages that arrive on the Route links (09_route R275, R277, R279, R280): which are taken, what taking one changes, and that a SEQ that the group has
taken before does nothing.
-/

namespace Sys2Proof.Machine

open Sys2Proof.Claims

/-! ### The rows of the messages -/

theorem exec_bale (group : Fin 3) (m : Message) (s : State) :
    exec (.bale group m) s = whileClocked s (onMessage s (toSerai s group.val 0x10 m) id) := rfl
theorem exec_grad (group : Fin 3) (m : Message) (s : State) :
    exec (.grad group m) s = whileClocked s (onMessage s (toSerai s group.val 0x13 m) id) := rfl
theorem exec_survey (group : Fin 3) (m : Message) (s : State) : exec (.survey group m) s = execSurvey group m s := rfl
theorem exec_hopEnd (group : Fin 3) (m : Message) (s : State) : exec (.hopEnd group m) s = execHopEnd group m s := rfl
theorem exec_baleAck (group : Fin 3) (m : Message) (s : State) : exec (.baleAck group m) s = execBaleAck group m s := rfl
theorem exec_want (group : Fin 3) (m : Message) (s : State) : exec (.want group m) s = execWant group m s := rfl
theorem exec_dispatch (group : Fin 3) (m : Message) (s : State) : exec (.dispatch group m) s = execDispatch group m s := rfl
theorem exec_write (group : Fin 3) (m : Message) (s : State) : exec (.write group m) s = execWrite group m s := rfl
theorem exec_writeAck (group : Fin 3) (m : Message) (s : State) : exec (.writeAck group m) s = execWriteAck group m s := rfl
theorem exec_unreach (group : Fin 3) (m : Message) (s : State) : exec (.unreach group m) s = execUnreach group m s := rfl

/-! ### Messages that are taken -/

theorem setGroup_setGroup (s : State) (g : Nat) (x y : Group) : (s.setGroup g x).setGroup g y = s.setGroup g y := by
  simp [State.setGroup]

theorem freeFlits_setGroup (s : State) (g : Nat) (x : Group) (vc n : Nat) :
    ∃ freed, freeFlits (s.setGroup g x) g vc n = s.setGroup g { x with freed } := by
  rw [freeFlits, groupAt_setGroup, setGroup_setGroup]
  exact ⟨_, rfl⟩

section taken

variable {s : State} {g type : Nat} {m : Message}

/-- The state after group `g` has become `x`. -/
theorem taken_setGroup {x : Group} (h : (m.src, m.vc, m.seq) ∈ x.seen) : Taken (s.setGroup g x) g m := by
  rw [Taken, groupAt_setGroup]
  exact h

theorem deliver_of_seen (h : (m.src, m.vc, m.seq) ∈ (s.groupAt g).seen) : deliver s g type m = none :=
  if_pos (.inr (.inr (.inr (by simpa using h))))

theorem deliverFreed_of_seen (h : (m.src, m.vc, m.seq) ∈ (s.groupAt g).seen) : deliverFreed s g type m = none := by
  rw [deliverFreed, deliver_of_seen h, Option.map_none]

theorem toSerai_of_seen (h : (m.src, m.vc, m.seq) ∈ (s.groupAt g).seen) : toSerai s g type m = none := by
  unfold toSerai
  split
  · rw [deliver_of_seen h, Option.map_none]
  · rfl

/-- A message that is delivered joins the SEQs that its group has taken; nothing else changes. -/
theorem deliver_eq_some {t : State} (h : deliver s g type m = some t) :
    ∃ seen, t = s.setGroup g { s.groupAt g with seen } ∧ (m.src, m.vc, m.seq) ∈ seen := by
  unfold deliver at h
  dsimp only at h
  split at h
  · cases h
  · cases h
    exact ⟨_, rfl, List.mem_append_right _ (List.mem_singleton_self _)⟩

variable (h : Arrives s g type m)
include h

theorem deliver_of_arrives : ∃ seen, deliver s g type m = some (s.setGroup g { s.groupAt g with seen }) ∧ (m.src, m.vc, m.seq) ∈ seen := by
  obtain ⟨groups, hfreed, -⟩ := deliverFreed_of_arrives h
  obtain ⟨t, ht, -⟩ := Option.map_eq_some_iff.mp hfreed
  obtain ⟨seen, rfl, hmem⟩ := deliver_eq_some ht
  exact ⟨seen, ht, hmem⟩

/-- A message that needs no buffer frees its flits. -/
theorem deliverFreed_takes : ∃ seen freed,
    deliverFreed s g type m = some (s.setGroup g { s.groupAt g with seen, freed }) ∧ (m.src, m.vc, m.seq) ∈ seen := by
  obtain ⟨seen, hdeliver, hmem⟩ := deliver_of_arrives h
  obtain ⟨freed, hfreed⟩ := freeFlits_setGroup s g { s.groupAt g with seen } m.vc.val (msgFlits m)
  exact ⟨seen, freed, by rw [deliverFreed, hdeliver, Option.map_some, hfreed], hmem⟩

/-- R277: the types of VC 2, 3 and 4 arrive on the ring groups alone. -/
theorem ringGroup_of_arrives {vc : Nat} (hvc : typeVc type = some vc) (h2 : 2 ≤ vc) (h4 : vc ≤ 4) : g < 2 := by
  obtain ⟨-, rfl, hgood, -, -⟩ := h
  rw [isBadMessage, hvc] at hgood
  dsimp only at hgood
  rw [Bool.or_eq_false_iff, Bool.not_eq_false', bne_eq_false_iff_eq] at hgood
  obtain ⟨hused, rfl⟩ := hgood
  simpa only [vcUsed, if_neg (Nat.not_lt.mpr h2), if_pos (Nat.lt_succ_of_le h4), decide_eq_true_eq] using hused

/-- R279: a message of VC 2, 3 or 4 goes whole into the serai of its group, where there is room. -/
theorem toSerai_takes {vc : Nat} (hvc : typeVc type = some vc) (h2 : 2 ≤ vc) (h4 : vc ≤ 4)
    (hroom : ((s.groupAt g).serai.map msgFlits).sum + msgFlits m ≤ 131072) : ∃ seen,
    toSerai s g type m = some (s.setGroup g { s.groupAt g with seen, serai := (s.groupAt g).serai ++ [m] }) ∧ (m.src, m.vc, m.seq) ∈ seen := by
  obtain ⟨seen, hdeliver, hmem⟩ := deliver_of_arrives h
  refine ⟨seen, ?_, hmem⟩
  rw [toSerai, if_pos ⟨ringGroup_of_arrives h hvc h2 h4, hroom⟩, hdeliver]
  simp only [Option.map_some, groupAt_setGroup, setGroup_setGroup]

end taken

/-! ### A SEQ taken before (R280) -/

theorem whileClocked_self (s : State) : whileClocked s (.next s) = .next s := by
  unfold whileClocked
  split <;> rfl

/-- The messages of O24 with their types. -/
def messageRows (group : Fin 3) (m : Message) : List (Instr × Nat) :=
  [(.bale group m, 0x10), (.hopEnd group m, 0x11), (.survey group m, 0x12), (.grad group m, 0x13), (.baleAck group m, 0x0B),
    (.want group m, 0x18), (.dispatch group m, 0x19), (.write group m, 0x1A), (.writeAck group m, 0x1B), (.unreach group m, 0x04)]

/-- A message whose SEQ its group has taken before does nothing, whether it would wait or not. -/
theorem gives_self_of_seen {s : State} {group : Fin 3} {m : Message} {c : Instr} {type : Nat} (hc : (c, type) ∈ messageRows group m)
    (hseen : (m.src, m.vc, m.seq) ∈ (s.groupAt group.val).seen) : Gives c s s := by
  have hfreed : ∀ (type : Nat) (f : State → State), onMessage s (deliverFreed s group.val type m) f = .next s := fun _ _ => by
    rw [deliverFreed_of_seen hseen]
    rfl
  have hserai : ∀ (type : Nat) (f : State → State), onMessage s (toSerai s group.val type m) f = .next s := fun _ _ => by
    rw [toSerai_of_seen hseen]
    rfl
  simp only [messageRows, List.mem_cons, Prod.mk.injEq, List.not_mem_nil, or_false] at hc
  obtain ⟨rfl, rfl⟩ | ⟨rfl, rfl⟩ | ⟨rfl, rfl⟩ | ⟨rfl, rfl⟩ | ⟨rfl, rfl⟩ | ⟨rfl, rfl⟩ | ⟨rfl, rfl⟩ | ⟨rfl, rfl⟩ | ⟨rfl, rfl⟩ | ⟨rfl, rfl⟩ := hc
  · rw [Gives, exec_bale, hserai, whileClocked_self]
  · rw [Gives, exec_hopEnd, execHopEnd, hfreed, whileClocked_self]
  · rw [Gives, exec_survey, execSurvey, hserai, whileClocked_self]
  · rw [Gives, exec_grad, hserai, whileClocked_self]
  · rw [Gives, exec_baleAck, execBaleAck, hfreed, whileClocked_self]
  · rw [Gives, exec_want, execWant, hfreed, ite_self, whileClocked_self]
  · rw [Gives, exec_dispatch, execDispatch, hfreed, ite_self, whileClocked_self]
  · rw [Gives, exec_write, execWrite, hfreed, ite_self, whileClocked_self]
  · rw [Gives, exec_writeAck, execWriteAck, hfreed, whileClocked_self]
  · rw [Gives, exec_unreach, execUnreach, hfreed, whileClocked_self]

end Sys2Proof.Machine
end

section
/-!
Messages whose bytes go into memory (02_package R38, R43, R48; 09_route R301, R302; 14_power R420): WANT, DISPATCH and WRITE.
-/

namespace Sys2Proof.Machine

open Sys2Proof.Claims

/-! ### Stores with their look-ups -/

/-- `t` is `s` after stores: beside what their look-ups change, memory alone is another. -/
def AfterStores (s t : State) : Prop := OnlyLookups s { t with mem := s.mem }

namespace AfterStores

variable {s t u : State}

theorem of_afterLookups (h : AfterLookups s t) : AfterStores s t := by
  rw [AfterStores, ← h.mem_eq]
  exact h.only

/-- The frame of stores. -/
theorem frame (h : AfterStores s t) : t = { s with
    mem := t.mem, dies := t.dies, ecs := t.ecs, hubCounters := t.hubCounters, bad := t.bad, log := t.log, logHead := t.logHead, pcie := t.pcie
    free := t.free } := congrArg (fun x : State => { x with mem := t.mem }) h.1

theorem trans (h : AfterStores s t) (h' : AfterStores t u) : AfterStores s u := by
  have hframe := h.frame
  have hframe' := h'.frame
  obtain ⟨-, hdies, hecs⟩ := h
  obtain ⟨-, hdies', hecs'⟩ := h'
  exact ⟨by rw [hframe', hframe], fun d => (hdies' d).trans (by rw [show t.dieAt d = _ from hdies d]; rfl),
    fun e => (hecs' e).trans (by rw [show t.ecAt e = _ from hecs e]; rfl)⟩

theorem groups_eq (h : AfterStores s t) : t.groups = s.groups := by rw [h.frame]

theorem ring_eq (h : AfterStores s t) : t.ring = s.ring := by rw [h.frame]

end AfterStores

/-- Bytes that are stored, with the errors that the write clears. -/
theorem storeAs_afterStores (s : State) (p : Option Nat) (a : Nat) (bs : List Byte) : AfterStores s (storeAs s p a bs) :=
  ⟨rfl, fun _ => rfl, fun _ => rfl⟩

theorem memWrite_afterStores (s : State) (p : Option Nat) (na : Bool) (a : Nat) (bs : List Byte) : AfterStores s (memWrite s p na a bs).2 := by
  have hlooked := AfterStores.of_afterLookups (spanUse_afterLookups s p na a bs.length true)
  unfold memWrite
  dsimp only
  split
  · exact hlooked
  · exact hlooked.trans (storeAs_afterStores ..)

theorem storeOpen_afterStores (s : State) (q : Req) (a : Nat) (bs : List Byte) : AfterStores s (storeOpen s q a bs).2 := by
  unfold storeOpen
  split
  · exact .of_afterLookups (countBlocked_afterLookups ..)
  · exact memWrite_afterStores ..

theorem storeCut_afterStores (s : State) (q : Req) (a : Nat) (bs : List Byte) : AfterStores s (storeCut s q a bs).2 := by
  unfold storeCut
  dsimp only
  split
  · exact (storeOpen_afterStores ..).trans (storeOpen_afterStores ..)
  · exact storeOpen_afterStores ..

/-- A store of no bytes meets nothing and leaves memory. -/
theorem storeCut_nil (s : State) (q : Req) (a : Nat) : (storeCut s q a []).1 = none ∧ (storeCut s q a []).2.mem = s.mem := by
  have hopen : (storeOpen s q a []).1 = none ∧ (storeOpen s q a []).2.mem = s.mem := by
    unfold storeOpen
    split
    · exact ⟨rfl, (countBlocked_afterLookups s q.ctx a).mem_eq⟩
    · exact ⟨rfl, rfl⟩
  unfold storeCut
  simpa using hopen

/-- A store that no window blocks and no error impedes. -/
theorem storeCut_stores {s : State} {q : Req} {a : Nat} {bs : List Byte} (hopen : ∀ i, i < bs.length → blockedEc s q.ctx (a + i) = none)
    (hbad : ∀ h, a / 128 ≤ h / 2 → h / 2 ≤ (a + bs.length - 1) / 128 → tabGet 0 s.bad h < 2) :
    (storeCut s q a bs).1 = none ∧ (storeCut s q a bs).2.mem = cellsWrite s.mem a bs := by
  obtain rfl | hne := eq_or_ne bs []
  · exact storeCut_nil s q a
  · obtain ⟨hok, hlooked⟩ := storeCut_of_correctable (P := fun h => a / 128 ≤ h / 2 ∧ h / 2 ≤ (a + bs.length - 1) / 128) hne hopen
      (fun h hlo hhi => ⟨hlo, hhi⟩) fun h hh => hbad h hh.1 hh.2
    exact ⟨hok, hlooked.mem_eq⟩

/-! ### The bytes of a message -/

theorem messageStore_afterStores (s : State) (p a : Nat) (bs : List Byte) : AfterStores s (messageStore s p a bs).2 := by
  unfold messageStore
  dsimp only
  split
  · exact .of_afterLookups (logWrite_afterLookups ..)
  · have hstore := storeCut_afterStores s { owner := .nobody, part := some p, ctx := none } a bs
    split
    · exact hstore.trans (.of_afterLookups (logWrite_afterLookups ..))
    · exact hstore

/-- The bytes of a message that meets no fault are in memory. -/
theorem messageStore_stores {s : State} {p a n : Nat} {bs : List Byte} (hfault : rangeFault s (some p) a bs.length true = none)
    (hfree : Unimpeded s none a n) (hn : bs.length ≤ n) (hwf : Memory.wf s.mem = true) :
    ∃ t, messageStore s p a bs = (true, t) ∧ AfterStores s t ∧ Stores s t a bs := by
  obtain ⟨-, hopen, hbad⟩ := hfree
  obtain ⟨hok, hmem⟩ := storeCut_stores (s := s) (q := { owner := .nobody, part := some p, ctx := none }) (a := a) (bs := bs)
    (fun i hi => hopen i (by omega)) fun h hlo hhi => hbad h hlo (hhi.trans (Nat.div_le_div_right (by omega)))
  refine ⟨_, ?_, storeCut_afterStores .., stores_of_mem_eq hwf hmem⟩
  simp only [messageStore, hfault, hok]

theorem taken_of_afterStores {s t : State} {g : Nat} {m : Message} (h : AfterStores s t) (htaken : Taken s g m) : Taken t g m := by
  rw [Taken, State.groupAt, h.groups_eq]
  exact htaken

/-! ### WANT (R301) -/

section want

variable {s : State} {group : Fin 3} {m : Message}

theorem want_waits (hheld : spanHeld s m.addr.toNat (min m.plen m.body.length) = true) : Gives (.want group m) s s := by
  rw [Gives, exec_want, execWant, if_pos hheld, whileClocked_self]

/-- The row of a WANT is in memory, and the wants hold it. -/
theorem want_writes (h : Arrives s group.val 0x18 m) (hwf : Memory.wf s.mem = true) {k : Fin 64} (htask : s.ring.task = some k)
    (hfault : rangeFault s (some (s.ctxAt k.val).part.toNat) m.addr.toNat (min m.plen m.body.length) true = none)
    (hfree : Unimpeded s none m.addr.toNat (min m.plen m.body.length)) :
    ∃ t, Gives (.want group m) s t ∧ Taken t group.val m ∧ Stores s t m.addr.toNat (m.body.take m.plen) ∧
      ∃ w, t.ring = { s.ring with wants := s.ring.wants ++ [w] } ∧ w.group = m.head.getD 1 0 ∧ w.firstBale = m.head.getD 2 0 ∧
        w.addr = m.addr.toNat := by
  obtain ⟨groups, hdeliver, htaken, -⟩ := deliverFreed_of_arrives h
  have hpart : caravanPart { s with groups } = some (s.ctxAt k.val).part.toNat := congrArg (Option.map _) htask
  have hlen : (m.body.take m.plen).length = min m.plen m.body.length := List.length_take
  have htake : m.body.take (min m.plen m.body.length) = m.body.take m.plen := List.take_eq_take_min.symm
  obtain ⟨v, hstore, hafter, hstores⟩ := messageStore_stores (s := { s with groups }) (a := m.addr.toNat) (bs := m.body.take m.plen)
    (by rw [hlen]; exact hfault) hfree hlen.le hwf
  have hring : v.ring = s.ring := hafter.ring_eq
  have hgives := exec_want group m s
  rw [execWant, whileClocked_of_clock h.1, if_neg (by rw [hfree.1]; exact Bool.false_ne_true), hdeliver] at hgives
  simp only [onMessage, hpart, htake, hstore, hring] at hgives
  have htaken' : Taken v group.val m := taken_of_afterStores hafter htaken
  exact ⟨_, hgives, htaken', hstores, _, rfl, rfl, rfl, rfl⟩

end want

/-! ### DISPATCH and WRITE (R302; 14_power R420) -/

section remote

/-- The partition takes the message: its range lies in the remote window, and the part is not in Nap or Doze. -/
def TakesRemote (s : State) (m : Message) : Prop :=
  InRemote s m.dpart.val m.addr.toNat m.plen ∧ s.power.state ≠ 2 ∧ s.power.state ≠ 3

variable {s : State} {m : Message}

theorem inRemoteWindow_iff (p a n : Nat) : inRemoteWindow s p a n = true ↔ InRemote s p a n := by
  simp [inRemoteWindow, InRemote, and_assoc]

theorem remoteStore_of_takes (h : TakesRemote s m) :
    remoteStore s m = messageStore s m.dpart.val m.addr.toNat (m.body.take m.plen) := by
  obtain ⟨hin, hnap, hdoze⟩ := h
  refine if_neg ?_
  rintro (h2 | h3 | hout)
  · exact hnap h2
  · exact hdoze h3
  · simp [(inRemoteWindow_iff ..).mpr hin] at hout

theorem remoteStore_of_not_takes (h : ¬TakesRemote s m) : remoteStore s m = (false, s) := by
  refine if_pos ?_
  rw [TakesRemote, ← inRemoteWindow_iff] at h
  by_contra hnot
  simp only [not_or, Bool.not_eq_true', Bool.not_eq_false] at hnot
  exact h ⟨hnot.2.2, hnot.1, hnot.2.1⟩

theorem remoteWaits_iff : remoteWaits s m = true ↔ TakesRemote s m ∧ spanHeld s m.addr.toNat m.plen = true := by
  simp only [remoteWaits, TakesRemote, ← inRemoteWindow_iff, Bool.and_eq_true, bne_iff_ne]
  tauto

theorem remoteStore_afterStores (s : State) (m : Message) : AfterStores s (remoteStore s m).2 := by
  by_cases h : TakesRemote s m
  · rw [remoteStore_of_takes h]
    exact messageStore_afterStores ..
  · rw [remoteStore_of_not_takes h]
    exact .of_afterLookups (.refl s)

/-- A message that its partition takes and that nothing impedes is in memory. -/
theorem remoteStore_stores (htakes : TakesRemote s m)
    (hfault : rangeFault s (some m.dpart.val) m.addr.toNat (m.body.take m.plen).length true = none)
    (hfree : Unimpeded s none m.addr.toNat (max m.plen (m.body.take m.plen).length)) (hwf : Memory.wf s.mem = true) :
    ∃ t, remoteStore s m = (true, t) ∧ AfterStores s t ∧ Stores s t m.addr.toNat (m.body.take m.plen) := by
  rw [remoteStore_of_takes htakes]
  exact messageStore_stores hfault hfree (le_max_right ..) hwf

variable {group : Fin 3}

theorem dispatch_waits (htakes : TakesRemote s m) (hheld : spanHeld s m.addr.toNat m.plen = true) : Gives (.dispatch group m) s s := by
  rw [Gives, exec_dispatch, execDispatch, if_pos (remoteWaits_iff.mpr ⟨htakes, hheld⟩), whileClocked_self]

theorem write_waits (htakes : TakesRemote s m) (hheld : spanHeld s m.addr.toNat m.plen = true) : Gives (.write group m) s s := by
  rw [Gives, exec_write, execWrite, if_pos (remoteWaits_iff.mpr ⟨htakes, hheld⟩), whileClocked_self]

/-- A DISPATCH that does not wait is taken; one that no partition takes is counted. -/
theorem dispatch_gives (h : Arrives s group.val 0x19 m) (hgo : ¬(TakesRemote s m ∧ spanHeld s m.addr.toNat m.plen = true)) :
    ∃ groups, Taken { s with groups } group.val m ∧ Gives (.dispatch group m) s
      (if (remoteStore { s with groups } m).1 then (remoteStore { s with groups } m).2 else bumpRoute (remoteStore { s with groups } m).2 79) := by
  obtain ⟨groups, hdeliver, htaken, -⟩ := deliverFreed_of_arrives h
  refine ⟨groups, htaken, ?_⟩
  rw [Gives, exec_dispatch, execDispatch, whileClocked_of_clock h.1, if_neg (by rwa [remoteWaits_iff]), hdeliver]
  rfl

theorem dispatch_stores (h : Arrives s group.val 0x19 m) (htakes : TakesRemote s m)
    (hfault : rangeFault s (some m.dpart.val) m.addr.toNat (m.body.take m.plen).length true = none)
    (hfree : Unimpeded s none m.addr.toNat (max m.plen (m.body.take m.plen).length)) (hwf : Memory.wf s.mem = true) :
    ∃ u t, Gives (.dispatch group m) s t ∧ Taken t group.val m ∧ OnlyLookups s u ∧
      t = { u with groups := t.groups, mem := t.mem, bad := t.bad } ∧ Stores s t m.addr.toNat (m.body.take m.plen) := by
  have hmax : max m.plen (m.body.take m.plen).length = m.plen := max_eq_left (List.length_take_le ..)
  have hopen : spanHeld s m.addr.toNat m.plen = false := by
    rw [← hmax]
    exact hfree.1
  obtain ⟨groups, htaken, hgives⟩ := dispatch_gives h (by rw [hopen]; exact fun hheld => Bool.false_ne_true hheld.2)
  obtain ⟨t, hstore, hafter, hstores⟩ := remoteStore_stores (s := { s with groups }) htakes hfault hfree hwf
  rw [hstore] at hgives
  refine ⟨{ t with groups := s.groups, mem := s.mem }, t, hgives, taken_of_afterStores hafter htaken, ⟨?_, hafter.2⟩, rfl, hstores⟩
  rw [hafter.frame]

theorem dispatch_refused (h : Arrives s group.val 0x19 m) (hno : ¬TakesRemote s m) :
    ∃ t, Gives (.dispatch group m) s t ∧ Taken t group.val m ∧ t.mem = s.mem ∧
      tabGet 0 t.routeCounters 79 = tabGet 0 s.routeCounters 79 + 1 := by
  obtain ⟨groups, htaken, hgives⟩ := dispatch_gives h fun hheld => hno hheld.1
  rw [remoteStore_of_not_takes (s := { s with groups }) hno, if_neg Bool.false_ne_true] at hgives
  exact ⟨_, hgives, htaken, rfl, bumpRoute_counter ..⟩

/-- A WRITE that does not wait is taken, whatever its store meets, and its WRITE_ACK takes the next number of VC 7. -/
theorem write_acknowledges (h : Arrives s group.val 0x1A m) (hwf : Memory.wf s.mem = true)
    (hgo : TakesRemote s m → spanHeld s m.addr.toNat m.plen = false) :
    ∃ t, Gives (.write group m) s t ∧ Taken t group.val m ∧
      (TakesRemote s m → rangeFault s (some m.dpart.val) m.addr.toNat (m.body.take m.plen).length true = none →
        Unimpeded s none m.addr.toNat (max m.plen (m.body.take m.plen).length) → Stores s t m.addr.toNat (m.body.take m.plen)) ∧
      (¬TakesRemote s m → t.mem = s.mem) ∧
      tabGet 0 (t.groupAt group.val).nextSeq 7 = tabGet 0 (s.groupAt group.val).nextSeq 7 + 1 := by
  obtain ⟨seen, freed, hdeliver, hmem⟩ := deliverFreed_takes h
  obtain ⟨x, hx⟩ : ∃ x, x = { s.groupAt group.val with seen, freed } := ⟨_, rfl⟩
  rw [← hx] at hdeliver
  have hno : ¬remoteWaits s m = true := fun hwaits => by
    rw [remoteWaits_iff] at hwaits
    exact Bool.false_ne_true ((hgo hwaits.1).symm.trans hwaits.2)
  have hafter := remoteStore_afterStores (s.setGroup group.val x) m
  have hgroup : (remoteStore (s.setGroup group.val x) m).2.groupAt group.val = x := by
    rw [State.groupAt, hafter.groups_eq]
    exact groupAt_setGroup ..
  have hgives := exec_write group m s
  rw [execWrite, whileClocked_of_clock h.1, if_neg hno, hdeliver] at hgives
  refine ⟨_, hgives, ?_, fun htakes hfault hfree => ?_, fun hrefused => ?_, ?_⟩
  · rw [Taken, send_seen, hgroup, hx]
    exact hmem
  · obtain ⟨t, hstore, -, hstores⟩ := remoteStore_stores (s := s.setGroup group.val x) htakes hfault hfree hwf
    rw [Stores, (send_onlyLinks ..).mem_eq, hstore]
    exact hstores
  · rw [(send_onlyLinks ..).mem_eq, remoteStore_of_not_takes (s := s.setGroup group.val x) hrefused]
    rfl
  · rw [send_nextSeq, hgroup, hx]
    exact tabGet_tabSet_same ..

end remote

end Sys2Proof.Machine
end

section
/-!
What each message does as it arrives (09_route R275, R276, R279, R280, R299, R300; 10_streams R318): the bales, surveys and acknowledgements of the
ring, and the messages of streams that are acknowledged or fail.
-/

namespace Sys2Proof.Machine

open Sys2Proof.Claims

section ring

variable {s : State} {group : Fin 3} {m : Message}

/-- A BALE or GRAD stands in the serai. -/
theorem serai_gives {c : Instr} {type vc : Nat} (h : Arrives s group.val type m)
    (hc : exec c s = whileClocked s (onMessage s (toSerai s group.val type m) id)) (hvc : typeVc type = some vc) (h2 : 2 ≤ vc) (h4 : vc ≤ 4)
    (hroom : ((s.groupAt group.val).serai.map msgFlits).sum + msgFlits m ≤ 131072) :
    ∃ t, Gives c s t ∧ t = { s with groups := t.groups } ∧ Taken t group.val m ∧
      (t.groupAt group.val).serai = (s.groupAt group.val).serai ++ [m] := by
  obtain ⟨seen, hserai, hmem⟩ := toSerai_takes h hvc h2 h4 hroom
  refine ⟨_, ?_, rfl, taken_setGroup (x := { s.groupAt group.val with seen, serai := (s.groupAt group.val).serai ++ [m] }) hmem, ?_⟩
  · rw [Gives, hc, whileClocked_of_clock h.1, hserai]
    rfl
  · rw [groupAt_setGroup]

/-- A SURVEY stands in the serai, and goes on unless the next member is its origin. -/
theorem survey_gives (h : Arrives s group.val 0x12 m) (hroom : ((s.groupAt group.val).serai.map msgFlits).sum + msgFlits m ≤ 131072) :
    ∃ t, Gives (.survey group m) s t ∧ Taken t group.val m ∧ (t.groupAt group.val).serai = (s.groupAt group.val).serai ++ [m] ∧
      t.ring = s.ring ∧ t.mem = s.mem ∧
      (s.ring.members.length ≤ 1 ∨ m.head.getD 0 0 = (s.ring.position.toNat + 1) % s.ring.members.length → t = { s with groups := t.groups }) := by
  obtain ⟨seen, hserai, hmem⟩ := toSerai_takes h (vc := 3) rfl (by decide) (by decide) hroom
  have htaken := taken_setGroup (s := s) (g := group.val) (x := { s.groupAt group.val with seen, serai := (s.groupAt group.val).serai ++ [m] }) hmem
  have hgives := exec_survey group m s
  rw [execSurvey, whileClocked_of_clock h.1, hserai] at hgives
  dsimp only [onMessage] at hgives
  split at hgives
  next hstays =>
    refine ⟨_, hgives, htaken, ?_, rfl, rfl, fun _ => rfl⟩
    rw [groupAt_setGroup]
  next hgoes =>
    refine ⟨_, hgives, ?_, ?_, (send_onlyLinks ..).ring_eq, (send_onlyLinks ..).mem_eq, fun hends => absurd hends ?_⟩
    · rw [Taken, send_seen]
      exact htaken
    · rw [send_serai, groupAt_setGroup]
    · rw [not_or, setGroup_ring] at hgoes
      obtain ⟨hnext, hlong⟩ := hgoes
      rw [Nat.max_eq_left (by omega)] at hnext
      exact not_or.mpr ⟨hlong, hnext⟩

theorem hopEnd_gives (h : Arrives s group.val 0x11 m) :
    ∃ t, Gives (.hopEnd group m) s t ∧ t = { s with groups := t.groups, ring := { s.ring with hopBales := t.ring.hopBales } } ∧
      Taken t group.val m ∧ ∀ i, tabGet 0 t.ring.hopBales i = if i = m.head.getD 0 0 then m.head.getD 1 0 else tabGet 0 s.ring.hopBales i := by
  obtain ⟨groups, hdeliver, htaken, -⟩ := deliverFreed_of_arrives h
  have hgives := exec_hopEnd group m s
  rw [execHopEnd, whileClocked_of_clock h.1, hdeliver] at hgives
  exact ⟨_, hgives, rfl, htaken, fun i => tabGet_tabSet ..⟩

theorem baleAck_gives (h : Arrives s group.val 0x0B m) :
    ∃ t, Gives (.baleAck group m) s t ∧ t = { s with groups := t.groups, ring := { s.ring with unacked := t.ring.unacked } } ∧
      Taken t group.val m ∧ t.ring.unacked = s.ring.unacked.filter fun q => q.toNat != m.head.getD 1 0 := by
  obtain ⟨groups, hdeliver, htaken, -⟩ := deliverFreed_of_arrives h
  have hgives := exec_baleAck group m s
  rw [execBaleAck, whileClocked_of_clock h.1, hdeliver] at hgives
  exact ⟨_, hgives, rfl, htaken, rfl⟩

end ring

/-! ### Messages of streams that fail (R300; 10_streams R318) -/

section failing

/-- Slot `k` of an active stream waits for the message. -/
def Awaits (s : State) (k : Nat) (id : MsgId) : Prop :=
  id ∈ (tabGet {} s.slots k).sent ∧ ((tabGet {} s.slots k).state = 2 ∨ (tabGet {} s.slots k).state = 3)

/-- The slot of a stream that has failed. -/
def failedSlot (x : Slot) (code : Code) : Slot := { faultSlot x code with unacked := [], writeAcks := [] }

variable {s : State} {id : MsgId} {code : Code}

theorem mem_keys_of_tabGet_ne {α : Type} {d : α} {t : Tab α} {k : Nat} (h : tabGet d t k ≠ d) : k ∈ t.map Prod.fst := by
  induction t with
  | nil => exact absurd rfl h
  | cons e r ih =>
    obtain ⟨j, v⟩ := e
    rw [tabGet] at h
    split at h
    next hj => simp [hj]
    next => exact List.mem_cons_of_mem _ (ih h)

theorem awaits_iff (k : Nat) : ((tabGet {} s.slots k).sent.contains id && ((tabGet {} s.slots k).state == 2 || (tabGet {} s.slots k).state == 3)) =
    true ↔ Awaits s k id := by
  simp [Awaits]

theorem Awaits.mem_keys {k : Nat} (h : Awaits s k id) : k ∈ s.slots.map Prod.fst :=
  mem_keys_of_tabGet_ne fun hempty => by
    rw [Awaits, hempty] at h
    simp at h

theorem failMessage_of_none (h : ∀ k, ¬Awaits s k id) : failMessage s id code = s := by
  have hnone : (s.slots.map Prod.fst).find? (fun k => (tabGet {} s.slots k).sent.contains id &&
      ((tabGet {} s.slots k).state == 2 || (tabGet {} s.slots k).state == 3)) = none :=
    List.find?_eq_none.mpr fun k _ => by rw [awaits_iff]; exact h k
  rw [failMessage]
  dsimp only
  rw [hnone]

/-- The one slot that waits for a message ends in FAULT, which is logged on the message's group. -/
theorem failMessage_of_awaits {k : Nat} (h : Awaits s k id) (hone : ∀ j, Awaits s j id → j = k) :
    failMessage s id code = logGroup { s with slots := tabSet s.slots k (failedSlot (tabGet {} s.slots k) code) } id.group code := by
  have hsome : (s.slots.map Prod.fst).find? (fun k => (tabGet {} s.slots k).sent.contains id &&
      ((tabGet {} s.slots k).state == 2 || (tabGet {} s.slots k).state == 3)) = some k := by
    cases hfind : (s.slots.map Prod.fst).find? (fun k => (tabGet {} s.slots k).sent.contains id &&
      ((tabGet {} s.slots k).state == 2 || (tabGet {} s.slots k).state == 3)) with
    | none => exact absurd ((awaits_iff k).mpr h) (List.find?_eq_none.mp hfind k h.mem_keys)
    | some j =>
      have hj := List.find?_some hfind
      rw [awaits_iff] at hj
      rw [hone j hj]
  rw [failMessage]
  dsimp only
  rw [hsome]
  rfl

/-- A message that fails changes the slots and the log alone. -/
theorem failMessage_frame (s : State) (id : MsgId) (code : Code) : failMessage s id code = { s with
    slots := (failMessage s id code).slots, free := (failMessage s id code).free, pcie := (failMessage s id code).pcie
    log := (failMessage s id code).log, logHead := (failMessage s id code).logHead } := by
  unfold failMessage
  dsimp only
  split
  · rfl
  · rw [logGroup_frame]

theorem failMessage_mem : (failMessage s id code).mem = s.mem := by rw [failMessage_frame]

theorem failMessage_ring : (failMessage s id code).ring = s.ring := by rw [failMessage_frame]

theorem failMessage_taken {g : Nat} {m : Message} (h : Taken s g m) : Taken (failMessage s id code) g m := by
  rw [Taken, State.groupAt, failMessage_frame]
  exact h

theorem upPorts_head_group (s : State) (g : Nat) : ((upPorts s g).headD (8 * g)) / 8 = g := by
  cases hup : upPorts s g with
  | nil => simp
  | cons n rest =>
    have hn : n ∈ upPorts s g := hup ▸ List.mem_cons_self
    simp only [upPorts, groupPorts, List.mem_filter, List.mem_map, List.mem_range] at hn
    simp only [List.headD_cons]
    omega

/-- The slot that a message fails, and the record of it on the message's group. -/
theorem failMessage_fails {k : Nat} (h : Awaits s k id) (hone : ∀ j, Awaits s j id → j = k) :
    (∃ n, Logs s (failMessage s id code) code 3 n ∧ n / 8 = id.group) ∧
      ∀ j, tabGet {} (failMessage s id code).slots j = if j = k then failedSlot (tabGet {} s.slots k) code else tabGet {} s.slots j := by
  rw [failMessage_of_awaits h hone]
  refine ⟨⟨_, logLink_logs { s with slots := tabSet s.slots k (failedSlot (tabGet {} s.slots k) code) } 3 _ _ code, upPorts_head_group _ _⟩, fun j => ?_⟩
  rw [logGroup_frame]
  exact tabGet_tabSet ..

end failing

section acknowledgements

variable {s : State} {group : Fin 3} {m : Message}

/-- The slots once the message is acknowledged: none waits for it. -/
def acknowledged (slots : Tab Slot) (id : MsgId) : Tab Slot :=
  slots.map fun e => (e.1, { e.2 with writeAcks := e.2.writeAcks.filter fun q => q != id })

theorem tabGet_acknowledged (slots : Tab Slot) (id : MsgId) (k : Nat) :
    tabGet {} (acknowledged slots id) k =
      { tabGet {} slots k with writeAcks := (tabGet {} slots k).writeAcks.filter fun q => q != id } := by
  induction slots with
  | nil => rfl
  | cons e r ih =>
    obtain ⟨j, x⟩ := e
    simp only [acknowledged, List.map_cons, tabGet] at ih ⊢
    split
    · rfl
    · exact ih

/-- What an instruction leaves that fails the message `id` with `code`. -/
def FailsMessage (c : Instr) (s : State) (g : Nat) (m : Message) (id : MsgId) (code : Code) : Prop :=
  ∃ t, Gives c s t ∧ Taken t g m ∧ t.mem = s.mem ∧ t.ring = s.ring ∧ ((∀ k, ¬Awaits s k id) → t = { s with groups := t.groups }) ∧
    ∀ k, Awaits s k id → (∀ j, Awaits s j id → j = k) → (∃ n, Logs s t code 3 n ∧ n / 8 = id.group) ∧
      ∀ j, tabGet {} t.slots j = if j = k then failedSlot (tabGet {} s.slots k) code else tabGet {} s.slots j

theorem failsMessage_of_exec {c : Instr} {groups : Tab Group} {id : MsgId} {code : Code}
    (hexec : exec c s = .next (failMessage { s with groups } id code)) (htaken : Taken { s with groups } group.val m) :
    FailsMessage c s group.val m id code := by
  refine ⟨_, hexec, failMessage_taken htaken, failMessage_mem, failMessage_ring, fun hnone => ?_, fun k hk hone => ?_⟩
  · rw [failMessage_of_none (s := { s with groups }) hnone]
  · exact failMessage_fails (s := { s with groups }) hk hone

theorem writeAck_gives (h : Arrives s group.val 0x1B m) {id : MsgId} {code : Code} (hid : id = ⟨group.val, 7, BitVec.ofNat 32 (m.head.getD 0 0)⟩)
    (hcode : code = BitVec.ofNat 16 (m.head.getD 1 0)) :
    (code = 0 → ∃ t, Gives (.writeAck group m) s t ∧ t = { s with groups := t.groups, slots := t.slots } ∧ Taken t group.val m ∧
      t.slots = acknowledged s.slots id) ∧
    (code ≠ 0 → FailsMessage (.writeAck group m) s group.val m id code) := by
  obtain ⟨groups, hdeliver, htaken, -⟩ := deliverFreed_of_arrives h
  have hgives := exec_writeAck group m s
  rw [execWriteAck, whileClocked_of_clock h.1, hdeliver] at hgives
  dsimp only [onMessage] at hgives
  rw [← hid, ← hcode] at hgives
  refine ⟨fun hzero => ?_, fun hfails => ?_⟩
  · rw [if_neg (not_not.mpr hzero)] at hgives
    exact ⟨_, hgives, rfl, htaken, rfl⟩
  · rw [if_pos hfails] at hgives
    exact failsMessage_of_exec hgives htaken

theorem unreach_gives (h : Arrives s group.val 0x04 m) :
    FailsMessage (.unreach group m) s group.val m ⟨group.val, m.head.getD 1 0 % 8, BitVec.ofNat 32 (m.head.getD 7 0)⟩ 0x3005 := by
  obtain ⟨groups, hdeliver, htaken, -⟩ := deliverFreed_of_arrives h
  have hgives := exec_unreach group m s
  rw [execUnreach, whileClocked_of_clock h.1, hdeliver] at hgives
  exact failsMessage_of_exec hgives htaken

end acknowledgements

end Sys2Proof.Machine
end

section
/-!
O24: what each message does as it arrives, put together from the messages' own lemmas.
-/

namespace Sys2Proof.Machine

open Sys2Proof.Claims

/-- Settles O24: a message whose number has been taken changes nothing, as its delivery gives none; each other type has a lemma of its own. -/
theorem messagesTakeEffect : Obligations.MessagesTakeEffect := by
  unfold Obligations.MessagesTakeEffect
  intro s group m c type hrow g a bs room id hit takes failed Fails
  refine ⟨gives_self_of_seen hrow, fun harr => ⟨?serai, ?survey, ?hopEnd, ?baleAck, ?want, ?held, ?wantHeld, ?dispatch, ?write, ?writeAck, ?unreach⟩⟩
  case serai =>
    intro hc hroom
    simp only [List.mem_cons, List.not_mem_nil, or_false] at hc
    rcases hc with rfl | rfl
    · obtain rfl : type = 0x10 := by simpa using hrow
      exact serai_gives (vc := 2) harr (exec_bale ..) rfl (by decide) (by decide) hroom
    · obtain rfl : type = 0x13 := by simpa using hrow
      exact serai_gives (vc := 4) harr (exec_grad ..) rfl (by decide) (by decide) hroom
  case survey =>
    rintro rfl hroom
    obtain rfl : type = 0x12 := by simpa using hrow
    exact survey_gives harr hroom
  case hopEnd =>
    rintro rfl
    obtain rfl : type = 0x11 := by simpa using hrow
    exact hopEnd_gives harr
  case baleAck =>
    rintro rfl
    obtain rfl : type = 0x0B := by simpa using hrow
    exact baleAck_gives harr
  case want =>
    rintro rfl hwf k htask hfault hfree
    obtain rfl : type = 0x18 := by simpa using hrow
    exact want_writes harr hwf htask hfault hfree
  case held =>
    intro hc htakes hheld
    simp only [List.mem_cons, List.not_mem_nil, or_false] at hc
    rcases hc with rfl | rfl
    · exact dispatch_waits htakes hheld
    · exact write_waits htakes hheld
  case wantHeld =>
    rintro rfl hheld
    exact want_waits hheld
  case dispatch =>
    rintro rfl
    obtain rfl : type = 0x19 := by simpa using hrow
    exact ⟨dispatch_stores harr, dispatch_refused harr⟩
  case write =>
    rintro rfl hwf hgo
    obtain rfl : type = 0x1A := by simpa using hrow
    exact write_acknowledges harr hwf hgo
  case writeAck =>
    rintro rfl
    obtain rfl : type = 0x1B := by simpa using hrow
    intro q code
    obtain ⟨hacknowledges, hfails⟩ := writeAck_gives harr (id := q) (code := code) rfl rfl
    refine ⟨fun hzero => ?_, hfails⟩
    obtain ⟨t, hgives, hframe, htaken, hslots⟩ := hacknowledges hzero
    exact ⟨t, hgives, hframe, htaken, fun k => by rw [hslots, tabGet_acknowledged]⟩
  case unreach =>
    rintro rfl
    obtain rfl : type = 0x04 := by simpa using hrow
    exact unreach_gives harr

end Sys2Proof.Machine
end

section
/-!
The ring forms and is left (09_route R287, R289, R290): REFORM and LEAVE of RING_CTL, RING_CHECK as it arrives, and the time limit on forming.
-/

namespace Sys2Proof.Machine

open Sys2Proof.Claims

theorem exec_reform (who : Agent) (v : Reg32) (s : State) : exec (.reform who v) s = rowWrite s who 0x100200 v (v.getLsbD 31) := rfl
theorem exec_leave (who : Agent) (v : Reg32) (s : State) : exec (.leave who v) s = rowWrite s who 0x100200 v (v.getLsbD 30) := rfl
theorem exec_ringCheck (group : Fin 3) (m : Message) (s : State) : exec (.ringCheck group m) s = execRingCheck group m s := rfl
theorem exec_ringFormTimeout (s : State) : exec .ringFormTimeout s = execRingFormTimeout s := rfl

/-! ### RING_CTL (R287) -/

section control

variable {s : State} {who : Agent} {v : Reg32}

/-- The members of a ring that forms: the entries of the ring table. -/
def tableMembers (s : State) : List (BitVec 16) := (List.range s.ring.len.toNat).map fun k => memberEntry s k

/-- The ring table describes a ring that this part is in. -/
def ValidTable (s : State) : Prop :=
  1 ≤ s.ring.len.toNat ∧ s.ring.len.toNat ≤ 1024 ∧ (tableMembers s).Nodup ∧ s.trust.locRack ∈ tableMembers s

/-- The place of this part in the ring table. -/
def ownIndex (s : State) : Nat := (tableMembers s).findIdx fun m => m == ownLoc s

/-- The registers of a ring that starts to form. -/
def formingRing (s : State) : Ring :=
  { s.ring with
    members := tableMembers s, position := BitVec.ofNat 10 (ownIndex s), state := 1, code := 0, formingSince := s.time, checkSent := false
    checkGot := [] }

theorem tableMembers_length (s : State) : (tableMembers s).length = s.ring.len.toNat := by simp [tableMembers]

theorem ownIndex_lt (h : ValidTable s) : ownIndex s < s.ring.len.toNat := by
  rw [← tableMembers_length]
  exact List.findIdx_lt_length_of_exists ⟨_, h.2.2.2, beq_self_eq_true _⟩

/-- The member at this part's place is this part. -/
theorem tableMembers_ownIndex (h : ValidTable s) : (tableMembers s)[ownIndex s]? = some s.trust.locRack := by
  have hlt : ownIndex s < (tableMembers s).length := (ownIndex_lt h).trans_eq (tableMembers_length s).symm
  have hown := List.findIdx_getElem (p := fun m => m == ownLoc s) (w := hlt)
  rw [List.getElem?_eq_getElem hlt]
  exact congrArg some (eq_of_beq hown)

theorem formingRing_position (h : ValidTable s) : (formingRing s).position.toNat = ownIndex s := by
  have hlt := ownIndex_lt h
  obtain ⟨-, hlen, -⟩ := h
  change (BitVec.ofNat 10 (ownIndex s)).toNat = _
  rw [BitVec.toNat_ofNat, Nat.mod_eq_of_lt (by omega)]

theorem validTable_iff : ¬(s.ring.len.toNat < 1 ∨ 1024 < s.ring.len.toNat ∨ (!decide (tableMembers s).Nodup) = true ∨
    (!(tableMembers s).contains (ownLoc s)) = true) ↔ ValidTable s := by
  simp [ValidTable, ownLoc, Nat.one_le_iff_ne_zero]

theorem ringReform_eq (s : State) : ringReform s =
    if s.ring.state = 1 then s
    else if s.ring.task.isSome then { s with ring := { s.ring with code := 0x3008 } }
    else if s.ring.len.toNat < 1 ∨ 1024 < s.ring.len.toNat ∨ (!decide (tableMembers s).Nodup) = true ∨
      (!(tableMembers s).contains (ownLoc s)) = true then becomeFailed s 0x3002
    else if s.ring.len.toNat = 1 then becomeFormed (setRing s (formingRing s)) else tryCheck (setRing s (formingRing s)) := rfl

theorem ringReform_of_task (hstate : s.ring.state ≠ 1) (htask : s.ring.task ≠ none) :
    ringReform s = { s with ring := { s.ring with code := 0x3008 } } := by
  rw [ringReform_eq, if_neg hstate, if_pos (Option.isSome_iff_ne_none.mpr htask)]

theorem ringReform_of_invalid (hstate : s.ring.state ≠ 1) (htask : s.ring.task = none) (h : ¬ValidTable s) :
    ringReform s = becomeFailed s 0x3002 := by
  rw [ringReform_eq, if_neg hstate, if_neg (by simp [htask]), if_pos (not_not.mp (mt validTable_iff.mp h))]

theorem ringReform_of_valid (hstate : s.ring.state ≠ 1) (htask : s.ring.task = none) (h : ValidTable s) :
    ringReform s = if s.ring.len.toNat = 1 then becomeFormed (setRing s (formingRing s)) else tryCheck (setRing s (formingRing s)) := by
  rw [ringReform_eq, if_neg hstate, if_neg (by simp [htask]), if_neg (validTable_iff.mpr h)]

/-- Without a RING_CHECK received, one that goes out decides nothing. -/
theorem tryCheck_keeps (hgot : s.ring.checkGot = []) :
    (tryCheck s).ring.state = s.ring.state ∧ (tryCheck s).ring.code = s.ring.code ∧ (tryCheck s).ring.members = s.ring.members ∧
      (tryCheck s).ring.position = s.ring.position := by
  rw [tryCheck_eq]
  split
  · exact ⟨rfl, rfl, rfl, rfl⟩
  · split
    · exact ⟨rfl, rfl, rfl, rfl⟩
    next g _ =>
      rw [checkSentOn_ring, hgot, List.find?_nil]
      dsimp only
      rw [checkSentOn_ring]
      exact ⟨rfl, rfl, rfl, rfl⟩

theorem ringLeave_of_forming (hstate : s.ring.state = 1) : ringLeave s = s := if_pos hstate
theorem ringReform_of_forming (hstate : s.ring.state = 1) : ringReform s = s := if_pos hstate

theorem ringLeave_of_task (hstate : s.ring.state ≠ 1) (htask : s.ring.task ≠ none) :
    ringLeave s = { s with ring := { s.ring with code := 0x3008 } } := by
  rw [ringLeave, if_neg hstate, if_pos (Option.isSome_iff_ne_none.mpr htask)]

theorem ringLeave_of_free (hstate : s.ring.state ≠ 1) (htask : s.ring.task = none) :
    ringLeave s = setRing s { s.ring with state := 0 } := by
  rw [ringLeave, if_neg hstate, if_neg (by simp [htask])]

/-- A write of RING_CTL by one that may write it. -/
theorem ringCtl_gives {c : Instr} {row : Bool} (hc : exec c s = rowWrite s who 0x100200 v row) (hrow : row = true)
    (hside : isHubSide who = true ∨ isHost who = true) (hr : Reaches s who 0x100200) : Gives c s (ringCtlWrite s v) := by
  have hok : (isHubSide who || isHost who) = true := by simpa using hside
  rw [Gives, hc, hrow, rowWrite_hub_of_reaches hr (by decide), hubRegWrite_route s who (by decide) (by decide), routeRegWrite]
  dsimp only
  rw [if_neg (by decide), if_pos rfl, if_pos hok]

theorem reform_gives (hside : isHubSide who = true ∨ isHost who = true) (hr : Reaches s who 0x100200) (hreform : v.getLsbD 31 = true)
    (hleave : v.getLsbD 30 = false) : Gives (.reform who v) s (ringReform s) := by
  have hgives := ringCtl_gives (exec_reform who v s) hreform hside hr
  rwa [ringCtlWrite, hleave, hreform, if_neg Bool.false_ne_true, if_pos rfl] at hgives

theorem leave_gives (hside : isHubSide who = true ∨ isHost who = true) (hr : Reaches s who 0x100200) (hleave : v.getLsbD 30 = true)
    (hreform : v.getLsbD 31 = false) : Gives (.leave who v) s (ringLeave s) := by
  have hgives := ringCtl_gives (exec_leave who v s) hleave hside hr
  rwa [ringCtlWrite, hleave, hreform, if_neg Bool.false_ne_true, if_pos rfl] at hgives

/-- While the ring forms, RING_CTL changes nothing. -/
theorem leave_of_forming (hside : isHubSide who = true ∨ isHost who = true) (hr : Reaches s who 0x100200) (hleave : v.getLsbD 30 = true)
    (hstate : s.ring.state = 1) : Gives (.leave who v) s s := by
  have hgives := ringCtl_gives (exec_leave who v s) hleave hside hr
  rwa [ringCtlWrite, ringLeave_of_forming hstate, ite_self, ringReform_of_forming hstate, ite_self] at hgives

/-- A ring of one part forms at once. -/
theorem ringReform_of_one (hstate : s.ring.state ≠ 1) (htask : s.ring.task = none) (h : ValidTable s) (hone : s.ring.len.toNat = 1) :
    (ringReform s).ring.state = 2 ∧ (ringReform s).ring.code = 0 ∧ (ringReform s).ring.members = tableMembers s ∧
      (ringReform s).ring.position = 0 ∧ (ringReform s).ring.formedId = s.ring.ringId ∧ (ringReform s).ring.barrier = 0 := by
  have hposition : (formingRing s).position = 0 := by
    have hlt := ownIndex_lt h
    refine BitVec.eq_of_toNat_eq ?_
    rw [formingRing_position h]
    change _ = 0
    omega
  rw [ringReform_of_valid hstate htask h, if_pos hone, becomeFormed_ring, formedRing, setRing_ring]
  exact ⟨rfl, rfl, rfl, hposition, rfl, rfl⟩

/-- A longer ring waits for the RING_CHECK of its neighbour. -/
theorem ringReform_of_longer (hstate : s.ring.state ≠ 1) (htask : s.ring.task = none) (h : ValidTable s) (hlong : 2 ≤ s.ring.len.toNat) :
    (ringReform s).ring.state = 1 ∧ (ringReform s).ring.code = 0 ∧ (ringReform s).ring.members = tableMembers s ∧
      (tableMembers s)[(ringReform s).ring.position.toNat]? = some s.trust.locRack := by
  have hkeeps := tryCheck_keeps (s := setRing s (formingRing s)) (by rw [setRing_ring]; rfl)
  rw [setRing_ring] at hkeeps
  obtain ⟨hst, hcode, hmembers, hposition⟩ := hkeeps
  rw [ringReform_of_valid hstate htask h, if_neg (by omega)]
  refine ⟨hst, hcode, hmembers, ?_⟩
  rw [hposition, formingRing_position h]
  exact tableMembers_ownIndex h

end control

/-! ### RING_CHECK and the time limit (R289, R290) -/

section check

variable {s : State} {group : Fin 3} {m : Message}

theorem decideCheck_of_hash {h : Nat} (hhash : h = (ringHash s.ring.ringId s.ring.members).toNat) :
    (decideCheck s h).ring = formedRing s := by
  rw [decideCheck, if_pos hhash, becomeFormed_ring]

theorem decideCheck_of_other {h : Nat} (hhash : h ≠ (ringHash s.ring.ringId s.ring.members).toNat) :
    (decideCheck s h).ring = { s.ring with state := 4, code := 0x3004 } := by
  rw [decideCheck, if_neg hhash, becomeFailed_ring]

theorem upGroup_eq (s : State) : upGroup s = if s.ring.downGroup then 0 else 1 := by
  unfold upGroup downGroup
  split <;> rfl

/-- A RING_CHECK from upstream decides, once this part's own has gone out. -/
theorem ringCheck_decides (h : Arrives s group.val 0x02 m) (hgroup : group.val ≠ 2) (hstate : s.ring.state = 1)
    (hsent : s.ring.checkSent = true) (hup : group.val = if s.ring.downGroup then 0 else 1) :
    ∃ groups, Gives (.ringCheck group m) s (decideCheck { s with groups } (m.head.getD 0 0)) := by
  obtain ⟨groups, hdeliver, -, -⟩ := deliverFreed_of_arrives h
  have hfrom : group.val = upGroup { s with groups } := hup.trans (upGroup_eq { s with groups }).symm
  refine ⟨groups, ?_⟩
  rw [Gives, exec_ringCheck, execRingCheck, whileClocked_of_clock h.1, if_neg hgroup, hdeliver]
  dsimp only [onMessage]
  rw [if_neg (not_not.mpr hstate), if_neg (by simp [hsent]), if_pos hfrom]

/-- Before that it is kept. -/
theorem ringCheck_keeps (h : Arrives s group.val 0x02 m) (hgroup : group.val ≠ 2) (hstate : s.ring.state = 1)
    (hsent : s.ring.checkSent = false) :
    ∃ t, Gives (.ringCheck group m) s t ∧ t.ring = { s.ring with checkGot := tabSet s.ring.checkGot group.val (m.head.getD 0 0) } := by
  obtain ⟨groups, hdeliver, -, -⟩ := deliverFreed_of_arrives h
  have hgives := exec_ringCheck group m s
  rw [execRingCheck, whileClocked_of_clock h.1, if_neg hgroup, hdeliver] at hgives
  dsimp only [onMessage] at hgives
  rw [if_neg (not_not.mpr hstate), if_pos (by simp [hsent])] at hgives
  exact ⟨_, hgives, rfl⟩

theorem ringFormTimeout_gives (hcore : coreClocks s = true) (hstate : s.ring.state = 1)
    (hlate : s.ring.formingSince.toNat + 10000000 ≤ s.time.toNat) :
    Gives .ringFormTimeout s (becomeFailed s (if s.ring.checkSent then 0x3004 else 0x3003)) := by
  rw [Gives, exec_ringFormTimeout, execRingFormTimeout, whileClocked_of_clock hcore, hstate, decide_eq_true hlate]
  rfl

end check

end Sys2Proof.Machine
end

section
/-!
A teardown leaves the ring but for the caravan task, and the context that it makes FAULTED stays so (12_partitions R374; 01_caravan R31).
-/

namespace Sys2Proof.Machine

open Sys2Proof.Claims

/-- The ring stands, and context `c` stays FAULTED with its code where it is. -/
structure KeepsFault (c : Fin 64) (s t : State) : Prop where
  ring_eq : t.ring = s.ring
  ctx_eq : (s.ctxAt c.val).state = 6 → (t.ctxAt c.val).state = 6 ∧ (t.ctxAt c.val).fault = (s.ctxAt c.val).fault

namespace KeepsFault

variable {c : Fin 64} {s t u : State}

theorem refl (s : State) : KeepsFault c s s := ⟨rfl, fun h => ⟨h, rfl⟩⟩

theorem trans (h : KeepsFault c s t) (h' : KeepsFault c t u) : KeepsFault c s u := by
  refine ⟨h'.ring_eq.trans h.ring_eq, fun h6 => ?_⟩
  obtain ⟨hstate, hfault⟩ := h.ctx_eq h6
  obtain ⟨hstate', hfault'⟩ := h'.ctx_eq hstate
  exact ⟨hstate', hfault'.trans hfault⟩

theorem foldl {ι : Type} {f : State → ι → State} (hf : ∀ t i, KeepsFault c t (f t i)) (l : List ι) (s : State) :
    KeepsFault c s (l.foldl f s) :=
  l.foldlRecOn f (motive := KeepsFault c s) (.refl s) fun _ ht _ _ => ht.trans (hf _ _)

theorem of_eq (hctx : t.contexts = s.contexts) (hring : t.ring = s.ring) : KeepsFault c s t := by
  refine ⟨hring, fun h6 => ?_⟩
  rw [State.ctxAt, hctx]
  exact ⟨h6, rfl⟩

theorem of_keepsTasks (h : KeepsTasks s t) : KeepsFault c s t := .of_eq h.2.1 h.2.2

/-- A context that becomes `x` is another one, or not FAULTED before, or FAULTED after with the same code. -/
theorem setCtx {i : Nat} {x : Context}
    (h : i = c.val → (s.ctxAt i).state = 6 → x.state = 6 ∧ x.fault = (s.ctxAt i).fault) : KeepsFault c s (s.setCtx i x) := by
  refine ⟨rfl, fun h6 => ?_⟩
  by_cases hi : i = c.val
  · subst hi
    rw [ctxAt_setCtx]
    exact h rfl h6
  · rw [ctxAt_setCtx_ne _ _ _ _ (Ne.symm hi)]
    exact ⟨h6, rfl⟩

theorem modCtx {i : Nat} {f : Context → Context} (hf : ∀ x, (f x).state = x.state ∧ (f x).fault = x.fault) : KeepsFault c s (s.modCtx i f) :=
  .setCtx fun _ h6 => ⟨(hf _).1.trans h6, (hf _).2⟩

end KeepsFault

section steps

variable {c : Fin 64} (s : State)

theorem reserveEc_keepsFault (e : Nat) : KeepsFault c s (reserveEc s e) := .of_eq rfl rfl

/-- Only a context that yields, so is not FAULTED, goes back to RUNNING. -/
theorem withdrawYields_keepsFault (b : Fin 64) : KeepsFault c s (withdrawYields s b) := by
  refine KeepsFault.foldl (fun t h => ?_) _ s
  dsimp only
  split
  next hyields =>
    simp only [Bool.and_eq_true, beq_iff_eq] at hyields
    obtain ⟨⟨hstate, -⟩, -⟩ := hyields
    refine KeepsFault.trans (t := t.setCtx h.val { t.ctxAt h.val with state := 4, yieldCause := none }) (.setCtx fun _ h6 => ?_) ?_
    · rw [hstate] at h6
      cases h6
    · have hcleared : ∀ l : List Nat, ∃ stewards, l.foldl (fun u e =>
          (u.modSteward (2 * e) fun y => { y with tempoReq := false }).modSteward (2 * e + 1) fun y => { y with tempoReq := false }) t =
          { t with stewards } := fun l => l.foldlRecOn _ (motive := fun u => ∃ stewards, u = { t with stewards }) ⟨_, rfl⟩ fun u hu e _ => by
            obtain ⟨_, rfl⟩ := hu
            exact ⟨_, rfl⟩
      obtain ⟨stewards, hcleared⟩ := hcleared (boundEcs t h)
      rw [hcleared]
      exact .of_eq rfl rfl
  · exact .refl t

theorem leaveReady_keepsFault (b : Fin 64) : KeepsFault c s (leaveReady s b) := by
  refine (withdrawYields_keepsFault s b).trans (KeepsFault.foldl (fun t e => ?_) _ _)
  split
  · exact reserveEc_keepsFault ..
  · exact .refl t

theorem setGroup_keepsFault (g : Nat) (x : Group) : KeepsFault c s (s.setGroup g x) := .of_eq rfl rfl
theorem setPort_keepsFault (n : Nat) (x : Port) : KeepsFault c s (s.setPort n x) := .of_eq rfl rfl
theorem giveCredits_keepsFault (g vc n : Nat) : KeepsFault c s (giveCredits s g vc n) := setGroup_keepsFault ..

theorem recallPort_keepsFault (u i n : Nat) : KeepsFault c s (recallPort s u i n) :=
  (setPort_keepsFault s n { s.portAt n with transmit := (s.portAt n).transmit.filter fun m => !(unbegun (s.portAt n) u i).contains m }).trans
    (KeepsFault.foldl (fun t _ => giveCredits_keepsFault t _ _ _) _ _)

theorem recallMessages_keepsFault (u i : Nat) : KeepsFault c s (recallMessages s u i) := by
  refine KeepsFault.foldl (fun t g => ?_) _ s
  have hports : KeepsFault c t ((groupPorts g).foldl (fun v n => recallPort v u i n) t) :=
    KeepsFault.foldl (fun v n => recallPort_keepsFault v u i n) _ t
  exact hports.trans (setGroup_keepsFault ..)

theorem logWrite_keepsFault (r : LogRec) : KeepsFault c s (logWrite s r) := .of_keepsTasks (.of_afterLookups (logWrite_afterLookups ..))

theorem pairIncrease_keepsFault (e n : Nat) (free : Bool) (k : Nat) : KeepsFault c s (pairIncrease s e n free k).1 := .of_eq rfl rfl

theorem signalWritten_keepsFault (x : Slot) : KeepsFault c s (signalWritten s x) := by
  unfold signalWritten
  split
  · exact .refl s
  · dsimp only
    split
    · exact (pairIncrease_keepsFault ..).trans (logWrite_keepsFault ..)
    · exact pairIncrease_keepsFault ..

theorem abortSlot_keepsFault (u i : Nat) (code : Code) : KeepsFault c s (abortSlot s u i code) := by
  unfold abortSlot
  dsimp only
  exact ((recallMessages_keepsFault s u i).trans (signalWritten_keepsFault ..)).trans (.of_eq rfl rfl)

theorem abortStreams_keepsFault (b : Fin 64) (code : Code) : KeepsFault c s (abortStreams s b code) := by
  unfold abortStreams
  dsimp only
  refine KeepsFault.trans (KeepsFault.foldl (fun t _ => ?_) s.slots s) (.of_eq rfl rfl)
  split
  · exact abortSlot_keepsFault ..
  · exact .refl t

theorem hubStore_keepsFault (q : Req) (a : Nat) (bs : List Byte) : KeepsFault c s (hubStore s q a bs) := .of_keepsTasks (hubStore_keepsTasks ..)

theorem removeCommand_keepsFault (port : Nat) (r : MacroRec) : KeepsFault c s (removeCommand s port r) := by
  obtain ⟨⟨ecs, unitQueues, hleft⟩, -⟩ := leaveQueues_onlyQueues s port r
  have hqueues : KeepsFault c s (retire (leaveQueues s port r) r.issuer.val) := by
    rw [hleft]
    exact .of_eq rfl rfl
  obtain ⟨dies, hubMacros, hout⟩ := withoutMacro_onlyMacros (retire (leaveQueues s port r) r.issuer.val) port r
  have hmacros : KeepsFault c (retire (leaveQueues s port r) r.issuer.val) (removeCommand s port r) := by
    change KeepsFault c _ (withoutMacro (retire (leaveQueues s port r) r.issuer.val) port r)
    rw [hout]
    exact .of_eq rfl rfl
  exact hqueues.trans hmacros

theorem abortCommands_keepsFault (b : Fin 64) (code : Code) (port : Nat) : KeepsFault c s (abortCommands s b code port) := by
  refine .foldl (fun t r => ?_) _ s
  unfold abortCommand
  dsimp only
  split
  · exact (hubStore_keepsFault ..).trans (removeCommand_keepsFault ..)
  · exact removeCommand_keepsFault ..

theorem endTorn_keepsFault (b : Fin 64) (code : Code) (x : TaskRegs) : KeepsFault c s (endTorn s b code x) := by
  unfold endTorn
  split
  · exact .refl s
  · refine (KeepsFault.of_keepsTasks (writeTaskRecord_keepsTasks s (some b) x code)).trans ?_
    dsimp only
    split
    · exact (KeepsFault.of_keepsTasks (hubVector_keepsTasks ..)).trans (.modCtx fun _ => ⟨rfl, rfl⟩)
    · exact .modCtx fun _ => ⟨rfl, rfl⟩

theorem tearTask_keepsFault (b : Fin 64) (code : Code) (e i : Nat) : KeepsFault c s (tearTask s b code e i) :=
  (endTorn_keepsFault ..).trans (.of_eq rfl rfl)

theorem tearSaved_keepsFault (b : Fin 64) (code : Code) : KeepsFault c s (tearSaved s b code) :=
  (KeepsFault.foldl (f := fun (t : State) (x : Nat × TaskRegs) => endTorn t b code x.2) (fun t x => endTorn_keepsFault t b code x.2) _ s).trans
    (.modCtx fun _ => ⟨rfl, rfl⟩)

theorem releaseEc_keepsFault (e : Nat) : KeepsFault c s (releaseEc s e) := .of_eq rfl rfl

theorem dropLab_keepsFault (p : Nat) : KeepsFault c s (dropLab s p) :=
  .foldl (f := fun (u : State) (d : Nat) => u.modDie d fun y => { y with lab := y.lab.filter fun l => l.part != p }) (fun _ _ => .of_eq rfl rfl) _ s

theorem putRecord_keepsFault (n off : Nat) (bs : List Byte) : KeepsFault c s (putRecord s n off bs) := by
  unfold putRecord
  split
  · exact .refl s
  · exact hubStore_keepsFault ..

theorem changeQueues_keepsFault (f : Nat × Queue → Queue) : KeepsFault c s (changeQueues s f) := by
  unfold changeQueues
  have hqueues : KeepsFault c s { s with queues := s.queues.map fun e => (e.1, f e) } := .of_eq rfl rfl
  refine hqueues.trans (KeepsFault.foldl ?_ _ _)
  exact fun t e => putRecord_keepsFault ..

end steps

/-! ### The caravan task -/

/-- The ring once the caravan task has ended. -/
def endedRing (r : Ring) : Ring :=
  { r with
    task := none, step := 0, finalRelease := none, heldEnds := [], wants := [], surveys := [], surveySent := 0, wantsSent := 0, manifest := []
    manifestWritten := false, hopBales := [], hopSent := (0, 0), delivered := [], unacked := [], caravanArea := [] }

theorem dropCaravan_frame (s : State) (c : Fin 64) : dropCaravan s c = { s with ring := (dropCaravan s c).ring } := by
  unfold dropCaravan
  split <;> rfl

theorem dropCaravan_ring (s : State) (c : Fin 64) :
    (dropCaravan s c).ring = if s.ring.task = some c then endedRing s.ring else s.ring := by
  by_cases htask : s.ring.task = some c
  · rw [dropCaravan, if_pos (by simpa using htask), if_pos htask, endedRing]
  · rw [dropCaravan, if_neg (by simpa using htask), if_neg htask]

/-- A teardown of a context that is not FAULTED makes it so, and ends the caravan task where it is this context's. -/
theorem teardown_faults {s : State} {c : Fin 64} (h : (s.ctxAt c.val).state ≠ 6) (code : Code) :
    (teardown s c code).ring = (if s.ring.task = some c then endedRing s.ring else s.ring) ∧
      ((teardown s c code).ctxAt c.val).state = 6 ∧ ((teardown s c code).ctxAt c.val).fault = code := by
  unfold teardown
  extract_lets x t0 t1 t2 t3 ecs t4 t5 t6 t7 t8 t9
  rw [if_neg h]
  have h0 : t0.ring = s.ring ∧ (t0.ctxAt c.val).state = 6 ∧ (t0.ctxAt c.val).fault = code := by
    refine ⟨rfl, ?_, ?_⟩ <;> rw [ctxAt_setCtx]
  have h1 : KeepsFault c t0 t1 := by
    unfold t1
    split
    · exact leaveReady_keepsFault ..
    · exact .refl _
  have h3 : KeepsFault c t1 t3 :=
    (abortStreams_keepsFault ..).trans (.foldl (fun _ _ => abortCommands_keepsFault ..) _ _)
  have h4 : KeepsFault c t3 t4 :=
    (tearSaved_keepsFault ..).trans (.foldl (fun _ _ => (tearTask_keepsFault ..).trans (tearTask_keepsFault ..)) _ _)
  have h5 : KeepsFault c t4 t5 := KeepsFault.foldl (fun u e => releaseEc_keepsFault u e) ecs t4
  clear_value t5
  have h6 : KeepsFault c t5 t6 := .of_eq rfl rfl
  have h7 : t7 = { t6 with ring := t7.ring } := dropCaravan_frame t6 c
  have hring7 : t7.ring = if t6.ring.task = some c then endedRing t6.ring else t6.ring := dropCaravan_ring t6 c
  have hctx7 : t7.ctxAt c.val = t6.ctxAt c.val := by rw [h7]; rfl
  have h9 : KeepsFault c t7 t9 := (dropLab_keepsFault ..).trans (changeQueues_keepsFault ..)
  have hend : KeepsFault c t9 (if x.savePages = 0 then t9 else hubStore t9 (hubReq (some c)) (saveBase x + 8) (natLe 4 0)) := by
    split
    · exact .refl t9
    · exact hubStore_keepsFault ..
  obtain ⟨hring0, hstate0, hfault0⟩ := h0
  have hto6 := (((h1.trans h3).trans h4).trans h5).trans h6
  have hfrom7 := h9.trans hend
  obtain ⟨hstate6, hfault6⟩ := hto6.ctx_eq hstate0
  obtain ⟨hstate, hfault⟩ := hfrom7.ctx_eq (by rw [hctx7]; exact hstate6)
  refine ⟨?_, hstate, ?_⟩
  · rw [hfrom7.ring_eq, hring7, hto6.ring_eq, hring0]
  · rw [hfault, hctx7, hfault6, hfault0]

/-- A teardown of a FAULTED context leaves the ring. -/
theorem teardown_ring_of_faulted {s : State} {c : Fin 64} (h : (s.ctxAt c.val).state = 6) (code : Code) :
    (teardown s c code).ring = s.ring := by
  unfold teardown
  extract_lets x t0 t1 t2 t3 ecs t4 t5 t6 t7 t8 t9
  rw [if_pos h]
  split <;> rfl

theorem teardown_ring (s : State) (c : Fin 64) (code : Code) :
    (teardown s c code).ring = s.ring ∨ (teardown s c code).ring = endedRing s.ring := by
  by_cases h : (s.ctxAt c.val).state = 6
  · exact .inl (teardown_ring_of_faulted h code)
  · rw [(teardown_faults h code).1]
    split
    · exact .inr rfl
    · exact .inl rfl

end Sys2Proof.Machine
end

section
/-!
A ring that breaks (09_route R289, R290; 01_caravan R31): its registers, the waits of its barriers, its record of the log, and its caravan task.
-/

namespace Sys2Proof.Machine

open Sys2Proof.Claims

theorem exec_partnerVanish (side : Fin 2) (s : State) : exec (.partnerVanish side) s = execPartnerVanish side s := rfl
theorem exec_abort (group : Fin 3) (m : Message) (s : State) : exec (.abort group m) s = execAbort group m s := rfl

/-! ### Waits that end -/

section waits

variable {s : State} {k : Nat}

/-- A wait that ends writes rd, and the steward runs on. -/
theorem endWait_eq (s : State) (k : Nat) (rd : BitVec 5) (v : Word64) :
    ∃ g pc instret c f, endWait s k rd v =
        { s.setSteward k { s.stewardAt k with g, run := .running, pc, instret, cycle := c } with free := f } ∧
      ∀ r : BitVec 5, ({ s.stewardAt k with g } : Steward).reg r = if r = 0 then 0 else if r = rd then v else (s.stewardAt k).reg r := by
  have hruns : (s.modSteward k fun x => { x with run := .running }.setReg rd v) =
      (s.setSteward k { s.stewardAt k with run := .running }).modSteward k fun x => x.setReg rd v := by
    simp only [State.modSteward, stewardAt_setSteward, setSteward_setSteward]
  obtain ⟨g, c, f, heq, hreg, -⟩ := setReg_retireTo_eq (s.setSteward k { s.stewardAt k with run := .running }) k rd v none
    (((s.modSteward k fun x => { x with run := .running }.setReg rd v).stewardAt k).pc + 4)
  rw [← hruns] at heq
  simp only [stewardAt_setSteward, setSteward_setSteward] at heq hreg
  exact ⟨g, _, _, c, f, heq, hreg⟩

/-- The wait of a steward at a ring-scope barrier ends with `code`. -/
def endRingWait (code : Word64) (t : State) (k : Nat) : State :=
  match (t.stewardAt k).run with
  | .ringBarrier rd => endWait t k rd code
  | _ => t

theorem endRingWaits_eq (s : State) (code : Word64) : endRingWaits s code = (between 256 264).foldl (endRingWait code) s := rfl

theorem endRingWait_cases (code : Word64) (s : State) (k : Nat) :
    endRingWait code s k = s ∨ ∃ x f, endRingWait code s k = { s.setSteward k x with free := f } := by
  unfold endRingWait
  split
  next rd _ =>
    obtain ⟨g, pc, instret, c, f, heq, -⟩ := endWait_eq s k rd code
    exact .inr ⟨_, f, heq⟩
  · exact .inl rfl

theorem endRingWait_stewardAt_ne {i : Nat} (h : i ≠ k) (code : Word64) (s : State) : (endRingWait code s k).stewardAt i = s.stewardAt i := by
  obtain hsame | ⟨x, f, heq⟩ := endRingWait_cases code s k
  · rw [hsame]
  · rw [heq]
    exact tabGet_tabSet_ne _ _ _ _ _ h

theorem endRingWaits_frame (s : State) (code : Word64) :
    endRingWaits s code = { s with stewards := (endRingWaits s code).stewards, free := (endRingWaits s code).free } := by
  have hframe : ∃ stewards free, endRingWaits s code = { s with stewards, free } :=
    (between 256 264).foldlRecOn (endRingWait code) (motive := fun t => ∃ stewards free, t = { s with stewards, free }) ⟨_, _, rfl⟩
      fun _ ht k _ => by
        obtain ⟨stewards, free, rfl⟩ := ht
        obtain hsame | ⟨x, f, heq⟩ := endRingWait_cases code { s with stewards, free } k
        · exact ⟨_, _, hsame⟩
        · exact ⟨_, _, heq⟩
  obtain ⟨stewards, free, heq⟩ := hframe
  rw [heq]

theorem foldl_endRingWait_stewardAt {l : List Nat} (hk : k ∉ l) (code : Word64) (s : State) :
    (l.foldl (endRingWait code) s).stewardAt k = s.stewardAt k :=
  foldl_view_of_not_mem (I := fun _ => True) (v := fun t => t.stewardAt k) (fun _ _ _ => trivial)
    (fun t _ _ hi => endRingWait_stewardAt_ne (Ne.symm hi) code t) hk trivial

/-- Each steward's wait ends as it would alone. -/
theorem endRingWaits_writesReg {rd : BitVec 5} (hlo : 256 ≤ k) (hhi : k < 264) (hrun : (s.stewardAt k).run = .ringBarrier rd) (code : Word64) :
    WritesReg (s.stewardAt k) ((endRingWaits s code).stewardAt k) rd code ∧ ((endRingWaits s code).stewardAt k).run = .running := by
  have hnodup : (between 256 264).Nodup := by decide
  have hmem : k ∈ between 256 264 := by
    simp only [between, List.mem_map, List.mem_range]
    exact ⟨k - 256, by omega, by omega⟩
  obtain ⟨before, after, hsplit⟩ := List.append_of_mem hmem
  rw [hsplit, List.nodup_middle, List.nodup_cons, List.mem_append, not_or] at hnodup
  obtain ⟨⟨hbefore, hafter⟩, -⟩ := hnodup
  obtain ⟨t, ht⟩ : ∃ t, t = before.foldl (endRingWait code) s := ⟨_, rfl⟩
  have hsame : t.stewardAt k = s.stewardAt k := by
    rw [ht]
    exact foldl_endRingWait_stewardAt hbefore code s
  have hown : endRingWait code t k = endWait t k rd code := by
    rw [endRingWait, hsame, hrun]
  obtain ⟨g, pc, instret, c, f, heq, hreg⟩ := endWait_eq t k rd code
  have hends : (endRingWaits s code).stewardAt k = { s.stewardAt k with g, run := .running, pc, instret, cycle := c } := by
    rw [endRingWaits_eq, hsplit, List.foldl_append, List.foldl_cons, foldl_endRingWait_stewardAt hafter, ← ht, hown, heq, ← hsame]
    exact tabGet_tabSet_same ..
  rw [hends]
  rw [hsame] at hreg
  exact ⟨hreg, rfl⟩

end waits

/-! ### The break -/

section breaks

variable {s : State} {d : CTime}

theorem keepEarlier_spec (o : Option CTime) (d : CTime) :
    ∃ e, keepEarlier o d = some e ∧ e.toNat ≤ d.toNat ∧ ∀ x, o = some x → e.toNat ≤ x.toNat := by
  cases o with
  | none => exact ⟨d, rfl, le_rfl, nofun⟩
  | some x =>
    by_cases hle : x.toNat ≤ d.toNat
    · exact ⟨x, if_pos hle, hle, fun y hy => by cases hy; exact le_rfl⟩
    · exact ⟨d, if_neg hle, le_rfl, fun y hy => by cases hy; omega⟩

/-- The registers of a ring that has broken. -/
def brokenRing (r : Ring) (d : CTime) : Ring := { r with state := 3, code := 0x3001, detection := keepEarlier r.detection d, arrived := false }

/-- The ring has broken, and the waits of its barriers have ended. -/
def waitsEnded (s : State) (d : CTime) : State := endRingWaits (setRing s (brokenRing s.ring d)) 0x3001

/-- The break is in the log. -/
def breakLogged (s : State) (d : CTime) : State :=
  logLink (waitsEnded s d) 0 0 (8 * downGroup (setRing s (brokenRing s.ring d))) 0x3001

theorem breakRing_eq (s : State) (d : CTime) : breakRing s d = judgeTask (breakLogged s d) d := rfl

theorem waitsEnded_frame (s : State) (d : CTime) :
    waitsEnded s d = { s with
      ring := brokenRing s.ring d, pcie := (waitsEnded s d).pcie, stewards := (waitsEnded s d).stewards, free := (waitsEnded s d).free } := by
  unfold waitsEnded
  rw [endRingWaits_frame, setRing_frame]

theorem breakLogged_frame (s : State) (d : CTime) :
    breakLogged s d = { s with
      ring := brokenRing s.ring d, pcie := (breakLogged s d).pcie, stewards := (waitsEnded s d).stewards, free := (breakLogged s d).free
      log := (breakLogged s d).log, logHead := (breakLogged s d).logHead } := by
  unfold breakLogged
  rw [logLink_frame, waitsEnded_frame]

theorem breakLogged_ring : (breakLogged s d).ring = brokenRing s.ring d := by rw [breakLogged_frame]

theorem breakLogged_contexts : (breakLogged s d).contexts = s.contexts := by rw [breakLogged_frame]

theorem breakLogged_logs : Logs s (breakLogged s d) 0x3001 0 0 := by
  have hlogs := logLink_logs (waitsEnded s d) 0 0 (8 * downGroup (setRing s (brokenRing s.ring d))) 0x3001
  rw [Logs, show (waitsEnded s d).logHead = s.logHead by rw [waitsEnded_frame]] at hlogs
  exact hlogs

theorem breakLogged_stewards {k : Nat} {rd : BitVec 5} (hlo : 256 ≤ k) (hhi : k < 264) (hrun : (s.stewardAt k).run = .ringBarrier rd) :
    WritesReg (s.stewardAt k) ((breakLogged s d).stewardAt k) rd 0x3001 ∧ ((breakLogged s d).stewardAt k).run = .running := by
  have hset : (setRing s (brokenRing s.ring d)).stewardAt k = s.stewardAt k := by
    rw [setRing_frame]
    rfl
  have hends := endRingWaits_writesReg (s := setRing s (brokenRing s.ring d)) hlo hhi (by rw [hset]; exact hrun) 0x3001
  have hlogged : (breakLogged s d).stewardAt k = (waitsEnded s d).stewardAt k := by
    rw [breakLogged_frame]
    rfl
  rw [hset] at hends
  rw [hlogged]
  exact hends

theorem judgeTask_of_none (htask : s.ring.task = none) : judgeTask s d = s := by
  rw [judgeTask, htask]

theorem judgeTask_ring (s : State) (d : CTime) : (judgeTask s d).ring = s.ring ∨ (judgeTask s d).ring = endedRing s.ring := by
  unfold judgeTask
  split
  · split
    · exact teardown_ring ..
    · exact .inl rfl
  · exact .inl rfl

/-- A caravan task with a layer to run is torn down. -/
theorem judgeTask_of_layer {c : Fin 64} (htask : s.ring.task = some c) (hlayer : s.ring.layer < max 1 (s.ctxAt c.val).layers.length) :
    judgeTask s d = teardown s c 0x3001 := by
  have hrest : layersDone s = false := by
    rw [layersDone, layerCount, htask]
    exact decide_eq_false (not_le.mpr hlayer)
  have haborts : taskAborts s d = true := by
    rw [taskAborts, hrest]
    rfl
  simp only [judgeTask, htask, haborts, if_true]

/-- Whatever becomes of the task, the ring is BROKEN. -/
theorem breakRing_state (s : State) (d : CTime) : (breakRing s d).ring.state = 3 ∧ (breakRing s d).ring.code = 0x3001 := by
  rw [breakRing_eq]
  obtain hring | hring := judgeTask_ring (breakLogged s d) d
  · rw [hring, breakLogged_ring]
    exact ⟨rfl, rfl⟩
  · rw [hring, breakLogged_ring]
    exact ⟨rfl, rfl⟩

end breaks

/-! ### A partner that vanishes -/

section partner

variable {s : State} {side : Fin 2}

/-- ABORT has gone out of the other group, and to every other member. -/
def vanishSent (s : State) (side : Fin 2) : State :=
  (s.ring.members.filter fun m => m != ownLoc s).foldl (fun u m => send u 2 (abortMessage u false m s.time))
    (send s (1 - side.val) (abortMessage s true 0 s.time))

theorem vanishSent_onlyLinks (s : State) (side : Fin 2) : OnlyLinks s (vanishSent s side) :=
  (send_onlyLinks ..).trans (.foldl (fun _ _ => send_onlyLinks ..) _ _)

/-- The group's partner has changed, or its link has been lost too long. -/
def PartnerGone (s : State) (side : Fin 2) : Prop :=
  (s.groupAt side.val).changed = true ∨ ∃ d, (s.groupAt side.val).lostSince = some d ∧ d.toNat + 200000 ≤ s.time.toNat

theorem partnerVanish_gives (hcore : coreClocks s = true) (hstate : s.ring.state = 2) (hlong : 2 ≤ s.ring.members.length)
    (hgone : PartnerGone s side) : Gives (.partnerVanish side) s (breakRing (vanishSent s side) s.time) := by
  have hdue : ((s.groupAt side.val).changed || match (s.groupAt side.val).lostSince with
      | some t => decide (t.toNat + 200000 ≤ s.time.toNat)
      | none => false) = true := by
    rcases hgone with hchanged | ⟨d, hlost, hlate⟩
    · rw [hchanged, Bool.true_or]
    · rw [hlost]
      simp [hlate]
  rw [Gives, exec_partnerVanish, execPartnerVanish, whileClocked_of_clock hcore]
  exact if_pos ⟨by rw [ringCarries, hstate]; rfl, hlong, hdue⟩

/-- A ring without a caravan task breaks. -/
theorem partnerVanish_breaks (hcore : coreClocks s = true) (hstate : s.ring.state = 2) (hlong : 2 ≤ s.ring.members.length)
    (htask : s.ring.task = none) (hgone : PartnerGone s side) :
    ∃ t, Gives (.partnerVanish side) s t ∧ t.ring.state = 3 ∧ t.ring.code = 0x3001 ∧ t.ring.arrived = false ∧ Logs s t 0x3001 0 0 ∧
      ∀ k rd, 256 ≤ k → k < 264 → (s.stewardAt k).run = .ringBarrier rd →
        WritesReg (s.stewardAt k) (t.stewardAt k) rd 0x3001 ∧ (t.stewardAt k).run = .running := by
  have hgives := partnerVanish_gives hcore hstate hlong hgone
  obtain ⟨u, hu⟩ : ∃ u, vanishSent s side = u := ⟨_, rfl⟩
  have hsent := vanishSent_onlyLinks s side
  rw [hu] at hsent hgives
  have hring : u.ring = s.ring := hsent.ring_eq
  have hnone : (breakLogged u s.time).ring.task = none := by
    rw [breakLogged_ring, hring]
    exact htask
  rw [breakRing_eq, judgeTask_of_none hnone] at hgives
  have hlogs := breakLogged_logs (s := u) (d := s.time)
  have hstewards := fun k rd => breakLogged_stewards (s := u) (d := s.time) (k := k) (rd := rd)
  refine ⟨_, hgives, ?_, ?_, ?_, ?_, fun k rd hlo hhi hrun => ?_⟩
  · rw [breakLogged_ring]; rfl
  · rw [breakLogged_ring]; rfl
  · rw [breakLogged_ring]; rfl
  · rw [Logs, show u.logHead = s.logHead by rw [hsent]] at hlogs
    exact hlogs
  · have hsame : u.stewardAt k = s.stewardAt k := by rw [hsent]; rfl
    rw [← hsame] at hrun ⊢
    exact hstewards k rd hlo hhi hrun

/-- A ring breaks with its caravan task, whose context ends in FAULT. -/
theorem partnerVanish_faults {c : Fin 64} (hcore : coreClocks s = true) (hstate : s.ring.state = 2) (hlong : 2 ≤ s.ring.members.length)
    (htask : s.ring.task = some c) (hctx : (s.ctxAt c.val).state ≠ 6) (hlayer : s.ring.layer < max 1 (s.ctxAt c.val).layers.length)
    (hgone : PartnerGone s side) :
    ∃ t, Gives (.partnerVanish side) s t ∧ t.ring = endedRing (brokenRing s.ring s.time) ∧ (t.ctxAt c.val).state = 6 ∧
      (t.ctxAt c.val).fault = 0x3001 := by
  have hgives := partnerVanish_gives hcore hstate hlong hgone
  obtain ⟨u, hu⟩ : ∃ u, vanishSent s side = u := ⟨_, rfl⟩
  have hsent := vanishSent_onlyLinks s side
  rw [hu] at hsent hgives
  have hbroken : (breakLogged u s.time).ring = brokenRing s.ring s.time := by rw [breakLogged_ring, hsent.ring_eq]
  have hsame : (breakLogged u s.time).ctxAt c.val = s.ctxAt c.val := by
    rw [State.ctxAt, breakLogged_contexts, show u.contexts = s.contexts by rw [hsent]]
    rfl
  have htask' : (breakLogged u s.time).ring.task = some c := by
    rw [hbroken]
    exact htask
  rw [breakRing_eq, judgeTask_of_layer htask' (by rw [hbroken, hsame]; exact hlayer)] at hgives
  obtain ⟨hring, hfaulted, hcode⟩ := teardown_faults (s := breakLogged u s.time) (c := c) (by rw [hsame]; exact hctx) 0x3001
  rw [htask', if_pos rfl, hbroken] at hring
  exact ⟨_, hgives, hring, hfaulted, hcode⟩

end partner

/-! ### ABORT -/

section abort

variable {s : State} {group : Fin 3} {m : Message}

/-- ABORT goes on, out of the other groups. -/
def abortPassed (s : State) (group : Fin 3) (d : CTime) : State :=
  (([0, 1] : List Nat).filter fun g => g != group.val).foldl (fun u g => send u g (abortMessage u true 0 d)) s

/-- The time of the break that an ABORT carries. -/
def abortTime (m : Message) : CTime := BitVec.ofNat 64 (m.head.getD 1 0)

/-- The part keeps the earlier time of the break. -/
def detectionKept (s : State) (d : CTime) : State := { s with ring := { s.ring with detection := keepEarlier s.ring.detection d } }

theorem abort_eq (h : Arrives s group.val 0x03 m) :
    ∃ groups, exec (.abort group m) s = .next
      (if ringCarries { s with groups } = true then breakRing (abortPassed { s with groups } group (abortTime m)) (abortTime m)
      else if s.ring.state = 3 then judgeTask (detectionKept { s with groups } (abortTime m)) (abortTime m)
      else { s with groups }) := by
  obtain ⟨groups, hdeliver, -, -⟩ := deliverFreed_of_arrives h
  refine ⟨groups, ?_⟩
  rw [exec_abort, execAbort, whileClocked_of_clock h.1, hdeliver]
  rfl

theorem abort_breaks (h : Arrives s group.val 0x03 m) (hstate : s.ring.state = 2) :
    ∃ t, Gives (.abort group m) s t ∧ t.ring.state = 3 ∧ t.ring.code = 0x3001 := by
  obtain ⟨groups, heq⟩ := abort_eq h
  rw [if_pos (by rw [ringCarries]; simp [hstate])] at heq
  exact ⟨_, heq, breakRing_state ..⟩

/-- A BROKEN ring keeps the earlier time of its break. -/
theorem abort_of_broken (h : Arrives s group.val 0x03 m) (hstate : s.ring.state = 3) :
    ∃ t, Gives (.abort group m) s t ∧ (s.ring.task = none → t.ring = { s.ring with detection := t.ring.detection }) ∧
      t.ring.detection = keepEarlier s.ring.detection (abortTime m) := by
  obtain ⟨groups, heq⟩ := abort_eq h
  rw [if_neg (by rw [ringCarries]; simp [hstate]), if_pos hstate] at heq
  refine ⟨_, heq, fun htask => ?_, ?_⟩
  · rw [judgeTask_of_none (s := detectionKept { s with groups } (abortTime m)) htask]
    rfl
  · obtain hring | hring := judgeTask_ring (detectionKept { s with groups } (abortTime m)) (abortTime m)
    · rw [hring]
      rfl
    · rw [hring]
      rfl

theorem abort_otherwise (h : Arrives s group.val 0x03 m) (htwo : s.ring.state ≠ 2) (hthree : s.ring.state ≠ 3) :
    ∃ t, Gives (.abort group m) s t ∧ t.ring = s.ring := by
  obtain ⟨groups, heq⟩ := abort_eq h
  rw [if_neg (by rw [ringCarries]; simp [htwo]), if_neg hthree] at heq
  exact ⟨_, heq, rfl⟩

end abort

end Sys2Proof.Machine
end

section
/-!
O25: how a ring forms, is left and breaks, put together from the rows of RING_CTL, RING_CHECK, the limits, the vanished partner and ABORT.
-/

namespace Sys2Proof.Machine

open Sys2Proof.Claims

/-- Settles O25: RING_CTL acts on the ring table alone, RING_CHECK decides by the hash, and a break ends the waits of the barriers and judges the
caravan task, whose teardown leaves the rest of the ring. -/
theorem ringFormationAndBreak : Obligations.RingFormationAndBreak := by
  unfold Obligations.RingFormationAndBreak
  intro s who v group side m r l ms valid may hash
  refine ⟨?reform, ?leave, ?forming, ?check, ?timeout, ?vanish, ?task, ?abort⟩
  case reform =>
    rintro ⟨hside, hr⟩ hreform hleave hstate
    have hgives := reform_gives hside hr hreform hleave
    refine ⟨fun htask => ?_, fun htask hinvalid => ?_, fun htask hvalid hone => ?_, fun htask hvalid hlong => ?_⟩
    · rwa [ringReform_of_task hstate htask] at hgives
    · rw [ringReform_of_invalid hstate htask hinvalid] at hgives
      exact ⟨_, hgives, becomeFailed_ring ..⟩
    · exact ⟨_, hgives, ringReform_of_one hstate htask hvalid hone⟩
    · exact ⟨_, hgives, ringReform_of_longer hstate htask hvalid hlong⟩
  case leave =>
    rintro ⟨hside, hr⟩ hleave hreform hstate
    have hgives := leave_gives hside hr hleave hreform
    refine ⟨fun htask => ?_, fun htask => ?_⟩
    · rw [ringLeave_of_free hstate htask] at hgives
      exact ⟨_, hgives, setRing_ring .., by rw [setRing_frame]⟩
    · rwa [ringLeave_of_task hstate htask] at hgives
  case forming =>
    rintro ⟨hside, hr⟩ hstate hleave
    exact leave_of_forming hside hr hleave hstate
  case check =>
    intro harr hgroup hstate
    refine ⟨fun hsent hup => ?_, fun hsent => ?_⟩
    · obtain ⟨groups, hgives⟩ := ringCheck_decides harr hgroup hstate hsent hup
      refine ⟨fun hsame => ⟨_, hgives, ?_⟩, fun hother => ⟨_, hgives, decideCheck_of_other (s := { s with groups }) hother⟩⟩
      rw [decideCheck_of_hash (s := { s with groups }) hsame]
      exact ⟨rfl, rfl⟩
    · obtain ⟨t, hgives, hring⟩ := ringCheck_keeps harr hgroup hstate hsent
      refine ⟨t, hgives, ?_, ?_⟩ <;> rw [hring]
      exact find?_tabSet ..
  case timeout =>
    intro hcore hstate hlate
    exact ⟨_, ringFormTimeout_gives hcore hstate hlate, becomeFailed_ring ..⟩
  case vanish =>
    intro hcore hstate hlong htask hgone
    exact partnerVanish_breaks hcore hstate hlong htask hgone
  case task =>
    intro c hcore hstate hlong htask hctx hlayer hchanged
    obtain ⟨t, hgives, hring, hfaulted, hcode⟩ := partnerVanish_faults hcore hstate hlong htask hctx hlayer (.inl hchanged)
    refine ⟨t, hgives, ?_⟩
    rw [hring]
    exact ⟨rfl, rfl, rfl, rfl, rfl, hfaulted, hcode⟩
  case abort =>
    intro harr
    refine ⟨abort_breaks harr, fun hstate => ?_, abort_otherwise harr⟩
    obtain ⟨t, hgives, hring, hdetection⟩ := abort_of_broken harr hstate
    exact ⟨t, hgives, hring, hdetection ▸ keepEarlier_spec ..⟩

end Sys2Proof.Machine
end
